-- ==== Sys2Proof/Word.lean ====
section
/-! DEFINITION. The word types of the spec (spec/00 R5) and the plainest conversions on them. -/

namespace Sys2Proof

/-- A byte of 8 bits (spec/00 R5). -/
abbrev Byte := BitVec 8
/-- A dword of 64 bits: a g or x register, an address before its checks (spec/13 R249). -/
abbrev Word := BitVec 64
/-- A w register of 256 bits (spec/13 R249). -/
abbrev Wide := BitVec 256

end Sys2Proof
end

