-- ==== Sys2Proof/Syntax.lean ====
section
/-! DEFINITION. The instruction set and the steps of the other agents: one constructor for every row of
spec/opcode_table.json. A row with an encoding carries its operand fields (spec/13 R261, R263, R264); a row without one
is a step of another agent (spec/95) and carries which unit takes it, or which message it handles. -/

namespace Sys2Proof

/-- A g register in a 4-bit field (spec/13 R261). -/
abbrev GReg := BitVec 4
/-- A w register in a 3-bit field (spec/13 R261). -/
abbrev WReg := BitVec 3
/-- An x register in a 3-bit field (spec/13 R261). -/
abbrev XReg := BitVec 3

/-- A g register field with its take bit (spec/13 R251, R261). In a format-M instruction the d field is held in the same
form, since td is its take bit in either role (spec/13 R264). -/
structure GSrc where
  reg : GReg
  take : Bool
deriving DecidableEq, Repr

/-- A w register field with its take bit (spec/13 R251, R261). -/
structure WSrc where
  reg : WReg
  take : Bool
deriving DecidableEq, Repr

/-- What a site's self-test finds: whether every block passes, and the failing lanes as (column, lane) pairs
(spec/03 R43). -/
structure SelfTest where
  pass : Bool
  lanes : List (Nat × Nat)
deriving DecidableEq, Repr

/-- A debug token as submitted (spec/03 R50). -/
structure Token where
  serial : BitVec 128
  nonce : BitVec 256
  mask : BitVec 64
  perms : BitVec 32
  duration : BitVec 32
  sigEd : Nat
  sigMl : Nat
deriving DecidableEq, Repr

/-- What a peer-transport frame carries (spec/02 R39, R40, spec/07 R137): the answer to a remote read of ours, a refusal of
one or of a posted store of ours, or the other panel's own read or write of an address here. The frame's bits are not in the spec. -/
inductive Frame where
  | readAnswer (msg : Nat) (data : List Byte)
  | readRefused (msg : Nat)
  | writeRefused (msg : Nat)
  | readRequest (asid : BitVec 12) (va : BitVec 64) (len : Nat) (tag : Nat)
  | writeRequest (asid : BitVec 12) (va : BitVec 64) (data : List Byte) (tag : Nat)
deriving DecidableEq, Repr

/-- One bind record of a placement: the lead gardener's own policy chooses it (spec/05 R74, R79, R413). -/
structure PlaceRec where
  tile : Nat
  col : Nat
  first : Nat
  count : Nat
  budget : Nat
  cmask : BitVec 48
deriving DecidableEq, Repr

/-- Every row of spec/opcode_table.json: the encoded forms first, then JAL and FMT of 16 bits, then the steps of the other agents. -/
inductive Instr where
  /-- ADD, spec/R294: d := s1 + s2. -/
  | add (d : GReg) (a : GSrc) (b : GSrc)
  /-- SUB, spec/R294: d := s1 − s2. -/
  | sub (d : GReg) (a : GSrc) (b : GSrc)
  /-- MUL, spec/R294: d := low 64 bits of s1 × s2. -/
  | mul (d : GReg) (a : GSrc) (b : GSrc)
  /-- MULH, spec/R294: d := high 64 bits of the signed product. -/
  | mulh (d : GReg) (a : GSrc) (b : GSrc)
  /-- MULHN, spec/R294: d := high 64 bits of the unsigned product. -/
  | mulhn (d : GReg) (a : GSrc) (b : GSrc)
  /-- MADD, spec/R294: d := s1 × s2 + s3 modulo 2^64. -/
  | madd (d : GReg) (a : GSrc) (b : GSrc) (c : GSrc)
  /-- DIV, spec/R294: d := the signed quotient under SDivRem. -/
  | div (d : GReg) (a : GSrc) (b : GSrc)
  /-- DIVN, spec/R294: d := the unsigned quotient under UDivRem. -/
  | divn (d : GReg) (a : GSrc) (b : GSrc)
  /-- REM, spec/R294: d := the signed remainder. -/
  | rem (d : GReg) (a : GSrc) (b : GSrc)
  /-- REMN, spec/R294: d := the unsigned remainder. -/
  | remn (d : GReg) (a : GSrc) (b : GSrc)
  /-- AND, spec/R296: d := s1 AND s2. -/
  | and (d : GReg) (a : GSrc) (b : GSrc)
  /-- OR, spec/R296: d := s1 OR s2. -/
  | or (d : GReg) (a : GSrc) (b : GSrc)
  /-- XOR, spec/R296: d := s1 XOR s2. -/
  | xor (d : GReg) (a : GSrc) (b : GSrc)
  /-- ANDN, spec/R296: d := s1 AND NOT s2. -/
  | andn (d : GReg) (a : GSrc) (b : GSrc)
  /-- SLL, spec/R296: d := s1 shifted left by s2[5:0]. -/
  | sll (d : GReg) (a : GSrc) (b : GSrc)
  /-- SRL, spec/R296: d := s1 shifted right logically by s2[5:0]. -/
  | srl (d : GReg) (a : GSrc) (b : GSrc)
  /-- SRA, spec/R296: d := s1 shifted right arithmetically by s2[5:0]. -/
  | sra (d : GReg) (a : GSrc) (b : GSrc)
  /-- ROTL, spec/R296: d := s1 rotated left by s2[5:0]. -/
  | rotl (d : GReg) (a : GSrc) (b : GSrc)
  /-- MIN, spec/R298: d := the signed minimum. -/
  | min (d : GReg) (a : GSrc) (b : GSrc)
  /-- MAX, spec/R298: d := the signed maximum. -/
  | max (d : GReg) (a : GSrc) (b : GSrc)
  /-- MINN, spec/R298: d := the unsigned minimum. -/
  | minn (d : GReg) (a : GSrc) (b : GSrc)
  /-- MAXN, spec/R298: d := the unsigned maximum. -/
  | maxn (d : GReg) (a : GSrc) (b : GSrc)
  /-- SLT, spec/R298: d := 1 if s1 < s2 signed, otherwise 0. -/
  | slt (d : GReg) (a : GSrc) (b : GSrc)
  /-- SLTN, spec/R298: d := 1 if s1 < s2 unsigned, otherwise 0. -/
  | sltn (d : GReg) (a : GSrc) (b : GSrc)
  /-- SEQ, spec/R298: d := 1 if s1 = s2, otherwise 0. -/
  | seq (d : GReg) (a : GSrc) (b : GSrc)
  /-- SEL, spec/R298: d := s2 if s1 ≠ 0, otherwise s3, with all three sources read. -/
  | sel (d : GReg) (a : GSrc) (b : GSrc) (c : GSrc)
  /-- MOV, spec/R301: d := s1. -/
  | mov (d : GReg) (a : GSrc)
  /-- CLZ, spec/R299: d := the count of leading zero bits. -/
  | clz (d : GReg) (a : GSrc)
  /-- CTZ, spec/R299: d := the count of trailing zero bits. -/
  | ctz (d : GReg) (a : GSrc)
  /-- POPC, spec/R299: d := the count of set bits. -/
  | popc (d : GReg) (a : GSrc)
  /-- BREV, spec/R299: d := s1 with its bit order reversed. -/
  | brev (d : GReg) (a : GSrc)
  /-- BSWAP, spec/R299: d := s1 with its byte order reversed. -/
  | bswap (d : GReg) (a : GSrc)
  /-- SEXT_B, spec/R299: d := sign extension of the low 8 bits. -/
  | sextB (d : GReg) (a : GSrc)
  /-- SEXT_H, spec/R299: d := sign extension of the low 16 bits. -/
  | sextH (d : GReg) (a : GSrc)
  /-- SEXT_W, spec/R299: d := sign extension of the low 32 bits. -/
  | sextW (d : GReg) (a : GSrc)
  /-- ZEXT_B, spec/R299: d := zero extension of the low 8 bits. -/
  | zextB (d : GReg) (a : GSrc)
  /-- ZEXT_H, spec/R299: d := zero extension of the low 16 bits. -/
  | zextH (d : GReg) (a : GSrc)
  /-- ZEXT_W, spec/R299: d := zero extension of the low 32 bits. -/
  | zextW (d : GReg) (a : GSrc)
  /-- ADD_W, spec/R295: d := sign extension of the 32-bit sum. -/
  | addW (d : GReg) (a : GSrc) (b : GSrc)
  /-- SUB_W, spec/R295: d := sign extension of the 32-bit difference. -/
  | subW (d : GReg) (a : GSrc) (b : GSrc)
  /-- SLL_W, spec/R295: d := sign extension of the 32-bit left shift. -/
  | sllW (d : GReg) (a : GSrc) (b : GSrc)
  /-- SRL_W, spec/R295: d := sign extension of the 32-bit logical right shift. -/
  | srlW (d : GReg) (a : GSrc) (b : GSrc)
  /-- SRA_W, spec/R295: d := sign extension of the 32-bit arithmetic right shift. -/
  | sraW (d : GReg) (a : GSrc) (b : GSrc)
  /-- ADDI, spec/R297: d := s1 + sign-extended IMM12. -/
  | addi (d : GReg) (a : GSrc) (imm : BitVec 12)
  /-- ANDI, spec/R296: d := s1 AND the immediate. -/
  | andi (d : GReg) (a : GSrc) (imm : BitVec 12)
  /-- ORI, spec/R296: d := s1 OR the immediate. -/
  | ori (d : GReg) (a : GSrc) (imm : BitVec 12)
  /-- XORI, spec/R296: d := s1 XOR the immediate. -/
  | xori (d : GReg) (a : GSrc) (imm : BitVec 12)
  /-- SLLI, spec/R296: d := s1 shifted left by the immediate amount. -/
  | slli (d : GReg) (a : GSrc) (n : BitVec 6)
  /-- SRLI, spec/R296: d := s1 shifted right logically by the immediate amount. -/
  | srli (d : GReg) (a : GSrc) (n : BitVec 6)
  /-- SRAI, spec/R296: d := s1 shifted right arithmetically by the immediate amount. -/
  | srai (d : GReg) (a : GSrc) (n : BitVec 6)
  /-- ROTLI, spec/R296: d := s1 rotated left by the immediate amount. -/
  | rotli (d : GReg) (a : GSrc) (n : BitVec 6)
  /-- SLTI, spec/R297: d := 1 if s1 < imm signed, otherwise 0. -/
  | slti (d : GReg) (a : GSrc) (imm : BitVec 12)
  /-- BFX, spec/R300: d := sign-extended bit field of s1. -/
  | bfx (d : GReg) (a : GSrc) (p : BitVec 6) (k : BitVec 6)
  /-- BFXN, spec/R300: d := zero-extended bit field of s1. -/
  | bfxn (d : GReg) (a : GSrc) (p : BitVec 6) (k : BitVec 6)
  /-- BFI, spec/R300: Inserts the low bits of s1 into a field of d. -/
  | bfi (d : GReg) (a : GSrc) (p : BitVec 6) (k : BitVec 6)
  /-- JALR, spec/R304: Jumps to s1 + imm and writes the link into d. -/
  | jalr (d : GReg) (a : GSrc) (imm : BitVec 12)
  /-- LOOP, spec/R306: Decrements a nonzero count in d, and branches while the count stays nonzero. -/
  | loop (d : GReg) (imm : BitVec 12)
  /-- LUI, spec/R301: d := IMM21 × 2^12. -/
  | lui (d : GReg) (imm : BitVec 21)
  /-- AUIPC, spec/R301: d := PC + IMM21 × 2^12. -/
  | auipc (d : GReg) (imm : BitVec 21)
  /-- LI, spec/R301: d := sign-extended IMM21. -/
  | li (d : GReg) (imm : BitVec 21)
  /-- J, spec/R303: Jumps PC-relative. -/
  | j (off : BitVec 20)
  /-- JAL, spec/R303: Jumps PC-relative and writes the link into d. -/
  | jal (d : GReg) (off : BitVec 20)
  /-- BEQ, spec/R305: Branches if s1 = s2. -/
  | beq (a : GSrc) (b : GSrc) (off : BitVec 12)
  /-- BNE, spec/R305: Branches if s1 ≠ s2. -/
  | bne (a : GSrc) (b : GSrc) (off : BitVec 12)
  /-- BLT, spec/R305: Branches if s1 < s2 signed. -/
  | blt (a : GSrc) (b : GSrc) (off : BitVec 12)
  /-- BGE, spec/R305: Branches if s1 ≥ s2 signed. -/
  | bge (a : GSrc) (b : GSrc) (off : BitVec 12)
  /-- BLTN, spec/R305: Branches if s1 < s2 unsigned. -/
  | bltn (a : GSrc) (b : GSrc) (off : BitVec 12)
  /-- BGEN, spec/R305: Branches if s1 ≥ s2 unsigned. -/
  | bgen (a : GSrc) (b : GSrc) (off : BitVec 12)
  /-- BEQZ, spec/R305: Branches if s1 = 0. -/
  | beqz (a : GSrc) (off : BitVec 12)
  /-- BNEZ, spec/R305: Branches if s1 ≠ 0. -/
  | bnez (a : GSrc) (off : BitVec 12)
  /-- LD, spec/R319: Sign-extending ordered load that hits the rake buffer, migrates, reads remotely when pinned, or is served at home. -/
  | ld (d : GSrc) (base : GSrc) (sz : BitVec 2) (imm : BitVec 9)
  /-- LDN, spec/R319: Zero-extending ordered load. -/
  | ldn (d : GSrc) (base : GSrc) (sz : BitVec 2) (imm : BitVec 9)
  /-- LDR, spec/R320: Remote read into a g register that never migrates the strand. -/
  | ldr (d : GSrc) (base : GSrc) (sz : BitVec 2) (imm : BitVec 9)
  /-- VLD, spec/R319: 32-byte ordered load into a w register. -/
  | vld (d : WSrc) (base : GSrc) (imm : BitVec 9)
  /-- LDR_WIDE, spec/R320: 32-byte remote read into a w register. -/
  | ldrWide (d : WSrc) (base : GSrc) (imm : BitVec 9)
  /-- ST, spec/R322: Ordered store that migrates, posts when pinned, or writes at home. -/
  | st (d : GSrc) (base : GSrc) (sz : BitVec 2) (imm : BitVec 9)
  /-- VST, spec/R322: 32-byte ordered store from a w register. -/
  | vst (d : WSrc) (base : GSrc) (imm : BitVec 9)
  /-- STP, spec/R324: Sends a posted store and completes at its issue. -/
  | stp (d : GSrc) (base : GSrc) (sz : BitVec 2) (imm : BitVec 9)
  /-- VSTP, spec/R324: Sends a 32-byte posted store. -/
  | vstp (d : WSrc) (base : GSrc) (imm : BitVec 9)
  /-- STM, spec/R325: Posts a store to every replica of a replicated bed. -/
  | stm (d : GSrc) (base : GSrc) (sz : BitVec 2) (imm : BitVec 9)
  /-- STO, spec/R325: Writes the replica that Home() chooses, as an ordered access. -/
  | sto (d : GSrc) (base : GSrc) (sz : BitVec 2) (imm : BitVec 9)
  /-- LDAQ, spec/R321: Load that bypasses snapshots and then acquires at its scope. -/
  | ldaq (d : GSrc) (base : GSrc) (sc : BitVec 4) (sz : BitVec 2) (imm : BitVec 9)
  /-- STRL, spec/R323: Waits for the release at its scope, then stores. -/
  | strl (d : GSrc) (base : GSrc) (sc : BitVec 4) (sz : BitVec 2) (imm : BitVec 9)
  /-- AMOADD, spec/R327: Atomic add at the home, returning the old value. -/
  | amoadd (d : GSrc) (base : GSrc) (imm : BitVec 9)
  /-- AMOAND, spec/R327: Atomic AND at the home. -/
  | amoand (d : GSrc) (base : GSrc) (imm : BitVec 9)
  /-- AMOOR, spec/R327: Atomic OR at the home. -/
  | amoor (d : GSrc) (base : GSrc) (imm : BitVec 9)
  /-- AMOXOR, spec/R327: Atomic XOR at the home. -/
  | amoxor (d : GSrc) (base : GSrc) (imm : BitVec 9)
  /-- AMOMIN, spec/R327: Atomic signed minimum at the home. -/
  | amomin (d : GSrc) (base : GSrc) (imm : BitVec 9)
  /-- AMOMAX, spec/R327: Atomic signed maximum at the home. -/
  | amomax (d : GSrc) (base : GSrc) (imm : BitVec 9)
  /-- AMOMINN, spec/R327: Atomic unsigned minimum at the home. -/
  | amominn (d : GSrc) (base : GSrc) (imm : BitVec 9)
  /-- AMOMAXN, spec/R327: Atomic unsigned maximum at the home. -/
  | amomaxn (d : GSrc) (base : GSrc) (imm : BitVec 9)
  /-- AMOSWP, spec/R327: Atomic swap at the home. -/
  | amoswp (d : GSrc) (base : GSrc) (imm : BitVec 9)
  /-- AMOCAS, spec/R327: Atomic compare-and-swap against x0. -/
  | amocas (d : GSrc) (base : GSrc) (imm : BitVec 9)
  /-- UPD, spec/R328: Queues one update pair for an update bed. -/
  | upd (d : GSrc) (base : GSrc) (imm : BitVec 9)
  /-- VUPD, spec/R328: Queues up to four update pairs from a w register. -/
  | vupd (d : WSrc) (base : GSrc) (imm : BitVec 9)
  /-- UFLUSH, spec/R330: Waits for its own pairs, then has every sieve of the bed apply them. -/
  | uflush (base : GSrc) (imm : BitVec 9)
  /-- RAKE, spec/R338: Hands a gather request to the column's rake unit. -/
  | rake (base : GSrc) (imm : BitVec 9)
  /-- FENCE, spec/R332: Waits for posted stores, updates and engine items at its scope, then acquires. -/
  | fence (d : GReg) (sc : BitVec 4)
  /-- PFENCE, spec/R332: Waits for posted stores within its scope. -/
  | pfence (d : GReg) (sc : BitVec 4)
  /-- XFENCE, spec/R333: Orders the access paths named in x0. -/
  | xfence (d : GReg) (sc : BitVec 4)
  /-- UFENCE, spec/R329: Waits until every pair of the strand has landed or failed. -/
  | ufence (d : GReg)
  /-- MIGR, spec/R334: Moves the strand to the home of an address without accessing it. -/
  | migr (a : GSrc)
  /-- HOME, spec/R335: Writes the home code of an address into d. -/
  | home (d : GReg) (a : GSrc)
  /-- PREF, spec/R337: Prefetches a line on the current tile into the tile cache, or emits a target in a rake kernel. -/
  | pref (a : GSrc)
  /-- CPIN, spec/R341: Claims a retention range over an address range. -/
  | cpin (d : GReg) (a : GSrc) (b : GSrc)
  /-- CUNPIN, spec/R342: Clears EN of a retention or evict-first range. -/
  | cunpin (d : GReg) (a : GSrc) (b : GSrc)
  /-- CHINT, spec/R341: Claims an evict-first range over an address range. -/
  | chint (d : GReg) (a : GSrc) (b : GSrc)
  /-- CWB, spec/R343: Writes back the dirty lines of a range in one leaf page. -/
  | cwb (d : GReg) (a : GSrc) (b : GSrc)
  /-- REPLSYNC, spec/R326: Copies a range from the primary replica to the other replicas. -/
  | replsync (d : GReg) (a : GSrc) (b : GSrc)
  /-- FADD, spec/R346: Scalar floating addition. -/
  | fadd (f : BitVec 2) (d : GReg) (a : GSrc) (b : GSrc)
  /-- FSUB, spec/R346: Scalar floating subtraction. -/
  | fsub (f : BitVec 2) (d : GReg) (a : GSrc) (b : GSrc)
  /-- FMUL, spec/R346: Scalar floating multiplication. -/
  | fmul (f : BitVec 2) (d : GReg) (a : GSrc) (b : GSrc)
  /-- FDIV, spec/R346: Scalar floating division. -/
  | fdiv (f : BitVec 2) (d : GReg) (a : GSrc) (b : GSrc)
  /-- FFMA, spec/R346: Fused multiply-add with one rounding. -/
  | ffma (f : BitVec 2) (d : GReg) (a : GSrc) (b : GSrc) (c : GSrc)
  /-- FFMS, spec/R346: Fused multiply-subtract with one rounding. -/
  | ffms (f : BitVec 2) (d : GReg) (a : GSrc) (b : GSrc) (c : GSrc)
  /-- FSQRT, spec/R346: Scalar floating square root. -/
  | fsqrt (f : BitVec 2) (d : GReg) (a : GSrc)
  /-- FMIN, spec/R243: Floating minimum, ignoring a single quiet NaN. -/
  | fmin (f : BitVec 2) (d : GReg) (a : GSrc) (b : GSrc)
  /-- FMAX, spec/R243: Floating maximum, ignoring a single quiet NaN. -/
  | fmax (f : BitVec 2) (d : GReg) (a : GSrc) (b : GSrc)
  /-- FMINP, spec/R243: Floating minimum that propagates NaN. -/
  | fminp (f : BitVec 2) (d : GReg) (a : GSrc) (b : GSrc)
  /-- FMAXP, spec/R243: Floating maximum that propagates NaN. -/
  | fmaxp (f : BitVec 2) (d : GReg) (a : GSrc) (b : GSrc)
  /-- FABS, spec/R347: Clears the sign bit. -/
  | fabs (f : BitVec 2) (d : GReg) (a : GSrc)
  /-- FNEG, spec/R347: Inverts the sign bit. -/
  | fneg (f : BitVec 2) (d : GReg) (a : GSrc)
  /-- FSGNJ, spec/R347: Replaces the sign bit of s1 with that of s2. -/
  | fsgnj (f : BitVec 2) (d : GReg) (a : GSrc) (b : GSrc)
  /-- FEQ, spec/R347: Floating equality comparison. -/
  | feq (f : BitVec 2) (d : GReg) (a : GSrc) (b : GSrc)
  /-- FLT, spec/R347: Floating less-than comparison. -/
  | flt (f : BitVec 2) (d : GReg) (a : GSrc) (b : GSrc)
  /-- FLE, spec/R347: Floating less-or-equal comparison. -/
  | fle (f : BitVec 2) (d : GReg) (a : GSrc) (b : GSrc)
  /-- FCLASS, spec/R348: Writes the class mask of a floating value. -/
  | fclass (f : BitVec 2) (d : GReg) (a : GSrc)
  /-- FCVT, spec/R349: Converts between floating formats. -/
  | fcvt (f : BitVec 2) (d : GReg) (a : GSrc) (e : BitVec 4)
  /-- FCVTI, spec/R349: Converts a floating value to a saturated integer. -/
  | fcvti (f : BitVec 2) (d : GReg) (a : GSrc) (e : BitVec 4)
  /-- ICVTF, spec/R349: Converts an integer to a floating format. -/
  | icvtf (f : BitVec 2) (d : GReg) (a : GSrc) (e : BitVec 4)
  /-- VADD, spec/R350: Lane-wise add. -/
  | vadd (f : BitVec 2) (d : WReg) (a : WSrc) (b : WSrc)
  /-- VSUB, spec/R350: Lane-wise subtract. -/
  | vsub (f : BitVec 2) (d : WReg) (a : WSrc) (b : WSrc)
  /-- VMUL, spec/R350: Lane-wise multiply. -/
  | vmul (f : BitVec 2) (d : WReg) (a : WSrc) (b : WSrc)
  /-- VFMA, spec/R350: Lane-wise fused a × b + c. -/
  | vfma (f : BitVec 2) (d : WReg) (a : WSrc) (b : WSrc) (c : WSrc)
  /-- VFMS, spec/R350: Lane-wise fused a × b − c. -/
  | vfms (f : BitVec 2) (d : WReg) (a : WSrc) (b : WSrc) (c : WSrc)
  /-- VFNMA, spec/R350: Lane-wise fused c − a × b. -/
  | vfnma (f : BitVec 2) (d : WReg) (a : WSrc) (b : WSrc) (c : WSrc)
  /-- VMIN, spec/R350: Lane-wise minimum. -/
  | vmin (f : BitVec 2) (d : WReg) (a : WSrc) (b : WSrc)
  /-- VMAX, spec/R350: Lane-wise maximum. -/
  | vmax (f : BitVec 2) (d : WReg) (a : WSrc) (b : WSrc)
  /-- VMINP, spec/R350: Lane-wise NaN-propagating minimum. -/
  | vminp (f : BitVec 2) (d : WReg) (a : WSrc) (b : WSrc)
  /-- VMAXP, spec/R350: Lane-wise NaN-propagating maximum. -/
  | vmaxp (f : BitVec 2) (d : WReg) (a : WSrc) (b : WSrc)
  /-- VABS, spec/R350: Lane-wise absolute value. -/
  | vabs (f : BitVec 2) (d : WReg) (a : WSrc)
  /-- VNEG, spec/R350: Lane-wise negation. -/
  | vneg (f : BitVec 2) (d : WReg) (a : WSrc)
  /-- VAND, spec/R351: 256-bit AND. -/
  | vand (d : WReg) (a : WSrc) (b : WSrc)
  /-- VOR, spec/R351: 256-bit OR. -/
  | vor (d : WReg) (a : WSrc) (b : WSrc)
  /-- VXOR, spec/R351: 256-bit XOR. -/
  | vxor (d : WReg) (a : WSrc) (b : WSrc)
  /-- VCMPEQ, spec/R352: Lane-wise equality mask. -/
  | vcmpeq (f : BitVec 2) (d : WReg) (a : WSrc) (b : WSrc)
  /-- VCMPLT, spec/R352: Lane-wise less-than mask. -/
  | vcmplt (f : BitVec 2) (d : WReg) (a : WSrc) (b : WSrc)
  /-- VCMPLE, spec/R352: Lane-wise less-or-equal mask. -/
  | vcmple (f : BitVec 2) (d : WReg) (a : WSrc) (b : WSrc)
  /-- VSEL, spec/R352: Bitwise select d := (a AND b) OR (NOT a AND c). -/
  | vsel (d : WReg) (a : WSrc) (b : WSrc) (c : WSrc)
  /-- VCVT, spec/R353: Lane-wise format conversion. -/
  | vcvt (f : BitVec 2) (d : WReg) (a : WSrc) (c : BitVec 3)
  /-- VSUM, spec/R354: Sums all lanes in the fixed pairwise tree. -/
  | vsum (f : BitVec 2) (d : WReg) (a : WSrc)
  /-- VDOT, spec/R354: Dot product of two registers in the fixed tree. -/
  | vdot (f : BitVec 2) (d : WReg) (a : WSrc) (b : WSrc)
  /-- VEXP2, spec/R355: Correctly rounded 2^x per lane. -/
  | vexp2 (f : BitVec 2) (d : WReg) (a : WSrc)
  /-- VLOG2, spec/R355: Correctly rounded log2 x per lane. -/
  | vlog2 (f : BitVec 2) (d : WReg) (a : WSrc)
  /-- VRCP, spec/R355: Correctly rounded 1/x per lane. -/
  | vrcp (f : BitVec 2) (d : WReg) (a : WSrc)
  /-- VRSQ, spec/R355: Correctly rounded 1/√x per lane. -/
  | vrsq (f : BitVec 2) (d : WReg) (a : WSrc)
  /-- VPERM, spec/R356: Permutes lanes of a by indices in b. -/
  | vperm (d : WReg) (a : WSrc) (b : WSrc)
  /-- VMOV, spec/R356: d := a. -/
  | vmov (d : WReg) (a : WSrc)
  /-- VCOMP, spec/R357: Compresses each group of four lanes to two values and metadata. -/
  | vcomp (f : BitVec 2) (d : WReg) (a : WSrc)
  /-- VDEC, spec/R358: Decodes T8 bytes through the core's decode table. -/
  | vdec (f : BitVec 2) (d : WReg) (a : WSrc)
  /-- VENC, spec/R358: Encodes lanes to T8 codes by searching the core's table. -/
  | venc (f : BitVec 2) (d : WReg) (a : WSrc)
  /-- VSHL, spec/R351: Lane-wise left shift by a g count. -/
  | vshl (f : BitVec 2) (d : WReg) (a : WSrc) (g : GSrc)
  /-- VSHR, spec/R351: Lane-wise logical right shift. -/
  | vshr (f : BitVec 2) (d : WReg) (a : WSrc) (g : GSrc)
  /-- VSRA, spec/R351: Lane-wise arithmetic right shift. -/
  | vsra (f : BitVec 2) (d : WReg) (a : WSrc) (g : GSrc)
  /-- VBCST, spec/R356: Broadcasts a g value to every lane. -/
  | vbcst (d : WReg) (g : GSrc)
  /-- VINS, spec/R356: Inserts a g value into one lane. -/
  | vins (d : WReg) (a : WSrc) (g : GSrc) (l : BitVec 4)
  /-- VEXT, spec/R356: Extracts one lane into a g register. -/
  | vext (d : GReg) (a : WSrc) (l : BitVec 4)
  /-- VSLIDE, spec/R356: Slides lanes down by IMM4. -/
  | vslide (d : WReg) (a : WSrc) (l : BitVec 4)
  /-- VTLD, spec/R359: Reads 256 FP32 words as items to load the core's decode table. -/
  | vtld (g : GSrc)
  /-- MTASK, spec/R363: Posts a matrix task record with its scales. -/
  | mtask (d : GReg) (a : GSrc) (b : GSrc)
  /-- CTASK, spec/R363: Posts a copy task record. -/
  | ctask (d : GReg) (a : GSrc)
  /-- TASKW, spec/R364: Requests a task's outcome by TSEQ. -/
  | taskw (d : GReg) (a : GSrc)
  /-- WAITC, spec/R365: Waits until each class of outstanding items is within its x0 limit. -/
  | waitc (d : GReg)
  /-- HARM, spec/R367: Arms a hedge register over the x0 rectangle. -/
  | harm (h : BitVec 4) (a : GSrc) (b : GSrc)
  /-- HARR, spec/R368: Releases, then arrives at a hedge register. -/
  | harr (d : GReg) (h : BitVec 4)
  /-- HWAIT, spec/R370: Waits for a hedge generation's release. -/
  | hwait (d : GReg) (a : GSrc) (h : BitVec 4)
  /-- SPAWN, spec/R372: Creates a child strand in the own column. -/
  | spawn (d : GReg) (a : GSrc)
  /-- SPAWN_HOME, spec/R372: Creates a child strand at a named home. -/
  | spawnHome (d : GReg) (a : GSrc) (b : GSrc)
  /-- JOIN, spec/R373: Registers a waiter on a join word. -/
  | join (d : GReg) (a : GSrc)
  /-- LAUNCH, spec/R375: Posts a launch ring entry to a device-memory queue. -/
  | launch (d : GReg) (a : GSrc) (b : GSrc)
  /-- SRD, spec/R378: Reads a special register. -/
  | srd (d : GReg) (n : BitVec 6)
  /-- SRD_HANDLE, spec/R379: Reads part of a Trapped strand's image. -/
  | srdHandle (d : GReg) (a : GSrc) (n : BitVec 6)
  /-- SWR, spec/R378: Writes SS. -/
  | swr (n : BitVec 6) (a : GSrc)
  /-- SWR_HANDLE, spec/R379: Writes part of a Trapped strand's image. -/
  | swrHandle (h : GReg) (n : BitVec 6) (a : GSrc)
  /-- TRAP, spec/R380: Raises UserTrap with a 12-bit immediate. -/
  | trap (imm : BitVec 12)
  /-- RESUME, spec/R381: Ends the handler and puts the trapped strand on the resume list. -/
  | resume (a : GSrc)
  /-- RESUME_MIGRATE, spec/R381: Ends the handler and migrates the trapped strand to a named home. -/
  | resumeMigrate (a : GSrc) (b : GSrc)
  /-- KILL, spec/R381: Ends the handler and the trapped strand. -/
  | kill (a : GSrc)
  /-- BKPT, spec/R380: Raises Breakpoint, or halts the group under HOB. -/
  | bkpt (imm : BitVec 12)
  /-- TLBI_PAGE, spec/R382: Supervisor invalidation of one page's translations. -/
  | tlbiPage (d : GReg) (a : GSrc) (b : GSrc)
  /-- TLBI_ASID, spec/R382: Supervisor invalidation of an ASID in every column. -/
  | tlbiAsid (d : GReg) (b : GSrc)
  /-- TLBI_ALL, spec/R382: Supervisor invalidation of every translation. -/
  | tlbiAll (d : GReg)
  /-- BEDW, spec/R383: Writes one bed descriptor into the tile's table copy. -/
  | bedw (d : GReg) (a : GSrc) (b : GSrc)
  /-- CLRE, spec/R308: Sets a g register Empty, or Cut if it has an attachment. -/
  | clre (r : GReg)
  /-- ISF, spec/R309: Writes the state code of a g register. -/
  | isf (d : GReg) (r : GReg)
  /-- WAITF, spec/R310: Waits until a g register is Full, regrowing it if Cut. -/
  | waitf (r : GReg)
  /-- CUT, spec/R311: Attaches a recipe to a g register. -/
  | cut (r : GReg) (n : BitVec 8)
  /-- UNCUT, spec/R312: Regrows a g register if needed and frees its attachment. -/
  | uncut (r : GReg)
  /-- DROP, spec/R313: Drops an attached g register to Cut. -/
  | drop (r : GReg)
  /-- XSET, spec/R315: Copies a g register into an x register. -/
  | xset (xd : XReg) (a : GSrc)
  /-- XGET, spec/R315: Copies an x register into a g register. -/
  | xget (d : GReg) (xs : XReg)
  /-- CLRE_W, spec/R308: CLRE on a w register. -/
  | clreW (r : WReg)
  /-- ISF_W, spec/R309: ISF on a w register. -/
  | isfW (d : GReg) (r : WReg)
  /-- WAITF_W, spec/R310: WAITF on a w register. -/
  | waitfW (r : WReg)
  /-- CUT_W, spec/R311: CUT on a w register. -/
  | cutW (r : WReg) (n : BitVec 8)
  /-- UNCUT_W, spec/R312: UNCUT on a w register. -/
  | uncutW (r : WReg)
  /-- DROP_W, spec/R313: DROP on a w register. -/
  | dropW (r : WReg)
  /-- XLI, spec/R315: x register := sign-extended IMM22. -/
  | xli (xd : XReg) (imm : BitVec 22)
  /-- ADD_16, spec/R269: 16-bit d := d + s. -/
  | add16 (d : GReg) (r : GReg)
  /-- SUB_16, spec/R269: 16-bit d := d − s. -/
  | sub16 (d : GReg) (r : GReg)
  /-- AND_16, spec/R269: 16-bit d := d AND s. -/
  | and16 (d : GReg) (r : GReg)
  /-- OR_16, spec/R269: 16-bit d := d OR s. -/
  | or16 (d : GReg) (r : GReg)
  /-- XOR_16, spec/R269: 16-bit d := d XOR s. -/
  | xor16 (d : GReg) (r : GReg)
  /-- MOV_16, spec/R269: 16-bit d := s. -/
  | mov16 (d : GReg) (r : GReg)
  /-- SLL_16, spec/R269: 16-bit d := d shifted left by s. -/
  | sll16 (d : GReg) (r : GReg)
  /-- SRL_16, spec/R269: 16-bit d := d shifted right logically by s. -/
  | srl16 (d : GReg) (r : GReg)
  /-- ADD_W_16, spec/R269: 16-bit ADD.w d, d, s. -/
  | addW16 (d : GReg) (r : GReg)
  /-- SUB_W_16, spec/R269: 16-bit SUB.w d, d, s. -/
  | subW16 (d : GReg) (r : GReg)
  /-- ANDN_16, spec/R269: 16-bit d := d AND NOT s. -/
  | andn16 (d : GReg) (r : GReg)
  /-- SRA_16, spec/R269: 16-bit arithmetic right shift of d by s. -/
  | sra16 (d : GReg) (r : GReg)
  /-- MUL_16, spec/R269: 16-bit d := d × s. -/
  | mul16 (d : GReg) (r : GReg)
  /-- SLT_16, spec/R269: 16-bit SLT d, d, s. -/
  | slt16 (d : GReg) (r : GReg)
  /-- SLTN_16, spec/R269: 16-bit SLTN d, d, s. -/
  | sltn16 (d : GReg) (r : GReg)
  /-- SEQ_16, spec/R269: 16-bit SEQ d, d, s. -/
  | seq16 (d : GReg) (r : GReg)
  /-- MIN_16, spec/R269: 16-bit MIN d, d, s. -/
  | min16 (d : GReg) (r : GReg)
  /-- MAX_16, spec/R269: 16-bit MAX d, d, s. -/
  | max16 (d : GReg) (r : GReg)
  /-- MINN_16, spec/R269: 16-bit MINN d, d, s. -/
  | minn16 (d : GReg) (r : GReg)
  /-- MAXN_16, spec/R269: 16-bit MAXN d, d, s. -/
  | maxn16 (d : GReg) (r : GReg)
  /-- ROTL_16, spec/R269: 16-bit ROTL d, d, s. -/
  | rotl16 (d : GReg) (r : GReg)
  /-- MULH_16, spec/R269: 16-bit MULH d, d, s. -/
  | mulh16 (d : GReg) (r : GReg)
  /-- MULHN_16, spec/R269: 16-bit MULHN d, d, s. -/
  | mulhn16 (d : GReg) (r : GReg)
  /-- ADDI_16, spec/R270: 16-bit d := d + sign-extended IMM6. -/
  | addi16 (d : GReg) (imm : BitVec 6)
  /-- LI_16, spec/R270: 16-bit d := sign-extended IMM6. -/
  | li16 (d : GReg) (imm : BitVec 6)
  /-- SLLI_16, spec/R270: 16-bit d := d shifted left by IMM6. -/
  | slli16 (d : GReg) (imm : BitVec 6)
  /-- SRAI_16, spec/R270: 16-bit arithmetic right shift of d by IMM6. -/
  | srai16 (d : GReg) (imm : BitVec 6)
  /-- ANDI_16, spec/R270: 16-bit d := d AND sign-extended IMM6. -/
  | andi16 (d : GReg) (imm : BitVec 6)
  /-- SRLI_16, spec/R270: 16-bit logical right shift of d by IMM6. -/
  | srli16 (d : GReg) (imm : BitVec 6)
  /-- LD_D_16, spec/R269: 16-bit LD.d at base + OFF3 × 8. -/
  | ldD16 (d : GReg) (base : GReg) (off : BitVec 3)
  /-- ST_D_16, spec/R269: 16-bit ST.d at base + OFF3 × 8. -/
  | stD16 (d : GReg) (base : GReg) (off : BitVec 3)
  /-- LDR_D_16, spec/R269: 16-bit LDR.d at base + OFF3 × 8. -/
  | ldrD16 (d : GReg) (base : GReg) (off : BitVec 3)
  /-- STP_D_16, spec/R269: 16-bit STP.d at base + OFF3 × 8. -/
  | stpD16 (d : GReg) (base : GReg) (off : BitVec 3)
  /-- BEQZ_16, spec/R305: 16-bit branch if s = 0. -/
  | beqz16 (r : GReg) (off : BitVec 7)
  /-- BNEZ_16, spec/R305: 16-bit branch if s ≠ 0. -/
  | bnez16 (r : GReg) (off : BitVec 7)
  /-- J_16, spec/R303: 16-bit PC-relative jump. -/
  | j16 (off : BitVec 11)
  /-- NOP, spec/R307: Changes nothing but the PC. -/
  | nop
  /-- PIN, spec/R336: Sets PINLEFT to 511. -/
  | pin
  /-- UNPIN, spec/R336: Clears PINLEFT, RUN and WIN. -/
  | unpin
  /-- RAKEW, spec/R339: Waits for the column's rake fetches, then invalidates the rake buffer. -/
  | rakew
  /-- EXIT, spec/R374: Ends the strand, decrementing its join word after its items are done. -/
  | exit
  /-- NXTGO, spec/R376: Posts an increment of the job's go word. -/
  | nxtgo
  /-- PREDWAIT, spec/R376: Waits until early predecessors complete, then acquires. -/
  | predwait
  /-- YIELD, spec/R377: Gives up the slot to a waiting arrival. -/
  | yield
  /-- NOP_16, spec/R307: 16-bit NOP. -/
  | nop16
  /-- EXIT_16, spec/R374: 16-bit EXIT. -/
  | exit16
  /-- YIELD_16, spec/R377: 16-bit YIELD. -/
  | yield16
  /-- UFENCE_16, spec/R329: 16-bit UFENCE without a report. -/
  | ufence16
  /-- PREDWAIT_16, spec/R376: 16-bit PREDWAIT. -/
  | predwait16
  /-- NXTGO_16, spec/R376: 16-bit NXTGO. -/
  | nxtgo16
  /-- JAL_16, spec/R303: 16-bit jump with the link in g15. -/
  | jal16 (off : BitVec 11)
  /-- FMT, spec/R266: Sets the pending prefix with formats FA and FB for the next instruction. -/
  | fmt (fa : BitVec 4) (fb : BitVec 4)
  /-- POWER_MEASURE, spec/R17: Every 1 µs the tile power manager samples the tile's power into the 100 µs mean. -/
  | powerMeasure (tile : Nat) (watts : Nat)
  /-- POWER_WINDOW_END, spec/R18: At the end of a 100 µs window the power manager throttles one more step if the mean is over the cap, or recovers one step if it is at or below 90 per cent of the cap. -/
  | powerWindowEnd (tile : Nat)
  /-- PANEL_BUDGET_MEASURE, spec/R19: Every 10 µs the head gardener samples the panel's input power and sets one effective cap for all tiles when the budget would be exceeded. -/
  | panelBudgetMeasure (watts : Nat)
  /-- PANEL_BUDGET_WINDOW_END, spec/R19: At the end of a 100 µs window with mean input at or below 49 kW, the effective cap is raised by 1 W. -/
  | panelBudgetWindowEnd
  /-- THERMAL_THRESHOLD, spec/R20: A temperature sensor crosses a threshold or a release temperature, which doubles refresh or starts or ends holding stage 2 throttling. -/
  | thermalThreshold (tile : Nat) (sensor : Nat) (temp : Nat)
  /-- THERMAL_CLOCK_STEP, spec/R20: At the end of each 100 µs window while a sensor stays at or above its threshold, both clocks are lowered by 1/16, down to the floor. -/
  | thermalClockStep (tile : Nat)
  /-- THERMAL_TRIP, spec/R20: A sensor reaches 115 °C, and the tile enters Off, discards halts and breakpoints, becomes Closed and raises ThermalTrip. -/
  | thermalTrip (tile : Nat) (sensor : Nat)
  /-- REGULATOR_FAIL, spec/R224: A tile's regulator fails, and the tile's strands, tasks, engine slots and sieve contents are lost with it. -/
  | regulatorFail (tile : Nat)
  /-- POWER_ON, spec/R41: 800 V DC is applied with the cold plates at flow; the I/O dies verify their images, the head gardener recovers the retirement log, and the head gardener powers and releases the sites. -/
  | powerOn
  /-- TILE_BOOT, spec/R41: A released tile gardener verifies its tile image, runs self-test and reports its result and measurement. -/
  | tileBoot (site : Nat) (res : SelfTest)
  /-- SELF_TEST_REPORT, spec/R41: The head gardener receives a site's self-test report, and binds the grid once every site has reported. -/
  | selfTestReport (site : Nat)
  /-- BIND_TIMEOUT, spec/R41: 5 s after the release, the sites that have not reported count as failed, and the grid is bound. -/
  | bindTimeout
  /-- ATTESTATION_REQUEST, spec/R46: On a host request carrying a nonce, the head gardener returns a signed attestation report. -/
  | attestationRequest (nonce : BitVec 256)
  /-- FUSE_COMMAND, spec/R42: A signed fuse command raises the security-version counter. -/
  | fuseCommand (ver : Nat) (sig : Nat)
  /-- RESET, spec/R50: A reset closes every tile, discards the debug token and clears the debug-opened-since-boot bits. -/
  | reset
  /-- DEBUG_OPEN_COMMAND, spec/R50: In Development, a host command opens a tile for debug. -/
  | debugOpenCommand (tile : Nat)
  /-- DEBUG_CHALLENGE, spec/R50: The head gardener issues a challenge nonce, valid for 60 s. -/
  | debugChallenge (nonce : BitVec 256)
  /-- DEBUG_TOKEN, spec/R50: A submitted debug token is checked, and it either opens the tiles of its mask or is rejected. -/
  | debugToken (tok : Token)
  /-- DEBUG_CLOSE, spec/R50: A Close command makes each tile of the mask clear its breakpoints, resume its halted slots and become Closed. -/
  | debugClose (mask : BitVec 64)
  /-- DEBUG_TOKEN_EXPIRE, spec/R50: The token's duration expires on the management timer, and the tiles of its mask close. -/
  | debugTokenExpire
  /-- PWRCMD_RETAIN, spec/R52: A PWRCMD write of 1 requests Retain; when accepted, the sieves apply, the cache writes back and DRAM enters self-refresh. -/
  | pwrcmdRetain (tile : Nat)
  /-- PWRCMD_OFF, spec/R52: A PWRCMD write of 2 requests Off; when accepted, power is removed from all but the router and management link. -/
  | pwrcmdOff (tile : Nat)
  /-- PWRCMD_RUN, spec/R52: A PWRCMD write of 3 ends Retain, or ends Off by verifying the image, running self-test and reporting the measurement again. -/
  | pwrcmdRun (tile : Nat)
  /-- POWER_TRANSITION_DONE, spec/R52: An accepted power transition completes, and PWRCMD bit 8 clears. -/
  | powerTransitionDone (tile : Nat) (res : SelfTest)
  /-- IDLE_ENTER, spec/R49: A tile with no strand, task or copy present enters Idle, and its clocks are gated. -/
  | idleEnter (tile : Nat)
  /-- IDLE_EXIT, spec/R49: An arrival moves an Idle tile back to Run within 2 µs. -/
  | idleExit (tile : Nat)
  /-- REPAIR_COMMAND, spec/R48: The host commands Repair(tile, column, lane), which maps the lane to a free spare and appends a kind 3 entry. -/
  | repairCommand (tile : Nat) (col : Nat) (lane : Nat)
  /-- REPAIR_AUTO, spec/R48: The gardener detects a lane condition in a class that REPAUTH enables, and starts a repair or a retrain. -/
  | repairAuto (tile : Nat) (col : Nat) (lane : Nat) (cls : Nat)
  /-- REPAIR_SWITCH, spec/R226: Once the read-modify-writes in flight have committed, the sequencer switches the lane and releases the held accesses in arrival order. -/
  | repairSwitch (tile : Nat) (col : Nat)
  /-- FLIT_ARRIVAL, spec/R23: A router receives a flit, checks its CRC, and acknowledges it or asks for it to be resent. -/
  | flitArrival (router : Nat) (port : Nat) (crcOk : Bool)
  /-- FLIT_ACK, spec/R23: The acknowledgement of a flit arrives, and the flit is freed from the retry buffer. -/
  | flitAck (router : Nat) (port : Nat)
  /-- FLIT_FORWARD, spec/R29: A router sends a flit out on the adaptive or escape port chosen by the bank of the flit's parity. -/
  | flitForward (router : Nat) (k : Nat)
  /-- ESCAPE_TIMEOUT, spec/R29: A flit that finds no credit on any adaptive candidate for 32 base cycles moves to its class's escape channel. -/
  | escapeTimeout (router : Nat) (k : Nat)
  /-- LINK_ACK_TIMEOUT, spec/R23: An acknowledged flit is not delivered within 1 µs, and the link retrains. -/
  | linkAckTimeout (router : Nat) (port : Nat)
  /-- LINK_TRAINED, spec/R23: Link training completes, and the link returns to Up. -/
  | linkTrained (router : Nat) (port : Nat)
  /-- LINK_RETRAIN_TIMEOUT, spec/R23: A link that has not retrained within 2 µs is marked Down by both routers and reported to their gardeners. -/
  | linkRetrainTimeout (router : Nat) (port : Nat)
  /-- TABLE_UPDATE_RECEIVE, spec/R34: A gardener receives a new remap table, computes its route table, writes both into the inactive bank and acknowledges. -/
  | tableUpdateReceive (router : Nat)
  /-- TABLE_ACK, spec/R34: The head gardener receives an acknowledgement, and broadcasts Commit once all have arrived. -/
  | tableAck (router : Nat)
  /-- TABLE_COMMIT, spec/R34: A router receives Commit, flips ACTIVE between two flits and increments EPOCH. -/
  | tableCommit (router : Nat)
  /-- OLD_BANK_RELEASE, spec/R34: Once OLDBUSY is 0 in every router, the head gardener releases the old bank. -/
  | oldBankRelease
  /-- RETIRE, spec/R37: The host issues Retire(T, grace); the head gardener chooses a spare, powers and tests it, and starts copying T's DRAM, or the command fails with Busy or NoSpare. -/
  | retire (tile : Nat) (grace : Nat) (res : SelfTest)
  /-- RETIRE_COPY_DONE, spec/R37: The copy of the retiring tile's DRAM completes, and the tables are updated to name the new site. -/
  | retireCopyDone
  /-- RETIRE_GRACE_END, spec/R37: The grace period ends; the old site is powered off, its retirement is logged, and RetireDone is raised. -/
  | retireGraceEnd
  /-- TILE_LOSS, spec/R38: A site's links go Down or it stops answering; the head gardener marks the tile Vacant, commits the change and issues a LossNotice. -/
  | tileLoss (tile : Nat)
  /-- LOSS_NOTICE, spec/R38: A dock or tile receives a LossNotice, releases the hedges that involve the Vacant tile, and starts its 20 µs wait. -/
  | lossNotice (tile : Nat) (lost : Nat)
  /-- LOSS_WAIT_EXPIRE, spec/R38: After the 20 µs wait, the dock resolves the requests still outstanding to the lost tile. -/
  | lossWaitExpire (tile : Nat) (col : Nat) (lost : Nat)
  /-- PEER_FRAME, spec/R39: A scale-up port receives a peer-transport frame. -/
  | peerFrame (die : Nat) (frame : Frame)
  /-- PEER_ACK, spec/R40: A peer's end-to-end acknowledgement of a posted store arrives. -/
  | peerAck (msg : Nat)
  /-- PEER_ACK_TIMEOUT, spec/R40: A peer acknowledgement is absent after the peer timeout, and the store is treated as a loss. -/
  | peerAckTimeout (msg : Nat)
  /-- PORT_STATUS_READ, spec/R24: A read of a port status register returns RETRIES and CRCERR and clears them. -/
  | portStatusRead (router : Nat) (port : Nat)
  /-- UNSUPPORTED_REQUEST, spec/R53: A PCI Express atomic or other unsupported request receives Unsupported Request and raises AddressError. -/
  | unsupportedRequest (port : Nat) (addr : Nat)
  /-- FUNCTION_LEVEL_RESET, spec/R53: A function-level reset resets that port's window and event-ring registers. -/
  | functionLevelReset (port : Nat)
  /-- REGISTER_WRITE, spec/R54: A write to a configuration or management register that has no behaviour of its own stores its fields. -/
  | registerWrite (off : Nat) (val : BitVec 64)
  /-- WINDOW_READ, spec/R56: A host read through a BAR2 window is split into 64-byte pieces and served at their homes. -/
  | windowRead (port : Nat) (off : Nat) (len : Nat)
  /-- WINDOW_WRITE, spec/R56: A host write through a window is split into posted pieces and written at their homes. -/
  | windowWrite (port : Nat) (off : Nat) (data : List Byte)
  /-- WINFENCE_READ, spec/R55: A read of WINFENCE returns once every earlier write through the window has been acknowledged, reporting any discard. -/
  | winfenceRead (port : Nat)
  /-- QUEUE_ENABLE, spec/R57: Setting QCTL.EN activates the queue, or puts it into Error with code 7 if its configuration is bad. -/
  | queueEnable (q : Nat) (val : BitVec 64)
  /-- QUEUE_CLEAR, spec/R57: Writing CLEAR zeroes QHEAD and the stored tail, clears EN and sets the queue Disabled. -/
  | queueClear (q : Nat)
  /-- DOORBELL, spec/R59: The host writes a new tail count to a queue's doorbell, which is checked for being behind or for overrun. -/
  | doorbell (q : Nat) (tail : BitVec 32)
  /-- QUEUE_FETCH, spec/R61: A front end's arbitration picks a queue and fetches its entry at QHEAD. -/
  | queueFetch (die : Nat)
  /-- MARKER_WRITE, spec/R58: When the earlier jobs of its queue have completed, the Marker's USERTAG is written and MarkerDone is raised. -/
  | markerWrite (q : Nat)
  /-- EVHEAD_WRITE, spec/R63: The host advances EVHEAD, which frees ring room for buffered events. -/
  | evheadWrite (port : Nat) (val : BitVec 64)
  /-- EVLOST_READ, spec/R63: A read of EVLOST returns the count of discarded events and clears it. -/
  | evlostRead (port : Nat)
  /-- LAUNCH_RECORD_DELIVER, spec/R73: The lead gardener receives a launch record, checks it and accepts it into its pending list, or rejects it. -/
  | launchRecordDeliver (tile : Nat)
  /-- PREDECESSOR_POLL, spec/R75: Each POLLUS, the lead gardener reads the predecessor completion and go words of pending records with acquire. -/
  | predecessorPoll (tile : Nat)
  /-- BIND_JOB, spec/R78: The lead gardener binds an eligible job: installs tables, writes the go word and bind records, and activates them together. -/
  | bindJob (job : Nat) (recs : List PlaceRec)
  /-- RELEASE_NOTICE, spec/R77: A release notice reaches a tile, and its parked PREDWAITs complete within one rotation. -/
  | releaseNotice (msg : Nat)
  /-- DISPATCH, spec/R80: A column's dispatcher visits an Active bind record and creates one strand in a qualifying core's arrival queue. -/
  | dispatch (tile : Nat) (col : Nat) (rec : Nat)
  /-- SLOT_GRANT, spec/R82: A freed slot is filled from the urgent queue, the resume list or the arrival queue, in class order. -/
  | slotGrant (tile : Nat) (core : Nat)
  /-- JOB_COMPLETE, spec/R83: When all of a job's records, strands and items are finished, the lead gardener writes the completion word and releases the job. -/
  | jobComplete (job : Nat)
  /-- JOBCMD_SUSPEND, spec/R86: A JOBCMD Suspend pre-empts a running job by sending suspend notices. -/
  | jobcmdSuspend (tile : Nat) (job : Nat)
  /-- JOBCMD_RESUME, spec/R86: A JOBCMD Resume reverses a suspension. -/
  | jobcmdResume (tile : Nat) (job : Nat)
  /-- JOBCMD_CANCEL, spec/R86: A JOBCMD Cancel removes a pending job, or suspends a bound job's records and kills its strands before completing it. -/
  | jobcmdCancel (tile : Nat) (job : Nat)
  /-- SUSPEND_NOTICE, spec/R214: A tile receives a suspend notice, suspends the job's records, strands and tasks, and saves its held engines. -/
  | suspendNotice (msg : Nat)
  /-- ENGINE_SAVE_DONE, spec/R214: An engine's snapshot has been saved into its slot; the engine is cleared, its hold released, and the tile reports step 6. -/
  | engineSaveDone (tile : Nat) (eng : Nat)
  /-- RESUME_NOTICE, spec/R217: A tile receives a resume notice for a suspended job. -/
  | resumeNotice (msg : Nat)
  /-- ENGINE_RESTORE, spec/R217: Once the engine is free of another job's hold, a saved slot is restored and marked invalid, and the job's tasks and strands resume. -/
  | engineRestore (tile : Nat) (eng : Nat)
  /-- STRAND_COUNT_REPORT, spec/R225: At least once per POLLUS, docks report counts of created and ended strands to lead gardeners. -/
  | strandCountReport (tile : Nat) (col : Nat) (job : Nat)
  /-- LOSS_COUNT_ANSWER, spec/R225: Surviving docks answer with their image counts, and the lead gardener raises StrandLost for the missing strands. -/
  | lossCountAnswer (tile : Nat) (job : Nat)
  /-- TABLE_FETCH, spec/R119: A bed table, cutting table or level descriptors fetched from the lead gardener arrive at a tile that lacked them. -/
  | tableFetch (msg : Nat)
  /-- BED_CACHE_FILL, spec/R119: A bed-cache miss is filled from the tile's copy, and the instruction issues again. -/
  | bedCacheFill (tile : Nat) (core : Nat) (slot : Nat)
  /-- PARK_RECHECK, spec/R97: At each turn of its slot, a parked strand re-examines its cause and issues if it is clear. -/
  | parkRecheck (tile : Nat) (core : Nat) (slot : Nat)
  /-- EVICT, spec/R98: A strand parked EVTHR rotations is evicted to the context store when an arrival waits and no slot is free. -/
  | evict (tile : Nat) (core : Nat)
  /-- FILL, spec/R121: A fill arrives at a dock and completes an Awaiting register in the strand's image, or is discarded. -/
  | fill (msg : Nat)
  /-- INSTRUCTION_LINE_FILL, spec/R97: An instruction-buffer line arrives, and InstructionFetch parks clear. -/
  | instructionLineFill (msg : Nat)
  /-- MIGRATION_ARRIVAL, spec/R104: A home dock translates the migrating access, picks the owning core, and accepts the strand or refuses it. -/
  | migrationArrival (msg : Nat)
  /-- MIGRATION_ACCEPTANCE, spec/R104: An acceptance returns to the sender, which frees its reserved image. -/
  | migrationAcceptance (msg : Nat)
  /-- MIGRATION_REFUSAL, spec/R106: A refusal returns with the image; the strand becomes Refused with a backoff, or traps with MigrationRefusedLimit. -/
  | migrationRefusal (msg : Nat)
  /-- MIGRATION_BACKOFF_EXPIRE, spec/R106: A refused strand's backoff expires, and the migration is retried. -/
  | migrationBackoffExpire (handle : BitVec 64)
  /-- RECALL, spec/R106: A Recall reaches the sender, which retries the migration at once into the reserved entry. -/
  | recall (msg : Nat)
  /-- MIGRATION_ERROR_RESPONSE, spec/R102: An error response to a migration from an Unbound or Vacant tile traps the strand at the sender with DataLoss. -/
  | migrationErrorResponse (msg : Nat)
  /-- HANDLER_CREATE, spec/R96: An urgent-queue entry frees, and the handler of a strand left Trapped for want of one is queued. -/
  | handlerCreate (tile : Nat) (core : Nat)
  /-- REMOTE_READ_SERVE, spec/R320: A remote read request is served at its home port, after any apply, and its fill is sent. -/
  | remoteReadServe (msg : Nat)
  /-- POSTED_STORE_PERFORM, spec/R324: A posted store or go-word increment is performed at its home and acknowledged. -/
  | postedStorePerform (msg : Nat)
  /-- POSTED_STORE_ACK, spec/R146: The acknowledgement of a posted store reaches the issuing dock, which marks the item done, or discards the acknowledgement after a loss. -/
  | postedStoreAck (msg : Nat)
  /-- JOIN_WORD_CHANGE, spec/R112: A join-word increment or decrement is performed at its home, and waiters are filled when the count reaches zero. -/
  | joinWordChange (msg : Nat)
  /-- JOIN_INCREMENT_ACK, spec/R111: The home acknowledges a SPAWN's increment of the join word, and the SPAWN may complete. -/
  | joinIncrementAck (msg : Nat)
  /-- JOIN_REGISTRATION, spec/R113: A home dock receives a JOIN registration, and fills it at once, enters the waiter, or refuses it because the table is full. -/
  | joinRegistration (msg : Nat)
  /-- JOIN_REGISTRATION_RETRY, spec/R113: A refused JOIN registration is resent after its backoff. -/
  | joinRegistrationRetry (msg : Nat)
  /-- UPDATE_SEND, spec/R163: A core sends waiting outbound pairs in an update flit on class 4. -/
  | updateSend (tile : Nat) (core : Nat) (n : Nat)
  /-- UPDATE_FLIT_ARRIVAL, spec/R166: A sieve translates each pair of a flit, and accepts it into a bin, refuses it, or discards it as failed. -/
  | updateFlitArrival (msg : Nat)
  /-- UPDATE_ANSWER, spec/R164: An acceptance, refusal or failure of a pair reaches the core, which frees or keeps its outbound entry. -/
  | updateAnswer (msg : Nat)
  /-- UPDATE_RESEND, spec/R164: A refused pair's backoff expires, and the pair is resent. -/
  | updateResend (tile : Nat) (core : Nat) (tag : Nat)
  /-- SIEVE_SPILL, spec/R167: When free bin slots fall below 16,384, the sieve writes its bin entries as sorted runs into the spill areas. -/
  | sieveSpill (tile : Nat) (quad : Nat)
  /-- FORCED_APPLY, spec/R168: The sieve applies granules on its own initiative for want of runs, slots, directory entries, or because of a tag change. -/
  | forcedApply (tile : Nat) (quad : Nat)
  /-- FLUSH_REQUEST, spec/R175: A sieve receives a flush request, applies every granule of the bed accepted before it, and acknowledges. -/
  | flushRequest (msg : Nat)
  /-- FLUSH_ACK, spec/R175: A flush acknowledgement or failure reaches the UFLUSH's dock. -/
  | flushAck (msg : Nat)
  /-- SIEVE_COUNTER_READ, spec/R178: A read of a sieve counter returns its count and clears it. -/
  | sieveCounterRead (tile : Nat) (quad : Nat) (k : Nat)
  /-- TASK_POST_ARRIVAL, spec/R181: The task scheduler receives a post, reads its record, accepts it with a TSEQ, or refuses it. -/
  | taskPostArrival (msg : Nat)
  /-- TASK_POST_RETRY, spec/R181: A refused task post is resent after its backoff. -/
  | taskPostRetry (msg : Nat)
  /-- TASK_ISSUE, spec/R187: A ready copy issues to a free copy engine, or a matrix task to its engine, possibly combining copies. -/
  | taskIssue (tile : Nat) (tseq : Nat)
  /-- COPY_RUN, spec/R196: A copy engine reads, converts and writes a burst of elements in loop order. -/
  | copyRun (tile : Nat) (eng : Nat) (n : Nat)
  /-- MATRIX_STEP_BEGIN, spec/R190: When both channels hold all of a step's bytes, the step begins and pops them. -/
  | matrixStepBegin (tile : Nat) (eng : Nat)
  /-- MATRIX_STEP_END, spec/R189: A matrix step ends, and the next step, drain or completion follows. -/
  | matrixStepEnd (tile : Nat) (eng : Nat)
  /-- DRAIN_DONE, spec/R194: A bank drain finishes writing its elements, and the task finishes. -/
  | drainDone (tile : Nat) (eng : Nat)
  /-- CHANNEL_STARVE_TIMEOUT, spec/R190: A step waits 2^24 base cycles for channel bytes, and faults with code 7. -/
  | channelStarveTimeout (tile : Nat) (eng : Nat)
  /-- CHANNEL_FULL_TIMEOUT, spec/R190: A copy waits 2^24 base cycles for channel room, and faults with code 8. -/
  | channelFullTimeout (tile : Nat) (eng : Nat)
  /-- TASK_FINISH, spec/R186: A finished task writes its completion word, then decrements its successors or banks placeholders, and retires. -/
  | taskFinish (tile : Nat) (tseq : Nat)
  /-- HEDGE_BYTES, spec/R200: A copy write performed on a tile lowers that tile's hedge byte count. -/
  | hedgeBytes (msg : Nat)
  /-- HEDGE_ROW_ARRIVAL, spec/R369: A row arrival message for a hedge register reaches the next tile east. -/
  | hedgeRowArrival (msg : Nat)
  /-- HEDGE_COLUMN_ARRIVAL, spec/R369: A column arrival message reaches the next tile of the last column. -/
  | hedgeColumnArrival (msg : Nat)
  /-- HEDGE_RELEASE, spec/R369: A hedge release reaches a tile, which sets RELGEN, returns to Idle and fills its waiters. -/
  | hedgeRelease (msg : Nat)
  /-- TASKW_REQUEST, spec/R364: The scheduler receives a TASKW request, and fills it at once or at the task's retirement. -/
  | taskwRequest (msg : Nat)
  /-- RAKE_REQUEST_START, spec/R202: The rake unit takes a request from its queue, validates its kernel, and reads index lines. -/
  | rakeRequestStart (tile : Nat) (col : Nat)
  /-- RAKE_ELEMENT, spec/R202: The rake kernel runs for one index element and emits up to eight targets. -/
  | rakeElement (tile : Nat) (col : Nat)
  /-- RAKE_FETCH_FILL, spec/R202: A rake fetch fills the rake buffer, or a prefetch fills the tile cache. -/
  | rakeFetchFill (msg : Nat)
  /-- RKSTS_READ, spec/R202: A read of RKSTS returns KERR and SKIPS and clears them. -/
  | rkstsRead (tile : Nat) (col : Nat)
  /-- LAUNCH_REQUEST, spec/R375: A front end receives a LAUNCH request, writes a ring entry at the stored tail, and fills the status. -/
  | launchRequest (msg : Nat)
  /-- TLBI_INVALIDATE, spec/R382: A column receives a TLBI invalidation, applies it in home order, and acknowledges once earlier walks finish. -/
  | tlbiInvalidate (msg : Nat)
  /-- TLBI_ACK, spec/R382: Column acknowledgements reach the TLBI's dock, which fills d once all have arrived. -/
  | tlbiAck (msg : Nat)
  /-- TBINV_PAGE, spec/R128: A TBINV write with OP 1 invalidates one page of an ASID in a column's translation buffer. -/
  | tbinvPage (tile : Nat) (col : Nat) (asid : BitVec 12) (cvapg : BitVec 32)
  /-- TBINV_ASID, spec/R128: A TBINV write with OP 2 invalidates every entry of an ASID. -/
  | tbinvAsid (tile : Nat) (col : Nat) (asid : BitVec 12)
  /-- TBINV_ALL, spec/R128: A TBINV write with OP 3 invalidates every entry. -/
  | tbinvAll (tile : Nat) (col : Nat)
  /-- INVALIDATION_COMPLETE, spec/R128: Every walk begun before the invalidation has finished, and BUSY clears. -/
  | invalidationComplete (tile : Nat) (col : Nat)
  /-- BEDW_READ_DONE, spec/R383: The descriptor image read by BEDW arrives, and the descriptor is checked and written into the tile's copy. -/
  | bedwReadDone (msg : Nat)
  /-- VTLD_TABLE_REPLACE, spec/R360: The last VTLD piece arrives, and the core replaces its decode table in one cycle. -/
  | vtldTableReplace (msg : Nat)
  /-- CACHE_CONTROL_REQUEST, spec/R340: A CPIN, CUNPIN, CHINT or CWB request is served at the home quadrant and answered by a fill. -/
  | cacheControlRequest (msg : Nat)
  /-- QPART_WRITE, spec/R134: A QPART write repartitions a quadrant, shrinking scratch at once and writing back ways that become scratch. -/
  | qpartWrite (tile : Nat) (quad : Nat) (val : BitVec 64)
  /-- QPART_CHANGE_DONE, spec/R134: The partition change completes, scratch grows if required, and BUSY clears. -/
  | qpartChangeDone (tile : Nat) (quad : Nat)
  /-- QUADRANT_COUNTER_READ, spec/R132: A read of QHIT, QMISS or QWBK returns its count and clears it. -/
  | quadrantCounterRead (tile : Nat) (quad : Nat) (k : Nat)
  /-- DOCKSTS_READ, spec/R100: A read of DOCKSTS returns REFUSALS and clears it. -/
  | dockstsRead (tile : Nat) (col : Nat)
  /-- DBG_HALT_REQUEST, spec/R228: Writing HALTREQ halts the core's group. -/
  | dbgHaltRequest (tile : Nat) (core : Nat)
  /-- DBG_RESUME_REQUEST, spec/R228: Writing RESREQ resumes the core's group. -/
  | dbgResumeRequest (tile : Nat) (core : Nat)
  /-- HALT_PROPAGATE, spec/R228: A cross-trigger halt or resume reaches a member core, which halts or resumes between issues. -/
  | haltPropagate (msg : Nat)
  /-- DEBUG_IMAGE_WRITE, spec/R230: A debugger write into the image window of a halted slot changes its registers, PC or SS. -/
  | debugImageWrite (tile : Nat) (off : Nat) (val : BitVec 64)
  /-- DEBUG_MEMORY_READ, spec/R230: A debugger memory read travels on path 5 and is ordered as a host-window read. -/
  | debugMemoryRead (tile : Nat) (pa : Nat) (len : Nat)
  /-- DEBUG_MEMORY_WRITE, spec/R230: A debugger memory write travels on path 5 and is ordered as a host-window write. -/
  | debugMemoryWrite (tile : Nat) (pa : Nat) (data : List Byte)
  /-- PATROL_SCRUB, spec/R220: The patrol scrubber reads a DRAM line and writes it back corrected. -/
  | patrolScrub (pa : Nat) (kind : Nat)
  /-- POWER_LOSS, spec/R47: The panel's 800 V DC input fails, which can tear a retirement-log append or compaction copy in progress. -/
  | powerLoss (torn : Bool)
  /-- SCALE_UP_PORT_LINK_CHANGE, spec/R40: A scale-up port's link goes Down or comes Up, which changes its LSTATE and clears it from, or returns it to, the peer masks. -/
  | scaleUpPortLinkChange (die : Nat) (port : Nat) (lstate : Nat)
  /-- HOST_READ_COMPLETION, spec/R64: A PCI Express completion for a read the I/O die issued to host memory arrives, which fills a remote read, reports DataLoss on Unsupported Request or Completer Abort, or finishes a zero-length read. -/
  | hostReadCompletion (msg : Nat) (ok : Bool)
  /-- SIEVE_SPILL_DONE, spec/R167: A spill finishes writing its runs, which clears SPILLING, releases accesses waiting at the port and ends refusals that wait for free slots. -/
  | sieveSpillDone (tile : Nat) (quad : Nat)
  /-- PREEMPTION_TILE_REPORT, spec/R218: The lead gardener receives a tile's report that it has finished step 6 of a suspension or the restore of R217, and sets JOBSTS to suspended or running once every tile has reported. -/
  | preemptionTileReport (msg : Nat)
  /-- TABLE_FETCH_REQUEST, spec/R119: A lead gardener receives a tile's request for a job's bed table, cutting table or level descriptors, and answers on class 0. -/
  | tableFetchRequest (msg : Nat)
  /-- SAFE_TALKATIVE_POWER_OFF, spec/R44: The host powers off a die or site held in the safe talkative state. -/
  | safeTalkativePowerOff (site : Nat)
deriving DecidableEq, Repr

/-- Bytes an encoded instruction takes: 2 for the 16-bit forms, 4 otherwise; 0 for a step without an encoding
(spec/13 R260). -/
def Instr.len : Instr → Nat
  | .powerMeasure _ _ => 0
  | .powerWindowEnd _ => 0
  | .panelBudgetMeasure _ => 0
  | .panelBudgetWindowEnd => 0
  | .thermalThreshold _ _ _ => 0
  | .thermalClockStep _ => 0
  | .thermalTrip _ _ => 0
  | .regulatorFail _ => 0
  | .powerOn => 0
  | .tileBoot _ _ => 0
  | .selfTestReport _ => 0
  | .bindTimeout => 0
  | .attestationRequest _ => 0
  | .fuseCommand _ _ => 0
  | .reset => 0
  | .debugOpenCommand _ => 0
  | .debugChallenge _ => 0
  | .debugToken _ => 0
  | .debugClose _ => 0
  | .debugTokenExpire => 0
  | .pwrcmdRetain _ => 0
  | .pwrcmdOff _ => 0
  | .pwrcmdRun _ => 0
  | .powerTransitionDone _ _ => 0
  | .idleEnter _ => 0
  | .idleExit _ => 0
  | .repairCommand _ _ _ => 0
  | .repairAuto _ _ _ _ => 0
  | .repairSwitch _ _ => 0
  | .flitArrival _ _ _ => 0
  | .flitAck _ _ => 0
  | .flitForward _ _ => 0
  | .escapeTimeout _ _ => 0
  | .linkAckTimeout _ _ => 0
  | .linkTrained _ _ => 0
  | .linkRetrainTimeout _ _ => 0
  | .tableUpdateReceive _ => 0
  | .tableAck _ => 0
  | .tableCommit _ => 0
  | .oldBankRelease => 0
  | .retire _ _ _ => 0
  | .retireCopyDone => 0
  | .retireGraceEnd => 0
  | .tileLoss _ => 0
  | .lossNotice _ _ => 0
  | .lossWaitExpire _ _ _ => 0
  | .peerFrame _ _ => 0
  | .peerAck _ => 0
  | .peerAckTimeout _ => 0
  | .portStatusRead _ _ => 0
  | .unsupportedRequest _ _ => 0
  | .functionLevelReset _ => 0
  | .registerWrite _ _ => 0
  | .windowRead _ _ _ => 0
  | .windowWrite _ _ _ => 0
  | .winfenceRead _ => 0
  | .queueEnable _ _ => 0
  | .queueClear _ => 0
  | .doorbell _ _ => 0
  | .queueFetch _ => 0
  | .markerWrite _ => 0
  | .evheadWrite _ _ => 0
  | .evlostRead _ => 0
  | .launchRecordDeliver _ => 0
  | .predecessorPoll _ => 0
  | .bindJob _ _ => 0
  | .releaseNotice _ => 0
  | .dispatch _ _ _ => 0
  | .slotGrant _ _ => 0
  | .jobComplete _ => 0
  | .jobcmdSuspend _ _ => 0
  | .jobcmdResume _ _ => 0
  | .jobcmdCancel _ _ => 0
  | .suspendNotice _ => 0
  | .engineSaveDone _ _ => 0
  | .resumeNotice _ => 0
  | .engineRestore _ _ => 0
  | .strandCountReport _ _ _ => 0
  | .lossCountAnswer _ _ => 0
  | .tableFetch _ => 0
  | .bedCacheFill _ _ _ => 0
  | .parkRecheck _ _ _ => 0
  | .evict _ _ => 0
  | .fill _ => 0
  | .instructionLineFill _ => 0
  | .migrationArrival _ => 0
  | .migrationAcceptance _ => 0
  | .migrationRefusal _ => 0
  | .migrationBackoffExpire _ => 0
  | .recall _ => 0
  | .migrationErrorResponse _ => 0
  | .handlerCreate _ _ => 0
  | .remoteReadServe _ => 0
  | .postedStorePerform _ => 0
  | .postedStoreAck _ => 0
  | .joinWordChange _ => 0
  | .joinIncrementAck _ => 0
  | .joinRegistration _ => 0
  | .joinRegistrationRetry _ => 0
  | .updateSend _ _ _ => 0
  | .updateFlitArrival _ => 0
  | .updateAnswer _ => 0
  | .updateResend _ _ _ => 0
  | .sieveSpill _ _ => 0
  | .forcedApply _ _ => 0
  | .flushRequest _ => 0
  | .flushAck _ => 0
  | .sieveCounterRead _ _ _ => 0
  | .taskPostArrival _ => 0
  | .taskPostRetry _ => 0
  | .taskIssue _ _ => 0
  | .copyRun _ _ _ => 0
  | .matrixStepBegin _ _ => 0
  | .matrixStepEnd _ _ => 0
  | .drainDone _ _ => 0
  | .channelStarveTimeout _ _ => 0
  | .channelFullTimeout _ _ => 0
  | .taskFinish _ _ => 0
  | .hedgeBytes _ => 0
  | .hedgeRowArrival _ => 0
  | .hedgeColumnArrival _ => 0
  | .hedgeRelease _ => 0
  | .taskwRequest _ => 0
  | .rakeRequestStart _ _ => 0
  | .rakeElement _ _ => 0
  | .rakeFetchFill _ => 0
  | .rkstsRead _ _ => 0
  | .launchRequest _ => 0
  | .tlbiInvalidate _ => 0
  | .tlbiAck _ => 0
  | .tbinvPage _ _ _ _ => 0
  | .tbinvAsid _ _ _ => 0
  | .tbinvAll _ _ => 0
  | .invalidationComplete _ _ => 0
  | .bedwReadDone _ => 0
  | .vtldTableReplace _ => 0
  | .cacheControlRequest _ => 0
  | .qpartWrite _ _ _ => 0
  | .qpartChangeDone _ _ => 0
  | .quadrantCounterRead _ _ _ => 0
  | .dockstsRead _ _ => 0
  | .dbgHaltRequest _ _ => 0
  | .dbgResumeRequest _ _ => 0
  | .haltPropagate _ => 0
  | .debugImageWrite _ _ _ => 0
  | .debugMemoryRead _ _ _ => 0
  | .debugMemoryWrite _ _ _ => 0
  | .patrolScrub _ _ => 0
  | .add16 _ _ => 2
  | .sub16 _ _ => 2
  | .and16 _ _ => 2
  | .or16 _ _ => 2
  | .xor16 _ _ => 2
  | .mov16 _ _ => 2
  | .sll16 _ _ => 2
  | .srl16 _ _ => 2
  | .addW16 _ _ => 2
  | .subW16 _ _ => 2
  | .andn16 _ _ => 2
  | .sra16 _ _ => 2
  | .mul16 _ _ => 2
  | .slt16 _ _ => 2
  | .sltn16 _ _ => 2
  | .seq16 _ _ => 2
  | .min16 _ _ => 2
  | .max16 _ _ => 2
  | .minn16 _ _ => 2
  | .maxn16 _ _ => 2
  | .rotl16 _ _ => 2
  | .mulh16 _ _ => 2
  | .mulhn16 _ _ => 2
  | .addi16 _ _ => 2
  | .li16 _ _ => 2
  | .slli16 _ _ => 2
  | .srai16 _ _ => 2
  | .andi16 _ _ => 2
  | .srli16 _ _ => 2
  | .ldD16 _ _ _ => 2
  | .stD16 _ _ _ => 2
  | .ldrD16 _ _ _ => 2
  | .stpD16 _ _ _ => 2
  | .beqz16 _ _ => 2
  | .bnez16 _ _ => 2
  | .j16 _ => 2
  | .jal16 _ => 2
  | .nop16 => 2
  | .exit16 => 2
  | .yield16 => 2
  | .ufence16 => 2
  | .predwait16 => 2
  | .nxtgo16 => 2
  | .fmt _ _ => 2
  | .powerLoss _ => 0
  | .scaleUpPortLinkChange _ _ _ => 0
  | .hostReadCompletion _ _ => 0
  | .sieveSpillDone _ _ => 0
  | .preemptionTileReport _ => 0
  | .tableFetchRequest _ => 0
  | .safeTalkativePowerOff _ => 0
  | _ => 4

end Sys2Proof
end

