-- ==== Sys2Proof/Decode.lean ====
section
/-! DEFINITION. The decoder, total on any bytes, rejecting by the name of the trap that spec/13 R268 and spec/14 R279 give, and
after it the encoder, written from the formats of spec/13 R263, R264 and the opcode map of spec/14 R269 to R278. A shape is a
set of operand fields; one reader and one writer of each shape serve every instruction of it. -/

namespace Sys2Proof

/-- Bits lo to lo + len - 1 of a number. -/
def bits (w lo len : Nat) : Nat := w / 2 ^ lo % 2 ^ len

/-- What a decoder makes of bytes: an instruction, IllegalInstruction, ReservedField, or too few bytes (spec/13
R268). Two 16-bit forms, FMT and JAL, stand apart because Lean's runtime builds no constructor with fields past the 245th of a
type; Decoded.ins? puts them back among the instructions. -/
inductive Decoded where
  | ok (ins : Instr)
  | fmt (fa fb : BitVec 4)
  | jal16 (off : BitVec 11)
  | illegal
  | reserved
  | short
deriving DecidableEq, Repr

/-- The instruction decoded, if there is one. -/
noncomputable def Decoded.ins? : Decoded → Option Instr
  | .ok ins => some ins
  | .fmt fa fb => some (.fmt fa fb)
  | .jal16 off => some (.jal16 off)
  | _ => none

/-- Step 3 of spec/13 R268: a nonzero reserved field raises ReservedField. -/
def need (resv : Nat) (ins : Instr) : Decoded := if resv = 0 then .ok ins else .reserved

/-- Steps 3 and 4 of spec/13 R268: reserved fields, then a scope code of 12 to 15. -/
def needScope (resv scope : Nat) (ins : Instr) : Decoded :=
  if resv = 0 then (if scope < 12 then .ok ins else .illegal) else .reserved

/-! ### Readers of the shapes -/

/-- ADD, SUB, MUL, MULH, MULHN, DIV, DIVN, REM and their like. -/
def dRrr (w : Nat) (c : GReg → GSrc → GSrc → Instr) : Decoded :=
  need (bits w 21 5) (c (.ofNat 4 (bits w 7 4)) ⟨.ofNat 4 (bits w 11 4), decide (bits w 15 1 = 1)⟩ ⟨.ofNat 4 (bits w 16 4), decide (bits w 20 1 = 1)⟩)
/-- SPAWN_HOME, TLBI_PAGE. -/
def dRrr2 (w : Nat) (c : GReg → GSrc → GSrc → Instr) : Decoded :=
  need (bits w 21 1) (c (.ofNat 4 (bits w 7 4)) ⟨.ofNat 4 (bits w 11 4), decide (bits w 15 1 = 1)⟩ ⟨.ofNat 4 (bits w 16 4), decide (bits w 20 1 = 1)⟩)
/-- MADD, SEL. -/
def dRrrr (w : Nat) (c : GReg → GSrc → GSrc → GSrc → Instr) : Decoded :=
  .ok (c (.ofNat 4 (bits w 7 4)) ⟨.ofNat 4 (bits w 11 4), decide (bits w 15 1 = 1)⟩ ⟨.ofNat 4 (bits w 16 4), decide (bits w 20 1 = 1)⟩ ⟨.ofNat 4 (bits w 21 4), decide (bits w 25 1 = 1)⟩)
/-- MOV, CLZ, CTZ, POPC, BREV, BSWAP, SEXT_B, SEXT_H and their like. -/
def dRr (w : Nat) (c : GReg → GSrc → Instr) : Decoded :=
  need (bits w 16 10) (c (.ofNat 4 (bits w 7 4)) ⟨.ofNat 4 (bits w 11 4), decide (bits w 15 1 = 1)⟩)
/-- SPAWN. -/
def dRr2 (w : Nat) (c : GReg → GSrc → Instr) : Decoded :=
  need (bits w 16 6) (c (.ofNat 4 (bits w 7 4)) ⟨.ofNat 4 (bits w 11 4), decide (bits w 15 1 = 1)⟩)
/-- ADDI, ANDI, ORI, XORI, SLTI, JALR. -/
def dRi (w : Nat) (c : GReg → GSrc → BitVec 12 → Instr) : Decoded :=
  .ok (c (.ofNat 4 (bits w 7 4)) ⟨.ofNat 4 (bits w 11 4), decide (bits w 15 1 = 1)⟩ (.ofNat 12 (bits w 20 12)))
/-- SLLI, SRLI, SRAI, ROTLI. -/
def dRsh (w : Nat) (c : GReg → GSrc → BitVec 6 → Instr) : Decoded :=
  need (bits w 26 6) (c (.ofNat 4 (bits w 7 4)) ⟨.ofNat 4 (bits w 11 4), decide (bits w 15 1 = 1)⟩ (.ofNat 6 (bits w 20 6)))
/-- BFX, BFXN, BFI. -/
def dBf (w : Nat) (c : GReg → GSrc → BitVec 6 → BitVec 6 → Instr) : Decoded :=
  .ok (c (.ofNat 4 (bits w 7 4)) ⟨.ofNat 4 (bits w 11 4), decide (bits w 15 1 = 1)⟩ (.ofNat 6 (bits w 20 6)) (.ofNat 6 (bits w 26 6)))
/-- LOOP. -/
def dLoop (w : Nat) (c : GReg → BitVec 12 → Instr) : Decoded :=
  need (bits w 11 5) (c (.ofNat 4 (bits w 7 4)) (.ofNat 12 (bits w 20 12)))
/-- NOP. -/
def dNil (w : Nat) (c : Instr) : Decoded :=
  need (bits w 7 9 + bits w 20 12) c
/-- PIN, UNPIN, RAKEW, EXIT, NXTGO, PREDWAIT, YIELD. -/
def dNil2 (w : Nat) (c : Instr) : Decoded :=
  need (bits w 7 19) c
/-- NOP_16, EXIT_16, YIELD_16, UFENCE_16, PREDWAIT_16, NXTGO_16. -/
def dNil3 (w : Nat) (c : Instr) : Decoded :=
  need (bits w 2 8) c
/-- LUI, AUIPC, LI. -/
def dU (w : Nat) (c : GReg → BitVec 21 → Instr) : Decoded :=
  .ok (c (.ofNat 4 (bits w 7 4)) (.ofNat 21 (bits w 11 21)))
/-- J. -/
def dJ (w : Nat) (c : BitVec 20 → Instr) : Decoded :=
  need (bits w 7 4) (c (.ofNat 20 (bits w 12 20)))
/-- JAL. -/
def dJal (w : Nat) (c : GReg → BitVec 20 → Instr) : Decoded :=
  .ok (c (.ofNat 4 (bits w 7 4)) (.ofNat 20 (bits w 12 20)))
/-- BEQ, BNE, BLT, BGE, BLTN, BGEN. -/
def dBr (w : Nat) (c : GSrc → GSrc → BitVec 12 → Instr) : Decoded :=
  .ok (c ⟨.ofNat 4 (bits w 7 4), decide (bits w 11 1 = 1)⟩ ⟨.ofNat 4 (bits w 12 4), decide (bits w 16 1 = 1)⟩ (.ofNat 12 (bits w 20 12)))
/-- BEQZ, BNEZ. -/
def dBrz (w : Nat) (c : GSrc → BitVec 12 → Instr) : Decoded :=
  need (bits w 12 5) (c ⟨.ofNat 4 (bits w 7 4), decide (bits w 11 1 = 1)⟩ (.ofNat 12 (bits w 20 12)))
/-- LD, LDR, ST, STP, STM, STO. -/
def dM (w : Nat) (c : GSrc → GSrc → BitVec 2 → BitVec 9 → Instr) : Decoded :=
  .ok (c ⟨.ofNat 4 (bits w 7 4), decide (bits w 16 1 = 1)⟩ ⟨.ofNat 4 (bits w 11 4), decide (bits w 15 1 = 1)⟩ (.ofNat 2 (bits w 17 2)) (.ofNat 9 (bits w 23 9)))
/-- LDN. -/
def dM2 (w : Nat) (c : GSrc → GSrc → BitVec 2 → BitVec 9 → Instr) : Decoded :=
  need (bits w 17 2 / 3) (c ⟨.ofNat 4 (bits w 7 4), decide (bits w 16 1 = 1)⟩ ⟨.ofNat 4 (bits w 11 4), decide (bits w 15 1 = 1)⟩ (.ofNat 2 (bits w 17 2)) (.ofNat 9 (bits w 23 9)))
/-- VLD, LDR_WIDE, VST, VSTP, VUPD. -/
def dMw (w : Nat) (c : WSrc → GSrc → BitVec 9 → Instr) : Decoded :=
  need (bits w 10 1 + bits w 17 2) (c ⟨.ofNat 3 (bits w 7 3), decide (bits w 16 1 = 1)⟩ ⟨.ofNat 4 (bits w 11 4), decide (bits w 15 1 = 1)⟩ (.ofNat 9 (bits w 23 9)))
/-- LDAQ, STRL. -/
def dMs (w : Nat) (c : GSrc → GSrc → BitVec 4 → BitVec 2 → BitVec 9 → Instr) : Decoded :=
  needScope (0) (bits w 19 4) (c ⟨.ofNat 4 (bits w 7 4), decide (bits w 16 1 = 1)⟩ ⟨.ofNat 4 (bits w 11 4), decide (bits w 15 1 = 1)⟩ (.ofNat 4 (bits w 19 4)) (.ofNat 2 (bits w 17 2)) (.ofNat 9 (bits w 23 9)))
/-- AMOADD, AMOAND, AMOOR, AMOXOR, AMOMIN, AMOMAX, AMOMINN, AMOMAXN and their like. -/
def dMa (w : Nat) (c : GSrc → GSrc → BitVec 9 → Instr) : Decoded :=
  need ((3 - bits w 17 2)) (c ⟨.ofNat 4 (bits w 7 4), decide (bits w 16 1 = 1)⟩ ⟨.ofNat 4 (bits w 11 4), decide (bits w 15 1 = 1)⟩ (.ofNat 9 (bits w 23 9)))
/-- UFLUSH, RAKE. -/
def dMn (w : Nat) (c : GSrc → BitVec 9 → Instr) : Decoded :=
  need (bits w 7 4 + bits w 16 3) (c ⟨.ofNat 4 (bits w 11 4), decide (bits w 15 1 = 1)⟩ (.ofNat 9 (bits w 23 9)))
/-- FENCE, PFENCE, XFENCE. -/
def dFs (w : Nat) (c : GReg → BitVec 4 → Instr) : Decoded :=
  needScope (bits w 11 11) (bits w 22 4) (c (.ofNat 4 (bits w 7 4)) (.ofNat 4 (bits w 22 4)))
/-- UFENCE, WAITC. -/
def dD (w : Nat) (c : GReg → Instr) : Decoded :=
  need (bits w 11 15) (c (.ofNat 4 (bits w 7 4)))
/-- TLBI_ALL. -/
def dD2 (w : Nat) (c : GReg → Instr) : Decoded :=
  need (bits w 11 11) (c (.ofNat 4 (bits w 7 4)))
/-- MIGR, PREF, KILL. -/
def dA (w : Nat) (c : GSrc → Instr) : Decoded :=
  need (bits w 7 4 + bits w 16 10) (c ⟨.ofNat 4 (bits w 11 4), decide (bits w 15 1 = 1)⟩)
/-- RESUME. -/
def dA2 (w : Nat) (c : GSrc → Instr) : Decoded :=
  need (bits w 7 4 + bits w 16 6) (c ⟨.ofNat 4 (bits w 11 4), decide (bits w 15 1 = 1)⟩)
/-- FADD, FSUB, FMUL, FDIV, FMIN, FMAX, FMINP, FMAXP. -/
def dF3 (w : Nat) (c : BitVec 2 → GReg → GSrc → GSrc → Instr) : Decoded :=
  need (bits w 21 5 + bits w 26 2 / 3) (c (.ofNat 2 (bits w 26 2)) (.ofNat 4 (bits w 7 4)) ⟨.ofNat 4 (bits w 11 4), decide (bits w 15 1 = 1)⟩ ⟨.ofNat 4 (bits w 16 4), decide (bits w 20 1 = 1)⟩)
/-- FSGNJ, FEQ, FLT, FLE. -/
def dF32 (w : Nat) (c : BitVec 2 → GReg → GSrc → GSrc → Instr) : Decoded :=
  need (bits w 25 1 + bits w 26 2 / 3) (c (.ofNat 2 (bits w 26 2)) (.ofNat 4 (bits w 7 4)) ⟨.ofNat 4 (bits w 11 4), decide (bits w 15 1 = 1)⟩ ⟨.ofNat 4 (bits w 16 4), decide (bits w 20 1 = 1)⟩)
/-- FFMA, FFMS. -/
def dF4 (w : Nat) (c : BitVec 2 → GReg → GSrc → GSrc → GSrc → Instr) : Decoded :=
  need (bits w 26 2 / 3) (c (.ofNat 2 (bits w 26 2)) (.ofNat 4 (bits w 7 4)) ⟨.ofNat 4 (bits w 11 4), decide (bits w 15 1 = 1)⟩ ⟨.ofNat 4 (bits w 16 4), decide (bits w 20 1 = 1)⟩ ⟨.ofNat 4 (bits w 21 4), decide (bits w 25 1 = 1)⟩)
/-- FSQRT. -/
def dF2 (w : Nat) (c : BitVec 2 → GReg → GSrc → Instr) : Decoded :=
  need (bits w 16 10 + bits w 26 2 / 3) (c (.ofNat 2 (bits w 26 2)) (.ofNat 4 (bits w 7 4)) ⟨.ofNat 4 (bits w 11 4), decide (bits w 15 1 = 1)⟩)
/-- FABS, FNEG, FCLASS. -/
def dF22 (w : Nat) (c : BitVec 2 → GReg → GSrc → Instr) : Decoded :=
  need (bits w 16 5 + bits w 25 1 + bits w 26 2 / 3) (c (.ofNat 2 (bits w 26 2)) (.ofNat 4 (bits w 7 4)) ⟨.ofNat 4 (bits w 11 4), decide (bits w 15 1 = 1)⟩)
/-- FCVT, FCVTI, ICVTF. -/
def dFe (w : Nat) (c : BitVec 2 → GReg → GSrc → BitVec 4 → Instr) : Decoded :=
  need (bits w 20 6 + bits w 26 2 / 3) (c (.ofNat 2 (bits w 26 2)) (.ofNat 4 (bits w 7 4)) ⟨.ofNat 4 (bits w 11 4), decide (bits w 15 1 = 1)⟩ (.ofNat 4 (bits w 16 4)))
/-- VADD, VSUB, VMUL, VMIN, VMAX, VCMPEQ, VCMPLT, VCMPLE and their like. -/
def dV3f (w : Nat) (c : BitVec 2 → WReg → WSrc → WSrc → Instr) : Decoded :=
  need (bits w 18 6) (c (.ofNat 2 (bits w 24 2)) (.ofNat 3 (bits w 7 3)) ⟨.ofNat 3 (bits w 10 3), decide (bits w 13 1 = 1)⟩ ⟨.ofNat 3 (bits w 14 3), decide (bits w 17 1 = 1)⟩)
/-- VMINP, VMAXP. -/
def dV3f2 (w : Nat) (c : BitVec 2 → WReg → WSrc → WSrc → Instr) : Decoded :=
  need (bits w 18 6 + bits w 24 2 / 3) (c (.ofNat 2 (bits w 24 2)) (.ofNat 3 (bits w 7 3)) ⟨.ofNat 3 (bits w 10 3), decide (bits w 13 1 = 1)⟩ ⟨.ofNat 3 (bits w 14 3), decide (bits w 17 1 = 1)⟩)
/-- VFMA, VFMS, VFNMA. -/
def dV4f (w : Nat) (c : BitVec 2 → WReg → WSrc → WSrc → WSrc → Instr) : Decoded :=
  need (bits w 22 2) (c (.ofNat 2 (bits w 24 2)) (.ofNat 3 (bits w 7 3)) ⟨.ofNat 3 (bits w 10 3), decide (bits w 13 1 = 1)⟩ ⟨.ofNat 3 (bits w 14 3), decide (bits w 17 1 = 1)⟩ ⟨.ofNat 3 (bits w 18 3), decide (bits w 21 1 = 1)⟩)
/-- VABS, VNEG, VSUM, VCOMP. -/
def dV2f (w : Nat) (c : BitVec 2 → WReg → WSrc → Instr) : Decoded :=
  need (bits w 14 10) (c (.ofNat 2 (bits w 24 2)) (.ofNat 3 (bits w 7 3)) ⟨.ofNat 3 (bits w 10 3), decide (bits w 13 1 = 1)⟩)
/-- VEXP2, VLOG2, VRCP, VRSQ, VDEC, VENC. -/
def dV2f2 (w : Nat) (c : BitVec 2 → WReg → WSrc → Instr) : Decoded :=
  need (bits w 14 10 + bits w 24 2 / 3) (c (.ofNat 2 (bits w 24 2)) (.ofNat 3 (bits w 7 3)) ⟨.ofNat 3 (bits w 10 3), decide (bits w 13 1 = 1)⟩)
/-- VAND, VOR, VXOR, VPERM. -/
def dV3 (w : Nat) (c : WReg → WSrc → WSrc → Instr) : Decoded :=
  need (bits w 18 8) (c (.ofNat 3 (bits w 7 3)) ⟨.ofNat 3 (bits w 10 3), decide (bits w 13 1 = 1)⟩ ⟨.ofNat 3 (bits w 14 3), decide (bits w 17 1 = 1)⟩)
/-- VSEL. -/
def dV4 (w : Nat) (c : WReg → WSrc → WSrc → WSrc → Instr) : Decoded :=
  need (bits w 22 4) (c (.ofNat 3 (bits w 7 3)) ⟨.ofNat 3 (bits w 10 3), decide (bits w 13 1 = 1)⟩ ⟨.ofNat 3 (bits w 14 3), decide (bits w 17 1 = 1)⟩ ⟨.ofNat 3 (bits w 18 3), decide (bits w 21 1 = 1)⟩)
/-- VMOV. -/
def dV2 (w : Nat) (c : WReg → WSrc → Instr) : Decoded :=
  need (bits w 14 12) (c (.ofNat 3 (bits w 7 3)) ⟨.ofNat 3 (bits w 10 3), decide (bits w 13 1 = 1)⟩)
/-- VCVT. -/
def dVcvt (w : Nat) (c : BitVec 2 → WReg → WSrc → BitVec 3 → Instr) : Decoded :=
  need (bits w 14 4 + bits w 21 3 + bits w 18 3 / 4) (c (.ofNat 2 (bits w 24 2)) (.ofNat 3 (bits w 7 3)) ⟨.ofNat 3 (bits w 10 3), decide (bits w 13 1 = 1)⟩ (.ofNat 3 (bits w 18 3)))
/-- VSHL, VSHR, VSRA. -/
def dVg (w : Nat) (c : BitVec 2 → WReg → WSrc → GSrc → Instr) : Decoded :=
  need (bits w 10 1 + bits w 20 4) (c (.ofNat 2 (bits w 24 2)) (.ofNat 3 (bits w 7 3)) ⟨.ofNat 3 (bits w 11 3), decide (bits w 14 1 = 1)⟩ ⟨.ofNat 4 (bits w 15 4), decide (bits w 19 1 = 1)⟩)
/-- VBCST. -/
def dVb (w : Nat) (c : WReg → GSrc → Instr) : Decoded :=
  need (bits w 10 5 + bits w 20 6) (c (.ofNat 3 (bits w 7 3)) ⟨.ofNat 4 (bits w 15 4), decide (bits w 19 1 = 1)⟩)
/-- VINS. -/
def dVins (w : Nat) (c : WReg → WSrc → GSrc → BitVec 4 → Instr) : Decoded :=
  need (bits w 10 1 + bits w 24 2) (c (.ofNat 3 (bits w 7 3)) ⟨.ofNat 3 (bits w 11 3), decide (bits w 14 1 = 1)⟩ ⟨.ofNat 4 (bits w 15 4), decide (bits w 19 1 = 1)⟩ (.ofNat 4 (bits w 20 4)))
/-- VEXT. -/
def dVext (w : Nat) (c : GReg → WSrc → BitVec 4 → Instr) : Decoded :=
  need (bits w 15 5 + bits w 24 2) (c (.ofNat 4 (bits w 7 4)) ⟨.ofNat 3 (bits w 11 3), decide (bits w 14 1 = 1)⟩ (.ofNat 4 (bits w 20 4)))
/-- VSLIDE. -/
def dVsl (w : Nat) (c : WReg → WSrc → BitVec 4 → Instr) : Decoded :=
  need (bits w 10 1 + bits w 15 5 + bits w 24 2) (c (.ofNat 3 (bits w 7 3)) ⟨.ofNat 3 (bits w 11 3), decide (bits w 14 1 = 1)⟩ (.ofNat 4 (bits w 20 4)))
/-- VTLD. -/
def dG (w : Nat) (c : GSrc → Instr) : Decoded :=
  need (bits w 7 8 + bits w 20 6) (c ⟨.ofNat 4 (bits w 15 4), decide (bits w 19 1 = 1)⟩)
/-- HARM. -/
def dHarm (w : Nat) (c : BitVec 4 → GSrc → GSrc → Instr) : Decoded :=
  need (bits w 7 4 + bits w 21 1) (c (.ofNat 4 (bits w 22 4)) ⟨.ofNat 4 (bits w 11 4), decide (bits w 15 1 = 1)⟩ ⟨.ofNat 4 (bits w 16 4), decide (bits w 20 1 = 1)⟩)
/-- HARR. -/
def dHarr (w : Nat) (c : GReg → BitVec 4 → Instr) : Decoded :=
  need (bits w 11 11) (c (.ofNat 4 (bits w 7 4)) (.ofNat 4 (bits w 22 4)))
/-- HWAIT. -/
def dHwait (w : Nat) (c : GReg → GSrc → BitVec 4 → Instr) : Decoded :=
  need (bits w 16 6) (c (.ofNat 4 (bits w 7 4)) ⟨.ofNat 4 (bits w 11 4), decide (bits w 15 1 = 1)⟩ (.ofNat 4 (bits w 22 4)))
/-- SRD. -/
def dSrd (w : Nat) (c : GReg → BitVec 6 → Instr) : Decoded :=
  need (bits w 11 5 + bits w 20 2 + bits w 24 1) (c (.ofNat 4 (bits w 7 4)) (.ofNat 6 (bits w 16 4 + 16 * bits w 22 2)))
/-- SRD_HANDLE. -/
def dSrdh (w : Nat) (c : GReg → GSrc → BitVec 6 → Instr) : Decoded :=
  need (bits w 20 2 + bits w 24 1) (c (.ofNat 4 (bits w 7 4)) ⟨.ofNat 4 (bits w 11 4), decide (bits w 15 1 = 1)⟩ (.ofNat 6 (bits w 16 4 + 16 * bits w 22 2)))
/-- SWR. -/
def dSwr (w : Nat) (c : BitVec 6 → GSrc → Instr) : Decoded :=
  need (bits w 7 4 + bits w 20 2 + bits w 24 1) (c (.ofNat 6 (bits w 16 4 + 16 * bits w 22 2)) ⟨.ofNat 4 (bits w 11 4), decide (bits w 15 1 = 1)⟩)
/-- SWR_HANDLE. -/
def dSwrh (w : Nat) (c : GReg → BitVec 6 → GSrc → Instr) : Decoded :=
  need (bits w 20 2 + bits w 24 1) (c (.ofNat 4 (bits w 7 4)) (.ofNat 6 (bits w 16 4 + 16 * bits w 22 2)) ⟨.ofNat 4 (bits w 11 4), decide (bits w 15 1 = 1)⟩)
/-- TRAP, BKPT. -/
def dTrap (w : Nat) (c : BitVec 12 → Instr) : Decoded :=
  need (bits w 7 4 + bits w 15 1 + bits w 20 2) (c (.ofNat 12 (bits w 11 4 + 16 * bits w 16 4 + 256 * bits w 22 4)))
/-- RESUME_MIGRATE. -/
def dAb (w : Nat) (c : GSrc → GSrc → Instr) : Decoded :=
  need (bits w 7 4 + bits w 21 1) (c ⟨.ofNat 4 (bits w 11 4), decide (bits w 15 1 = 1)⟩ ⟨.ofNat 4 (bits w 16 4), decide (bits w 20 1 = 1)⟩)
/-- TLBI_ASID. -/
def dDb (w : Nat) (c : GReg → GSrc → Instr) : Decoded :=
  need (bits w 11 5 + bits w 21 1) (c (.ofNat 4 (bits w 7 4)) ⟨.ofNat 4 (bits w 16 4), decide (bits w 20 1 = 1)⟩)
/-- CLRE, WAITF, UNCUT, DROP. -/
def dSt (w : Nat) (c : GReg → Instr) : Decoded :=
  need (bits w 7 4 + bits w 15 11) (c (.ofNat 4 (bits w 11 4)))
/-- CLRE_W, WAITF_W, UNCUT_W, DROP_W. -/
def dStw (w : Nat) (c : WReg → Instr) : Decoded :=
  need (bits w 7 4 + bits w 14 12) (c (.ofNat 3 (bits w 11 3)))
/-- ISF. -/
def dIsf (w : Nat) (c : GReg → GReg → Instr) : Decoded :=
  need (bits w 15 11) (c (.ofNat 4 (bits w 7 4)) (.ofNat 4 (bits w 11 4)))
/-- ISF_W. -/
def dIsfw (w : Nat) (c : GReg → WReg → Instr) : Decoded :=
  need (bits w 14 12) (c (.ofNat 4 (bits w 7 4)) (.ofNat 3 (bits w 11 3)))
/-- CUT. -/
def dCut (w : Nat) (c : GReg → BitVec 8 → Instr) : Decoded :=
  need (bits w 7 4 + bits w 15 1 + bits w 20 1 + bits w 25 1) (c (.ofNat 4 (bits w 11 4)) (.ofNat 8 (bits w 21 4 + 16 * bits w 16 4)))
/-- CUT_W. -/
def dCutw (w : Nat) (c : WReg → BitVec 8 → Instr) : Decoded :=
  need (bits w 7 4 + bits w 14 2 + bits w 20 1 + bits w 25 1) (c (.ofNat 3 (bits w 11 3)) (.ofNat 8 (bits w 21 4 + 16 * bits w 16 4)))
/-- XSET. -/
def dXset (w : Nat) (c : XReg → GSrc → Instr) : Decoded :=
  need (bits w 10 1 + bits w 16 10) (c (.ofNat 3 (bits w 7 3)) ⟨.ofNat 4 (bits w 11 4), decide (bits w 15 1 = 1)⟩)
/-- XGET. -/
def dXget (w : Nat) (c : GReg → XReg → Instr) : Decoded :=
  need (bits w 14 12) (c (.ofNat 4 (bits w 7 4)) (.ofNat 3 (bits w 11 3)))
/-- XLI. -/
def dXli (w : Nat) (c : XReg → BitVec 22 → Instr) : Decoded :=
  .ok (c (.ofNat 3 (bits w 7 3)) (.ofNat 22 (bits w 10 22)))
/-- ADD_16, SUB_16, AND_16, OR_16, XOR_16, MOV_16, SLL_16, SRL_16 and their like. -/
def dHa (w : Nat) (c : GReg → GReg → Instr) : Decoded :=
  .ok (c (.ofNat 4 (bits w 2 4)) (.ofNat 4 (bits w 6 4)))
/-- ADDI_16, LI_16, SLLI_16, SRAI_16, ANDI_16, SRLI_16. -/
def dHi (w : Nat) (c : GReg → BitVec 6 → Instr) : Decoded :=
  .ok (c (.ofNat 4 (bits w 2 4)) (.ofNat 6 (bits w 6 6)))
/-- LD_D_16, ST_D_16, LDR_D_16, STP_D_16. -/
def dHm (w : Nat) (c : GReg → GReg → BitVec 3 → Instr) : Decoded :=
  .ok (c (.ofNat 4 (bits w 2 4)) (.ofNat 4 (bits w 6 4)) (.ofNat 3 (bits w 10 3)))
/-- BEQZ_16, BNEZ_16. -/
def dHb (w : Nat) (c : GReg → BitVec 7 → Instr) : Decoded :=
  .ok (c (.ofNat 4 (bits w 2 4)) (.ofNat 7 (bits w 6 7)))
/-- J_16, JAL_16. -/
def dHj (w : Nat) (c : BitVec 11 → Instr) : Decoded :=
  .ok (c (.ofNat 11 (bits w 2 11)))

/-! ### The 32-bit map (spec/14 R271 to R278) -/

/-- Integer register-register (spec/14 R271). -/
def decodeMaj0 (w : Nat) : Decoded :=
  match bits w 26 6 with
  | 0 => dRrr w .add
  | 1 => dRrr w .sub
  | 2 => dRrr w .mul
  | 3 => dRrr w .mulh
  | 4 => dRrr w .mulhn
  | 5 => dRrrr w .madd
  | 6 => dRrr w .div
  | 7 => dRrr w .divn
  | 8 => dRrr w .rem
  | 9 => dRrr w .remn
  | 10 => dRrr w .and
  | 11 => dRrr w .or
  | 12 => dRrr w .xor
  | 13 => dRrr w .andn
  | 14 => dRrr w .sll
  | 15 => dRrr w .srl
  | 16 => dRrr w .sra
  | 17 => dRrr w .rotl
  | 18 => dRrr w .min
  | 19 => dRrr w .max
  | 20 => dRrr w .minn
  | 21 => dRrr w .maxn
  | 22 => dRrr w .slt
  | 23 => dRrr w .sltn
  | 24 => dRrr w .seq
  | 25 => dRrrr w .sel
  | 26 => dRr w .mov
  | 27 => dRr w .clz
  | 28 => dRr w .ctz
  | 29 => dRr w .popc
  | 30 => dRr w .brev
  | 31 => dRr w .bswap
  | 32 => dRr w .sextB
  | 33 => dRr w .sextH
  | 34 => dRr w .sextW
  | 35 => dRr w .zextB
  | 36 => dRr w .zextH
  | 37 => dRr w .zextW
  | 40 => dRrr w .addW
  | 41 => dRrr w .subW
  | 42 => dRrr w .sllW
  | 43 => dRrr w .srlW
  | 44 => dRrr w .sraW
  | _ => .illegal

/-- Integer immediate (spec/14 R272). -/
def decodeMaj1 (w : Nat) : Decoded :=
  match bits w 16 4 with
  | 0 => dRi w .addi
  | 1 => dRi w .andi
  | 2 => dRi w .ori
  | 3 => dRi w .xori
  | 4 => dRsh w .slli
  | 5 => dRsh w .srli
  | 6 => dRsh w .srai
  | 7 => dRsh w .rotli
  | 8 => dRi w .slti
  | 9 => dBf w .bfx
  | 10 => dBf w .bfxn
  | 11 => dBf w .bfi
  | 12 => dRi w .jalr
  | 13 => dLoop w .loop
  | 14 => dNil w .nop
  | _ => .illegal

/-- Jumps (spec/14 R273). -/
def decodeMaj5 (w : Nat) : Decoded :=
  match bits w 11 1 with
  | 0 => dJ w .j
  | _ => dJal w .jal

/-- Branches (spec/14 R273). -/
def decodeMaj6 (w : Nat) : Decoded :=
  match bits w 17 3 with
  | 0 => dBr w .beq
  | 1 => dBr w .bne
  | 2 => dBr w .blt
  | 3 => dBr w .bge
  | 4 => dBr w .bltn
  | 5 => dBr w .bgen
  | 6 => dBrz w .beqz
  | _ => dBrz w .bnez

/-- Loads (spec/14 R274). -/
def decodeMaj7 (w : Nat) : Decoded :=
  match bits w 19 4 with
  | 0 => dM w .ld
  | 1 => dM2 w .ldn
  | 2 => dM w .ldr
  | 3 => dMw w .vld
  | 4 => dMw w .ldrWide
  | _ => .illegal

/-- Stores (spec/14 R274). -/
def decodeMaj8 (w : Nat) : Decoded :=
  match bits w 19 4 with
  | 0 => dM w .st
  | 1 => dMw w .vst
  | 2 => dM w .stp
  | 3 => dMw w .vstp
  | 4 => dM w .stm
  | 5 => dM w .sto
  | _ => .illegal

/-- Local atomics (spec/14 R274). -/
def decodeMaj11 (w : Nat) : Decoded :=
  match bits w 19 4 with
  | 0 => dMa w .amoadd
  | 1 => dMa w .amoand
  | 2 => dMa w .amoor
  | 3 => dMa w .amoxor
  | 4 => dMa w .amomin
  | 5 => dMa w .amomax
  | 6 => dMa w .amominn
  | 7 => dMa w .amomaxn
  | 8 => dMa w .amoswp
  | 9 => dMa w .amocas
  | _ => .illegal

/-- Updates and RAKE (spec/14 R274). -/
def decodeMaj12 (w : Nat) : Decoded :=
  match bits w 19 4 with
  | 0 => dMa w .upd
  | 1 => dMw w .vupd
  | 2 => dMn w .uflush
  | 3 => dMn w .rake
  | _ => .illegal

/-- Fences, migration and cache control (spec/14 R275). -/
def decodeMaj13 (w : Nat) : Decoded :=
  match bits w 26 6 with
  | 0 => dFs w .fence
  | 1 => dFs w .pfence
  | 2 => dFs w .xfence
  | 3 => dD w .ufence
  | 4 => dA w .migr
  | 5 => dRr w .home
  | 6 => dNil2 w .pin
  | 7 => dNil2 w .unpin
  | 8 => dA w .pref
  | 9 => dRrr w .cpin
  | 10 => dRrr w .cunpin
  | 11 => dRrr w .chint
  | 12 => dRrr w .cwb
  | 13 => dRrr w .replsync
  | 14 => dNil2 w .rakew
  | _ => .illegal

/-- Scalar floating point (spec/14 R276). -/
def decodeMaj14 (w : Nat) : Decoded :=
  match bits w 28 4 with
  | 0 => dF3 w .fadd
  | 1 => dF3 w .fsub
  | 2 => dF3 w .fmul
  | 3 => dF3 w .fdiv
  | 4 => dF4 w .ffma
  | 5 => dF4 w .ffms
  | 6 => dF2 w .fsqrt
  | 7 => dF3 w .fmin
  | 8 => dF3 w .fmax
  | 9 => dF3 w .fminp
  | 10 => dF3 w .fmaxp
  | 11 =>
    match bits w 21 4 with
    | 0 => dF22 w .fabs
    | 1 => dF22 w .fneg
    | 2 => dF32 w .fsgnj
    | _ => .illegal
  | 12 =>
    match bits w 21 4 with
    | 0 => dF32 w .feq
    | 1 => dF32 w .flt
    | 2 => dF32 w .fle
    | 3 => dF22 w .fclass
    | _ => .illegal
  | 13 => dFe w .fcvt
  | 14 => dFe w .fcvti
  | _ => dFe w .icvtf

/-- Wide instructions (spec/14 R277). -/
def decodeMaj15 (w : Nat) : Decoded :=
  match bits w 26 6 with
  | 0 => dV3f w .vadd
  | 1 => dV3f w .vsub
  | 2 => dV3f w .vmul
  | 3 => dV4f w .vfma
  | 4 => dV4f w .vfms
  | 5 => dV4f w .vfnma
  | 6 => dV3f w .vmin
  | 7 => dV3f w .vmax
  | 8 => dV3f2 w .vminp
  | 9 => dV3f2 w .vmaxp
  | 10 => dV2f w .vabs
  | 11 => dV2f w .vneg
  | 12 => dV3 w .vand
  | 13 => dV3 w .vor
  | 14 => dV3 w .vxor
  | 15 => dV3f w .vcmpeq
  | 16 => dV3f w .vcmplt
  | 17 => dV3f w .vcmple
  | 18 => dV4 w .vsel
  | 19 => dVcvt w .vcvt
  | 20 => dV2f w .vsum
  | 21 => dV3f w .vdot
  | 22 => dV2f2 w .vexp2
  | 23 => dV2f2 w .vlog2
  | 24 => dV2f2 w .vrcp
  | 25 => dV2f2 w .vrsq
  | 26 => dV3 w .vperm
  | 27 => dV2 w .vmov
  | 28 => dV2f w .vcomp
  | 29 => dV2f2 w .vdec
  | 30 => dV2f2 w .venc
  | _ => .illegal

/-- Wide instructions with a g operand or an immediate (spec/14 R278). -/
def decodeMaj16 (w : Nat) : Decoded :=
  match bits w 26 6 with
  | 0 => dVg w .vshl
  | 1 => dVg w .vshr
  | 2 => dVg w .vsra
  | 3 => dVb w .vbcst
  | 4 => dVins w .vins
  | 5 => dVext w .vext
  | 6 => dVsl w .vslide
  | 7 => dG w .vtld
  | _ => .illegal

/-- Tasks, hedges, strands and jobs (spec/14 R275, spec/18 R361). -/
def decodeMaj17 (w : Nat) : Decoded :=
  match bits w 26 6 with
  | 0 => dRrr w .mtask
  | 1 => dRr w .ctask
  | 2 => dRr w .taskw
  | 3 => dD w .waitc
  | 4 => dHarm w .harm
  | 5 => dHarr w .harr
  | 6 => dHwait w .hwait
  | 7 =>
    match bits w 22 4 with
    | 0 => dRr2 w .spawn
    | 1 => dRrr2 w .spawnHome
    | _ => .illegal
  | 8 => dRr w .join
  | 9 => dNil2 w .exit
  | 10 => dRrr w .launch
  | 11 => dNil2 w .nxtgo
  | 12 => dNil2 w .predwait
  | 13 => dNil2 w .yield
  | _ => .illegal

/-- Special registers, traps, supervisor (spec/14 R275, spec/18 R361). -/
def decodeMaj18 (w : Nat) : Decoded :=
  match bits w 26 6 with
  | 0 =>
    match bits w 25 1 with
    | 0 => dSrd w .srd
    | _ => dSrdh w .srdHandle
  | 1 =>
    match bits w 25 1 with
    | 0 => dSwr w .swr
    | _ => dSwrh w .swrHandle
  | 2 => dTrap w .trap
  | 3 =>
    match bits w 22 4 with
    | 0 => dA2 w .resume
    | 1 => dAb w .resumeMigrate
    | _ => .illegal
  | 4 => dA w .kill
  | 5 => dTrap w .bkpt
  | 6 =>
    match bits w 22 4 with
    | 1 => dRrr2 w .tlbiPage
    | 2 => dDb w .tlbiAsid
    | 3 => dD2 w .tlbiAll
    | _ => .illegal
  | 7 => dRrr w .bedw
  | _ => .illegal

/-- Register states and operand extension (spec/14 R275). -/
def decodeMaj19 (w : Nat) : Decoded :=
  match bits w 26 6 with
  | 0 => dSt w .clre
  | 1 => dIsf w .isf
  | 2 => dSt w .waitf
  | 3 => dCut w .cut
  | 4 => dSt w .uncut
  | 5 => dSt w .drop
  | 6 => dXset w .xset
  | 7 => dXget w .xget
  | 8 => dStw w .clreW
  | 9 => dIsfw w .isfW
  | 10 => dStw w .waitfW
  | 11 => dCutw w .cutW
  | 12 => dStw w .uncutW
  | 13 => dStw w .dropW
  | _ => .illegal

/-- A 32-bit instruction by its major opcode (spec/13 R265). -/
def decode32 (w : Nat) : Decoded :=
  match bits w 2 5 with
  | 0 => decodeMaj0 w
  | 1 => decodeMaj1 w
  | 2 => dU w .lui
  | 3 => dU w .auipc
  | 4 => dU w .li
  | 5 => decodeMaj5 w
  | 6 => decodeMaj6 w
  | 7 => decodeMaj7 w
  | 8 => decodeMaj8 w
  | 9 => dMs w .ldaq
  | 10 => dMs w .strl
  | 11 => decodeMaj11 w
  | 12 => decodeMaj12 w
  | 13 => decodeMaj13 w
  | 14 => decodeMaj14 w
  | 15 => decodeMaj15 w
  | 16 => decodeMaj16 w
  | 17 => decodeMaj17 w
  | 18 => decodeMaj18 w
  | 19 => decodeMaj19 w
  | 20 => dXli w .xli
  | _ => .illegal

/-! ### The 16-bit map (spec/14 R269) -/

/-- A 16-bit instruction by its quadrant and bits [15:13], then its selector. -/
def decode16 (w : Nat) : Decoded :=
  match bits w 0 2, bits w 13 3 with
  | 0, 1 =>
    match bits w 10 3 with
    | 0 => dHa w .add16
    | 1 => dHa w .sub16
    | 2 => dHa w .and16
    | 3 => dHa w .or16
    | 4 => dHa w .xor16
    | 5 => dHa w .mov16
    | 6 => dHa w .sll16
    | _ => dHa w .srl16
  | 0, 2 =>
    match bits w 12 1 with
    | 0 => dHi w .addi16
    | _ => dHi w .li16
  | 0, 3 =>
    match bits w 12 1 with
    | 0 => dHi w .slli16
    | _ => dHi w .srai16
  | 0, 4 => dHm w .ldD16
  | 0, 5 => dHm w .stD16
  | 0, 6 => dHb w .beqz16
  | 0, 7 => dHb w .bnez16
  | 1, 0 => dHj w .j16
  | 1, 1 => .jal16 (.ofNat 11 (bits w 2 11))
  | 1, 2 =>
    match bits w 10 3 with
    | 0 => dHa w .addW16
    | 1 => dHa w .subW16
    | 2 => dHa w .andn16
    | 3 => dHa w .sra16
    | 4 => dHa w .mul16
    | 5 => dHa w .slt16
    | 6 => dHa w .sltn16
    | _ => dHa w .seq16
  | 1, 3 =>
    match bits w 12 1 with
    | 0 => dHi w .andi16
    | _ => dHi w .srli16
  | 1, 4 => dHm w .ldrD16
  | 1, 5 => dHm w .stpD16
  | 2, 0 =>
    match bits w 10 3 with
    | 0 => dHa w .min16
    | 1 => dHa w .max16
    | 2 => dHa w .minn16
    | 3 => dHa w .maxn16
    | 4 => dHa w .rotl16
    | 5 => dHa w .mulh16
    | 6 => dHa w .mulhn16
    | _ => .illegal
  | 2, 7 =>
    match bits w 10 3 with
    | 0 => dNil3 w .nop16
    | 1 => dNil3 w .exit16
    | 2 => dNil3 w .yield16
    | 3 => dNil3 w .ufence16
    | 4 => dNil3 w .predwait16
    | 5 => dNil3 w .nxtgo16
    | 6 => .fmt (.ofNat 4 (bits w 6 4)) (.ofNat 4 (bits w 2 4))
    | _ => .illegal
  | _, _ => .illegal

/-! ### Bytes (spec/13 R260, spec/00 R5) -/

/-- A parcel from its two bytes, little-endian. -/
def parcel (b0 b1 : Byte) : Nat := b0.toNat + 256 * b1.toNat

/-- The instruction whose first byte heads the list: quadrant 3 takes two parcels (spec/13 R260). -/
def decode : List Byte → Decoded
  | b0 :: b1 :: rest =>
    if bits (parcel b0 b1) 0 2 = 3 then
      match rest with
      | b2 :: b3 :: _ => decode32 (parcel b0 b1 + 65536 * parcel b2 b3)
      | _ => .short
    else decode16 (parcel b0 b1)
  | _ => .short

/-- The n little-endian bytes of a number (spec/00 R5). -/
def wordBytes (v : Nat) : Nat → List Byte
  | 0 => []
  | n + 1 => BitVec.ofNat 8 v :: wordBytes (v / 256) n

/-- The instruction the decoder reads from nbits bits numbered as the opcode table numbers them; every bit above is zero. -/
noncomputable def decodeTableWord (nbits w : Nat) : Option Instr :=
  (decode (wordBytes (w % 2 ^ nbits) 4)).ins?

/-! ### Writers of the shapes -/

/-- The fields of shape rrr over the opcode bits. -/
def eRrr (opc : Nat) (d : GReg) (a : GSrc) (b : GSrc) : Nat :=
  opc + 2 ^ 7 * d.toNat + 2 ^ 11 * a.reg.toNat + 2 ^ 15 * a.take.toNat + 2 ^ 16 * b.reg.toNat + 2 ^ 20 * b.take.toNat
/-- The fields of shape rrrr over the opcode bits. -/
def eRrrr (opc : Nat) (d : GReg) (a : GSrc) (b : GSrc) (c : GSrc) : Nat :=
  opc + 2 ^ 7 * d.toNat + 2 ^ 11 * a.reg.toNat + 2 ^ 15 * a.take.toNat + 2 ^ 16 * b.reg.toNat + 2 ^ 20 * b.take.toNat + 2 ^ 21 * c.reg.toNat + 2 ^ 25 * c.take.toNat
/-- The fields of shape rr over the opcode bits. -/
def eRr (opc : Nat) (d : GReg) (a : GSrc) : Nat :=
  opc + 2 ^ 7 * d.toNat + 2 ^ 11 * a.reg.toNat + 2 ^ 15 * a.take.toNat
/-- The fields of shape ri over the opcode bits. -/
def eRi (opc : Nat) (d : GReg) (a : GSrc) (imm : BitVec 12) : Nat :=
  opc + 2 ^ 7 * d.toNat + 2 ^ 11 * a.reg.toNat + 2 ^ 15 * a.take.toNat + 2 ^ 20 * imm.toNat
/-- The fields of shape rsh over the opcode bits. -/
def eRsh (opc : Nat) (d : GReg) (a : GSrc) (n : BitVec 6) : Nat :=
  opc + 2 ^ 7 * d.toNat + 2 ^ 11 * a.reg.toNat + 2 ^ 15 * a.take.toNat + 2 ^ 20 * n.toNat
/-- The fields of shape bf over the opcode bits. -/
def eBf (opc : Nat) (d : GReg) (a : GSrc) (p : BitVec 6) (k : BitVec 6) : Nat :=
  opc + 2 ^ 7 * d.toNat + 2 ^ 11 * a.reg.toNat + 2 ^ 15 * a.take.toNat + 2 ^ 20 * p.toNat + 2 ^ 26 * k.toNat
/-- The fields of shape loop over the opcode bits. -/
def eLoop (opc : Nat) (d : GReg) (imm : BitVec 12) : Nat :=
  opc + 2 ^ 7 * d.toNat + 2 ^ 20 * imm.toNat
/-- The fields of shape u over the opcode bits. -/
def eU (opc : Nat) (d : GReg) (imm : BitVec 21) : Nat :=
  opc + 2 ^ 7 * d.toNat + 2 ^ 11 * imm.toNat
/-- The fields of shape j over the opcode bits. -/
def eJ (opc : Nat) (off : BitVec 20) : Nat :=
  opc + 2 ^ 12 * off.toNat
/-- The fields of shape jal over the opcode bits. -/
def eJal (opc : Nat) (d : GReg) (off : BitVec 20) : Nat :=
  opc + 2 ^ 7 * d.toNat + 2 ^ 12 * off.toNat
/-- The fields of shape br over the opcode bits. -/
def eBr (opc : Nat) (a : GSrc) (b : GSrc) (off : BitVec 12) : Nat :=
  opc + 2 ^ 7 * a.reg.toNat + 2 ^ 11 * a.take.toNat + 2 ^ 12 * b.reg.toNat + 2 ^ 16 * b.take.toNat + 2 ^ 20 * off.toNat
/-- The fields of shape brz over the opcode bits. -/
def eBrz (opc : Nat) (a : GSrc) (off : BitVec 12) : Nat :=
  opc + 2 ^ 7 * a.reg.toNat + 2 ^ 11 * a.take.toNat + 2 ^ 20 * off.toNat
/-- The fields of shape m over the opcode bits. -/
def eM (opc : Nat) (d : GSrc) (base : GSrc) (sz : BitVec 2) (imm : BitVec 9) : Nat :=
  opc + 2 ^ 7 * d.reg.toNat + 2 ^ 16 * d.take.toNat + 2 ^ 11 * base.reg.toNat + 2 ^ 15 * base.take.toNat + 2 ^ 17 * sz.toNat + 2 ^ 23 * imm.toNat
/-- The fields of shape mw over the opcode bits. -/
def eMw (opc : Nat) (d : WSrc) (base : GSrc) (imm : BitVec 9) : Nat :=
  opc + 2 ^ 7 * d.reg.toNat + 2 ^ 16 * d.take.toNat + 2 ^ 11 * base.reg.toNat + 2 ^ 15 * base.take.toNat + 2 ^ 23 * imm.toNat
/-- The fields of shape ms over the opcode bits. -/
def eMs (opc : Nat) (d : GSrc) (base : GSrc) (sc : BitVec 4) (sz : BitVec 2) (imm : BitVec 9) : Nat :=
  opc + 2 ^ 7 * d.reg.toNat + 2 ^ 16 * d.take.toNat + 2 ^ 11 * base.reg.toNat + 2 ^ 15 * base.take.toNat + 2 ^ 19 * sc.toNat + 2 ^ 17 * sz.toNat + 2 ^ 23 * imm.toNat
/-- The fields of shape ma over the opcode bits. -/
def eMa (opc : Nat) (d : GSrc) (base : GSrc) (imm : BitVec 9) : Nat :=
  opc + 2 ^ 7 * d.reg.toNat + 2 ^ 16 * d.take.toNat + 2 ^ 11 * base.reg.toNat + 2 ^ 15 * base.take.toNat + 2 ^ 23 * imm.toNat
/-- The fields of shape mn over the opcode bits. -/
def eMn (opc : Nat) (base : GSrc) (imm : BitVec 9) : Nat :=
  opc + 2 ^ 11 * base.reg.toNat + 2 ^ 15 * base.take.toNat + 2 ^ 23 * imm.toNat
/-- The fields of shape fs over the opcode bits. -/
def eFs (opc : Nat) (d : GReg) (sc : BitVec 4) : Nat :=
  opc + 2 ^ 7 * d.toNat + 2 ^ 22 * sc.toNat
/-- The fields of shape d over the opcode bits. -/
def eD (opc : Nat) (d : GReg) : Nat :=
  opc + 2 ^ 7 * d.toNat
/-- The fields of shape a over the opcode bits. -/
def eA (opc : Nat) (a : GSrc) : Nat :=
  opc + 2 ^ 11 * a.reg.toNat + 2 ^ 15 * a.take.toNat
/-- The fields of shape f3 over the opcode bits. -/
def eF3 (opc : Nat) (f : BitVec 2) (d : GReg) (a : GSrc) (b : GSrc) : Nat :=
  opc + 2 ^ 26 * f.toNat + 2 ^ 7 * d.toNat + 2 ^ 11 * a.reg.toNat + 2 ^ 15 * a.take.toNat + 2 ^ 16 * b.reg.toNat + 2 ^ 20 * b.take.toNat
/-- The fields of shape f4 over the opcode bits. -/
def eF4 (opc : Nat) (f : BitVec 2) (d : GReg) (a : GSrc) (b : GSrc) (c : GSrc) : Nat :=
  opc + 2 ^ 26 * f.toNat + 2 ^ 7 * d.toNat + 2 ^ 11 * a.reg.toNat + 2 ^ 15 * a.take.toNat + 2 ^ 16 * b.reg.toNat + 2 ^ 20 * b.take.toNat + 2 ^ 21 * c.reg.toNat + 2 ^ 25 * c.take.toNat
/-- The fields of shape f2 over the opcode bits. -/
def eF2 (opc : Nat) (f : BitVec 2) (d : GReg) (a : GSrc) : Nat :=
  opc + 2 ^ 26 * f.toNat + 2 ^ 7 * d.toNat + 2 ^ 11 * a.reg.toNat + 2 ^ 15 * a.take.toNat
/-- The fields of shape fe over the opcode bits. -/
def eFe (opc : Nat) (f : BitVec 2) (d : GReg) (a : GSrc) (e : BitVec 4) : Nat :=
  opc + 2 ^ 26 * f.toNat + 2 ^ 7 * d.toNat + 2 ^ 11 * a.reg.toNat + 2 ^ 15 * a.take.toNat + 2 ^ 16 * e.toNat
/-- The fields of shape v3f over the opcode bits. -/
def eV3f (opc : Nat) (f : BitVec 2) (d : WReg) (a : WSrc) (b : WSrc) : Nat :=
  opc + 2 ^ 24 * f.toNat + 2 ^ 7 * d.toNat + 2 ^ 10 * a.reg.toNat + 2 ^ 13 * a.take.toNat + 2 ^ 14 * b.reg.toNat + 2 ^ 17 * b.take.toNat
/-- The fields of shape v4f over the opcode bits. -/
def eV4f (opc : Nat) (f : BitVec 2) (d : WReg) (a : WSrc) (b : WSrc) (c : WSrc) : Nat :=
  opc + 2 ^ 24 * f.toNat + 2 ^ 7 * d.toNat + 2 ^ 10 * a.reg.toNat + 2 ^ 13 * a.take.toNat + 2 ^ 14 * b.reg.toNat + 2 ^ 17 * b.take.toNat + 2 ^ 18 * c.reg.toNat + 2 ^ 21 * c.take.toNat
/-- The fields of shape v2f over the opcode bits. -/
def eV2f (opc : Nat) (f : BitVec 2) (d : WReg) (a : WSrc) : Nat :=
  opc + 2 ^ 24 * f.toNat + 2 ^ 7 * d.toNat + 2 ^ 10 * a.reg.toNat + 2 ^ 13 * a.take.toNat
/-- The fields of shape v3 over the opcode bits. -/
def eV3 (opc : Nat) (d : WReg) (a : WSrc) (b : WSrc) : Nat :=
  opc + 2 ^ 7 * d.toNat + 2 ^ 10 * a.reg.toNat + 2 ^ 13 * a.take.toNat + 2 ^ 14 * b.reg.toNat + 2 ^ 17 * b.take.toNat
/-- The fields of shape v4 over the opcode bits. -/
def eV4 (opc : Nat) (d : WReg) (a : WSrc) (b : WSrc) (c : WSrc) : Nat :=
  opc + 2 ^ 7 * d.toNat + 2 ^ 10 * a.reg.toNat + 2 ^ 13 * a.take.toNat + 2 ^ 14 * b.reg.toNat + 2 ^ 17 * b.take.toNat + 2 ^ 18 * c.reg.toNat + 2 ^ 21 * c.take.toNat
/-- The fields of shape v2 over the opcode bits. -/
def eV2 (opc : Nat) (d : WReg) (a : WSrc) : Nat :=
  opc + 2 ^ 7 * d.toNat + 2 ^ 10 * a.reg.toNat + 2 ^ 13 * a.take.toNat
/-- The fields of shape vcvt over the opcode bits. -/
def eVcvt (opc : Nat) (f : BitVec 2) (d : WReg) (a : WSrc) (c : BitVec 3) : Nat :=
  opc + 2 ^ 24 * f.toNat + 2 ^ 7 * d.toNat + 2 ^ 10 * a.reg.toNat + 2 ^ 13 * a.take.toNat + 2 ^ 18 * c.toNat
/-- The fields of shape vg over the opcode bits. -/
def eVg (opc : Nat) (f : BitVec 2) (d : WReg) (a : WSrc) (g : GSrc) : Nat :=
  opc + 2 ^ 24 * f.toNat + 2 ^ 7 * d.toNat + 2 ^ 11 * a.reg.toNat + 2 ^ 14 * a.take.toNat + 2 ^ 15 * g.reg.toNat + 2 ^ 19 * g.take.toNat
/-- The fields of shape vb over the opcode bits. -/
def eVb (opc : Nat) (d : WReg) (g : GSrc) : Nat :=
  opc + 2 ^ 7 * d.toNat + 2 ^ 15 * g.reg.toNat + 2 ^ 19 * g.take.toNat
/-- The fields of shape vins over the opcode bits. -/
def eVins (opc : Nat) (d : WReg) (a : WSrc) (g : GSrc) (l : BitVec 4) : Nat :=
  opc + 2 ^ 7 * d.toNat + 2 ^ 11 * a.reg.toNat + 2 ^ 14 * a.take.toNat + 2 ^ 15 * g.reg.toNat + 2 ^ 19 * g.take.toNat + 2 ^ 20 * l.toNat
/-- The fields of shape vext over the opcode bits. -/
def eVext (opc : Nat) (d : GReg) (a : WSrc) (l : BitVec 4) : Nat :=
  opc + 2 ^ 7 * d.toNat + 2 ^ 11 * a.reg.toNat + 2 ^ 14 * a.take.toNat + 2 ^ 20 * l.toNat
/-- The fields of shape vsl over the opcode bits. -/
def eVsl (opc : Nat) (d : WReg) (a : WSrc) (l : BitVec 4) : Nat :=
  opc + 2 ^ 7 * d.toNat + 2 ^ 11 * a.reg.toNat + 2 ^ 14 * a.take.toNat + 2 ^ 20 * l.toNat
/-- The fields of shape g over the opcode bits. -/
def eG (opc : Nat) (g : GSrc) : Nat :=
  opc + 2 ^ 15 * g.reg.toNat + 2 ^ 19 * g.take.toNat
/-- The fields of shape harm over the opcode bits. -/
def eHarm (opc : Nat) (h : BitVec 4) (a : GSrc) (b : GSrc) : Nat :=
  opc + 2 ^ 22 * h.toNat + 2 ^ 11 * a.reg.toNat + 2 ^ 15 * a.take.toNat + 2 ^ 16 * b.reg.toNat + 2 ^ 20 * b.take.toNat
/-- The fields of shape harr over the opcode bits. -/
def eHarr (opc : Nat) (d : GReg) (h : BitVec 4) : Nat :=
  opc + 2 ^ 7 * d.toNat + 2 ^ 22 * h.toNat
/-- The fields of shape hwait over the opcode bits. -/
def eHwait (opc : Nat) (d : GReg) (a : GSrc) (h : BitVec 4) : Nat :=
  opc + 2 ^ 7 * d.toNat + 2 ^ 11 * a.reg.toNat + 2 ^ 15 * a.take.toNat + 2 ^ 22 * h.toNat
/-- The fields of shape srd over the opcode bits. -/
def eSrd (opc : Nat) (d : GReg) (n : BitVec 6) : Nat :=
  opc + 2 ^ 7 * d.toNat + 2 ^ 16 * (n.toNat % 16) + 2 ^ 22 * (n.toNat / 16)
/-- The fields of shape srdh over the opcode bits. -/
def eSrdh (opc : Nat) (d : GReg) (a : GSrc) (n : BitVec 6) : Nat :=
  opc + 2 ^ 7 * d.toNat + 2 ^ 11 * a.reg.toNat + 2 ^ 15 * a.take.toNat + 2 ^ 16 * (n.toNat % 16) + 2 ^ 22 * (n.toNat / 16)
/-- The fields of shape swr over the opcode bits. -/
def eSwr (opc : Nat) (n : BitVec 6) (a : GSrc) : Nat :=
  opc + 2 ^ 16 * (n.toNat % 16) + 2 ^ 22 * (n.toNat / 16) + 2 ^ 11 * a.reg.toNat + 2 ^ 15 * a.take.toNat
/-- The fields of shape swrh over the opcode bits. -/
def eSwrh (opc : Nat) (h : GReg) (n : BitVec 6) (a : GSrc) : Nat :=
  opc + 2 ^ 7 * h.toNat + 2 ^ 16 * (n.toNat % 16) + 2 ^ 22 * (n.toNat / 16) + 2 ^ 11 * a.reg.toNat + 2 ^ 15 * a.take.toNat
/-- The fields of shape trap over the opcode bits. -/
def eTrap (opc : Nat) (imm : BitVec 12) : Nat :=
  opc + 2 ^ 11 * (imm.toNat % 16) + 2 ^ 16 * (imm.toNat / 16 % 16) + 2 ^ 22 * (imm.toNat / 256)
/-- The fields of shape ab over the opcode bits. -/
def eAb (opc : Nat) (a : GSrc) (b : GSrc) : Nat :=
  opc + 2 ^ 11 * a.reg.toNat + 2 ^ 15 * a.take.toNat + 2 ^ 16 * b.reg.toNat + 2 ^ 20 * b.take.toNat
/-- The fields of shape db over the opcode bits. -/
def eDb (opc : Nat) (d : GReg) (b : GSrc) : Nat :=
  opc + 2 ^ 7 * d.toNat + 2 ^ 16 * b.reg.toNat + 2 ^ 20 * b.take.toNat
/-- The fields of shape st over the opcode bits. -/
def eSt (opc : Nat) (r : GReg) : Nat :=
  opc + 2 ^ 11 * r.toNat
/-- The fields of shape stw over the opcode bits. -/
def eStw (opc : Nat) (r : WReg) : Nat :=
  opc + 2 ^ 11 * r.toNat
/-- The fields of shape isf over the opcode bits. -/
def eIsf (opc : Nat) (d : GReg) (r : GReg) : Nat :=
  opc + 2 ^ 7 * d.toNat + 2 ^ 11 * r.toNat
/-- The fields of shape isfw over the opcode bits. -/
def eIsfw (opc : Nat) (d : GReg) (r : WReg) : Nat :=
  opc + 2 ^ 7 * d.toNat + 2 ^ 11 * r.toNat
/-- The fields of shape cut over the opcode bits. -/
def eCut (opc : Nat) (r : GReg) (n : BitVec 8) : Nat :=
  opc + 2 ^ 11 * r.toNat + 2 ^ 21 * (n.toNat % 16) + 2 ^ 16 * (n.toNat / 16)
/-- The fields of shape cutw over the opcode bits. -/
def eCutw (opc : Nat) (r : WReg) (n : BitVec 8) : Nat :=
  opc + 2 ^ 11 * r.toNat + 2 ^ 21 * (n.toNat % 16) + 2 ^ 16 * (n.toNat / 16)
/-- The fields of shape xset over the opcode bits. -/
def eXset (opc : Nat) (xd : XReg) (a : GSrc) : Nat :=
  opc + 2 ^ 7 * xd.toNat + 2 ^ 11 * a.reg.toNat + 2 ^ 15 * a.take.toNat
/-- The fields of shape xget over the opcode bits. -/
def eXget (opc : Nat) (d : GReg) (xs : XReg) : Nat :=
  opc + 2 ^ 7 * d.toNat + 2 ^ 11 * xs.toNat
/-- The fields of shape xli over the opcode bits. -/
def eXli (opc : Nat) (xd : XReg) (imm : BitVec 22) : Nat :=
  opc + 2 ^ 7 * xd.toNat + 2 ^ 10 * imm.toNat
/-- The fields of shape ha over the opcode bits. -/
def eHa (opc : Nat) (d : GReg) (r : GReg) : Nat :=
  opc + 2 ^ 2 * d.toNat + 2 ^ 6 * r.toNat
/-- The fields of shape hi over the opcode bits. -/
def eHi (opc : Nat) (d : GReg) (imm : BitVec 6) : Nat :=
  opc + 2 ^ 2 * d.toNat + 2 ^ 6 * imm.toNat
/-- The fields of shape hm over the opcode bits. -/
def eHm (opc : Nat) (d : GReg) (base : GReg) (off : BitVec 3) : Nat :=
  opc + 2 ^ 2 * d.toNat + 2 ^ 6 * base.toNat + 2 ^ 10 * off.toNat
/-- The fields of shape hb over the opcode bits. -/
def eHb (opc : Nat) (r : GReg) (off : BitVec 7) : Nat :=
  opc + 2 ^ 2 * r.toNat + 2 ^ 6 * off.toNat
/-- The fields of shape hj over the opcode bits. -/
def eHj (opc : Nat) (off : BitVec 11) : Nat :=
  opc + 2 ^ 2 * off.toNat
/-- The fields of shape fmt over the opcode bits. -/
def eFmt (opc : Nat) (fa : BitVec 4) (fb : BitVec 4) : Nat :=
  opc + 2 ^ 6 * fa.toNat + 2 ^ 2 * fb.toNat

/-- The word of an instruction with an encoding; zero for a step that has none. -/
def encode : Instr → Nat
  | .powerMeasure _ _ => 0
  | .powerWindowEnd _ => 0
  | .panelBudgetMeasure _ => 0
  | .panelBudgetWindowEnd => 0
  | .thermalThreshold _ _ _ => 0
  | .thermalClockStep _ => 0
  | .thermalTrip _ _ => 0
  | .regulatorFail _ => 0
  | .powerOn => 0
  | .tileBoot _ _ => 0
  | .selfTestReport _ => 0
  | .bindTimeout => 0
  | .attestationRequest _ => 0
  | .fuseCommand _ _ => 0
  | .reset => 0
  | .debugOpenCommand _ => 0
  | .debugChallenge _ => 0
  | .debugToken _ => 0
  | .debugClose _ => 0
  | .debugTokenExpire => 0
  | .pwrcmdRetain _ => 0
  | .pwrcmdOff _ => 0
  | .pwrcmdRun _ => 0
  | .powerTransitionDone _ _ => 0
  | .idleEnter _ => 0
  | .idleExit _ => 0
  | .repairCommand _ _ _ => 0
  | .repairAuto _ _ _ _ => 0
  | .repairSwitch _ _ => 0
  | .flitArrival _ _ _ => 0
  | .flitAck _ _ => 0
  | .flitForward _ _ => 0
  | .escapeTimeout _ _ => 0
  | .linkAckTimeout _ _ => 0
  | .linkTrained _ _ => 0
  | .linkRetrainTimeout _ _ => 0
  | .tableUpdateReceive _ => 0
  | .tableAck _ => 0
  | .tableCommit _ => 0
  | .oldBankRelease => 0
  | .retire _ _ _ => 0
  | .retireCopyDone => 0
  | .retireGraceEnd => 0
  | .tileLoss _ => 0
  | .lossNotice _ _ => 0
  | .lossWaitExpire _ _ _ => 0
  | .peerFrame _ _ => 0
  | .peerAck _ => 0
  | .peerAckTimeout _ => 0
  | .portStatusRead _ _ => 0
  | .unsupportedRequest _ _ => 0
  | .functionLevelReset _ => 0
  | .registerWrite _ _ => 0
  | .windowRead _ _ _ => 0
  | .windowWrite _ _ _ => 0
  | .winfenceRead _ => 0
  | .queueEnable _ _ => 0
  | .queueClear _ => 0
  | .doorbell _ _ => 0
  | .queueFetch _ => 0
  | .markerWrite _ => 0
  | .evheadWrite _ _ => 0
  | .evlostRead _ => 0
  | .launchRecordDeliver _ => 0
  | .predecessorPoll _ => 0
  | .bindJob _ _ => 0
  | .releaseNotice _ => 0
  | .dispatch _ _ _ => 0
  | .slotGrant _ _ => 0
  | .jobComplete _ => 0
  | .jobcmdSuspend _ _ => 0
  | .jobcmdResume _ _ => 0
  | .jobcmdCancel _ _ => 0
  | .suspendNotice _ => 0
  | .engineSaveDone _ _ => 0
  | .resumeNotice _ => 0
  | .engineRestore _ _ => 0
  | .strandCountReport _ _ _ => 0
  | .lossCountAnswer _ _ => 0
  | .tableFetch _ => 0
  | .bedCacheFill _ _ _ => 0
  | .parkRecheck _ _ _ => 0
  | .evict _ _ => 0
  | .fill _ => 0
  | .instructionLineFill _ => 0
  | .migrationArrival _ => 0
  | .migrationAcceptance _ => 0
  | .migrationRefusal _ => 0
  | .migrationBackoffExpire _ => 0
  | .recall _ => 0
  | .migrationErrorResponse _ => 0
  | .handlerCreate _ _ => 0
  | .remoteReadServe _ => 0
  | .postedStorePerform _ => 0
  | .postedStoreAck _ => 0
  | .joinWordChange _ => 0
  | .joinIncrementAck _ => 0
  | .joinRegistration _ => 0
  | .joinRegistrationRetry _ => 0
  | .updateSend _ _ _ => 0
  | .updateFlitArrival _ => 0
  | .updateAnswer _ => 0
  | .updateResend _ _ _ => 0
  | .sieveSpill _ _ => 0
  | .forcedApply _ _ => 0
  | .flushRequest _ => 0
  | .flushAck _ => 0
  | .sieveCounterRead _ _ _ => 0
  | .taskPostArrival _ => 0
  | .taskPostRetry _ => 0
  | .taskIssue _ _ => 0
  | .copyRun _ _ _ => 0
  | .matrixStepBegin _ _ => 0
  | .matrixStepEnd _ _ => 0
  | .drainDone _ _ => 0
  | .channelStarveTimeout _ _ => 0
  | .channelFullTimeout _ _ => 0
  | .taskFinish _ _ => 0
  | .hedgeBytes _ => 0
  | .hedgeRowArrival _ => 0
  | .hedgeColumnArrival _ => 0
  | .hedgeRelease _ => 0
  | .taskwRequest _ => 0
  | .rakeRequestStart _ _ => 0
  | .rakeElement _ _ => 0
  | .rakeFetchFill _ => 0
  | .rkstsRead _ _ => 0
  | .launchRequest _ => 0
  | .tlbiInvalidate _ => 0
  | .tlbiAck _ => 0
  | .tbinvPage _ _ _ _ => 0
  | .tbinvAsid _ _ _ => 0
  | .tbinvAll _ _ => 0
  | .invalidationComplete _ _ => 0
  | .bedwReadDone _ => 0
  | .vtldTableReplace _ => 0
  | .cacheControlRequest _ => 0
  | .qpartWrite _ _ _ => 0
  | .qpartChangeDone _ _ => 0
  | .quadrantCounterRead _ _ _ => 0
  | .dockstsRead _ _ => 0
  | .dbgHaltRequest _ _ => 0
  | .dbgResumeRequest _ _ => 0
  | .haltPropagate _ => 0
  | .debugImageWrite _ _ _ => 0
  | .debugMemoryRead _ _ _ => 0
  | .debugMemoryWrite _ _ _ => 0
  | .patrolScrub _ _ => 0
  | .add d a b => eRrr 0x00000003 d a b
  | .sub d a b => eRrr 0x04000003 d a b
  | .mul d a b => eRrr 0x08000003 d a b
  | .mulh d a b => eRrr 0x0C000003 d a b
  | .mulhn d a b => eRrr 0x10000003 d a b
  | .madd d a b c => eRrrr 0x14000003 d a b c
  | .div d a b => eRrr 0x18000003 d a b
  | .divn d a b => eRrr 0x1C000003 d a b
  | .rem d a b => eRrr 0x20000003 d a b
  | .remn d a b => eRrr 0x24000003 d a b
  | .and d a b => eRrr 0x28000003 d a b
  | .or d a b => eRrr 0x2C000003 d a b
  | .xor d a b => eRrr 0x30000003 d a b
  | .andn d a b => eRrr 0x34000003 d a b
  | .sll d a b => eRrr 0x38000003 d a b
  | .srl d a b => eRrr 0x3C000003 d a b
  | .sra d a b => eRrr 0x40000003 d a b
  | .rotl d a b => eRrr 0x44000003 d a b
  | .min d a b => eRrr 0x48000003 d a b
  | .max d a b => eRrr 0x4C000003 d a b
  | .minn d a b => eRrr 0x50000003 d a b
  | .maxn d a b => eRrr 0x54000003 d a b
  | .slt d a b => eRrr 0x58000003 d a b
  | .sltn d a b => eRrr 0x5C000003 d a b
  | .seq d a b => eRrr 0x60000003 d a b
  | .sel d a b c => eRrrr 0x64000003 d a b c
  | .mov d a => eRr 0x68000003 d a
  | .clz d a => eRr 0x6C000003 d a
  | .ctz d a => eRr 0x70000003 d a
  | .popc d a => eRr 0x74000003 d a
  | .brev d a => eRr 0x78000003 d a
  | .bswap d a => eRr 0x7C000003 d a
  | .sextB d a => eRr 0x80000003 d a
  | .sextH d a => eRr 0x84000003 d a
  | .sextW d a => eRr 0x88000003 d a
  | .zextB d a => eRr 0x8C000003 d a
  | .zextH d a => eRr 0x90000003 d a
  | .zextW d a => eRr 0x94000003 d a
  | .addW d a b => eRrr 0xA0000003 d a b
  | .subW d a b => eRrr 0xA4000003 d a b
  | .sllW d a b => eRrr 0xA8000003 d a b
  | .srlW d a b => eRrr 0xAC000003 d a b
  | .sraW d a b => eRrr 0xB0000003 d a b
  | .addi d a imm => eRi 0x00000007 d a imm
  | .andi d a imm => eRi 0x00010007 d a imm
  | .ori d a imm => eRi 0x00020007 d a imm
  | .xori d a imm => eRi 0x00030007 d a imm
  | .slli d a n => eRsh 0x00040007 d a n
  | .srli d a n => eRsh 0x00050007 d a n
  | .srai d a n => eRsh 0x00060007 d a n
  | .rotli d a n => eRsh 0x00070007 d a n
  | .slti d a imm => eRi 0x00080007 d a imm
  | .bfx d a p k => eBf 0x00090007 d a p k
  | .bfxn d a p k => eBf 0x000A0007 d a p k
  | .bfi d a p k => eBf 0x000B0007 d a p k
  | .jalr d a imm => eRi 0x000C0007 d a imm
  | .loop d imm => eLoop 0x000D0007 d imm
  | .nop => 0x000E0007
  | .lui d imm => eU 0x0000000B d imm
  | .auipc d imm => eU 0x0000000F d imm
  | .li d imm => eU 0x00000013 d imm
  | .j off => eJ 0x00000017 off
  | .jal d off => eJal 0x00000817 d off
  | .beq a b off => eBr 0x0000001B a b off
  | .bne a b off => eBr 0x0002001B a b off
  | .blt a b off => eBr 0x0004001B a b off
  | .bge a b off => eBr 0x0006001B a b off
  | .bltn a b off => eBr 0x0008001B a b off
  | .bgen a b off => eBr 0x000A001B a b off
  | .beqz a off => eBrz 0x000C001B a off
  | .bnez a off => eBrz 0x000E001B a off
  | .ld d base sz imm => eM 0x0000001F d base sz imm
  | .ldn d base sz imm => eM 0x0008001F d base sz imm
  | .ldr d base sz imm => eM 0x0010001F d base sz imm
  | .vld d base imm => eMw 0x0018001F d base imm
  | .ldrWide d base imm => eMw 0x0020001F d base imm
  | .st d base sz imm => eM 0x00000023 d base sz imm
  | .vst d base imm => eMw 0x00080023 d base imm
  | .stp d base sz imm => eM 0x00100023 d base sz imm
  | .vstp d base imm => eMw 0x00180023 d base imm
  | .stm d base sz imm => eM 0x00200023 d base sz imm
  | .sto d base sz imm => eM 0x00280023 d base sz imm
  | .ldaq d base sc sz imm => eMs 0x00000027 d base sc sz imm
  | .strl d base sc sz imm => eMs 0x0000002B d base sc sz imm
  | .amoadd d base imm => eMa 0x0006002F d base imm
  | .amoand d base imm => eMa 0x000E002F d base imm
  | .amoor d base imm => eMa 0x0016002F d base imm
  | .amoxor d base imm => eMa 0x001E002F d base imm
  | .amomin d base imm => eMa 0x0026002F d base imm
  | .amomax d base imm => eMa 0x002E002F d base imm
  | .amominn d base imm => eMa 0x0036002F d base imm
  | .amomaxn d base imm => eMa 0x003E002F d base imm
  | .amoswp d base imm => eMa 0x0046002F d base imm
  | .amocas d base imm => eMa 0x004E002F d base imm
  | .upd d base imm => eMa 0x00060033 d base imm
  | .vupd d base imm => eMw 0x00080033 d base imm
  | .uflush base imm => eMn 0x00100033 base imm
  | .rake base imm => eMn 0x00180033 base imm
  | .fence d sc => eFs 0x00000037 d sc
  | .pfence d sc => eFs 0x04000037 d sc
  | .xfence d sc => eFs 0x08000037 d sc
  | .ufence d => eD 0x0C000037 d
  | .migr a => eA 0x10000037 a
  | .home d a => eRr 0x14000037 d a
  | .pin => 0x18000037
  | .unpin => 0x1C000037
  | .pref a => eA 0x20000037 a
  | .cpin d a b => eRrr 0x24000037 d a b
  | .cunpin d a b => eRrr 0x28000037 d a b
  | .chint d a b => eRrr 0x2C000037 d a b
  | .cwb d a b => eRrr 0x30000037 d a b
  | .replsync d a b => eRrr 0x34000037 d a b
  | .rakew => 0x38000037
  | .fadd f d a b => eF3 0x0000003B f d a b
  | .fsub f d a b => eF3 0x1000003B f d a b
  | .fmul f d a b => eF3 0x2000003B f d a b
  | .fdiv f d a b => eF3 0x3000003B f d a b
  | .ffma f d a b c => eF4 0x4000003B f d a b c
  | .ffms f d a b c => eF4 0x5000003B f d a b c
  | .fsqrt f d a => eF2 0x6000003B f d a
  | .fmin f d a b => eF3 0x7000003B f d a b
  | .fmax f d a b => eF3 0x8000003B f d a b
  | .fminp f d a b => eF3 0x9000003B f d a b
  | .fmaxp f d a b => eF3 0xA000003B f d a b
  | .fabs f d a => eF2 0xB000003B f d a
  | .fneg f d a => eF2 0xB020003B f d a
  | .fsgnj f d a b => eF3 0xB040003B f d a b
  | .feq f d a b => eF3 0xC000003B f d a b
  | .flt f d a b => eF3 0xC020003B f d a b
  | .fle f d a b => eF3 0xC040003B f d a b
  | .fclass f d a => eF2 0xC060003B f d a
  | .fcvt f d a e => eFe 0xD000003B f d a e
  | .fcvti f d a e => eFe 0xE000003B f d a e
  | .icvtf f d a e => eFe 0xF000003B f d a e
  | .vadd f d a b => eV3f 0x0000003F f d a b
  | .vsub f d a b => eV3f 0x0400003F f d a b
  | .vmul f d a b => eV3f 0x0800003F f d a b
  | .vfma f d a b c => eV4f 0x0C00003F f d a b c
  | .vfms f d a b c => eV4f 0x1000003F f d a b c
  | .vfnma f d a b c => eV4f 0x1400003F f d a b c
  | .vmin f d a b => eV3f 0x1800003F f d a b
  | .vmax f d a b => eV3f 0x1C00003F f d a b
  | .vminp f d a b => eV3f 0x2000003F f d a b
  | .vmaxp f d a b => eV3f 0x2400003F f d a b
  | .vabs f d a => eV2f 0x2800003F f d a
  | .vneg f d a => eV2f 0x2C00003F f d a
  | .vand d a b => eV3 0x3000003F d a b
  | .vor d a b => eV3 0x3400003F d a b
  | .vxor d a b => eV3 0x3800003F d a b
  | .vcmpeq f d a b => eV3f 0x3C00003F f d a b
  | .vcmplt f d a b => eV3f 0x4000003F f d a b
  | .vcmple f d a b => eV3f 0x4400003F f d a b
  | .vsel d a b c => eV4 0x4800003F d a b c
  | .vcvt f d a c => eVcvt 0x4C00003F f d a c
  | .vsum f d a => eV2f 0x5000003F f d a
  | .vdot f d a b => eV3f 0x5400003F f d a b
  | .vexp2 f d a => eV2f 0x5800003F f d a
  | .vlog2 f d a => eV2f 0x5C00003F f d a
  | .vrcp f d a => eV2f 0x6000003F f d a
  | .vrsq f d a => eV2f 0x6400003F f d a
  | .vperm d a b => eV3 0x6800003F d a b
  | .vmov d a => eV2 0x6C00003F d a
  | .vcomp f d a => eV2f 0x7000003F f d a
  | .vdec f d a => eV2f 0x7400003F f d a
  | .venc f d a => eV2f 0x7800003F f d a
  | .vshl f d a g => eVg 0x00000043 f d a g
  | .vshr f d a g => eVg 0x04000043 f d a g
  | .vsra f d a g => eVg 0x08000043 f d a g
  | .vbcst d g => eVb 0x0C000043 d g
  | .vins d a g l => eVins 0x10000043 d a g l
  | .vext d a l => eVext 0x14000043 d a l
  | .vslide d a l => eVsl 0x18000043 d a l
  | .vtld g => eG 0x1C000043 g
  | .mtask d a b => eRrr 0x00000047 d a b
  | .ctask d a => eRr 0x04000047 d a
  | .taskw d a => eRr 0x08000047 d a
  | .waitc d => eD 0x0C000047 d
  | .harm h a b => eHarm 0x10000047 h a b
  | .harr d h => eHarr 0x14000047 d h
  | .hwait d a h => eHwait 0x18000047 d a h
  | .spawn d a => eRr 0x1C000047 d a
  | .spawnHome d a b => eRrr 0x1C400047 d a b
  | .join d a => eRr 0x20000047 d a
  | .exit => 0x24000047
  | .launch d a b => eRrr 0x28000047 d a b
  | .nxtgo => 0x2C000047
  | .predwait => 0x30000047
  | .yield => 0x34000047
  | .srd d n => eSrd 0x0000004B d n
  | .srdHandle d a n => eSrdh 0x0200004B d a n
  | .swr n a => eSwr 0x0400004B n a
  | .swrHandle h n a => eSwrh 0x0600004B h n a
  | .trap imm => eTrap 0x0800004B imm
  | .resume a => eA 0x0C00004B a
  | .resumeMigrate a b => eAb 0x0C40004B a b
  | .kill a => eA 0x1000004B a
  | .bkpt imm => eTrap 0x1400004B imm
  | .tlbiPage d a b => eRrr 0x1840004B d a b
  | .tlbiAsid d b => eDb 0x1880004B d b
  | .tlbiAll d => eD 0x18C0004B d
  | .bedw d a b => eRrr 0x1C00004B d a b
  | .clre r => eSt 0x0000004F r
  | .isf d r => eIsf 0x0400004F d r
  | .waitf r => eSt 0x0800004F r
  | .cut r n => eCut 0x0C00004F r n
  | .uncut r => eSt 0x1000004F r
  | .drop r => eSt 0x1400004F r
  | .xset xd a => eXset 0x1800004F xd a
  | .xget d xs => eXget 0x1C00004F d xs
  | .clreW r => eStw 0x2000004F r
  | .isfW d r => eIsfw 0x2400004F d r
  | .waitfW r => eStw 0x2800004F r
  | .cutW r n => eCutw 0x2C00004F r n
  | .uncutW r => eStw 0x3000004F r
  | .dropW r => eStw 0x3400004F r
  | .xli xd imm => eXli 0x00000053 xd imm
  | .add16 d r => eHa 0x2000 d r
  | .sub16 d r => eHa 0x2400 d r
  | .and16 d r => eHa 0x2800 d r
  | .or16 d r => eHa 0x2C00 d r
  | .xor16 d r => eHa 0x3000 d r
  | .mov16 d r => eHa 0x3400 d r
  | .sll16 d r => eHa 0x3800 d r
  | .srl16 d r => eHa 0x3C00 d r
  | .addW16 d r => eHa 0x4001 d r
  | .subW16 d r => eHa 0x4401 d r
  | .andn16 d r => eHa 0x4801 d r
  | .sra16 d r => eHa 0x4C01 d r
  | .mul16 d r => eHa 0x5001 d r
  | .slt16 d r => eHa 0x5401 d r
  | .sltn16 d r => eHa 0x5801 d r
  | .seq16 d r => eHa 0x5C01 d r
  | .min16 d r => eHa 0x0002 d r
  | .max16 d r => eHa 0x0402 d r
  | .minn16 d r => eHa 0x0802 d r
  | .maxn16 d r => eHa 0x0C02 d r
  | .rotl16 d r => eHa 0x1002 d r
  | .mulh16 d r => eHa 0x1402 d r
  | .mulhn16 d r => eHa 0x1802 d r
  | .addi16 d imm => eHi 0x4000 d imm
  | .li16 d imm => eHi 0x5000 d imm
  | .slli16 d imm => eHi 0x6000 d imm
  | .srai16 d imm => eHi 0x7000 d imm
  | .andi16 d imm => eHi 0x6001 d imm
  | .srli16 d imm => eHi 0x7001 d imm
  | .ldD16 d base off => eHm 0x8000 d base off
  | .stD16 d base off => eHm 0xA000 d base off
  | .ldrD16 d base off => eHm 0x8001 d base off
  | .stpD16 d base off => eHm 0xA001 d base off
  | .beqz16 r off => eHb 0xC000 r off
  | .bnez16 r off => eHb 0xE000 r off
  | .j16 off => eHj 0x0001 off
  | .jal16 off => eHj 0x2001 off
  | .nop16 => 0xE002
  | .exit16 => 0xE402
  | .yield16 => 0xE802
  | .ufence16 => 0xEC02
  | .predwait16 => 0xF002
  | .nxtgo16 => 0xF402
  | .fmt fa fb => eFmt 0xF802 fa fb
  | .powerLoss _ => 0
  | .scaleUpPortLinkChange _ _ _ => 0
  | .hostReadCompletion _ _ => 0
  | .sieveSpillDone _ _ => 0
  | .preemptionTileReport _ => 0
  | .tableFetchRequest _ => 0
  | .safeTalkativePowerOff _ => 0

/-- The bytes of an instruction as the hardware stores them. -/
def encodeBytes (ins : Instr) : List Byte := wordBytes (encode ins) ins.len

end Sys2Proof
end

