-- ==== Sys2Proof/Machine/Alu.lean ====
section
/-! DEFINITION. The integer operations (spec/15 R294 to R301, spec/12 R244): one function each, used by the 32-bit form, its
16-bit form and recipes; and the form of a recipe instruction (spec/13 R254). -/

namespace Sys2Proof.Machine

/-- The low n bits of a value, sign-extended to 64 bits. -/
def sextW (v n : Nat) : Word := if v % 2 ^ n < 2 ^ (n - 1) then .ofNat 64 (v % 2 ^ n) else .ofInt 64 ((v % 2 ^ n : Nat) - (2 ^ n : Nat))
/-- The low n bits of a value, zero-extended to 64 bits. -/
def zextW (v n : Nat) : Word := .ofNat 64 (v % 2 ^ n)
def boolW (b : Bool) : Word := if b then 1 else 0

/-! ### Arithmetic (spec/15 R294, R295, spec/12 R244) -/

def aluAdd (a b : Word) : Word := a + b
def aluSub (a b : Word) : Word := a - b
def aluMul (a b : Word) : Word := a * b
/-- Bits 127 to 64 of the signed product. -/
def aluMulh (a b : Word) : Word := .ofInt 64 (a.toInt * b.toInt / 2 ^ 64)
/-- Bits 127 to 64 of the unsigned product. -/
def aluMulhn (a b : Word) : Word := .ofNat 64 (a.toNat * b.toNat / 2 ^ 64)
def aluMadd (a b c : Word) : Word := a * b + c
/-- SDivRem, the quotient: truncated toward zero; all ones for a divisor of zero; -2^63 / -1 is -2^63. -/
def aluDiv (a b : Word) : Word := if b = 0 then .ofNat 64 0xFFFFFFFFFFFFFFFF else .ofInt 64 (a.toInt.tdiv b.toInt)
/-- SDivRem, the remainder: the sign of the dividend; the dividend for a divisor of zero. -/
def aluRem (a b : Word) : Word := if b = 0 then a else .ofInt 64 (a.toInt.tmod b.toInt)
/-- UDivRem, the quotient. -/
def aluDivn (a b : Word) : Word := if b = 0 then .ofNat 64 0xFFFFFFFFFFFFFFFF else .ofNat 64 (a.toNat / b.toNat)
/-- UDivRem, the remainder. -/
def aluRemn (a b : Word) : Word := if b = 0 then a else .ofNat 64 (a.toNat % b.toNat)
def aluAddW (a b : Word) : Word := sextW (a.toNat + b.toNat) 32
def aluSubW (a b : Word) : Word := sextW (a.toNat % 2 ^ 32 + (2 ^ 32 - b.toNat % 2 ^ 32)) 32
def aluSllW (a b : Word) : Word := sextW (a.toNat % 2 ^ 32 * 2 ^ (b.toNat % 32)) 32
def aluSrlW (a b : Word) : Word := sextW (a.toNat % 2 ^ 32 / 2 ^ (b.toNat % 32)) 32
/-- Copies of bit 31 shifted in. -/
def aluSraW (a b : Word) : Word := .ofInt 64 ((sextW a.toNat 32).toInt / 2 ^ (b.toNat % 32))

/-! ### Logic and shifts (spec/15 R296) -/

def aluAnd (a b : Word) : Word := a &&& b
def aluOr (a b : Word) : Word := a ||| b
def aluXor (a b : Word) : Word := a ^^^ b
def aluAndn (a b : Word) : Word := a &&& ~~~b
def aluSll (a b : Word) : Word := a <<< (b.toNat % 64)
def aluSrl (a b : Word) : Word := a >>> (b.toNat % 64)
def aluSra (a b : Word) : Word := a.sshiftRight (b.toNat % 64)
def aluRotl (a b : Word) : Word := a.rotateLeft (b.toNat % 64)

/-! ### Compare and select (spec/15 R297, R298) -/

def aluMin (a b : Word) : Word := if b.toInt < a.toInt then b else a
def aluMax (a b : Word) : Word := if a.toInt < b.toInt then b else a
def aluMinn (a b : Word) : Word := if b.toNat < a.toNat then b else a
def aluMaxn (a b : Word) : Word := if a.toNat < b.toNat then b else a
def aluSlt (a b : Word) : Word := boolW (decide (a.toInt < b.toInt))
def aluSltn (a b : Word) : Word := boolW (decide (a.toNat < b.toNat))
def aluSeq (a b : Word) : Word := boolW (decide (a = b))
def aluSel (a b c : Word) : Word := if a ≠ 0 then b else c

/-! ### Bit manipulation (spec/15 R299, R300) -/

/-- Zero bits of a word above bit n - 1, where bits n - 1 down to 0 are still to be looked at. -/
def clzFrom (a : Nat) : Nat → Nat
  | 0 => 64
  | n + 1 => if bits a n 1 = 1 then 63 - n else clzFrom a n
/-- The lowest set bit at or above bit 64 - n; 64 for none. -/
def ctzFrom (a : Nat) : Nat → Nat
  | 0 => 64
  | n + 1 => if bits a (63 - n) 1 = 1 then 63 - n else ctzFrom a n
def aluClz (a : Word) : Word := .ofNat 64 (clzFrom a.toNat 64)
def aluCtz (a : Word) : Word := .ofNat 64 (ctzFrom a.toNat 64)
def aluPopc (a : Word) : Word := .ofNat 64 ((List.range 64).map (fun i => bits a.toNat i 1)).sum
def aluBrev (a : Word) : Word := .ofNat 64 ((List.range 64).map (fun i => bits a.toNat (63 - i) 1 * 2 ^ i)).sum
def aluBswap (a : Word) : Word := .ofNat 64 ((List.range 8).map (fun i => bits a.toNat (56 - 8 * i) 8 * 2 ^ (8 * i))).sum
def aluSext (n : Nat) (a : Word) : Word := sextW a.toNat n
def aluZext (n : Nat) (a : Word) : Word := zextW a.toNat n
def aluMov (a : Word) : Word := a
/-- Bits P upward, W of them, sign-extended. -/
def aluBfx (p w : Nat) (a : Word) : Word := sextW (bits a.toNat p w) w
/-- Bits P upward, W of them, zero-extended. -/
def aluBfxn (p w : Nat) (a : Word) : Word := .ofNat 64 (bits a.toNat p w)
/-- d with bits P upward replaced by the low W bits of s1. -/
def aluBfi (p w : Nat) (d a : Word) : Word :=
  .ofNat 64 (d.toNat - bits d.toNat p w * 2 ^ p + a.toNat % 2 ^ w * 2 ^ p)
/-- A 21-bit immediate times 2^12 (spec/15 R301). -/
def aluLui (imm : BitVec 21) : Word := sextW imm.toNat 21 * 4096

/-! ### Lanes moved whole (spec/17 R356) -/

/-- The low e bits in every e-bit lane. -/
def laneSplat (e v : Nat) : Nat := ((List.range (256 / e)).map (fun i => v % 2 ^ e * 2 ^ (e * i))).sum
/-- Lane l of e bits replaced. -/
def laneSet (e l w v : Nat) : Nat := w - bits w (e * l) e * 2 ^ (e * l) + v % 2 ^ e * 2 ^ (e * l)

/-! ### Recipe instructions (spec/13 R254) -/

/-- What a recipe instruction does: a value of its sources in field order, a special register, an x register, or a load. A
source is a register code with its take bit. -/
inductive RecOp where
  | value (d : Nat) (srcs : List (Nat × Bool)) (f : List Nat → Nat)
  | srd (d : Nat) (n : Nat)
  | xget (d : Nat) (x : Nat)
  | load (d : Nat) (takeD : Bool) (base : Nat) (takeB : Bool) (size : Nat) (signed : Bool) (off : Word)
  | none

def recArg (l : List Nat) (i : Nat) : Word := .ofNat 64 ((l[i]?).getD 0)
def rec0 (d : GReg) (v : Word) : RecOp := .value d.toNat [] (fun _ => v.toNat)
def rec1 (d : GReg) (a : GSrc) (f : Word → Word) : RecOp :=
  .value d.toNat [(a.reg.toNat, a.take)] (fun l => (f (recArg l 0)).toNat)
def rec2 (d : GReg) (a b : GSrc) (f : Word → Word → Word) : RecOp :=
  .value d.toNat [(a.reg.toNat, a.take), (b.reg.toNat, b.take)] (fun l => (f (recArg l 0) (recArg l 1)).toNat)
def rec3 (d : GReg) (a b c : GSrc) (f : Word → Word → Word → Word) : RecOp :=
  .value d.toNat [(a.reg.toNat, a.take), (b.reg.toNat, b.take), (c.reg.toNat, c.take)]
    (fun l => (f (recArg l 0) (recArg l 1) (recArg l 2)).toNat)
/-- d := d op s. -/
def recHa (d r : GReg) (f : Word → Word → Word) : RecOp := rec2 d ⟨d, false⟩ ⟨r, false⟩ f

/-- The recipe form of an instruction; none for one that no recipe may hold. -/
def recOp : Instr → RecOp
  | .add d a b => rec2 d a b aluAdd
  | .sub d a b => rec2 d a b aluSub
  | .mul d a b => rec2 d a b aluMul
  | .mulh d a b => rec2 d a b aluMulh
  | .mulhn d a b => rec2 d a b aluMulhn
  | .madd d a b c => rec3 d a b c aluMadd
  | .div d a b => rec2 d a b aluDiv
  | .divn d a b => rec2 d a b aluDivn
  | .rem d a b => rec2 d a b aluRem
  | .remn d a b => rec2 d a b aluRemn
  | .addW d a b => rec2 d a b aluAddW
  | .subW d a b => rec2 d a b aluSubW
  | .sllW d a b => rec2 d a b aluSllW
  | .srlW d a b => rec2 d a b aluSrlW
  | .sraW d a b => rec2 d a b aluSraW
  | .and d a b => rec2 d a b aluAnd
  | .or d a b => rec2 d a b aluOr
  | .xor d a b => rec2 d a b aluXor
  | .andn d a b => rec2 d a b aluAndn
  | .sll d a b => rec2 d a b aluSll
  | .srl d a b => rec2 d a b aluSrl
  | .sra d a b => rec2 d a b aluSra
  | .rotl d a b => rec2 d a b aluRotl
  | .min d a b => rec2 d a b aluMin
  | .max d a b => rec2 d a b aluMax
  | .minn d a b => rec2 d a b aluMinn
  | .maxn d a b => rec2 d a b aluMaxn
  | .slt d a b => rec2 d a b aluSlt
  | .sltn d a b => rec2 d a b aluSltn
  | .seq d a b => rec2 d a b aluSeq
  | .sel d a b c => rec3 d a b c aluSel
  | .mov d a => rec1 d a aluMov
  | .clz d a => rec1 d a aluClz
  | .ctz d a => rec1 d a aluCtz
  | .popc d a => rec1 d a aluPopc
  | .brev d a => rec1 d a aluBrev
  | .bswap d a => rec1 d a aluBswap
  | .sextB d a => rec1 d a (aluSext 8)
  | .sextH d a => rec1 d a (aluSext 16)
  | .sextW d a => rec1 d a (aluSext 32)
  | .zextB d a => rec1 d a (aluZext 8)
  | .zextH d a => rec1 d a (aluZext 16)
  | .zextW d a => rec1 d a (aluZext 32)
  | .addi d a imm => rec1 d a (fun x => aluAdd x (sextW imm.toNat 12))
  | .andi d a imm => rec1 d a (fun x => aluAnd x (sextW imm.toNat 12))
  | .ori d a imm => rec1 d a (fun x => aluOr x (sextW imm.toNat 12))
  | .xori d a imm => rec1 d a (fun x => aluXor x (sextW imm.toNat 12))
  | .slti d a imm => rec1 d a (fun x => aluSlt x (sextW imm.toNat 12))
  | .slli d a n => rec1 d a (fun x => aluSll x (zextW n.toNat 6))
  | .srli d a n => rec1 d a (fun x => aluSrl x (zextW n.toNat 6))
  | .srai d a n => rec1 d a (fun x => aluSra x (zextW n.toNat 6))
  | .rotli d a n => rec1 d a (fun x => aluRotl x (zextW n.toNat 6))
  | .bfx d a p k => if 64 < p.toNat + k.toNat + 1 then .none else rec1 d a (aluBfx p.toNat (k.toNat + 1))
  | .bfxn d a p k => if 64 < p.toNat + k.toNat + 1 then .none else rec1 d a (aluBfxn p.toNat (k.toNat + 1))
  | .bfi d a p k =>
    if 64 < p.toNat + k.toNat + 1 then .none else rec2 d ⟨d, false⟩ a (aluBfi p.toNat (k.toNat + 1))
  | .li d imm => rec0 d (sextW imm.toNat 21)
  | .lui d imm => rec0 d (aluLui imm)
  | .srd d n => .srd d.toNat n.toNat
  | .xget d x => .xget d.toNat x.toNat
  | .ld d base sz imm => .load d.reg.toNat d.take base.reg.toNat base.take (2 ^ sz.toNat) true (sextW imm.toNat 9 * .ofNat 64 (2 ^ sz.toNat))
  | .ldn d base sz imm => .load d.reg.toNat d.take base.reg.toNat base.take (2 ^ sz.toNat) false (sextW imm.toNat 9 * .ofNat 64 (2 ^ sz.toNat))
  | .vld d base imm => .load (16 + d.reg.toNat) d.take base.reg.toNat base.take 32 false (sextW imm.toNat 9 * 32)
  | .vbcst d g => .value (16 + d.toNat) [(g.reg.toNat, g.take)] (fun l => laneSplat 64 (l.headD 0))
  | .vins d a g k =>
    if 4 ≤ k.toNat then .none
    else .value (16 + d.toNat) [(16 + a.reg.toNat, a.take), (g.reg.toNat, g.take)]
      (fun l => laneSet 64 k.toNat (l.headD 0) ((l[1]?).getD 0))
  | .vmov d a => .value (16 + d.toNat) [(16 + a.reg.toNat, a.take)] (fun l => l.headD 0)
  | .add16 d r => recHa d r aluAdd
  | .sub16 d r => recHa d r aluSub
  | .and16 d r => recHa d r aluAnd
  | .or16 d r => recHa d r aluOr
  | .xor16 d r => recHa d r aluXor
  | .mov16 d r => rec1 d ⟨r, false⟩ aluMov
  | .sll16 d r => recHa d r aluSll
  | .srl16 d r => recHa d r aluSrl
  | .addW16 d r => recHa d r aluAddW
  | .subW16 d r => recHa d r aluSubW
  | .andn16 d r => recHa d r aluAndn
  | .sra16 d r => recHa d r aluSra
  | .mul16 d r => recHa d r aluMul
  | .slt16 d r => recHa d r aluSlt
  | .sltn16 d r => recHa d r aluSltn
  | .seq16 d r => recHa d r aluSeq
  | .min16 d r => recHa d r aluMin
  | .max16 d r => recHa d r aluMax
  | .minn16 d r => recHa d r aluMinn
  | .maxn16 d r => recHa d r aluMaxn
  | .rotl16 d r => recHa d r aluRotl
  | .mulh16 d r => recHa d r aluMulh
  | .mulhn16 d r => recHa d r aluMulhn
  | .addi16 d imm => rec1 d ⟨d, false⟩ (fun x => aluAdd x (sextW imm.toNat 6))
  | .li16 d imm => rec0 d (sextW imm.toNat 6)
  | .slli16 d imm => rec1 d ⟨d, false⟩ (fun x => aluSll x (zextW imm.toNat 6))
  | .srai16 d imm => rec1 d ⟨d, false⟩ (fun x => aluSra x (zextW imm.toNat 6))
  | .andi16 d imm => rec1 d ⟨d, false⟩ (fun x => aluAnd x (sextW imm.toNat 6))
  | .srli16 d imm => rec1 d ⟨d, false⟩ (fun x => aluSrl x (zextW imm.toNat 6))
  | .ldD16 d base off => .load d.toNat false base.toNat false 8 true (.ofNat 64 (8 * off.toNat))
  | _ => .none

end Sys2Proof.Machine
end

