-- ==== Sys2Proof/Config.lean ====
section
/-! DEFINITION. What the spec leaves open: free values and uninterpreted primitives. No constant here has a body, so nothing
can be proved of its value (log entries 3, 6 and 8). -/

namespace Sys2Proof

/-- A 64-bit value the spec gives no meaning to (spec/06 R90, spec/09 R177, spec/10 R198): one per draw. Log 3. -/
opaque Config.freeWord : Nat → BitVec 64
/-- A 256-bit value the spec gives no meaning to (spec/06 R90). Log 3. -/
opaque Config.freeWide : Nat → BitVec 256
/-- A byte the spec gives no meaning to (spec/09 R177, spec/10 R198). Log 3. -/
opaque Config.freeByte : Nat → BitVec 8

/-- The steps of the other agents and of the outside that come next: which, and in what order, is open (spec/06 R412). Log 1. -/
opaque Config.freeEvents : Nat → List Instr

/-- SHA-384 of a string of bytes: named by spec/03 R42, R46, defined outside it. Log 6. -/
opaque Config.sha384 : List Byte → BitVec 384
/-- Does an Ed25519 signature verify over these bytes with the key of this hash (spec/03 R42, R50)? Log 6. -/
opaque Config.ed25519Ok : BitVec 384 → List Byte → Nat → Bool
/-- Does an ML-DSA-65 signature verify over these bytes with the key of this hash (spec/03 R42, R50)? Log 6. -/
opaque Config.mldsaOk : BitVec 384 → List Byte → Nat → Bool
/-- The Ed25519 signature the panel identity key makes (spec/03 R46). Log 6. -/
opaque Config.ed25519Sign : List Byte → Nat
/-- The ML-DSA-65 signature the panel identity key makes (spec/03 R46). Log 6. -/
opaque Config.mldsaSign : List Byte → Nat

/-- The correctly rounded result of a special function where the interval the model computes does not decide the rounding:
the function's number, the operand's bits, the format's code (spec/17 R355). Log 8. -/
opaque Config.specialRound : Nat → Nat → Nat → Nat

end Sys2Proof
end

