-- ==== Sys2Proof/Machine/Map.lean ====
section
/-! DEFINITION. Finite maps from Nat as sorted lists of pairs, and memory as a list of cells in one canonical form: addresses
strictly rising, no entry equal to what an unlisted address reads as, which is zero (spec/03 R43). -/

namespace Sys2Proof.Machine

/-- A finite map: pairs in strictly rising order of key. -/
abbrev FMap (α : Type) := List (Nat × α)

/-- The entry of a key. -/
def FMap.get? {α : Type} : FMap α → Nat → Option α
  | [], _ => none
  | (k, v) :: m, j => if j = k then some v else if j < k then none else FMap.get? m j

/-- The entry of a key, or a default. -/
def FMap.getD {α : Type} (m : FMap α) (j : Nat) (dflt : α) : α := (m.get? j).getD dflt

/-- The map with a key bound to a value. -/
def FMap.set {α : Type} : FMap α → Nat → α → FMap α
  | [], j, x => [(j, x)]
  | (k, v) :: m, j, x =>
    if j = k then (k, x) :: m
    else if j < k then (j, x) :: (k, v) :: m
    else (k, v) :: FMap.set m j x

/-- The map without a key. -/
def FMap.erase {α : Type} : FMap α → Nat → FMap α
  | [], _ => []
  | (k, v) :: m, j => if j = k then m else if j < k then (k, v) :: m else (k, v) :: FMap.erase m j

/-- Keys strictly rising. -/
def FMap.sorted {α : Type} : FMap α → Bool
  | [] => true
  | [_] => true
  | (k, _) :: (k', v') :: m => decide (k < k') && FMap.sorted ((k', v') :: m)

/-- The first key for which a test holds. -/
def FMap.findKey? {α : Type} (m : FMap α) (p : Nat → α → Bool) : Option (Nat × α) := m.find? (fun kv => p kv.1 kv.2)

/-- Every value passed through a function of its key. -/
def FMap.mapVals {α : Type} (m : FMap α) (f : Nat → α → α) : FMap α := m.map (fun kv => (kv.1, f kv.1 kv.2))

/-- A memory: listed bytes in rising order of address; every other byte is zero. -/
abbrev Memory := List Host.Cell

/-- What a byte that nothing has written reads as: self-test ends by writing zero to every byte (spec/03 R43, R52). -/
def Memory.blank : Byte := 0

/-- The byte at an address. -/
def Memory.byte (m : Memory) (a : Nat) : Byte := (FMap.get? m a).getD Memory.blank

/-- Write one byte, keeping the canonical form. -/
def Memory.put (m : Memory) (a : Nat) (b : Byte) : Memory :=
  if b = Memory.blank then FMap.erase m a else FMap.set m a b

/-- Read n bytes from an address upward, lowest first. -/
def Memory.bytes (m : Memory) (a : Nat) : Nat → List Byte
  | 0 => []
  | n + 1 => m.byte a :: m.bytes (a + 1) n

/-- Write bytes from an address upward. -/
def Memory.putBytes (m : Memory) (a : Nat) : List Byte → Memory
  | [] => m
  | b :: bs => Memory.putBytes (m.put a b) (a + 1) bs

/-- The little-endian value of a list of bytes (spec/00 R5). -/
def leValue : List Byte → Nat
  | [] => 0
  | b :: bs => b.toNat + 256 * leValue bs

/-- The n little-endian bytes of a value (spec/00 R5). -/
def leBytes (v : Nat) : Nat → List Byte
  | 0 => []
  | n + 1 => BitVec.ofNat 8 v :: leBytes (v / 256) n

/-- Read an n-byte little-endian value. -/
def Memory.read (m : Memory) (a n : Nat) : Nat := leValue (m.bytes a n)

/-- Write an n-byte little-endian value. -/
def Memory.write (m : Memory) (a n v : Nat) : Memory := m.putBytes a (leBytes v n)

/-- Every byte from lo to hi - 1 set to zero. -/
def Memory.clear (m : Memory) (lo hi : Nat) : Memory := m.filter (fun c => decide (c.1 < lo) || decide (hi ≤ c.1))

/-- The canonical form: addresses strictly rising, no listed zero. -/
def Memory.wf (m : Memory) : Bool := FMap.sorted m && m.all (fun c => decide (c.2 ≠ Memory.blank))

end Sys2Proof.Machine
end

