-- ==== Sys2Proof/Machine/State.lean ====
section
/-! DEFINITION. The state of the panel as plain data, and its value right after reset. Units of which there are many (strands,
cores, columns, quadrants, engines, tiles, queues, ...) are finite maps in which an absent key stands for the unit's reset
value. Keys: a core is tile * 768 + core number, a column tile * 16 + column, a quadrant or engine tile * 4 + its number, a
site row * 8 + column, a router its site, or 72 to 75 for the I/O dies North, South, West, East. -/

namespace Sys2Proof.Machine

/-! ### Strands (spec/06) -/

/-- The state of a g or w register (spec/06 R92). -/
inductive RegState where
  | full | empty | cut | awaiting
deriving DecidableEq, Repr

/-- A DataLoss that the first read of a register raises: g2 and g4 of the trap (spec/16 R320, spec/06 R113). -/
structure Loss where
  g2 : Word
  g4 : Word
deriving DecidableEq, Repr

/-- What the core keeps of a g or w register beside its value: its state (spec/06 R92), the owed fills and the latest owing
instruction (spec/13 R252), the acquire (a scope code) and the DataLoss that its first read carries (spec/08 R150, spec/16
R320). par: its storage has a parity error (spec/11 R220, source 6); as for every error flag of this file, see log 36. -/
structure RegCtl where
  st : RegState
  owed : Nat
  tag : Nat
  acq : Option (BitVec 4)
  loss : Option Loss
  par : Bool
deriving DecidableEq, Repr

/-- A Full register with nothing owed. -/
def RegCtl.reset : RegCtl := ⟨.full, 0, 0, none, none, false⟩

/-- One of the eight cutting attachments: register code (31 unused) and recipe index (spec/06 R91). -/
structure CmapEntry where
  reg : Nat
  recipe : BitVec 8
deriving DecidableEq, Repr

/-- The states of a strand (spec/06 R101). An Ended strand is no longer in the map. -/
inductive Status where
  | queued | ready | parked | evicted | inFlight | refused | trapped | halted | suspended
deriving DecidableEq, Repr

/-- The class in which a strand waits for a slot (spec/05 R82); listed is the refusal list's share of the migrating class. -/
inductive QueueClass where
  | urgent | resumed | listed | migrating | fresh
deriving DecidableEq, Repr

/-- No handler, a job handler or a supervisor handler (spec/11 R205, R210). -/
inductive HandlerKind where
  | none | job | sup
deriving DecidableEq, Repr

/-- The join-word increment of a SPAWN: not asked for, sent, acknowledged, or failed with a cause, g4 (spec/06 R111, R112). -/
inductive IncrState where
  | idle | sent | acked | failed (cause g4 : Nat)
deriving DecidableEq, Repr

/-- Classes of outstanding items (spec/08 R146, spec/18 R365). -/
inductive ItemClass where
  | posted | update | copy | task | rake | read
deriving DecidableEq, Repr

/-- What a strand parked with cause 5 waits for (spec/08 R147): items of the near classes whose home lies within a scope and all
of the far classes, an XFENCE's paths at a scope, WAITC's counts, items homed in a hedge rectangle, updates to a bed (whose items
carry its index as their group), the rake fetches issued before an identifier, the answer its phase awaits, or a core that takes its child.
With cause 1, ldaq is the wait for the fill of a pinned LDAQ (spec/08 R149); with cause 9, hedge is the wait of an HWAIT on a generation
of a register for a waiter entry (spec/18 R370). With cause 4, room is the wait for so many free entries of the outbound queue (spec/06 R97). -/
inductive Wait where
  | none
  | items (near far : List ItemClass) (scope : Nat)
  | paths (p scope : Nat)
  | counts (x0 : Word)
  | rect (r : BitVec 14)
  | bed (b : Nat)
  | rake (bound : Nat)
  | answer
  | child
  | ldaq
  | hedge (h g : Nat)
  | room (n : Nat)
deriving DecidableEq, Repr

/-- What a strand that issues again keeps of its wait: RAKEW's bound, for it waits for the fetches issued before it (spec/16 R339). -/
def Wait.kept : Wait → Wait
  | .rake b => .rake b
  | _ => .none

/-- How far an instruction that completes in phases has come, with its PC held. -/
inductive Phase where
  | none
  /-- VTLD has sent its reads under this identifier (spec/17 R359); a failure holds the trap's cause, g2, g4. -/
  | vtld (id : Nat) (fail : Option (Nat × Word × Word)) (done : Bool)
  /-- SPAWN holds a reserved image and SID for a child with this target, named home (home code, cva, address) and join word
  (spec/18 R372). -/
  | spawn (sid : Nat) (target : BitVec 64) (home : Option (Nat × Option Nat × BitVec 64)) (joinw : BitVec 64) (incr : IncrState)
  /-- REPLSYNC has sent its reads: identifier of its posted stores and reads still out (spec/16 R326). -/
  | replsync (id : Nat)
  /-- UFLUSH has sent its requests: acknowledgements missing and whether one failed (spec/16 R330). -/
  | uflush (id : Nat) (missing : Nat) (failed : Bool)
  /-- JOIN has sent its registration (spec/06 R113): accepted yet, refusals so far. -/
  | join (tag : Nat) (accepted : Bool) (refusals : Nat)
deriving DecidableEq, Repr

/-- The replay of a Cut register: register code, next step, value so far, the read it waits for, and the cause with which that
read failed (spec/13 R255). -/
structure Regrow where
  reg : Nat
  step : Nat
  val : Option Wide
  waiting : Option Nat
  fail : Option (Nat × Word)
deriving DecidableEq, Repr

/-- Where a strand's image lies: logical tile, column, logical core number and slot (spec/06 R90, R94). -/
structure Place where
  tile : Nat
  col : Nat
  core : Nat
  slot : Nat
deriving DecidableEq, Repr

/-- A trap whose handler has not been created yet (spec/06 R96, spec/11 R205, R210). -/
structure TrapInfo where
  cause : Nat
  g1 : Word
  g2 : Word
  g4 : Word
deriving DecidableEq, Repr

/-- A strand (spec/06 R89 to R92, R97, R101). ldaq: the destinations of its pinned LDAQs whose fills are out (spec/08 R149).
asUrgent: an urgent strand that is no handler, a debugger stub or one that gardener firmware dispatches so (spec/06 R96); no step of the
opcode table creates one. xpar: the x registers with a parity error, and imgBad: its stored image has an uncorrectable error (spec/11
R220, sources 6 and 8). before: BOUNCE and the registers' control part as they were before a migration that is not accepted yet (spec/11
R206). -/
structure Strand where
  handle : BitVec 64
  pc : BitVec 56
  ss : BitVec 64
  g : Vector Word 16
  w : Vector Wide 8
  x : Vector Word 8
  ctl : Vector RegCtl 24
  job : Nat
  asid : BitVec 12
  flat : Nat
  bounce : BitVec 64
  joinw : BitVec 64
  cmap : Vector CmapEntry 8
  pcause : Nat
  preg : Nat
  dest : Nat
  destVa : BitVec 64
  destCva : Option Nat
  status : Status
  loc : Place
  img : Nat
  cls : QueueClass
  refusals : Nat
  rlim : Nat
  parkedFor : Nat
  hkind : HandlerKind
  asUrgent : Bool
  victim : BitVec 64
  ofTask : Bool
  bornCol : Nat
  phase : Phase
  regrow : Option Regrow
  ldaq : List Nat
  bindRec : Option Nat
  pending : Option TrapInfo
  bedWait : Option (BitVec 64)
  wait : Wait
  xpar : BitVec 8
  imgBad : Bool
  before : Option (BitVec 64 × Vector RegCtl 24)
deriving DecidableEq, Repr

/-! ### Beds, cuttings, launch records (spec/05, spec/07, spec/13) -/

/-- The kinds of bed (spec/07 R117). -/
inductive BedKind where
  | here | striped | replicated | update | host | peer | scratch
deriving DecidableEq, Repr

/-- A bed descriptor (spec/07 R117): base and len in bytes. -/
structure Bed where
  base : Nat
  len : Nat
  kind : BedKind
  imm : Bool
  rd : Bool
  wr : Bool
  ex : Bool
  atm : Bool
  rbase : Nat
  rasid : Nat
  peer : Nat
  spbed : Nat
  op : Nat
  etype : Nat
  aper : Nat
  die : Nat
  log2g : Nat
  order : Bool
  prim : Nat
  trows : Nat
  tcols : Nat
  trow0 : Nat
  tcol0 : Nat
  ltile : Nat
  colm : Nat
  quad : Nat
deriving DecidableEq, Repr

/-- A tile's copy of the bed table of an address space (spec/07 R119): BEDN, BEDTAB and the descriptors by index. -/
structure BedTable where
  bedn : Nat
  bedtab : Nat
  beds : FMap Bed
deriving DecidableEq, Repr

/-- A recipe (spec/13 R253): the register it regrows and its instruction words. -/
structure Recipe where
  treg : Nat
  ins : List Nat
deriving DecidableEq, Repr

/-- A job's cutting table as a tile holds it (spec/13 R253). -/
structure CutTable where
  cutn : Nat
  cuttab : Nat
  recipes : List Recipe
deriving DecidableEq, Repr

/-- A level descriptor (spec/05 R68). -/
structure Level where
  scope : Nat
  domain : Nat
  count : Nat
deriving DecidableEq, Repr

/-- A predecessor entry (spec/05 R69). -/
structure Pred where
  pcw : Nat
  pseq : Nat
  pgo : Nat
  gothr : Nat
deriving DecidableEq, Repr

/-- A launch record (spec/05 R66 to R69). -/
structure LaunchRec where
  seq : Nat
  entry : Nat
  cwaddr : Nat
  goaddr : Nat
  handler : Nat
  asid : Nat
  nlev : Nat
  npred : Nat
  slotcap : Nat
  prow : Nat
  pcol : Nat
  prows : Nat
  pcols : Nat
  bedtab : Nat
  bedn : Nat
  cutn : Nat
  cuttab : Nat
  args : List Word
  levels : List Level
  preds : List Pred
deriving DecidableEq, Repr

/-- The states JOBSTS reports (spec/11 R218). -/
inductive JobState where
  | pending | running | suspending | suspended | resuming | completing
deriving DecidableEq, Repr

/-- A job as its lead gardener holds it, with its bed table and recipes as checked at acceptance (spec/05 R72 to R86, spec/11
R218, R225). early: the indices of set E (R77). preds: the entries as last polled: 0 waiting, 1 complete, 2 early, 3 failed
(R75). lostKnown and asked: the strands lost in an outstanding migration, and whether the docks are being asked (spec/11 R225).
orphan: its lead tile was lost, so it cannot complete (spec/11 R225). -/
structure Job where
  handle : Nat
  lrec : LaunchRec
  beds : BedTable
  cuts : CutTable
  queue : Option Nat
  prio : Nat
  die : Nat
  usertag : BitVec 64
  evt : Bool
  state : JobState
  early : List Nat
  earlyDone : List Nat
  released : Bool
  status : Nat
  created : Nat
  ended : Nat
  tilesLeft : List Nat
  cancelCause : Nat
  tiles : List Nat
  arrival : Nat
  hostPorts : List Nat
  preds : List Nat
  lostKnown : List (BitVec 64)
  asked : Bool
  orphan : Bool
deriving DecidableEq, Repr

/-- A launch record waiting at a lead gardener's inbox (spec/05 R73): its words, queue and arrival order. -/
structure InboxRec where
  queue : Nat
  prio : Nat
  die : Nat
  units : List Nat
  lrlen : Nat
  usertag : BitVec 64
  evt : Bool
  arrival : Nat
deriving DecidableEq, Repr

/-- The states of a bind record (spec/05 R79). -/
inductive RecState where
  | free | active | suspended | drained
deriving DecidableEq, Repr

/-- A bind record (spec/05 R79). -/
structure BindRec where
  job : Nat
  asid : Nat
  col : Nat
  budget : Nat
  state : RecState
  entry : Nat
  first : Nat
  ncnt : Nat
  cmask : BitVec 48
  args : List Word
deriving DecidableEq, Repr

/-! ### Cores and columns -/

/-- A line of a line, instruction or rake buffer: its tag, the AG at its fill and its bytes as one number (spec/07 R129,
R130, R136, spec/08 R149), and whether it has a parity error (spec/11 R220, source 7). -/
structure Snapshot where
  asid : BitVec 12
  line : Nat
  ag : Nat
  data : Nat
  bad : Bool
deriving DecidableEq, Repr

/-- An entry of a bed cache (spec/07 R119). -/
structure BedCacheEntry where
  asid : BitVec 12
  index : Nat
  bed : Bed
deriving DecidableEq, Repr

/-- The states of an outbound pair: waiting to be sent, sent, or waiting out its backoff (spec/09 R162, R164). -/
inductive PairState where
  | waiting | sent | backoff
deriving DecidableEq, Repr

/-- An entry of a core's outbound update queue (spec/09 R162, R163). -/
structure OutPair where
  item : Nat
  home : Nat
  asid : BitVec 12
  bed : Nat
  op : Nat
  etype : Nat
  hoff : Nat
  lmask : Nat
  value : Word
  refusals : Nat
  state : PairState
deriving DecidableEq, Repr

/-- A VTLD of a core whose pieces are returning (spec/17 R359, R360): pieces by number. -/
structure Vtld where
  handle : BitVec 64
  pieces : FMap Wide
deriving DecidableEq, Repr

/-- A strand core (spec/01 R14, spec/06 R96, R100, spec/07 R119, R129, R130, spec/09 R162, spec/11 R228, spec/12 R235).
corectl and dbgctl hold their fields as the register maps lay them out. -/
structure Core where
  corectl : BitVec 64
  arrival : List (BitVec 64)
  reserved : List (BitVec 64)
  urgent : List (BitVec 64)
  bedCache : List BedCacheEntry
  lineBuf : List Snapshot
  instrBuf : List Snapshot
  table : FMap (BitVec 19)
  outq : FMap OutPair
  lastAsid : Option (BitVec 12)
  dbgctl : BitVec 64
  vtlds : FMap Vtld
deriving DecidableEq, Repr

/-- EVTHR 32, AQDEPTH 8, RLIM 0 (spec/06 R100); everything else empty or zero. -/
def Core.reset : Core := ⟨0x20080000, [], [], [], [], [], [], [], [], none, 0, []⟩

/-- An entry of a dock's refusal list (spec/06 R106). -/
structure RefEntry where
  handle : BitVec 64
  sender : Nat
  core : Nat
  count : Nat
  held : Bool
deriving DecidableEq, Repr

/-- A waiter of a join table (spec/06 R113): the word by panel address, and whom to fill. -/
structure JoinWaiter where
  addr : Nat
  handle : BitVec 64
  reg : Nat
  tag : Nat
deriving DecidableEq, Repr

/-- A leaf held by a translation buffer (spec/07 R128): page base in cva, page size, column offset, X and W. -/
structure TlbEntry where
  asid : BitVec 12
  cva : Nat
  size : Nat
  off : Nat
  x : Bool
  w : Bool
deriving DecidableEq, Repr

/-- A request to a rake unit (spec/10 R202, spec/16 R338): next is the element to run, todo the lines that its last element has
emitted and that are not yet sent for, line the number of the index line last read with its bytes, none where it cannot be used. -/
structure RakeReq where
  item : Nat
  handle : BitVec 64
  asid : BitVec 12
  ia : BitVec 64
  nidx : Nat
  wide : Bool
  signed : Bool
  kaddr : BitVec 64
  p0 : Word
  p1 : Word
  next : Nat
  kernel : List Nat
  out : Nat
  todo : List Nat
  line : Option (Nat × Option Nat)
deriving DecidableEq, Repr

/-- A column: its dock (resume list, refusal list, count of SIDs, join table), its translation buffer, its rake unit, its
vertical lanes, its copy engine, by job the strands created and ended here and not yet reported, and the slot-table index
that its dispatcher visited last (spec/05 R80, spec/06 R89, R98, R106, R113, spec/07 R128, spec/10 R187, R202, spec/11 R225, spec/03 R48).
imgs: how many images of its context store have ever been taken (spec/06 R99, spec/03 R43); late: the answers that came after the wait
for them and were discarded (spec/02 R38); busBad: transfers over its vertical bus fail beyond retry (spec/11 R220, source 9). -/
structure Column where
  resume : List (BitVec 64)
  refusals : List RefEntry
  refCount : Nat
  sidCount : Nat
  joins : List JoinWaiter
  tlb : List TlbEntry
  tbBusy : Bool
  rakeQ : List RakeReq
  rakeRun : Option RakeReq
  rakeBuf : List Snapshot
  rakeOut : Nat
  skips : Nat
  kerr : Nat
  lanes : FMap Nat
  repair : Option Nat
  copy : Option Nat
  counts : FMap (Nat × Nat)
  visit : Nat
  imgs : Nat
  late : Nat
  busBad : Bool
deriving DecidableEq, Repr

/-- Nothing waiting, nothing cached, no lane mapped. -/
def Column.reset : Column := ⟨[], [], 0, 0, [], [], false, [], none, [], 0, 0, 0, [], none, none, [], 1023, 0, 0, false⟩

/-! ### Quadrants -/

/-- A line held by a tile-cache quadrant (spec/07 R131, R133): column, line number, way, dirty, evict-first, and whether it has an
uncorrectable error (spec/11 R220, source 2). The list of lines stands in order of recency, most recent first. -/
structure CacheLine where
  col : Nat
  line : Nat
  way : Nat
  dirty : Bool
  evictFirst : Bool
  bad : Bool
deriving DecidableEq, Repr

/-- The pending result of a location: operator, element type, spill bed, the beds (with their address spaces) by which its pairs came,
lane results, each an integer result or an FE96 encoding (spec/09 R166, R170, R175), and whether it has an uncorrectable error (spec/11
R220, source 4). -/
structure BinEntry where
  op : Nat
  etype : Nat
  spill : Nat
  srcs : List (BitVec 12 × Nat)
  lanes : FMap Nat
  bad : Bool
deriving DecidableEq, Repr

/-- A run in a spill area (spec/09 R167): its number, the spill bed it lies in, its entries by location, whether it is still being written,
the lines of memory that hold it, by panel physical address (spec/09 R177, log 39), and how many of its lines are still to be written. -/
structure Run where
  id : Nat
  spill : Nat
  entries : FMap BinEntry
  writing : Bool
  pas : List Nat
  left : Nat
deriving DecidableEq, Repr

/-- What a sieve's forced applies go on until (spec/09 R168): nothing, a run is free, or the free slots reach 16,384. -/
inductive Forcing where
  | none | run (id : Nat) | slots
deriving DecidableEq, Repr

/-- A quadrant: its tile cache, scratch and sieve (spec/07 R131 to R135, spec/09 R166 to R178). A location's key is
column * 2^32 + column offset; the directory lists granules (key div 4096) oldest first, forceQ
those whose forced apply is due, forcing what forced applies for a spill go on until. -/
structure Quad where
  scrw : Nat
  retw : Nat
  busy : Bool
  newScrw : Nat
  qhit : Nat
  qmiss : Nat
  qwbk : Nat
  ret : FMap (BitVec 64)
  ef : FMap (BitVec 64)
  lines : List CacheLine
  dir : List Nat
  bins : FMap BinEntry
  runs : List Run
  spilling : Bool
  forceQ : List Nat
  forcing : Forcing
  svacc : Nat
  svref : Nat
  svspill : Nat
  svforce : Nat
  svapply : Nat
deriving DecidableEq, Repr

/-- No partition, no lines, an empty sieve. -/
def Quad.reset : Quad := ⟨0, 0, false, 0, 0, 0, 0, [], [], [], [], [], [], false, [], .none, 0, 0, 0, 0, 0⟩

/-! ### Matrix engines and tasks -/

/-- An accumulator entry: an FX96 integer count of 2^-36, or an FE96 encoding, with its flags (spec/10 R192). -/
structure Acc where
  fx : Int
  fe : BitVec 96
  nan : Bool
  ovf : Bool
deriving DecidableEq, Repr

/-- An accumulator bank: whether it holds FE96, its entries that are not zero, by 256 * m + n (spec/10 R192), and whether it has an
uncorrectable error (spec/11 R220, source 5). -/
structure Bank where
  fe : Bool
  ents : FMap Acc
  bad : Bool
deriving DecidableEq, Repr

/-- A step in progress: the bytes popped and the block scales read as it began (spec/10 R190, R191). -/
structure EngStep where
  k : Nat
  a : List Byte
  b : List Byte
  sa : List Byte
  sb : List Byte
deriving DecidableEq, Repr

/-- A matrix engine (spec/10 R187 to R194). drained: the locations that the drain under way has written, as a mask, and their count. badA,
badB and badScale: the channels and the scale memory have an uncorrectable error (spec/11 R220, sources 3 and 5). -/
structure Engine where
  chA : List Byte
  chB : List Byte
  scale : Memory
  bank0 : Bank
  bank1 : Bank
  run : Option Nat
  step : Nat
  cur : Option EngStep
  drain : Option Nat
  hold : Option Nat
  drained : Nat
  drainCount : Nat
  badA : Bool
  badB : Bool
  badScale : Bool
deriving DecidableEq, Repr

/-- A bank of zeros of kind FX96. -/
def Bank.reset : Bank := ⟨false, [], false⟩
/-- Banks zero of kind FX96 (spec/10 R192), channels empty. -/
def Engine.reset : Engine :=
  ⟨[], [], [], Bank.reset, Bank.reset, none, 0, none, none, none, 0, 0, false, false, false⟩

/-- The states of a task, as the task ring codes them (spec/10 R204). -/
inductive TaskState where
  | waiting | ready | running | done | faulted | cancelled
deriving DecidableEq, Repr

/-- Where a remote access goes: a column's key with bed, home offset, bed kind and whether the bed is a spill bed; a host
aperture with its bus address; or a peer. -/
inductive Target where
  | column (key bed hoff : Nat) (kind : BedKind) (spill : Bool)
  | host (die aper : Nat) (bus : Nat)
  | peer (die index : Nat) (asid : Nat) (va : Nat)
deriving DecidableEq, Repr

/-- Where a write that a copy has issued goes: to memory, to a byte of an engine's scale memory on a tile, to memory as generated scales, or
into an engine's channel on another tile (spec/10 R196, R198). -/
inductive CopyDest where
  | mem (g : Target)
  | scale (tile off : Nat)
  | gen (g : Target)
  | chan (tile : Nat)
deriving DecidableEq, Repr

/-- A write that a copy has issued and that is not performed yet: bytes of one location (spec/08 R138), and the message of class 6 that carries
them to another node (spec/02 R25, spec/10 R196). -/
structure CopyWrite where
  dest : CopyDest
  va : Nat
  data : List Byte
  msg : Option Nat
deriving DecidableEq, Repr

/-- A posted task in the task area (spec/10 R181, R186): its 1,024-bit record as a number. done: steps of a matrix task or units
of a copy that are complete; scales: the block scales a copy has generated; fin: how far TASK_FINISH has come, the completion word
and then one for each successor; partner: the copy with which it is combined (spec/10 R199). writes: those that a copy has issued, in loop
order; ahead: the locations it has read ahead of their turn, by element (spec/08 R138); got: the end of the element it last read, with the bytes of that location; lastRd and lastWr: the lines it last read and wrote;
scaled: its generated scales have been issued; due: the fault that it takes once what it has issued is performed. -/
structure Task where
  tseq : Nat
  job : Nat
  tag : Nat
  isCopy : Bool
  record : Nat
  raddr : BitVec 56
  poster : BitVec 64
  flat : Nat
  postCol : Nat
  asid : BitVec 12
  count : Int
  state : TaskState
  readyAt : Nat
  held : Bool
  eng : Nat
  done : Nat
  nan : Bool
  ovf : Bool
  item : Nat
  finished : Bool
  partner : Option Nat
  stopping : Bool
  scales : List Byte
  fin : Nat
  writes : List CopyWrite
  ahead : FMap Nat
  got : Option (Nat × Nat)
  lastRd : Option Nat
  lastWr : Option Nat
  scaled : Bool
  due : Option (Nat × Word)
deriving DecidableEq, Repr

/-- An entry of the task ring (spec/10 R204). -/
structure RingEntry where
  tseq : Nat
  poster : BitVec 64
  raddr : BitVec 56
  tag : Nat
  state : TaskState
  eng : Nat
  fcode : Nat
  kind : Nat
  faddr : BitVec 56
deriving DecidableEq, Repr

/-- A TaskFault whose handler the urgent queue of a core has no room for (spec/06 R96, spec/11 R212). -/
structure TaskReport where
  core : Nat
  tseq : Nat
  kind : Nat
  code : Nat
  faddr : BitVec 56
  raddr : BitVec 56
  poster : BitVec 64
  job : Nat
  flat : Nat
deriving DecidableEq, Repr

/-- A TASKW waiting for a task's retirement (spec/18 R364). -/
structure TaskWaiter where
  tseq : Nat
  handle : BitVec 64
  reg : Nat
  tag : Nat
deriving DecidableEq, Repr

/-! ### Tiles -/

/-- The states of a hedge register (spec/18 R366). -/
inductive HedgeState where
  | idle | armed | arrived
deriving DecidableEq, Repr

/-- A waiter of a hedge register (spec/18 R370). -/
structure HedgeWaiter where
  gen : Nat
  handle : BitVec 64
  reg : Nat
  tag : Nat
deriving DecidableEq, Repr

/-- A hedge register with its waiters and the row and column arrivals it holds, each the rectangle it carries (spec/18 R366
to R370). -/
structure Hedge where
  bytes : Nat
  part : Nat
  gen : Nat
  relgen : Nat
  state : HedgeState
  rect : BitVec 14
  job : Nat
  waiters : List HedgeWaiter
  row : Option (BitVec 14)
  col : Option (BitVec 14)
  rowDone : Bool
deriving DecidableEq, Repr

/-- Idle, all zero (spec/18 R366). -/
def Hedge.reset : Hedge := ⟨0, 0, 0, 0, .idle, 0, 0, [], none, none, false⟩

/-- The power states of a tile (spec/03 R49). -/
inductive PowerState where
  | run | idle | retain | off
deriving DecidableEq, Repr

/-- The debug states of a tile (spec/03 R49). -/
inductive DebugState where
  | closed | opened | halting
deriving DecidableEq, Repr

/-- An error-log entry (spec/11 R221). -/
structure ElogEntry where
  src : Nat
  unc : Bool
  paddr : Nat
  handle : BitVec 64
  tseq : Nat
  cyc : Nat
deriving DecidableEq, Repr

/-- A tile's power manager and sensors (spec/01 R17 to R20): the window's sum and count of samples, engine duty and clock in
sixteenths, dispatch hold, temperatures by sensor (0 base die, 1 to 12 DRAM layers). -/
structure Power where
  mode : PowerState
  result : Nat
  target : Option PowerState
  cap : Nat
  sum : Nat
  count : Nat
  duty : Nat
  clock : Nat
  clockHeat : Nat
  dispatchHold : Bool
  temps : FMap Nat
  heatDram : List Nat
  heatBase : Bool
  refresh2 : Bool
deriving DecidableEq, Repr

/-- Cap 760 W (spec/01 R17), no throttling; a site holds no power until its release, so the mode is Off (log 4). -/
def Power.reset : Power := ⟨.off, 0, none, 760, 0, 0, 16, 16, 16, false, [], [], false, false⟩

/-- A tile (spec/04 R54, spec/05, spec/10, spec/11, spec/18). corrAt: by source, CYC when a corrected error last raised MemoryError
(spec/11 R221); inboxDie and bindDie: the die of the record last taken from the inbox, and last bound (spec/05 R73, R78). -/
structure Tile where
  cyc : Nat
  ag : Nat
  pow : Power
  repauth : Nat
  gpol : BitVec 32
  slotsel : Nat
  recs : FMap BindRec
  jobcmdResult : Nat
  jobcmdJob : Nat
  supvec : BitVec 64
  supasid : BitVec 12
  supbedt : BitVec 64
  supTable : Option BedTable
  supValid : Bool
  esave : BitVec 64
  elogcnt : Nat
  elog : FMap ElogEntry
  dbgsel : Nat
  debug : DebugState
  opened : Bool
  bedTables : FMap BedTable
  cuts : FMap CutTable
  levels : FMap (List Level)
  released : List Nat
  hedges : FMap Hedge
  tasks : FMap Task
  holders : FMap Nat
  tseq : Nat
  ring : FMap RingEntry
  taskWaiters : List TaskWaiter
  taskFaults : List TaskReport
  readyCount : Nat
  inbox : List InboxRec
  inboxDie : Nat
  corrAt : FMap Nat
  bindDie : Nat
deriving DecidableEq, Repr

/-- Every register at the value its map gives; TSEQ starts at 1 (spec/10 R181), ESAVE at 0xB400_0000 of column 15 (spec/11
R213), GPOL at 64, 15, 10, 0 (spec/05 R74). -/
def Tile.reset : Tile :=
  ⟨0, 0, Power.reset, 0, 0x400F0A00, 0, [], 0, 0, 0, 0, 0, none, false, 0x8000000FB4000000, 0, [], 0, .closed, false, [], [],
    [], [], [], [], [], 1, [], [], [], 0, [], 3, [], 3⟩

/-! ### Host interface (spec/04) -/

/-- An event record before its ring position is known (spec/04 R63); time: the timer of its die when it was raised (log 37). -/
structure Event where
  code : Nat
  die : Nat
  ltile : Nat
  queue : Nat
  tag : BitVec 64
  detail : BitVec 64
  time : Nat
  port : Nat
  vec : Nat
deriving DecidableEq, Repr

/-- QSTAT.STATE (spec/04 R57). -/
inductive QueueState where
  | disabled | active | error
deriving DecidableEq, Repr

/-- A Marker that waits for the jobs that earlier entries of its queue launched (spec/04 R58). -/
structure Marker where
  addr : BitVec 64
  tag : BitVec 64
  evt : Bool
  jobs : List Nat
deriving DecidableEq, Repr

/-- A work queue (spec/04 R57 to R60). late: a doorbell written while EN was 0 was behind the one before it. held: a record
fetched from it waits for its lead gardener. curPrio and curWeight: PRIO and WEIGHT as they are in effect in this arbitration round; skip:
its lead gardener had no room for its record, so that arbitration skips it until that is accepted (spec/04 R57, spec/05 R73). -/
structure Queue where
  base : BitVec 64
  loc : Nat
  evport : Nat
  weight : Nat
  prio : Nat
  log2n : Nat
  asid : Nat
  vec : Nat
  en : Bool
  head : BitVec 32
  tail : BitVec 32
  state : QueueState
  errc : Nat
  held : Bool
  late : Bool
  markers : List Marker
  jobs : List Nat
  curPrio : Nat
  curWeight : Nat
  skip : Bool
deriving DecidableEq, Repr

/-- WEIGHT 1, LOG2N 4, all else 0 (spec/04 R57). -/
def Queue.reset : Queue := ⟨0, 0, 0, 1, 0, 4, 0, 0, false, 0, 0, .disabled, 0, false, false, [], [], 0, 1, false⟩

/-- A host port: its window and its event ring (spec/04 R55, R63). -/
structure Port where
  winEn : Bool
  winBase : Nat
  log2sz : Nat
  winFail : Bool
  evbase : BitVec 64
  even : Bool
  evlog2n : Nat
  evvec : Nat
  evhead : BitVec 32
  evtail : BitVec 32
  evlost : Nat
  lostMark : Bool
deriving DecidableEq, Repr

/-- Window closed, ring disabled; LOG2SZ is fixed by the I/O-die image, 42 here (log 4). -/
def Port.reset : Port := ⟨false, 0, 42, false, 0, false, 0, 0, 0, 0, 0, false⟩

/-- A router port's or scale-up port's status (spec/02 R24, R39). -/
structure PortStat where
  lstate : Nat
  retries : Nat
  crcerr : Nat
deriving DecidableEq, Repr

/-- An image as it lies in flash (spec/03 R42): bytes 0x0000 to 0x00FF of its header, the bytes from 0x1000 on, and its signatures. -/
structure Image where
  header : List Byte
  store : List Byte
  sigEd : Nat
  sigMl : Nat
deriving DecidableEq, Repr

/-- An I/O die: flash slots, apertures, peer table, waiting events, timer, scale-up ports, and by priority level the queue
whose turn it is with the entries fetched in that turn, the requests that have gone out to a peer, and by peer
the ports that its mask has lost to a Down link (spec/04 R61, spec/01 R10, spec/02 R39, R40,
spec/03 R41, spec/04 R63, R64). -/
structure Die where
  slotA : Option Image
  slotB : Option Image
  booted : Bool
  talkative : Bool
  off : Bool
  measure : BitVec 384
  apers : FMap (BitVec 128)
  peers : FMap (BitVec 128)
  masked : FMap (BitVec 128)
  evbuf : List Event
  timer : Nat
  scaleUp : FMap PortStat
  peerTimeout : Nat
  framed : List Nat
  turns : FMap (Nat × Nat)
deriving DecidableEq, Repr

/-- No image, empty tables, peer timeout 1 ms in steps of 100 microseconds (spec/02 R40). -/
def Die.reset : Die := ⟨none, none, false, false, false, 0, [], [], [], [], 0, [], 10, [], []⟩

/-! ### Mesh and sites (spec/02, spec/03) -/

/-- A flit of 64 bytes (spec/02 R23 to R33): the message it carries, source and destination (0 to 63 a logical tile, 64 to 67 an I/O
die), traffic class, on the escape channel, in phase up, parity, and the port by which it came, 4 the router's own. -/
structure Flit where
  id : Nat
  src : Nat
  dst : Nat
  cls : Nat
  escape : Bool
  up : Bool
  parity : Nat
  inp : Nat
deriving DecidableEq, Repr

/-- How a message crosses the mesh (spec/02 R23): the node that sends it, its flits, how many have entered the mesh and how many have left
it at the destination, and whether one was lost (spec/02 R38). -/
structure Transit where
  src : Nat
  flits : Nat
  sent : Nat
  got : Nat
  lost : Bool
deriving DecidableEq, Repr

/-- A router (spec/02 R23 to R35): port status, the two banks of remap entries (bank * 64 + tile) and route entries (bank *
128 + index), flits held, flits sent and not yet acknowledged by port, flits on the wire into each port. io: for an entry whose port is
the I/O-die link, the links meant, a mask by (bank * 128 + index) * 4 + 0 adaptive, 1 phase up, 2 phase down; ups: by bank, the mask of
ports whose hop is an up hop (spec/02 R30); slots: the flits that each virtual channel of an input port holds (spec/02 R25); rr: by
port, the class of 2 to 6 served last (spec/02 R27); routeErrs: routing-error events (spec/02 R28). Log 5. -/
structure Router where
  ports : FMap PortStat
  active : Nat
  epoch : Nat
  remap : FMap (BitVec 16)
  route : FMap (BitVec 16)
  io : FMap Nat
  ups : FMap Nat
  buf : List Flit
  retry : FMap (List Flit)
  wire : FMap (List Flit)
  slots : Nat
  rr : FMap Nat
  dropped : Nat
  routeErrs : Nat
deriving DecidableEq, Repr

/-- Every table and counter zero (spec/02 R24, R28, R32, R33); eight flits in each virtual channel (log 5). -/
def Router.reset : Router := ⟨[], 0, 0, [], [], [], [], [], [], [], 8, [], 0, 0⟩

/-- How far a site has come (spec/03 R41 to R44, R47, R52). -/
inductive SiteStatus where
  | unpowered | released | tested | live | failed | talkative | retired
deriving DecidableEq, Repr

/-- A site (spec/03 R41 to R44): its self-test report and measurement. -/
structure Site where
  status : SiteStatus
  report : Option SelfTest
  measure : BitVec 384
deriving DecidableEq, Repr

/-- Unpowered. -/
def Site.reset : Site := ⟨.unpowered, none, 0⟩

/-- A retirement-log entry (spec/03 R47). -/
structure LogEntry where
  seq : Nat
  kind : Nat
  site : Nat
  col : Nat
  lane : Nat
  cause : Nat
  bootno : Nat
  count : Nat
  crc : Nat
  commit : Nat
deriving DecidableEq, Repr

/-- The retirement log's two halves (spec/03 R47), each the entries written into it; an empty one is blank. -/
structure RetireLog where
  half0 : List LogEntry
  half1 : List LogEntry
  cur : Nat
deriving DecidableEq, Repr

/-- A table update under way (spec/02 R34): its epoch and remap table, the links by router on which every gardener computes its routes, the
routers that take part, that have written their tables, whose acknowledgements have arrived, and that have committed. -/
structure TableUpdate where
  epoch : Nat
  remap : FMap (BitVec 16)
  links : FMap (List (Nat × Nat))
  nodes : List Nat
  received : List Nat
  acked : List Nat
  committing : Bool
  committed : List Nat
deriving DecidableEq, Repr

/-- A planned retirement under way (spec/02 R37): tile, old and new site, copied yet. -/
structure Retirement where
  tile : Nat
  oldSite : Nat
  newSite : Nat
  grace : Nat
  copied : Bool
deriving DecidableEq, Repr

/-- The head gardener, its fuses and its registers (spec/01 R19, spec/02 R31, R34, R37, R38, spec/03 R41 to R50). nonces: those
issued, with the time of issue; tokenUntil: when the token's duration ends; remap: the binding it last decided, and stale: whether
the tables must be updated once more; waits: the columns that wait after a LossNotice, with the lost tile and the messages' number
at the notice; flow: the cold plates are filled and at flow (spec/01 R22), which no step changes (log 26). -/
structure Head where
  serial : BitVec 128
  phase : Nat
  live : Nat
  diefail : BitVec 4
  grid7 : Bool
  err : Nat
  epoch : Nat
  production : Bool
  secver : Nat
  revoked : BitVec 8
  edKeys : FMap (BitVec 384)
  mlKeys : FMap (BitVec 384)
  debugKeys : BitVec 384 × BitVec 384
  tileImage : Option Image
  log : RetireLog
  bootno : Nat
  nonces : List (BitVec 256 × Nat)
  usedNonces : List (BitVec 256)
  token : Option Token
  tokenUntil : Nat
  effCap : Nat
  imposed : Bool
  inSum : Nat
  inCount : Nat
  update : Option TableUpdate
  retire : Option Retirement
  lost : List Nat
  waits : List (Nat × Nat × Nat)
  powered : Bool
  flow : Bool
  remap : FMap (BitVec 16)
  stale : Bool
deriving DecidableEq, Repr

/-- BOOTSTS zero (spec/03 R45), Development (spec/03 R49), a blank log (spec/03 R47), no budget imposed (spec/01 R19), the cold
plates at flow (log 26). -/
def Head.reset : Head where
  serial := 0
  phase := 0
  live := 0
  diefail := 0
  grid7 := false
  err := 0
  epoch := 0
  production := false
  secver := 0
  revoked := 0
  edKeys := []
  mlKeys := []
  debugKeys := (0, 0)
  tileImage := none
  log := ⟨[], [], 0⟩
  bootno := 0
  nonces := []
  usedNonces := []
  token := none
  tokenUntil := 0
  effCap := 760
  imposed := false
  inSum := 0
  inCount := 0
  update := none
  retire := none
  lost := []
  waits := []
  powered := false
  flow := true
  remap := []
  stale := false

/-! ### Messages and items (spec/06 to spec/10, spec/18) -/

/-- Who receives the data of a read request: a register of a strand, a step of a cutting replay, a piece of a VTLD, a word of
a REPLSYNC, or half of a BEDW image. -/
inductive ReadFor where
  | reg (handle : BitVec 64) (reg tag : Nat) (size : Nat) (signed : Bool) (acq : Option (BitVec 4))
  | replay (handle : BitVec 64) (size : Nat) (signed : Bool)
  | vtld (core : Nat) (id piece : Nat)
  | replsync (id : Nat) (item : Nat) (asid : BitVec 12) (va : BitVec 64)
  | bedw (id half : Nat)
deriving DecidableEq, Repr

/-- An item (spec/08 R145): its strand and job, class, the home it goes to (a column key, or none for host and peer with the
scope that covers it), and whether it failed and is not yet reported (spec/16 R331). -/
structure Item where
  handle : BitVec 64
  job : Nat
  cls : ItemClass
  home : Option Nat
  far : Nat
  failed : Bool
  group : Nat
deriving DecidableEq, Repr

/-- What a posted store carries (spec/16 R324, R325, spec/05 R76): a store of bytes, or a go-word increment. -/
inductive PostedOp where
  | bytes (data : List Byte)
  | go
deriving DecidableEq, Repr

/-- The answer to an update pair (spec/09 R164, R165). -/
inductive PairAnswer where
  | accepted | refused | failed
deriving DecidableEq, Repr

/-- A pair in an update flit (spec/09 R163). -/
structure FlitPair where
  tag : Nat
  hoff : Nat
  lmask : Nat
  value : Word
  refused : Nat
deriving DecidableEq, Repr

/-- A message in flight. -/
inductive Msg where
  | fill (handle : BitVec 64) (reg tag : Nat) (value : Nat) (acq : Option (BitVec 4)) (loss : Option Loss)
  | read (dst : ReadFor) (asid : BitVec 12) (va : BitVec 64) (len : Nat) (tgt : Target) (item : Nat)
  | readDone (dst : ReadFor) (va : BitVec 64) (value : Nat) (fail : Option (Nat × Word)) (item : Nat)
  | posted (op : PostedOp) (asid : BitVec 12) (va : BitVec 64) (tgt : Target) (item : Nat)
  | postedAck (item : Nat) (ok : Bool)
  | instrLine (core : Nat) (asid : BitVec 12) (line : Nat) (tgt : Target)
  | migrate (handle : BitVec 64) (dest : Nat) (payload : List Byte)
  | accepted (handle : BitVec 64) (sender : Nat) (img : Nat)
  | refusal (handle : BitVec 64) (count : Nat) (image : List Byte)
  | recall (handle : BitVec 64) (core : Nat)
  | migError (handle : BitVec 64)
  | joinIncr (handle : BitVec 64) (asid : BitVec 12) (va : BitVec 64) (tgt : Target)
  | joinDecr (job : Nat) (asid : BitVec 12) (va : BitVec 64) (tgt : Target) (item : Nat)
  | joinAck (handle : BitVec 64) (cause g4 : Nat)
  | joinReg (handle : BitVec 64) (reg tag : Nat) (asid : BitVec 12) (va : BitVec 64) (tgt : Target) (backoff : Bool)
  | update (dcol scol : Nat) (core : Nat) (asid : BitVec 12) (bed op etype : Nat) (pairs : List FlitPair)
  | updateAns (core tag : Nat) (ans : PairAnswer)
  | flush (handle : BitVec 64) (id quad : Nat) (asid : BitVec 12) (bed : Nat)
  | flushAck (handle : BitVec 64) (id : Nat) (ok : Bool)
  | taskPost (tile : Nat) (isCopy : Bool) (handle : BitVec 64) (reg tag : Nat) (job flat col : Nat) (asid : BitVec 12)
      (va : BitVec 64) (scales : Word) (item : Nat) (backoff : Bool) (ahead : FMap Nat)
  | taskw (tile : Nat) (handle : BitVec 64) (reg tag : Nat) (tseq : Nat)
  | hedgeBytes (tile h n : Nat)
  | hedgeRow (tile h : Nat) (rect : BitVec 14)
  | hedgeCol (tile h : Nat) (rect : BitVec 14)
  | hedgeRel (tile h : Nat) (rect : BitVec 14)
  | rakeFetch (col item : Nat) (asid : BitVec 12) (line : Nat) (tgt : Target) (pf : Bool)
  | rakeData (col item : Nat) (asid : BitVec 12) (line : Nat) (data : Option Nat)
  | launch (handle : BitVec 64) (reg tag : Nat) (q : Nat) (asid : BitVec 12) (usertag : Word) (lrlen : Nat) (evt : Bool)
      (tgt : Target)
  | levels (handle : BitVec 64) (reg tag n : Nat)
  | tlbi (handle : BitVec 64) (reg tag : Nat) (col op : Nat) (asid : BitVec 12) (cvapg : Nat)
  | tlbiAck (handle : BitVec 64) (reg tag : Nat) (bad : Nat)
  | bedw (tile : Nat) (handle : BitVec 64) (reg tag : Nat) (sup : Bool) (asid : BitVec 12) (index : Nat)
      (half0 half1 : Option (Option Nat))
  | cacheCtl (op : Nat) (handle : BitVec 64) (reg tag : Nat) (asid : BitVec 12) (tgt : Option Target) (len : Word)
  | releaseNote (tile job : Nat)
  | suspendNote (tile job : Nat)
  | resumeNote (tile job : Nat)
  | tileReport (tile job : Nat)
  | tableReq (tile : Nat) (kind : Nat) (job : Nat)
  | tableAns (tile : Nat) (kind : Nat) (job : Nat)
  | halt (core : Nat) (resume : Bool)
  | lossNote (tile lost : Nat)
  | countReport (job created ended : Nat)
  | hostFlush (port job : Nat)
  | storeFlush (port item : Nat)
  /-- An answer that comes after its wait: it will be discarded and counted at this dock (spec/02 R38). -/
  | lateAns (key : Nat)
  /-- A piece of a host-window write on its way to its home, its address and length: the 8-byte units of it that are still to be written (spec/04 R56). -/
  | winWrite (port pa len : Nat) (left : List (Nat × List Byte))
  /-- A piece of a host-window read: its read's number, its address and length, and the 8-byte units still to be read (spec/04 R56). -/
  | winRead (id pa len : Nat) (left : List (Nat × Nat))
  /-- A launch record on its way from a front end to its lead gardener (spec/05 R73). -/
  | launchRec (lead : Nat) (r : InboxRec)
  /-- Bytes of a copy's write on their way to another node, on class 6 (spec/10 R196). -/
  | copyData (node : Nat)
  /-- The three messages of a table update: the new tables to a router's gardener, its acknowledgement, Commit (spec/02 R34). -/
  | tableUpdate (router : Nat)
  | tableAck (router : Nat)
  | tableCommit (router : Nat)
deriving DecidableEq, Repr

/-- An answer the outside receives. -/
inductive Reply where
  | value (v : Nat)
  | bytes (b : List Byte)
  | status (name : String)
  /-- No spare lane remains in a column (spec/03 R48). -/
  | noSpare (tile col : Nat)
  | abort
  | unsupported
  | msix (port vec : Nat)
  /-- A frame to a peer (spec/02 R39, R40): die, port, MAC address, the request's number, address space, address, length, data. -/
  | frame (die port mac msg asid va len : Nat) (data : List Byte)
deriving DecidableEq, Repr

/-- A host-window read under way (spec/04 R56): its port, its address and length, the bytes read so far with their addresses, the pieces not
yet read, and whether one met an uncorrectable error. -/
structure WinRead where
  port : Nat
  pa : Nat
  len : Nat
  got : List (Nat × List Byte)
  left : Nat
  failed : Bool
deriving DecidableEq, Repr

/-- Whose move is next: a slot's turn to issue, or a step of another agent (log 1). -/
inductive Move where
  | issue (tile core slot : Nat)
  | agent (e : Instr)
deriving DecidableEq, Repr

/-! ### The panel -/

/-- The state of the panel. transit: by message, its way through the mesh; a message without an entry stays within its node. acks: by tag, the answers a TLBI still awaits and the columns not reached (spec/18 R382). -/
structure State where
  agenda : List Move
  cur : Option (BitVec 64)
  fresh : Nat
  strands : FMap Strand
  cores : FMap Core
  cols : FMap Column
  quads : FMap Quad
  engines : FMap Engine
  tiles : FMap Tile
  jobs : FMap Job
  queues : FMap Queue
  ports : FMap Port
  dies : FMap Die
  routers : FMap Router
  sites : FMap Site
  head : Head
  mem : Memory
  sram : Memory
  hostMem : Memory
  badLines : List Nat
  msgs : FMap Msg
  transit : FMap Transit
  items : FMap Item
  acks : FMap (Nat × Nat)
  winReads : FMap WinRead
  out : List Reply
deriving DecidableEq, Repr

/-- Why a step can stop with a fault. The spec describes an outcome for every step and every encoding (spec/14 R279), so no
meaning raises one; the name is kept for a panel whose state holds a strand twice. Safe: stopping proves nothing false. -/
inductive Fault where
  /-- Raised by nothing in the model: the spec gives every step an outcome. Safe. -/
  | unreachable
deriving DecidableEq, Repr

/-- Why a step can be refused. -/
inductive Refusal where
  /-- Raised by an arm of exec whose instruction has no meaning yet. Safe: the run stops. -/
  | notModelled (mnemonic : String)
deriving DecidableEq, Repr

/-- The panel right after reset, before 800 V DC is applied (spec/03 R41, R45): every unit at its reset value. -/
def State.reset : State where
  agenda := []
  cur := none
  fresh := 0
  strands := []
  cores := []
  cols := []
  quads := []
  engines := []
  tiles := []
  jobs := []
  queues := []
  ports := []
  dies := []
  routers := []
  sites := []
  head := Head.reset
  mem := []
  sram := []
  hostMem := []
  badLines := []
  msgs := []
  transit := []
  items := []
  acks := []
  winReads := []
  out := []

end Sys2Proof.Machine
end

