-- ==== Sys2Proof/Machine/Ops.lean ====
section
/-! DEFINITION. The named operations on the state: units by key, registers and their states (spec/06 R92, spec/13 R250 to
R252), messages, items, acquires (spec/08 R149), events and the error log (spec/04 R63, spec/11 R221), strands' creation and
end. The taking of a trap and the return from one stand in Machine/Strands.lean. -/

namespace Sys2Proof.Machine

/-- What a meaning answers. -/
abbrev Out := Host.Outcome State Fault Refusal

/-! ### Keys and units -/

/-- The key of a core: tile and logical core number (spec/01 R15). -/
def coreKey (tile core : Nat) : Nat := tile * 768 + core
/-- The key of a column, which is its home code (spec/06 R91). -/
def colKey (tile col : Nat) : Nat := tile * 16 + col
/-- The key of a quadrant or an engine. -/
def quadKey (tile q : Nat) : Nat := tile * 4 + q
/-- The column of a logical core number (spec/01 R15). -/
def coreCol (core : Nat) : Nat := core / 48
/-- The quadrant key of a column key (spec/01 R13). -/
def quadOfCol (key : Nat) : Nat := quadKey (key / 16) (key % 16 / 4)

def State.strand? (s : State) (h : BitVec 64) : Option Strand := FMap.get? s.strands h.toNat
def State.putStrand (s : State) (st : Strand) : State :=
  { s with strands := FMap.set s.strands st.handle.toNat st }
def State.eraseStrand (s : State) (h : BitVec 64) : State := { s with strands := FMap.erase s.strands h.toNat }
def State.core (s : State) (k : Nat) : Core := FMap.getD s.cores k Core.reset
def State.putCore (s : State) (k : Nat) (c : Core) : State := { s with cores := FMap.set s.cores k c }
def State.col (s : State) (k : Nat) : Column := FMap.getD s.cols k Column.reset
def State.putCol (s : State) (k : Nat) (c : Column) : State := { s with cols := FMap.set s.cols k c }
def State.quad (s : State) (k : Nat) : Quad := FMap.getD s.quads k Quad.reset
def State.putQuad (s : State) (k : Nat) (q : Quad) : State := { s with quads := FMap.set s.quads k q }
def State.engine (s : State) (k : Nat) : Engine := FMap.getD s.engines k Engine.reset
def State.putEngine (s : State) (k : Nat) (e : Engine) : State := { s with engines := FMap.set s.engines k e }
def State.tile (s : State) (t : Nat) : Tile := FMap.getD s.tiles t Tile.reset
def State.putTile (s : State) (t : Nat) (x : Tile) : State := { s with tiles := FMap.set s.tiles t x }
def State.job? (s : State) (j : Nat) : Option Job := FMap.get? s.jobs j
def State.putJob (s : State) (j : Job) : State := { s with jobs := FMap.set s.jobs j.handle j }
def State.queue (s : State) (q : Nat) : Queue := FMap.getD s.queues q Queue.reset
def State.putQueue (s : State) (q : Nat) (x : Queue) : State := { s with queues := FMap.set s.queues q x }
def State.port (s : State) (p : Nat) : Port := FMap.getD s.ports p Port.reset
def State.putPort (s : State) (p : Nat) (x : Port) : State := { s with ports := FMap.set s.ports p x }
def State.die (s : State) (d : Nat) : Die := FMap.getD s.dies d Die.reset
def State.putDie (s : State) (d : Nat) (x : Die) : State := { s with dies := FMap.set s.dies d x }
def State.router (s : State) (r : Nat) : Router := FMap.getD s.routers r Router.reset
def State.putRouter (s : State) (r : Nat) (x : Router) : State := { s with routers := FMap.set s.routers r x }
def State.site (s : State) (k : Nat) : Site := FMap.getD s.sites k Site.reset
def State.putSite (s : State) (k : Nat) (x : Site) : State := { s with sites := FMap.set s.sites k x }
def State.hedge (s : State) (t h : Nat) : Hedge := FMap.getD (s.tile t).hedges h Hedge.reset
def State.putHedge (s : State) (t h : Nat) (x : Hedge) : State :=
  let tl := s.tile t
  s.putTile t { tl with hedges := FMap.set tl.hedges h x }

/-- An answer given to the outside. -/
def State.reply (s : State) (r : Reply) : State := { s with out := s.out ++ [r] }

/-- The next identifier. -/
def State.bump (s : State) : State := { s with fresh := s.fresh + 1 }

/-- Send a message that does not leave its node: it is in flight until a move of the agenda delivers it (spec/06 R412, log 5). -/
def State.send (s : State) (m : Msg) : State := { s with msgs := FMap.set s.msgs s.fresh m, fresh := s.fresh + 1 }
/-- A message is delivered, or gone. -/
def State.unsend (s : State) (id : Nat) : State :=
  { s with msgs := FMap.erase s.msgs id, transit := FMap.erase s.transit id }
/-- Have all flits of a message come out of the mesh (spec/02 R23)? -/
def State.landed (s : State) (id : Nat) : Bool :=
  match FMap.get? s.transit id with
  | none => true
  | some t => !t.lost && decide (t.flits ≤ t.got)
/-- The message that a step may deliver. -/
def State.msg? (s : State) (id : Nat) : Option Msg := if s.landed id then FMap.get? s.msgs id else none

/-! ### Registers -/

/-- The control part of register code r: 0 to 15 for g, 16 to 23 for w (spec/06 R91). -/
def Strand.rc (st : Strand) (r : Nat) : RegCtl := (st.ctl.toList[r]?).getD RegCtl.reset
def Strand.setRc (st : Strand) (r : Nat) (c : RegCtl) : Strand := { st with ctl := st.ctl.setIfInBounds r c }
/-- The value slot of a g register. -/
def Strand.gv (st : Strand) (r : GReg) : Word := st.g[r.toNat]
/-- The value slot of a w register. -/
def Strand.wv (st : Strand) (r : WReg) : Wide := st.w[r.toNat]
/-- An x register, which is always Full (spec/13 R249). -/
def Strand.xv (st : Strand) (r : Nat) : Word := (st.x.toList[r]?).getD 0
def Strand.setX (st : Strand) (r : Nat) (v : Word) : Strand :=
  { st with x := st.x.setIfInBounds r v, xpar := st.xpar &&& ~~~(1#8 <<< r) }
/-- The code of a w register. -/
def wcode (r : WReg) : Nat := 16 + r.toNat

/-- A written register is Full, whatever it was; its attachment and its owed fills stay (spec/13 R250, R252). -/
def RegCtl.full (c : RegCtl) : RegCtl := { c with st := .full, acq := none, loss := none, par := false }
/-- Write a g register. -/
def Strand.setG (st : Strand) (r : GReg) (v : Word) : Strand :=
  { st with g := st.g.setIfInBounds r.toNat v, ctl := st.ctl.setIfInBounds r.toNat (st.rc r.toNat).full }
/-- Write a w register. -/
def Strand.setW (st : Strand) (r : WReg) (v : Wide) : Strand :=
  { st with w := st.w.setIfInBounds r.toNat v, ctl := st.ctl.setIfInBounds (wcode r) (st.rc (wcode r)).full }
/-- Write the register of a code: 64 bits into g, 256 into w. -/
def Strand.setCode (st : Strand) (r v : Nat) : Strand :=
  if r < 16 then st.setG (.ofNat 4 r) (.ofNat 64 v) else st.setW (.ofNat 3 (r - 16)) (.ofNat 256 v)
/-- The value slot of a code as a number. -/
def Strand.codeVal (st : Strand) (r : Nat) : Nat :=
  if r < 16 then (st.gv (.ofNat 4 r)).toNat else (st.wv (.ofNat 3 (r - 16))).toNat

/-- The cutting attachment of a register, if it has one (spec/06 R91). -/
def Strand.attached (st : Strand) (r : Nat) : Option (BitVec 8) :=
  (st.cmap.toList.find? (fun e => e.reg == r)).map (·.recipe)
/-- Empty, or Cut where the register carries an attachment (spec/13 R251). -/
def Strand.vacate (st : Strand) (r : Nat) : Strand :=
  let c := st.rc r
  st.setRc r { c with st := (if (st.attached r).isSome then .cut else .empty), acq := none, loss := none }
/-- Full registers with an attachment, and Empty ones, become Cut (spec/06 R104 step 2, R110, spec/15 R313). -/
def Strand.dropReg (st : Strand) (r : Nat) : Strand :=
  let c := st.rc r
  if (st.attached r).isSome && (c.st == .full || c.st == .empty) then
    st.setRc r { c with st := .cut, acq := none, loss := none }
  else st
/-- Drop every register that carries an attachment. -/
def Strand.dropAll (st : Strand) : Strand := (List.range 24).foldl Strand.dropReg st

/-- Set a register Awaiting one fill that answers the instruction of this tag (spec/13 R252). -/
def Strand.await (st : Strand) (r tag : Nat) : Strand :=
  let c := st.rc r
  st.setRc r { c with st := .awaiting, owed := c.owed + 1, tag := tag, acq := none, loss := none }
/-- A fill of a register: it counts as arrived, and completes the register only if it answers the most recent owing
instruction and the register still awaits it (spec/06 R92, R93, spec/13 R252). -/
def Strand.takeFill (st : Strand) (r tag v : Nat) (acq : Option (BitVec 4)) (loss : Option Loss) : Strand :=
  let c := st.rc r
  let st1 := st.setRc r { c with owed := c.owed - 1 }
  if c.st == .awaiting && c.tag == tag then
    let st2 := st1.setCode r v
    let c2 := st2.rc r
    st2.setRc r { c2 with acq := acq, loss := loss }
  else st1
/-- Is nothing owed to any register (spec/06 R104 step 1)? -/
def Strand.noneOwed (st : Strand) : Bool := st.ctl.toList.all (fun c => c.owed == 0)

/-! ### SS (spec/13 R258) -/

/-- Bits lo to lo + len - 1 of a dword replaced. -/
def setBits (v : Word) (lo len x : Nat) : Word :=
  .ofNat 64 (v.toNat - bits v.toNat lo len * 2 ^ lo + x % 2 ^ len * 2 ^ lo)
def Strand.sg (st : Strand) : Nat := bits st.ss.toNat 32 16
def Strand.setSg (st : Strand) (v : Nat) : Strand := { st with ss := setBits st.ss 32 16 v }
def Strand.sup (st : Strand) : Bool := bits st.ss.toNat 18 1 == 1
def Strand.pp (st : Strand) : Bool := bits st.ss.toNat 8 1 == 1
def Strand.pfa (st : Strand) : Nat := bits st.ss.toNat 9 4
def Strand.pfb (st : Strand) : Nat := bits st.ss.toNat 13 4
/-- The rounding mode (spec/12 R237). -/
def Strand.rm (st : Strand) : Nat := bits st.ss.toNat 0 3
/-- OR flags (NV DZ OF UF NX as bits 7 to 3) into SS (spec/13 R259). -/
def Strand.orFlags (st : Strand) (fl : Nat) : Strand := { st with ss := st.ss ||| .ofNat 64 (fl * 8) }
/-- The pending prefix is clear once its governed instruction completes (spec/13 R266). -/
def Strand.clearPrefix (st : Strand) : Strand := { st with ss := setBits st.ss 8 9 0 }
/-- What a write of RM and the flags stores: RM 5 to 7 store 0 (spec/13 R258). -/
def rmFlags (v : Nat) : Nat := (if v % 8 ≥ 5 then 0 else v % 8) + bits v 3 5 * 8
/-- SWR of SS by a strand: RM and the flags alone (spec/13 R259). -/
def Strand.writeSs (st : Strand) (v : Word) : Strand := { st with ss := setBits st.ss 0 8 (rmFlags v.toNat) }
/-- The handle form of SWR on SS stores PP, PFA and PFB as well (spec/13 R259). -/
def Strand.writeSsHandle (st : Strand) (v : Word) : Strand :=
  { st with ss := setBits (setBits st.ss 0 8 (rmFlags v.toNat)) 8 9 (bits v.toNat 8 9) }

/-! ### BOUNCE (spec/06 R108) -/

def Strand.pinLeft (st : Strand) : Nat := bits st.bounce.toNat 54 9
def Strand.run (st : Strand) : Nat := bits st.bounce.toNat 51 3
def Strand.win (st : Strand) : Nat := bits st.bounce.toNat 44 7
def Strand.homeA (st : Strand) : Nat := bits st.bounce.toNat 34 10
def Strand.homeB (st : Strand) : Nat := bits st.bounce.toNat 24 10
/-- BOUNCE from its fields; PIN is 1 when PINLEFT is nonzero. -/
def bounceOf (pinLeft run win homeA homeB : Nat) : BitVec 64 :=
  .ofNat 64 ((if pinLeft = 0 then 0 else 2 ^ 63) + pinLeft * 2 ^ 54 + run * 2 ^ 51 + win * 2 ^ 44 + homeA * 2 ^ 34
    + homeB * 2 ^ 24)
def Strand.setPinLeft (st : Strand) (n : Nat) : Strand :=
  { st with bounce := bounceOf n st.run st.win st.homeA st.homeB }
/-- Pinned: loads and stores away from home do not move the strand. -/
def Strand.pinned (st : Strand) : Bool := st.pinLeft != 0
/-- The first line of R109: an issue within a run is counted, up to 127. -/
def Strand.countWin (st : Strand) : Strand :=
  if st.run = 0 then st else { st with bounce := bounceOf st.pinLeft st.run (min (st.win + 1) 127) st.homeA st.homeB }

/-! ### Where a strand is -/

/-- DBGCTL.HALTED of a core (spec/11 R228). -/
def Core.halted (c : Core) : Bool := bits c.dbgctl.toNat 63 1 == 1

/-- Is the strand in a slot (spec/06 R101)? -/
def Strand.inSlot (st : Strand) : Bool := st.status == .ready || st.status == .parked || st.status == .halted
/-- The strand's current column. -/
def Strand.colKey (st : Strand) : Nat := Machine.colKey st.loc.tile st.loc.col
/-- The strand's core. -/
def Strand.coreKey (st : Strand) : Nat := Machine.coreKey st.loc.tile st.loc.core
/-- An urgent strand: a handler, or one that is urgent without being a handler (spec/06 R96). -/
def Strand.urgent (st : Strand) : Bool := st.hkind != .none || st.asUrgent
/-- The strand in a slot. -/
def State.slotStrand (s : State) (tile core slot : Nat) : Option Strand :=
  (s.strands.find? (fun kv => kv.2.inSlot && kv.2.loc.tile == tile && kv.2.loc.core == core && kv.2.loc.slot == slot)).map
    (·.2)
/-- Free non-urgent slots of a core: numbers 0 to 14 (spec/06 R96). -/
def State.freeSlots (s : State) (tile core : Nat) : List Nat :=
  (List.range 15).filter (fun n => (s.slotStrand tile core n).isNone)
/-- The strands whose images a column holds. -/
def State.colStrands (s : State) (key : Nat) : List Strand :=
  (s.strands.map (·.2)).filter (fun st => st.colKey == key)
/-- The images a column still reserves for strands accepted elsewhere whose acceptance has not come back (spec/06 R99, R104). -/
def State.imagesAway (s : State) (key : Nat) : List Nat :=
  s.msgs.filterMap (fun kv => match kv.2 with | .accepted _ k img => if k = key then some img else none | _ => none)
/-- Images in use in a column, a SPAWN's reservations counted (spec/06 R99, spec/18 R372). -/
def State.imagesUsed (s : State) (key : Nat) : Nat :=
  let l := s.colStrands key
  l.length + (l.filter (fun st => match st.phase with | .spawn _ _ _ _ _ => true | _ => false)).length
    + (s.imagesAway key).length
/-- The lowest image index of a column that no strand holds (spec/06 R99). -/
def State.freeImg (s : State) (key : Nat) : Nat :=
  let used := (s.colStrands key).map (·.img) ++ s.imagesAway key
  ((List.range (used.length + 1)).find? (fun i => !used.contains i)).getD 0
/-- The panel physical address of an image (spec/06 R99). -/
def imageAddr (key img : Nat) : Nat := key * 2 ^ 32 + 0xB8000000 + 512 * img
/-- The first line of an image with an uncorrectable error, by its panel physical address (spec/11 R220, source 8). -/
def State.badImage (s : State) (key img : Nat) : Option Nat :=
  ((List.range 8).find? (fun i => s.badLines.contains (imageAddr key img / 64 + i))).map (fun i => imageAddr key img + 64 * i)
/-- An image is written, which clears the errors of its lines (spec/11 R222). -/
def State.writeImg (s : State) (key img : Nat) : State :=
  if (s.badImage key img).isNone then s
  else { s with badLines := s.badLines.filter (fun l => !(decide (imageAddr key img / 64 ≤ l) && decide (l < imageAddr key img / 64 + 8))) }
/-- An image of a column is taken, and written (spec/06 R99). -/
def State.takeImg (s0 : State) (key img : Nat) : State :=
  let s := s0.writeImg key img
  let c := s.col key
  s.putCol key { c with imgs := max c.imgs (img + 1) }
/-- The error that the grant of a slot meets in a strand's image: its place, zero where it has none (spec/11 R220, source 8). -/
def State.imageErr (s : State) (st : Strand) : Option Nat := if st.imgBad then some 0 else s.badImage st.colKey st.img
/-- Has a column an image that is neither in use nor reserved with an arrival entry (spec/06 R99, R106)? -/
def State.imageFree (s : State) (key : Nat) : Bool :=
  decide (s.imagesUsed key + ((s.col key).refusals.filter (fun e => e.held)).length < 262144)
/-- Is the dock's image cache holding more than 1,536 images in use (spec/06 R110)? -/
def State.imageCacheFull (s : State) (key : Nat) : Bool := decide (1536 < s.imagesUsed key)
/-- A strand's image goes to the context store: attached registers are dropped under pressure (spec/06 R110). -/
def State.storeImage (s : State) (st : Strand) : Strand := if s.imageCacheFull st.colKey then st.dropAll else st

/-! ### Items (spec/08 R145, R146, spec/16 R331) -/

/-- Start an item of a strand; its number is the state's fresh counter. -/
def State.addItem (s : State) (it : Item) : State := { s with items := FMap.set s.items s.fresh it, fresh := s.fresh + 1 }
/-- The strand's items not yet done. -/
def State.openItems (s : State) (h : BitVec 64) : List Item :=
  (s.items.map (·.2)).filter (fun it => it.handle == h && !it.failed)
/-- The job records its first nonzero status (spec/05 R85). -/
def State.recordStatus (s : State) (job code : Nat) : State :=
  match s.job? job with
  | some j => if j.status = 0 then s.putJob { j with status := code } else s
  | none => s
/-- An item is done. -/
def State.itemDone (s : State) (id : Nat) : State := { s with items := FMap.erase s.items id }
/-- An item failed: it counts as done, it stays to be reported, and its job's status becomes 5 unless the failure is one of a
task that records otherwise (spec/16 R331, spec/11 R212). -/
def State.itemFailed (s : State) (id : Nat) (status5 : Bool) : State :=
  match FMap.get? s.items id with
  | some it =>
    let s1 := { s with items := FMap.set s.items id { it with failed := true } }
    if status5 then s1.recordStatus it.job 5 else s1
  | none => s

/-- Is tile number t in the rectangle with this origin and size? -/
def inRect (t row0 col0 rows cols : Nat) : Bool :=
  decide (row0 ≤ t / 8) && decide (t / 8 < row0 + rows) && decide (col0 ≤ t % 8) && decide (t % 8 < col0 + cols)
/-- Is a tile in the plot of a job? -/
def State.inPlot (s : State) (job t : Nat) : Bool :=
  match s.job? job with
  | some j => inRect t j.lrec.prow j.lrec.pcol j.lrec.prows j.lrec.pcols
  | none => false
/-- The tiles of a rectangle, ascending. -/
def rectTiles (row0 col0 rows cols : Nat) : List Nat :=
  ((List.range rows).map (fun r => (List.range cols).map (fun c => (row0 + r) * 8 + col0 + c))).flatten

/-- Does a scope, taken from a column, cover a home (spec/08 R140)? far is 8 for host and 9 for peer items. -/
def State.covers (s : State) (scope here job : Nat) (home : Option Nat) (far : Nat) : Bool :=
  match home with
  | none => decide (far ≤ scope)
  | some k =>
    match scope with
    | 0 => false
    | 1 => k == here
    | 2 => k == here
    | 3 => k / 4 == here / 4
    | 4 => k / 16 == here / 16
    | 5 => s.inPlot job (k / 16)
    | 6 => s.inPlot job (k / 16)
    | _ => true

/-! ### The image header and the migration message (spec/06 R91, R105) -/

/-- The code of a register state (spec/06 R92). -/
def RegState.code : RegState → Nat
  | .full => 0 | .empty => 1 | .cut => 2 | .awaiting => 3
/-- The state codes of registers lo to lo + n - 1, two bits each (spec/06 R91). -/
def Strand.codes (st : Strand) (lo n : Nat) : Nat := ((List.range n).map (fun k => (st.rc (lo + k)).st.code * 4 ^ k)).sum
/-- The header of a strand's image, and the header flit of its migration message. -/
def Strand.header (st : Strand) : Nat :=
  st.pc.toNat / 2 * 2 ^ 457 + st.ss.toNat * 2 ^ 393 + st.codes 0 16 * 2 ^ 361 + st.codes 16 8 * 2 ^ 345 + st.job * 2 ^ 329
  + st.asid.toNat * 2 ^ 317 + st.flat * 2 ^ 277 + st.handle.toNat % 2 ^ 48 * 2 ^ 229
  + ((List.range 8).map (fun k => if st.xv k = 0 then 0 else 2 ^ k)).sum * 2 ^ 221
  + st.pcause * 2 ^ 217 + st.preg * 2 ^ 212 + st.dest * 2 ^ 202 + st.bounce.toNat / 2 ^ 24 * 2 ^ 162 + st.joinw.toNat / 8 % 2 ^ 53 * 2 ^ 109
  + ((List.range 8).map (fun i => match st.cmap.toList[i]? with
      | some e => (e.reg * 256 + e.recipe.toNat) * 2 ^ (13 * i)
      | none => 0)).sum * 2 ^ 5
/-- Does a migration message carry a register: it is Full and has no attachment (spec/06 R105)? -/
def Strand.carried (st : Strand) (r : Nat) : Bool := (st.rc r).st == .full && (st.attached r).isNone
/-- Bytes padded with zeros to a multiple of 64. -/
def padTo64 (l : List Byte) : List Byte := l ++ List.replicate ((64 - l.length % 64) % 64) 0
/-- The migration message of a strand (spec/06 R105). -/
def Strand.message (st : Strand) : List Byte :=
  leBytes st.header 64 ++ padTo64 (
    (((List.range 16).filter st.carried).map (fun r => leBytes (st.codeVal r) 8)).flatten
    ++ (((List.range 8).filter (fun k => st.xv k != 0)).map (fun k => leBytes (st.xv k).toNat 8)).flatten
    ++ ((((List.range 8).map (16 + ·)).filter st.carried).map (fun r => leBytes (st.codeVal r) 32)).flatten)
/-- The state of a register code (spec/06 R92). -/
def regStateOf (code : Nat) : RegState := if code = 0 then .full else if code = 1 then .empty else if code = 2 then .cut else .awaiting
/-- Take the value of one register off the front of a message's body. -/
def Strand.takeValue (p : Strand × List Byte) (r : Nat) : Strand × List Byte :=
  let n := if r < 16 then 8 else 32
  let v := leValue (p.2.take n)
  if p.1.carried r then
    (if r < 16 then { p.1 with g := p.1.g.setIfInBounds r (.ofNat 64 v) } else { p.1 with w := p.1.w.setIfInBounds (r - 16) (.ofNat 256 v) },
      p.2.drop n)
  else p
/-- The strand restored from its message: PC, SS, BOUNCE and the states of its registers from the header, the values it carries, and zero
in an x register not carried (spec/06 R105). What the header says besides, the record of the strand holds. -/
def Strand.fromMessage (st : Strand) (m : List Byte) : Strand :=
  let h := leValue (m.take 64)
  let c := (List.range 24).foldl (fun (x : Strand) r =>
    x.setRc r { x.rc r with st := regStateOf (bits h (if r < 16 then 361 + 2 * r else 345 + 2 * (r - 16)) 2) })
    { st with pc := .ofNat 56 (bits h 457 55 * 2), ss := .ofNat 64 (bits h 393 64), bounce := .ofNat 64 (bits h 162 40 * 2 ^ 24) }
  let a := (List.range 16).foldl Strand.takeValue (c, m.drop 64)
  let b := (List.range 8).foldl (fun (p : Strand × List Byte) k =>
    if bits h (221 + k) 1 = 1 then ({ p.1 with x := p.1.x.setIfInBounds k (.ofNat 64 (leValue (p.2.take 8))) }, p.2.drop 8)
    else ({ p.1 with x := p.1.x.setIfInBounds k 0 }, p.2)) a
  ((List.range 8).foldl (fun p k => Strand.takeValue p (16 + k)) b).1

/-! ### Messages in the mesh (spec/02 R23, R25) -/

/-- The strand a read answers. -/
def State.readerOf (s : State) (d : ReadFor) : BitVec 64 :=
  match d with
  | .reg h _ _ _ _ _ => h
  | .replay h _ _ => h
  | .vtld k id _ => ((FMap.get? (s.core k).vtlds id).map (·.handle)).getD 0
  | .replsync _ item _ _ => ((FMap.get? s.items item).map (·.handle)).getD 0
  | .bedw _ _ => 0

/-- The tile on which a strand's image lies. -/
def State.strandTile (s : State) (h : BitVec 64) : Option Nat := (s.strand? h).map (·.loc.tile)
/-- The tile or I/O die (64 to 67) of a target. -/
def Target.node : Target → Nat
  | .column k _ _ _ _ => k / 16
  | .host die _ _ => 64 + die
  | .peer die _ _ _ => 64 + die
/-- The node that a message goes to: a tile, or 64 + its number for an I/O die. -/
def State.msgDest (s : State) (m : Msg) : Option Nat :=
  match m with
  | .fill h _ _ _ _ _ => s.strandTile h
  | .read _ _ _ _ g _ => some g.node
  | .readDone d _ _ _ _ => s.strandTile (s.readerOf d)
  | .posted _ _ _ g _ => some g.node
  | .postedAck item _ => (FMap.get? s.items item).bind (fun it => s.strandTile it.handle)
  | .instrLine _ _ _ g => some g.node
  | .migrate _ dest _ => some (dest / 16)
  | .accepted _ sender _ => some (sender / 16)
  | .refusal h _ _ => s.strandTile h
  | .recall h _ => s.strandTile h
  | .migError h => s.strandTile h
  | .joinIncr _ _ _ g => some g.node
  | .joinDecr _ _ _ g _ => some g.node
  | .joinAck h _ _ => s.strandTile h
  | .joinReg _ _ _ _ _ g _ => some g.node
  | .update d _ _ _ _ _ _ _ => some (d / 16)
  | .updateAns core _ _ => some (core / 768)
  | .flush _ _ q _ _ => some (q / 4)
  | .flushAck h _ _ => s.strandTile h
  | .taskPost t _ _ _ _ _ _ _ _ _ _ _ _ _ => some t
  | .taskw t _ _ _ _ => some t
  | .hedgeBytes t _ _ => some t
  | .hedgeRow t _ _ => some t
  | .hedgeCol t _ _ => some t
  | .hedgeRel t _ _ => some t
  | .rakeFetch _ _ _ _ g _ => some g.node
  | .rakeData k _ _ _ _ => some (k / 16)
  | .launch _ _ _ q _ _ _ _ _ => some (64 + q / 16384)
  | .levels h _ _ _ => s.strandTile h
  | .tlbi _ _ _ col _ _ _ => some (col / 16)
  | .tlbiAck h _ _ _ => s.strandTile h
  | .bedw t _ _ _ _ _ _ _ _ => some t
  | .cacheCtl _ h _ _ _ g _ => match g with | some x => some x.node | none => s.strandTile h
  | .releaseNote t _ => some t
  | .suspendNote t _ => some t
  | .resumeNote t _ => some t
  | .tileReport _ job => some (job / 1024)
  | .tableReq _ _ job => some (job / 1024)
  | .tableAns t _ _ => some t
  | .halt core _ => some (core / 768)
  | .lossNote t _ => some t
  | .countReport job _ _ => some (job / 1024)
  | .hostFlush port _ => some (64 + port / 2)
  | .storeFlush port _ => some (64 + port / 2)
  | .lateAns k => some (k / 16)
  | .winWrite _ pa _ _ => some (pa / 2 ^ 36)
  | .winRead _ pa _ _ => some (pa / 2 ^ 36)
  | .launchRec lead _ => some lead
  | .copyData n => some n
  | .tableUpdate _ => none
  | .tableAck _ => some 64
  | .tableCommit _ => none
/-- The traffic class of a message (spec/02 R25). -/
def Msg.trafficClass : Msg → Nat
  | .fill _ _ _ _ _ _ => 1
  | .readDone _ _ _ _ _ => 1
  | .postedAck _ _ => 1
  | .accepted _ _ _ => 1
  | .refusal _ _ _ => 1
  | .recall _ _ => 1
  | .migError _ => 1
  | .joinAck _ _ _ => 1
  | .updateAns _ _ _ => 1
  | .flushAck _ _ _ => 1
  | .tlbiAck _ _ _ _ => 1
  | .rakeData _ _ _ _ _ => 1
  | .migrate _ _ _ => 2
  | .posted _ _ _ _ _ => 3
  | .joinIncr _ _ _ _ => 3
  | .joinDecr _ _ _ _ _ => 3
  | .winWrite _ _ _ _ => 3
  | .winRead _ _ _ _ => 5
  | .launchRec _ _ => 0
  | .copyData _ => 6
  | .tableUpdate _ => 0
  | .tableAck _ => 0
  | .tableCommit _ => 0
  | .update _ _ _ _ _ _ _ _ => 4
  | .read _ _ _ _ _ _ => 5
  | .instrLine _ _ _ _ => 5
  | .joinReg _ _ _ _ _ _ _ => 5
  | .flush _ _ _ _ _ => 5
  | .rakeFetch _ _ _ _ _ _ => 5
  | .launch _ _ _ _ _ _ _ _ _ => 5
  | .bedw _ _ _ _ _ _ _ _ _ => 5
  | .cacheCtl _ _ _ _ _ _ _ => 5
  | .hostFlush _ _ => 5
  | .storeFlush _ _ => 5
  | .lateAns _ => 1
  | .taskPost _ _ _ _ _ _ _ _ _ _ _ _ _ _ => 6
  | .taskw _ _ _ _ _ => 6
  | .hedgeBytes _ _ _ => 6
  | .hedgeRow _ _ _ => 6
  | .hedgeCol _ _ _ => 6
  | .hedgeRel _ _ _ => 6
  | .levels _ _ _ _ => 0
  | .tlbi _ _ _ _ _ _ _ => 0
  | .releaseNote _ _ => 0
  | .suspendNote _ _ => 0
  | .resumeNote _ _ => 0
  | .tileReport _ _ => 0
  | .tableReq _ _ _ => 0
  | .tableAns _ _ _ => 0
  | .halt _ _ => 0
  | .lossNote _ _ => 0
  | .countReport _ _ _ => 0

/-- The header of an update flit (spec/09 R163): home codes of the destination and of the sending column, address space, bed, operator,
element type, number of pairs, and the outbound entry number of each. -/
def updateHeader (dcol scol : Nat) (asid : BitVec 12) (bed op etype : Nat) (ps : List FlitPair) : Nat :=
  dcol * 2 ^ 118 + scol * 2 ^ 108 + asid.toNat * 2 ^ 96 + bed * 2 ^ 88 + op * 2 ^ 84 + etype * 2 ^ 80 + ps.length * 2 ^ 78
    + (ps.zipIdx.map (fun p => p.1.tag % 64 * 2 ^ (6 * p.2))).sum
/-- A pair of an update flit (spec/09 R163): its value, bits 39 to 3 of its home offset, and its lane mask. -/
def FlitPair.word (p : FlitPair) : Nat := p.value.toNat * 2 ^ 64 + p.hoff / 8 % 2 ^ 37 * 2 ^ 27 + p.lmask * 2 ^ 23
/-- An update flit's bytes: the header in bytes 0 to 15, pair j in bytes 16 + 16j to 31 + 16j (spec/09 R163). -/
def updateFlit (dcol scol : Nat) (asid : BitVec 12) (bed op etype : Nat) (ps : List FlitPair) : List Byte :=
  padTo64 (leBytes (updateHeader dcol scol asid bed op etype ps) 16 ++ (ps.map (fun p => leBytes p.word 16)).flatten)

/-- The flits of a message: a migration, a refusal with the image that it returns, an update and a launch record fill as many as their bytes
need, any other message fills one (spec/06 R105, R106, spec/09 R163, log 5). -/
def Msg.flits : Msg → Nat
  | .migrate _ _ b => b.length / 64
  | .refusal _ _ b => b.length / 64
  | .update d sc _ a b o e ps => (updateFlit d sc a b o e ps).length / 64
  | .launchRec _ r => r.units.length
  | _ => 1
/-- Send a message from a node: one for another node has to cross the mesh (spec/02 R23). -/
def State.sendFrom (s : State) (src : Nat) (m : Msg) : State :=
  match s.msgDest m with
  | some d => if d = src then s.send m else { s.send m with transit := FMap.set s.transit s.fresh ⟨src, m.flits, 0, 0, false⟩ }
  | none => s.send m
/-- A message is replaced by its answer, under the same number, from a node. -/
def State.turnInto (s : State) (id src : Nat) (m : Msg) : State :=
  { s with
    msgs := FMap.set s.msgs id m
    transit := if s.msgDest m = some src then FMap.erase s.transit id else FMap.set s.transit id ⟨src, m.flits, 0, 0, false⟩ }
/-- A message that is not done crosses the mesh once more. -/
def State.recross (s : State) (id : Nat) (m : Msg) : State :=
  { s with
    msgs := FMap.set s.msgs id m
    transit := match FMap.get? s.transit id with
      | some t => FMap.set s.transit id { t with sent := 0, got := 0 }
      | none => s.transit }

/-! ### Acquire (spec/08 R140, R149) -/

/-- Invalidate the line buffer and the instruction buffer of a core (spec/07 R129, R130). -/
def State.dropLines (s : State) (k : Nat) : State :=
  let c := s.core k
  s.putCore k { c with lineBuf := [], instrBuf := [] }
/-- Invalidate a column's rake buffer (spec/07 R136). -/
def State.dropRake (s : State) (k : Nat) : State :=
  let c := s.col k
  s.putCol k { c with rakeBuf := [] }
/-- AG of a tile advances; on its passing 0xFFFF every snapshot of the tile is invalidated (spec/08 R149). -/
def State.bumpAg (s : State) (t : Nat) : State :=
  let tl := s.tile t
  if tl.ag + 1 < 65536 then s.putTile t { tl with ag := tl.ag + 1 }
  else
    let s1 := s.putTile t { tl with ag := 0 }
    { s1 with
      cores := FMap.mapVals s1.cores (fun k c => if k / 768 = t then { c with lineBuf := [], instrBuf := [] } else c)
      cols := FMap.mapVals s1.cols (fun k c => if k / 16 = t then { c with rakeBuf := [] } else c) }
/-- The acquire of a strand at a scope, where it now is: AG and SG advance and the buffers of R140 are invalidated. -/
def State.acquire (s : State) (st : Strand) (scope : Nat) : State × Strand :=
  if scope < 2 then (s, st)
  else
    let s1 := (s.bumpAg st.loc.tile).dropLines st.coreKey
    let s2 := if scope < 4 then s1 else s1.dropRake st.colKey
    (s2, st.setSg (s2.tile st.loc.tile).ag)
/-- A strand created or accepted on a tile: AG advances and SG takes it (spec/08 R149). -/
def State.acquireOnArrival (s : State) (st : Strand) : State × Strand :=
  let s1 := s.bumpAg st.loc.tile
  (s1, st.setSg (s1.tile st.loc.tile).ag)

/-! ### Events (spec/04 R63) -/

/-- The expected phase of entry n of a ring (spec/04 R59). -/
def phaseOf (n log2n : Nat) : Nat := 1 - n / 2 ^ log2n % 2

/-- The 32 bytes of an event record. -/
def Event.word (e : Event) (phase lost : Nat) : Nat :=
  e.code * 2 ^ 240 + phase * 2 ^ 239 + lost * 2 ^ 238 + e.die * 2 ^ 236 + e.ltile * 2 ^ 230 + e.queue * 2 ^ 208
    + e.tag.toNat * 2 ^ 128 + e.detail.toNat * 2 ^ 64 + e.time % 2 ^ 64

/-- Does an I/O die work: it has booted and the host has not powered it off? One that has not booted has no host or scale-up ports, and one
in the safe talkative state serves nothing but management (spec/03 R41, R44). -/
def State.dieWorks (s : State) (d : Nat) : Bool := (s.die d).booted && !(s.die d).talkative && !(s.die d).off

/-- Write an event into its port's ring and send its MSI-X message, when the port's die works and the ring is enabled and has room. -/
def State.ringWrite (s : State) (e : Event) : Option State :=
  let p := s.port e.port
  let used := (p.evtail - p.evhead).toNat
  if s.dieWorks (e.port / 2) && p.even && decide (used < 2 ^ p.evlog2n) then
    let n := p.evtail.toNat
    let at_ := p.evbase.toNat / 4096 * 4096 + 32 * (n % 2 ^ p.evlog2n)
    let w := e.word (phaseOf n p.evlog2n) (if p.lostMark then 1 else 0)
    let s1 := { s with hostMem := s.hostMem.write at_ 32 w }
    some ((s1.putPort e.port { p with evtail := p.evtail + 1, lostMark := false }).reply (.msix e.port e.vec))
  else none

/-- Raise an event: into the ring, or into the die's buffer behind those that wait there, or counted as lost. -/
def State.raise (s : State) (e : Event) : State :=
  let d := s.die (e.port / 2)
  let waits := d.evbuf.any (fun x => x.port == e.port)
  match (if waits then none else s.ringWrite e) with
  | some s1 => s1
  | none =>
    if d.evbuf.length < 256 then s.putDie (e.port / 2) { d with evbuf := d.evbuf ++ [e] }
    else
      let p := s.port e.port
      s.putPort e.port { p with evlost := min (p.evlost + 1) (2 ^ 32 - 1), lostMark := true }

/-- Write buffered events of a port into its ring as room frees. -/
def State.drainEvents (s : State) (port : Nat) : State :=
  let d := s.die (port / 2)
  d.evbuf.foldl (fun s e =>
    if e.port == port then
      match s.ringWrite e with
      | some s1 =>
        let d1 := s1.die (port / 2)
        s1.putDie (port / 2) { d1 with evbuf := d1.evbuf.erase e }
      | none => s
    else s) s

/-- The port of events not tied to a queue: port 0 of North, or, if its ring is not enabled, the lowest-numbered port that works and whose
ring is enabled; with no such ring the events wait at port 0. -/
def State.mainPort (s : State) : Nat :=
  ((List.range 8).find? (fun p => (s.port p).even && s.dieWorks (p / 2))).getD 0

/-- An event not tied to a queue, which a die raises. -/
def State.raiseFrom (s : State) (die code ltile : Nat) (detail : Nat) : State :=
  let p := s.mainPort
  s.raise ⟨code, die, ltile, 0, 0, .ofNat 64 detail, (s.die die).timer, p, (s.port p).evvec⟩
/-- An event that the head gardener raises, for itself or for a tile: its die is North (log 37). -/
def State.raiseMain (s : State) (code ltile : Nat) (detail : Nat) : State := s.raiseFrom 0 code ltile detail

/-- An event of a queue, on its EVPORT and VEC, which the die of its front end raises. -/
def State.raiseQueue (s : State) (code q ltile : Nat) (tag : BitVec 64) (detail : Nat) : State :=
  let x := s.queue q
  s.raise ⟨code, q / 16384, ltile, q, tag, .ofNat 64 detail, (s.die (q / 16384)).timer, x.evport, x.vec⟩

/-- An event of a job: to its queue, or to the main ring for a job without one. -/
def State.raiseJob (s : State) (code : Nat) (j : Job) (detail : Nat) : State :=
  match j.queue with
  | some q => s.raiseQueue code q (j.handle / 1024) j.usertag detail
  | none => s.raiseMain code (j.handle / 1024) detail

/-- Is a logical tile Unbound? A read of its management block returns all-ones (spec/04 R54). -/
def State.unboundTile (s : State) (t : Nat) : Bool := s.head.phase != 5 || (s.head.grid7 && decide (56 ≤ t))
/-- Answer a read of a register in a tile's management block whose read has an effect: an Unbound tile's has none. -/
def State.replyReg (s : State) (t v : Nat) (s1 : State) : State :=
  if s.unboundTile t then s.reply (.value (2 ^ 64 - 1)) else s1.reply (.value v)

/-! ### The error log (spec/11 R221) -/

/-- Write an error-log entry; an uncorrectable error raises MemoryError, a corrected one the first in each second and source, a second being
1,350,000,000 counts of CYC. The entry's number is ELOGCNT before the write. DETAIL holds twice the address, plus 1 where the error was
corrected (log 37). -/
def State.logError (s : State) (t src : Nat) (unc : Bool) (pa : Nat) (h : BitVec 64) (tseq : Nat) : State :=
  let tl := s.tile t
  let recent := match FMap.get? tl.corrAt src with | some c => decide (tl.cyc < c + 1350000000) | none => false
  let s1 := s.putTile t { tl with
    elogcnt := (tl.elogcnt + 1) % 2 ^ 32, elog := FMap.set tl.elog (tl.elogcnt % 64) ⟨src, unc, pa, h, tseq, tl.cyc⟩
    corrAt := if unc || recent || src = 15 then tl.corrAt else FMap.set tl.corrAt src tl.cyc }
  if src = 15 then s1
  else if unc then s1.raiseMain 0x31 t (pa * 2)
  else if recent then s1 else s1.raiseMain 0x31 t (pa * 2 + 1)

/-! ### Jobs' counts of strands (spec/11 R225) -/

/-- Count a strand created or ended in a column. -/
def State.countStrand (s : State) (key job created ended : Nat) : State :=
  let c := s.col key
  let old := FMap.getD c.counts job (0, 0)
  s.putCol key { c with counts := FMap.set c.counts job (old.1 + created, old.2 + ended) }

/-! ### The end of a strand -/

/-- A strand leaves every queue and list that names it. -/
def State.unqueue (s : State) (h : BitVec 64) : State :=
  { s with
    cores := FMap.mapVals s.cores (fun _ c =>
      { c with arrival := c.arrival.filter (· != h), urgent := c.urgent.filter (· != h),
               reserved := c.reserved.filter (· != h) })
    cols := FMap.mapVals s.cols (fun _ c =>
      { c with resume := c.resume.filter (· != h), refusals := c.refusals.filter (fun e => e.handle != h) }) }

/-- Reserve free arrival entries of a core for the listed strands that target it, earliest entered first, and recall them
(spec/06 R106). Whether a listed urgent strand takes such an entry the spec does not say: it does here as any other, and its acceptance asks for
a place in the urgent queue and a free image all the same (DESIGN CHOICE, log 37). -/
def State.reserveOne (s : State) (k : Nat) : State :=
  let c := s.core k
  let col := s.col (Machine.colKey (k / 768) (coreCol (k % 768)))
  if c.arrival.length + c.reserved.length < bits c.corectl.toNat 16 6 && s.imageFree (Machine.colKey (k / 768) (coreCol (k % 768))) then
    match col.refusals.find? (fun e => e.core == k % 768 && !e.held) with
    | none => s
    | some e =>
      ((s.putCol (Machine.colKey (k / 768) (coreCol (k % 768)))
        { col with refusals := col.refusals.map (fun x => if x.handle == e.handle then { x with held := true } else x) }).putCore k
          { c with reserved := c.reserved ++ [e.handle] }).sendFrom (k / 768) (.recall e.handle k)
  else s
def State.reserve (s : State) (k : Nat) : State := (List.range 8).foldl (fun s _ => s.reserveOne k) s
/-- The same for every core that a column's list targets. -/
def State.reserveCol (s : State) (key : Nat) : State :=
  (s.col key).refusals.foldl (fun s e => s.reserve (Machine.coreKey (key / 16) e.core)) s

/-- A strand is withdrawn from every queue and list; what was reserved for it goes to the next listed strand (spec/06 R106). -/
def State.withdraw (s : State) (st : Strand) : State :=
  if (s.col st.dest).refusals.any (fun e => e.handle == st.handle) then (s.unqueue st.handle).reserveCol st.dest
  else s.unqueue st.handle
/-- A strand has ended: its slot and image are free, fills owed to it will find no strand, its unreported failures are
dropped, and its dock counts it (spec/06 R93, R114, spec/11 R225). -/
def State.endStrand (s : State) (st : Strand) : State :=
  let s1 := ((s.withdraw st).eraseStrand st.handle).reserve st.coreKey
  { s1 with items := s1.items.filter (fun kv => !(kv.2.handle == st.handle && kv.2.failed)) }.countStrand st.colKey st.job 0 1

/-- The fields of a strand record that creation fixes (spec/13 R258: SS is zero but for SG). -/
def newStrand (h : BitVec 64) (pc : Nat) (g : Vector Word 16) (job : Nat) (asid : BitVec 12) (flat : Nat) (joinw : BitVec 64)
    (loc : Place) (img : Nat) (cls : QueueClass) : Strand where
  handle := h
  pc := .ofNat 56 pc
  ss := 0
  g := g
  w := Vector.replicate 8 0
  x := Vector.replicate 8 0
  ctl := Vector.replicate 24 RegCtl.reset
  job := job
  asid := asid
  flat := flat
  bounce := 0
  joinw := joinw
  cmap := Vector.replicate 8 ⟨31, 0⟩
  pcause := 0
  preg := 0
  dest := 0
  destVa := 0
  destCva := none
  status := .queued
  loc := loc
  img := img
  cls := cls
  refusals := 0
  rlim := 0
  parkedFor := 0
  hkind := .none
  asUrgent := false
  victim := 0
  ofTask := false
  bornCol := 0
  phase := .none
  regrow := none
  ldaq := []
  bindRec := none
  pending := none
  bedWait := none
  wait := .none
  xpar := 0
  imgBad := false
  before := none

/-- The handle of the next strand that a dock creates (spec/06 R89). -/
def State.nextHandle (s : State) (key job : Nat) : BitVec 64 :=
  .ofNat 64 (job * 2 ^ 48 + key * 2 ^ 38 + (s.col key).sidCount % 2 ^ 38)
/-- The dock's creation count advances. -/
def State.takeSid (s : State) (key : Nat) : State :=
  let c := s.col key
  s.putCol key { c with sidCount := c.sidCount + 1 }

/-- The first four g registers and zeros. -/
def gInit (a : List Word) : Vector Word 16 := Vector.ofFn (fun i => (a[i.val]?).getD 0)

end Sys2Proof.Machine
end

