-- ==== Sys2Proof/Machine/Beds.lean ====
section
/-! DEFINITION. Beds: reading a descriptor (spec/07 R117), the checks of a bed table (spec/07 R118), finding the home of an
address (spec/07 R120), the bed cache (spec/07 R119) and the checks at the core (spec/07 R122 to R124). -/

namespace Sys2Proof.Machine

def kindOf (k : Nat) : Option BedKind :=
  match k with
  | 0 => some .here | 1 => some .striped | 2 => some .replicated | 3 => some .update | 4 => some .host | 5 => some .peer
  | 6 => some .scratch | _ => none
def BedKind.code : BedKind → Nat
  | .here => 0 | .striped => 1 | .replicated => 2 | .update => 3 | .host => 4 | .peer => 5 | .scratch => 6

/-- The fields of a descriptor (spec/07 R117); kind 7 has no bed. -/
def bedOf (w : Nat) : Option Bed :=
  (kindOf (bits w 441 3)).map fun kind =>
  { base := bits w 472 40 * 65536, len := bits w 444 28 * 65536, kind := kind
    imm := bits w 440 1 == 1, rd := bits w 439 1 == 1, wr := bits w 438 1 == 1, ex := bits w 437 1 == 1
    atm := bits w 436 1 == 1, rbase := bits w 88 40 * 65536, rasid := bits w 76 12, peer := bits w 64 12
    spbed := bits w 56 8, op := bits w 52 4, etype := bits w 48 4, aper := bits w 40 8, die := bits w 38 2
    log2g := bits w 33 5, order := bits w 32 1 == 1, prim := bits w 26 6, trows := bits w 22 4, tcols := bits w 18 4
    trow0 := bits w 15 3, tcol0 := bits w 12 3, ltile := bits w 6 6, colm := bits w 2 4, quad := bits w 0 2 }

/-- The placement fields a kind leaves unused, and the reserved field: all must be zero (spec/07 R117, R118). -/
def bedUnused (w : Nat) : Bool :=
  let z := fun (l : List (Nat × Nat)) => l.all (fun p => bits w p.1 p.2 == 0)
  let rect := [(22, 4), (18, 4), (15, 3), (12, 3)]
  let far := [(88, 40), (76, 12), (64, 12)]
  bits w 128 308 == 0 &&
  match kindOf (bits w 441 3) with
  | some .here => z (far ++ rect ++ [(56, 8), (52, 4), (48, 4), (40, 8), (38, 2), (33, 5), (32, 1), (26, 6), (0, 2)])
  | some .striped => z (far ++ [(56, 8), (52, 4), (48, 4), (40, 8), (38, 2), (26, 6), (6, 6), (2, 4), (0, 2)])
  | some .replicated => z (far ++ [(56, 8), (52, 4), (48, 4), (40, 8), (38, 2), (32, 1), (6, 6), (2, 4), (0, 2)])
  | some .update => z (far ++ [(40, 8), (38, 2), (26, 6), (6, 6), (2, 4), (0, 2)])
  | some .host => z (far ++ rect ++ [(56, 8), (52, 4), (48, 4), (33, 5), (32, 1), (26, 6), (6, 6), (2, 4), (0, 2)])
  | some .peer => z (rect ++ [(56, 8), (52, 4), (48, 4), (40, 8), (33, 5), (32, 1), (26, 6), (6, 6), (2, 4), (0, 2)])
  | some .scratch => z (far ++ rect ++ [(56, 8), (52, 4), (48, 4), (40, 8), (38, 2), (33, 5), (32, 1), (26, 6), (2, 4)])
  | none => false

/-- Is the kind one that lies in a rectangle of tiles? -/
def Bed.hasRect (b : Bed) : Bool := b.kind == .striped || b.kind == .replicated || b.kind == .update
/-- Does the bed have homes on this panel (spec/07 R120, R137)? -/
def Bed.onPanel (b : Bed) : Bool := b.kind != .host && b.kind != .peer

/-- The largest home offset of a bed (spec/07 R118, R120). -/
def Bed.maxHoff (b : Bed) : Nat :=
  if b.len = 0 then 0
  else
    let granules := if b.kind == .replicated then 16 else 16 * (b.trows * b.tcols)
    let G := 2 ^ b.log2g
    let last := b.len - 1
    if b.hasRect then
      let q := last / (granules * G)
      let rem := last % (granules * G)
      q * G + (if G ≤ rem + 1 then G - 1 else rem)
    else last

/-- The operator and element-type pairs of spec/09 R158. -/
def opOk (op etype : Nat) : Bool :=
  match op with
  | 0 => etype == 0 || etype == 1 || etype == 4 || etype == 5
  | 1 => decide (etype < 6)
  | 2 => decide (etype < 6)
  | 3 => etype == 2 || etype == 3
  | 4 => etype == 2 || etype == 3
  | 5 => etype == 2 || etype == 3
  | 6 => etype == 2 || etype == 3
  | _ => false

/-- The checks of spec/07 R118 that a descriptor meets by itself, its tiles and its update, host and peer fields apart. -/
def bedSelfOk (w : Nat) : Bool :=
  match bedOf w with
  | none => false
  | some b =>
    bedUnused w && decide (b.base + b.len ≤ 2 ^ 56)
    && (if b.hasRect then decide (12 ≤ b.log2g) && decide (b.log2g ≤ 30) && decide (1 ≤ b.trows) && decide (b.trows ≤ 8)
          && decide (1 ≤ b.tcols) && decide (b.tcols ≤ 8) else true)
    && (if b.onPanel then decide (b.maxHoff < 2 ^ 40) else true)
    && (if b.kind == .scratch then decide (b.len ≤ 16 * 2 ^ 20) else true)
    && !(b.imm && b.kind == .update) && !(b.ex && (b.kind == .host || b.kind == .peer || b.kind == .update))

/-- Do two beds share an address? -/
def Bed.overlaps (a b : Bed) : Bool :=
  decide (a.base < b.base + b.len) && decide (b.base < a.base + a.len) && decide (0 < a.len) && decide (0 < b.len)

/-- The tiles a bed names, PRIM apart. -/
def Bed.tiles (b : Bed) : List Nat :=
  if b.hasRect then rectTiles b.trow0 b.tcol0 b.trows b.tcols
  else if b.onPanel then [b.ltile] else []

/-- Does the bed's rectangle lie in the 8 by 8 numbering, and PRIM in the rectangle (spec/07 R118)? -/
def Bed.rectOk (b : Bed) : Bool :=
  if b.hasRect then
    decide (b.trow0 + b.trows ≤ 8) && decide (b.tcol0 + b.tcols ≤ 8)
    && (if b.kind == .replicated then inRect b.prim b.trow0 b.tcol0 b.trows b.tcols else true)
  else true

/-- The update fields against the other beds of the table (spec/07 R118, spec/09 R158). -/
def Bed.updateOk (b : Bed) (spill : Nat → Option Bed) : Bool :=
  if b.kind == .update then
    opOk b.op b.etype &&
    match spill b.spbed with
    | some p => p.kind == .striped && p.rd && p.wr && !p.imm && p.trows == b.trows && p.tcols == b.tcols
        && p.trow0 == b.trow0 && p.tcol0 == b.tcol0
    | none => false
  else true

/-- A host-aperture entry's fields (spec/04 R64). -/
def aperBase (e : BitVec 128) : Nat := bits e.toNat 64 64
def aperEn (e : BitVec 128) : Bool := bits e.toNat 63 1 == 1
def aperWr (e : BitVec 128) : Bool := bits e.toNat 62 1 == 1
def aperPort (e : BitVec 128) : Nat := bits e.toNat 61 1
def aperLen (e : BitVec 128) : Nat := bits e.toNat 0 32 * 4096

/-- The host and peer entries a bed rests on (spec/04 R64, spec/07 R118). The mask of a peer entry is its low 40 bits. -/
def State.farOk (s : State) (b : Bed) : Bool :=
  match b.kind with
  | .host =>
    let e := FMap.getD (s.die b.die).apers b.aper 0
    aperEn e && decide (b.len ≤ aperLen e)
  | .peer => bits (FMap.getD (s.die b.die).peers b.peer 0).toNat 0 40 != 0
  | _ => true

/-- Is a logical tile bound and not Vacant? -/
def State.tileLive (s : State) (t : Nat) : Bool :=
  decide (t < (if s.head.grid7 then 56 else 64)) && decide (s.head.phase = 5) && !s.head.lost.contains t

/-- Does a tile serve its memory and its cores: bound, and neither Retain nor Off (spec/02 R32, spec/03 R52)? -/
def State.tileUp (s : State) (t : Nat) : Bool :=
  s.tileLive t && ((s.tile t).pow.mode == .run || (s.tile t).pow.mode == .idle)

/-- Does memory on a serving tile stand at these panel physical addresses? Offsets up to 0xBFFF_FFFF of a column are populated
(spec/02 R36). -/
def State.paOk (s : State) (pa len : Nat) : Bool :=
  decide (pa < 2 ^ 42) && decide (pa % 2 ^ 32 + len ≤ 0xC0000000) && s.tileUp (pa / 2 ^ 36)

/-- Beds read from descriptor words; none if a descriptor fails by itself. -/
def bedsOf (ws : List Nat) : Option (List Bed) :=
  if ws.all bedSelfOk then some (ws.filterMap bedOf) else none

/-- Pairwise disjoint. -/
def disjointBeds : List Bed → Bool
  | [] => true
  | b :: bs => bs.all (fun c => !b.overlaps c) && disjointBeds bs

/-- The checks of spec/07 R118 on a whole table, its beds' tiles held to a test. -/
def State.tableOk (s : State) (beds : List Bed) (tileOk : Nat → Bool) : Bool :=
  disjointBeds beds && beds.all (fun b =>
    b.rectOk && b.tiles.all tileOk && b.updateOk (fun i => beds[i]?) && s.farOk b)

/-- Is every line of a range of device memory readable? -/
def State.readable (s : State) (pa len : Nat) : Bool :=
  s.paOk pa len && !s.badLines.any (fun l => decide (pa / 64 ≤ l) && decide (l ≤ (pa + len - 1) / 64))

/-- Descriptor words of a table image at a panel physical address (spec/07 R117). -/
def State.descriptors (s : State) (pa n : Nat) : List Nat := (List.range n).map (fun i => s.mem.read (pa + 64 * i) 64)

/-- A table as a tile holds it. -/
def tableOf (bedn bedtab : Nat) (beds : List Bed) : BedTable := ⟨bedn, bedtab, (List.range beds.length).zip beds⟩

/-! ### The home of an address (spec/07 R120) -/

/-- Home code and home offset in a striped or update bed (spec/07 R120). -/
def Bed.homeRect (b : Bed) (off : Nat) : Nat × Nat :=
  let G := 2 ^ b.log2g
  let m := b.trows * b.tcols
  let n := 16 * m
  let k := off / G
  let sm := k % n
  let hoff := k / n * G + off % G
  let t := if b.order then sm % m else sm / 16
  let c := if b.order then sm / m else sm % 16
  (colKey ((b.trow0 + t / b.tcols) * 8 + b.tcol0 + t % b.tcols) c, hoff)

/-- Home code and home offset of the replica on a tile (spec/07 R120). -/
def Bed.replica (b : Bed) (off t : Nat) : Nat × Nat :=
  let G := 2 ^ b.log2g
  let k := off / G
  (colKey t (k % 16), k / 16 * G + off % G)

/-- Home(): an address's home code and home offset, seen from a tile; none for a host or peer bed. -/
def Bed.home (b : Bed) (off fromTile : Nat) : Option (Nat × Nat) :=
  match b.kind with
  | .here => some (colKey b.ltile b.colm, off)
  | .striped => some (b.homeRect off)
  | .update => some (b.homeRect off)
  | .replicated =>
    some (b.replica off (if inRect fromTile b.trow0 b.tcol0 b.trows b.tcols then fromTile else b.prim))
  | .scratch => some (colKey b.ltile (4 * b.quad + off / 4096 % 4), off)
  | .host => none
  | .peer => none

/-! ### Tables and bed caches (spec/07 R119) -/

/-- A bed with its index. -/
structure BedHit where
  index : Nat
  bed : Bed
deriving DecidableEq, Repr

def Bed.holds (b : Bed) (va : Nat) : Bool := decide (b.base ≤ va) && decide (va < b.base + b.len)

/-- The bed of a table that holds an address. -/
def BedTable.find (t : BedTable) (va : Nat) : Option BedHit :=
  (FMap.findKey? t.beds (fun _ b => b.holds va)).map (fun kv => ⟨kv.1, kv.2⟩)

/-- The bed table a strand's accesses use on its tile: the copy of its address space, or the supervisor table
(spec/11 R209, spec/13 R257). -/
def State.tableFor (s : State) (st : Strand) : Option BedTable :=
  if st.sup then (s.tile st.loc.tile).supTable else FMap.get? (s.tile st.loc.tile).bedTables st.asid.toNat

/-- The result of a lookup at a core: a bed, BedMiss, or a wait for the descriptor. -/
inductive Lookup where
  | hit (h : BedHit)
  | miss
  | wait
deriving DecidableEq, Repr

/-- The entry of a core's bed cache that holds an address. -/
def Core.cachedBed (c : Core) (asid : BitVec 12) (va : Nat) : Option BedCacheEntry :=
  c.bedCache.find? (fun e => e.asid == asid && e.bed.holds va)

/-- Look an address up in the core's bed cache; an address in no bed is a miss, one whose descriptor is not cached waits for
it (spec/07 R116, R119). -/
def State.lookup (s : State) (st : Strand) (va : Word) : Lookup :=
  if 2 ^ 56 ≤ va.toNat then .miss
  else
    match (s.core st.coreKey).cachedBed st.asid va.toNat with
    | some e => .hit ⟨e.index, e.bed⟩
    | none =>
      match s.tableFor st with
      | some t => if (t.find va.toNat).isSome then .wait else .miss
      | none => .wait

/-- The bed table by which a tile knows an address space: a job's or the supervisor's. -/
def State.tableKnown (s : State) (tile : Nat) (asid : BitVec 12) : Option BedTable :=
  match FMap.get? (s.tile tile).bedTables asid.toNat with
  | some t => some t
  | none => if (s.tile tile).supasid == asid then (s.tile tile).supTable else none
/-- Least recently used replacement: the entry used moves to the front, and 32 are kept (spec/07 R119). -/
def Core.useBed (c : Core) (e : BedCacheEntry) : Core :=
  { c with bedCache := (e :: c.bedCache.filter (fun x => !(x.asid == e.asid && x.index == e.index))).take 32 }

/-- A hit is a use of its entry. -/
def State.touchBed (s : State) (st : Strand) (h : BedHit) : State :=
  s.putCore st.coreKey ((s.core st.coreKey).useBed ⟨st.asid, h.index, h.bed⟩)

/-! ### The checks at the core (spec/07 R122 to R124) -/

/-- The kinds of access of the tables of spec/07 R123 and R124. -/
inductive Access where
  | load | store | atomic | ldr | stp | stm | upd | copyRead | copyWrite | rake | cacheCtl | fetch
deriving DecidableEq, Repr

/-- The bed bits an access needs (spec/07 R123). -/
def Access.permitted (a : Access) (b : Bed) : Bool :=
  match a with
  | .load => b.rd
  | .ldr => b.rd
  | .rake => b.rd
  | .copyRead => b.rd
  | .cacheCtl => b.rd
  | .store => b.wr && !b.imm
  | .stp => b.wr && !b.imm
  | .stm => b.wr && !b.imm
  | .copyWrite => b.wr && !b.imm
  | .atomic => b.rd && b.wr && b.atm && !b.imm
  | .upd => b.wr
  | .fetch => b.ex

/-- The bed kinds an access may name (spec/07 R124, spec/16 R325, R340). -/
def Access.kindOk (a : Access) (k : BedKind) : Bool :=
  match a with
  | .load => k != .host && k != .peer
  | .store => k != .replicated && k != .host && k != .peer
  | .atomic => k != .replicated && k != .host && k != .peer
  | .stp => k != .replicated
  | .stm => k == .replicated
  | .upd => k == .update
  | .cacheCtl => k != .scratch && k != .host && k != .peer
  | .rake => k != .host && k != .peer
  | .ldr => true
  | .copyRead => true
  | .copyWrite => true
  | .fetch => true

/-- A check that failed: a trap's cause with g2 and g4 (spec/11 R205). -/
structure Trip where
  cause : Nat
  g2 : Word
  g4 : Word
deriving DecidableEq, Repr

def bedMiss (va : Word) : Trip := ⟨4, va, 0⟩
def misaligned (va : Word) (size : Nat) : Trip := ⟨3, va, .ofNat 64 size⟩
def bedKindTrip (va : Word) (h : BedHit) : Trip := ⟨5, va, .ofNat 64 (h.index * 256 + h.bed.kind.code)⟩
def protectionCore (va : Word) (h : BedHit) : Trip := ⟨7, va, .ofNat 64 (h.index * 256 + 1)⟩

/-- The checks after the lookup, in the order of spec/07 R122. -/
def checkAt (a : Access) (va : Word) (align : Nat) (h : BedHit) : Option Trip :=
  if va.toNat % align ≠ 0 then some (misaligned va align)
  else if !a.permitted h.bed then some (protectionCore va h)
  else if !a.kindOk h.bed.kind then some (bedKindTrip va h)
  else none

/-- The bed a copy engine, a rake unit or a gardener finds by the table itself, without a bed cache. -/
def BedTable.check (t : BedTable) (a : Access) (va : Word) (align : Nat) : Trip ⊕ BedHit :=
  if 2 ^ 56 ≤ va.toNat then .inl (bedMiss va)
  else
    match t.find va.toNat with
    | none => .inl (bedMiss va)
    | some h =>
      match checkAt a va align h with
      | some x => .inl x
      | none => .inr h

end Sys2Proof.Machine
end

