-- ==== Sys2Proof/Machine/Cache.lean ====
section
/-! DEFINITION. The tile cache (spec/07 R131 to R134, spec/23 R407) and translation at the home (spec/07 R125 to R128). The
cache holds tags alone, since it never holds a stale line (spec/07 R131): bytes are read and written in memory. -/

namespace Sys2Proof.Machine

/-! ### The tile cache -/

/-- Does an enabled range cover this offset of a column (spec/07 R133)? -/
def rangeCovers (r : BitVec 64) (col off : Nat) : Bool :=
  bits r.toNat 63 1 == 1 && bits r.toNat 59 4 == col && decide (bits r.toNat 16 16 * 65536 ≤ off)
  && decide (off < (bits r.toNat 16 16 + bits r.toNat 32 16) * 65536)

/-- Is a line in an enabled retention range? -/
def Quad.retained (q : Quad) (col line : Nat) : Bool := q.ret.any (fun kv => rangeCovers kv.2 col (line * 64))
/-- Is a line in an enabled evict-first range? -/
def Quad.evictRange (q : Quad) (col line : Nat) : Bool := q.ef.any (fun kv => rangeCovers kv.2 col (line * 64))
/-- The first way that is scratch or becoming scratch. -/
def Quad.topWay (q : Quad) : Nat := 16 - max q.scrw q.newScrw
/-- The set of a line: bits [19:6] of its offset (spec/23 R407). -/
def lineSet (line : Nat) : Nat := line % 16384
/-- The lines of a set, most recently used first. -/
def Quad.setLines (q : Quad) (n : Nat) : List CacheLine := q.lines.filter (fun l => lineSet l.line == n)
/-- The lowest of these ways that holds no line of the set. -/
def freeWay (ls : List CacheLine) (ways : List Nat) : Option Nat :=
  ways.find? (fun w => !ls.any (fun l => l.way == w))

/-- The victim's way of a retained line: an invalid line of a retention way, else the least recently used line there that no
enabled range covers (spec/07 R133). -/
def Quad.retVictim (q : Quad) (ls : List CacheLine) : Option Nat :=
  match freeWay ls (List.range q.retw) with
  | some w => some w
  | none => (ls.reverse.find? (fun l => decide (l.way < q.retw) && !q.retained l.col l.line)).map (·.way)

/-- The victim's way in ordinary ways: invalid, else the least recently used evict-first line, else the least recently used
(spec/07 R131). -/
def Quad.ordVictim (q : Quad) (ls : List CacheLine) : Option Nat :=
  let ways := (List.range 16).filter (fun w => decide (q.retw ≤ w) && decide (w < q.topWay))
  match freeWay ls ways with
  | some w => some w
  | none =>
    let mine := ls.reverse.filter (fun l => ways.contains l.way)
    match mine.find? (·.evictFirst) with
    | some l => some l.way
    | none => mine.head?.map (·.way)

/-- Put a line into a way of its set; a dirty line that leaves is written back. -/
def Quad.place (q : Quad) (l : CacheLine) : Quad :=
  let out := q.lines.find? (fun x => lineSet x.line == lineSet l.line && x.way == l.way)
  let rest := q.lines.filter (fun x => !(lineSet x.line == lineSet l.line && x.way == l.way))
  let wb := match out with | some x => if x.dirty then 1 else 0 | none => 0
  { q with lines := (if l.evictFirst then rest ++ [l] else l :: rest), qwbk := q.qwbk + wb }

/-- One access to one line through the cache: counted, and allocated on a miss (spec/07 R131, R133, spec/23 R407). -/
def Quad.touch (q : Quad) (col line : Nat) (write : Bool) : Quad :=
  match q.lines.find? (fun l => l.col == col && l.line == line) with
  | some l =>
    { q with lines := { l with dirty := l.dirty || write } :: q.lines.filter (fun x => !(x.col == col && x.line == line)),
             qhit := q.qhit + 1 }
  | none =>
    let ls := q.setLines (lineSet line)
    let q1 := { q with qmiss := q.qmiss + 1 }
    let kept := q.retained col line
    let ord := match q.ordVictim ls with
      | some w => q1.place ⟨col, line, w, write, !kept && q.evictRange col line, false⟩
      | none => q1
    if kept && decide (0 < q.retw) then
      match q.retVictim ls with
      | some w => q1.place ⟨col, line, w, write, false, false⟩
      | none => ord
    else ord

/-- The panel physical address of a column's offset (spec/02 R36). -/
def panelAddr (key off : Nat) : Nat := key * 2 ^ 32 + off

/-- A quadrant's tags change: a dirty line with an uncorrectable error that leaves is written back as it is, so its line of memory is
uncorrectable from then on. -/
def State.putTags (s : State) (qk : Nat) (q : Quad) : State :=
  let lost := (s.quad qk).lines.filter (fun l => l.bad && l.dirty && !q.lines.any (fun x => x.col == l.col && x.line == l.line))
  { s.putQuad qk q with badLines := s.badLines ++ lost.map (fun l => panelAddr (colKey (qk / 4) l.col) (l.line * 64) / 64) }
/-- An access by the vertical bus to len bytes of a column, every line once (spec/07 R131, spec/23 R407). -/
def State.viaBus (s : State) (key off len : Nat) (write : Bool) : State :=
  let first := off / 64
  let n := (off + len - 1) / 64 - first + 1
  let qk := quadOfCol key
  s.putTags qk ((List.range n).foldl (fun q i => q.touch (key % 16) (first + i) write) (s.quad qk))

/-- Does the quadrant hold a line of this 4 KiB (spec/07 R131, the presence map)? -/
def Quad.present (q : Quad) (col off : Nat) : Bool := q.lines.any (fun l => l.col == col && l.line / 64 == off / 4096)

/-- The core of a column that owns the bank group of an offset (spec/01 R13). -/
def ownerCore (key off : Nat) : Nat := key % 16 * 48 + off / 2 ^ 26

/-- An access by a core: direct to its own bank group where the presence map is clear, else by the bus (spec/07 R131). -/
def State.fromCore (s : State) (key off len core : Nat) (write : Bool) : State :=
  if core = ownerCore key off && !(s.quad (quadOfCol key)).present (key % 16) off then s else s.viaBus key off len write

/-- Does an access touch an uncorrectable line (spec/11 R222)? -/
def State.badAt (s : State) (pa len : Nat) : Bool :=
  s.badLines.any (fun l => decide (pa / 64 ≤ l) && decide (l ≤ (pa + len - 1) / 64))
/-- Is a line that the cache holds one of an access's? -/
def CacheLine.within (l : CacheLine) (col off len : Nat) : Bool :=
  l.col == col && decide (off / 64 ≤ l.line) && decide (l.line ≤ (off + len - 1) / 64)
/-- Does the quadrant hold one of an access's lines with an uncorrectable error (spec/11 R220, source 2)? -/
def Quad.badIn (q : Quad) (col off len : Nat) : Bool := q.lines.any (fun l => l.bad && l.within col off len)
/-- The source of the uncorrectable error that an access meets: the vertical bus, the tile cache or memory (spec/11 R220). -/
def State.errAt (s : State) (pa len : Nat) : Option Nat :=
  let key := pa / 2 ^ 32
  if (s.col key).busBad then some 9
  else if (s.quad (quadOfCol key)).badIn (key % 16) (pa % 2 ^ 32) len then some 2
  else if s.badAt pa len then some 1
  else none
/-- A write replaces the line and clears the condition (spec/11 R222). -/
def State.heal (s : State) (pa len : Nat) : State :=
  let key := pa / 2 ^ 32
  let q := s.quad (quadOfCol key)
  let s1 := if q.badIn (key % 16) (pa % 2 ^ 32) len then
      s.putQuad (quadOfCol key) { q with lines := q.lines.map (fun l => if l.within (key % 16) (pa % 2 ^ 32) len then { l with bad := false } else l) }
    else s
  { s1 with badLines := s.badLines.filter (fun l => !(decide (pa / 64 ≤ l) && decide (l ≤ (pa + len - 1) / 64))) }

/-- A line that the cache holds becomes dirty: the write of a read-modify-write whose read it has seen. -/
def State.dirty (s : State) (key off : Nat) : State :=
  let qk := quadOfCol key
  let q := s.quad qk
  s.putQuad qk { q with lines := q.lines.map (fun l =>
    if l.col == key % 16 && l.line == off / 64 then { l with dirty := true } else l) }

/-! ### Translation -/

/-- What a walk or a translation answers: an offset, or a trap's cause with g4. -/
inductive Xlate where
  | ok (off : Nat)
  | trip (cause g4 : Nat)
deriving DecidableEq, Repr

/-- What the walk of spec/07 R127 finds. -/
inductive Walk where
  | leaf (e : TlbEntry)
  | fault (level reason : Nat)
  | bad (pa : Nat)
deriving DecidableEq, Repr

/-- One table entry, read at the column port through the cache. -/
def State.tableEntry (s : State) (key off : Nat) : State × Option Nat :=
  let s1 := s.viaBus key off 8 false
  if (s1.errAt (panelAddr key off) 8).isSome then (s1, none) else (s1, some (s.mem.read (panelAddr key off) 8))

/-- The page size of a leaf at a level (spec/07 R125). -/
def pageSize (l : Nat) : Nat := if l = 2 then 2 ^ 30 else if l = 3 then 2 ^ 21 else 2 ^ 16
/-- The index of a level (spec/07 R125). -/
def levelIndex (l cva : Nat) : Nat :=
  match l with
  | 1 => bits cva 39 9 | 2 => bits cva 30 9 | 3 => bits cva 21 9 | _ => bits cva 16 5

/-- Levels l upward of the walk: base is the table's offset. -/
def State.walkFrom (s : State) (key : Nat) (asid : BitVec 12) (cva : Nat) : Nat → Nat → Nat → State × Walk
  | 0, l, _ => (s, .fault l 2)
  | n + 1, l, base =>
    match s.tableEntry key (base + 8 * levelIndex l cva) with
    | (s1, none) => (s1, .bad (panelAddr key (base + 8 * levelIndex l cva)))
    | (s1, some e) =>
      let v := bits e 0 1
      let lf := bits e 1 1
      let xw := bits e 2 2
      let off := bits e 8 24 * 256
      if v = 0 then (s1, .fault l 1)
      else if bits e 32 32 ≠ 0 || bits e 4 4 ≠ 0 || (l == 1 && lf == 1) || (l == 4 && lf == 0) || (lf == 0 && xw != 0) then
        (s1, .fault l 2)
      else if lf = 1 then
        let S := pageSize l
        if off % S ≠ 0 then (s1, .fault l 3)
        else if 0xB7FF8000 < off + S then (s1, .fault l 4)
        else (s1, .leaf ⟨asid, cva / S * S, S, off, bits e 3 1 == 1, bits e 2 1 == 1⟩)
      else if l < 3 && bits e 8 4 ≠ 0 then (s1, .fault l 2)
      else if 0xB7FF8000 ≤ off then (s1, .fault l 4)
      else s1.walkFrom key asid cva n (l + 1) off

/-- The whole walk (spec/07 R127). -/
def State.walk (s : State) (key : Nat) (asid : BitVec 12) (cva : Nat) : State × Walk :=
  let root := 0xB7FF8000 + 8 * asid.toNat
  match s.tableEntry key root with
  | (s1, none) => (s1, .bad (panelAddr key root))
  | (s1, some e) =>
    if bits e 0 1 = 0 then (s1, .fault 0 1)
    else if bits e 1 3 ≠ 0 || bits e 8 4 ≠ 0 || bits e 32 32 ≠ 0 || bits e 4 4 ≠ 0 then (s1, .fault 0 2)
    else s1.walkFrom key asid cva 4 1 (bits e 8 24 * 256)

/-- A leaf enters the translation buffer: a free entry, or one of a full buffer's that the spec leaves open (spec/07 R128). -/
def State.fillTlb (s : State) (key : Nat) (e : TlbEntry) : State :=
  let c := s.col key
  if c.tlb.length < 4096 then s.putCol key { c with tlb := c.tlb ++ [e] }
  else
    let i := (Config.freeWord s.fresh).toNat % 4096
    s.bump.putCol key { c with tlb := c.tlb.set i e }

/-- The entry of the translation buffer that covers an address. -/
def Column.tlbHit (c : Column) (asid : BitVec 12) (cva : Nat) : Option TlbEntry :=
  c.tlb.find? (fun e => e.asid == asid && e.cva == cva / e.size * e.size)

/-- Which leaf permission an access needs: 0 read, 1 write, 2 fetch (spec/07 R127). -/
def TlbEntry.permits (e : TlbEntry) (acc : Nat) : Bool :=
  match acc with
  | 0 => true | 1 => e.w | _ => e.x

/-- The offset a leaf gives, or Protection with zero in g4 (spec/07 R127). -/
def TlbEntry.answer (e : TlbEntry) (cva acc : Nat) : Xlate :=
  if e.permits acc then .ok (e.off + cva % e.size) else .trip 7 0

/-- Translate(asid, cva, acc) at a column for a strand or a task (spec/07 R125 to R128); an unreadable table entry is DataLoss of source 11
(spec/11 R220). -/
def State.translateFor (s : State) (key : Nat) (asid : BitVec 12) (cva acc : Nat) (h : BitVec 64) (tseq : Nat) : State × Xlate :=
  match (s.col key).tlbHit asid cva with
  | some e => (s, e.answer cva acc)
  | none =>
    match s.walk key asid cva with
    | (s1, .leaf e) => (s1.fillTlb key e, e.answer cva acc)
    | (s1, .fault l r) => (s1, .trip 6 (cva / 65536 * 65536 + r * 16 + l))
    | (s1, .bad pa) =>
      let n := (s1.tile (key / 16)).elogcnt
      (s1.logError (key / 16) 11 true pa h tseq, .trip 9 (n * 2 ^ 32 + 11))
/-- Translate for anyone else. -/
def State.translate (s : State) (key : Nat) (asid : BitVec 12) (cva acc : Nat) : State × Xlate := s.translateFor key asid cva acc 0 0

/-- The column virtual address (spec/07 R125). -/
def cvaOf (bed hoff : Nat) : Nat := bed * 2 ^ 40 + hoff

end Sys2Proof.Machine
end

