-- ==== Sys2Proof/Machine/Flags.lean ====
section
/-! DEFINITION. Number formats, exact values, rounding and every flag computation (spec/12 R231 to R243, R245 to R248, spec/17
R348, R355). Flags are one number: NX 1, UF 2, OF 4, DZ 8, NV 16, in the order of SS bits 3 to 7 (spec/13 R258). -/

namespace Sys2Proof.Machine

def flNX : Nat := 1
def flUF : Nat := 2
def flOF : Nat := 4
def flDZ : Nat := 8
def flNV : Nat := 16

/-- A floating format: exponent bits, fraction bits, all-ones exponent special, NaNs held, quiet bit in use (spec/12 R232). -/
structure FFmt where
  ebits : Nat
  fbits : Nat
  ieee : Bool
  nan : Bool
  snan : Bool
deriving DecidableEq, Repr

def fp32 : FFmt := ⟨8, 23, true, true, true⟩
def fp16 : FFmt := ⟨5, 10, true, true, true⟩
def bf16 : FFmt := ⟨8, 7, true, true, true⟩
def e4m3 : FFmt := ⟨4, 3, false, true, false⟩
def e5m2 : FFmt := ⟨5, 2, true, true, false⟩
def e2m1 : FFmt := ⟨2, 1, false, false, false⟩
def e8m10 : FFmt := ⟨8, 10, true, true, false⟩
def fe96 : FFmt := ⟨15, 80, true, true, false⟩

/-- The floating format of a code of spec/12 R231; T8 and the integers have none. -/
def ffmt (code : Nat) : FFmt :=
  match code with
  | 0 => fp32 | 1 => fp16 | 2 => bf16 | 3 => e4m3 | 4 => e5m2 | _ => e2m1

/-- The width of the elements of a format code (spec/12 R231). -/
def fmtWidth (code : Nat) : Nat :=
  match code with
  | 0 => 32 | 1 => 16 | 2 => 16 | 3 => 8 | 4 => 8 | 5 => 4 | 6 => 8
  | 8 => 8 | 9 => 16 | 10 => 32 | 11 => 64 | 12 => 8 | 13 => 16 | 14 => 32 | 15 => 64 | _ => 8
/-- Lanes of a format in a w register (spec/12 R231). -/
def fmtLanes (code : Nat) : Nat := 256 / fmtWidth code
/-- A floating code, 0 to 5 (spec/12 R231). -/
def isFloat (code : Nat) : Bool := decide (code < 6)
/-- A signed integer code. -/
def isSigned (code : Nat) : Bool := decide (8 ≤ code) && decide (code < 12)

def FFmt.width (F : FFmt) : Nat := 1 + F.ebits + F.fbits
def FFmt.bias (F : FFmt) : Int := 2 ^ (F.ebits - 1) - 1
def FFmt.emin (F : FFmt) : Int := 1 - F.bias
/-- The exponent of the last significand bit of the smallest values. -/
def FFmt.qmin (F : FFmt) : Int := F.emin - F.fbits
/-- The largest biased exponent of a finite value. -/
def FFmt.topE (F : FFmt) : Nat := if F.ieee then 2 ^ F.ebits - 2 else 2 ^ F.ebits - 1
/-- The encoding of the largest finite value, sign clear. -/
def FFmt.maxFin (F : FFmt) : Nat :=
  F.topE * 2 ^ F.fbits + (if F.ieee || !F.nan then 2 ^ F.fbits - 1 else 2 ^ F.fbits - 2)
/-- The encoding of infinity, sign clear, where the format has one. -/
def FFmt.inf (F : FFmt) : Nat := (2 ^ F.ebits - 1) * 2 ^ F.fbits
/-- The canonical quiet NaN; E2M1 has none and gives +0 (spec/12 R232, R240). -/
def FFmt.qnan (F : FFmt) : Nat :=
  if F.ieee then F.inf + 2 ^ (F.fbits - 1) else if F.nan then 2 ^ (F.ebits + F.fbits) - 1 else 0
def FFmt.signBit (F : FFmt) : Nat := 2 ^ (F.ebits + F.fbits)
def FFmt.signed (F : FFmt) (neg : Bool) (m : Nat) : Nat := (if neg then F.signBit else 0) + m

/-- A finite value, plus or minus man times 2^exp. -/
structure Dy where
  neg : Bool
  man : Nat
  exp : Int
deriving DecidableEq, Repr

/-- The value an encoding holds (spec/12 R232, R237). -/
inductive FVal where
  | fin (d : Dy)
  | inf (neg : Bool)
  | nan (signalling : Bool)
deriving DecidableEq, Repr

/-- Value(bits, F) (spec/12 R237). -/
def FFmt.value (F : FFmt) (b : Nat) : FVal :=
  let neg := bits b (F.ebits + F.fbits) 1 == 1
  let E := bits b F.fbits F.ebits
  let f := bits b 0 F.fbits
  if F.ieee && E == 2 ^ F.ebits - 1 then
    (if f = 0 then .inf neg else .nan (F.snan && decide (f < 2 ^ (F.fbits - 1))))
  else if !F.ieee && F.nan && bits b 0 (F.ebits + F.fbits) == 2 ^ (F.ebits + F.fbits) - 1 then .nan false
  else if E = 0 then .fin ⟨neg, f, F.qmin⟩
  else .fin ⟨neg, 2 ^ F.fbits + f, F.qmin + (E - 1 : Nat)⟩

/-- man * 2^k for k at least zero, div 2^-k otherwise. -/
def shiftBy (man : Nat) (k : Int) : Nat := if 0 ≤ k then man * 2 ^ k.toNat else man / 2 ^ (-k).toNat

/-- The integer multiple of 2^q that a mode chooses for man * 2^exp, and whether it differs (spec/12 R237). -/
def roundAt (mode : Nat) (neg : Bool) (man : Nat) (exp q : Int) : Nat × Bool :=
  if q ≤ exp then (man * 2 ^ (exp - q).toNat, false)
  else
    let k := (q - exp).toNat
    let m := man / 2 ^ k
    let rem := man % 2 ^ k
    let half := 2 ^ (k - 1)
    let up :=
      match mode with
      | 0 => decide (half < rem) || (rem == half && m % 2 == 1)
      | 1 => false
      | 2 => neg && rem != 0
      | 3 => !neg && rem != 0
      | _ => decide (half ≤ rem)
    (if up then m + 1 else m, rem != 0)

/-- What a value beyond range becomes (spec/12 R239). -/
def FFmt.beyond (F : FFmt) (mode : Nat) (neg : Bool) : Nat :=
  if !F.ieee then F.signed neg F.maxFin
  else
    match mode with
    | 1 => F.signed neg F.maxFin
    | 2 => F.signed neg (if neg then F.inf else F.maxFin)
    | 3 => F.signed neg (if neg then F.maxFin else F.inf)
    | _ => F.signed neg F.inf

/-- Round(F, x, mode) of a finite value, with its flags (spec/12 R237, R239, R241). -/
def FFmt.round (F : FFmt) (mode : Nat) (d : Dy) : Nat × Nat :=
  if d.man = 0 then (F.signed d.neg 0, 0)
  else
    let p1 : Int := F.fbits
    let e : Int := (Nat.log2 d.man : Int) + d.exp
    let q := max e F.emin - p1
    let r := roundAt mode d.neg d.man d.exp q
    let topq := F.qmin + (F.topE - 1 : Nat)
    if topq < q || (q == topq && decide (F.maxFin - (F.topE - 1) * 2 ^ F.fbits < r.1)) then
      (F.beyond mode d.neg, flOF + flNX)
    else
      let wide := roundAt mode d.neg d.man d.exp (e - p1)
      let tiny := decide (e < F.emin) && !(e == F.emin - 1 && wide.1 == 2 ^ (F.fbits + 1))
      (F.signed d.neg ((q - F.qmin).toNat * 2 ^ F.fbits + r.1),
        if r.2 then (if tiny then flUF + flNX else flNX) else 0)

/-- Round a value of any kind to a format (spec/12 R239, R240). -/
def FFmt.ofVal (F : FFmt) (mode : Nat) (v : FVal) : Nat × Nat :=
  match v with
  | .fin d => F.round mode d
  | .inf neg => if F.ieee then (F.signed neg F.inf, 0) else (F.signed neg F.maxFin, flNV)
  | .nan sg => (F.qnan, if sg || !F.nan then flNV else 0)

/-- A result that is a NaN by an invalid operation (spec/12 R240). -/
def FFmt.invalid (F : FFmt) : Nat × Nat := (F.qnan, flNV)

/-- A result NaN of operands one of which is a NaN: NV for a signalling operand, or where the format has no NaN. -/
def FFmt.nanOf (F : FFmt) (sg : Bool) : Nat × Nat := (F.qnan, if sg || !F.nan then flNV else 0)

def FVal.isNan : FVal → Bool
  | .nan _ => true | _ => false
def FVal.isSnan : FVal → Bool
  | .nan sg => sg | _ => false
def FVal.isInf : FVal → Bool
  | .inf _ => true | _ => false
def FVal.isZero : FVal → Bool
  | .fin d => d.man == 0 | _ => false
def FVal.neg : FVal → Bool
  | .fin d => d.neg | .inf n => n | .nan _ => false
def FVal.negate : FVal → FVal
  | .fin d => .fin { d with neg := !d.neg } | .inf n => .inf (!n) | .nan sg => .nan sg

/-- A dyadic as an integer count of 2^e. -/
def Dy.at (d : Dy) (e : Int) : Int :=
  let m : Int := (d.man * 2 ^ (d.exp - e).toNat : Nat)
  if d.neg then -m else m
/-- The exact sum; a zero sum takes its sign by spec/12 R238. -/
def Dy.add (mode : Nat) (a b : Dy) : Dy :=
  let e := min a.exp b.exp
  let t := a.at e + b.at e
  if t = 0 then ⟨if a.neg == b.neg then a.neg else mode == 2, 0, 0⟩ else ⟨decide (t < 0), t.natAbs, e⟩
/-- The exact product. -/
def Dy.mul (a b : Dy) : Dy := ⟨a.neg != b.neg, a.man * b.man, a.exp + b.exp⟩
/-- Is a less than b? -/
def Dy.lt (a b : Dy) : Bool := decide (a.at (min a.exp b.exp) < b.at (min a.exp b.exp))
def Dy.eq (a b : Dy) : Bool := a.at (min a.exp b.exp) == b.at (min a.exp b.exp)

/-- The exact product of two values; none where it is invalid. -/
def FVal.mul (a b : FVal) : Option FVal :=
  match a, b with
  | .nan x, .nan y => some (.nan (x || y))
  | .nan x, _ => some (.nan x)
  | _, .nan y => some (.nan y)
  | .inf x, .inf y => some (.inf (x != y))
  | .inf x, .fin d => if d.man = 0 then none else some (.inf (x != d.neg))
  | .fin d, .inf y => if d.man = 0 then none else some (.inf (d.neg != y))
  | .fin x, .fin y => some (.fin (x.mul y))
/-- The exact sum of two values; none where it is invalid. -/
def FVal.add (mode : Nat) (a b : FVal) : Option FVal :=
  match a, b with
  | .nan x, .nan y => some (.nan (x || y))
  | .nan x, _ => some (.nan x)
  | _, .nan y => some (.nan y)
  | .inf x, .inf y => if x == y then some (.inf x) else none
  | .inf x, .fin _ => some (.inf x)
  | .fin _, .inf y => some (.inf y)
  | .fin x, .fin y => some (.fin (x.add mode y))

/-- Round(a + b) (spec/17 R346, R350). -/
def FFmt.add (F : FFmt) (mode : Nat) (a b : FVal) : Nat × Nat :=
  match FVal.add mode a b with
  | none => F.invalid
  | some v => F.ofVal mode v
/-- Round(a * b). -/
def FFmt.mul (F : FFmt) (mode : Nat) (a b : FVal) : Nat × Nat :=
  match FVal.mul a b with
  | none => F.invalid
  | some v => F.ofVal mode v
/-- Round(a * b + c), exact before rounding. An invalid product is NV even where c is a quiet NaN. -/
def FFmt.fma (F : FFmt) (mode : Nat) (a b c : FVal) : Nat × Nat :=
  match FVal.mul a b with
  | none => F.invalid
  | some ab =>
    match FVal.add mode ab c with
    | none => F.invalid
    | some v => F.ofVal mode v

/-- The quotient of two numbers cut to more bits than any format keeps, with a sticky bit below. -/
def quotient (a b : Dy) : Dy :=
  let k := 100 + Nat.log2 b.man
  let n := a.man * 2 ^ k
  ⟨a.neg != b.neg, n / b.man * 2 + (if n % b.man = 0 then 0 else 1), a.exp - b.exp - k - 1⟩

/-- Round(a / b): 0/0 and inf/inf are invalid, a finite number over zero is an exact infinity with DZ (spec/12 R241). -/
def FFmt.div (F : FFmt) (mode : Nat) (a b : FVal) : Nat × Nat :=
  match a, b with
  | .nan x, .nan y => F.nanOf (x || y)
  | .nan x, _ => F.nanOf x
  | _, .nan y => F.nanOf y
  | .inf _, .inf _ => F.invalid
  | .inf x, .fin d => F.ofVal mode (.inf (x != d.neg))
  | .fin d, .inf y => F.round mode ⟨d.neg != y, 0, 0⟩
  | .fin x, .fin y =>
    if y.man = 0 then
      if x.man = 0 then F.invalid
      else
        let r := F.ofVal mode (.inf (x.neg != y.neg))
        (r.1, r.2 ||| flDZ)
    else if x.man = 0 then F.round mode ⟨x.neg != y.neg, 0, 0⟩
    else F.round mode (quotient x y)

/-- The integer square root, bit by bit from bit n down. -/
def isqrtFrom (m : Nat) : Nat → Nat → Nat
  | 0, r => r
  | n + 1, r => isqrtFrom m n (if (r + 2 ^ n) * (r + 2 ^ n) ≤ m then r + 2 ^ n else r)
/-- The integer square root. -/
def isqrt (m : Nat) : Nat := isqrtFrom m (Nat.log2 m / 2 + 1) 0

/-- The square root cut to more bits than any strand format keeps, with a sticky bit below. -/
def sqrtDy (d : Dy) : Dy :=
  let k : Nat := 120 + (if d.exp % 2 = 0 then 0 else 1)
  let n := d.man * 2 ^ k
  let r := isqrt n
  ⟨false, r * 2 + (if r * r = n then 0 else 1), (d.exp - k) / 2 - 1⟩

/-- Round(sqrt a): negative numbers are invalid, -0 gives -0. -/
def FFmt.sqrt (F : FFmt) (mode : Nat) (a : FVal) : Nat × Nat :=
  match a with
  | .nan x => F.nanOf x
  | .inf n => if n then F.invalid else F.ofVal mode (.inf false)
  | .fin d => if d.man = 0 then F.round mode d else if d.neg then F.invalid else F.round mode (sqrtDy d)

/-- Less-than on values that are not NaN; -0 equals +0. -/
def FVal.lt (a b : FVal) : Bool :=
  match a, b with
  | .inf x, .inf y => x && !y
  | .inf x, .fin _ => x
  | .fin _, .inf y => !y
  | .fin x, .fin y => x.lt y
  | _, _ => false
/-- Equality on values that are not NaN; -0 equals +0. -/
def FVal.eq (a b : FVal) : Bool :=
  match a, b with
  | .inf x, .inf y => x == y
  | .fin x, .fin y => x.eq y
  | _, _ => false

/-- FEQ, FLT and FLE with their flags (spec/17 R347): 0 equal, 1 less, 2 less or equal. -/
def fcmp (op : Nat) (a b : FVal) : Bool × Nat :=
  let nan := a.isNan || b.isNan
  let sg := a.isSnan || b.isSnan
  let r := !nan && (match op with | 0 => a.eq b | 1 => a.lt b | _ => a.lt b || a.eq b)
  (r, if (if op = 0 then sg else nan) then flNV else 0)

/-- -0 below +0, otherwise by value (spec/12 R243). -/
def FVal.below (a b : FVal) : Bool := a.lt b || (a.isZero && b.isZero && a.neg && !b.neg)
/-- FMIN, FMAX, FMINP, FMAXP on encodings (spec/12 R243). -/
def FFmt.minmax (F : FFmt) (max prop : Bool) (x y : Nat) : Nat × Nat :=
  let a := F.value x
  let b := F.value y
  if a.isSnan || b.isSnan then F.invalid
  else if a.isNan && b.isNan then (F.qnan, 0)
  else if a.isNan then (if prop then F.qnan else y, 0)
  else if b.isNan then (if prop then F.qnan else x, 0)
  else (if max then (if a.below b then y else x) else (if b.below a then y else x), 0)

/-- FCLASS (spec/17 R348). -/
def FFmt.classify (F : FFmt) (x : Nat) : Nat :=
  match F.value x with
  | .nan sg => if sg then 2 ^ 8 else 2 ^ 9
  | .inf n => if n then 1 else 2 ^ 7
  | .fin d =>
    if d.man = 0 then (if d.neg then 2 ^ 3 else 2 ^ 4)
    else if bits x F.fbits F.ebits = 0 then (if d.neg then 2 ^ 2 else 2 ^ 5)
    else (if d.neg then 2 else 2 ^ 6)

/-! ### Integers -/

/-- The least and greatest value of an integer format code. -/
def intRange (code : Nat) : Int × Int :=
  let e := fmtWidth code
  if isSigned code then (-(2 ^ (e - 1)), 2 ^ (e - 1) - 1) else (0, 2 ^ e - 1)
/-- The integer an encoding of an integer format holds. -/
def intVal (code x : Nat) : Int :=
  let e := fmtWidth code
  let m := x % 2 ^ e
  if isSigned code && decide (2 ^ (e - 1) ≤ m) then (m : Int) - 2 ^ e else m
/-- The encoding of an integer modulo 2^e. -/
def intEnc (e : Nat) (v : Int) : Nat := (v % 2 ^ e).toNat
/-- Saturate into an integer format; a saturated result raises NV alone (spec/12 R239). -/
def saturate (code : Nat) (v : Int) : Nat × Nat :=
  let r := intRange code
  let e := fmtWidth code
  if v < r.1 then (intEnc e r.1, flNV) else if r.2 < v then (intEnc e r.2, flNV) else (intEnc e v, 0)
/-- A floating value to an integer format: rounded, then saturated; an in-range result that differs raises NX (spec/12
R242). -/
def toInt (code mode : Nat) (v : FVal) : Nat × Nat :=
  match v with
  | .nan _ => (0, flNV)
  | .inf n => (intEnc (fmtWidth code) (if n then (intRange code).1 else (intRange code).2), flNV)
  | .fin d =>
    let r := roundAt mode d.neg d.man d.exp 0
    let i : Int := if d.neg then -(r.1 : Int) else r.1
    let s := saturate code i
    (s.1, if s.2 = 0 then (if r.2 then flNX else 0) else s.2)
/-- An integer as an exact value. -/
def intDy (v : Int) : Dy := ⟨decide (v < 0), v.natAbs, 0⟩

/-! ### Special functions (spec/17 R355)

Each is rounded to nearest even from bounds on the exact value. Where both bounds round to one encoding, that is the result;
where they do not, Config.specialRound stands for it (log 8). -/

/-- ln 2 lies between these counts of 2^-160. -/
def ln2Lo : Nat := 1013035739299659071135698605846798551586536899366
def ln2Hi : Nat := ln2Lo + 1

/-- Bounds, in counts of 2^-160, of the sum of y^k / k! for y in counts of 2^-160 below 1. -/
def expSeries (y : Nat) : Nat → Nat → Nat → Nat
  | 0, _, acc => acc
  | n + 1, term, acc => expSeries y n (term * y / (2 ^ 160 * (40 - n))) (acc + term)
/-- The series is cut after forty terms and each term is cut to 2^-160: the sum is low by less than 2^-150. -/
def expBounds (lo hi : Nat) : Nat × Nat :=
  (expSeries lo 40 (2 ^ 160) 0, expSeries hi 40 (2 ^ 160) 0 + 2 ^ 10)

/-- The result where two bounds round alike. -/
def FFmt.squeeze (F : FFmt) (fn x : Nat) (lo hi : Dy) : Nat × Nat :=
  let a := F.round 0 lo
  let b := F.round 0 hi
  if a.1 = b.1 then (a.1, a.2 ||| b.2 ||| flNX)
  else (Config.specialRound fn x F.ebits % 2 ^ F.width, flNX)

/-- 2^x of a finite x. -/
def FFmt.exp2 (F : FFmt) (x : Nat) (d : Dy) : Nat × Nat :=
  if d.man = 0 then F.round 0 ⟨false, 1, 0⟩
  else if (10 : Int) < (Nat.log2 d.man : Int) + d.exp then
    (if d.neg then F.round 0 ⟨false, 1, -2000⟩ else F.round 0 ⟨false, 1, 2000⟩)
  else
    let scaled : Int := if d.neg then -(shiftBy d.man (d.exp + 160) : Int) else shiftBy d.man (d.exp + 160)
    let exact := decide (-160 ≤ d.exp) || d.man % 2 ^ (-(d.exp + 160)).toNat == 0
    let lo160 : Int := if exact then scaled else if d.neg then scaled - 1 else scaled
    let n := lo160 / 2 ^ 160
    let f := (lo160 % 2 ^ 160).toNat
    if exact && f == 0 then F.round 0 ⟨false, 1, n⟩
    else
      let f2 := if exact then f else f + 1
      let b := expBounds (f * ln2Lo / 2 ^ 160) (f2 * ln2Hi / 2 ^ 160 + 1)
      F.squeeze 0 x ⟨false, b.1, n - 160⟩ ⟨false, b.2, n - 160⟩

/-- The sum of z^(2k+1) / (2k+1), in counts of 2^-160. -/
def atanhSeries (z2 : Nat) : Nat → Nat → Nat → Nat → Nat
  | 0, _, _, acc => acc
  | n + 1, k, pw, acc => atanhSeries z2 n (k + 2) (pw * z2 / 2 ^ 160) (acc + pw / k)

/-- log2 of a positive finite x. -/
def FFmt.log2 (F : FFmt) (x : Nat) (d : Dy) : Nat × Nat :=
  let k := Nat.log2 d.man
  let e : Int := (k : Int) + d.exp
  if d.man = 2 ^ k then F.round 0 (intDy e)
  else
    let z := (d.man - 2 ^ k) * 2 ^ 160 / (d.man + 2 ^ k)
    let lnLo := 2 * atanhSeries (z * z / 2 ^ 160) 60 1 z 0
    let lnHi := lnLo + 2 ^ 12
    let lo : Int := e * 2 ^ 160 + (lnLo * 2 ^ 160 / ln2Hi : Nat)
    let hi : Int := e * 2 ^ 160 + (lnHi * 2 ^ 160 / ln2Lo + 1 : Nat)
    F.squeeze 1 x ⟨decide (lo < 0), lo.natAbs, -160⟩ ⟨decide (hi < 0), hi.natAbs, -160⟩

/-- 1 / sqrt x of a positive finite x, cut with a sticky bit. -/
def rsqrtDy (d : Dy) : Dy :=
  let odd := d.exp % 2 ≠ 0
  let man := if odd then d.man * 2 else d.man
  let exp := if odd then d.exp - 1 else d.exp
  let k := 120 + Nat.log2 man
  let r := isqrt (2 ^ (2 * k) / man)
  ⟨false, r * 2 + (if r * r * man = 2 ^ (2 * k) then 0 else 1), -(exp / 2) - k - 1⟩

/-- VEXP2, VLOG2, VRCP, VRSQ by number 0 to 3, with the special cases of the table of spec/17 R355. -/
def FFmt.special (F : FFmt) (fn x : Nat) : Nat × Nat :=
  match F.value x with
  | .nan sg => F.nanOf sg
  | .inf n =>
    match fn with
    | 0 => if n then (0, 0) else (F.inf, 0)
    | 1 => if n then F.invalid else (F.inf, 0)
    | 2 => (F.signed n 0, 0)
    | _ => if n then F.invalid else (0, 0)
  | .fin d =>
    if d.man = 0 then
      match fn with
      | 0 => F.round 0 ⟨false, 1, 0⟩
      | 1 => (F.signed true F.inf, flDZ)
      | _ => (F.signed d.neg F.inf, flDZ)
    else
      match fn with
      | 0 => F.exp2 x d
      | 1 => if d.neg then F.invalid else F.log2 x d
      | 2 => F.round 0 (quotient ⟨false, 1, 0⟩ d)
      | _ => if d.neg then F.invalid else F.round 0 (rsqrtDy d)

end Sys2Proof.Machine
end

