-- ==== Sys2Proof/Machine/Sieve.lean ====
section
/-! DEFINITION. Sieves: element types and operators (spec/09 R158 to R161), the acceptance of a pair (R164 to R169), Apply()
(R170), spills and forced applies (R167, R168). -/

namespace Sys2Proof.Machine

/-- Lane width of an element type (spec/09 R158). -/
def laneWidth (etype : Nat) : Nat :=
  match etype with
  | 0 => 32 | 1 => 64 | 2 => 32 | 3 => 64 | 4 => 32 | _ => 16
/-- Lanes of a location (spec/09 R158). -/
def laneCount (etype : Nat) : Nat := 64 / laneWidth etype
def laneFloat (etype : Nat) : Bool := etype == 4 || etype == 5
def laneFmt (etype : Nat) : FFmt := if etype = 4 then fp32 else fp16
def laneSigned (etype : Nat) : Bool := etype == 0 || etype == 1
/-- A floating ADD is reduced in FE96 (spec/09 R161). -/
def isFloatAdd (op etype : Nat) : Bool := op == 0 && laneFloat etype

/-- A lane as an integer, signed or not. -/
def laneInt (etype x : Nat) : Int :=
  let e := laneWidth etype
  if laneSigned etype && decide (2 ^ (e - 1) ≤ x) then (x : Int) - 2 ^ e else x

/-- Floating MIN and MAX: any NaN gives the canonical quiet NaN, -0 lies below +0 (spec/09 R160). -/
def laneMinMax (F : FFmt) (max : Bool) (a b : Nat) : Nat :=
  let x := F.value a
  let y := F.value b
  if x.isNan || y.isNan then F.qnan
  else if max then (if x.below y then b else a) else (if y.below x then b else a)

/-- Combine a lane with a partial result, floating ADD apart (spec/09 R158, R170). -/
def combineLane (op etype a b : Nat) : Nat :=
  let e := laneWidth etype
  match op with
  | 0 => (a + b) % 2 ^ e
  | 1 => if laneFloat etype then laneMinMax (laneFmt etype) false a b
         else if laneInt etype b < laneInt etype a then b else a
  | 2 => if laneFloat etype then laneMinMax (laneFmt etype) true a b
         else if laneInt etype a < laneInt etype b then b else a
  | 3 => a &&& b
  | 4 => a ||| b
  | 5 => a ^^^ b
  | _ => (a + b) % 2 ^ e

/-- A floating sum rounded to a format; an invalid sum is the canonical quiet NaN, an exact zero of opposite signs +0. -/
def sumTo (F : FFmt) (a b : FVal) : Nat := (F.add 0 a b).1

/-- The partial result of a lane after one more value; CNT counts it (spec/09 R158, R161, R166). -/
def partialNext (op etype v : Nat) (old : Option Nat) : Nat :=
  if isFloatAdd op etype then
    let x := (laneFmt etype).value v
    match old with
    | none => (fe96.ofVal 0 x).1
    | some a => sumTo fe96 (fe96.value a) x
  else if op = 6 then
    (match old with | none => 1 | some a => (a + 1) % 2 ^ laneWidth etype)
  else
    match old with
    | none => v
    | some a => combineLane op etype a v

/-- A location with the lanes of a pair combined in. -/
def BinEntry.combine (b : BinEntry) (lmask value : Nat) : BinEntry :=
  let e := laneWidth b.etype
  let step := fun (m : FMap Nat) i =>
    if bits lmask i 1 = 1 then FMap.set m i (partialNext b.op b.etype (bits value (e * i) e) (FMap.get? m i)) else m
  { b with lanes := (List.range (laneCount b.etype)).foldl step b.lanes }

/-- A pair has come by a bed. -/
def BinEntry.from_ (b : BinEntry) (x : BitVec 12 × Nat) : BinEntry := { b with srcs := if b.srcs.contains x then b.srcs else b.srcs ++ [x] }

/-- Slots an entry takes: four for a floating ADD (spec/09 R166). -/
def BinEntry.slots (b : BinEntry) : Nat := if isFloatAdd b.op b.etype then 4 else 1
/-- The lines that entries take in a spill area, four slots to a line (log 39). -/
def linesFor (es : FMap BinEntry) : Nat := ((es.map (fun kv => kv.2.slots)).sum + 3) / 4
/-- The bin slots that a run's entries still take: those of the lines not written yet (spec/09 R167). -/
def Run.held (r : Run) : Nat := (r.entries.map (fun kv => kv.2.slots)).sum - 4 * (linesFor r.entries - r.left)
/-- Free bin slots, reserve included (spec/09 R166, R178). -/
def Quad.freeSlot (q : Quad) : Nat := 114688 - (q.bins.map (fun kv => kv.2.slots)).sum - (q.runs.map Run.held).sum
/-- Free directory entries. -/
def Quad.freeDir (q : Quad) : Nat := 16384 - q.dir.length
/-- A pending entry of a location, in the bins or in a run. -/
def Quad.pendingAt (q : Quad) (loc : Nat) : Option BinEntry :=
  match FMap.get? q.bins loc with
  | some b => some b
  | none => (q.runs.filterMap (fun r => FMap.get? r.entries loc)).head?

/-- The sieve's answer to a pair keyed to a location, refused this many times before (spec/09 R164, R166, R168, R169). A location has one bin
entry, and its first accepted pair gives the spill bed that it will go to; that a bed's SPBED changes meanwhile, or that a bed with another
SPBED adds pairs to it, the spec does not speak of (DESIGN CHOICE, log 37). -/
def Quad.offer (q : Quad) (loc op etype spill : Nat) (asid : BitVec 12) (bed lmask value refused : Nat) : Quad × PairAnswer :=
  let g := loc / 4096
  let no := fun (q : Quad) => ({ q with svref := q.svref + 1 }, PairAnswer.refused)
  if lmask = 0 then ({ q with svacc := q.svacc + 1 }, .accepted)
  else if (match q.pendingAt loc with | some b => !(b.op == op && b.etype == etype) | none => false) then
    no { q with forceQ := (if q.forceQ.contains g then q.forceQ else q.forceQ ++ [g]) }
  else
    let fresh : BinEntry := ⟨op, etype, spill, [], [], false⟩
    let isNew := (FMap.get? q.bins loc).isNone
    if isNew && decide (q.freeSlot < fresh.slots + (if 8 ≤ refused then 0 else 256)) then no q
    else if !q.dir.contains g && decide (q.freeDir = 0) then
      match q.dir.head? with
      | some o => no { q with forceQ := (if q.forceQ.contains o then q.forceQ else q.forceQ ++ [o]) }
      | none => no q
    else
      let b := (FMap.getD q.bins loc fresh).from_ (asid, bed)
      ({ q with bins := FMap.set q.bins loc (b.combine lmask value), svacc := q.svacc + 1,
                dir := (if q.dir.contains g then q.dir else q.dir ++ [g]) }, .accepted)

/-! ### Apply() (spec/09 R170) -/

/-- The pending entries of a location, oldest run first, then the bin entry. -/
def Quad.entriesAt (q : Quad) (loc : Nat) : List BinEntry :=
  q.runs.filterMap (fun r => FMap.get? r.entries loc) ++ (FMap.get? q.bins loc).toList
/-- The locations of a granule with pending entries, ascending. -/
def Quad.locsOf (q : Quad) (g : Nat) : List Nat :=
  let ks := (q.runs.map (fun r => r.entries.map (·.1))).flatten ++ q.bins.map (·.1)
  ((ks.filter (fun k => k / 4096 == g)).foldl (fun m k => FMap.set m k ()) ([] : FMap Unit)).map (·.1)

/-- Lane i of memory at a location after the apply of its pending entries. -/
def applyLane (es : List BinEntry) (i m : Nat) : Nat :=
  match es.head? with
  | none => m
  | some t =>
    let rs := es.filterMap (fun b => FMap.get? b.lanes i)
    if rs.isEmpty then m
    else if isFloatAdd t.op t.etype then
      let F := laneFmt t.etype
      let acc := rs.tail.foldl (fun a r => sumTo fe96 (fe96.value a) (fe96.value r)) (rs.headD 0)
      sumTo F (F.value m) (fe96.value acc)
    else rs.foldl (fun a r => combineLane t.op t.etype a r) m

/-- The location's dword after the apply. -/
def applyWord (es : List BinEntry) (w : Nat) : Nat :=
  match es.head? with
  | none => w
  | some t =>
    let e := laneWidth t.etype
    (List.range (laneCount t.etype)).foldl (fun acc i => acc + applyLane es i (bits w (e * i) e) * 2 ^ (e * i)) 0

/-- The pending entries of a granule are gone; a run that no directory entry needs is free (spec/09 R168, R170). -/
def Quad.clearGranule (q : Quad) (g : Nat) : Quad :=
  { q with
    bins := q.bins.filter (fun kv => kv.1 / 4096 != g)
    runs := (q.runs.map (fun r => { r with entries := r.entries.filter (fun kv => kv.1 / 4096 != g) })).filter
      (fun r => !r.entries.isEmpty)
    dir := q.dir.filter (· != g)
    forceQ := q.forceQ.filter (· != g) }

/-- The line of memory that holds the entry of a location in a run: its entries lie by location, four slots to a line (log 39). -/
def Run.lineOf (r : Run) (loc : Nat) : Option Nat :=
  r.pas[((r.entries.filter (fun kv => decide (kv.1 < loc))).map (fun kv => kv.2.slots)).sum / 4]?
/-- The lines of memory that the entries of a granule are read back from (spec/09 R170, spec/07 R131). -/
def Quad.backLines (q : Quad) (g : Nat) : List Nat :=
  (q.runs.flatMap (fun r => if r.writing then [] else
    (r.entries.filter (fun kv => kv.1 / 4096 == g)).filterMap (fun kv => r.lineOf kv.1))).eraseDups
/-- The source of the error that the apply of a location meets: its line of memory, or an entry in the bins or in a run (spec/09 R179). -/
def State.applyErr (s : State) (qk loc : Nat) : Option Nat :=
  let q := s.quad qk
  if (q.entriesAt loc).isEmpty then none
  else
    match s.errAt (panelAddr (colKey (qk / 4) (loc / 2 ^ 32)) (loc % 2 ^ 32)) 8 with
    | some e => some e
    | none =>
      if (q.entriesAt loc).any (·.bad)
        || q.runs.any (fun r => (FMap.get? r.entries loc).isSome && !r.writing
             && (match r.lineOf loc with | some l => (s.errAt (l * 64) 64).isSome | none => false)) then some 4
      else none
/-- Apply one location: memory is written, or the pending pairs are dropped with a MemoryError where an error is uncorrectable (spec/09 R170,
R179). A location's key is column of the quadrant * 2^32 + offset. -/
def State.applyLoc (s : State) (qk loc : Nat) : State :=
  let key := colKey (qk / 4) (loc / 2 ^ 32)
  let pa := panelAddr key (loc % 2 ^ 32)
  match s.applyErr qk loc with
  | some src => s.logError (qk / 4) src true pa 0 0
  | none => { s with mem := s.mem.write pa 8 (applyWord ((s.quad qk).entriesAt loc) (s.mem.read pa 8)) }

/-- Why a granule is applied: for an access or a UFLUSH, by a forced apply, or before power or a site goes (spec/09 R178, R180, spec/03
R52). -/
inductive ApplyFor where
  | access | forced | retire
deriving DecidableEq, Repr

/-- The distinct lines of locations. -/
def linesOf (locs : List Nat) : List Nat := ((locs.foldl (fun m k => FMap.set m (k / 64) ()) ([] : FMap Unit))).map (·.1)

/-- A line of memory passes the vertical bus on path 4, and so the tile cache (spec/07 R131, spec/08 R139). -/
def State.lineByBus (s : State) (line : Nat) (write : Bool) : State := s.viaBus (line * 64 / 2 ^ 32) (line * 64 % 2 ^ 32) 64 write
/-- The locations of a granule whose apply meets an error, in the order of their applies. -/
def State.granuleErrs (s : State) (qk g : Nat) : List Nat :=
  if (s.quad qk).dir.contains g then ((s.quad qk).locsOf g).filter (fun l => (s.applyErr qk l).isSome) else []
/-- Apply every pending pair of a granule as one event (spec/09 R170); the runs are read back and the writes go through the tile cache. -/
def State.applyGranule (s : State) (qk g : Nat) (why : ApplyFor) : State :=
  let q := s.quad qk
  if !q.dir.contains g then s
  else
    let locs := q.locsOf g
    let s0 := locs.foldl (fun s l => s.applyLoc qk l) s
    let s1 := (q.backLines g).foldl (fun s l => s.lineByBus l false) s0
    let s2 := (linesOf locs).foldl (fun s l =>
      s.viaBus (colKey (qk / 4) (l / 2 ^ 26)) (l % 2 ^ 26 * 64) 64 true) s1
    let q2 := (s2.quad qk).clearGranule g
    s2.putQuad qk (match why with
      | .access => { q2 with svapply := q2.svapply + 1 }
      | .forced => { q2 with svforce := q2.svforce + 1 }
      | .retire => q2)

/-- Apply(a) for every granule that len bytes of a column touch. -/
def State.applyAt (s : State) (key off len : Nat) : State :=
  let first := off / 4096
  let n := (off + len - 1) / 4096 - first + 1
  (List.range n).foldl (fun s i => s.applyGranule (quadOfCol key) (key % 16 * 2 ^ 20 + first + i) .access) s

/-! ### Spills (spec/09 R167, R168) -/

/-- Is a forced apply under way (spec/09 R178, FORCING)? -/
def Quad.isForcing (q : Quad) : Bool := !q.forceQ.isEmpty || q.forcing != .none
/-- A spill is due: free slots below 16,384, no spill or forced apply under way. -/
def Quad.spillDue (q : Quad) : Bool := decide (q.freeSlot < 16384) && !q.spilling && !q.isForcing

/-- The spill beds of the bin entries, each once, ascending. -/
def Quad.spillBeds (q : Quad) : List Nat :=
  (q.bins.foldl (fun m kv => FMap.set m kv.2.spill ()) ([] : FMap Unit)).map (·.1)

/-- The bin entries that go into a spill bed's next run. -/
def Quad.nextRun (q : Quad) (spill : Nat) : FMap BinEntry := q.bins.filter (fun kv => kv.2.spill == spill)
/-- Is a line of memory, by panel physical address, held by a live run of the quadrant? -/
def Quad.runAt (q : Quad) (line : Nat) : Bool := q.runs.any (fun r => r.pas.contains line)

/-- Every bin entry goes into a run, one run for each spill bed, of which pas gives the lines; the directory stays, and a slot is free once its
entry is written (spec/09 R167). n numbers the runs. -/
def Quad.spill (q : Quad) (n : Nat) (pas : Nat → List Nat) : Quad :=
  let rs := (q.spillBeds.zipIdx n).map (fun b => (⟨b.2, b.1, q.nextRun b.1, true, pas b.1, linesFor (q.nextRun b.1)⟩ : Run))
  { q with runs := q.runs ++ rs, bins := [], spilling := true, svspill := q.svspill + rs.length }

/-- Has a granule entries in a run that is still being written (spec/09 R173)? -/
def Quad.writing (q : Quad) (g : Nat) : Bool := q.runs.any (fun r => r.writing && r.entries.any (fun kv => kv.1 / 4096 == g))

/-- The results of an entry become values without meaning (spec/09 R177, log 3). -/
def BinEntry.scramble (b : BinEntry) (n loc : Nat) : BinEntry :=
  { b with lanes := FMap.mapVals b.lanes (fun i _ =>
      (Config.freeWide (n * 2 ^ 70 + loc * 8 + i)).toNat % 2 ^ (if isFloatAdd b.op b.etype then 96 else laneWidth b.etype)) }
/-- The spill bed of a quadrant's sieve. -/
def State.spillBed (s : State) (qk spill : Nat) : Option Bed :=
  (s.tableKnown (qk / 4) (.ofNat 12 (spill / 256))).bind (fun t => FMap.get? t.beds (spill % 256))
/-- Does a bed's page table put a page of it at this place of the column? -/
def State.bedPage (s : State) (key off : Nat) (asid : BitVec 12) (i : Nat) (b : Bed) : Bool :=
  (List.range (b.maxHoff / 65536 + 1)).any (fun p =>
    match (s.walk key asid (cvaOf i (p * 65536))).2 with
    | .leaf e => (e.off + cvaOf i (p * 65536) % e.size) / 65536 == off / 65536
    | _ => false)
/-- Does a place of a column lie in a quadrant's spill area? -/
def State.inArea (s : State) (qk spill key off : Nat) : Bool :=
  match s.spillBed qk spill with
  | some b => s.bedPage key off (.ofNat 12 (spill / 256)) (spill % 256) b
  | none => false
/-- A write of len bytes by panel physical address: the values of every live run become values without meaning whose spill area it writes
into (spec/09 R177). -/
def State.overRuns (s : State) (pa len : Nat) : State :=
  let qk := quadOfCol (pa / 2 ^ 32)
  let q := s.quad qk
  let hit := fun (r : Run) => r.pas.any (fun l => decide (pa / 64 ≤ l) && decide (l ≤ (pa + len - 1) / 64))
    || s.inArea qk r.spill (pa / 2 ^ 32) (pa % 2 ^ 32) || s.inArea qk r.spill (pa / 2 ^ 32) ((pa + len - 1) % 2 ^ 32)
  if q.runs.any hit then
    s.bump.putQuad qk { q with runs := q.runs.map (fun r =>
      if hit r then { r with entries := FMap.mapVals r.entries (fun loc b => b.scramble s.fresh loc) } else r) }
  else s

end Sys2Proof.Machine
end

