-- ==== Sys2Proof/Machine/Strands.lean ====
section
/-! DEFINITION. Strands coming and going: parks (spec/06 R97), children (spec/06 R111, spec/18 R372), KILL and EXIT (spec/06
R114, spec/18 R381), taking a trap (spec/11 R205 to R210) and returning from one (spec/11 R211). -/

namespace Sys2Proof.Machine

/-- Is a bed of the table the spill bed of one of its update beds (spec/09 R167, R177)? -/
def BedTable.spills (t : BedTable) (index : Nat) : Bool :=
  t.beds.any (fun kv => kv.2.kind == .update && kv.2.spbed == index)

/-- Where an access through a bed goes (spec/07 R120, R137). -/
def State.targetBed (s : State) (h : BedHit) (spill : Bool) (fromTile : Nat) (va : Word) : Target :=
  let off := va.toNat - h.bed.base
  match h.bed.home off fromTile with
  | some (k, hoff) => .column k h.index hoff h.bed.kind spill
  | none =>
    if h.bed.kind == .host then
      .host h.bed.die h.bed.aper (aperBase (FMap.getD (s.die h.bed.die).apers h.bed.aper 0) + off)
    else .peer h.bed.die h.bed.peer h.bed.rasid (h.bed.rbase + off)

/-- Where an access of a strand through a bed goes. -/
def State.target (s : State) (st : Strand) (h : BedHit) (va : Word) : Target :=
  s.targetBed h (match s.tableFor st with | some t => t.spills h.index | none => false) st.loc.tile va

/-- The home of an address found by a table alone. -/
def State.targetOf (s : State) (t : BedTable) (fromTile : Nat) (va : Word) : Option Target :=
  (t.find va.toNat).map (fun h => s.targetBed h (t.spills h.index) fromTile va)

/-- The home key of a target, and how far it lies: 8 host, 9 peer (spec/08 R140). -/
def Target.home : Target → Option Nat
  | .column k _ _ _ _ => some k
  | _ => none
def Target.far : Target → Nat
  | .column _ _ _ _ _ => 0
  | .host _ _ _ => 8
  | .peer _ _ _ _ => 9

/-! ### Parking (spec/06 R97) -/

/-- The strand parks with a cause, its PC held; a strand already parked for that cause keeps its time. -/
def State.park (s : State) (st : Strand) (cause reg : Nat) : State :=
  let n := if st.status == .parked && st.pcause == cause then st.parkedFor else 0
  s.putStrand { st with status := .parked, pcause := cause, preg := reg, parkedFor := n }

/-- The strand waits in its slot for a descriptor of its bed cache (spec/07 R119). -/
def State.waitBed (s : State) (st : Strand) (va : Word) : State := s.putStrand { st with bedWait := some va }

/-! ### Children (spec/06 R111) -/

/-- Does a core qualify to receive a new strand (spec/05 R80), BUDGET and CMASK apart? -/
def State.coreTakes (s : State) (t core : Nat) : Bool :=
  let c := s.core (coreKey t core)
  let col := s.col (colKey t (coreCol core))
  decide (c.arrival.length < (s.freeSlots t core).length)
  && decide (c.arrival.length + c.reserved.length + 2 ≤ bits c.corectl.toNat 16 6)
  && col.refusals.isEmpty && !(s.tile t).pow.dispatchHold && s.imageFree (colKey t (coreCol core))

/-- Among qualifying cores of a column, the one with the most free non-urgent slots, ties to the lower number. -/
def State.pickCore (s : State) (t col : Nat) (ok : Nat → Bool) : Option Nat :=
  ((List.range 48).map (col * 48 + ·)).foldl (fun best c =>
    if ok c && s.coreTakes t c then
      match best with
      | none => some c
      | some b => if (s.freeSlots t b).length < (s.freeSlots t c).length then some c else best
    else best) none

/-- A strand starts acquired on the tile where it is created (spec/08 R149). -/
def State.bornAcquired (s : State) (st : Strand) : State :=
  let r := s.acquire st 7
  r.1.putStrand r.2

/-- A strand joins a core's arrival queue. -/
def State.enqueue (s : State) (k : Nat) (h : BitVec 64) : State :=
  let c := s.core k
  s.putCore k { c with arrival := c.arrival ++ [h] }
/-- A strand joins a core's urgent queue. -/
def State.enqueueUrgent (s : State) (k : Nat) (h : BitVec 64) : State :=
  let c := s.core k
  s.putCore k { c with urgent := c.urgent ++ [h] }

/-- Release a SPAWN's reserved child with these registers: into its own column's arrival queue, or as a migration to the named
home (spec/06 R111, spec/18 R372). core is the arrival core of a child without a named home. -/
def State.releaseChild (s : State) (p : Strand) (sid : Nat) (target : Word) (home : Option (Nat × Option Nat × BitVec 64)) (joinw : BitVec 64)
    (g : List Word) (core : Nat) : State :=
  let h : BitVec 64 := .ofNat 64 (p.job * 2 ^ 48 + sid)
  let loc : Place := { p.loc with core := (if home.isSome then p.loc.core else core), slot := 0 }
  let c := newStrand h target.toNat (gInit g) p.job p.asid p.flat joinw loc (s.freeImg p.colKey)
    (if home.isSome then .migrating else .fresh)
  let s1 := (s.countStrand p.colKey p.job 1 0).takeImg p.colKey c.img
  match home with
  | none => (s1.bornAcquired c).enqueue (coreKey loc.tile core) h
  | some (dest, cva, va) =>
    let c1 := { c with status := .inFlight, dest := dest, destCva := cva, destVa := va, rlim := p.coreKey }
    let s2 := s1.bornAcquired c1
    s2.sendFrom loc.tile (.migrate h dest ((s2.strand? h).getD c1).message)

/-! ### The end of a strand -/

/-- The bed table that finds a strand's join word: its tile's, or its job's where the tile does not hold one (spec/07 R119). -/
def State.joinTable (s : State) (st : Strand) : Option BedTable :=
  (s.tableFor st).or (if st.sup then none else (s.job? st.job).map (·.beds))
/-- The decrement of a strand's join word, sent on class 3; one that fails its checks as an atomic counts as a failed item of the job
(spec/06 R112, R114, spec/07 R123). -/
def State.sendDecrement (s : State) (st : Strand) : State :=
  if st.joinw = 0 then s
  else
    match (s.joinTable st).bind (fun t => (t.find st.joinw.toNat).map (fun h => (t, h))) with
    | none => s.recordStatus st.job 5
    | some (t, h) =>
      if (checkAt .atomic st.joinw 8 h).isSome then s.recordStatus st.job 5
      else
        let g := s.targetBed h (t.spills h.index) st.loc.tile st.joinw
        let s1 := s.addItem ⟨st.handle, st.job, .posted, g.home, g.far, false, 0⟩
        s1.sendFrom st.loc.tile (.joinDecr st.job st.asid st.joinw g s.fresh)

/-- A standing reservation of a killed parent is released with zero registers (spec/18 R372). -/
def State.releaseOrphan (s : State) (st : Strand) : State :=
  match st.phase with
  | .spawn sid target home joinw _ =>
    s.releaseChild { st with phase := .none } sid target home joinw []
      ((s.pickCore st.loc.tile st.loc.col (fun _ => true)).getD (st.loc.col * 48))
  | _ => s

/-- End a strand as KILL does (spec/18 R381): the image is freed, owed fills will be discarded, its items are still performed,
a nonzero join word is decremented at once. -/
def State.kill (s : State) (st : Strand) : State :=
  ((s.releaseOrphan st).endStrand st).sendDecrement st

/-- End a trapped strand named by its handle, if it is Trapped still. -/
def State.killTrapped (s : State) (h : BitVec 64) : State :=
  match s.strand? h with
  | some v => if v.status == .trapped then s.kill v else s
  | none => s

/-- A strand is lost on its way (spec/02 R38, spec/11 R224): its lead gardener counts the strands of its job anew, and knows the
handle where the migration was outstanding at a dock (spec/11 R225). -/
def State.loseStrand (s : State) (h : BitVec 64) (known : Bool) : State :=
  match s.strand? h with
  | none => s
  | some st =>
    let s1 := (s.withdraw st).eraseStrand h
    match s1.job? st.job with
    | some j => s1.putJob { j with lostKnown := if known then j.lostKnown ++ [h] else j.lostKnown, asked := true }
    | none => s1

/-! ### Taking a trap (spec/11 R205 to R210) -/

/-- Does a cause go to the supervisor handler (spec/11 R205)? A CuttingReplay goes by its inner cause. -/
def toSupervisor (cause : Nat) (g4 : Word) : Bool :=
  let c := if cause = 10 then g4.toNat % 256 else cause
  c == 6 || c == 7 || c == 9

/-- Fetch the supervisor bed table at the first supervisor handler after a write of SUPBEDT, and check it with the whole grid
in place of a plot (spec/11 R209). -/
def State.fetchSup (s : State) (t : Nat) : State :=
  let tl := s.tile t
  if tl.supValid then s
  else
    let n := bits tl.supbedt.toNat 52 9
    let pa := bits tl.supbedt.toNat 6 36 * 64
    let tab :=
      if n = 0 || 256 < n || !s.readable pa (64 * n) then none
      else
        match bedsOf (s.descriptors pa n) with
        | some l => if s.tableOk l s.tileLive then some (tableOf n pa l) else none
        | none => none
    s.putTile t { tl with supTable := tab, supValid := true }

/-- A supervisor handler is wanted: with SUPVEC.EN the table is at hand (spec/11 R208, R209). -/
def State.supReady (s : State) (t : Nat) : State := if bits (s.tile t).supvec.toNat 63 1 = 0 then s else s.fetchSup t

/-- Create a handler in the urgent queue of a core (spec/11 R210). victim is the handle it receives in g3; ofTask says that it is
a TaskFault's handler, which has no trapped strand of its own (spec/11 R211). -/
def State.createHandler (s : State) (loc : Place) (sup : Bool) (pc : Nat) (g : List Word) (job : Nat) (asid : BitVec 12)
    (flat : Nat) (victim : BitVec 64) (ofTask : Bool) : State :=
  let key := colKey loc.tile loc.col
  let h := s.nextHandle key job
  let st := newStrand h pc (gInit g) job asid flat 0 { loc with slot := 15 } (s.freeImg key) .urgent
  let st1 := { st with ss := (if sup then 0x40000 else 0), hkind := (if sup then .sup else .job), victim := victim,
                       ofTask := ofTask, bornCol := key }
  ((((s.takeSid key).countStrand key job 1 0).takeImg key st.img).bornAcquired st1).enqueueUrgent (coreKey loc.tile loc.core) h

/-- No handler can be created: the trapped strand is ended as by KILL and status 3 is recorded; on the supervisor route an
error-log entry with source 15 is written (spec/11 R208). -/
def State.unhandled (s : State) (v : Strand) (log : Bool) : State :=
  let s1 := (s.kill v).recordStatus v.job 3
  if log then s1.logError v.loc.tile 15 true 0 v.handle 0 else s1

/-- A trap raised by a supervisor handler ends that handler and its own trapped strand, if it has one (spec/11 R208, R211). -/
def State.unhandledSup (s : State) (v : Strand) : State :=
  if v.ofTask then s.unhandled v true else (s.unhandled v true).killTrapped v.victim

/-- Create the handler that a strand Trapped still waits for, if the urgent queue has room (spec/06 R96, spec/11 R208, R210). -/
def State.deliver (s : State) (h : BitVec 64) : State :=
  match s.strand? h with
  | none => s
  | some v =>
    match v.pending with
    | none => s
    | some t =>
      let room := decide ((s.core v.coreKey).urgent.length < 4)
      let g := [BitVec.ofNat 64 t.cause, t.g1, t.g2, v.handle, t.g4]
      let done := s.putStrand { v with pending := none }
      if v.status != .trapped then done
      else if v.hkind == .sup then s.unhandledSup v
      else if v.hkind == .job || toSupervisor t.cause t.g4 then
        let s1 := s.supReady v.loc.tile
        let tl := s1.tile v.loc.tile
        if bits tl.supvec.toNat 63 1 = 0 || tl.supTable.isNone then s1.unhandled v true
        else if room then
          (s1.putStrand { v with pending := none }).createHandler v.loc true (bits tl.supvec.toNat 1 55 * 2) g v.job
            tl.supasid v.flat v.handle false
        else s1
      else
        match s.job? v.job with
        | none => s.unhandled v false
        | some j =>
          if j.lrec.handler = 0 then s.unhandled v false
          else if room then done.createHandler v.loc false j.lrec.handler g v.job (.ofNat 12 j.lrec.asid) v.flat v.handle false
          else s

/-- Create the handler of a TaskFault, or record status 3 where there is none; with no room in the urgent queue it waits (spec/11
R208, R210, R212). -/
def State.reportFault (s : State) (t : Nat) (r : TaskReport) : State :=
  let g := [12, .ofNat 64 r.raddr.toNat, .ofNat 64 r.faddr.toNat, r.poster, .ofNat 64 (r.tseq * 2 ^ 32 + r.code * 256 + r.kind)]
  let room := decide ((s.core (coreKey t r.core)).urgent.length < 4)
  let loc : Place := ⟨t, coreCol r.core, r.core, 15⟩
  let wait := fun (s : State) => s.putTile t { s.tile t with taskFaults := (s.tile t).taskFaults ++ [r] }
  if r.code = 2 || r.code = 5 || r.code = 12 then
    let s1 := s.supReady t
    let tl := s1.tile t
    if bits tl.supvec.toNat 63 1 = 0 || tl.supTable.isNone then (s1.recordStatus r.job 3).logError t 15 true 0 0 r.tseq
    else if room then
      s1.createHandler loc true (bits tl.supvec.toNat 1 55 * 2) g r.job tl.supasid r.flat r.poster true
    else wait s1
  else
    match s.job? r.job with
    | none => s
    | some j =>
      if j.lrec.handler = 0 then s.recordStatus r.job 3
      else if room then s.createHandler loc false j.lrec.handler g r.job (.ofNat 12 j.lrec.asid) r.flat r.poster true
      else wait s
/-- The TaskFaults that wait for room in the urgent queue of a core. -/
def State.deliverFaults (s : State) (t core : Nat) : State :=
  let l := (s.tile t).taskFaults.filter (fun r => r.core == core)
  l.foldl (fun s r => s.reportFault t r)
    (s.putTile t { s.tile t with taskFaults := (s.tile t).taskFaults.filter (fun r => r.core != core) })

/-- What a trap leaves of a phase: a SPAWN keeps its reservation, which a KILL releases and a return takes up again (spec/18 R372),
unless the trap is the failure of its increment. -/
def Phase.kept : Phase → Phase
  | .spawn _ _ _ _ (.failed _ _) => .none
  | .spawn sid target home joinw incr => .spawn sid target home joinw incr
  | _ => .none

/-- Take a trap at the instruction at PC: the strand becomes Trapped with PCAUSE 7, its slot is free, its image goes to the
context store, and its handler is created (spec/11 R206, R207, R210). next is what its PC becomes. -/
def State.trapAt (s : State) (st : Strand) (t : Trip) (next : BitVec 56) : State :=
  let v := s.storeImage { st with status := .trapped, pcause := 7, phase := st.phase.kept, regrow := none, bedWait := none, wait := .none, pc := next,
                                  pending := some ⟨t.cause, st.pc.zeroExtend 64, t.g2, t.g4⟩ }
  ((s.writeImg st.colKey st.img).putStrand v).deliver st.handle

/-- Take a precise trap: PC names the faulting instruction. -/
def State.trap (s : State) (st : Strand) (t : Trip) : State := s.trapAt st t st.pc

/-- BOUNCE and the registers as they were before a migration that came to nothing: the access has no effect on them (spec/11 R206). -/
def Strand.restored (st : Strand) : Strand :=
  match st.before with
  | some (b, c) => { st with bounce := b, ctl := c, before := none }
  | none => st

/-! ### Leaving a handler (spec/11 R211) -/

/-- The strand named goes to its dock's resume list (spec/06 R98, R102). -/
def State.toResume (s : State) (v : Strand) : State :=
  let c := s.col v.colKey
  (s.putStrand { v with status := .evicted, pcause := 0, cls := .resumed, pending := none }).putCol v.colKey
    { c with resume := c.resume ++ [v.handle] }

/-- Is a job suspended or being suspended (spec/11 R218)? -/
def State.jobSuspended (s : State) (job : Nat) : Bool :=
  match s.job? job with
  | some j => j.state == .suspending || j.state == .suspended
  | none => false

/-- Return from a trap: the trapped strand goes on the resume list, or is Suspended under a suspended job, which an urgent one never is (spec/06
R96); the handler ends in the same issue (spec/11 R211). -/
def State.resume (s : State) (handler v : Strand) : State :=
  let s1 := if s.jobSuspended v.job && !v.urgent then s.putStrand { v with status := .suspended, pcause := 0, pending := none } else s.toResume v
  s1.endStrand handler

/-- The handler kills the strand: from a supervisor handler status 3 is recorded (spec/11 R211). -/
def State.killBy (s : State) (handler v : Strand) : State :=
  let s1 := (s.kill v).endStrand handler
  if handler.hkind == .sup then s1.recordStatus v.job 3 else s1

/-- May this strand name that handle (spec/18 R362)? The strand named, if so. -/
def State.mayName (s : State) (st : Strand) (h : Word) : Option Strand :=
  match s.strand? h with
  | none => none
  | some v =>
    if v.status == .trapped &&
      (match st.hkind with
       | .sup => v.loc.tile == st.loc.tile
       | .job => v.handle == st.victim && st.colKey == st.bornCol
       | .none => false) then some v else none

/-- The trap of a handle that may not be named (spec/18 R362). -/
def handleTrip (h : Word) : Trip := ⟨7, h, 0⟩

end Sys2Proof.Machine
end

