-- ==== Sys2Proof/Machine/Access.lean ====
section
/-! DEFINITION. Accesses at their home: reads and writes in home order with their apply, translation, scratch bound and errors
(spec/07 R122, R135, spec/09 R171, R172, spec/11 R222); the line buffer and the rake buffer (spec/07 R129, R136, spec/08 R149);
requests to other homes (spec/08 R145, spec/16 R320, R324); accesses by panel physical address (spec/02 R36, spec/04 R56). -/

namespace Sys2Proof.Machine

/-- What an access at a home answers: a value with the translated offset (none in scratch), or a trap's cause with g4. -/
inductive HomeRes where
  | ok (v : Nat) (off : Option Nat)
  | trip (cause g4 : Nat)
deriving DecidableEq, Repr

/-- Who makes an access: a core by its number, or anyone else through the vertical bus. handle and tseq go into the error log; quiet: the
cache has seen the line of this access already, in the burst it belongs to (spec/23 R407). -/
structure Party where
  core : Option Nat
  handle : BitVec 64
  tseq : Nat
  quiet : Bool
deriving DecidableEq, Repr

/-- A byte's key in the SRAM of a quadrant (spec/07 R135). -/
def sramKey (qk way off : Nat) : Nat := (qk * 16 + way) * 2 ^ 20 + off % 2 ^ 20
/-- The key of a scratch offset: way 16 - SCRW + o div 2^20 (spec/07 R135). -/
def Quad.scratchKey (q : Quad) (qk o : Nat) : Nat := sramKey qk (16 - q.scrw + o / 2 ^ 20) o
/-- Uncorrectable lines of SRAM stand in badLines above those of DRAM. -/
def sramLine (k : Nat) : Nat := 2 ^ 36 + k / 64

/-- Bytes of no meaning: what a read of a spill area returns (spec/09 R177, log 3). -/
def State.noMeaning (s : State) (len : Nat) : Nat := leValue ((List.range len).map (fun i => Config.freeByte (s.fresh * 64 + i)))

/-- An uncorrectable error met by an access: the log entry and DataLoss's g4 (spec/11 R220 to R222). -/
def State.loss (s : State) (tile src pa : Nat) (w : Party) : State × HomeRes :=
  ((s.logError tile src true pa w.handle w.tseq), .trip 9 ((s.tile tile).elogcnt * 2 ^ 32 + src))

/-- The tile cache sees an access: a core's own direct one may bypass it. -/
def State.throughCache (s : State) (key off len : Nat) (write : Bool) (w : Party) : State :=
  match w.core with
  | some c => s.fromCore key off len c write
  | none => if w.quiet then (if write then s.dirty key off else s) else s.viaBus key off len write

/-! ### Accesses that wait at the port (spec/09 R173, spec/11 R226) -/

/-- Does an access to len bytes of a column wait at the port: the column is under repair, or a granule of it has entries in a run that is
still being written? -/
def State.waitsAt (s : State) (key off len : Nat) : Bool :=
  let q := s.quad (quadOfCol key)
  let first := off / 4096
  s.tileUp (key / 16) && ((s.col key).repair.isSome
  || q.spilling && (List.range ((off + len - 1) / 4096 - first + 1)).any (fun i => q.writing (key % 16 * 2 ^ 20 + first + i)))
/-- The same for an access by home offset. -/
def State.waitsHome (s : State) (key bed hoff : Nat) (kind : BedKind) (asid : BitVec 12) (len acc : Nat) : Bool :=
  s.tileUp (key / 16) && ((s.col key).repair.isSome
  || kind != .scratch && (s.quad (quadOfCol key)).spilling
      && (match (s.translate key asid (cvaOf bed hoff) acc).2 with | .ok off => s.waitsAt key off len | .trip _ _ => false))
/-- The port mask of a peer's entry (spec/02 R39, R40); a die that has not booted has no ports (spec/03 R41). -/
def State.peerMask (s : State) (die index : Nat) : BitVec 40 :=
  if s.dieWorks die then BitVec.ofNat 40 (bits (FMap.getD (s.die die).peers index 0).toNat 0 40) else 0
/-- The ports of a peer's mask that can send: Up, and not paused by flow control (spec/02 R39). -/
def State.peerPorts (s : State) (die index : Nat) : List Nat :=
  (List.range 40).filter (fun p => (s.peerMask die index).getLsbD p && (FMap.getD (s.die die).scaleUp p ⟨0, 0, 0⟩).lstate == 2)
/-- The same for an access to a target: one for a peer waits while no port of its mask can send. -/
def State.waitsFor (s : State) (g : Target) (asid : BitVec 12) (len acc : Nat) : Bool :=
  match g with
  | .column key bed hoff kind _ => s.waitsHome key bed hoff kind asid len acc
  | .peer die index _ _ => s.peerMask die index != 0 && (s.peerPorts die index).isEmpty
  | .host _ _ _ => false

/-- The error that the applies of an access to len bytes meet at a location that it touches, if any: its source, and the number of the entry
that the apply writes in the error log (spec/09 R179). -/
def State.applyLost (s : State) (key off len : Nat) : Option (Nat × Nat) :=
  let qk := quadOfCol key
  let base := key % 16 * 2 ^ 20 + off / 4096
  let errs := (List.range ((off + len - 1) / 4096 - off / 4096 + 1)).flatMap (fun i => s.granuleErrs qk (base + i))
  let loc := fun (i : Nat) => key % 16 * 2 ^ 32 + (off / 8 + i) * 8
  ((List.range ((off + len - 1) / 8 - off / 8 + 1)).find? (fun i => (s.applyErr qk (loc i)).isSome)).bind (fun i =>
    (s.applyErr qk (loc i)).map (fun src => (src, ((s.tile (key / 16)).elogcnt + errs.idxOf (loc i)) % 2 ^ 32)))
/-- An entry of the error log names the strand or task of the access that met the error. -/
def State.blame (s : State) (tile n : Nat) (w : Party) : State :=
  let tl := s.tile tile
  match FMap.get? tl.elog (n % 64) with
  | some e => s.putTile tile { tl with elog := FMap.set tl.elog (n % 64) { e with handle := w.handle, tseq := w.tseq } }
  | none => s

/-- Read len bytes at a home (spec/07 R122, R135, spec/09 R171). -/
def State.homeRead (s : State) (key bed hoff : Nat) (kind : BedKind) (spill : Bool) (asid : BitVec 12) (len acc : Nat)
    (w : Party) : State × HomeRes :=
  if kind == .scratch then
    let qk := quadOfCol key
    let q := s.quad qk
    if q.scrw * 2 ^ 20 ≤ hoff then (s, .trip 8 hoff)
    else
      let k := q.scratchKey qk hoff
      if s.badLines.contains (sramLine k) then s.loss (key / 16) 2 0 w else (s, .ok (s.sram.read k len) none)
  else
    match s.translateFor key asid (cvaOf bed hoff) acc w.handle w.tseq with
    | (s1, .trip c g4) => (s1, .trip c g4)
    | (s1, .ok off) =>
      let lost := if kind == .update then s1.applyLost key off len else none
      let s2 := if kind == .update then s1.applyAt key off len else s1
      let s3 := s2.throughCache key off len false w
      match lost, s3.errAt (panelAddr key off) len with
      | some e, _ => (s3.blame (key / 16) e.2 w, .trip 9 (e.2 * 2 ^ 32 + e.1))
      | none, some src => s3.loss (key / 16) src (panelAddr key off) w
      | none, none =>
      if spill then (s3.bump, .ok (s3.noMeaning len) (some off))
      else (s3, .ok (s3.mem.read (panelAddr key off) len) (some off))

/-- Write bytes at a home: on an update bed the granule is applied first, as one event (spec/09 R172). -/
def State.homeWrite (s : State) (key bed hoff : Nat) (kind : BedKind) (_ : Bool) (asid : BitVec 12) (data : List Byte)
    (w : Party) : State × HomeRes :=
  if kind == .scratch then
    let qk := quadOfCol key
    let q := s.quad qk
    if q.scrw * 2 ^ 20 ≤ hoff then (s, .trip 8 hoff)
    else
      let k := q.scratchKey qk hoff
      ({ s with sram := s.sram.putBytes k data, badLines := s.badLines.filter (· != sramLine k) }, .ok 0 none)
  else
    match s.translateFor key asid (cvaOf bed hoff) 1 w.handle w.tseq with
    | (s1, .trip c g4) => (s1, .trip c g4)
    | (s1, .ok off) =>
      let s2 := if kind == .update then s1.applyAt key off data.length else s1
      let s3 := s2.throughCache key off data.length true w
      let pa := panelAddr key off
      if (s3.col key).busBad then s3.loss (key / 16) 9 pa w
      else
        let s4 := s3.overRuns pa data.length
        (({ s4 with mem := s4.mem.putBytes pa data }).heal pa data.length, .ok 0 (some off))

/-- Read and, where f gives a value, write 8 bytes at a home as one event (spec/16 R327). -/
def State.homeRmw (s : State) (key bed hoff : Nat) (kind : BedKind) (spill : Bool) (asid : BitVec 12) (f : Nat → Option Nat)
    (w : Party) : State × HomeRes :=
  if kind == .scratch then
    match s.homeRead key bed hoff kind spill asid 8 1 w with
    | (s1, .ok v off) =>
      (match f v with
       | some x => ((s1.homeWrite key bed hoff kind spill asid (leBytes x 8) w).1, .ok v off)
       | none => (s1, .ok v off))
    | r => r
  else
    match s.homeRead key bed hoff kind spill asid 8 1 w with
    | (s1, .ok v (some off)) =>
      (match f v with
       | some x =>
         let pa := panelAddr key off
         let s2 := s1.overRuns pa 8
         ((({ s2 with mem := s2.mem.write pa 8 x }).heal pa 8).dirty key off, .ok v (some off))
       | none => (s1, .ok v (some off)))
    | r => r

/-! ### Snapshots (spec/08 R149) -/

/-- The bytes of an access out of a line's 64. -/
def fromLine (data va len : Nat) : Nat := data / 2 ^ (8 * (va % 64)) % 2 ^ (8 * len)
/-- A snapshot that a strand may hit: same space and line, recorded at its SG or later. -/
def hitsLine (st : Strand) (va : Nat) (x : Snapshot) : Bool :=
  x.asid == st.asid && x.line == va / 64 && decide (st.sg ≤ x.ag) && !x.bad
def State.lineHit (s : State) (st : Strand) (va len : Nat) : Option Nat :=
  ((s.core st.coreKey).lineBuf.find? (hitsLine st va)).map (fun x => fromLine x.data va len)
def State.rakeHit (s : State) (st : Strand) (va len : Nat) : Option Nat :=
  ((s.col st.colKey).rakeBuf.find? (hitsLine st va)).map (fun x => fromLine x.data va len)
/-- The instruction buffer's parcel at an address. -/
def State.instrHit (s : State) (st : Strand) (va : Nat) : Option Nat :=
  ((s.core st.coreKey).instrBuf.find? (hitsLine st va)).map (fun x => fromLine x.data va 2)
/-- A line enters a buffer: one of the same space and line is replaced, and past the capacity the line filled least recently
goes. -/
def pushLine (cap : Nat) (l : List Snapshot) (x : Snapshot) : List Snapshot :=
  let r := l.filter (fun y => !(y.asid == x.asid && y.line == x.line)) ++ [x]
  r.drop (r.length - cap)
/-- A line of a buffer that a strand would hit but for its parity error. -/
def spoilt (st : Strand) (va : Nat) (x : Snapshot) : Bool := x.bad && hitsLine st va { x with bad := false }
/-- A strand meets a line with a parity error: it is invalidated, to be fetched again, and counted as corrected (spec/11 R220, source 7). -/
def State.scrubLine (s : State) (st : Strand) (va : Nat) : State :=
  let c := s.core st.coreKey
  if c.lineBuf.any (spoilt st va) then
    (s.putCore st.coreKey { c with lineBuf := c.lineBuf.filter (fun x => !spoilt st va x) }).logError st.loc.tile 7 false 0 st.handle 0
  else s
/-- The same in the instruction buffer. -/
def State.scrubInstr (s : State) (st : Strand) (va : Nat) : State :=
  let c := s.core st.coreKey
  if c.instrBuf.any (spoilt st va) then
    (s.putCore st.coreKey { c with instrBuf := c.instrBuf.filter (fun x => !spoilt st va x) }).logError st.loc.tile 7 false 0 st.handle 0
  else s
/-- The same in the rake buffer. -/
def State.scrubRake (s : State) (st : Strand) (va : Nat) : State :=
  let c := s.col st.colKey
  if c.rakeBuf.any (spoilt st va) then
    (s.putCol st.colKey { c with rakeBuf := c.rakeBuf.filter (fun x => !spoilt st va x) }).logError st.loc.tile 7 false 0 st.handle 0
  else s
/-- A store, atomic or posted store invalidates the line in the buffer of the core that performs it (spec/07 R129). -/
def State.dropLine (s : State) (st : Strand) (va : Nat) : State :=
  let c := s.core st.coreKey
  s.putCore st.coreKey { c with lineBuf := c.lineBuf.filter (fun y => !(y.asid == st.asid && y.line == va / 64)) }

/-- Allocate a line after a load at home: not for update or scratch beds, nor for a bank group of another core (spec/07
R129). -/
def State.allocLine (s : State) (st : Strand) (key : Nat) (kind : BedKind) (va : Nat) (off : Option Nat) : State :=
  match off with
  | none => s
  | some o =>
    if kind == .update || kind == .scratch || ownerCore key o != st.loc.core then s
    else
      let c := s.core st.coreKey
      let x : Snapshot := ⟨st.asid, va / 64, (s.tile st.loc.tile).ag, s.mem.read (panelAddr key (o / 64 * 64)) 64, false⟩
      s.putCore st.coreKey { c with lineBuf := pushLine 256 c.lineBuf x }

/-! ### Requests (spec/08 R145, R146) -/

/-- A strand as the party of an access from its own core. -/
def Strand.party (st : Strand) : Party := ⟨some st.loc.core, st.handle, 0, false⟩
/-- A party that reaches the home by the bus. -/
def busParty (h : BitVec 64) : Party := ⟨none, h, 0, false⟩

/-- Start an item of a strand towards a target and send its message. -/
def State.sendItem (s : State) (st : Strand) (cls : ItemClass) (g : Target) (m : Nat → Msg) : State :=
  (s.addItem ⟨st.handle, st.job, cls, g.home, g.far, false, 0⟩).sendFrom st.loc.tile (m s.fresh)
/-- A posted store on class 3 (spec/16 R324). -/
def State.post (s : State) (st : Strand) (va : Word) (g : Target) (data : List Byte) : State :=
  s.sendItem st .posted g (fun id => .posted (.bytes data) st.asid va g id)
/-- A remote read on class 5 into a register, which the caller has set Awaiting (spec/16 R320). -/
def State.requestRead (s : State) (st : Strand) (va : Word) (g : Target) (reg tag size : Nat) (signed : Bool)
    (acq : Option (BitVec 4)) : State :=
  s.sendItem st .read g (fun id => .read (.reg st.handle reg tag size signed acq) st.asid va size g id)

/-- The low len bytes of a value sign-extended or zero-extended to 64 bits. -/
def extend (signed : Bool) (size v : Nat) : Nat :=
  let m := v % 2 ^ (8 * size)
  if signed && decide (2 ^ (8 * size - 1) ≤ m) then (m + 2 ^ 64 - 2 ^ (8 * size)) % 2 ^ 64 else m
/-- What a load of size bytes puts into its register: 32 bytes whole, others extended. -/
def loadValue (signed : Bool) (size v : Nat) : Nat := if size = 32 then v % 2 ^ 256 else extend signed size v

/-! ### Panel physical addresses (spec/02 R36) -/

/-- Does a table of the tile put a page of a spill bed at this place of the column (spec/09 R177)? -/
def State.spillPage (s : State) (key off : Nat) (asid : BitVec 12) (t : BedTable) : Bool :=
  t.beds.any (fun kv => t.spills kv.1 && s.bedPage key off asid kv.1 kv.2)
/-- Does a panel physical address lie in a spill area, or in a live run (spec/09 R177)? -/
def State.inSpillArea (s : State) (pa : Nat) : Bool :=
  let key := pa / 2 ^ 32
  let tl := s.tile (key / 16)
  (s.quad (quadOfCol key)).runAt (pa / 64)
  || tl.bedTables.any (fun kv => s.spillPage key (pa % 2 ^ 32) (.ofNat 12 kv.1) kv.2)
  || (match tl.supTable with | some t => s.spillPage key (pa % 2 ^ 32) tl.supasid t | none => false)
/-- Does an access by panel physical address wait at the port? -/
def State.waitsPhys (s : State) (pa len : Nat) : Bool := s.paOk pa len && s.waitsAt (pa / 2 ^ 32) (pa % 2 ^ 32) len

/-- Read by panel physical address: pending pairs are applied first, an uncorrectable line answers nothing (spec/04 R56, spec/09
R171). quiet: the cache has seen the line in this access. -/
def State.physReadIn (s : State) (pa len : Nat) (quiet : Bool) : State × Option Nat :=
  if !s.paOk pa len then (s, none)
  else
    let key := pa / 2 ^ 32
    let off := pa % 2 ^ 32
    let lost := s.applyLost key off len
    let s0 := s.applyAt key off len
    let s1 := if quiet then s0 else s0.viaBus key off len false
    match lost, s1.errAt pa len with
    | some _, _ => (s1, none)
    | none, some src => (s1.logError (key / 16) src true pa 0 0, none)
    | none, none => if s.inSpillArea pa then (s1.bump, some (s1.noMeaning len)) else (s1, some (s1.mem.read pa len))
def State.physRead (s : State) (pa len : Nat) : State × Option Nat := s.physReadIn pa len false
/-- Write by panel physical address (spec/04 R56, spec/09 R172); whether it was written. -/
def State.physWriteIn (s : State) (pa : Nat) (data : List Byte) (quiet : Bool) : State × Bool :=
  if !s.paOk pa data.length then (s, false)
  else
    let key := pa / 2 ^ 32
    let off := pa % 2 ^ 32
    let s0 := s.applyAt key off data.length
    let s1 := if quiet then s0 else s0.viaBus key off data.length true
    if (s1.col key).busBad then (s1.logError (key / 16) 9 true pa 0 0, false)
    else
      let s2 := s1.overRuns pa data.length
      (({ s2 with mem := s2.mem.putBytes pa data }).heal pa data.length, true)
def State.physWrite (s : State) (pa : Nat) (data : List Byte) : State × Bool := s.physWriteIn pa data false

/-- Does a panel physical address lie in a context store (spec/06 R99)? -/
def inContextStore (pa : Nat) : Bool := decide (0xB8000000 ≤ pa % 2 ^ 32)
/-- Bytes in aligned 8-byte units, each with its address (spec/04 R56). -/
def units (pa len : Nat) : List (Nat × Nat) :=
  (List.range ((pa + len + 7) / 8 - pa / 8)).map (fun i =>
    let lo := max pa ((pa / 8 + i) * 8)
    (lo, min (pa + len) ((pa / 8 + i) * 8 + 8) - lo))
/-- A piece of a host-window write is discarded, with AddressError (spec/02 R36, spec/04 R55, spec/06 R99). -/
def State.winDiscard (s : State) (port pa : Nat) : State :=
  (s.putPort port { s.port port with winFail := true }).raiseFrom (port / 2) 0x30 (pa / 2 ^ 36 % 64) pa
/-- A unit of a host-window write at its home: written, or discarded. -/
def State.winStore (s : State) (port pa : Nat) (data : List Byte) (quiet : Bool) : State :=
  match s.physWriteIn pa data quiet with
  | (s1, true) => s1
  | (s1, false) => s1.winDiscard port pa
/-- Some unit of a piece is written at its home: which one is open, for the units of a request are not ordered (spec/04 R56). A piece for
an address that cannot be written is discarded whole. -/
def State.winPiece (s : State) (msg port pa len : Nat) (left : List (Nat × List Byte)) : State :=
  if inContextStore pa || !s.paOk pa len then (s.unsend msg).winDiscard port pa
  else
    match left[(Config.freeWord s.fresh).toNat % left.length]? with
    | none => s.unsend msg
    | some u =>
      let rest := left.erase u
      let s1 := s.bump.winStore port u.1 u.2 (decide (left.length < (units pa len).length))
      if rest.isEmpty then s1.unsend msg else { s1 with msgs := FMap.set s1.msgs msg (.winWrite port pa len rest) }

end Sys2Proof.Machine
end

