-- ==== Sys2Proof/Machine/Migrate.lean ====
section
/-! DEFINITION. Migration: bouncing and pinning (spec/06 R109), departure (R104), arrival, acceptance and refusal (R104, R106),
the grant of a slot (spec/05 R82), eviction (spec/06 R98), and when a parked strand's cause is clear (R97, spec/08 R147). -/

namespace Sys2Proof.Machine

/-! ### Waits (spec/08 R147, R148, R151, spec/18 R365, R368) -/

/-- The class limits of WAITC: a limit of 0xFFF is none (spec/18 R365). -/
def waitcClasses : List (ItemClass × Nat) := [(.posted, 0), (.update, 12), (.copy, 24), (.task, 36), (.rake, 48)]
/-- Is an item one that a wait covers, for a strand in column here of a job? -/
def State.waitCovers (s : State) (w : Wait) (here job : Nat) (it : Item) : Bool :=
  match w with
  | .items near far scope =>
    (near.contains it.cls && s.covers scope here job it.home it.far) || far.contains it.cls
  | .paths p scope =>
    decide (0 < scope) &&
    ((bits p 0 1 == 1 && (it.cls == .posted || it.cls == .read) && s.covers scope here job it.home it.far)
      || (bits p 1 1 == 1 && it.cls == .copy) || (bits p 2 1 == 1 && it.cls == .task)
      || (bits p 3 1 == 1 && it.cls == .rake) || (bits p 4 1 == 1 && it.cls == .update)
      || (bits p 5 1 == 1 && it.cls == .posted && it.far == 8 && decide (8 ≤ scope)))
  | .bed b => it.cls == .update && it.group == b
  | .counts x0 => waitcClasses.any (fun c => it.cls == c.1 && bits x0.toNat c.2 12 != 0xFFF)
  | .rect r =>
    (it.cls == .posted || it.cls == .update) &&
    (match it.home with
     | some k => inRect (k / 16) (bits r.toNat 0 3) (bits r.toNat 3 3) (bits r.toNat 6 4) (bits r.toNat 10 4)
     | none => false)
  | _ => false

/-- The rake fetches of a column still out, issued before an identifier (spec/16 R339). -/
def State.rakeOutBefore (s : State) (key bound : Nat) : Bool :=
  s.msgs.any (fun kv => decide (kv.1 < bound) && match kv.2 with 
    | .rakeFetch c _ _ _ _ pf => c == key && !pf
    | .rakeData c _ _ _ _ => c == key
    | _ => false)

/-- Is a strand's cause-5 wait over? -/
def State.waitOver (s : State) (st : Strand) : Bool :=
  match st.wait with
  | .none => true
  | .counts x0 =>
    let l := s.openItems st.handle
    waitcClasses.all (fun c =>
      bits x0.toNat c.2 12 == 0xFFF || decide ((l.filter (fun it => it.cls == c.1)).length ≤ bits x0.toNat c.2 12))
  | .rake b => !s.rakeOutBefore st.colKey b
  | .answer =>
    (match st.phase with
     | .spawn _ _ _ _ .sent => false
     | .uflush _ n _ => n == 0
     | .vtld _ f ok => f.isSome || ok
     | .replsync id => !s.items.any (fun kv => kv.2.handle == st.handle && kv.2.group == id && id != 0 && !kv.2.failed)
     | _ => true)
  | .child => (s.pickCore st.loc.tile st.loc.col (fun _ => true)).isSome
  | w => !(s.openItems st.handle).any (s.waitCovers w st.colKey st.job)

/-- May the strand leave (spec/06 R102, R104 step 1): nothing owed to a register, and every count of WAITC at zero? -/
def State.mayDepart (s : State) (st : Strand) : Bool :=
  st.noneOwed && !(s.openItems st.handle).any (fun it => it.cls != .read)

/-- Is the cause of a parked or evicted strand clear (spec/06 R97)? -/
def State.causeClear (s : State) (st : Strand) : Bool :=
  match st.pcause with
  | 1 => (match st.wait with | .ldaq => !st.ldaq.contains st.preg | _ => (st.rc st.preg).st == .full)
  | 2 => s.mayDepart st
  | 4 => (match st.wait with
     | .room n => decide ((s.core st.coreKey).outq.length + n ≤ 64)
     | _ => decide ((s.core st.coreKey).outq.length < 64))
  | 5 => s.waitOver st
  | 6 => (s.tile st.loc.tile).released.contains st.job
  | 8 =>
    !s.msgs.any (fun kv => match kv.2 with
      | .instrLine k a l _ => k == st.coreKey && a == st.asid && (l == st.pc.toNat / 64 || l == (st.pc.toNat + 2) / 64)
      | _ => false)
  | 9 =>
    (match st.wait, st.phase with
     | .hedge h g, _ =>
       let x := s.hedge st.loc.tile h
       !(decide (2 ^ 15 ≤ (x.relgen + 65536 - g) % 65536) && g == x.gen && x.state != .idle && decide (256 ≤ x.waiters.length))
     | _, .join _ ok _ => ok
     | _, _ => true)
  | _ => true

/-- Park with cause 5 for a wait (spec/08 R147). -/
def State.parkWait (s : State) (st : Strand) (w : Wait) : State := s.park { st with wait := w } 5 0

/-- An evicted strand whose cause is clear joins its dock's resume list (spec/06 R98). -/
def State.rejoin (s : State) (h : BitVec 64) : State :=
  match s.strand? h with
  | none => s
  | some st =>
    let c := s.col st.colKey
    if st.status == .evicted && !c.resume.contains h && s.causeClear st then
      (s.putStrand { st with cls := .resumed }).putCol st.colKey { c with resume := c.resume ++ [h] }
    else s
/-- Every evicted strand of a column whose cause is clear. -/
def State.rejoinAll (s : State) (key : Nat) : State :=
  (s.colStrands key).foldl (fun s st => s.rejoin st.handle) s

/-! ### Bouncing and pinning (spec/06 R109) -/

/-- The three kinds of issue that R109 tells apart. -/
inductive Mover where
  | plain | atomic | migr
deriving DecidableEq, Repr

/-- R109 for an issue that would migrate from here to there: the strand, with BOUNCE updated, and whether it moves. -/
def Strand.bounceTo (st : Strand) (m : Mover) (here there : Nat) : Strand × Bool :=
  let pl0 := st.pinLeft
  let pl := if m == .atomic && decide (1 ≤ pl0) && decide (pl0 ≤ 256) then pl0 - 1 else pl0
  let same := decide (0 < st.run) &&
    ((here == st.homeA && there == st.homeB) || (here == st.homeB && there == st.homeA))
  if same && st.run == 5 && decide (st.win ≤ 63) then
    match m with
    | .plain => ({ st with bounce := bounceOf 255 0 st.win st.homeA st.homeB }, false)
    | .atomic => ({ st with bounce := bounceOf 255 0 st.win st.homeA st.homeB }, true)
    | .migr => ({ st with bounce := bounceOf 256 0 st.win st.homeA st.homeB }, true)
  else if same && st.run != 5 then ({ st with bounce := bounceOf pl (st.run + 1) st.win st.homeA st.homeB }, true)
  else ({ st with bounce := bounceOf pl 1 0 here there }, true)

/-- A remote access that does not move the strand: a remote read, a posted store or a rake hit (spec/06 R109). -/
def Strand.bounceStay (st : Strand) : Strand :=
  if 1 ≤ st.pinLeft && st.pinLeft ≤ 256 then st.setPinLeft (st.pinLeft - 1) else st

/-! ### Departure (spec/06 R104) -/

/-- The column virtual address that the home dock will translate: none in scratch, which is not translated (spec/07 R135). -/
def Target.cva : Target → Option Nat
  | .column _ bed hoff kind _ => if kind == .scratch then none else some (cvaOf bed hoff)
  | _ => none

/-- The strand leaves for a home: attached registers drop to Cut, DEST is written, its slot is free, and the message goes out on
class 2 (spec/06 R104 step 2). -/
def State.depart (s : State) (st : Strand) (dest : Nat) (cva : Option Nat) (va : Word) : State :=
  let v := { st.dropAll with status := .inFlight, pcause := 0, dest := dest, destVa := va, destCva := cva, refusals := 0,
                             rlim := st.coreKey, wait := .none, phase := st.phase.kept, regrow := none, pending := none,
                             bedWait := none, before := (s.strand? st.handle).map (fun o => (o.bounce, o.ctl)) }
  ((s.putStrand v).unqueue st.handle).sendFrom st.loc.tile (.migrate st.handle dest v.message)

/-- The RLIM that governs a migration: that of the core departed from (spec/06 R100, R106). -/
def State.rlimOf (s : State) (st : Strand) : Nat := bits (s.core st.rlim).corectl.toNat 8 8

/-! ### Arrival (spec/06 R104 step 3, R106) -/

/-- The core a dock picks: the owner of the translated offset's bank group, or core 0 of the column where the translation faults
or there is none. -/
def State.arrivalCore (s : State) (dest : Nat) (asid : BitVec 12) (cva : Option Nat) : State × Nat :=
  match cva with
  | none => (s, dest % 16 * 48)
  | some a =>
    match s.translate dest asid a 0 with
    | (s1, .ok off) => (s1, ownerCore dest off)
    | (s1, .trip _ _) => (s1, dest % 16 * 48)

/-- Enter a refused strand in a dock's refusal list, or update its count there (spec/06 R106). -/
def enterList (l : List RefEntry) (e : RefEntry) : List RefEntry :=
  if l.any (fun x => x.handle == e.handle) then l.map (fun x => if x.handle == e.handle then { x with count := e.count } else x)
  else if l.length < 8 then l ++ [e]
  else
    let least := l.foldl (fun m x => min m x.count) e.count
    match l.find? (fun x => x.count == least) with
    | some y => if least < e.count then l.filter (fun x => x.handle != y.handle) ++ [e] else l
    | none => l

/-- Accept a strand into a core of its destination column, and answer its sender. A reserved arrival entry that it does not enter, being urgent
or Suspended, goes to the next listed strand (spec/06 R106). -/
def State.accept (s : State) (st : Strand) (dest core : Nat) (listed : Bool) : State :=
  let t := dest / 16
  let k := coreKey t core
  let from_ := st.colKey
  let s1 := s.unqueue st.handle
  let loc : Place := ⟨t, dest % 16, core, if st.urgent then 15 else 0⟩
  let held := s1.jobSuspended st.job && !st.urgent
  let v := { st with loc := loc, img := s1.freeImg dest, bindRec := none, refusals := 0, pcause := 0, before := none, status := (if held then .suspended else .queued),
                     cls := (if st.urgent then .urgent else if listed then .listed else .migrating) }
  let s2 := (s1.takeImg dest v.img).sendFrom t (.accepted st.handle from_ st.img)
  let s3 := if t = st.loc.tile then s2.putStrand v else
    (let r := s2.acquireOnArrival v
     r.1.putStrand r.2)
  let freed := fun (s : State) => if listed then s.reserve k else s
  if held then freed s3 else if st.urgent then freed (s3.enqueueUrgent k st.handle) else s3.enqueue k st.handle

/-- Refuse a strand: counted at the dock, entered in its list, and answered on class 1 with its image. -/
def State.refuse (s : State) (st : Strand) (dest core : Nat) : State :=
  let c := s.col dest
  let n := st.refusals + 1
  (s.putCol dest { c with refCount := min (c.refCount + 1) 65535,
                          refusals := enterList c.refusals ⟨st.handle, st.colKey, core, n, false⟩ }).sendFrom (dest / 16)
    (.refusal st.handle n st.message)

/-- A migration message reaches its home dock (spec/06 R104 step 3, R106, spec/02 R32). -/
def State.arrive (s : State) (st : Strand) (dest : Nat) : State :=
  if !s.tileUp (dest / 16) then s.send (.migError st.handle)
  else
    let (s1, core) := s.arrivalCore dest st.asid st.destCva
    let c := s1.core (coreKey (dest / 16) core)
    let listed := c.reserved.contains st.handle
    let room :=
      if st.urgent then decide (c.urgent.length < 4) && s1.imageFree dest
      else listed || (decide (c.arrival.length + c.reserved.length < bits c.corectl.toNat 16 6) && s1.imageFree dest)
    if room then s1.accept st dest core listed else s1.refuse st dest core

/-- Send a refused strand again (spec/06 R106). -/
def State.retry (s : State) (st : Strand) : State :=
  (s.putStrand { st with status := .inFlight, pcause := 0 }).sendFrom st.loc.tile (.migrate st.handle st.dest st.message)

/-- A refusal reaches the sender: Refused with PCAUSE 3, or Suspended under a suspended job, or MigrationRefusedLimit
(spec/06 R102, R106, spec/11 R214). -/
def State.refused (s : State) (st : Strand) (n : Nat) : State :=
  let lim := s.rlimOf st
  if lim != 0 && decide (16 * lim ≤ n) then
    (s.withdraw st).trap { st.restored with refusals := 0 } ⟨14, st.destVa, .ofNat 64 n⟩
  else if s.jobSuspended st.job && !st.urgent then
    (s.withdraw st).putStrand { st with status := .suspended, pcause := 0, refusals := n, before := none }
  else s.putStrand { st with status := .refused, pcause := 3, refusals := n }

/-! ### Slots (spec/05 R82, spec/06 R96, R98) -/

/-- A REPLSYNC or UFLUSH that issues again after a halt or an eviction sends all its requests again, and a replay interrupted by a
halt starts again (spec/16 R326, R330, spec/13 R255). -/
def Strand.afresh (st : Strand) : Strand :=
  match st.phase with
  | .replsync _ => { st with phase := .none, wait := .none, regrow := none }
  | .uflush _ _ _ => { st with phase := .none, wait := .none, regrow := none }
  | _ => { st with wait := st.wait.kept, regrow := none }

/-- A strand takes a slot: it is Ready, and the core's buffers go when its address space differs from that of the strand last
granted a slot there (spec/07 R129, R130). -/
def State.grant (s : State) (st : Strand) (k slot : Nat) : State :=
  let s1 := if (s.core k).lastAsid == some st.asid then s else s.dropLines k
  let c := s1.core k
  let t := { st.afresh with status := .ready, pcause := 0, parkedFor := 0, loc := { st.loc with core := k % 768, slot := slot } }
  let s2 := (s1.putCore k { c with lastAsid := some st.asid }).putStrand t
  match s.imageErr st with
  | some pa => (s2.logError (k / 768) 8 true pa st.handle 0).trap { t with imgBad := false } ⟨9, 0, .ofNat 64 ((s2.tile (k / 768)).elogcnt * 2 ^ 32 + 8)⟩
  | none => s2

/-- The order of the classes of spec/05 R82. -/
def QueueClass.rank : QueueClass → Nat
  | .urgent => 0 | .resumed => 1 | .listed => 2 | .migrating => 3 | .fresh => 4

/-- The strand of an arrival queue that is served next: lowest class first, then first come. -/
def State.nextArrival (s : State) (k : Nat) : Option Strand :=
  ((s.core k).arrival.filterMap s.strand?).foldl (fun best st =>
    match best with
    | none => some st
    | some b => if st.cls.rank < b.cls.rank then some st else some b) none

/-- Grant a slot to the arrival queue's next strand; the entry it leaves may be reserved (spec/06 R106). -/
def State.grantArrival (s : State) (k slot : Nat) : State :=
  match s.nextArrival k with
  | none => s
  | some st =>
    let c := s.core k
    ((s.putCore k { c with arrival := c.arrival.filter (· != st.handle) }).grant st k slot).reserve k

/-- The first strand of a column's resume list that returns to a core, urgent or not. -/
def State.nextResumed (s : State) (k : Nat) (urgent : Bool) : Option Strand :=
  ((s.col (colKey (k / 768) (coreCol (k % 768)))).resume.filterMap s.strand?).find? (fun st => st.coreKey == k && st.urgent == urgent)
/-- A strand of the resume list takes a slot. -/
def State.grantResumed (s : State) (k slot : Nat) (st : Strand) : State :=
  let key := colKey (k / 768) (coreCol (k % 768))
  let col := s.col key
  (s.putCol key { col with resume := col.resume.filter (· != st.handle) }).grant st k slot
/-- Fill slot 15: from the urgent queue, then with a handler that returns from a trap of its own; none if neither has a strand. -/
def State.fillUrgent (s : State) (k : Nat) : Option State :=
  let c := s.core k
  if (s.slotStrand (k / 768) (k % 768) 15).isSome then none
  else
    match c.urgent.head?.bind s.strand? with
    | some u => some ((s.putCore k { c with urgent := c.urgent.tail }).grant u k 15)
    | none => (s.nextResumed k true).map (fun r => s.grantResumed k 15 r)

/-- Fill one free slot of a core (spec/05 R82): the urgent slot, else another from the resume list, then from the arrival queue. A
halted core grants none (spec/06 R102). -/
def State.fillSlot (s : State) (k : Nat) : State :=
  if (s.core k).halted then s
  else
    match s.fillUrgent k with
    | some t => t
    | none =>
      match (s.freeSlots (k / 768) (k % 768)).head? with
      | none => s
      | some n =>
        match s.nextResumed k false with
        | some r => s.grantResumed k n r
        | none => s.grantArrival k n

/-- Write a strand's image to the context store: it is Evicted with its PCAUSE kept (spec/06 R98, R110), and a replay under way keeps nothing
(spec/13 R255). -/
def State.evictStrand (s : State) (st : Strand) : State :=
  (s.writeImg st.colKey st.img).putStrand { s.storeImage st with status := .evicted, regrow := none }

/-- The strands of a core that eviction may take: parked for EVTHR rotations in a non-urgent slot, not waiting for a
descriptor (spec/06 R96, R98). -/
def State.evictable (s : State) (k : Nat) : List Strand :=
  (s.strands.map (·.2)).filter (fun st => st.status == .parked && st.coreKey == k && !st.urgent
    && decide (bits (s.core k).corectl.toNat 24 8 ≤ st.parkedFor))

/-- Evict the longest parked strand when an arrival waits and no non-urgent slot is free, and give its slot to the arrival
(spec/05 R82, spec/06 R98). -/
def State.evictOne (s : State) (k : Nat) : State :=
  if (s.core k).halted || (s.core k).arrival.isEmpty || !(s.freeSlots (k / 768) (k % 768)).isEmpty then s
  else
    match (s.evictable k).foldl (fun best st =>
        match best with
        | none => some st
        | some b => if b.parkedFor < st.parkedFor then some st else some b) none with
    | none => s
    | some v => ((s.evictStrand v).grantArrival k v.loc.slot).rejoin v.handle

end Sys2Proof.Machine
end

