-- ==== Sys2Proof/Machine/Operands.lean ====
section
/-! DEFINITION. The issue of an instruction: the checks of spec/13 R268 steps 5 to 7 in their order (the prefix, the limits, the
operand states), the replay of a Cut register (R255), the reading and taking of the operands (R250, R251) with what a first read
carries (spec/08 R150, spec/16 R320), and the ways an issue ends. -/

namespace Sys2Proof.Machine

/-! ### How an issue ends -/

/-- An issue that has passed its operand checks: the state and the strand before its reads, and after them. -/
structure Turn where
  s0 : State
  o : Strand
  s : State
  t : Strand
  len : Nat

/-- The instruction completes with this PC next: its prefix and its phase are over (spec/13 R266). -/
def Strand.finished (t : Strand) (pc : BitVec 56) : Strand :=
  { t.clearPrefix with pc := pc, status := .ready, pcause := 0, parkedFor := 0, phase := .none, regrow := none, wait := .none,
                                bedWait := none }
/-- The same, its issue counted in WIN (spec/06 R109). -/
def Strand.completed (t : Strand) (pc : BitVec 56) : Strand := t.countWin.finished pc
/-- Completes at the following instruction, its issue already counted. -/
def Turn.doneCounted (x : Turn) (s : State) (t : Strand) : State := s.putStrand (t.finished (t.pc + .ofNat 56 x.len))
/-- Completes at the following instruction. -/
def Turn.done (x : Turn) (s : State) (t : Strand) : State := s.putStrand (t.completed (t.pc + .ofNat 56 x.len))
/-- Completes at an address. -/
def Turn.goTo (_ : Turn) (s : State) (t : Strand) (pc : Word) : State := s.putStrand (t.completed (pc.truncate 56))
/-- Traps: no effect but those of the trap (spec/11 R206). -/
def Turn.trap (x : Turn) (t : Trip) : State := x.s0.trap x.o t
/-- Traps on a check that the bed found fails: the lookup was a use of its entry (spec/07 R119). -/
def Turn.trapBed (x : Turn) (h : BedHit) (t : Trip) : State := (x.s0.touchBed x.o h).trap x.o t
/-- The lookup of an address is a use of its bed's entry. -/
def Turn.touch (x : Turn) (h : BedHit) : Turn := { x with s0 := x.s0.touchBed x.o h, s := x.s.touchBed x.t h }
/-- Parks, nothing read. -/
def Turn.park (x : Turn) (cause reg : Nat) : State := x.s0.park x.o cause reg
def Turn.parkWait (x : Turn) (w : Wait) : State := x.s0.parkWait x.o w
/-- Until the fill of a pinned LDAQ, an access that could hit a snapshot parks, PREG naming its destination (spec/08 R149). -/
def State.parkLdaq (s : State) (st : Strand) (r : Nat) : State := s.park { st with wait := .ldaq } 1 r
/-- Waits in its slot for a descriptor. -/
def Turn.waitBed (x : Turn) (va : Word) : State := x.s0.waitBed x.o va
/-- The address of the following instruction. -/
def Turn.link (x : Turn) : Word := (x.o.pc + .ofNat 56 x.len).zeroExtend 64

/-! ### Registers an instruction reads -/

/-- The first register of a list that is neither Full nor Cut (spec/13 R250). -/
def Strand.firstNot (st : Strand) (l : List Nat) : Option Nat :=
  l.find? (fun r => (st.rc r).st == .empty || (st.rc r).st == .awaiting)
/-- The first Cut register of a list. -/
def Strand.firstCut (st : Strand) (l : List Nat) : Option Nat := l.find? (fun r => (st.rc r).st == .cut)
/-- The DataLoss that the first read of one of these registers raises. -/
def Strand.firstLoss (st : Strand) (l : List Nat) : Option Loss := (l.filterMap (fun r => (st.rc r).loss)).head?

/-- The acquire that the first read of a register carries (spec/06 R113, spec/08 R150). -/
def State.readAcquire (p : State × Strand) (r : Nat) : State × Strand :=
  match (p.2.rc r).acq with
  | none => p
  | some sc =>
    let q := p.1.acquire p.2 sc.toNat
    (q.1, q.2.setRc r { q.2.rc r with acq := none })

/-- Has one of these registers a parity error, which its next read meets (spec/11 R220, source 6)? -/
def Strand.parityAt (st : Strand) (l xs : List Nat) : Bool := l.any (fun r => (st.rc r).par) || xs.any (fun k => st.xpar.getLsbD k)
/-- The DataLoss of a register with a parity error: an error-log entry of source 6 and the trap. -/
def State.parityTrap (s : State) (st : Strand) : State :=
  (s.logError st.loc.tile 6 true 0 st.handle 0).trap st ⟨9, 0, .ofNat 64 ((s.tile st.loc.tile).elogcnt * 2 ^ 32 + 6)⟩
/-- The x register of a scope field: code 11 reads x7 (spec/08 R141). -/
def scopeReads (sc : BitVec 4) : List Nat := if sc.toNat = 11 then [7] else []
/-- The x registers that an instruction reads, its own sources and its extension operands (spec/13 R249). -/
def xReads (i : Instr) : List Nat :=
  match i with
  | .xget _ k => [k.toNat]
  | .amocas _ _ _ => [0]
  | .harm _ _ _ => [0]
  | .launch _ _ _ => [0, 1]
  | .spawn _ _ => [0, 1]
  | .spawnHome _ _ _ => [0, 1]
  | .waitc _ => [0]
  | .xfence _ sc => 0 :: scopeReads sc
  | .upd _ _ _ => [0]
  | .vupd _ _ _ => [0]
  | .rake _ _ => [0, 1, 2, 3]
  | .ldaq _ _ sc _ _ => scopeReads sc
  | .strl _ _ sc _ _ => scopeReads sc
  | .pfence _ sc => scopeReads sc
  | .fence _ sc => scopeReads sc
  | _ => []
/-- The x registers that an encoding's instruction reads. -/
def xReadsWord (w : Nat) : List Nat :=
  match (if w % 4 = 3 then decode32 w else decode16 w) with
  | .ok i => xReads i
  | _ => []

/-- Read and take the sources: each register taken is Empty, or Cut, after the read (spec/13 R251). -/
def State.readSources (s : State) (st : Strand) (srcs : List (Nat × Bool)) : State × Strand :=
  let p := (srcs.map (·.1)).foldl State.readAcquire (s, st)
  (p.1, (srcs.filter (·.2)).foldl (fun t c => t.vacate c.1) p.2)

/-! ### Prefix (spec/13 R266, spec/17 R345) -/

/-- Which pairs of formats a prefix may bring; none for an instruction that accepts no prefix. -/
abbrev Accepts := Option (Nat → Nat → Bool)

def illegal (word : Nat) : Trip := ⟨1, 0, .ofNat 64 word⟩
def reserved (word : Nat) : Trip := ⟨2, 0, .ofNat 64 word⟩

/-- The trap of a governed instruction that does not accept its prefix. -/
def prefixTrip (acc : Accepts) (st : Strand) (word : Nat) : Option Trip :=
  if st.pp then
    match acc with
    | none => some (illegal word)
    | some ok => if ok st.pfa st.pfb then none else some (reserved word)
  else none

/-! ### Tables a tile may lack (spec/06 R115, spec/07 R119, spec/13 R253) -/

/-- Ask the lead gardener for a table, unless the request is out: kind 0 bed table, 1 cutting table, 2 level descriptors. -/
def State.wantTable (s : State) (tile kind job : Nat) : State :=
  if s.msgs.any (fun kv => kv.2 == .tableReq tile kind job || kv.2 == .tableAns tile kind job) then s
  else s.sendFrom tile (.tableReq tile kind job)

/-- The recipe of a Cut register on the current tile. -/
def State.recipeOf (s : State) (st : Strand) (r : Nat) : Option Recipe :=
  match FMap.get? (s.tile st.loc.tile).cuts st.job, st.attached r with
  | some t, some n => t.recipes[n.toNat]?
  | _, _ => none

/-- Level indices of a flat index, by level (spec/05 R70). -/
def levelIndices (l : List Level) (f : Nat) : List Nat :=
  (l.reverse.foldl (fun (p : Nat × List Nat) v => (p.1 / v.count, (p.1 % v.count) :: p.2)) (f, [])).2

/-- The value of a special register; none where the tile lacks what it derives from (spec/13 R257, spec/06 R115). -/
def State.special (s : State) (st : Strand) (n : Nat) : Option Word :=
  let tl := s.tile st.loc.tile
  let rec_ := (s.job? st.job).map (·.lrec)
  match n with
  | 0 => some st.ss
  | 1 => some st.handle
  | 2 => some (.ofNat 64 st.loc.core)
  | 3 => some (.ofNat 64 st.loc.col)
  | 4 => some (.ofNat 64 st.loc.tile)
  | 5 => some (.ofNat 64 st.job)
  | 6 => some (.ofNat 64 tl.cyc)
  | 7 => some (match rec_ with | some l => .ofNat 64 l.handler | none => 0)
  | 8 => (s.tableFor st).map (fun t => .ofNat 64 (t.bedn * 2 ^ 42 + t.bedtab))
  | 9 => some (if st.sup then 0 else match rec_ with | some l => .ofNat 64 (l.cutn * 2 ^ 42 + l.cuttab) | none => 0)
  | 10 => some st.bounce
  | n =>
    match FMap.get? tl.levels st.job with
    | none => none
    | some ls =>
      if n < 24 then some (.ofNat 64 (((levelIndices ls st.flat)[n - 16]?).getD 0))
      else some (.ofNat 64 ((ls[n - 24]?.map (·.count)).getD 1))

/-- Is a number assigned (spec/13 R257)? -/
def specialAssigned (n : Nat) : Bool := decide (n ≤ 10) || (decide (16 ≤ n) && decide (n ≤ 31))

/-! ### A load that executes in the current column (spec/07 R129, spec/16 R319) -/

/-- Does a load in the current column wait at the port: no line buffer serves it, and its access waits (spec/09 R173, spec/11 R226)? -/
def State.loadWaits (s : State) (st : Strand) (index : Nat) (bed : BedKind) (key hoff va size : Nat) : Bool :=
  (s.lineHit st va size).isNone && s.waitsHome key index hoff bed st.asid size 0
/-- Read at home, through the line buffer: the value, and whether the buffer served it. -/
def State.loadHere (s : State) (st : Strand) (index : Nat) (bed : BedKind) (key hoff : Nat) (spill : Bool) (va size : Nat) :
    State × HomeRes × Bool :=
  match s.lineHit st va size with
  | some v => (s, .ok v none, true)
  | none =>
    match s.homeRead key index hoff bed spill st.asid size 0 st.party with
    | (s1, .ok v off) => (s1.allocLine st key bed va off, .ok v off, false)
    | (s1, r) => (s1, r, false)

/-! ### Replay (spec/13 R255) -/

/-- CuttingFault(i, c) at register r, with g2 (spec/11 R205). -/
def cutTrip (i r c : Nat) (g2 : Word) : Trip := ⟨10, g2, .ofNat 64 (i * 65536 + r * 256 + c)⟩

/-- A replay is interrupted: it starts again at the next issue. -/
def State.replayPark (s : State) (st : Strand) (reg : Nat) : State := s.park { st with regrow := none } 1 reg

/-- One step is done with a value: the register is Full after the last. -/
def State.replayNext (s : State) (st : Strand) (r step nins v : Nat) : State :=
  if step + 1 = nins then
    let t := st.setCode r v
    s.putStrand { t with regrow := none, status := .ready, pcause := 0 }
  else
    s.putStrand { st with regrow := some ⟨r, step + 1, some (.ofNat 256 v), none, none⟩, status := .ready, pcause := 0 }

/-- The sources of a recipe instruction other than TREG: a cutting or a DataLoss on one is a fault, one not Full parks. -/
def State.replaySources (s : State) (st : Strand) (r step : Nat) (srcs : List Nat) (k : State → Strand → State) : State :=
  let others := srcs.filter (· != r)
  match others.find? (fun x => (st.attached x).isSome || (st.rc x).st != .full) with
  | some x => if (st.attached x).isSome then s.trap st (cutTrip step r 0 0) else s.replayPark st x
  | none =>
    match st.firstLoss others with
    | some l => s.trap st (cutTrip step r 9 l.g2)
    | none =>
      if st.parityAt others [] then (s.logError st.loc.tile 6 true 0 st.handle 0).trap st (cutTrip step r 9 0)
      else
      let p := s.readSources st (others.map (fun x => (x, false)))
      k p.1 p.2

/-- A recipe load: checked at the core, read at home in the current column, otherwise as LDR (spec/13 R255). -/
def State.replayLoad (s : State) (st : Strand) (r step nins : Nat) (v : Option Wide) (va : Word) (size : Nat) (signed : Bool) :
    State :=
  match s.lookup st va with
  | .miss => s.trap st (cutTrip step r 4 va)
  | .wait => s.waitBed st va
  | .hit h =>
    if !h.bed.imm then (s.touchBed st h).trap st (cutTrip step r 5 va)
    else if va.toNat % size ≠ 0 then (s.touchBed st h).trap st (cutTrip step r 3 va)
    else if !h.bed.rd then (s.touchBed st h).trap st (cutTrip step r 7 va)
    else if !st.ldaq.isEmpty then s.parkLdaq { st with regrow := none } (st.ldaq.headD 0)
    else
      let s1 := s.touchBed st h
      let g := s1.target st h va
      match g with
      | .column key bed hoff kind spill =>
        if key = st.colKey then
          let s1 := s1.scrubLine st va.toNat
          if s1.loadWaits st bed kind key hoff va.toNat size then s
          else match s1.loadHere st bed kind key hoff spill va.toNat size with
          | (s2, .ok x _, _) => s2.replayNext st r step nins (loadValue signed size x)
          | (s2, .trip c _, _) => s2.trap st (cutTrip step r c va)
        else
          let s1 := s1.scrubRake st va.toNat
          match s1.rakeHit st va.toNat size with
          | some x => s1.replayNext st r step nins (loadValue signed size x)
          | none =>
            (s1.putStrand { st with regrow := some ⟨r, step, v, some s1.fresh, none⟩ }).sendFrom st.loc.tile
              (.read (.replay st.handle size signed) st.asid va size g s1.fresh)
      | g =>
        (s1.putStrand { st with regrow := some ⟨r, step, v, some s1.fresh, none⟩ }).sendFrom st.loc.tile
          (.read (.replay st.handle size signed) st.asid va size g s1.fresh)

/-- The state of the replay of a register: its step, its value so far, the read it waits for, a failed read. -/
def Strand.replayAt (st : Strand) (r : Nat) : Nat × Option Wide × Option Nat × Option (Nat × Word) :=
  match st.regrow with
  | some q => if q.reg = r then (q.step, q.val, q.waiting, q.fail) else (0, none, none, none)
  | none => (0, none, none, none)

/-- A 32-bit or 16-bit recipe instruction. -/
def recipeIns (w : Nat) : RecOp :=
  match (if w % 4 = 3 then decode32 w else decode16 w) with
  | .ok ins => recOp ins
  | _ => .none

/-- One turn of Replay(r). -/
def State.replayStep (s : State) (st : Strand) (r : Nat) : State :=
  match s.recipeOf st r with
  | none => s.wantTable st.loc.tile 1 st.job
  | some e =>
    let (i, v, w, f) := st.replayAt r
    match f, w with
    | some (c, va), _ => s.trap st (cutTrip i r c va)
    | none, some _ => s
    | none, none =>
      let old := fun (t : Strand) x => if x = r then (match v with | some y => y.toNat | none => 0) else t.codeVal x
      match recipeIns ((e.ins[i]?).getD 0) with
      | .value _ srcs f =>
        s.replaySources st r i (srcs.map (·.1)) (fun s t => s.replayNext t r i e.ins.length (f (srcs.map (fun c => old t c.1))))
      | .srd _ n =>
        if !specialAssigned n then s.trap st (cutTrip i r 1 0)
        else
          match s.special st n with
          | some x => s.replayNext st r i e.ins.length x.toNat
          | none => s.wantTable st.loc.tile (if n = 8 then 0 else 2) st.job
      | .xget _ x =>
        if st.parityAt [] [x] then (s.logError st.loc.tile 6 true 0 st.handle 0).trap st (cutTrip i r 9 0)
        else s.replayNext st r i e.ins.length (st.xv x).toNat
      | .load _ _ b _ size signed off =>
        s.replaySources st r i [b] (fun s t =>
          s.replayLoad t r i e.ins.length v (.ofNat 64 (old t b) + off) size signed)
      | .none => s.trap st (cutTrip i r 1 0)

/-! ### Issue -/

/-- The issue of an instruction by the strand whose turn it is. word and len are its parcels and its bytes; acc the prefixes it
accepts; pre the limits of spec/13 R268 step 6; srcs its sources in field order with their take bits; waits a destination with the
take modifier. -/
def State.issue (s : State) (word len : Nat) (acc : Accepts) (pre : State → Strand → Option Trip)
    (srcs : Strand → List (Nat × Bool)) (waits : List Nat) (body : Turn → State) : Out :=
  .next <|
  match s.cur.bind s.strand? with
  | none => s
  | some st =>
    match prefixTrip acc st word with
    | some t => s.trap st t
    | none =>
      match pre s st with
      | some t => s.trap st t
      | none =>
        let regs := (srcs st).map (·.1)
        match st.firstNot (regs ++ waits) with
        | some r => s.park st 1 r
        | none =>
          match st.firstCut (regs ++ waits) with
          | some r => s.replayStep st r
          | none =>
            match st.firstLoss regs with
            | some l => s.trap st ⟨9, l.g2, l.g4⟩
            | none =>
              if st.parityAt regs (if st.xpar = 0 then [] else xReadsWord word) then s.parityTrap st
              else
              let p := s.readSources st (srcs st)
              body ⟨s, st, p.1, p.2, len⟩

/-- No operand limit. -/
def noLimit : State → Strand → Option Trip := fun _ _ => none
/-- A g source as a register code with its take bit. -/
def gsrc (a : GSrc) : Nat × Bool := (a.reg.toNat, a.take)
/-- A w source as a register code with its take bit. -/
def wsrc (a : WSrc) : Nat × Bool := (wcode a.reg, a.take)

/-- An instruction that accepts no prefix and has no limit. -/
def State.plain (s : State) (word len : Nat) (srcs : List (Nat × Bool)) (body : Turn → State) : Out :=
  s.issue word len none noLimit (fun _ => srcs) [] body

/-! ### The shapes that several instructions share -/

/-- d := f of no source. -/
def State.op0 (s : State) (word len : Nat) (d : GReg) (f : Strand → Word) : Out :=
  s.plain word len [] (fun x => x.done x.s (x.t.setG d (f x.o)))
/-- d := f(s1). -/
def State.op1 (s : State) (word len : Nat) (d : GReg) (a : GSrc) (f : Word → Word) : Out :=
  s.plain word len [gsrc a] (fun x => x.done x.s (x.t.setG d (f (x.o.gv a.reg))))
/-- d := f(s1, s2). -/
def State.op2 (s : State) (word len : Nat) (d : GReg) (a b : GSrc) (f : Word → Word → Word) : Out :=
  s.plain word len [gsrc a, gsrc b] (fun x => x.done x.s (x.t.setG d (f (x.o.gv a.reg) (x.o.gv b.reg))))
/-- d := f(s1, s2, s3). -/
def State.op3 (s : State) (word len : Nat) (d : GReg) (a b c : GSrc) (f : Word → Word → Word → Word) : Out :=
  s.plain word len [gsrc a, gsrc b, gsrc c]
    (fun x => x.done x.s (x.t.setG d (f (x.o.gv a.reg) (x.o.gv b.reg) (x.o.gv c.reg))))
/-- The 16-bit form d := d op s. -/
def State.opHa (s : State) (word : Nat) (d r : GReg) (f : Word → Word → Word) : Out := s.op2 word 2 d ⟨d, false⟩ ⟨r, false⟩ f

end Sys2Proof.Machine
end

