-- ==== Sys2Proof/Machine/Control.lean ====
section
/-! DEFINITION. The meanings of the control-flow instructions, NOP and FMT (spec/15 R302 to R307, R316, spec/13 R266). -/

namespace Sys2Proof.Machine

/-- Transfer to a target computed modulo 2^64, after R302's checks; t is the strand with its result registers written (spec/15
R302). -/
def Turn.jump (x : Turn) (t : Strand) (target : Word) : State :=
  if 2 ^ 56 ≤ target.toNat then x.trap (bedMiss target)
  else if target.toNat % 2 = 1 then x.trap (misaligned target 2)
  else x.goTo x.s t target
/-- PC plus a signed distance in parcels of n bits (spec/15 R302). -/
def Turn.rel (x : Turn) (off n : Nat) : Word := x.o.pc.zeroExtend 64 + sextW off n * 2
/-- A conditional branch (spec/15 R305). -/
def State.branch (s : State) (word len : Nat) (srcs : List (Nat × Bool)) (taken : Strand → Bool) (off n : Nat) : Out :=
  s.plain word len srcs (fun x => if taken x.o then x.jump x.t (x.rel off n) else x.done x.s x.t)

/-- J (spec R303): Jumps PC-relative. -/
def execJ (off : BitVec 20) (s : State) : Out := s.plain (encode (.j off)) 4 [] (fun x => x.jump x.t (x.rel off.toNat 20))
/-- JAL (spec R303): Jumps PC-relative and writes the link into d. -/
def execJal (d : GReg) (off : BitVec 20) (s : State) : Out :=
  s.plain (encode (.jal d off)) 4 [] (fun x => x.jump (x.t.setG d x.link) (x.rel off.toNat 20))
/-- JALR (spec R304): Jumps to s1 + imm and writes the link into d. -/
def execJalr (d : GReg) (a : GSrc) (imm : BitVec 12) (s : State) : Out := s.plain (encode (.jalr d a imm)) 4 [gsrc a] (fun x =>
    x.jump (x.t.setG d x.link) (x.o.gv a.reg + sextW imm.toNat 12))
/-- BEQ (spec R305): Branches if s1 = s2. -/
def execBeq (a : GSrc) (b : GSrc) (off : BitVec 12) (s : State) : Out := s.branch (encode (.beq a b off)) 4 [gsrc a, gsrc b]
    (fun t => decide (t.gv a.reg = t.gv b.reg)) off.toNat 12
/-- BNE (spec R305): Branches if s1 ≠ s2. -/
def execBne (a : GSrc) (b : GSrc) (off : BitVec 12) (s : State) : Out := s.branch (encode (.bne a b off)) 4 [gsrc a, gsrc b]
    (fun t => decide (t.gv a.reg ≠ t.gv b.reg)) off.toNat 12
/-- BLT (spec R305): Branches if s1 < s2 signed. -/
def execBlt (a : GSrc) (b : GSrc) (off : BitVec 12) (s : State) : Out := s.branch (encode (.blt a b off)) 4 [gsrc a, gsrc b]
    (fun t => decide ((t.gv a.reg).toInt < (t.gv b.reg).toInt)) off.toNat 12
/-- BGE (spec R305): Branches if s1 ≥ s2 signed. -/
def execBge (a : GSrc) (b : GSrc) (off : BitVec 12) (s : State) : Out := s.branch (encode (.bge a b off)) 4 [gsrc a, gsrc b]
    (fun t => decide ((t.gv b.reg).toInt ≤ (t.gv a.reg).toInt)) off.toNat 12
/-- BLTN (spec R305): Branches if s1 < s2 unsigned. -/
def execBltn (a : GSrc) (b : GSrc) (off : BitVec 12) (s : State) : Out := s.branch (encode (.bltn a b off)) 4 [gsrc a, gsrc b]
    (fun t => decide ((t.gv a.reg).toNat < (t.gv b.reg).toNat)) off.toNat 12
/-- BGEN (spec R305): Branches if s1 ≥ s2 unsigned. -/
def execBgen (a : GSrc) (b : GSrc) (off : BitVec 12) (s : State) : Out := s.branch (encode (.bgen a b off)) 4 [gsrc a, gsrc b]
    (fun t => decide ((t.gv b.reg).toNat ≤ (t.gv a.reg).toNat)) off.toNat 12
/-- BEQZ (spec R305): Branches if s1 = 0. -/
def execBeqz (a : GSrc) (off : BitVec 12) (s : State) : Out :=
  s.branch (encode (.beqz a off)) 4 [gsrc a] (fun t => decide (t.gv a.reg = 0)) off.toNat 12
/-- BNEZ (spec R305): Branches if s1 ≠ 0. -/
def execBnez (a : GSrc) (off : BitVec 12) (s : State) : Out :=
  s.branch (encode (.bnez a off)) 4 [gsrc a] (fun t => decide (t.gv a.reg ≠ 0)) off.toNat 12
/-- BEQZ_16 (spec R305): 16-bit branch if s = 0. -/
def execBeqz16 (r : GReg) (off : BitVec 7) (s : State) : Out :=
  s.branch (encode (.beqz16 r off)) 2 [(r.toNat, false)] (fun t => decide (t.gv r = 0)) off.toNat 7
/-- BNEZ_16 (spec R305): 16-bit branch if s ≠ 0. -/
def execBnez16 (r : GReg) (off : BitVec 7) (s : State) : Out :=
  s.branch (encode (.bnez16 r off)) 2 [(r.toNat, false)] (fun t => decide (t.gv r ≠ 0)) off.toNat 7
/-- LOOP (spec R306): Decrements a nonzero count in d, and branches while the count stays nonzero. -/
def execLoop (d : GReg) (imm : BitVec 12) (s : State) : Out := s.plain (encode (.loop d imm)) 4 [(d.toNat, false)] (fun x =>
    let c := x.o.gv d
    if c = 0 then x.done x.s x.t
    else if c - 1 = 0 then x.done x.s (x.t.setG d 0)
    else x.jump (x.t.setG d (c - 1)) (x.rel imm.toNat 12))
/-- NOP (spec R307): Changes nothing but the PC. -/
def execNop (s : State) : Out := s.plain (encode (.nop)) 4 [] (fun x => x.done x.s x.t)
/-- NOP_16 (spec R307): 16-bit NOP. -/
def execNop16 (s : State) : Out := s.plain (encode (.nop16)) 2 [] (fun x => x.done x.s x.t)
/-- J_16 (spec R303): 16-bit PC-relative jump. -/
def execJ16 (off : BitVec 11) (s : State) : Out :=
  s.plain (encode (.j16 off)) 2 [] (fun x => x.jump x.t (x.rel off.toNat 11))
/-- JAL_16 (spec R303): 16-bit jump with the link in g15. -/
def execJal16 (off : BitVec 11) (s : State) : Out :=
  s.plain (eHj 0x2001 off) 2 [] (fun x => x.jump (x.t.setG 15 x.link) (x.rel off.toNat 11))
/-- SS with PP set and these two format codes (spec/13 R266). -/
def Strand.setPrefix (t : Strand) (fa fb : Nat) : Strand := { t with ss := setBits t.ss 8 9 (1 + fa * 2 + fb * 32) }
/-- FMT (spec R266): Sets the pending prefix with formats FA and FB for the next instruction. -/
def execFmt (fa : BitVec 4) (fb : BitVec 4) (s : State) : Out := s.plain (eFmt 0xF802 fa fb) 2 [] (fun x =>
    let t := x.t.completed (x.t.pc + 2)
    x.s.putStrand (t.setPrefix fa.toNat fb.toNat))

end Sys2Proof.Machine
end

