-- ==== Sys2Proof/Machine/Fetch.lean ====
section
/-! DEFINITION. Fetching an instruction (spec/07 R122, R130, spec/06 R97, spec/13 R260), a slot's turn (spec/06 R94, R97), the
clock edge, and a state in which a given instruction is next. -/

namespace Sys2Proof.Machine

/-- What fetching one parcel gives: the parcel, in the state that has noted the use of its bed, or the state in which the strand stops
here. -/
inductive Fetched where
  | parcel (p : Nat) (s : State)
  | stop (s : State)

/-- Ask for an instruction-buffer line, unless it is on its way (spec/06 R97). -/
def State.wantLine (s : State) (k : Nat) (asid : BitVec 12) (line : Nat) (g : Target) : State :=
  if s.msgs.any (fun kv => kv.2 == .instrLine k asid line g) then s else s.sendFrom (k / 768) (.instrLine k asid line g)

/-- Fetch one parcel at a virtual address: its bed with EX, then the instruction buffer (spec/13 R260); its lookup is a use of the bed cache's
entry (spec/07 R119). Until the fill of a pinned LDAQ it takes no hit, and the strand parks (spec/08 R149). A park ends a replay under way
(spec/13 R255). -/
def State.fetchParcel (s : State) (st : Strand) (va : Word) : Fetched :=
  match s.lookup st va with
  | .miss => .stop (s.trap st (bedMiss va))
  | .wait => .stop (s.waitBed st va)
  | .hit h =>
    match checkAt .fetch va 2 h with
    | some t => .stop ((s.touchBed st h).trap st t)
    | none =>
      let s0 := s.scrubInstr st va.toNat
      let s1 := s0.touchBed st h
      match s0.instrHit st va.toNat, st.ldaq with
      | some p, [] => .parcel p s1
      | some _, r :: _ => .stop (s1.parkLdaq { st with regrow := none } r)
      | none, _ =>
        .stop ((s1.wantLine st.coreKey st.asid (va.toNat / 64)
          (s1.target st h (.ofNat 64 (va.toNat / 64 * 64)))).park { st with regrow := none } 8 0)

/-- The instruction at the PC: one parcel, or two (spec/13 R260). -/
def State.fetch (s : State) (st : Strand) : Fetched :=
  match s.fetchParcel st (st.pc.zeroExtend 64) with
  | .stop t => .stop t
  | .parcel p s1 =>
    if p % 4 = 3 then
      match s1.fetchParcel st (st.pc.zeroExtend 64 + 2) with
      | .stop t => .stop t
      | .parcel q s2 => .parcel (p + 65536 * q) s2
    else .parcel p s1

/-- The decoding of a fetched instruction. -/
def decodeFetched (w : Nat) : Decoded := if w % 4 = 3 then decode32 w else decode16 w

/-- Does a slot's strand issue in its turn: its tile in Run, its core not halted, no descriptor awaited (spec/03 R49, spec/06
R94, spec/07 R119, spec/11 R229)? -/
def State.mayIssue (s : State) (st : Strand) : Bool :=
  (s.tile st.loc.tile).pow.mode == .run && !(s.core st.coreKey).halted && st.status != .halted && st.bedWait.isNone

/-- A parked strand whose cause is clear is Ready again (spec/06 R97, R102). -/
def Strand.unpark (st : Strand) : Strand := { st with status := .ready, pcause := 0, wait := st.wait.kept }

/-- Re-examine the cause of a parked strand at its turn: Ready if it is clear, one rotation older if not (spec/06 R97, R98). -/
def State.recheck (s : State) (st : Strand) : State :=
  if st.status == .parked then
    if s.causeClear st then s.putStrand st.unpark
    else s.putStrand { st with parkedFor := st.parkedFor + 1 }
  else s

/-- The occupied slots whose turn comes when CYC takes its present values: slot CYC mod 16 of every core of each tile in Run
(spec/06 R94). -/
def State.turns (s : State) : List Move :=
  (s.strands.filter (fun kv => kv.2.inSlot && (s.tile kv.2.loc.tile).pow.mode == .run
      && kv.2.loc.slot == (s.tile kv.2.loc.tile).cyc % 16)).map
    (fun kv => .issue kv.2.loc.tile kv.2.loc.core kv.2.loc.slot)

/-- Events before each turn and after the last, as the free choice gives them (log 1). -/
def mixEvents : Nat → List Move → List Move
  | n, [] => (Config.freeEvents n).map .agent
  | n, m :: l => (Config.freeEvents n).map .agent ++ m :: mixEvents (n + 1) l

/-- One core cycle: CYC advances in Run and Idle (spec/06 R94), the management timers advance by an amount left open (log 2),
and the moves of the cycle are laid out. -/
def State.clockEdge (s : State) : State :=
  let s1 := { s with
    tiles := FMap.mapVals s.tiles (fun _ (t : Tile) =>
      if t.pow.mode == PowerState.run || t.pow.mode == PowerState.idle then { t with cyc := (t.cyc + 1) % 2 ^ 64 } else t)
    dies := FMap.mapVals s.dies (fun k (d : Die) => { d with timer := d.timer + (Config.freeWord (s.fresh * 4 + k)).toNat % 16 }) }
  let l := s1.turns
  { s1 with agenda := mixEvents s1.fresh l, fresh := s1.fresh + l.length + 1 }

/-! ### Placing an instruction where the next step fetches it -/

/-- The bed that holds the placed instruction: local to column 0 of tile 0, readable, writable and executable. -/
def wordBed : Bed :=
  { base := 0, len := 65536, kind := .here, imm := false, rd := true, wr := true, ex := true, atm := true, rbase := 0,
    rasid := 0, peer := 0, spbed := 0, op := 0, etype := 0, aper := 0, die := 0, log2g := 0, order := false, prim := 0,
    trows := 0, tcols := 0, trow0 := 0, tcol0 := 0, ltile := 0, colm := 0, quad := 0 }

/-- The strand that issues it: handle 0, slot 0 of core 0 of tile 0, every register zero and Full. -/
def wordStrand : Strand :=
  { newStrand 0 0 (gInit []) 0 0 0 0 ⟨0, 0, 0, 0⟩ 0 .fresh with status := .ready }

/-- The instruction buffer of core 0 holds the line of address 0 with the instruction in its low bits. -/
def State.placeWord (s : State) (w : Nat) : State :=
  let s1 := { s with strands := s.strands.filter (fun kv => !(kv.2.loc.tile == 0 && kv.2.loc.core == 0 && kv.2.loc.slot == 0)) }
  let t := s1.tile 0
  let c := s1.core 0
  let s2 := s1.putTile 0 { t with pow := { t.pow with mode := .run },
                                  bedTables := FMap.set t.bedTables 0 ⟨1, 0, [(0, wordBed)]⟩ }
  let s3 := s2.putCore 0 { c with dbgctl := 0, bedCache := [⟨0, 0, wordBed⟩],
                                  instrBuf := [⟨0, 0, (s2.tile 0).ag, w, false⟩], lastAsid := some 0 }
  { s3.putStrand wordStrand with agenda := [.issue 0 0 0], cur := none }

end Sys2Proof.Machine
end

