-- ==== Sys2Proof/Machine/Barrel.lean ====
section
/-! DEFINITION. The steps of the barrels and docks: slots, parks, evictions, fills, instruction lines, migrations and their
answers, the creation of handlers, tables fetched from a lead gardener (spec/05 R82, spec/06 R93 to R106, spec/07 R119, R121,
spec/11 R210). -/

namespace Sys2Proof.Machine

/-! ### Slots and parks -/

/-- SLOT_GRANT (spec R82): fills one free slot of a core in class order. -/
def execSlotGrant (tile core : Nat) (s : State) : Out :=
  .next ((s.rejoinAll (colKey tile (coreCol core))).fillSlot (coreKey tile core))
/-- BED_CACHE_FILL (spec R119): the descriptor that a slot's strand waits for enters the bed cache, or is fetched from the
lead gardener where the tile has no copy. -/
def execBedCacheFill (tile core slot : Nat) (s : State) : Out :=
  .next <| match s.slotStrand tile core slot with
  | none => s
  | some st =>
    match st.bedWait with
    | none => s
    | some va =>
      match s.tableFor st with
      | none => s.wantTable tile 0 st.job
      | some t =>
        let s1 := s.putStrand { st with bedWait := none }
        match t.find va.toNat with
        | some h => s1.touchBed st h
        | none => s1
/-- PARK_RECHECK (spec R97): a parked strand whose cause is clear is Ready; the column's evicted strands whose causes are clear
join its resume list (spec R98). -/
def execParkRecheck (tile core slot : Nat) (s : State) : Out :=
  let s1 := s.rejoinAll (colKey tile (coreCol core))
  .next <| match s1.slotStrand tile core slot with
  | none => s1
  | some st => if st.status == .parked && s1.mayIssue st && s1.causeClear st then s1.putStrand st.unpark else s1
/-- EVICT (spec R98): the longest parked eligible strand gives its slot to a waiting arrival. -/
def execEvict (tile core : Nat) (s : State) : Out := .next (s.evictOne (coreKey tile core))

/-! ### Fills (spec/06 R93, spec/07 R121) -/

/-- The DataLoss that a failed remote read leaves in its register: a fault at the home is source 12 with its cause (spec/16
R320). -/
def lossOf (va : Word) (f : Nat × Word) : Loss := ⟨va, if f.1 = 9 then f.2 else .ofNat 64 (f.1 * 256 + 12)⟩

/-- Fill a register of a strand, wherever its image lies; its acquire is performed now where it comes from a pinned LDAQ. -/
def State.fillReg (s : State) (h : BitVec 64) (reg tag v : Nat) (acq : Option (BitVec 4)) (loss : Option Loss) : State :=
  match s.strand? h with
  | none => s
  | some st => (s.putStrand (st.takeFill reg tag v acq loss)).rejoin h
/-- The answer to a remote read into a register. -/
def State.fillRead (s : State) (h : BitVec 64) (reg tag size : Nat) (signed : Bool) (acq : Option (BitVec 4)) (va : Word)
    (value : Nat) (fail : Option (Nat × Word)) : State :=
  let s1 := s.fillReg h reg tag (loadValue signed size value) none (fail.map (lossOf va))
  match acq, s1.strand? h with
  | some sc, some st =>
    let q := s1.acquire st sc.toNat
    q.1.putStrand { q.2 with ldaq := q.2.ldaq.erase reg }
  | _, _ => s1

/-- The answer to a load of a replay: the step ends with the value, or the fault waits for the turn (spec/13 R255). -/
def State.fillReplay (s : State) (h : BitVec 64) (size : Nat) (signed : Bool) (va : Word) (value : Nat)
    (fail : Option (Nat × Word)) (item : Nat) : State :=
  match s.strand? h with
  | none => s
  | some st =>
    match st.regrow with
    | none => s
    | some r =>
      if r.waiting ≠ some item then s
      else
        match fail with
        | some f => s.putStrand { st with regrow := some { r with waiting := none, fail := some (f.1, va) } }
        | none =>
          match s.recipeOf st r.reg with
          | some e => s.replayNext st r.reg r.step e.ins.length (loadValue signed size value)
          | none => s.putStrand { st with regrow := none }

/-- The answer to one read of a REPLSYNC: posted stores to every other replica, or a failed item (spec/16 R326). -/
def State.fillReplsync (s : State) (id item : Nat) (asid : BitVec 12) (va : Word) (value : Nat) (fail : Option (Nat × Word)) :
    State :=
  match FMap.get? s.items item with
  | none => s
  | some it =>
    match fail with
    | some f => s.itemFailed item (f.1 == 9)
    | none =>
      let s1 := s.itemDone item
      match s1.strand? it.handle with
      | none => s1
      | some st =>
        match (s1.tableFor st).bind (fun t => t.find va.toNat) with
        | none => s1
        | some h =>
          let one := fun (s : State) tile =>
            let r := h.bed.replica (va.toNat - h.bed.base) tile
            (s.addItem ⟨it.handle, it.job, .posted, some r.1, 0, false, id⟩).sendFrom ((s.strandTile it.handle).getD 0)
              (.posted (.bytes (leBytes value 8)) asid va (.column r.1 h.index r.2 h.bed.kind false) s.fresh)
          (h.bed.tiles.filter (· != h.bed.prim)).foldl one s1

/-- A piece of a VTLD is in: kept, or its failure noted at the strand (spec/17 R359). -/
def State.fillVtld (s : State) (k id piece : Nat) (va : Word) (value : Nat) (fail : Option (Nat × Word)) : State :=
  let c := s.core k
  match FMap.get? c.vtlds id with
  | none => s
  | some e =>
    match fail with
    | none => s.putCore k { c with vtlds := FMap.set c.vtlds id { e with pieces := FMap.set e.pieces piece (.ofNat 256 value) } }
    | some f =>
      let s1 := s.putCore k { c with vtlds := FMap.erase c.vtlds id }
      match s1.strand? e.handle with
      | none => s1
      | some st =>
        match st.phase with
        | .vtld i _ ok =>
          if i = id then (s1.putStrand { st with phase := .vtld i (some (f.1, va, f.2)) ok }).rejoin e.handle else s1
        | _ => s1

/-- Is this the last piece that a VTLD waits for? Its arrival is the replacement of spec/17 R360. -/
def State.lastPiece (s : State) (k id piece : Nat) (fail : Option (Nat × Word)) : Bool :=
  fail.isNone &&
  match FMap.get? (s.core k).vtlds id with
  | some e => e.pieces.length == 31 && (FMap.get? e.pieces piece).isNone
  | none => false

/-- FILL (spec R121): a fill or the answer to a read reaches the strand it is addressed to, or is discarded. -/
def execFill (msg : Nat) (s : State) : Out :=
  .next <| match s.msg? msg with
  | some (.fill h reg tag v acq loss) => (s.unsend msg).fillReg h reg tag v acq loss
  | some (.readDone (.reg h reg tag size signed acq) va value fail item) =>
    ((s.unsend msg).itemDone item).fillRead h reg tag size signed acq va value fail
  | some (.readDone (.replay h size signed) va value fail item) =>
    (s.unsend msg).fillReplay h size signed va value fail item
  | some (.readDone (.replsync id item asid va) _ value fail _) =>
    (match FMap.get? s.items item with
     | some it => ((s.unsend msg).fillReplsync id item asid va value fail).rejoin it.handle
     | none => s.unsend msg)
  | some (.readDone (.vtld k id piece) va value fail item) =>
    if s.lastPiece k id piece fail then s else ((s.unsend msg).itemDone item).fillVtld k id piece va value fail
  | some (.levels h reg tag n) =>
    (match s.strand? h with
     | none => s.unsend msg
     | some st =>
       match s.special st n with
       | some v => (s.unsend msg).fillReg h reg tag v.toNat none none
       | none => s)
  | _ => s

/-- The VTLD of a core is over for the strand that waits for it. -/
def State.vtldDone (s : State) (h : BitVec 64) (id : Nat) : State :=
  match s.strand? h with
  | none => s
  | some st =>
    match st.phase with
    | .vtld i f _ => if i = id then (s.putStrand { st with phase := .vtld i f true }).rejoin h else s
    | _ => s

/-! ### Instruction lines (spec/06 R97, spec/07 R130) -/

/-- The answer to a read at a home that does not serve: refused (spec/02 R32, spec/16 R320). -/
def refusedRead : HomeRes := .trip 9 13
/-- Read at a column's port for someone who reaches it by the mesh. -/
def State.serveRead (s : State) (g : Target) (asid : BitVec 12) (len acc : Nat) (w : Party) : State × HomeRes :=
  match g with
  | .column key bed hoff kind spill =>
    if s.tileUp (key / 16) then s.homeRead key bed hoff kind spill asid len acc w else (s, refusedRead)
  | _ => (s, refusedRead)

/-- Where a strand that waits for an instruction line fetches from it. -/
def Strand.fetchAddr (st : Strand) (line : Nat) : Nat := if st.pc.toNat / 64 = line then st.pc.toNat else st.pc.toNat + 2
/-- The strands of a core that wait for an instruction line trap, or fetch again when they return. -/
def State.failLine (s : State) (k : Nat) (asid : BitVec 12) (line c g4 : Nat) : State :=
  let hit := fun (st : Strand) => st.coreKey == k && st.asid == asid && st.pcause == 8 && st.fetchAddr line / 64 == line
  ((s.strands.map (·.2)).filter hit).foldl (fun s st =>
    if st.status == .parked then s.trap st ⟨c, .ofNat 64 (st.fetchAddr line), .ofNat 64 g4⟩ else s.rejoin st.handle) s
/-- INSTRUCTION_LINE_FILL (spec R97): the line is read at its home and enters the instruction buffer. -/
def execInstructionLineFill (msg : Nat) (s : State) : Out :=
  .next <| match s.msg? msg with
  | some (.instrLine k asid line g) =>
    if s.waitsFor g asid 64 2 then s
    else
    (match (s.unsend msg).serveRead g asid 64 2 (busParty 0) with
     | (s1, .ok v _) =>
       let c := s1.core k
       let x : Snapshot := ⟨asid, line, (s1.tile (k / 768)).ag, v, false⟩
       (s1.putCore k { c with instrBuf := pushLine 256 c.instrBuf x }).rejoinAll (colKey (k / 768) (coreCol (k % 768)))
     | (s1, .trip c g4) => s1.failLine k asid line c g4)
  | _ => s

/-! ### Migrations (spec/06 R102 to R106) -/

/-- MIGRATION_ARRIVAL (spec R104): the home dock accepts the strand or refuses it. -/
def execMigrationArrival (msg : Nat) (s : State) : Out :=
  .next <| match s.msg? msg with
  | some (.migrate h dest m) =>
    (match s.strand? h with
     | some st => if st.status == .inFlight then (s.unsend msg).arrive (st.fromMessage m) dest else s.unsend msg
     | none => s.unsend msg)
  | _ => s
/-- MIGRATION_ACCEPTANCE (spec R104): the sender's reserved image is free. -/
def execMigrationAcceptance (msg : Nat) (s : State) : Out :=
  .next <| match s.msg? msg with
  | some (.accepted _ _ _) => s.unsend msg
  | _ => s
/-- MIGRATION_REFUSAL (spec R106): the strand is Refused with its count, or traps at its limit; an answer to a lost sender loses the
image it carries (spec/11 R224). -/
def execMigrationRefusal (msg : Nat) (s : State) : Out :=
  .next <| match s.msg? msg with
  | some (.refusal h n _) =>
    (match s.strand? h with
     | some st =>
       if st.status != .inFlight then s.unsend msg
       else if s.tileUp st.loc.tile then (s.unsend msg).refused st n
       else (s.unsend msg).loseStrand h false
     | none => s.unsend msg)
  | _ => s
/-- MIGRATION_BACKOFF_EXPIRE (spec R106): a Refused strand is sent again. -/
def execMigrationBackoffExpire (handle : BitVec 64) (s : State) : Out :=
  .next <| match s.strand? handle with
  | some st => if st.status == .refused then s.retry st else s
  | none => s
/-- RECALL (spec R106): a Refused strand is sent again at once; a recall that finds it in flight waits. -/
def execRecall (msg : Nat) (s : State) : Out :=
  .next <| match s.msg? msg with
  | some (.recall h _) =>
    (match s.strand? h with
     | some st =>
       if st.status == .refused then (s.unsend msg).retry st
       else if st.status == .inFlight then s else s.unsend msg
     | none => s.unsend msg)
  | _ => s
/-- MIGRATION_ERROR_RESPONSE (spec R102): the strand traps with DataLoss at the access, at its sender. -/
def execMigrationErrorResponse (msg : Nat) (s : State) : Out :=
  .next <| match s.msg? msg with
  | some (.migError h) =>
    (match s.strand? h with
     | some st =>
       if st.status == .inFlight && !s.tileUp st.loc.tile then (s.unsend msg).loseStrand h false
       else if st.status == .inFlight then
         ((s.unsend msg).withdraw st).trap { st.restored with refusals := 0 } ⟨9, st.destVa, 13⟩
       else s.unsend msg
     | none => s.unsend msg)
  | _ => s

/-- HANDLER_CREATE (spec R210): the handlers that a core's urgent queue had no room for are created as room frees. -/
def execHandlerCreate (tile core : Nat) (s : State) : Out :=
  .next <| (((s.strands.map (·.2)).filter (fun st => st.pending.isSome && st.loc.tile == tile && st.loc.core == core)).foldl
    (fun s st => s.deliver st.handle) s).deliverFaults tile core

/-! ### Tables from the lead gardener (spec/06 R115, spec/07 R119, spec/13 R253) -/

/-- TABLE_FETCH_REQUEST (spec R119): the lead gardener answers. -/
def execTableFetchRequest (msg : Nat) (s : State) : Out :=
  .next <| match s.msg? msg with
  | some (.tableReq tile kind job) =>
    if s.tileUp (job / 1024) && !(match s.job? job with | some j => j.orphan | none => false) then (s.unsend msg).sendFrom (job / 1024) (.tableAns tile kind job) else s
  | _ => s
/-- TABLE_FETCH (spec R119): the table arrives: 0 beds, 1 recipes, 2 levels. -/
def execTableFetch (msg : Nat) (s : State) : Out :=
  .next <| match s.msg? msg with
  | some (.tableAns tile kind job) =>
    let s1 := s.unsend msg
    (match s1.job? job with
     | none => s1
     | some j =>
       let t := s1.tile tile
       match kind with
       | 0 => s1.putTile tile { t with bedTables := FMap.set t.bedTables j.lrec.asid j.beds }
       | 1 => s1.putTile tile { t with cuts := FMap.set t.cuts job j.cuts }
       | _ => s1.putTile tile { t with levels := FMap.set t.levels job (j.lrec.levels.take j.lrec.nlev) })
  | _ => s

end Sys2Proof.Machine
end

