-- ==== Sys2Proof/Machine/Tables.lean ====
section
/-! DEFINITION. The mesh's shape (spec/01 R9), remap and route tables (spec/02 R28 to R33) and the protocol that changes them (spec/02
R34, R35). A router is named by its site, or 72 to 75 for the I/O dies. -/

namespace Sys2Proof.Machine

/-! ### Links (spec/01 R9, spec/02 R23, R24) -/

/-- The other end of a link: router and port. A site's ports are 0 North, 1 South, 2 West, 3 East and 5 for its I/O die; a corner site
touches two, and port 6 here is its second. Port 8 + k of an I/O die is its link to the k-th site of its edge (log 5). -/
def linkPeer (r port : Nat) : Option (Nat × Nat) :=
  let row := r / 8
  let col := r % 8
  let ns := row = 0 || row = 8
  let we := col = 0 || col = 7
  let toWe := (if col = 0 then 74 else 75, 8 + row)
  if r < 72 then
    match port with
    | 0 => if 0 < row then some (r - 8, 1) else none
    | 1 => if row < 8 then some (r + 8, 0) else none
    | 2 => if 0 < col then some (r - 1, 3) else none
    | 3 => if col < 7 then some (r + 1, 2) else none
    | 5 => if ns then some (if row = 0 then 72 else 73, 8 + col) else if we then some toWe else none
    | 6 => if ns && we then some toWe else none
    | _ => none
  else
    let k := port - 8
    if port < 8 then none
    else
      match r with
      | 72 => if k < 8 then some (k, 5) else none
      | 73 => if k < 8 then some (64 + k, 5) else none
      | 74 => if k < 9 then some (8 * k, if k = 0 || k = 8 then 6 else 5) else none
      | 75 => if k < 9 then some (8 * k + 7, if k = 0 || k = 8 then 6 else 5) else none
      | _ => none
/-- A router's ports with a link. -/
def linkPorts (r : Nat) : List Nat := (List.range 17).filter (fun p => (linkPeer r p).isSome)
def Router.port (x : Router) (p : Nat) : PortStat := FMap.getD x.ports p ⟨0, 0, 0⟩
/-- Change one port's status. -/
def State.setPort (s : State) (r p : Nat) (f : PortStat → PortStat) : State :=
  let x := s.router r
  s.putRouter r { x with ports := FMap.set x.ports p (f (x.port p)) }
/-- Set LSTATE at both ends of a link. -/
def State.setLink (s : State) (r p v : Nat) : State :=
  let s1 := s.setPort r p (fun x => { x with lstate := v })
  match linkPeer r p with
  | some (q, k) => s1.setPort q k (fun x => { x with lstate := v })
  | none => s1
/-- Is a link Up at both ends? -/
def State.linkUp (s : State) (r p : Nat) : Bool :=
  match linkPeer r p with
  | some (q, k) => ((s.router r).port p).lstate == 2 && ((s.router q).port k).lstate == 2
  | none => false
/-- Does a port's link live: Up, or Training, which carries nothing for the moment (spec/02 R23, R24)? -/
def PortStat.live (p : PortStat) : Bool := p.lstate == 1 || p.lstate == 2
/-- Is a link neither Down nor Disabled at either end: routes lead over it, and a tile behind it has a path (spec/02 R29, R30, R35, log 5)? -/
def State.linkLive (s : State) (r p : Nat) : Bool :=
  match linkPeer r p with
  | some (q, k) => ((s.router r).port p).live && ((s.router q).port k).live
  | none => false

/-! ### Remap tables (spec/02 R32, R33) -/

def remapState (e : BitVec 16) : Nat := bits e.toNat 14 2
def remapSite (e : BitVec 16) : Nat := bits e.toNat 3 4 * 8 + bits e.toNat 0 3
/-- A remap entry: 0 Unbound, 1 Live, 2 Forwarding, 3 Vacant. -/
def remapEntry (st site : Nat) : BitVec 16 := .ofNat 16 (st * 2 ^ 14 + site / 8 * 8 + site % 8)
/-- The entry of a tile in a bank of a router. -/
def Router.remapAt (x : Router) (bank t : Nat) : BitVec 16 := FMap.getD x.remap (bank * 64 + t) 0
/-- The entry of a destination, 64 to 67 the I/O dies, in a bank of a router. -/
def Router.routeAt (x : Router) (bank d : Nat) : BitVec 16 := FMap.getD x.route (bank * 128 + d) 0
/-- The site that a logical tile is bound to. -/
def State.siteOf (s : State) (t : Nat) : Option Nat :=
  let e := FMap.getD s.head.remap t 0
  if remapState e = 1 then some (remapSite e) else none
/-- The logical tile bound to a site. -/
def State.tileAt (s : State) (site : Nat) : Option Nat :=
  (s.head.remap.find? (fun kv => remapState kv.2 == 1 && remapSite kv.2 == site)).map (·.1)
/-- An error of a link stands in the error log of the tile whose router finds it: source 10, corrected by a resend or, beyond retry, not; the
I/O dies have no such log (spec/11 R220, R221). -/
def State.linkLog (s : State) (r : Nat) (unc : Bool) : State :=
  match s.tileAt r with
  | some t => s.logError t 10 unc 0 0 0
  | none => s
/-- The routers that a remap table leaves in the mesh: the bound sites, a site that is being retired and has not failed, and the I/O dies that
work. -/
def State.meshNodes (s : State) (remap : FMap (BitVec 16)) : List Nat :=
  let sites := (remap.filter (fun kv => remapState kv.2 == 1)).map (fun kv => remapSite kv.2)
  let old := match s.head.retire with | some x => if (s.site x.oldSite).status == .failed then [] else [x.oldSite] | none => []
  let dies := (List.range 4).filter s.dieWorks
  (sites ++ old).eraseDups ++ dies.map (72 + ·)

/-! ### Route tables (spec/02 R28 to R30) -/

/-- The neighbours of a router within a set of routers, with the ports that lead there over live links. -/
def State.links (s : State) (nodes : List Nat) (r : Nat) : List (Nat × Nat) :=
  (linkPorts r).filterMap (fun p =>
    match linkPeer r p with
    | some (n, _) => if s.linkLive r p && nodes.contains n then some (p, n) else none
    | none => none)

/-- A distance that stands for none. -/
def farAway : Nat := 1000
/-- Distances by breadth-first search, from a frontier at distance d. -/
def distances (next : Nat → List Nat) (frontier : List Nat) (d : Nat) (seen : FMap Nat) : Nat → FMap Nat
  | 0 => seen
  | n + 1 =>
    let new := frontier.filter (fun x => (FMap.get? seen x).isNone)
    if new.isEmpty then seen
    else
      let seen1 := new.foldl (fun m x => FMap.set m x d) seen
      distances next ((new.map next).flatten.eraseDups) (d + 1) seen1 n
def distAt (m : FMap Nat) (x : Nat) : Nat := FMap.getD m x farAway
/-- Every router that the head gardener reaches over live links (spec/02 R35). -/
def State.reached (s : State) : FMap Nat :=
  distances (fun r => (s.links (List.range 76) r).map (·.2)) [72] 0 [] 80

/-- The mesh as the gardeners compute routes on it: the sites and the I/O dies, their neighbours, their depth in the spanning tree, and the
routers to which no other leads (spec/02 R37). -/
structure Mesh where
  nodes : List Nat
  links : FMap (List (Nat × Nat))
  depth : FMap Nat
  outers : List Nat

def Mesh.linksOf (g : Mesh) (r : Nat) : List (Nat × Nat) := FMap.getD g.links r []
def Mesh.near (g : Mesh) (r : Nat) : List Nat := (g.linksOf r).map (·.2)
/-- An up hop: toward the root, or between nodes of one depth toward the lower, the I/O dies after the sites (spec/02 R30, log 5). -/
def Mesh.up (g : Mesh) (a b : Nat) : Bool :=
  decide (distAt g.depth b < distAt g.depth a) || (distAt g.depth b == distAt g.depth a && decide (b < a))
/-- The old site of a tile whose new site the tables are to name: no route of another router leads through it (spec/02 R37). -/
def State.leaving (s : State) : List Nat :=
  match s.head.retire with
  | some x => if x.copied then [x.oldSite] else []
  | none => []
/-- The live links, by router, on which the routes of an update are computed, the same for every gardener. -/
def State.linksOf (s : State) (nodes : List Nat) : FMap (List (Nat × Nat)) :=
  let core := nodes.filter (fun r => !s.leaving.contains r)
  nodes.foldl (fun m r => FMap.set m r (s.links core r)) []
/-- The least of some numbers, or farAway. -/
def least (l : List Nat) : Nat := l.foldl min farAway
/-- The mesh over a set of routers by their links, its tree rooted at a site; a router that no other leads to stands one deeper than the
shallowest of its neighbours. -/
def meshOf (links : FMap (List (Nat × Nat))) (nodes : List Nat) (root : Nat) : Mesh :=
  let near := fun r => (FMap.getD links r []).map (·.2)
  let depth := distances near [root] 0 [] 80
  let outers := nodes.filter (fun r => (FMap.get? depth r).isNone && decide (least ((near r).map (distAt depth)) < farAway))
  ⟨nodes, links, outers.foldl (fun m r => FMap.set m r (least ((near r).map (distAt depth)) + 1)) depth, outers⟩
/-- The nodes in order of depth, the lower first among equals: an up hop leads to an earlier one. -/
def Mesh.order (g : Mesh) : List Nat :=
  ((List.range 77).map (fun d => (g.depth.filter (fun kv => kv.2 == d)).map (·.1))).flatten

/-- What a router needs to route to one destination: distances over shortest paths, over down hops alone, and over up hops and then
down hops. -/
structure Toward where
  dist : FMap Nat
  down : FMap Nat
  legal : FMap Nat

/-- One hop more for the routers to which no other leads, over the neighbours that a hop may lead to. -/
def Mesh.outer (g : Mesh) (hop : Nat → Nat → Bool) (m : FMap Nat) : FMap Nat :=
  g.outers.foldl (fun a r =>
    let v := least (((g.near r).filter (hop r)).map (fun n => distAt m n + 1))
    if (FMap.get? m r).isSome || farAway ≤ v then a else FMap.set a r v) m
/-- The distances toward a destination. -/
def Mesh.toward (g : Mesh) (dest : Nat) : Toward :=
  let down := g.outer (fun r n => !g.up r n) (distances (fun m => (g.near m).filter (fun n => g.up m n)) [dest] 0 [] 80)
  let legal := g.order.foldl (fun m n =>
    let v := ((g.near n).filter (fun x => g.up n x)).foldl (fun b x => min b (distAt m x + 1)) (distAt down n)
    if v < farAway then FMap.set m n v else m) ([] : FMap Nat)
  ⟨g.outer (fun _ _ => true) (distances g.near [dest] 0 [] 80), down, legal⟩

/-- A route entry. -/
def routeEntry (u d mask : Nat) : BitVec 16 := .ofNat 16 (u * 512 + d * 64 + mask)
/-- The code of a port that leads nowhere (spec/02 R28). -/
def noPort : Nat := 7
/-- The code of a router's port: every link of an I/O die, and every link to one, has code 5 (log 5). -/
def portCode (r p : Nat) : Nat := if r < 72 && p < 4 then p else 5
/-- The links that code 5 stands for among some ports, as a mask. -/
def ioMask (r : Nat) (ports : List Nat) : Nat := ((ports.filter (fun p => portCode r p == 5)).map (2 ^ ·)).sum
/-- The entry at a router toward a destination, with the links that code 5 stands for: adaptive, in phase up, in phase down (spec/02
R29, R30). -/
def Mesh.entry (g : Mesh) (r dest : Nat) (w : Toward) : BitVec 16 × List Nat :=
  if r = dest then (routeEntry 4 4 16, [0, 0, 0])
  else
    let l := g.linksOf r
    let near := (l.filter (fun p => distAt w.dist p.2 + 1 == distAt w.dist r)).map (·.1)
    let d := (l.find? (fun p => !g.up r p.2 && distAt w.down p.2 + 1 == distAt w.down r && distAt w.down r != farAway)).map (·.1)
    let u := if distAt w.down r = distAt w.legal r && distAt w.down r ≠ farAway then d
      else (l.find? (fun p => g.up r p.2 && distAt w.legal p.2 + 1 == distAt w.legal r)).map (·.1)
    let code := fun (p : Option Nat) => match p with | some n => portCode r n | none => noPort
    (routeEntry (code u) (code d) (((near.map (portCode r)).eraseDups.map (2 ^ ·)).sum),
      [ioMask r near, ioMask r u.toList, ioMask r d.toList])
/-- The destinations of a route table: bound tiles with their sites, and the I/O dies. -/
def destinations (remap : FMap (BitVec 16)) (nodes : List Nat) : List (Nat × Nat) :=
  (remap.filter (fun kv => remapState kv.2 == 1)).map (fun kv => (kv.1, remapSite kv.2))
  ++ ((List.range 4).filter (fun d => nodes.contains (72 + d))).map (fun d => (64 + d, 72 + d))
/-- What a router's gardener computes: the route table by destination, the links that code 5 stands for (destination * 4 + phase), and the
ports whose hop is an up hop. -/
structure Routes where
  table : FMap (BitVec 16)
  io : FMap Nat
  ups : Nat
/-- The root of the spanning tree: the site of logical tile 0, or of the lowest-numbered tile that is bound (spec/02 R30, log 5). -/
def rootOf (remap : FMap (BitVec 16)) : Nat :=
  match remap.find? (fun kv => remapState kv.2 == 1) with
  | some kv => remapSite kv.2
  | none => 0
/-- The routes of a router by the links of an update (spec/02 R28 to R30). -/
def routesOf (links : FMap (List (Nat × Nat))) (remap : FMap (BitVec 16)) (nodes : List Nat) (r : Nat) : Routes :=
  let g := meshOf links nodes (rootOf remap)
  let es := (destinations remap nodes).map (fun p => (p.1, g.entry r p.2 (g.toward p.2)))
  ⟨es.foldl (fun m p => FMap.set m p.1 p.2.1) [],
   es.foldl (fun m p => (p.2.2.zip (List.range 3)).foldl (fun m k => if k.1 = 0 then m else FMap.set m (p.1 * 4 + k.2) k.1) m) [],
   (((g.linksOf r).filter (fun p => g.up r p.2)).map (fun p => 2 ^ p.1)).sum⟩

/-! ### The protocol (spec/02 R34) -/

/-- Write both tables into a bank of a router. At the old site of a tile being moved its entry reads Forwarding (spec/02 R37). -/
def State.writeBank (s : State) (r bank : Nat) (remap : FMap (BitVec 16)) (routes : Routes) : State :=
  let x := s.router r
  let old := match s.head.retire with | some y => if y.oldSite = r && y.copied then some y.tile else none | none => none
  let remap1 := match old with
    | some t => FMap.set remap t (.ofNat 16 ((FMap.getD remap t 0).toNat % 2 ^ 14 + 2 * 2 ^ 14))
    | none => remap
  s.putRouter r { x with
    remap := remap1.foldl (fun m kv => FMap.set m (bank * 64 + kv.1) kv.2) (x.remap.filter (fun kv => kv.1 / 64 != bank))
    route := routes.table.foldl (fun m kv => FMap.set m (bank * 128 + kv.1) kv.2) (x.route.filter (fun kv => kv.1 / 128 != bank))
    io := routes.io.foldl (fun m kv => FMap.set m (bank * 512 + kv.1) kv.2) (x.io.filter (fun kv => kv.1 / 512 != bank))
    ups := FMap.set x.ups bank routes.ups }
/-- A router flips ACTIVE, and takes the epoch. -/
def State.flip (s : State) (r epoch : Nat) : State :=
  let x := s.router r
  s.putRouter r { x with active := 1 - x.active, epoch := epoch }
/-- A router that joins the mesh uses the bank and the epoch of the rest (spec/02 R33, R34). -/
def State.inStep (s : State) (r : Nat) : State :=
  let x := s.router r
  let a := (s.router 72).active
  if x.active = a then s else s.putRouter r { x with active := a, epoch := s.head.epoch }
/-- The messages of an update, one for each of some routers. They are of class 0 and cross from gardener to gardener without a route: under the
tables that they replace, one behind a Down link would wait for its own commit (spec/02 R34, R35, log 5). -/
def State.sendEach (s : State) (nodes : List Nat) (m : Nat → Msg) : State := nodes.foldl (fun s r => s.send (m r)) s
/-- The message of an update that has come to a router's gardener or from it. -/
def State.tableMsg (s : State) (m : Msg) : Option Nat := (s.msgs.find? (fun kv => kv.2 == m)).map (·.1)
/-- Begin an update to the head gardener's binding, or note that one must follow the update under way. -/
def State.startUpdate (s : State) : State :=
  if s.head.update.isSome then { s with head := { s.head with stale := true } }
  else
    let nodes := s.meshNodes s.head.remap
    let s1 := nodes.foldl State.inStep s
    ({ s1 with head := { s1.head with
        stale := false
        update := some ⟨(s.head.epoch + 1) % 65536, s.head.remap, s1.linksOf nodes, nodes, [], [], false, []⟩ } }).sendEach nodes .tableUpdate
/-- TABLE_UPDATE_RECEIVE (spec R34): a gardener computes its route table, writes both tables into the inactive bank and acknowledges. -/
def execTableUpdateReceive (router : Nat) (s : State) : Out :=
  .next <| match s.head.update, s.tableMsg (.tableUpdate router) with
  | some u, some id =>
    if !u.nodes.contains router || u.received.contains router then s.unsend id
    else
      let s1 := (s.unsend id).writeBank router (1 - (s.router router).active) u.remap (routesOf u.links u.remap u.nodes router)
      ({ s1 with head := { s1.head with update := some { u with received := u.received ++ [router] } } }).send (.tableAck router)
  | _, _ => s
/-- The head gardener sends Commit once every router of the update has acknowledged. -/
def State.commitWhenAll (s : State) (u : TableUpdate) : State :=
  let all := u.nodes.all (fun r => u.acked.contains r)
  let s1 := { s with head := { s.head with update := some { u with committing := all } } }
  if all && !u.committing then s1.sendEach u.nodes .tableCommit else s1
/-- TABLE_ACK (spec R34): an acknowledgement reaches the head gardener; with the last one Commit goes out. -/
def execTableAck (router : Nat) (s : State) : Out :=
  .next <| match s.head.update, s.tableMsg (.tableAck router) with
  | some u, some id =>
    if !u.received.contains router || u.acked.contains router then s.unsend id
    else (s.unsend id).commitWhenAll { u with acked := u.acked ++ [router] }
  | _, _ => s

/-- A router clears a Down port from AMASK of every entry of both banks: a port of its own, or one of the links of code 5, whose bit goes
with the last of them (spec/02 R35). -/
def State.clearPort (s : State) (r p : Nat) : State :=
  let x := s.router r
  if portCode r p < 4 then
    s.putRouter r { x with route := FMap.mapVals x.route (fun _ (e : BitVec 16) => e &&& ~~~BitVec.ofNat 16 (2 ^ p)) }
  else
    let io := FMap.mapVals x.io (fun k n => if k % 4 = 0 then n - bits n p 1 * 2 ^ p else n)
    s.putRouter r { x with
      io := io
      route := FMap.mapVals x.route (fun k (e : BitVec 16) => if FMap.getD io (k * 4) 0 = 0 then e &&& ~~~(32#16) else e) }
/-- The node of a router: its tile, or 64 + its number for an I/O die. -/
def State.nodeOf (s : State) (r : Nat) : Option Nat := if 72 ≤ r then some (r - 8) else s.tileAt r
/-- Is a tile not bound in a bank of a router (spec/02 R32)? -/
def Router.unbound (x : Router) (bank d : Nat) : Bool :=
  decide (d < 64) && (remapState (x.remapAt bank d) == 0 || remapState (x.remapAt bank d) == 3)
/-- A flit as a router takes it up: one of the old parity for a tile that has moved away from here is injected again with the new parity
(spec/02 R37). -/
def Router.reclassify (x : Router) (f : Flit) : Flit :=
  if f.dst < 64 && f.parity != x.active && remapState (x.remapAt x.active f.dst) == 2 then
    { f with parity := x.active, escape := false, up := true }
  else f
/-- The ports that a router's entry names for a flit, by the bank of its parity, on its channel; none stands for ejection. -/
def Router.named (x : Router) (f : Flit) : List (Option Nat) :=
  let e := (x.routeAt f.parity f.dst).toNat
  let io := fun (ph : Nat) => ((List.range 17).filter (fun p => bits (FMap.getD x.io ((f.parity * 128 + f.dst) * 4 + ph) 0) p 1 == 1)).map some
  if f.escape then
    let code := if f.up then bits e 9 3 else bits e 6 3
    if code = 4 then [none] else if code < 4 then [some code] else if code = 5 then io (if f.up then 1 else 2) else []
  else
    (if bits e 4 1 = 1 then [none] else []) ++ ([0, 1, 2, 3].filter (fun p => bits e p 1 == 1)).map some
    ++ (if bits e 5 1 = 1 then io 0 else [])
/-- Those of the named ports whose links are Up. -/
def State.exits (s : State) (r : Nat) (f : Flit) : List (Option Nat) :=
  ((s.router r).named f).filter (fun e => match e with | none => true | some p => s.linkUp r p)
/-- Does a flit meet a port code that names no port (spec/02 R28)? -/
def Router.misroutes (x : Router) (f : Flit) : Bool :=
  let e := (x.routeAt f.parity f.dst).toNat
  f.escape && decide (6 ≤ (if f.up then bits e 9 3 else bits e 6 3))
/-- Has a flit no port left but Down ones, on its channel or, from the adaptive channel, on the escape channel (spec/02 R35)? -/
def State.stuck (s : State) (r : Nat) (f : Flit) : Bool :=
  let x := s.router r
  let esc := { f with escape := true, up := f.up || !f.escape }
  !((if f.escape then [] else x.named f) ++ x.named esc).any (fun e => match e with | none => true | some p => s.linkLive r p) && !x.misroutes esc
/-- An old flit that is stuck takes the tables that the router has committed; one on an escape channel stays on it (spec/02 R29, R35, log
5). -/
def State.rerouted (s : State) (r : Nat) (f : Flit) : Flit :=
  let x := s.router r
  if f.parity != x.active && s.stuck r f then { f with parity := x.active, up := true } else f
/-- A flit is lost, and its message with it (spec/02 R28, R32, R38). -/
def State.flitLost (s : State) (id : Nat) : State :=
  match FMap.get? s.transit id with
  | some t => { s with transit := FMap.set s.transit id { t with lost := true } }
  | none => s
/-- A flit comes to stand in a router: one for an Unbound or Vacant tile becomes an error response on class 1 to its source, and a response
to such a tile is dropped (spec/02 R32, log 37); an old one for a tile that has moved is injected again with the new parity (R37), and one
that has no way left takes the new tables (R35). -/
def State.holdFlit (s : State) (r : Nat) (f : Flit) : State :=
  let x := s.router r
  let drop := (s.putRouter r { x with dropped := x.dropped + 1 }).flitLost f.id
  let g := s.rerouted r (x.reclassify f)
  if !x.unbound g.parity g.dst then s.putRouter r { x with buf := x.buf ++ [g] }
  else if f.cls = 1 || x.unbound x.active f.src then drop
  else s.putRouter r { x with
    buf := x.buf ++ [{ f with src := f.dst, dst := f.src, cls := 1, escape := false, up := true, parity := x.active }] }
/-- The flits that stand in a router are taken up anew, in their order. -/
def State.rehold (s : State) (r : Nat) : State :=
  let x := s.router r
  x.buf.foldl (fun s f => s.holdFlit r f) (s.putRouter r { x with buf := [] })
/-- TABLE_COMMIT (spec R34): a router receives Commit between two flits; a port that is Down is cleared from its new tables, flits that
found no way take the new ones, those for a tile that has moved follow it, and one for a tile that is Vacant there is answered. -/
def execTableCommit (router : Nat) (s : State) : Out :=
  .next <| match s.head.update, s.tableMsg (.tableCommit router) with
  | some u, some id =>
    if !u.committing || !u.nodes.contains router || u.committed.contains router then s.unsend id
    else
      let l := u.committed ++ [router]
      let s1 := (linkPorts router).foldl (fun s p => if s.linkLive router p then s else s.clearPort router p) ((s.unsend id).flip router u.epoch)
      let s2 := s1.rehold router
      { s2 with head := { s2.head with
          update := some { u with committed := l }
          epoch := if u.nodes.all (fun r => l.contains r) then u.epoch else s2.head.epoch } }
  | _, _ => s
/-- OLDBUSY (spec/02 R33): flits of the inactive bank's parity remain in a router, or on the way into it. -/
def Router.oldBusy (x : Router) : Bool :=
  x.buf.any (fun f => f.parity != x.active) || x.wire.any (fun kv => kv.2.any (fun f => f.parity != x.active))
/-- OLD_BANK_RELEASE (spec R34): no router holds a flit of the old parity; a further update may start. -/
def execOldBankRelease (s : State) : Out :=
  .next <| match s.head.update with
  | none => s
  | some u =>
    if u.nodes.all (fun r => u.committed.contains r) && u.nodes.all (fun r => !(s.router r).oldBusy) then
      let s1 := { s with head := { s.head with update := none, epoch := u.epoch } }
      if s.head.stale then s1.startUpdate else s1
    else s

end Sys2Proof.Machine
end

