-- ==== Sys2Proof/Machine/Bringup.lean ====
section
/-! DEFINITION. Bring-up (spec/03 R41 to R45), images (R42), attestation (R46), the retirement log (R47), the binder (spec/02 R31), the
loss of power and reset (spec/03 R47, R50). -/

namespace Sys2Proof.Machine

/-! ### Images (spec/03 R42) -/

/-- n bytes of an image's header from an offset, the first the lowest (log 4). -/
def Image.field (i : Image) (off n : Nat) : Nat := leValue ((i.header.drop off).take n)
def Image.magic (i : Image) : Nat := i.field 0 4
def Image.kind (i : Image) : Nat := i.field 4 2
def Image.key (i : Image) : Nat := i.field 6 2
def Image.version (i : Image) : Nat := i.field 8 4
def Image.bodyLen (i : Image) : Nat := i.field 0xC 4
def Image.hash (i : Image) : BitVec 384 := .ofNat 384 (i.field 0x10 48)
/-- The whole body: as many bytes from 0x1000 on as the header says. -/
def Image.body (i : Image) : List Byte := i.store.take i.bodyLen
/-- What the signatures cover. -/
def Image.signed (i : Image) : List Byte := i.header ++ i.body
/-- Is an image accepted: both signatures, the key's revocation, the body's hash, the security version, and the reserved bytes of the header
(spec/03 R42)? -/
def State.imageOk (s : State) (i : Image) : Bool :=
  Config.ed25519Ok (FMap.getD s.head.edKeys i.key 0) i.signed i.sigEd && Config.mldsaOk (FMap.getD s.head.mlKeys i.key 0) i.signed i.sigMl
  && decide (i.key < 8) && !s.head.revoked.getLsbD i.key && i.hash == Config.sha384 i.body
  && decide (s.head.secver ≤ i.version) && i.field 0x40 192 == 0 && i.header.length == 256 && decide (i.bodyLen ≤ i.store.length)
/-- An I/O die's boot ROM: slot A, then slot B, else the safe talkative state. A die whose two slots are rejected has no measured image: its
entry of the report stays zero (log 37). -/
def State.bootDie (s : State) (d : Nat) : State :=
  let x := s.die d
  let ok := fun (i : Option Image) => match i with | some y => if s.imageOk y then some y else none | none => none
  match (ok x.slotA).or (ok x.slotB) with
  | some y => s.putDie d { x with booted := true, talkative := false, off := false, measure := y.hash }
  | none =>
    let s1 := s.putDie d { x with booted := false, talkative := true, off := false }
    { s1 with head := { s1.head with diefail := s1.head.diefail ||| .ofNat 4 (2 ^ d) } }

/-! ### The retirement log (spec/03 R47) -/

/-- A CRC-32C over bits, least significant first. -/
def crc32c (c v : Nat) : Nat → Nat
  | 0 => c
  | n + 1 => crc32c (if (c + v) % 2 = 1 then Nat.xor (c / 2) 0x82F63B78 else c / 2) (v / 2) n
/-- Bits 447 to 0 of an entry as one number. -/
def LogEntry.low (e : LogEntry) : Nat :=
  e.seq % 2 ^ 64 * 2 ^ 384 + e.kind * 2 ^ 376 + e.site / 8 * 2 ^ 372 + e.site % 8 * 2 ^ 368 + e.col * 2 ^ 364 + e.lane * 2 ^ 352
    + e.cause % 2 ^ 32 * 2 ^ 320 + e.bootno % 2 ^ 32 * 2 ^ 288 + e.count
/-- The CRC that an entry's bits call for. -/
def LogEntry.goodCrc (e : LogEntry) : Nat := Nat.xor (crc32c 0xFFFFFFFF e.low 448) 0xFFFFFFFF
/-- The 64 bytes of an entry as one number. -/
def LogEntry.word (e : LogEntry) : Nat := e.commit * 2 ^ 480 + e.crc * 2 ^ 448 + e.low
/-- An entry as the head gardener writes it, committed. -/
def newEntry (seq kind site col lane cause bootno count : Nat) : LogEntry :=
  let e : LogEntry := ⟨seq, kind, site, col, lane, cause, bootno, count, 0, 0x5A5AC3C3⟩
  { e with crc := e.goodCrc }
/-- Is an entry committed with a good CRC, and of a kind that there is? -/
def LogEntry.ok (e : LogEntry) : Bool := e.commit == 0x5A5AC3C3 && e.crc == e.goodCrc && decide (e.kind ≤ 3)
/-- A half is usable when its Seal and the entries that it counts are committed. -/
def halfUsable : List LogEntry → Bool
  | [] => false
  | x :: l => x.ok && x.kind == 0 && decide (x.count ≤ l.length) && (l.take x.count).all LogEntry.ok
/-- The half in use. -/
def RetireLog.half (g : RetireLog) : List LogEntry := if g.cur = 0 then g.half0 else g.half1
def RetireLog.setHalf (g : RetireLog) (l : List LogEntry) : RetireLog :=
  if g.cur = 0 then { g with half0 := l } else { g with half1 := l }
/-- The retirements in force: the committed entries but Seals. -/
def RetireLog.inForce (g : RetireLog) : List LogEntry := g.half.filter (fun e => e.ok && e.kind != 0)
/-- SEQ of the last committed entry. -/
def RetireLog.lastSeq (g : RetireLog) : Nat := (g.half.filter LogEntry.ok).foldl (fun _ e => e.seq) 0
/-- A torn append, neither committed nor void, is voided. -/
def voidTorn (l : List LogEntry) : List LogEntry :=
  l.map (fun e => if e.commit = 0x5A5AC3C3 || e.commit = 0 then e else { e with commit := 0 })
/-- Choose the half to go on with; none when neither is usable and the log is not blank. -/
def RetireLog.recover (g : RetireLog) (bootno : Nat) : Option RetireLog :=
  if g.half0.isEmpty && g.half1.isEmpty then some ⟨[newEntry 0 0 0 0 0 0 bootno 0], [], 0⟩
  else
    let sealSeq := fun (l : List LogEntry) => ((l.head?).map (·.seq)).getD 0
    let use := fun n => let x := { g with cur := n }; some (x.setHalf (voidTorn x.half))
    match halfUsable g.half0, halfUsable g.half1 with
    | true, true => use (if sealSeq g.half0 < sealSeq g.half1 then 1 else 0)
    | true, false => use 0
    | false, true => use 1
    | false, false => none

/-- Is a retirement covered by another in force? -/
def covered (l : List LogEntry) (e : LogEntry) : Bool :=
  (e.kind != 1 && l.any (fun x => x.kind == 1 && x.site == e.site))
  || (e.kind == 3 && l.any (fun x => x.kind == 2 && x.site == e.site && x.col == e.col))
/-- The column with the most lane entries, the lowest site and column among equals. -/
def worstColumn (l : List LogEntry) : Option (Nat × Nat) :=
  let lanes := l.filter (fun e => e.kind == 3)
  let count := fun (p : Nat × Nat) => (lanes.filter (fun e => e.site == p.1 && e.col == p.2)).length
  let better := fun (p b : Nat × Nat) => decide (count b < count p) || (count b == count p && decide (p.1 * 16 + p.2 < b.1 * 16 + b.2))
  lanes.foldl (fun b e =>
    match b with
    | none => some (e.site, e.col)
    | some c => if better (e.site, e.col) c then some (e.site, e.col) else b) none
/-- Replace lane entries by Column entries until the copy fits; the columns so retired are listed. -/
def mergeLanes (bootno : Nat) (l : List LogEntry) (gone : List (Nat × Nat)) : Nat → List LogEntry × List (Nat × Nat)
  | 0 => (l, gone)
  | n + 1 =>
    if l.length ≤ 1023 then (l, gone)
    else
      match worstColumn l with
      | none => (l, gone)
      | some (site, col) =>
        let rest := l.filter (fun e => !(e.kind == 3 && e.site == site && e.col == col))
        let new := newEntry 0 2 site col 0 0xFFFF0001 bootno 0
        mergeLanes bootno ((rest.filter (fun e => e.kind != 3)) ++ [new] ++ rest.filter (fun e => e.kind == 3)) (gone ++ [(site, col)]) n
/-- Entries numbered from a SEQ. -/
def renumber (seq : Nat) : List LogEntry → List LogEntry
  | [] => []
  | e :: l => newEntry seq e.kind e.site e.col e.lane e.cause e.bootno e.count :: renumber (seq + 1) l
/-- The other half is erased and takes a Seal and the retirements in force, with those that are now to be retired. -/
def RetireLog.compact (g : RetireLog) (bootno : Nat) (more : List LogEntry) : RetireLog × List (Nat × Nat) :=
  let all := g.inForce ++ more
  let kept := all.filter (fun e => !covered all e)
  let kind := fun k => kept.filter (fun e => e.kind == k)
  let m := mergeLanes bootno (kind 1 ++ kind 2 ++ kind 3) [] 1200
  let seq := g.lastSeq + 1
  let first := newEntry seq 0 0 0 0 0 bootno m.1.length
  (({ g with cur := 1 - g.cur } : RetireLog).setHalf (first :: renumber (seq + 1) m.1), m.2)
/-- Append an entry. With the half full, the copy into the other half holds the new retirement too, so that the copy's bound of 1,023
entries leaves it a place (log 37); each column retired by that raises Repair with bit 62 (spec/04 R63). -/
def State.logAppend (s : State) (kind site col lane cause : Nat) : State :=
  let e := newEntry (s.head.log.lastSeq + 1) kind site col lane cause s.head.bootno 0
  if 1024 ≤ s.head.log.half.length then
    let r := s.head.log.compact s.head.bootno [e]
    r.2.foldl (fun s p => s.raiseMain 0x23 ((s.tileAt p.1).getD 0) (2 ^ 62 + p.2 * 65536)) { s with head := { s.head with log := r.1 } }
  else { s with head := { s.head with log := s.head.log.setHalf (s.head.log.half ++ [e]) } }
/-- Append an entry whose CAUSE is a self-test code, of which the spec gives no list (log 3). -/
def State.logSelfTest (s : State) (kind site col lane : Nat) : State :=
  s.bump.logAppend kind site col lane (Config.freeWord s.fresh).toNat

/-- The retired lanes of a column, in the order of their retirement. -/
def State.deadLanes (s : State) (site col : Nat) : List Nat :=
  (s.head.log.inForce.filter (fun e => e.kind == 3 && e.site == site && e.col == col)).map (·.lane)
/-- The spares that are left of a column's sixteen (spec/03 R48). -/
def goodSpares (dead : List Nat) : List Nat := ((List.range 16).map (1024 + ·)).filter (fun n => !dead.contains n)
/-- Does a column have a spare for every working lane that is retired? -/
def laneFits (dead : List Nat) : Bool := decide (((dead.filter (· < 1024)).eraseDups).length ≤ (goodSpares dead).length)
/-- Is a column retired: a Column entry is in force, such as one that stands for its lanes after a compaction (spec/03 R47)? -/
def State.colRetired (s : State) (site col : Nat) : Bool :=
  s.head.log.inForce.any (fun e => e.kind == 2 && e.site == site && e.col == col)
/-- Has a site a retirement in force, its own or a column's? Such a site takes no tile (spec/03 R47). -/
def State.siteRetired (s : State) (site : Nat) : Bool :=
  s.head.log.inForce.any (fun e => (e.kind == 1 || e.kind == 2) && e.site == site)
/-- Can one more lane of a column be repaired: the column is not retired, and a spare is free for each retired lane? -/
def State.repairable (s : State) (site col lane : Nat) : Bool :=
  !s.colRetired site col && laneFits (s.deadLanes site col ++ [lane])
/-- The spare that each retired lane is mapped to. The spec says 'a free spare' and no more: the lowest-numbered good spares go to the retired
lanes in the order of their retirement, so that a spare that is itself retired moves the lanes mapped from it on (DESIGN CHOICE, log 37). -/
def laneMap (dead : List Nat) : FMap Nat :=
  (((dead.filter (· < 1024)).eraseDups).zip (goodSpares dead)).foldl (fun m p => FMap.set m p.1 p.2) []

/-! ### Self-test and binding (spec/03 R41, R43, spec/02 R31) -/

/-- The lanes that a self-test finds failing and that are not retired yet. -/
def State.newLanes (s : State) (site : Nat) (r : SelfTest) : List (Nat × Nat) :=
  (r.lanes.filter (fun p => decide (p.1 < 16) && decide (p.2 < 1040) && !(s.deadLanes site p.1).contains p.2)).eraseDups
/-- The head gardener takes a self-test: lanes are mapped to spares, a column without enough and a site that fails are retired. -/
def State.judge (s : State) (site : Nat) (r : SelfTest) : State × Bool :=
  let dead := fun (c : Nat) => s.deadLanes site c ++ ((s.newLanes site r).filter (fun p => p.1 == c)).map (·.2)
  let bad := (List.range 16).filter (fun c => !laneFits (dead c))
  let s1 := ((s.newLanes site r).filter (fun p => !bad.contains p.1)).foldl (fun s p => s.logSelfTest 3 site p.1 p.2) s
  let s2 := bad.foldl (fun s c => s.logSelfTest 2 site c 0) s1
  if !r.pass then (s2.logSelfTest 1 site 0 0, false) else (s2, !s2.siteRetired site)
def State.setSite (s : State) (k : Nat) (v : SiteStatus) : State := s.putSite k { s.site k with status := v }
/-- The sites with a status. -/
def State.sitesIn (s : State) (v : SiteStatus) : List Nat := (List.range 72).filter (fun k => (s.site k).status == v)

/-- Step 1 of the binder: logical tiles with their sites, column by column. -/
def bindColumns (live : List Nat) (rows : Nat) : FMap Nat :=
  (List.range 8).foldl (fun m c =>
    ((List.range rows).zip (live.filter (fun k => k % 8 == c))).foldl (fun m p => FMap.set m (p.1 * 8 + c) p.2) m) []
/-- The distance in physical hops between two places. -/
def hops (a b : Nat) : Nat := (a / 8 - b / 8) + (b / 8 - a / 8) + (a % 8 - b % 8) + (b % 8 - a % 8)
/-- The nearest of some sites, the lower physical row and then the lower column among equals. -/
def nearest (place : Nat) (l : List Nat) : Option Nat :=
  l.foldl (fun b k =>
    match b with
    | none => some k
    | some x => if hops place k < hops place x || (hops place k == hops place x && decide (k < x)) then some k else b) none
/-- Step 3: the tiles left over take the nearest spares. -/
def bindRest (rows : Nat) (live : List Nat) (m : FMap Nat) : FMap Nat :=
  (List.range (rows * 8)).foldl (fun m t =>
    if (FMap.get? m t).isSome then m
    else
      match nearest t (live.filter (fun k => !m.any (fun kv => kv.2 == k))) with
      | some k => FMap.set m t k
      | none => m) m
/-- The tile's state as its site enters service: registers at reset, its lanes mapped, CYC at some count since its release (spec/06
R94). -/
def State.startTile (s : State) (t site : Nat) : State :=
  let x := Tile.reset
  let s1 := { s with
    cores := s.cores.filter (fun kv => kv.1 / 768 != t), quads := s.quads.filter (fun kv => kv.1 / 4 != t) }.putTile t { x with
    cyc := (Config.freeWord s.fresh).toNat
    pow := { x.pow with mode := .run } }
  (List.range 16).foldl (fun s c => s.putCol (colKey t c) { s.col (colKey t c) with lanes := laneMap (s.deadLanes site c) }) s1.bump
/-- The links among the routers of the mesh are Up. -/
def State.trainLinks (s : State) (nodes : List Nat) : State :=
  nodes.foldl (fun s r => (linkPorts r).foldl (fun s p =>
    match linkPeer r p with
    | some (q, _) => if nodes.contains q then s.setPort r p (fun x => { x with lstate := 2 }) else s
    | none => s) s) s
/-- The first tables are committed, with epoch 1 (spec/03 R41). -/
def State.firstTables (s : State) : State :=
  let nodes := s.meshNodes s.head.remap
  let s1 := s.trainLinks nodes
  let links := s1.linksOf nodes
  let s2 := nodes.foldl (fun (a : State) r =>
    (a.writeBank r (1 - (a.router r).active) s1.head.remap (routesOf links s1.head.remap nodes r)).flip r 1) s1
  { s2 with head := { s2.head with epoch := 1 } }
/-- The binder builds the grid, or too few sites are live (spec/02 R31, spec/03 R45). -/
def State.bindGrid (s : State) : State :=
  let live := s.sitesIn .live
  let s1 := { s with head := { s.head with live := live.length, phase := 4 } }
  if live.length < 56 then { s1 with head := { s1.head with err := 3, phase := 6 } }
  else
    let rows := if 64 ≤ live.length then 8 else 7
    let m := bindRest rows live (bindColumns live rows)
    let remap : FMap (BitVec 16) := m.map (fun kv => (kv.1, remapEntry 1 kv.2))
    let spares := live.filter (fun k => !m.any (fun kv => kv.2 == k))
    let s2 := spares.foldl (fun s k => s.setSite k .unpowered) { s1 with head := { s1.head with remap := remap, grid7 := rows == 7 } }
    let s3 := (m.foldl (fun s kv => s.startTile kv.1 kv.2) s2).firstTables
    let s4 := if rows = 7 then s3.raiseMain 2 0 7 else s3
    ({ s4 with head := { s4.head with phase := 5 } }).raiseMain 1 0 rows

/-- POWER_ON (spec R41): the I/O dies verify their images, the log is recovered, and the sites are powered and released. Without the cold
plates at flow the I/O dies are held in reset and every site stays without power (spec/01 R22). -/
def execPowerOn (s : State) : Out :=
  .next <|
    if s.head.powered || !s.head.flow then s
    else
      let s1 := (List.range 4).foldl State.bootDie
        { s with head := { s.head with powered := true, phase := 1, bootno := s.head.bootno + 1, diefail := 0 } }
      if !(s1.die 0).booted then { s1 with head := { s1.head with err := 1, phase := 6 } }
      else
        match s1.head.log.recover s1.head.bootno with
        | none => { s1 with head := { s1.head with err := 2, phase := 6 } }
        | some g =>
          let s2 := { s1 with head := { s1.head with log := g, phase := 3 } }
          (List.range 72).foldl (fun s k =>
            let l := g.inForce.filter (fun e => e.site == k)
            s.setSite k (if l.any (fun e => e.kind == 1) then .retired else if l.any (fun e => e.kind == 2) then .talkative else .released)) s2
/-- TILE_BOOT (spec R41): the tile gardener verifies its image, runs self-test and reports; one whose image is rejected does not report. -/
def execTileBoot (site : Nat) (res : SelfTest) (s : State) : Out :=
  .next <| match s.head.tileImage with
  | some i =>
    if s.head.phase = 3 && (s.site site).status == .released && s.imageOk i then s.putSite site ⟨.tested, some res, i.hash⟩ else s
  | none => s
/-- Bind once no powered site has still to report. -/
def State.bindWhenAll (s : State) : State :=
  if (s.sitesIn .released).isEmpty && (s.sitesIn .tested).isEmpty then s.bindGrid else s
/-- SELF_TEST_REPORT (spec R41): the head gardener receives a report, and binds the grid with the last one. -/
def execSelfTestReport (site : Nat) (s : State) : Out :=
  .next <| match (s.site site).status, (s.site site).report with
  | .tested, some r =>
    if s.head.phase ≠ 3 then s
    else
      match s.judge site r with
      | (s1, ok) =>
        let s2 := s1.setSite site (if ok then .live else .failed)
        ({ s2 with head := { s2.head with live := (s2.sitesIn .live).length } }).bindWhenAll
  | _, _ => s
/-- BIND_TIMEOUT (spec R41): 5 s after the release, the sites that have not reported count as failed, and the grid is bound. -/
def execBindTimeout (s : State) : Out :=
  .next <|
    if s.head.phase ≠ 3 then s
    else
      ((s.sitesIn .released ++ s.sitesIn .tested).foldl (fun s k => (s.logSelfTest 1 k 0 0).setSite k .failed) s).bindGrid

/-! ### Attestation and fuses (spec/03 R42, R46, R49) -/

/-- Bits of one-bit or two-bit items, item i at bit i times the width, as bytes. -/
def packBits (w n : Nat) (f : Nat → Nat) : List Byte := leBytes (((List.range 64).map (fun i => f i * 2 ^ (w * i))).sum) n
def DebugState.code : DebugState → Nat
  | .closed => 0 | .opened => 1 | .halting => 2
/-- The measurement of the image of a bound tile, zero for an Unbound one. -/
def State.tileMeasure (s : State) (t : Nat) : BitVec 384 :=
  let e := FMap.getD s.head.remap t 0
  if remapState e = 0 then 0 else (s.site (remapSite e)).measure
/-- Bytes 0x0000 to 0x0D3F of the attestation report (spec/03 R46). The hash of the committed log is taken over the 64 bytes of every committed
entry of the half in use, the Seal among them, in their order, void entries left out (log 37). -/
def State.attestBody (s : State) (nonce : BitVec 256) : List Byte :=
  let bound := fun t => remapState (FMap.getD s.head.remap t 0) != 0
  leBytes nonce.toNat 32 ++ [if s.head.production then 1 else 0, if s.head.grid7 then 7 else 8] ++ List.replicate 14 0
  ++ ((List.range 4).map (fun d => leBytes (s.die d).measure.toNat 48)).flatten
  ++ ((List.range 64).map (fun t => leBytes (s.tileMeasure t).toNat 48)).flatten
  ++ packBits 2 16 (fun t => if bound t then (DebugState.code (s.tile t).debug) else 0)
  ++ packBits 1 8 (fun t => if bound t && (s.tile t).opened then 1 else 0)
  ++ leBytes s.head.log.lastSeq 8
  ++ leBytes (Config.sha384 (((s.head.log.half.filter LogEntry.ok).map (fun e => leBytes e.word 64)).flatten)).toNat 48
/-- ATTESTATION_REQUEST (spec R46): the signed report is returned. -/
def execAttestationRequest (nonce : BitVec 256) (s : State) : Out :=
  let b := s.attestBody nonce
  .next (if (s.die 0).booted && s.head.powered then s.reply (.bytes (b ++ leBytes (Config.ed25519Sign b) 64 ++ leBytes (Config.mldsaSign b) 3309)) else s)
/-- What the signature of a fuse command covers: its eight bytes, the operand in the low four and the command above (log 4). -/
def fuseBody (ver : Nat) : List Byte := leBytes ver 8
/-- FUSE_COMMAND (spec R42, R49): a command signed by a key that is not revoked: 0 raises the security-version counter, 1 blows the fuse of the
security state, cmd being bits 63 to 32 of ver; any other, among them a return to Development (spec R51), is refused. -/
def execFuseCommand (ver sig : Nat) (s : State) : Out :=
  let cmd := bits ver 32 32
  let ok := (List.range 8).any (fun i => !s.head.revoked.getLsbD i && Config.ed25519Ok (FMap.getD s.head.edKeys i 0) (fuseBody ver) sig)
  .next <|
    if !((s.die 0).booted && s.head.powered) then s
    else if ok && cmd == 0 then
      ({ s with head := { s.head with secver := max s.head.secver (ver % 2 ^ 32) } }).reply (.status "Accepted")
    else if ok && cmd == 1 then ({ s with head := { s.head with production := true } }).reply (.status "Accepted")
    else s.reply (.status "Refused")

/-! ### Reset, loss of power, powering off (spec/03 R44, R47, R50) -/

/-- What outlives a loss of power: flash, fuses, the log, and what is outside the panel. -/
def Die.cold (d : Die) : Die := { Die.reset with slotA := d.slotA, slotB := d.slotB }
def Head.cold (h : Head) : Head :=
  { Head.reset with
    serial := h.serial, flow := h.flow, production := h.production, secver := h.secver, revoked := h.revoked, edKeys := h.edKeys
    mlKeys := h.mlKeys, debugKeys := h.debugKeys, tileImage := h.tileImage, log := h.log, bootno := h.bootno }
def State.cold (s : State) : State :=
  { State.reset with
    agenda := s.agenda, fresh := s.fresh, hostMem := s.hostMem, out := s.out
    dies := FMap.mapVals s.dies (fun _ (d : Die) => Die.cold d), head := s.head.cold }
/-- RESET (spec R50): every tile closes, the token and the debug-opened-since-boot bits go, and the boot sequence starts again. -/
def execReset (s : State) : Out := .next s.cold
/-- An entry whose second write was not done; what the first one left of it has no meaning: it is voided. -/
def tornEntry (seq kind : Nat) : LogEntry := { newEntry seq kind 0 0 0 0 0 0 with commit := 0xFFFFFFFF }
/-- An append, or the copy of a full half, in which power failed; first: it was the first Seal of a blank log. -/
def RetireLog.tear (g : RetireLog) (first : Bool) : RetireLog :=
  if first then ⟨[tornEntry 0 0], [], 0⟩
  else if g.half.length < 1024 then g.setHalf (g.half ++ [tornEntry (g.lastSeq + 1) 1])
  else if g.cur = 0 then { g with half1 := [tornEntry (g.lastSeq + 1) 0] } else { g with half0 := [tornEntry (g.lastSeq + 1) 0] }
/-- May the write that power interrupted have been the first Seal: the log holds nothing but the Seal of this boot? -/
def Head.sealing (h : Head) : Bool :=
  match h.log.half0, h.log.half1 with
  | [e], [] => e.seq == 0 && e.bootno == h.bootno
  | _, _ => false
/-- POWER_LOSS (spec R47): the input fails; with torn, during a write of the log. Whether that was the first Seal or an append after it is
open where both can be (log 37). -/
def execPowerLoss (torn : Bool) (s : State) : Out :=
  let s1 := s.cold
  let writes := s.head.powered && decide (3 ≤ s.head.phase) && !s.head.log.half.isEmpty
  let first := s.head.sealing && (Config.freeWord s.fresh).toNat % 2 == 1
  .next (if torn && writes then { s1.bump with head := { s1.head with log := s1.head.log.tear first } } else s1)
/-- Is a site, or from 72 on an I/O die, held in the safe talkative state? A site that failed stays reachable in the same way. -/
def State.talks (s : State) (n : Nat) : Bool :=
  if n < 72 then (s.site n).status == .talkative || (s.site n).status == .failed
  else (s.die (n - 72)).talkative && !(s.die (n - 72)).off && decide (n < 76)
/-- The answer to a query of a site or a die in the safe talkative state: 1 its status, 2 its self-test, 3 its measurement (spec/03 R44). -/
def State.talk (s : State) (n query : Nat) : Reply :=
  match query with
  | 1 => .status "SafeTalkative"
  | 2 => .status (match (if n < 72 then (s.site n).report else none) with | some r => if r.pass then "Pass" else "Fail" | none => "None")
  | _ => .bytes (leBytes (if n < 72 then (s.site n).measure else (s.die (n - 72)).measure).toNat 48)
/-- SAFE_TALKATIVE_POWER_OFF (spec R44): the host powers off a site, or from 72 on an I/O die, held in that state. At 76 * q above its number
the operand is a query of it, of its status, its self-test or its measurement (log 29). -/
def execSafeTalkativePowerOff (site : Nat) (s : State) : Out :=
  let n := site % 76
  .next <|
    if !s.talks n then s
    else if site < 72 then s.putSite n Site.reset
    else if site < 76 then s.putDie (n - 72) { s.die (n - 72) with off := true }
    else if site < 4 * 76 then s.reply (s.talk n (site / 76))
    else s

end Sys2Proof.Machine
end

