-- ==== Sys2Proof/Machine/Halt.lean ====
section
/-! DEFINITION. Halting and resuming cores (spec/11 R228, R229, spec/03 R49, R50), and the placing of a trap's handler in a
core that a task names (spec/11 R212). -/

namespace Sys2Proof.Machine

/-- DBGCTL's halt group. -/
def Core.group (c : Core) : Nat := bits c.dbgctl.toNat 44 8
/-- DBGCTL.HOB: a BKPT halts. -/
def Core.hob (c : Core) : Bool := bits c.dbgctl.toNat 60 1 == 1
def Core.setHalted (c : Core) (v : Bool) : Core := { c with dbgctl := setBits c.dbgctl 63 1 (if v then 1 else 0) }

/-- Is some core of the tile halted? -/
def State.anyHalted (s : State) (t : Nat) : Bool := s.cores.any (fun kv => kv.1 / 768 == t && kv.2.halted)
/-- Open, or Halting while a core is halted (spec/03 R49). -/
def State.setDebug (s : State) (t : Nat) : State :=
  let tl := s.tile t
  if s.anyHalted t then s.putTile t { tl with debug := .halting }
  else if tl.debug == .halting then s.putTile t { tl with debug := .opened }
  else s

/-- One core halts: its slots' strands are Halted, their park causes discarded (spec/06 R102). -/
def State.haltCore (s : State) (k : Nat) : State :=
  let s1 := s.putCore k ((s.core k).setHalted true)
  let s2 := { s1 with strands := FMap.mapVals s1.strands (fun _ (st : Strand) =>
    if st.inSlot && st.coreKey == k then
      { st.afresh with status := Status.halted, pcause := 0, parkedFor := 0, bedWait := none, wait := .none }
    else st) }
  s2.setDebug (k / 768)

/-- One core resumes: its strands are Ready, or Suspended where their job is suspended (spec/06 R102, spec/11 R219). -/
def State.resumeCore (s : State) (k : Nat) : State :=
  let s1 := s.putCore k ((s.core k).setHalted false)
  let s2 := { s1 with strands := FMap.mapVals s1.strands (fun _ (st : Strand) =>
    if st.status == Status.halted && st.coreKey == k then
      if s1.jobSuspended st.job && !st.urgent then { s1.storeImage st with status := Status.suspended, wait := .none }
      else { st with status := Status.ready }
    else st) }
  s2.setDebug (k / 768)

/-- The other members of a core's group on tiles that are Open (spec/11 R228). -/
def State.groupOf (s : State) (k : Nat) : List Nat :=
  let g := (s.core k).group
  if g = 0 then []
  else (s.cores.filter (fun kv => kv.1 != k && kv.2.group == g && (s.tile (kv.1 / 768)).debug != .closed)).map (·.1)

/-- The other members of a core's group that still run and that no halt is on its way to. -/
def State.runningOf (s : State) (k : Nat) : List Nat :=
  (s.groupOf k).filter (fun j => !(s.core j).halted && !s.msgs.any (fun kv => kv.2 == .halt j false))
/-- A halt of a core's group: this core at once, the others by messages, and one DebugHalt event where something halts. -/
def State.haltGroup (s : State) (k : Nat) : State :=
  let l := s.runningOf k
  if (s.core k).halted && l.isEmpty then s
  else
    let s0 := if (s.core k).halted then s else s.haltCore k
    let s1 := l.foldl (fun s j => s.sendFrom (k / 768) (.halt j false)) s0
    s1.raiseMain 0x50 (k / 768) (s.core k).group
/-- A resume of a core's group. -/
def State.resumeGroup (s : State) (k : Nat) : State :=
  (s.groupOf k).foldl (fun s j => s.sendFrom (k / 768) (.halt j true)) (s.resumeCore k)

/-- Is debug access of a kind permitted on a tile: any access in Development, the token's permissions in Production (spec/03
R50, R51)? -/
def State.debugMay (s : State) (t perm : Nat) : Bool :=
  (s.tile t).debug != .closed &&
  (!s.head.production || (match s.head.token with
    | some k => bits k.perms.toNat perm 1 == 1 && bits k.mask.toNat t 1 == 1
    | none => false))

end Sys2Proof.Machine
end

