-- ==== Sys2Proof/Machine/RegState.lean ====
section
/-! DEFINITION. The meanings of the register-state and operand-extension instructions (spec/15 R308 to R315). -/

namespace Sys2Proof.Machine

/-- CLRE of a register code (spec/15 R308). -/
def State.clre (s : State) (word r : Nat) : Out := s.plain word 4 [] (fun x => x.done x.s (x.t.vacate r))
/-- ISF of a register code (spec/15 R309). -/
def State.isf (s : State) (word : Nat) (d : GReg) (r : Nat) : Out :=
  s.plain word 4 [] (fun x => x.done x.s (x.t.setG d (.ofNat 64 (x.o.rc r).st.code)))
/-- WAITF of a register code: a read that leaves the value and the attachment (spec/15 R310). -/
def State.waitf (s : State) (word r : Nat) : Out := s.plain word 4 [(r, false)] (fun x => x.done x.s x.t)

/-- Attach recipe n to a register: its own entry, or the lowest unused one (spec/15 R311). -/
def Strand.attach (t : Strand) (r : Nat) (n : BitVec 8) : Strand :=
  match (List.range 8).find? (fun i => ((t.cmap.toList[i]?).map (·.reg)).getD 31 == (if (t.attached r).isSome then r else 31)) with
  | some i => { t with cmap := t.cmap.setIfInBounds i ⟨r, n⟩ }
  | none => t
/-- Is an entry of CMAP unused? -/
def Strand.cmapRoom (t : Strand) : Bool := t.cmap.toList.any (fun e => e.reg == 31)
/-- CUTN of a strand's job; none in a supervisor handler (spec/13 R257). -/
def State.cutnOf (s : State) (t : Strand) : Nat :=
  if t.sup then 0 else match s.job? t.job with | some j => j.lrec.cutn | none => 0
/-- CUT of a register code (spec/15 R311); a tile without the table fetches it, and the instruction waits (spec/13 R253). -/
def State.cutReg (s : State) (word r : Nat) (n : BitVec 8) : Out :=
  s.plain word 4 [] (fun x =>
    if x.s0.cutnOf x.o ≤ n.toNat then x.trap (illegal word)
    else
      match FMap.get? (x.s0.tile x.o.loc.tile).cuts x.o.job with
      | none => x.s0.wantTable x.o.loc.tile 1 x.o.job
      | some tab =>
        match tab.recipes[n.toNat]? with
        | none => x.trap (illegal word)
        | some e =>
          if e.treg ≠ r || ((x.o.attached r).isNone && !x.o.cmapRoom) then x.trap (illegal word)
          else x.done x.s (x.t.attach r n))

/-- Free a register's CMAP entry (spec/15 R312). -/
def Strand.detach (t : Strand) (r : Nat) : Strand :=
  { t with cmap := t.cmap.map (fun e => if e.reg = r then ⟨31, e.recipe⟩ else e) }
/-- UNCUT of a register code: a Cut one is regrown first (spec/15 R312). -/
def State.uncut (s : State) (word r : Nat) : Out :=
  s.issue word 4 none noLimit (fun t => if (t.rc r).st == .cut then [(r, false)] else []) [] (fun x => x.done x.s (x.t.detach r))
/-- DROP of a register code (spec/15 R313). -/
def State.drop (s : State) (word r : Nat) : Out := s.plain word 4 [] (fun x => x.done x.s (x.t.dropReg r))

/-- CLRE (spec R308): the register becomes Empty, or Cut if it carries an attachment. -/
def execClre (r : GReg) (s : State) : Out := s.clre (encode (.clre r)) r.toNat
/-- CLRE_W (spec R308): the same for a w register. -/
def execClreW (r : WReg) (s : State) : Out := s.clre (encode (.clreW r)) (wcode r)
/-- ISF (spec R309): d := the state code of r. -/
def execIsf (d r : GReg) (s : State) : Out := s.isf (encode (.isf d r)) d r.toNat
/-- ISF_W (spec R309): d := the state code of a w register. -/
def execIsfW (d : GReg) (r : WReg) (s : State) : Out := s.isf (encode (.isfW d r)) d (wcode r)
/-- WAITF (spec R310): completes once r is Full. -/
def execWaitf (r : GReg) (s : State) : Out := s.waitf (encode (.waitf r)) r.toNat
/-- WAITF_W (spec R310): completes once a w register is Full. -/
def execWaitfW (r : WReg) (s : State) : Out := s.waitf (encode (.waitfW r)) (wcode r)
/-- CUT (spec R311): attaches recipe n to r. -/
def execCut (r : GReg) (n : BitVec 8) (s : State) : Out := s.cutReg (encode (.cut r n)) r.toNat n
/-- CUT_W (spec R311): attaches recipe n to a w register. -/
def execCutW (r : WReg) (n : BitVec 8) (s : State) : Out := s.cutReg (encode (.cutW r n)) (wcode r) n
/-- UNCUT (spec R312): removes the attachment of r, regrowing r first if it is Cut. -/
def execUncut (r : GReg) (s : State) : Out := s.uncut (encode (.uncut r)) r.toNat
/-- UNCUT_W (spec R312): the same for a w register. -/
def execUncutW (r : WReg) (s : State) : Out := s.uncut (encode (.uncutW r)) (wcode r)
/-- DROP (spec R313): a Full or Empty register with an attachment becomes Cut. -/
def execDrop (r : GReg) (s : State) : Out := s.drop (encode (.drop r)) r.toNat
/-- DROP_W (spec R313): the same for a w register. -/
def execDropW (r : WReg) (s : State) : Out := s.drop (encode (.dropW r)) (wcode r)
/-- XSET (spec R315): x[d] := s1. -/
def execXset (xd : XReg) (a : GSrc) (s : State) : Out :=
  s.plain (encode (.xset xd a)) 4 [gsrc a] (fun x => x.done x.s (x.t.setX xd.toNat (x.o.gv a.reg)))
/-- XGET (spec R315): d := x[s]. -/
def execXget (d : GReg) (xs : XReg) (s : State) : Out := s.op0 (encode (.xget d xs)) 4 d (fun t => t.xv xs.toNat)
/-- XLI (spec R315): x[d] := the sign-extended immediate. -/
def execXli (xd : XReg) (imm : BitVec 22) (s : State) : Out :=
  s.plain (encode (.xli xd imm)) 4 [] (fun x => x.done x.s (x.t.setX xd.toNat (sextW imm.toNat 22)))

end Sys2Proof.Machine
end

