-- ==== Sys2Proof/Machine/Memory.lean ====
section
/-! DEFINITION. The meanings of loads, stores, replicas and atomics (spec/16 R317 to R327). -/

namespace Sys2Proof.Machine

/-! ### What every access shares -/

/-- EA of a format-M instruction (spec/16 R317). -/
def Turn.ea (x : Turn) (base : GSrc) (imm : BitVec 9) (scale : Nat) : Word :=
  x.o.gv base.reg + sextW imm.toNat 9 * .ofNat 64 scale
/-- The checks before the access leaves the core, in the order of spec/07 R122; then what follows, with the bed used. -/
def Turn.access (x : Turn) (a : Access) (va : Word) (align : Nat) (k : BedHit → State) : State :=
  match x.s.lookup x.o va with
  | .miss => x.trap (bedMiss va)
  | .wait => x.waitBed va
  | .hit h =>
    match checkAt a va align h with
    | some t => x.trapBed h t
    | none => k h
/-- A scope field: code 11 takes the SCOPE of level x7[2:0], panel where the job has no such level (spec/08 R141). -/
def State.scopeOf (s : State) (t : Strand) (code : BitVec 4) : Nat :=
  if code.toNat = 11 then
    match s.job? t.job with
    | some j => ((j.lrec.levels[(t.xv 7).toNat % 8]?).map (·.scope)).getD 7
    | none => 7
  else code.toNat
/-- Leave for a home, or park with DepartWait while something is owed or outstanding; b is the strand with BOUNCE updated
(spec/06 R102, R104). -/
def Turn.leave (x : Turn) (h : BedHit) (b : Strand) (g : Target) (key : Nat) (va : Word) : State :=
  if x.s0.mayDepart x.o then (x.s0.touchBed x.o h).depart b key g.cva va else x.park 2 0
/-- An access whose home is another column, by a strand that a load or store may move: it leaves, or, pinned or pinned by its
sixth bounce, it is performed as remote does (spec/06 R103, R109). -/
def Turn.away (x : Turn) (h : BedHit) (g : Target) (key : Nat) (va : Word) (remote : State → Strand → State) : State :=
  if x.o.pinned then remote x.s x.t.countWin.bounceStay
  else
    let c := x.o.countWin.bounceTo .plain x.o.colKey key
    if c.2 then x.leave h c.1 g key va else remote x.s { x.t with bounce := c.1.bounce }

/-! ### Loads (spec/16 R319 to R321) -/

/-- A register is set Awaiting and this value is on its way to it. -/
def Turn.fillLater (x : Turn) (s : State) (t : Strand) (reg v : Nat) : State :=
  (x.done s (t.await reg s.fresh)).send (.fill t.handle reg s.fresh v none none)
/-- A fault at the home: the strand traps there, and what the home did stands (spec/07 R122, spec/11 R206). -/
def Turn.trapHome (x : Turn) (s : State) (cause g4 : Nat) (va : Word) : State := s.trap x.o ⟨cause, va, .ofNat 64 g4⟩

/-- A remote read into a register, by LDR or by a pinned load; an LDAQ leaves its acquire to the fill (spec/16 R320, R321). -/
def Turn.readFar (x : Turn) (s : State) (t : Strand) (g : Target) (va : Word) (reg size : Nat) (signed : Bool)
    (acq : Option (BitVec 4)) : State :=
  let t1 := t.await reg s.fresh
  let t2 := if acq.isSome then { t1 with ldaq := t1.ldaq ++ [reg] } else t1
  (x.doneCounted s t2).requestRead t va g reg s.fresh size signed acq

/-- What follows, unless the fill of a pinned LDAQ is out: an access that could hit a snapshot then parks (spec/08 R149). -/
def Turn.unheld (x : Turn) (k : State) : State :=
  match x.o.ldaq with
  | [] => k
  | r :: _ => x.s0.parkLdaq x.o r
/-- A load (LD, LDN, VLD, and LDAQ with its scope) of size bytes into a register code. -/
def Turn.load (x : Turn) (va : Word) (reg size : Nat) (signed : Bool) (acq : Option (BitVec 4)) : State :=
  x.access .load va size (fun h =>
    let s := x.s.touchBed x.t h
    let g := s.target x.t h va
    match g with
    | .column key bed hoff kind spill =>
      if key = x.o.colKey then
        match acq with
        | none =>
          let s := s.scrubLine x.t va.toNat
          x.unheld (if s.loadWaits x.t bed kind key hoff va.toNat size then x.s0 else match s.loadHere x.t bed kind key hoff spill va.toNat size with
           | (s1, .ok v _, true) => x.done s1 (x.t.setCode reg (loadValue signed size v))
           | (s1, .ok v _, false) => x.fillLater s1 x.t reg (loadValue signed size v)
           | (s1, .trip c g4, _) => x.trapHome s1 c g4 va)
        | some sc =>
          if s.waitsHome key bed hoff kind x.t.asid size 0 then x.s0 else
          (match s.homeRead key bed hoff kind spill x.t.asid size 0 x.t.party with
           | (s1, .ok v _) =>
             let q := s1.acquire x.t sc.toNat
             x.fillLater q.1 q.2 reg (loadValue signed size v)
           | (s1, .trip c g4) => x.trapHome s1 c g4 va)
      else
        match acq with
        | none =>
          let s := s.scrubRake x.t va.toNat
          x.unheld (match s.rakeHit x.t va.toNat size with
          | some v => x.doneCounted s (x.t.countWin.bounceStay.setCode reg (loadValue signed size v))
          | none => x.away h g key va (fun _ t => x.readFar s t g va reg size signed none))
        | some sc => x.away h g key va (fun _ t => x.readFar s t g va reg size signed (some sc))
    | _ => x.trapBed h (bedKindTrip va h))

/-- LDR of size bytes into a register code (spec/16 R320). -/
def Turn.ldr (x : Turn) (va : Word) (reg size : Nat) (signed : Bool) : State :=
  x.access .ldr va size (fun h =>
    let s := x.s.touchBed x.t h
    let g := s.target x.t h va
    if g.home = some x.o.colKey then x.readFar s x.t.countWin g va reg size signed none
    else
      let s := s.scrubRake x.t va.toNat
      x.unheld (match s.rakeHit x.t va.toNat size with
      | some v => x.doneCounted s (x.t.countWin.bounceStay.setCode reg (loadValue signed size v))
      | none => x.readFar s x.t.countWin.bounceStay g va reg size signed none))

/-- A load instruction of format M: d is written, and waited for where td is set (spec/13 R251). -/
def State.loadOp (s : State) (word len : Nat) (base : GSrc) (d : Nat × Bool) (body : Turn → State) : Out :=
  s.issue word len none noLimit (fun _ => [gsrc base]) (if d.2 then [d.1] else []) body

/-- LD (spec R319): d := the sign-extended value, the strand migrating to the home unless it is pinned. -/
def execLd (d base : GSrc) (sz : BitVec 2) (imm : BitVec 9) (s : State) : Out :=
  s.loadOp (encode (.ld d base sz imm)) 4 base (gsrc d) (fun x =>
    x.load (x.ea base imm (2 ^ sz.toNat)) d.reg.toNat (2 ^ sz.toNat) true none)
/-- LDN (spec R319): the same, zero-extended. -/
def execLdn (d base : GSrc) (sz : BitVec 2) (imm : BitVec 9) (s : State) : Out :=
  s.loadOp (encode (.ldn d base sz imm)) 4 base (gsrc d) (fun x =>
    x.load (x.ea base imm (2 ^ sz.toNat)) d.reg.toNat (2 ^ sz.toNat) false none)
/-- VLD (spec R319): d := 32 bytes. -/
def execVld (d : WSrc) (base : GSrc) (imm : BitVec 9) (s : State) : Out :=
  s.loadOp (encode (.vld d base imm)) 4 base (wsrc d) (fun x => x.load (x.ea base imm 32) (wcode d.reg) 32 false none)
/-- LDR (spec R320): a remote read fills d; the strand never migrates. -/
def execLdr (d base : GSrc) (sz : BitVec 2) (imm : BitVec 9) (s : State) : Out :=
  s.loadOp (encode (.ldr d base sz imm)) 4 base (gsrc d) (fun x =>
    x.ldr (x.ea base imm (2 ^ sz.toNat)) d.reg.toNat (2 ^ sz.toNat) true)
/-- LDR_WIDE (spec R320): a remote read of 32 bytes. -/
def execLdrWide (d : WSrc) (base : GSrc) (imm : BitVec 9) (s : State) : Out :=
  s.loadOp (encode (.ldrWide d base imm)) 4 base (wsrc d) (fun x => x.ldr (x.ea base imm 32) (wcode d.reg) 32 false)
/-- LDAQ (spec R321): a load that hits no snapshot and acquires at its scope. -/
def execLdaq (d base : GSrc) (sc : BitVec 4) (sz : BitVec 2) (imm : BitVec 9) (s : State) : Out :=
  s.loadOp (encode (.ldaq d base sc sz imm)) 4 base (gsrc d) (fun x =>
    x.load (x.ea base imm (2 ^ sz.toNat)) d.reg.toNat (2 ^ sz.toNat) true (some (.ofNat 4 (x.s.scopeOf x.o sc))))
/-- LD_D_16 (spec R269, R319): LD of 8 bytes at g[base] + OFF3 * 8. -/
def execLdD16 (d base : GReg) (off : BitVec 3) (s : State) : Out :=
  s.loadOp (encode (.ldD16 d base off)) 2 ⟨base, false⟩ (d.toNat, false) (fun x =>
    x.load (x.o.gv base + .ofNat 64 (8 * off.toNat)) d.toNat 8 true none)
/-- LDR_D_16 (spec R269, R320): LDR of 8 bytes. -/
def execLdrD16 (d base : GReg) (off : BitVec 3) (s : State) : Out :=
  s.loadOp (encode (.ldrD16 d base off)) 2 ⟨base, false⟩ (d.toNat, false) (fun x =>
    x.ldr (x.o.gv base + .ofNat 64 (8 * off.toNat)) d.toNat 8 true)

/-! ### Stores (spec/16 R322 to R325) -/

/-- An ordered store of bytes: at home it is performed now, elsewhere the strand leaves or posts it (spec/16 R322, R325). -/
def Turn.store (x : Turn) (a : Access) (va : Word) (data : List Byte) : State :=
  x.access a va data.length (fun h =>
    let s := x.s.touchBed x.t h
    let g := s.target x.t h va
    match g with
    | .column key bed hoff kind spill =>
      if key = x.o.colKey then
        if s.waitsHome key bed hoff kind x.t.asid data.length 1 then x.s0
        else match s.homeWrite key bed hoff kind spill x.t.asid data x.t.party with
        | (s1, .ok _ _) => x.done (s1.dropLine x.t va.toNat) x.t
        | (s1, .trip c g4) => x.trapHome s1 c g4 va
      else x.away h g key va (fun _ t => (x.doneCounted s t).post t va g data)
    | _ => x.trapBed h (bedKindTrip va h))

/-- A posted store of bytes (spec/16 R324). -/
def Turn.stp (x : Turn) (va : Word) (data : List Byte) : State :=
  x.access .stp va data.length (fun h =>
    let s := x.s.touchBed x.t h
    let g := s.target x.t h va
    if g.home = some x.o.colKey then (x.done (s.dropLine x.t va.toNat) x.t).post x.t va g data
    else (x.doneCounted s x.t.countWin.bounceStay).post x.t va g data)

/-- One posted store to every replica of a bed (spec/16 R325). -/
def Turn.stm (x : Turn) (va : Word) (data : List Byte) : State :=
  x.access .stm va data.length (fun h =>
    let s := x.s.touchBed x.t h
    let off := va.toNat - h.bed.base
    let spill := match s.tableFor x.t with | some t => t.spills h.index | none => false
    let one := fun (s : State) tile =>
      let r := h.bed.replica off tile
      let s1 := if r.1 = x.o.colKey then s.dropLine x.t va.toNat else s
      s1.post x.t va (.column r.1 h.index r.2 h.bed.kind spill) data
    h.bed.tiles.foldl one (x.done s x.t))

/-- The low bytes of a g register. -/
def Strand.gBytes (t : Strand) (r : GReg) (n : Nat) : List Byte := leBytes (t.gv r).toNat n
/-- The bytes of a w register. -/
def Strand.wBytes (t : Strand) (r : WReg) : List Byte := leBytes (t.wv r).toNat 32

/-- ST (spec R322): stores the low bytes of a g register, an ordered access. -/
def execSt (d base : GSrc) (sz : BitVec 2) (imm : BitVec 9) (s : State) : Out :=
  s.plain (encode (.st d base sz imm)) 4 [gsrc base, gsrc d] (fun x =>
    x.store .store (x.ea base imm (2 ^ sz.toNat)) (x.o.gBytes d.reg (2 ^ sz.toNat)))
/-- VST (spec R322): stores 32 bytes. -/
def execVst (d : WSrc) (base : GSrc) (imm : BitVec 9) (s : State) : Out :=
  s.plain (encode (.vst d base imm)) 4 [gsrc base, wsrc d] (fun x => x.store .store (x.ea base imm 32) (x.o.wBytes d.reg))
/-- STRL (spec R323): waits for the strand's posted stores and updates within its scope, then stores as ST does. -/
def execStrl (d base : GSrc) (sc : BitVec 4) (sz : BitVec 2) (imm : BitVec 9) (s : State) : Out :=
  s.plain (encode (.strl d base sc sz imm)) 4 [gsrc base, gsrc d] (fun x =>
    let w := Wait.items [.posted, .update] [] (x.s.scopeOf x.o sc)
    if x.s0.waitOver { x.o with wait := w } then
      x.store .store (x.ea base imm (2 ^ sz.toNat)) (x.o.gBytes d.reg (2 ^ sz.toNat))
    else x.parkWait w)
/-- STP (spec R324): one posted store; the strand never migrates. -/
def execStp (d base : GSrc) (sz : BitVec 2) (imm : BitVec 9) (s : State) : Out :=
  s.plain (encode (.stp d base sz imm)) 4 [gsrc base, gsrc d] (fun x =>
    x.stp (x.ea base imm (2 ^ sz.toNat)) (x.o.gBytes d.reg (2 ^ sz.toNat)))
/-- VSTP (spec R324): one posted store of 32 bytes. -/
def execVstp (d : WSrc) (base : GSrc) (imm : BitVec 9) (s : State) : Out :=
  s.plain (encode (.vstp d base imm)) 4 [gsrc base, wsrc d] (fun x => x.stp (x.ea base imm 32) (x.o.wBytes d.reg))
/-- STM (spec R325): one posted store to every replica of a replicated bed. -/
def execStm (d base : GSrc) (sz : BitVec 2) (imm : BitVec 9) (s : State) : Out :=
  s.plain (encode (.stm d base sz imm)) 4 [gsrc base, gsrc d] (fun x =>
    x.stm (x.ea base imm (2 ^ sz.toNat)) (x.o.gBytes d.reg (2 ^ sz.toNat)))
/-- STO (spec R325): stores to the replica that Home() chooses, an ordered access. -/
def execSto (d base : GSrc) (sz : BitVec 2) (imm : BitVec 9) (s : State) : Out :=
  s.plain (encode (.sto d base sz imm)) 4 [gsrc base, gsrc d] (fun x =>
    x.store .stm (x.ea base imm (2 ^ sz.toNat)) (x.o.gBytes d.reg (2 ^ sz.toNat)))
/-- ST_D_16 (spec R269, R322): ST of 8 bytes. -/
def execStD16 (d base : GReg) (off : BitVec 3) (s : State) : Out :=
  s.plain (encode (.stD16 d base off)) 2 [(base.toNat, false), (d.toNat, false)] (fun x =>
    x.store .store (x.o.gv base + .ofNat 64 (8 * off.toNat)) (x.o.gBytes d 8))
/-- STP_D_16 (spec R269, R324): STP of 8 bytes. -/
def execStpD16 (d base : GReg) (off : BitVec 3) (s : State) : Out :=
  s.plain (encode (.stpD16 d base off)) 2 [(base.toNat, false), (d.toNat, false)] (fun x =>
    x.stp (x.o.gv base + .ofNat 64 (8 * off.toNat)) (x.o.gBytes d 8))

/-! ### Local atomics (spec/16 R327) -/

/-- An atomic: one event at the home that reads the old value and writes f old v, x0 given; d := old. It migrates even a
pinned strand (spec/06 R109). -/
def Turn.amo (x : Turn) (va : Word) (d : GReg) (f : Nat → Option Nat) : State :=
  x.access .atomic va 8 (fun h =>
    let s := x.s.touchBed x.t h
    let g := s.target x.t h va
    match g with
    | .column key bed hoff kind spill =>
      if key = x.o.colKey then
        if s.waitsHome key bed hoff kind x.t.asid 8 1 then x.s0
        else match s.homeRmw key bed hoff kind spill x.t.asid f x.t.party with
        | (s1, .ok v _) => x.done (s1.dropLine x.t va.toNat) (x.t.setG d (.ofNat 64 v))
        | (s1, .trip c g4) => x.trapHome s1 c g4 va
      else x.leave h (x.o.countWin.bounceTo .atomic x.o.colKey key).1 g key va
    | _ => x.trapBed h (bedKindTrip va h))

/-- An atomic whose written value is a function of the old value and the operand. -/
def State.amoOp (s : State) (word : Nat) (d base : GSrc) (imm : BitVec 9) (f : Word → Word → Word) : Out :=
  s.plain word 4 [gsrc base, gsrc d] (fun x =>
    x.amo (x.ea base imm 8) d.reg (fun old => some (f (.ofNat 64 old) (x.o.gv d.reg)).toNat))

/-- AMOADD (spec R327): writes old + v. -/
def execAmoadd (d base : GSrc) (imm : BitVec 9) (s : State) : Out :=
  s.amoOp (encode (.amoadd d base imm)) d base imm aluAdd
/-- AMOAND (spec R327): writes old AND v. -/
def execAmoand (d base : GSrc) (imm : BitVec 9) (s : State) : Out :=
  s.amoOp (encode (.amoand d base imm)) d base imm aluAnd
/-- AMOOR (spec R327): writes old OR v. -/
def execAmoor (d base : GSrc) (imm : BitVec 9) (s : State) : Out := s.amoOp (encode (.amoor d base imm)) d base imm aluOr
/-- AMOXOR (spec R327): writes old XOR v. -/
def execAmoxor (d base : GSrc) (imm : BitVec 9) (s : State) : Out :=
  s.amoOp (encode (.amoxor d base imm)) d base imm aluXor
/-- AMOMIN (spec R327): writes the smaller, signed. -/
def execAmomin (d base : GSrc) (imm : BitVec 9) (s : State) : Out :=
  s.amoOp (encode (.amomin d base imm)) d base imm aluMin
/-- AMOMAX (spec R327): writes the larger, signed. -/
def execAmomax (d base : GSrc) (imm : BitVec 9) (s : State) : Out :=
  s.amoOp (encode (.amomax d base imm)) d base imm aluMax
/-- AMOMINN (spec R327): writes the smaller, unsigned. -/
def execAmominn (d base : GSrc) (imm : BitVec 9) (s : State) : Out :=
  s.amoOp (encode (.amominn d base imm)) d base imm aluMinn
/-- AMOMAXN (spec R327): writes the larger, unsigned. -/
def execAmomaxn (d base : GSrc) (imm : BitVec 9) (s : State) : Out :=
  s.amoOp (encode (.amomaxn d base imm)) d base imm aluMaxn
/-- AMOSWP (spec R327): writes v. -/
def execAmoswp (d base : GSrc) (imm : BitVec 9) (s : State) : Out :=
  s.amoOp (encode (.amoswp d base imm)) d base imm (fun _ v => v)
/-- AMOCAS (spec R327): writes v if old = x0, otherwise nothing. -/
def execAmocas (d base : GSrc) (imm : BitVec 9) (s : State) : Out :=
  s.plain (encode (.amocas d base imm)) 4 [gsrc base, gsrc d] (fun x =>
    x.amo (x.ea base imm 8) d.reg (fun old => if old = (x.o.xv 0).toNat then some (x.o.gv d.reg).toNat else none))

end Sys2Proof.Machine
end

