-- ==== Sys2Proof/Machine/Traffic.lean ====
section
/-! DEFINITION. The meanings of update instructions, fences and waits, migration control, rakes, replica synchronisation and
tile-cache control (spec/16 R326, R328 to R343, spec/18 R365). -/

namespace Sys2Proof.Machine

/-! ### Reports (spec/16 R331) -/

/-- Is an item one that failed and that a wait covers? -/
def State.isFailed (s : State) (t : Strand) (w : Wait) (kv : Nat × Item) : Bool :=
  kv.2.handle == t.handle && kv.2.failed && s.waitCovers w t.colKey t.job kv.2
/-- A completing wait writes its count of failed items to a nonzero report register, and they count as reported. -/
def State.report (s : State) (t : Strand) (w : Wait) (d : GReg) : State × Strand :=
  if d = 0 then (s, t)
  else
    ({ s with items := s.items.filter (fun kv => !s.isFailed t w kv) },
      t.setG d (.ofNat 64 (min (s.items.filter (s.isFailed t w)).length (2 ^ 32 - 1))))

/-- Park until a wait is over, then report and go on. -/
def Turn.waitFor (x : Turn) (w : Wait) (d : GReg) (k : State → Strand → State) : State :=
  if x.s0.waitOver { x.o with wait := w } then
    let q := x.s.report x.t w d
    k q.1 q.2
  else x.parkWait w

/-! ### Fences (spec/16 R329, R332, R333, spec/18 R365) -/

/-- UFENCE (spec R329): waits until every update of the strand has landed or failed. -/
def execUfence (d : GReg) (s : State) : Out :=
  s.plain (encode (.ufence d)) 4 [] (fun x => x.waitFor (.items [] [.update] 0) d (fun s t => x.done s t))
/-- UFENCE_16 (spec R329): UFENCE with no report. -/
def execUfence16 (s : State) : Out :=
  s.plain (encode .ufence16) 2 [] (fun x => x.waitFor (.items [] [.update] 0) 0 (fun s t => x.done s t))
/-- PFENCE (spec R332): waits for the strand's posted stores within its scope. -/
def execPfence (d : GReg) (sc : BitVec 4) (s : State) : Out :=
  s.plain (encode (.pfence d sc)) 4 [] (fun x =>
    x.waitFor (.items [.posted] [] (x.s.scopeOf x.o sc)) d (fun s t => x.done s t))
/-- What FENCE waits for (spec/08 R147). -/
def fenceWait (sc : Nat) : Wait := .items [.posted, .update] (if 4 ≤ sc then [.copy, .task, .rake] else []) sc
/-- FENCE (spec R332): waits as PFENCE and UFENCE, at tile scope or wider also for tasks and rakes, then acquires. -/
def execFence (d : GReg) (sc : BitVec 4) (s : State) : Out :=
  s.plain (encode (.fence d sc)) 4 [] (fun x =>
    let n := x.s.scopeOf x.o sc
    x.waitFor (fenceWait n) d (fun s t =>
      let q := s.acquire t n
      x.done q.1 q.2))
/-- XFENCE (spec R333): waits for the strand's items on the paths of x0[5:0] within its scope. -/
def execXfence (d : GReg) (sc : BitVec 4) (s : State) : Out :=
  s.plain (encode (.xfence d sc)) 4 [] (fun x =>
    x.waitFor (.paths ((x.o.xv 0).toNat % 64) (x.s.scopeOf x.o sc)) d (fun s t => x.done s t))
/-- WAITC (spec R365): waits until no class has more items outstanding than its limit in x0. -/
def execWaitc (d : GReg) (s : State) : Out :=
  s.plain (encode (.waitc d)) 4 [] (fun x => x.waitFor (.counts (x.o.xv 0)) d (fun s t => x.done s t))

/-! ### Updates (spec/16 R328, R330, spec/09 R162) -/

/-- The lowest free entry number of an outbound queue. -/
def freeTag (q : FMap OutPair) : Nat := ((List.range 64).find? (fun i => (FMap.get? q i).isNone)).getD 64
/-- Queue one pair: an item and an outbound entry. -/
def State.queuePair (s : State) (t : Strand) (h : BedHit) (va : Nat) (lmask : Nat) (value : Word) : State :=
  match h.bed.home (va - h.bed.base) t.loc.tile with
  | none => s
  | some (key, hoff) =>
    let c := s.core t.coreKey
    let p : OutPair := ⟨s.fresh, key, t.asid, h.index, h.bed.op, h.bed.etype, hoff, lmask, value, 0, .waiting⟩
    (s.addItem ⟨t.handle, t.job, .update, some key, 0, false, h.index⟩).putCore t.coreKey
      { c with outq := FMap.set c.outq (freeTag c.outq) p }
/-- The lane mask M: x0[3:0] within the location's lanes, or every lane (spec/16 R328). -/
def updMask (x0 : Word) (etype : Nat) : Nat :=
  let l := 2 ^ laneCount etype - 1
  if x0.toNat % 16 = 0 then l else x0.toNat % 16 &&& l
/-- UPD and VUPD: these pairs, (location's offset from EA, value), when the outbound queue has room for all. -/
def Turn.upd (x : Turn) (va : Word) (align : Nat) (pairs : List (Nat × Word)) : State :=
  x.access .upd va align (fun h =>
    if 64 < (x.s.core x.t.coreKey).outq.length + pairs.length then x.s0.park { x.o with wait := .room pairs.length } 4 0
    else
      let m := updMask (x.o.xv 0) h.bed.etype
      let s := pairs.foldl (fun s p => s.queuePair x.t h (va.toNat + p.1) m p.2) (x.s.touchBed x.t h)
      x.done s x.t)
/-- UPD (spec R328): queues one update pair. -/
def execUpd (d base : GSrc) (imm : BitVec 9) (s : State) : Out :=
  s.plain (encode (.upd d base imm)) 4 [gsrc base, gsrc d] (fun x => x.upd (x.ea base imm 8) 8 [(0, x.o.gv d.reg)])
/-- The pairs of VUPD: dword j for each set bit j of S (spec/16 R328). -/
def vupdPairs (x0 : Word) (w : Wide) : List (Nat × Word) :=
  let m := if bits x0.toNat 4 4 = 0 then 15 else bits x0.toNat 4 4
  ((List.range 4).filter (fun j => bits m j 1 == 1)).map (fun j => (8 * j, .ofNat 64 (bits w.toNat (64 * j) 64)))
/-- VUPD (spec R328): queues up to four update pairs. -/
def execVupd (d : WSrc) (base : GSrc) (imm : BitVec 9) (s : State) : Out :=
  s.plain (encode (.vupd d base imm)) 4 [gsrc base, wsrc d] (fun x =>
    x.upd (x.ea base imm 32) 32 (vupdPairs (x.o.xv 0) (x.o.wv d.reg)))

/-- The flush of R175 once the strand's own pairs have landed: requests to every sieve of the rectangle, and the wait for their
answers; a failed one raises DataLoss of source 10 (spec/16 R330), with its entry in the error log (spec/11 R205, R221). -/
def Turn.flush (x : Turn) (va : Word) (h : BedHit) : State :=
  match x.o.phase with
  | .uflush id n failed =>
    if n ≠ 0 then x.s0.park { x.o with phase := .uflush id n failed, wait := .answer } 5 0
    else if failed then
      let t := x.o.loc.tile
      (x.s0.logError t 10 true 0 x.o.handle 0).trap x.o ⟨9, va, .ofNat 64 ((x.s0.tile t).elogcnt * 2 ^ 32 + 10)⟩
    else x.done x.s x.t
  | _ =>
    if x.s0.waitOver { x.o with wait := .bed h.index } then
      let quads := (h.bed.tiles.map (fun t => (List.range 4).map (fun q => quadKey t q))).flatten
      let id := x.s0.fresh
      let s := quads.foldl (fun s q => s.sendFrom x.o.loc.tile (.flush x.o.handle id q x.o.asid h.index)) x.s0.bump
      s.park { x.o with phase := .uflush id quads.length false, wait := .answer } 5 0
    else x.parkWait (.bed h.index)
/-- UFLUSH (spec R330): has every sieve of an update bed apply the bed's granules. Its address is not checked for alignment: R330 names BedKind
and no permission, and no row of spec/07 R123 and R124 is its own (DESIGN CHOICE, log 37). -/
def execUflush (base : GSrc) (imm : BitVec 9) (s : State) : Out :=
  s.plain (encode (.uflush base imm)) 4 [gsrc base] (fun x =>
    let va := x.ea base imm 8
    match x.s.lookup x.o va with
    | .miss => x.trap (bedMiss va)
    | .wait => x.waitBed va
    | .hit h => if h.bed.kind == .update then (x.touch h).flush va h else x.trapBed h (bedKindTrip va h))

/-! ### Migration control (spec/16 R334 to R337) -/

/-- MIGR at its home: the address is translated as a read, scratch apart, and the instruction completes with no other effect (spec/16
R334, spec/07 R135). -/
def Turn.migrHere (x : Turn) (s : State) (key bed hoff : Nat) (kind : BedKind) (va : Word) : State :=
  if kind == .scratch then x.done s x.t
  else
    if s.waitsHome key bed hoff kind x.t.asid 1 0 then x.s0
    else match s.translateFor key x.t.asid (cvaOf bed hoff) 0 x.t.handle 0 with
    | (s1, .ok _) => x.done s1 x.t
    | (s1, .trip c g4) => x.trapHome s1 c g4 va

/-- MIGR (spec R334): moves the strand to the core that owns s1's home, pinned or not. -/
def execMigr (a : GSrc) (s : State) : Out :=
  s.plain (encode (.migr a)) 4 [gsrc a] (fun x =>
    let va := x.o.gv a.reg
    match x.s.lookup x.o va with
    | .miss => x.trap (bedMiss va)
    | .wait => x.waitBed va
    | .hit h =>
      let g := x.s.target x.o h va
      match g with
      | .column key bed hoff kind _ =>
        if key = x.o.colKey then x.migrHere (x.s.touchBed x.t h) key bed hoff kind va
        else x.leave h (x.o.countWin.bounceTo .migr x.o.colKey key).1 g key va
      | _ => x.trapBed h (bedKindTrip va h))

/-- HOME's result (spec/16 R335). -/
def homeWord (g : Target) (here : Nat) : Word :=
  match g.home with
  | none => .ofNat 64 (2 ^ 63)
  | some k => .ofNat 64 ((if k = here then 2 ^ 62 else 0) + k)
/-- HOME (spec R335): d := the home code of s1. -/
def execHome (d : GReg) (a : GSrc) (s : State) : Out :=
  s.plain (encode (.home d a)) 4 [gsrc a] (fun x =>
    let va := x.o.gv a.reg
    match x.s.lookup x.o va with
    | .miss => x.trap (bedMiss va)
    | .wait => x.waitBed va
    | .hit h => x.done (x.s.touchBed x.t h) (x.t.setG d (homeWord (x.s.target x.o h va) x.o.colKey)))

/-- PIN (spec R336): PINLEFT := 511. -/
def execPin (s : State) : Out :=
  s.plain (encode .pin) 4 [] (fun x => x.doneCounted x.s (x.t.countWin.setPinLeft 511))
/-- UNPIN (spec R336): PINLEFT, RUN and WIN := 0. -/
def execUnpin (s : State) : Out :=
  s.plain (encode .unpin) 4 [] (fun x => x.doneCounted x.s { x.t with bounce := bounceOf 0 0 0 x.t.homeA x.t.homeB })

/-- Prefetch a line into its home quadrant's tile cache (spec/16 R337): only where the home lies on this tile and the
translation allows it. An uncorrectable line is not brought in, but logged (spec/11 R221). -/
def State.prefetch (s : State) (tile : Nat) (asid : BitVec 12) (g : Target) : State :=
  match g with
  | .column key bed hoff kind _ =>
    if key / 16 ≠ tile || kind == .scratch then s
    else
      match s.translate key asid (cvaOf bed hoff) 0 with
      | (s1, .ok off) =>
        (match s1.errAt (panelAddr key off) 1 with
         | some src => s1.logError tile src true (panelAddr key off) 0 0
         | none => s1.viaBus key off 1 false)
      | (s1, .trip _ _) => s1
  | _ => s
/-- PREF (spec R337): prefetches the line of s1, or does nothing. -/
def execPref (a : GSrc) (s : State) : Out :=
  s.plain (encode (.pref a)) 4 [gsrc a] (fun x =>
    let va := x.o.gv a.reg
    match x.s.lookup x.o va with
    | .miss => x.done x.s x.t
    | .wait => x.waitBed va
    | .hit h =>
      if (checkAt .rake va 1 h).isSome then x.done (x.s.touchBed x.t h) x.t
      else if x.s.waitsFor (x.s.target x.o h va) x.o.asid 1 0 then x.s0
      else x.done ((x.s.touchBed x.t h).prefetch x.o.loc.tile x.o.asid (x.s.target x.o h va)) x.t)

/-! ### Rakes (spec/16 R338, R339, spec/10 R202) -/

/-- RAKE (spec R338): hands a request to the column's rake unit; a full queue issues nothing until an entry frees. -/
def execRake (base : GSrc) (imm : BitVec 9) (s : State) : Out :=
  s.plain (encode (.rake base imm)) 4 [gsrc base] (fun x =>
    let ia := x.ea base imm 8
    let x1 := (x.o.xv 1).toNat
    let wide := bits x1 40 1 == 1
    x.access .ldr ia (if wide then 8 else 4) (fun h =>
      let key := x.o.colKey
      if 8 ≤ (x.s.col key).rakeQ.length then x.s0
      else
        let s := x.s.touchBed x.t h
        let r : RakeReq := ⟨s.fresh, x.t.handle, x.t.asid, ia, x1 % 2 ^ 40, wide, bits x1 41 1 == 1, x.o.xv 0, x.o.xv 2,
          x.o.xv 3, 0, [], 0, [], none⟩
        if x1 % 2 ^ 40 = 0 then x.done s x.t
        else
        let s1 := s.addItem ⟨x.t.handle, x.t.job, .rake, some key, 0, false, 0⟩
        let c := s1.col key
        x.done (s1.putCol key { c with rakeQ := c.rakeQ ++ [r] }) x.t))

/-- RAKEW (spec R339): waits for the column's earlier rake fetches, then invalidates its rake buffer. -/
def execRakew (s : State) : Out :=
  s.plain (encode .rakew) 4 [] (fun x =>
    let b := match x.o.wait with | .rake b => b | _ => x.s0.fresh
    if x.s0.rakeOutBefore x.o.colKey b then x.parkWait (.rake b) else x.done (x.s.dropRake x.o.colKey) x.t)

/-! ### Replicas (spec/16 R326) -/

/-- REPLSYNC's checks in the order of spec/07 R122: alignment, RD and WR, one replicated bed. -/
def replCheck (va len : Word) (h : BedHit) : Option Trip :=
  if va.toNat % 8 ≠ 0 || len.toNat % 8 ≠ 0 then some (misaligned va 8)
  else if !h.bed.rd || !h.bed.wr then some (protectionCore va h)
  else if h.bed.kind != .replicated || !h.bed.holds (va.toNat + len.toNat - 1) then some (bedKindTrip va h)
  else none
/-- Send the reads of every location to the primary's homes; each is one item of the group. -/
def State.replReads (s : State) (t : Strand) (h : BedHit) (va n : Nat) : State :=
  let id := s.fresh + 1
  let one := fun (s : State) i =>
    let a := va + 8 * i
    let r := h.bed.replica (a - h.bed.base) h.bed.prim
    let s1 := s.addItem ⟨t.handle, t.job, .read, some r.1, 0, false, id⟩
    s1.sendFrom t.loc.tile (.read (.replsync id s.fresh t.asid (.ofNat 64 a)) t.asid (.ofNat 64 a) 8
      (.column r.1 h.index r.2 h.bed.kind false) s.fresh)
  (List.range n).foldl one s.bump
/-- The failed items of a REPLSYNC, reported and gone. -/
def State.reportGroup (s : State) (t : Strand) (id : Nat) (d : GReg) : State × Strand :=
  let f := fun (kv : Nat × Item) => kv.2.handle == t.handle && kv.2.failed && kv.2.group == id && kv.2.cls != .update
  if d = 0 then (s, t)
  else ({ s with items := s.items.filter (fun kv => !f kv) }, t.setG d (.ofNat 64 (min (s.items.filter f).length (2 ^ 32 - 1))))
/-- REPLSYNC (spec R326): copies a range from the primary to every other replica. A length of 0 completes at once, before every check of the
range (log 37). -/
def execReplsync (d : GReg) (a b : GSrc) (s : State) : Out :=
  s.plain (encode (.replsync d a b)) 4 [gsrc a, gsrc b] (fun x =>
    let va := x.o.gv a.reg
    let len := x.o.gv b.reg
    if len = 0 then x.done x.s (if d = 0 then x.t else x.t.setG d 0)
    else
      match x.s.lookup x.o va with
      | .miss => x.trap (bedMiss va)
      | .wait => x.waitBed va
      | .hit h =>
        match replCheck va len h with
        | some t => x.trapBed h t
        | none =>
          let x := x.touch h
          match x.o.phase with
          | .replsync id =>
            if x.s0.waitOver { x.o with wait := .answer } then
              let q := x.s.reportGroup x.t id d
              x.done q.1 q.2
            else x.s0.park { x.o with wait := .answer } 5 0
          | _ =>
            (x.s0.replReads x.o h va.toNat (len.toNat / 8)).park
              { x.o with phase := .replsync (x.s0.fresh + 1), wait := .answer } 5 0)

/-! ### Tile-cache control (spec/16 R340 to R343) -/

/-- Send a request to the quadrant that caches s1's home, or fill d with all-ones where a check fails; op is 0 CPIN, 1 CUNPIN,
2 CHINT, 3 CWB. -/
def State.cacheOp (s : State) (word op : Nat) (d : GReg) (a b : GSrc) : Out :=
  s.plain word 4 [gsrc a, gsrc b] (fun x =>
    let va := x.o.gv a.reg
    let ask := fun (s : State) (g : Option Target) =>
      (x.done s (x.t.await d.toNat s.fresh)).sendFrom x.o.loc.tile
        (.cacheCtl op x.t.handle d.toNat s.fresh x.t.asid g (x.o.gv b.reg))
    match x.s.lookup x.o va with
    | .miss => ask x.s none
    | .wait => x.waitBed va
    | .hit h =>
      let s := x.s.touchBed x.t h
      if (checkAt .cacheCtl va 1 h).isSome then ask s none else ask s (some (s.target x.o h va)))
/-- CPIN (spec R341): takes a free retention range for s1's page. -/
def execCpin (d : GReg) (a b : GSrc) (s : State) : Out := s.cacheOp (encode (.cpin d a b)) 0 d a b
/-- CUNPIN (spec R342): clears a range register. -/
def execCunpin (d : GReg) (a b : GSrc) (s : State) : Out := s.cacheOp (encode (.cunpin d a b)) 1 d a b
/-- CHINT (spec R341): takes a free evict-first range. -/
def execChint (d : GReg) (a b : GSrc) (s : State) : Out := s.cacheOp (encode (.chint d a b)) 2 d a b
/-- CWB (spec R343): writes dirty lines back. -/
def execCwb (d : GReg) (a b : GSrc) (s : State) : Out := s.cacheOp (encode (.cwb d a b)) 3 d a b

end Sys2Proof.Machine
end

