-- ==== Sys2Proof/Machine/System.lean ====
section
/-! DEFINITION. The meanings of the task, strand, job, special-register, trap and supervisor instructions (spec/18 R363, R364,
R372 to R383) and of VTLD (spec/17 R359). -/

namespace Sys2Proof.Machine

/-! ### VTLD (spec/17 R359, R360) -/

/-- The decode table of 256 FP32 words in 32 pieces. -/
def tableFrom (pieces : FMap Wide) : FMap (BitVec 19) :=
  (List.range 256).map (fun c =>
    (c, .ofNat 19 (e8m10.ofVal 0 (fp32.value (bits ((FMap.getD pieces (c / 8) 0).toNat) (32 * (c % 8)) 32))).1))

/-- The beds of the 32 pieces, or what stops the check: each is looked up and checked in ascending order. -/
def Turn.vtldCheck (x : Turn) (va : Word) : Nat → (List BedHit → State) → State
  | 0, k => k []
  | n + 1, k =>
    x.vtldCheck va n (fun l =>
      x.access .ldr (va + .ofNat 64 (32 * n)) 32 (fun h => k (l ++ [h])))

/-- One piece: served by the rake buffer, or a read on its way. The caller sees to a pinned LDAQ (spec/08 R149). -/
def Turn.vtldPiece (x : Turn) (id : Nat) (s : State) (va : Word) (n : Nat) (h : BedHit) : State :=
  let s1 := (s.touchBed x.t h).scrubRake x.t va.toNat
  let g := s1.target x.t h va
  let k := x.o.coreKey
  match (if g.home = some x.o.colKey then none else s1.rakeHit x.t va.toNat 32) with
  | some v =>
    let c := s1.core k
    let e := FMap.getD c.vtlds id ⟨x.o.handle, []⟩
    s1.putCore k { c with vtlds := FMap.set c.vtlds id { e with pieces := FMap.set e.pieces n (.ofNat 256 v) } }
  | none => s1.sendItem x.t .read g (fun it => .read (.vtld k id n) x.t.asid va 32 g it)

/-- The last piece of a VTLD is in: the core's table is replaced at once. -/
def State.vtldReplace (s : State) (k id : Nat) : State :=
  let c := s.core k
  match FMap.get? c.vtlds id with
  | some e => s.putCore k { c with table := tableFrom e.pieces, vtlds := FMap.erase c.vtlds id }
  | none => s

/-- Send the pieces of a VTLD, which as those of a wide LDR could hit a snapshot (spec/08 R149). -/
def Turn.vtldSend (x : Turn) (va : Word) (hits : List BedHit) : State :=
  x.unheld <|
  let id := x.s.fresh
  let k := x.o.coreKey
  let c := x.s.core k
  let s1 := x.s.bump.putCore k { c with vtlds := FMap.set c.vtlds id ⟨x.o.handle, []⟩ }
  let s2 := ((List.range 32).zip hits).foldl (fun s p => x.vtldPiece id s (va + .ofNat 64 (32 * p.1)) p.1 p.2) s1
  if (FMap.getD (s2.core k).vtlds id ⟨0, []⟩).pieces.length = 32 then x.done (s2.vtldReplace k id) x.t
  else s2.park { x.o with phase := .vtld id none false, wait := .answer } 5 0

/-- VTLD (spec R359): loads 256 FP32 words into the core's decode table. -/
def execVtld (a : GSrc) (s : State) : Out :=
  s.plain (encode (.vtld a)) 4 [gsrc a] (fun x =>
    match x.o.phase with
    | .vtld id fail ok =>
      (match fail with
       | some (c, g2, g4) => x.trap ⟨c, g2, g4⟩
       | none => if ok then x.done x.s x.t else x.s0.park { x.o with phase := .vtld id none false, wait := .answer } 5 0)
    | _ => x.vtldCheck (x.o.gv a.reg) 32 (x.vtldSend (x.o.gv a.reg)))

/-! ### Tasks (spec/18 R363, R364) -/

/-- Post a task record: an item, a message to the task scheduler, d Awaiting. -/
def Turn.postTask (x : Turn) (isCopy : Bool) (d : GReg) (va scales : Word) : State :=
  x.access .load va 128 (fun h =>
    let s := x.s.touchBed x.t h
    let tag := s.fresh
    let s1 := x.done s (x.t.await d.toNat tag)
    let s2 := s1.addItem ⟨x.t.handle, x.t.job, if isCopy then .copy else .task, some x.t.colKey, 0, false, 0⟩
    s2.send (.taskPost x.t.loc.tile isCopy x.t.handle d.toNat tag x.t.job x.t.flat x.t.loc.col x.t.asid va scales tag false []))
/-- MTASK (spec R363): posts a matrix task record with the scales of s2. -/
def execMtask (d : GReg) (a b : GSrc) (s : State) : Out :=
  s.plain (encode (.mtask d a b)) 4 [gsrc a, gsrc b] (fun x => x.postTask false d (x.o.gv a.reg) (x.o.gv b.reg))
/-- CTASK (spec R363): posts a copy task record. -/
def execCtask (d : GReg) (a : GSrc) (s : State) : Out :=
  s.plain (encode (.ctask d a)) 4 [gsrc a] (fun x => x.postTask true d (x.o.gv a.reg) 0)
/-- TASKW (spec R364): asks the scheduler of the tile for the outcome of task s1[31:0]. -/
def execTaskw (d : GReg) (a : GSrc) (s : State) : Out :=
  s.plain (encode (.taskw d a)) 4 [gsrc a] (fun x =>
    (x.done x.s (x.t.await d.toNat x.s.fresh)).send
      (.taskw x.t.loc.tile x.t.handle d.toNat x.s.fresh ((x.o.gv a.reg).toNat % 2 ^ 32)))

/-! ### SPAWN (spec/18 R372, spec/06 R111, R112) -/

/-- The wait of a release at panel scope before a SPAWN or a LAUNCH: posted stores, NXTGO increments and updates, at every home. -/
def releaseWait : Wait := .items [] [.posted, .update] 7
/-- The registers a SPAWN passes, from x0. -/
def spawnRegs (x0 : Word) : List Nat := (List.range (bits x0.toNat 16 3)).map (fun j => bits x0.toNat (4 * j) 4)

/-- The strand reads further registers in this issue: it parks on one that holds nothing, regrows a Cut one, traps with a
DataLoss that one carries, or goes on with all of them read. -/
def Turn.readMore (x : Turn) (regs : List Nat) (k : Turn → State) : State :=
  match x.o.firstNot regs with
  | some r => x.park 1 r
  | none =>
    match x.o.firstCut regs with
    | some r => (x.s0.putStrand x.o).replayStep x.o r
    | none =>
      match x.o.firstLoss regs with
      | some l => x.trap ⟨9, l.g2, l.g4⟩
      | none =>
        if x.o.parityAt regs [] then x.s0.parityTrap x.o
        else
        let p := x.s.readSources x.t (regs.map (fun r => (r, false)))
        k { x with s := p.1, t := p.2 }

/-- The completing issue: the registers are read, the child is released, d := its handle. -/
def Turn.spawnComplete (x : Turn) (d : GReg) (sid : Nat) (target : Word) (home : Option (Nat × Option Nat × BitVec 64)) (joinw : Word) :
    State :=
  x.readMore (spawnRegs (x.o.xv 0)) (fun x =>
    let g := (spawnRegs (x.o.xv 0)).map (fun r => x.o.gv (.ofNat 4 r))
    let ready := fun core =>
      x.done ((x.s.putStrand { x.t with phase := .none }).releaseChild { x.t with phase := .none } sid target home joinw g core)
        (x.t.setG d (.ofNat 64 (x.o.job * 2 ^ 48 + sid)))
    if home.isSome then ready x.o.loc.core
    else
      match x.s.pickCore x.o.loc.tile x.o.loc.col (fun _ => true) with
      | some c => ready c
      | none => x.parkWait .child)

/-- The first issue once its checks have passed: the release at panel scope, the reservation of image and SID, and the increment
of the join word where one is named. -/
def Turn.spawnStart (x : Turn) (d : GReg) (target : Word) (home : Option (Nat × Option Nat × BitVec 64)) (incr : Option Target) : State :=
  if !x.s0.waitOver { x.o with wait := releaseWait } then x.parkWait releaseWait
  else if 262144 ≤ x.s0.imagesUsed x.o.colKey then x.parkWait .child
  else
    let key := x.o.colKey
    let joinw := x.o.xv 1
    let sid := key * 2 ^ 38 + (x.s0.col key).sidCount % 2 ^ 38
    let st (i : IncrState) (t : Strand) : Strand := { t with phase := .spawn sid target home joinw i }
    match incr with
    | some g =>
      ((x.s0.takeSid key).sendFrom x.o.loc.tile (.joinIncr x.o.handle x.o.asid joinw g)).park { st .sent x.o with wait := .answer } 5 0
    | none =>
      let y : Turn := { x with s0 := x.s0.takeSid key, o := st .idle x.o, s := x.s.takeSid key, t := st .idle x.t }
      y.spawnComplete d sid target home joinw

/-- SPAWN's checks in their order (spec/18 R372), then its phases. -/
def Turn.spawn (x : Turn) (word : Nat) (d : GReg) (target : Word) (homeVa : Option Word) : State :=
  match x.o.phase with
  | .spawn sid target home joinw i =>
    (match i with
     | .sent => x.s0.park { x.o with wait := .answer } 5 0
     | .failed c g4 => x.trap ⟨c, joinw, .ofNat 64 g4⟩
     | _ => x.spawnComplete d sid target home joinw)
  | _ =>
    if 2 ^ 56 ≤ target.toNat then x.trap (bedMiss target)
    else if target.toNat % 2 = 1 then x.trap (misaligned target 2)
    else if 4 < bits (x.o.xv 0).toNat 16 3 then x.trap (reserved word)
    else
      let join := fun (x : Turn) (home : Option (Nat × Option Nat × BitVec 64)) =>
        let w := x.o.xv 1
        if w = 0 then x.spawnStart d target home none
        else x.access .atomic w 8 (fun h => (x.touch h).spawnStart d target home (some (x.s.target x.o h w)))
      match homeVa with
      | none => join x none
      | some va =>
        match x.s.lookup x.o va with
        | .miss => x.trap (bedMiss va)
        | .wait => x.waitBed va
        | .hit h =>
          let g := x.s.target x.o h va
          match g.home with
          | some key => join (x.touch h) (some (key, g.cva, va))
          | none => x.trapBed h (bedKindTrip va h)

/-- SPAWN (spec R372): creates a child strand in the own column. -/
def execSpawn (d : GReg) (a : GSrc) (s : State) : Out :=
  s.plain (encode (.spawn d a)) 4 [gsrc a] (fun x => x.spawn (encode (.spawn d a)) d (x.o.gv a.reg) none)
/-- SPAWN_HOME (spec R372): creates a child strand at the home of s2. -/
def execSpawnHome (d : GReg) (a b : GSrc) (s : State) : Out :=
  s.plain (encode (.spawnHome d a b)) 4 [gsrc a, gsrc b] (fun x =>
    x.spawn (encode (.spawnHome d a b)) d (x.o.gv a.reg) (some (x.o.gv b.reg)))

/-! ### JOIN, EXIT, NXTGO, PREDWAIT, YIELD (spec/18 R373, R374, R376, R377) -/

/-- JOIN (spec R373): d is Awaiting from the first issue; it completes when its registration is accepted. -/
def execJoin (d : GReg) (a : GSrc) (s : State) : Out :=
  s.issue (encode (.join d a)) 4 none noLimit
    (fun t => match t.phase with | .join _ _ _ => [] | _ => [gsrc a]) [] (fun x =>
    match x.o.phase with
    | .join _ ok _ => if ok then x.done x.s x.t else x.park 9 0
    | _ =>
      let w := x.o.gv a.reg
      x.access .atomic w 8 (fun h =>
        let s := x.s.touchBed x.t h
        let tag := s.fresh
        (s.park { x.t.await d.toNat tag with phase := .join tag false 0 } 9 0).sendFrom x.o.loc.tile
          (.joinReg x.t.handle d.toNat tag x.t.asid w (s.target x.t h w) false)))

/-- EXIT's wait when it has a join word: every posted store, update, copy and task of the strand (spec/06 R114). -/
def exitWait : Wait := .items [] [.posted, .update, .copy, .task] 7
/-- End a strand as EXIT does: a handler whose trapped strand is still Trapped ends that too (spec/11 R211). -/
def State.exit (s : State) (st : Strand) : State :=
  match (if st.hkind != .none && !st.ofTask then s.strand? st.victim else none) with
  | some v => if v.status == .trapped then s.killBy st v else (s.endStrand st).sendDecrement st
  | none => (s.endStrand st).sendDecrement st
def State.exitOp (s : State) (word len : Nat) : Out :=
  s.plain word len [] (fun x =>
    if x.o.joinw ≠ 0 && !x.s0.waitOver { x.o with wait := exitWait } then x.parkWait exitWait else x.s.exit x.t)
/-- EXIT (spec R374): ends the strand. -/
def execExit (s : State) : Out := s.exitOp (encode .exit) 4
/-- EXIT_16 (spec R374): the 16-bit form of EXIT. -/
def execExit16 (s : State) : Out := s.exitOp (encode .exit16) 2

/-- NXTGO: a posted increment of the job's go word, if it has one (spec/05 R76). No row of spec/07 R123 and R124 is its own: it is not checked at
issue against the bed's WR and kind, and at the home only the leaf's W counts (DESIGN CHOICE, log 37). -/
def State.nxtgoOp (s : State) (word len : Nat) : Out :=
  s.plain word len [] (fun x =>
    match x.s.job? x.o.job with
    | none => x.done x.s x.t
    | some j =>
      if j.lrec.goaddr = 0 then x.done x.s x.t
      else
        match FMap.get? (x.s.tile x.o.loc.tile).bedTables j.lrec.asid with
        | none => x.s0.wantTable x.o.loc.tile 0 x.o.job
        | some tab =>
          let va : Word := .ofNat 64 j.lrec.goaddr
          let s1 := x.done x.s x.t
          match s1.targetOf tab x.o.loc.tile va with
          | some g => s1.sendItem x.t .posted g (fun id => .posted .go (.ofNat 12 j.lrec.asid) va g id)
          | none => (s1.addItem ⟨x.t.handle, x.t.job, .posted, none, 0, false, 0⟩).itemFailed s1.fresh true)
/-- NXTGO (spec R376): sends an increment of the job's go word. -/
def execNxtgo (s : State) : Out := s.nxtgoOp (encode .nxtgo) 4
/-- NXTGO_16 (spec R376): the 16-bit form of NXTGO. -/
def execNxtgo16 (s : State) : Out := s.nxtgoOp (encode .nxtgo16) 2

/-- Is every early predecessor entry of a job observed complete (spec/05 R77)? -/
def State.predsDone (s : State) (job : Nat) : Bool :=
  match s.job? job with
  | some j => j.early.all (fun i => j.earlyDone.contains i)
  | none => true
def State.predwaitOp (s : State) (word len : Nat) : Out :=
  s.plain word len [] (fun x =>
    if x.s.predsDone x.o.job then
      let q := x.s.acquire x.t 7
      x.done q.1 q.2
    else x.park 6 0)
/-- PREDWAIT (spec R376): waits until the early predecessors have completed, then acquires at panel scope. -/
def execPredwait (s : State) : Out := s.predwaitOp (encode .predwait) 4
/-- PREDWAIT_16 (spec R376): the 16-bit form of PREDWAIT. -/
def execPredwait16 (s : State) : Out := s.predwaitOp (encode .predwait16) 2

/-- The strand yields: evicted onto the resume list where an arrival waits and no non-urgent slot is free. -/
def State.yieldSlot (s : State) (st : Strand) : State :=
  let k := st.coreKey
  if st.loc.slot < 15 && !(s.core k).arrival.isEmpty && (s.freeSlots st.loc.tile st.loc.core).isEmpty && !(s.core k).halted then
    let s1 := s.evictStrand { st with cls := .resumed }
    let c := s1.col st.colKey
    (s1.putCol st.colKey { c with resume := c.resume ++ [st.handle] }).grantArrival k st.loc.slot
  else s
def State.yieldOp (s : State) (word len : Nat) : Out :=
  s.plain word len [] (fun x =>
    let s1 := x.done x.s x.t
    match s1.strand? x.t.handle with
    | some st => s1.yieldSlot st
    | none => s1)
/-- YIELD (spec R377): gives its slot to a waiting arrival. -/
def execYield (s : State) : Out := s.yieldOp (encode .yield) 4
/-- YIELD_16 (spec R377): the 16-bit form of YIELD. -/
def execYield16 (s : State) : Out := s.yieldOp (encode .yield16) 2

/-- LAUNCH (spec R375): asks a queue's front end to enter a launch record; d is filled with a status. -/
def execLaunch (d : GReg) (a b : GSrc) (s : State) : Out :=
  s.plain (encode (.launch d a b)) 4 [gsrc a, gsrc b] (fun x =>
    if !x.s0.waitOver { x.o with wait := releaseWait } then x.parkWait releaseWait
    else
      let va := x.o.gv b.reg
      let q := (x.o.gv a.reg).toNat
      x.access .load va 64 (fun h =>
        let s := x.s.touchBed x.t h
        let tag := s.fresh
        let s1 := x.done s (x.t.await d.toNat tag)
        if 65536 ≤ q then s1.send (.fill x.t.handle d.toNat tag 1 none none)
        else s1.sendFrom x.o.loc.tile (.launch x.t.handle d.toNat tag q x.t.asid (x.o.xv 0) (bits (x.o.xv 1).toNat 0 16)
          (bits (x.o.xv 1).toNat 16 1 == 1) (s.target x.t h va))))

/-! ### Special registers (spec/18 R378, R379) -/

/-- SRD (spec R378): d := special register N; a level register that the tile must fetch leaves d Awaiting. -/
def execSrd (d : GReg) (n : BitVec 6) (s : State) : Out :=
  let w := encode (.srd d n)
  s.issue w 4 none (fun _ _ => if specialAssigned n.toNat then none else some (illegal w)) (fun _ => []) [] (fun x =>
    match x.s.special x.o n.toNat with
    | some v => x.done x.s (x.t.setG d v)
    | none =>
      if n.toNat < 16 then x.s0.wantTable x.o.loc.tile 0 x.o.job
      else
        let s1 := (x.done x.s (x.t.await d.toNat x.s.fresh)).send (.levels x.t.handle d.toNat x.s.fresh n.toNat)
        s1.wantTable x.o.loc.tile 2 x.o.job)
/-- SWR (spec R378): stores RM and the flags of SS; every other register is read-only. -/
def execSwr (n : BitVec 6) (a : GSrc) (s : State) : Out :=
  let w := encode (.swr n a)
  s.issue w 4 none (fun _ _ => if n = 0 then none else some (illegal w)) (fun _ => [gsrc a]) []
    (fun x => x.done x.s (x.t.writeSs (x.o.gv a.reg)))

/-- GST in bits [31:0] and WST in bits [47:32] (spec/18 R379). -/
def Strand.rst (v : Strand) : Nat :=
  ((List.range 24).map (fun r => (v.rc r).st.code * 4 ^ r)).foldl (· + ·) 0
/-- The state a written code stores: Awaiting as Empty, Cut without a CMAP entry as Empty (spec/11 R230). -/
def Strand.codeState (v : Strand) (r code : Nat) : RegState :=
  match code with
  | 0 => .full
  | 2 => if (v.attached r).isSome then .cut else .empty
  | _ => .empty
/-- Store the codes of registers lo to lo + n - 1. -/
def Strand.setStates (v : Strand) (lo n w : Nat) : Strand :=
  (List.range n).foldl (fun v i =>
    let c := v.rc (lo + i)
    v.setRc (lo + i) { c with st := v.codeState (lo + i) (bits w (2 * i) 2), acq := none, loss := none }) v

/-- The selectors that name nothing readable, and those that name nothing writable. -/
def selectorReads (n : Nat) : Bool := decide (n < 28) || decide (32 ≤ n)
def selectorWrites (n : Nat) : Bool := selectorReads n && n != 27
/-- The part of an image that a selector names; a value slot that is not Full has no meaning (log 3). -/
def Strand.selected (v : Strand) (n : Nat) (free : Word) : Word :=
  if n < 16 then (if (v.rc n).st == .full then v.gv (.ofNat 4 n) else free)
  else if n < 24 then v.xv (n - 16)
  else if n = 24 then v.pc.zeroExtend 64
  else if n = 25 then v.ss
  else if n = 26 then .ofNat 64 v.rst
  else if n = 27 then v.bounce
  else
    let k := (n - 32) / 4
    if (v.rc (16 + k)).st == .full then .ofNat 64 (bits (v.wv (.ofNat 3 k)).toNat (64 * ((n - 32) % 4)) 64) else free
/-- A dword of a w register replaced; the others are zero where it was not Full. -/
def Strand.setDword (v : Strand) (k j : Nat) (x : Word) : Strand :=
  let old := if (v.rc (16 + k)).st == .full then (v.wv (.ofNat 3 k)).toNat else 0
  v.setW (.ofNat 3 k) (.ofNat 256 (old - bits old (64 * j) 64 * 2 ^ (64 * j) + x.toNat * 2 ^ (64 * j)))
/-- Store into the part of an image that a selector names. -/
def Strand.store (v : Strand) (n : Nat) (x : Word) : Strand :=
  if n < 16 then v.setG (.ofNat 4 n) x
  else if n < 24 then v.setX (n - 16) x
  else if n = 24 then { v with pc := .ofNat 56 (x.toNat / 2 * 2) }
  else if n = 25 then v.writeSsHandle x
  else if n = 26 then v.setStates 0 24 x.toNat
  else v.setDword ((n - 32) / 4) ((n - 32) % 4) x

/-- SRD_HANDLE (spec R379): d is filled with part of a Trapped strand's image. -/
def execSrdHandle (d : GReg) (a : GSrc) (n : BitVec 6) (s : State) : Out :=
  let w := encode (.srdHandle d a n)
  s.issue w 4 none (fun _ _ => if selectorReads n.toNat then none else some (illegal w)) (fun _ => [gsrc a]) [] (fun x =>
    let h := x.o.gv a.reg
    match x.s.mayName x.o h with
    | none => x.trap (handleTrip h)
    | some v =>
      (x.done x.s (x.t.await d.toNat x.s.fresh)).send
        (.fill x.t.handle d.toNat x.s.fresh (v.selected n.toNat (Config.freeWord x.s.fresh)).toNat none none))
/-- SWR_HANDLE (spec R379): writes part of a Trapped strand's image. -/
def execSwrHandle (h : GReg) (n : BitVec 6) (a : GSrc) (s : State) : Out :=
  let w := encode (.swrHandle h n a)
  s.issue w 4 none (fun _ _ => if selectorWrites n.toNat then none else some (illegal w))
    (fun _ => [gsrc a, (h.toNat, false)]) [] (fun x =>
    let hd := x.o.gv h
    match x.s.mayName x.o hd with
    | none => x.trap (handleTrip hd)
    | some v => x.done (x.s.putStrand (v.store n.toNat (x.o.gv a.reg))) x.t)

/-! ### Traps (spec/18 R380, R381) -/

/-- Take a trap whose PC names the following instruction. -/
def Turn.trapNext (x : Turn) (cause : Nat) (imm : BitVec 12) : State :=
  x.s0.trapAt x.o ⟨cause, 0, imm.zeroExtend 64⟩ (x.o.pc + 4)
/-- TRAP (spec R380): raises UserTrap. -/
def execTrap (imm : BitVec 12) (s : State) : Out := s.plain (encode (.trap imm)) 4 [] (fun x => x.trapNext 16 imm)
/-- BKPT (spec R380): raises Breakpoint, or halts the core's group under HOB. -/
def execBkpt (imm : BitVec 12) (s : State) : Out :=
  s.plain (encode (.bkpt imm)) 4 [] (fun x =>
    if (x.s.core x.o.coreKey).hob then (x.done x.s x.t).haltGroup x.o.coreKey else x.trapNext 15 imm)

/-- RESUME (spec R381): the named strand goes on the resume list, and the handler ends. -/
def execResume (a : GSrc) (s : State) : Out :=
  s.plain (encode (.resume a)) 4 [gsrc a] (fun x =>
    match x.s.mayName x.o (x.o.gv a.reg) with
    | none => x.trap (handleTrip (x.o.gv a.reg))
    | some v => x.s.resume x.t v)
/-- RESUME_MIGRATE (spec R381): the named strand leaves for the home of s2, and the handler ends; while something is owed to
the strand, or it has items out, the handler waits. -/
def execResumeMigrate (a b : GSrc) (s : State) : Out :=
  s.plain (encode (.resumeMigrate a b)) 4 [gsrc a, gsrc b] (fun x =>
    match x.s.mayName x.o (x.o.gv a.reg) with
    | none => x.trap (handleTrip (x.o.gv a.reg))
    | some v =>
      let va := x.o.gv b.reg
      match x.s.tableFor v with
      | none => x.s0.wantTable v.loc.tile 0 v.job
      | some tab =>
        match (if 2 ^ 56 ≤ va.toNat then none else tab.find va.toNat) with
        | none => x.trap (bedMiss va)
        | some h =>
          let g := x.s.target v h va
          match g.home with
          | none => x.trap (bedKindTrip va h)
          | some key =>
            if x.s.mayDepart v then (x.s.depart v key g.cva va).endStrand x.t else x.park 2 0)
/-- KILL (spec R381): ends the named strand and the handler. -/
def execKill (a : GSrc) (s : State) : Out :=
  s.plain (encode (.kill a)) 4 [gsrc a] (fun x =>
    match x.s.mayName x.o (x.o.gv a.reg) with
    | none => x.trap (handleTrip (x.o.gv a.reg))
    | some v => x.s.killBy x.t v)

/-! ### Supervisor instructions (spec/18 R382, R383) -/

/-- TLBI is illegal outside a supervisor strand. -/
def supOnly (w : Nat) : State → Strand → Option Trip := fun _ st => if st.sup then none else some (illegal w)
/-- The posted stores that a TLBI waits for. -/
def tlbiWait : Wait := .items [.posted] [] 7
/-- Send an invalidation to each of these columns and count the answers; with none to send d is filled at once. -/
def Turn.tlbi (x : Turn) (d : GReg) (op : Nat) (asid : BitVec 12) (cva : Nat) (cols : List Nat) : State :=
  let tag := x.s.fresh
  let s1 := x.done x.s.bump (x.t.await d.toNat tag)
  if cols.isEmpty then s1.send (.fill x.t.handle d.toNat tag 0 none none)
  else
    let s2 := { s1 with acks := FMap.set s1.acks tag (cols.length, 0) }
    cols.foldl (fun s k => s.sendFrom x.o.loc.tile (.tlbi x.t.handle d.toNat tag k op asid cva)) s2
/-- Every column of every bound tile. -/
def State.allCols (s : State) : List Nat :=
  (((List.range 64).filter s.tileLive).map (fun t => (List.range 16).map (fun c => colKey t c))).flatten
/-- TLBI of an operation that reaches every column. -/
def State.tlbiOp (s : State) (w : Nat) (srcs : List (Nat × Bool)) (d : GReg) (op : Nat) (asid : Strand → BitVec 12) : Out :=
  s.issue w 4 none (supOnly w) (fun _ => srcs) [] (fun x =>
    if !x.s0.waitOver { x.o with wait := tlbiWait } then x.parkWait tlbiWait
    else x.tlbi d op (asid x.o) 0 x.s.allCols)
/-- TLBI_PAGE (spec R382): invalidates the pages that cover s1 in its home column. -/
def execTlbiPage (d : GReg) (a b : GSrc) (s : State) : Out :=
  let w := encode (.tlbiPage d a b)
  s.issue w 4 none (supOnly w) (fun _ => [gsrc a, gsrc b]) [] (fun x =>
    if !x.s0.waitOver { x.o with wait := tlbiWait } then x.parkWait tlbiWait
    else
      let va := x.o.gv a.reg
      let asid : BitVec 12 := (x.o.gv b.reg).truncate 12
      let none_ := (x.done x.s (x.t.await d.toNat x.s.fresh)).send
        (.fill x.t.handle d.toNat x.s.fresh (2 ^ 64 - 1) none none)
      match x.s.tableKnown x.o.loc.tile asid with
      | none => none_
      | some tab =>
        match (if 2 ^ 56 ≤ va.toNat then none else tab.find va.toNat) with
        | none => none_
        | some h =>
          match h.bed.home (va.toNat - h.bed.base) x.o.loc.tile with
          | none => none_
          | some (key, hoff) => x.tlbi d 1 asid (cvaOf h.index hoff) [key])
/-- TLBI_ASID (spec R382): invalidates every entry of an address space in every column. -/
def execTlbiAsid (d : GReg) (b : GSrc) (s : State) : Out :=
  s.tlbiOp (encode (.tlbiAsid d b)) [gsrc b] d 2 (fun t => (t.gv b.reg).truncate 12)
/-- TLBI_ALL (spec R382): invalidates every entry in every column. -/
def execTlbiAll (d : GReg) (s : State) : Out := s.tlbiOp (encode (.tlbiAll d)) [] d 3 (fun _ => 0)

/-- BEDW (spec R383): reads a descriptor image as two wide remote reads; its arrival writes the tile's copy. -/
def execBedw (d : GReg) (a b : GSrc) (s : State) : Out :=
  s.plain (encode (.bedw d a b)) 4 [gsrc a, gsrc b] (fun x =>
    let w := Wait.items [.posted, .update] [] 7
    let va := x.o.gv a.reg
    let v := (x.o.gv b.reg).toNat
    x.access .ldr va 64 (fun h =>
      if !x.s0.waitOver { x.o with wait := w } then x.parkWait w
      else
        let s := x.s.touchBed x.t h
        let id := s.fresh
        let asid : BitVec 12 := if x.o.sup then .ofNat 12 (bits v 8 12) else x.o.asid
        let s1 := (x.done s (x.t.await d.toNat id)).send
          (.bedw x.o.loc.tile x.t.handle d.toNat id x.o.sup asid (v % 256) none none)
        (List.range 2).foldl (fun s i =>
          let g := s.target x.o h (va + .ofNat 64 (32 * i))
          s.sendItem x.t .read g (fun it => .read (.bedw id i) x.o.asid (va + .ofNat 64 (32 * i)) 32 g it)) s1))

end Sys2Proof.Machine
end

