-- ==== Sys2Proof/Machine/Serve.lean ====
section
/-! DEFINITION. The steps of home ports and I/O dies: remote reads, posted stores and their acknowledgements, host and peer
traffic, join words, invalidations, BEDW, VTLD, tile-cache control and quadrant registers (spec/04 R64, spec/02 R40, spec/06
R111 to R113, spec/07 R128, R132 to R134, R137, spec/16 R340 to R343, spec/17 R360, spec/18 R382, R383). -/

namespace Sys2Proof.Machine

/-! ### Remote reads (spec/16 R320) -/

/-- Does an aperture serve bytes at a bus address: its die works, and the entry allows it (spec/03 R41, spec/04 R64)? -/
def State.aperServes (s : State) (die aper bus len : Nat) (write : Bool) : Bool :=
  let e := FMap.getD (s.die die).apers aper 0
  s.dieWorks die && aperEn e && (!write || aperWr e) && decide (aperBase e ≤ bus) && decide (bus + len ≤ aperBase e + aperLen e)
/-- The MAC address of a peer's entry (spec/02 R39). -/
def State.peerMac (s : State) (die index : Nat) : Nat := bits (FMap.getD (s.die die).peers index 0).toNat 64 48
/-- A frame leaves for a peer by one of the masked ports that are Up: which one is open (spec/02 R40, log 29). -/
def State.frameOut (s : State) (msg die index ra rv len : Nat) (data : List Byte) : State :=
  let l := s.peerPorts die index
  match l[(Config.freeWord s.fresh).toNat % l.length]? with
  | some p => s.bump.reply (.frame die p (s.peerMac die index) msg ra rv len data)
  | none => s
/-- A request for a peer leaves, once; while no port of its mask can send, it waits at the die. -/
def State.toPeer (s : State) (msg die index ra rv len : Nat) (data : List Byte) : State :=
  let d := s.die die
  if d.framed.contains msg || (s.peerPorts die index).isEmpty then s
  else (s.putDie die { d with framed := d.framed ++ [msg] }).frameOut msg die index ra rv len data
/-- An access of a task or a gardener to a peer: its frame leaves, and whether the peer refuses it is open (spec/07 R137, log 29). -/
def State.askPeer (s : State) (die index ra rv len : Nat) (data : List Byte) : State × Bool :=
  if s.peerMask die index = 0 then (s, false)
  else (s.frameOut s.fresh die index ra rv len data, (Config.freeWord s.fresh).toNat / 64 % 2 == 0)
/-- Has the frame of a request left (spec/02 R40)? Only then can the peer answer it. -/
def State.framed (s : State) (msg die : Nat) : Bool := (s.die die).framed.contains msg
/-- A request of ours to a peer is answered. -/
def State.fromPeer (s : State) (msg die : Nat) : State :=
  (s.unsend msg).putDie die { s.die die with framed := (s.die die).framed.filter (· != msg) }
/-- Does a target's node answer for itself? -/
def State.nodeUp (s : State) (g : Target) : Bool := match g with | .column key _ _ _ _ => s.tileUp (key / 16) | .host die _ _ => s.dieWorks die | .peer die _ _ _ => s.dieWorks die
/-- Answer a request from its target; a tile that serves none answers by the router that met the request (spec/02 R32). -/
def State.sendBack (s : State) (g : Target) (m : Msg) : State :=
  if s.nodeUp g then s.sendFrom g.node m else s.send m
/-- Answer a read request. -/
def State.answerRead (s : State) (msg : Nat) (d : ReadFor) (va : Word) (g : Target) (item : Nat) (r : HomeRes) : State :=
  match r with
  | .ok v _ => (s.unsend msg).sendBack g (.readDone d va v none item)
  | .trip c g4 => (s.unsend msg).sendBack g (.readDone d va 0 (some (c, .ofNat 64 g4)) item)

/-! ### Host-window reads (spec/04 R56) -/

/-- The 512 bytes of an image; the value slot of a register that is not Full has no meaning (log 3). -/
def State.imageBytes (s : State) (st : Strand) : List Byte :=
  let slot := fun r n => if (st.rc r).st == .full then leBytes (st.codeVal r) n else
    (List.range n).map (fun i => Config.freeByte (s.fresh * 1024 + r * 32 + i))
  leBytes st.header 64 ++ ((List.range 16).map (fun r => slot r 8)).flatten
  ++ ((List.range 8).map (fun k => leBytes (st.xv k).toNat 8)).flatten ++ ((List.range 8).map (fun k => slot (16 + k) 32)).flatten
/-- The bytes of a context store at an address: zero in an image never taken since self-test (spec/03 R43), those of the strand whose image it
is, else bytes without meaning, for a freed image keeps what the dock last wrote there (spec/06 R99, log 3). -/
def State.storeBytes (s : State) (pa len : Nat) : List Byte :=
  let key := pa / 2 ^ 32
  let i := (pa % 2 ^ 32 - 0xB8000000) / 512
  if (s.col key).imgs ≤ i then List.replicate len 0
  else
    match (s.colStrands key).find? (fun st => st.img == i && !st.inSlot) with
    | some st => ((s.imageBytes st).drop (pa % 512)).take len
    | none => (List.range len).map (fun k => Config.freeByte (s.fresh * 64 + k))
/-- A host's read of a context store: all-ones in Production (spec/03 R53); an uncorrectable line answers nothing (spec/11 R222). -/
def State.storeRead (s : State) (pa len : Nat) : State × Option (List Byte) :=
  if s.head.production then (s.bump, some (List.replicate len 255))
  else if s.badAt pa len then ((s.logError (pa / 2 ^ 36) 8 true pa 0 0).bump, none)
  else (s.bump, some (s.storeBytes pa len))
/-- Bytes of a window read have come, the last of their piece or not; after the last piece the read completes, with Completer Abort if one
met an uncorrectable error. -/
def State.winGot (s : State) (id pa : Nat) (data : List Byte) (last bad : Bool) : State :=
  match FMap.get? s.winReads id with
  | none => s
  | some w =>
    let w1 := { w with got := w.got ++ [(pa, data)], left := if last then w.left - 1 else w.left, failed := w.failed || bad }
    if w1.left ≠ 0 then { s with winReads := FMap.set s.winReads id w1 }
    else
      let s1 := { s with winReads := FMap.erase s.winReads id }
      if w1.failed then s1.reply .abort
      else s1.reply (.bytes ((w1.got.foldl (fun m g => Memory.putBytes m g.1 g.2) []).bytes w1.pa w1.len))
/-- A piece that no memory answers: all-ones, and AddressError, one for each piece (spec/02 R36, log 37).
DESIGN CHOICE (log 37): so is a piece of a tile that is Vacant, in Retain or Off; spec/02 R36 names only unpopulated and Unbound addresses, and
its R38 has no row for the host. -/
def State.winNowhere (s : State) (msg id pa len : Nat) : State :=
  let port := ((FMap.get? s.winReads id).map (·.port)).getD 0
  ((s.unsend msg).winGot id pa (List.replicate len 255) true false).raiseFrom (port / 2) 0x30 (pa / 2 ^ 36 % 64) pa
/-- Some unit of a piece is read at its home: which one is open, for the units of a request are not ordered. -/
def State.winPart (s : State) (msg id pa len : Nat) (left : List (Nat × Nat)) : State :=
  if !s.paOk pa len then s.winNowhere msg id pa len
  else if inContextStore pa then
    let r := s.storeRead pa len
    (r.1.unsend msg).winGot id pa (r.2.getD []) true r.2.isNone
  else
    match left[(Config.freeWord s.fresh).toNat % left.length]? with
    | none => s.unsend msg
    | some u =>
      let rest := left.erase u
      match s.bump.physReadIn u.1 u.2 (decide (left.length < (units pa len).length)) with
      | (s1, none) => (s1.unsend msg).winGot id u.1 [] true true
      | (s1, some v) =>
        (if rest.isEmpty then s1.unsend msg else { s1 with msgs := FMap.set s1.msgs msg (.winRead id pa len rest) }).winGot id u.1
          (leBytes v u.2) rest.isEmpty false

/-- REMOTE_READ_SERVE (spec R320): the home port serves the read, after any apply; the I/O die passes one for host or peer
memory on, or refuses it. A piece of a host-window read is served at its home too (spec/04 R56). -/
def execRemoteReadServe (msg : Nat) (s : State) : Out :=
  .next <| match s.msg? msg with
  | some (.read d asid va len g item) =>
    (match g with
     | .column _ _ _ _ _ =>
       if s.waitsFor g asid len 0 then s
       else
         let r := s.serveRead g asid len 0 (busParty (s.readerOf d))
         r.1.answerRead msg d va g item r.2
     | .host die aper bus => if s.aperServes die aper bus len false then s else s.answerRead msg d va g item refusedRead
     | .peer die index ra rv =>
       if s.peerMask die index = 0 then s.answerRead msg d va g item refusedRead else s.toPeer msg die index ra rv len [])
  | some (.winRead id pa len left) => if s.waitsPhys (pa / 64 * 64) 64 then s else s.winPart msg id pa len left
  | _ => s
/-- HOST_READ_COMPLETION (spec R64): a completion arrives for a read of host memory, or for the zero-length read of a port
(spec/04 R62). -/
def execHostReadCompletion (msg : Nat) (ok : Bool) (s : State) : Out :=
  .next <| match s.msg? msg with
  | some (.read d _ va len (.host die aper bus) item) =>
    if ok && s.aperServes die aper bus len false then s.answerRead msg d va (.host die aper bus) item (.ok (s.hostMem.read bus len) none)
    else s.answerRead msg d va (.host die aper bus) item refusedRead
  | some (.hostFlush _ _) => s.unsend msg
  | some (.storeFlush port item) => (s.unsend msg).sendFrom (64 + port / 2) (.postedAck item true)
  | _ => s

/-! ### Posted stores (spec/16 R324) -/

/-- A go word after one more NXTGO: bits [31:0] saturate (spec/05 R76). -/
def goNext (v : Nat) : Nat := if v % 2 ^ 32 = 2 ^ 32 - 1 then v else v + 1
/-- The port of an aperture. -/
def State.aperHostPort (s : State) (die aper : Nat) : Nat := 2 * die + aperPort (FMap.getD (s.die die).apers aper 0)
/-- A job has written host memory through a port (spec/04 R62). -/
def State.notePort (s : State) (job port : Nat) : State :=
  match s.job? job with
  | some j => if j.hostPorts.contains port then s else s.putJob { j with hostPorts := j.hostPorts ++ [port] }
  | none => s
/-- A posted store at its home; whether it was written. -/
def State.performPosted (s : State) (op : PostedOp) (asid : BitVec 12) (g : Target) (h : BitVec 64) (job : Nat) :
    State × Bool :=
  match g with
  | .column key bed hoff kind spill =>
    if !s.tileUp (key / 16) then (s, false)
    else
      let r := match op with
        | .bytes data => s.homeWrite key bed hoff kind spill asid data (busParty h)
        | .go => s.homeRmw key bed hoff kind spill asid (fun v => some (goNext v)) (busParty h)
      (r.1, match r.2 with | .ok _ _ => true | .trip _ _ => false)
  | .host die aper bus =>
    (match op with
     | .bytes data =>
       if s.aperServes die aper bus data.length true then
         ({ s with hostMem := s.hostMem.putBytes bus data }.notePort job (s.aperHostPort die aper), true)
       else (s.raiseFrom die 0x30 0 bus, false)
     | .go => (s.raiseFrom die 0x30 0 bus, false))
  | .peer _ _ _ _ => (s, false)
/-- The acknowledgement of a posted store; one written to host memory comes when a zero-length read on its port has completed (spec/08
R146). -/
def State.ackPosted (s : State) (g : Target) (item : Nat) (ok : Bool) : State :=
  match g with
  | .host die aper _ => if ok then s.send (.storeFlush (s.aperHostPort die aper) item) else s.sendBack g (.postedAck item false)
  | _ => s.sendBack g (.postedAck item ok)
/-- The bytes that a posted store carries to a peer: a go-word increment carries none. -/
def PostedOp.data : PostedOp → List Byte
  | .bytes l => l
  | .go => []
/-- POSTED_STORE_PERFORM (spec R324): the store is written at its home and acknowledged; one to a peer goes out and waits for the peer. A
piece of a host-window write is a posted store too (spec/04 R56). -/
def execPostedStorePerform (msg : Nat) (s : State) : Out :=
  .next <| match s.msg? msg with
  | some (.posted op _ _ (.peer die index ra rv) item) =>
    if s.peerMask die index = 0 then (s.unsend msg).sendBack (.peer die index ra rv) (.postedAck item false)
    else s.toPeer msg die index ra rv op.data.length op.data
  | some (.posted op asid _ g item) =>
    if s.waitsFor g asid 8 1 then s
    else
    let it := FMap.get? s.items item
    let r := (s.unsend msg).performPosted op asid g ((it.map (·.handle)).getD 0) ((it.map (·.job)).getD 0)
    r.1.ackPosted g item r.2
  | some (.winWrite port pa len left) => if s.waitsPhys (pa / 64 * 64) 64 then s else s.winPiece msg port pa len left
  | _ => s
/-- An item is done or failed, and its strand may go on. -/
def State.settle (s : State) (item : Nat) (ok : Bool) : State :=
  match FMap.get? s.items item with
  | none => s
  | some it => (if ok then s.itemDone item else s.itemFailed item true).rejoin it.handle
/-- POSTED_STORE_ACK (spec R146): the store is done, or failed; an acknowledgement that comes after the wait of spec/02 R38 is discarded
and counted. -/
def execPostedStoreAck (msg : Nat) (s : State) : Out :=
  .next <| match s.msg? msg with
  | some (.postedAck item ok) => (s.unsend msg).settle item ok
  | some (.lateAns k) => (s.unsend msg).putCol k { s.col k with late := (s.col k).late + 1 }
  | _ => s

/-! ### Peers (spec/02 R39, R40, spec/07 R137) -/

/-- PEER_ACK (spec R40): the peer acknowledges a posted store whose frame has left. -/
def execPeerAck (msg : Nat) (s : State) : Out :=
  .next <| match s.msg? msg with
  | some (.posted _ _ _ (.peer die i a v) item) =>
    if s.framed msg die then (s.fromPeer msg die).sendBack (.peer die i a v) (.postedAck item true) else s
  | _ => s
/-- PEER_ACK_TIMEOUT (spec R40): the store counts as lost. -/
def execPeerAckTimeout (msg : Nat) (s : State) : Out :=
  .next <| match s.msg? msg with
  | some (.posted _ _ _ (.peer die i a v) item) => (s.fromPeer msg die).sendBack (.peer die i a v) (.postedAck item false)
  | _ => s
/-- The table by which another panel's access is checked here: the copy of the lowest-numbered tile that holds one. -/
def State.peerTable (s : State) (asid : BitVec 12) : Option (Nat × BedTable) :=
  ((s.tiles.filterMap (fun kv => (FMap.get? kv.2.bedTables asid.toNat).map (fun t => (kv.1, t))))).head?
/-- Another panel's access to an address here, checked and translated here. -/
def State.peerAccess (s : State) (asid : BitVec 12) (va : Word) (data : Option (List Byte)) (len : Nat) : State × HomeRes :=
  match s.peerTable asid with
  | none => (s, refusedRead)
  | some (tile, tab) =>
    match tab.check (if data.isSome then .stp else .ldr) va 1 with
    | .inl _ => (s, refusedRead)
    | .inr h =>
      match s.targetBed h (tab.spills h.index) tile va with
      | .column key bed hoff kind spill =>
        if !s.tileUp (key / 16) then (s, refusedRead)
        else
          (match data with
           | some l => s.homeWrite key bed hoff kind spill asid l (busParty 0)
           | none => s.homeRead key bed hoff kind spill asid len 0 (busParty 0))
      | _ => (s, refusedRead)
/-- Does a peer's access wait at the port of its home? -/
def State.peerWaits (s : State) (asid : BitVec 12) (va : Word) (write : Bool) (len : Nat) : Bool :=
  match s.peerTable asid with
  | none => false
  | some (tile, tab) =>
    match tab.check (if write then .stp else .ldr) va 1 with
    | .inl _ => false
    | .inr h => s.waitsFor (s.targetBed h (tab.spills h.index) tile va) asid len (if write then 1 else 0)
/-- The bytes of data that a frame carries (spec/02 R39). -/
def frameLen : Frame → Nat
  | .readAnswer _ data => data.length
  | .readRefused _ => 0
  | .writeRefused _ => 0
  | .readRequest _ _ _ _ => 0
  | .writeRequest _ _ data _ => data.length
/-- A frame with a good CRC answers a request of ours whose frame has left, or asks for an access here. -/
def State.takeFrame (s : State) (frame : Frame) : State :=
  match frame with
  | .readAnswer msg data =>
    (match s.msg? msg with
     | some (.read d _ va len (.peer die i a v) item) =>
       if s.framed msg die then (s.fromPeer msg die).answerRead msg d va (.peer die i a v) item (.ok (leValue (data.take len)) none) else s
     | _ => s)
  | .readRefused msg =>
    (match s.msg? msg with
     | some (.read d _ va _ (.peer die i a v) item) =>
       if s.framed msg die then (s.fromPeer msg die).answerRead msg d va (.peer die i a v) item refusedRead else s
     | _ => s)
  | .writeRefused msg =>
    (match s.msg? msg with
     | some (.posted _ _ _ (.peer die i a v) item) =>
       if s.framed msg die then (s.fromPeer msg die).sendBack (.peer die i a v) (.postedAck item false) else s
     | _ => s)
  | .readRequest asid va len _ =>
    if s.peerWaits asid va false len then s
    else
    (match s.peerAccess asid va none len with
     | (s1, .ok v _) => s1.reply (.bytes (leBytes v len))
     | (s1, .trip _ _) => s1.reply (.status "refused"))
  | .writeRequest asid va data _ =>
    if s.peerWaits asid va true data.length then s
    else
    (match s.peerAccess asid va (some data) data.length with
     | (s1, .ok _ _) => s1.reply (.status "acknowledged")
     | (s1, .trip _ _) => s1.reply (.status "refused"))
/-- PEER_FRAME (spec R39): a frame comes by a scale-up port of die 0 to 3; one longer than 9,216 bytes is none. From 4 on the operand is
4 * (port + 1) + the die: the CRC of the frame that came by that port failed, and it is counted and dropped (log 29). -/
def execPeerFrame (die : Nat) (frame : Frame) (s : State) : Out :=
  let d := s.die (die % 4)
  let port := die / 4 - 1
  .next <|
    if !s.dieWorks (die % 4) then s
    else if 4 ≤ die then
      (if 40 ≤ port then s
       else
         let p := FMap.getD d.scaleUp port ⟨0, 0, 0⟩
         s.putDie (die % 4) { d with scaleUp := FMap.set d.scaleUp port { p with crcerr := min (p.crcerr + 1) 255 } })
    else if 9216 < frameLen frame then s
    else s.takeFrame frame


/-! ### Join words (spec/06 R111 to R113) -/

/-- A join word's count one higher, saturating, or one lower, not below zero (spec/06 R112). -/
def joinUp (v : Nat) : Nat := if v % 2 ^ 32 = 2 ^ 32 - 1 then v else v + 1
def joinDown (v : Nat) : Nat := if v % 2 ^ 32 = 0 then v else v - 1
/-- How a dock's join table names a word: by panel address, or by its place in scratch. -/
def joinKey (key hoff : Nat) (off : Option Nat) : Nat :=
  match off with
  | some o => panelAddr key o
  | none => 2 ^ 42 + key * 2 ^ 24 + hoff
/-- Change a join word at its home as an atomic does; the old value and the word's name. -/
def State.joinChange (s : State) (asid : BitVec 12) (g : Target) (f : Nat → Nat) : State × (Nat × Nat × Nat ⊕ Nat × Nat) :=
  match g with
  | .column key bed hoff kind spill =>
    if !s.tileUp (key / 16) then (s, .inr (9, 13))
    else
      (match s.homeRmw key bed hoff kind spill asid (fun v => some (f v)) (busParty 0) with
       | (s1, .ok v off) => (s1, .inl (v, key, joinKey key hoff off))
       | (s1, .trip c g4) => (s1, .inr (c, g4)))
  | _ => (s, .inr (9, 13))
/-- The waiters of a word whose count has come to zero are filled with its value, and leave the table. -/
def State.fillJoins (s : State) (key addr v : Nat) : State :=
  let c := s.col key
  let l := c.joins.filter (fun w => w.addr == addr)
  l.foldl (fun s w => s.sendFrom (key / 16) (.fill w.handle w.reg w.tag v (some 7) none))
    (s.putCol key { c with joins := c.joins.filter (fun w => w.addr != addr) })
/-- JOIN_WORD_CHANGE (spec R112): an increment or a decrement is performed at the word's home. -/
def execJoinWordChange (msg : Nat) (s : State) : Out :=
  .next <| match s.msg? msg with
  | some (.joinIncr h asid _ g) =>
    if s.waitsFor g asid 8 1 then s
    else
    (match (s.unsend msg).joinChange asid g joinUp with
     | (s1, .inl _) => s1.sendBack g (.joinAck h 0 0)
     | (s1, .inr f) => s1.sendBack g (.joinAck h f.1 f.2))
  | some (.joinDecr job asid _ g item) =>
    if s.waitsFor g asid 8 1 then s
    else
    (match (s.unsend msg).joinChange asid g joinDown with
     | (s1, .inl (v, key, addr)) =>
       let s2 := s1.itemDone item
       if v % 2 ^ 32 = 1 then s2.fillJoins key addr (joinDown v) else s2
     | (_, .inr _) => ((s.unsend msg).itemDone item).recordStatus job 5)
  | _ => s
/-- JOIN_INCREMENT_ACK (spec R111): the SPAWN may complete, or traps at its next issue. -/
def execJoinIncrementAck (msg : Nat) (s : State) : Out :=
  .next <| match s.msg? msg with
  | some (.joinAck h c g4) =>
    let s1 := s.unsend msg
    (match s1.strand? h with
     | none => s1
     | some st =>
       match st.phase with
       | .spawn sid t home w .sent =>
         (s1.putStrand { st with phase := .spawn sid t home w (if c = 0 then .acked else .failed c g4) }).rejoin h
       | _ => s1)
  | _ => s

/-- The registration of a JOIN is accepted: the JOIN may complete. -/
def State.joinAccepted (s : State) (h : BitVec 64) (tag : Nat) : State :=
  match s.strand? h with
  | none => s
  | some st =>
    match st.phase with
    | .join t _ n => if t = tag then (s.putStrand { st with phase := .join t true n }).rejoin h else s
    | _ => s
/-- The registration is refused: the dock sends it again after a backoff. -/
def State.joinRefused (s : State) (h : BitVec 64) (tag : Nat) : State :=
  match s.strand? h with
  | none => s
  | some st =>
    match st.phase with
    | .join t ok n => if t = tag then s.putStrand { st with phase := .join t ok (n + 1) } else s
    | _ => s
/-- JOIN_REGISTRATION (spec R113): the dock fills at once, enters the waiter, or refuses; a word that cannot be read is
answered by a failure fill. -/
def execJoinRegistration (msg : Nat) (s : State) : Out :=
  .next <| match s.msg? msg with
  | some (.joinReg h reg tag asid va g false) =>
    if s.waitsFor g asid 8 0 then s
    else
    (match s.serveRead g asid 8 0 (busParty h), g with
     | (s1, .ok v off), .column key _ hoff _ _ =>
       if v % 2 ^ 32 = 0 then ((s1.unsend msg).sendBack g (.fill h reg tag v (some 7) none)).joinAccepted h tag
       else
         let c := s1.col key
         if c.joins.length < 256 then
           ((s1.unsend msg).putCol key { c with joins := c.joins ++ [⟨joinKey key hoff off, h, reg, tag⟩] }).joinAccepted h tag
         else { s1 with msgs := FMap.set s1.msgs msg (.joinReg h reg tag asid va g true) }.joinRefused h tag
     | (s1, .trip c g4), _ =>
       ((s1.unsend msg).sendBack g (.fill h reg tag 0 (some 7) (some (lossOf va (c, .ofNat 64 g4))))).joinAccepted h tag
     | (s1, .ok _ _), _ => s1.unsend msg)
  | _ => s
/-- JOIN_REGISTRATION_RETRY (spec R113): a refused registration is sent again. -/
def execJoinRegistrationRetry (msg : Nat) (s : State) : Out :=
  .next <| match s.msg? msg with
  | some (.joinReg h reg tag asid va g true) => s.recross msg (.joinReg h reg tag asid va g false)
  | _ => s

/-! ### Invalidations (spec/07 R128, spec/18 R382) -/

/-- Does an invalidation remove an entry: 1 the pages that cover an address, 2 an address space, 3 all? -/
def TlbEntry.hitBy (e : TlbEntry) (op : Nat) (asid : BitVec 12) (cva : Nat) : Bool :=
  match op with
  | 1 => e.asid == asid && e.cva == cva / e.size * e.size
  | 2 => e.asid == asid
  | _ => true
/-- Invalidate in a column's translation buffer. -/
def State.invalidate (s : State) (key op : Nat) (asid : BitVec 12) (cva : Nat) : State :=
  let c := s.col key
  s.putCol key { c with tlb := c.tlb.filter (fun e => !e.hitBy op asid cva) }
/-- TLBI_INVALIDATE (spec R382): a column applies the invalidation, and answers. -/
def execTlbiInvalidate (msg : Nat) (s : State) : Out :=
  .next <| match s.msg? msg with
  | some (.tlbi h reg tag key op asid cva) =>
    if s.tileUp (key / 16) then ((s.unsend msg).invalidate key op asid cva).sendFrom (key / 16) (.tlbiAck h reg tag 0)
    else (s.unsend msg).send (.tlbiAck h reg tag 1)
  | _ => s
/-- TLBI_ACK (spec R382): the last answer fills d with the number of columns not reached. -/
def execTlbiAck (msg : Nat) (s : State) : Out :=
  .next <| match s.msg? msg with
  | some (.tlbiAck h reg tag bad) =>
    let s1 := s.unsend msg
    (match FMap.get? s1.acks tag with
     | none => s1
     | some (n, b) =>
       if n ≤ 1 then ({ s1 with acks := FMap.erase s1.acks tag }).fillReg h reg tag (b + bad) none none
       else { s1 with acks := FMap.set s1.acks tag (n - 1, b + bad) })
  | _ => s
/-- A write of TBINV: ignored while the last is under way. -/
def State.tbinv (s : State) (tile col op : Nat) (asid : BitVec 12) (cva : Nat) : State :=
  let key := colKey tile col
  if (s.col key).tbBusy then s
  else
    let s1 := s.invalidate key op asid cva
    s1.putCol key { s1.col key with tbBusy := true }
/-- TBINV_PAGE (spec R128): invalidates the pages of an address space that cover cva[47:16]. -/
def execTbinvPage (tile col : Nat) (asid : BitVec 12) (cvapg : BitVec 32) (s : State) : Out :=
  .next (s.tbinv tile col 1 asid (cvapg.toNat * 65536))
/-- TBINV_ASID (spec R128): invalidates an address space. -/
def execTbinvAsid (tile col : Nat) (asid : BitVec 12) (s : State) : Out := .next (s.tbinv tile col 2 asid 0)
/-- TBINV_ALL (spec R128): invalidates every entry. -/
def execTbinvAll (tile col : Nat) (s : State) : Out := .next (s.tbinv tile col 3 0 0)
/-- INVALIDATION_COMPLETE (spec R128): BUSY clears. -/
def execInvalidationComplete (tile col : Nat) (s : State) : Out :=
  .next (s.putCol (colKey tile col) { s.col (colKey tile col) with tbBusy := false })

/-! ### BEDW (spec/18 R383) -/

/-- The status of a descriptor for a place in a copy; 0 when it may be written. -/
def State.bedwCheck (s : State) (t : BedTable) (index w : Nat) (sup : Bool) : Nat :=
  if (bits w 441 3 == 4 || bits w 441 3 == 5) && !sup then 1
  else if !bedSelfOk w then 2
  else
    match bedOf w with
    | none => 2
    | some b =>
      let others := FMap.erase t.beds index
      if others.any (fun kv => b.overlaps kv.2) then 3
      else if !b.rectOk || !b.tiles.all s.tileLive then 4
      else if !b.updateOk (fun i => if i = index then some b else FMap.get? others i) then 5
      else if !s.farOk b then 6
      else 0
/-- A descriptor has been written: its entry leaves every bed cache of the tile, and the line and instruction buffers go. -/
def State.bedwFlush (s : State) (tile index : Nat) (asid : BitVec 12) : State :=
  { s with cores := FMap.mapVals s.cores (fun k (c : Core) =>
      if k / 768 = tile then
        { c with bedCache := c.bedCache.filter (fun e => !(e.asid == asid && e.index == index)), lineBuf := [], instrBuf := [] }
      else c) }
/-- Write a descriptor into a tile's copy, all zeros removing the bed: the status. -/
def State.bedwWrite (s : State) (tile index : Nat) (asid : BitVec 12) (sup : Bool) (w : Nat) : State × Nat :=
  let tl := s.tile tile
  match FMap.get? tl.bedTables asid.toNat with
  | none => (s, 7)
  | some t =>
    let put := fun (beds : FMap Bed) =>
      let t1 : BedTable := { t with beds := beds, bedn := max t.bedn (index + 1) }
      ((s.putTile tile { tl with bedTables := FMap.set tl.bedTables asid.toNat t1 }).bedwFlush tile index asid, 0)
    if w = 0 then put (FMap.erase t.beds index)
    else
      let c := s.bedwCheck t index w sup
      if c ≠ 0 then (s, c)
      else match bedOf w with
        | some b => put (FMap.set t.beds index b)
        | none => (s, 2)
/-- BEDW_READ_DONE (spec R383): half of the image is in; with both the descriptor is checked and written, and d is filled. -/
def execBedwReadDone (msg : Nat) (s : State) : Out :=
  .next <| match s.msg? msg with
  | some (.readDone (.bedw id half) _ value fail item) =>
    let s1 := (s.unsend msg).itemDone item
    let got : Option Nat := if fail.isSome then none else some value
    (match s1.msg? id with
     | some (.bedw tile h reg tag sup asid index h0 h1) =>
       let h0 := if half = 0 then some got else h0
       let h1 := if half = 1 then some got else h1
       (match h0, h1 with
        | some a, some b =>
          let s2 := s1.unsend id
          (match a, b with
           | some lo, some hi =>
             let r := s2.bedwWrite tile index asid sup (lo + hi * 2 ^ 256)
             r.1.fillReg h reg tag r.2 none none
           | _, _ => s2.fillReg h reg tag 8 none none)
        | _, _ => { s1 with msgs := FMap.set s1.msgs id (.bedw tile h reg tag sup asid index h0 h1) })
     | _ => s1)
  | _ => s

/-- VTLD_TABLE_REPLACE (spec R360): the last piece is in, and the core's table is replaced. -/
def execVtldTableReplace (msg : Nat) (s : State) : Out :=
  .next <| match s.msg? msg with
  | some (.readDone (.vtld k id piece) va value fail item) =>
    if s.lastPiece k id piece fail then
      let s1 := ((s.unsend msg).itemDone item).fillVtld k id piece va value none
      match FMap.get? (s1.core k).vtlds id with
      | some e => (s1.vtldReplace k id).vtldDone e.handle id
      | none => s1
    else s
  | _ => s

/-! ### The tile cache (spec/07 R132 to R134, spec/16 R340 to R343) -/

/-- All ones. -/
def allOnes : Nat := 2 ^ 64 - 1
/-- The first range register with EN at 0. -/
def freeRange (m : FMap (BitVec 64)) (n : Nat) : Option Nat :=
  (List.range n).find? (fun i => bits (FMap.getD m i 0).toNat 63 1 == 0)
/-- A range register's value (spec/07 R133). -/
def rangeWord (col base len : Nat) : BitVec 64 := .ofNat 64 (2 ^ 63 + col * 2 ^ 59 + len * 2 ^ 32 + base / 65536 * 65536)
/-- Serve a request at a quadrant: the new quadrant and what d receives; pa and page are the column offset and the end of its
leaf page. -/
def Quad.control (q : Quad) (op col pa pageEnd : Nat) (x : Word) : Quad × Nat :=
  let base := pa / 65536 * 65536
  let stop := min (pa + x.toNat) pageEnd
  let len := min ((stop - base + 65535) / 65536) 65535
  match op with
  | 0 =>
    if x = 0 then (q, allOnes)
    else (match freeRange q.ret 8 with
      | some i => ({ q with ret := FMap.set q.ret i (rangeWord col base len) }, i)
      | none => (q, allOnes))
  | 2 =>
    if x = 0 then (q, allOnes)
    else (match freeRange q.ef 4 with
      | some i => ({ q with ef := FMap.set q.ef i (rangeWord col base len) }, i)
      | none => (q, allOnes))
  | 1 =>
    let i := x.toNat
    let off := fun (m : FMap (BitVec 64)) j => FMap.set m j (setBits (FMap.getD m j 0) 63 1 0)
    if 11 < i then (q, allOnes)
    else if i < 8 then ({ q with ret := off q.ret i }, 0)
    else ({ q with ef := off q.ef (i - 8) }, 0)
  | _ =>
    if x = 0 then (q, 0)
    else
      let hit := fun (l : CacheLine) => l.col == col && l.dirty && decide (pa / 64 ≤ l.line) && decide (l.line ≤ (stop - 1) / 64)
      let n := (q.lines.filter hit).length
      ({ q with lines := q.lines.map (fun l => if hit l then { l with dirty := false } else l), qwbk := q.qwbk + n }, n)
/-- CACHE_CONTROL_REQUEST (spec R340): the request is translated at its home, served at the quadrant and answered. -/
def execCacheControlRequest (msg : Nat) (s : State) : Out :=
  .next <| match s.msg? msg with
  | some (.cacheCtl op h reg tag asid g x) =>
    if (match g with | some t => s.waitsFor t asid 1 0 | none => false) then s
    else
    let s0 := s.unsend msg
    let bad := s0.send (.fill h reg tag allOnes none none)
    (match g with
     | some (.column key bed hoff _ _) =>
       if !s.tileUp (key / 16) then bad
       else
         let cva := cvaOf bed hoff
         (match s0.translate key asid cva 0 with
          | (s1, .ok off) =>
            (match (s1.col key).tlbHit asid cva with
             | some e =>
               let r := (s1.quad (quadOfCol key)).control op (key % 16) off (e.off + e.size) x
               (s1.putQuad (quadOfCol key) r.1).sendFrom (key / 16) (.fill h reg tag r.2 none none)
             | none => s1.sendFrom (key / 16) (.fill h reg tag allOnes none none))
          | (s1, .trip _ _) => s1.sendFrom (key / 16) (.fill h reg tag allOnes none none))
     | _ => bad)
  | _ => s

/-- The SRAM bytes of ways lo to hi - 1 of a quadrant are zero. -/
def State.clearWays (s : State) (qk lo hi : Nat) : State :=
  { s with sram := s.sram.clear (sramKey qk lo 0) (sramKey qk hi 0),
           badLines := s.badLines.filter (fun l => !(decide (sramLine (sramKey qk lo 0) ≤ l) && decide (l < sramLine (sramKey qk hi 0)))) }
/-- QPART_WRITE (spec R134): SCRW falls at once; ways that become scratch are written back and invalidated; BUSY is set. -/
def execQpartWrite (tile quad : Nat) (val : BitVec 64) (s : State) : Out :=
  let qk := quadKey tile quad
  let q := s.quad qk
  let scrw := bits val.toNat 8 5
  let retw := bits val.toNat 0 5
  if q.busy || decide (16 < scrw + retw) then .next s
  else
    let gone := q.lines.filter (fun l => decide (16 - scrw ≤ l.way))
    let s1 := if scrw < q.scrw then s.clearWays qk (16 - q.scrw) (16 - scrw) else s
    let q1 := { q with busy := true, newScrw := scrw, scrw := min q.scrw scrw, retw := retw }
    let kept := q.lines.filter (fun l => !decide (16 - scrw ≤ l.way))
    .next (s1.putTags qk { q1 with lines := kept, qwbk := q.qwbk + (gone.filter (fun l => l.dirty)).length })
/-- QPART_CHANGE_DONE (spec R134): scratch grows, its new bytes zero, and BUSY clears. -/
def execQpartChangeDone (tile quad : Nat) (s : State) : Out :=
  let qk := quadKey tile quad
  let q := s.quad qk
  if q.busy then .next ((s.clearWays qk (16 - q.newScrw) (16 - q.scrw)).putQuad qk { q with busy := false, scrw := q.newScrw })
  else .next s
/-- QUADRANT_COUNTER_READ (spec R132): 0 QHIT, 1 QMISS, 2 QWBK; the read clears it. -/
def execQuadrantCounterRead (tile quad k : Nat) (s : State) : Out :=
  let q := s.quad (quadKey tile quad)
  .next <| match k with
  | 0 => s.replyReg tile (q.qhit % 2 ^ 64) (s.putQuad (quadKey tile quad) { q with qhit := 0 })
  | 1 => s.replyReg tile (q.qmiss % 2 ^ 64) (s.putQuad (quadKey tile quad) { q with qmiss := 0 })
  | 2 => s.replyReg tile (q.qwbk % 2 ^ 64) (s.putQuad (quadKey tile quad) { q with qwbk := 0 })
  | _ => s
/-- DOCKSTS (spec/06 R100). -/
def State.docksts (s : State) (key : Nat) : Nat :=
  let c := s.col key
  (262144 - s.imagesUsed key) * 2 ^ 32 + c.refCount * 2 ^ 16 + c.refusals.length * 2 ^ 12
/-- DOCKSTS_READ (spec R100): the read clears REFUSALS. -/
def execDockstsRead (tile col : Nat) (s : State) : Out :=
  let key := colKey tile col
  .next (s.replyReg tile (s.docksts key) (s.putCol key { s.col key with refCount := 0 }))

end Sys2Proof.Machine
end

