-- ==== Sys2Proof/Machine/Debug.lean ====
section
/-! DEFINITION. Debug: opening and closing tiles (spec/03 R49 to R51), halts (spec/11 R227 to R229), a debugger's writes into the image of
a strand and its memory accesses (spec/11 R230). -/

namespace Sys2Proof.Machine

/-! ### Opening and closing (spec/03 R50, R51) -/

/-- Open a tile for debug. -/
def State.openTile (s : State) (t : Nat) : State :=
  let x := s.tile t
  s.putTile t { x with opened := true, debug := if x.debug == .closed then .opened else x.debug }
/-- A tile closes: breakpoints cleared, halted slots resumed. The one breakpoint state that the spec describes is HOB, by which a BKPT halts;
the model clears it and keeps GROUP (log 37). -/
def State.closeTile (s : State) (t : Nat) : State :=
  let s1 := (s.cores.filter (fun kv => kv.1 / 768 == t)).foldl (fun s kv =>
    let s1 := s.putCore kv.1 { s.core kv.1 with dbgctl := setBits (s.core kv.1).dbgctl 60 1 0 }
    if kv.2.halted then s1.resumeCore kv.1 else s1) s
  s1.putTile t { s1.tile t with debug := .closed }
/-- The live tiles of a mask. -/
def State.maskTiles (s : State) (m : BitVec 64) : List Nat := (List.range 64).filter (fun t => m.getLsbD t && s.tileLive t)
/-- DEBUG_OPEN_COMMAND (spec R50): opens a tile in Development; refused in Production. -/
def execDebugOpenCommand (tile : Nat) (s : State) : Out :=
  .next <|
    if s.head.production then s.reply (.status "Refused")
    else if s.tileLive tile then s.openTile tile else s
/-- North's management timer, in ns (spec/03 R50). -/
def State.mgmtTime (s : State) : Nat := (s.die 0).timer
/-- Does the head gardener run: the panel has power, and North has booted (spec/03 R41, R44)? -/
def State.headRuns (s : State) : Bool := s.head.powered && (s.die 0).booted
/-- DEBUG_CHALLENGE (spec R50): a nonce is issued. -/
def execDebugChallenge (nonce : BitVec 256) (s : State) : Out :=
  .next <|
    if !s.headRuns then s
    else ({ s with head := { s.head with nonces := s.head.nonces ++ [(nonce, s.mgmtTime)] } }).reply (.bytes (leBytes nonce.toNat 32))
/-- What the two signatures of a token cover: its bytes 0x0000 to 0x003F, all that stand before them (log 37). -/
def tokenBody (k : Token) : List Byte :=
  leBytes k.serial.toNat 16 ++ leBytes k.nonce.toNat 32 ++ leBytes k.mask.toNat 8 ++ leBytes k.perms.toNat 4 ++ leBytes k.duration.toNat 4
/-- Is a token accepted? -/
def State.tokenOk (s : State) (k : Token) : Bool :=
  Config.ed25519Ok s.head.debugKeys.1 (tokenBody k) k.sigEd && Config.mldsaOk s.head.debugKeys.2 (tokenBody k) k.sigMl
  && k.serial == s.head.serial && !s.head.usedNonces.contains k.nonce
  && s.head.nonces.any (fun n => n.1 == k.nonce && decide (s.mgmtTime ≤ n.2 + 60 * 10 ^ 9))
  && decide (1 ≤ k.duration.toNat) && decide (k.duration.toNat ≤ 86400) && decide (k.perms.toNat < 32)
/-- The tiles of the token in force close. -/
def State.dropToken (s : State) (keep : BitVec 64) : State :=
  match s.head.token with
  | some k => (s.maskTiles (k.mask &&& ~~~keep)).foldl State.closeTile { s with head := { s.head with token := none } }
  | none => s
/-- DEBUG_TOKEN (spec R50): an accepted token opens the tiles of its mask, in place of the one before it. -/
def execDebugToken (tok : Token) (s : State) : Out :=
  .next <|
    if !s.headRuns then s
    else if s.tokenOk tok then
      let s1 := s.dropToken tok.mask
      let s2 := { s1 with head := { s1.head with
        token := some tok, tokenUntil := s.mgmtTime + tok.duration.toNat * 10 ^ 9, usedNonces := s1.head.usedNonces ++ [tok.nonce] } }
      ((s2.maskTiles tok.mask).foldl State.openTile s2).reply (.status "Accepted")
    else s.reply (.status "Refused")
/-- DEBUG_CLOSE (spec R50): the tiles of the mask close. -/
def execDebugClose (mask : BitVec 64) (s : State) : Out := .next ((s.maskTiles mask).foldl State.closeTile s)
/-- DEBUG_TOKEN_EXPIRE (spec R50): the token's duration has expired. -/
def execDebugTokenExpire (s : State) : Out :=
  .next (if s.head.token.isSome && s.head.tokenUntil ≤ s.mgmtTime then s.dropToken 0 else s)

/-! ### Halts (spec/11 R227 to R229) -/

/-- An access moves an Idle tile to Run first (spec/03 R51). -/
def State.wake (s : State) (t : Nat) : State :=
  let x := s.tile t
  if x.pow.mode == .idle then s.putTile t { x with pow := { x.pow with mode := .run } } else s
/-- DBG_HALT_REQUEST (spec R228): the core's group halts; refused in Retain and Off (spec R51). -/
def execDbgHaltRequest (tile core : Nat) (s : State) : Out :=
  .next <|
    if !s.tileLive tile || 768 ≤ core then s
    else if !s.tileUp tile then s.reply (.status "Refused")
    else if s.debugMay tile 0 then (s.wake tile).haltGroup (coreKey tile core)
    else s
/-- DBG_RESUME_REQUEST (spec R228): the core's group resumes. -/
def execDbgResumeRequest (tile core : Nat) (s : State) : Out :=
  .next (if s.tileUp tile && s.debugMay tile 0 && decide (core < 768) then (s.wake tile).resumeGroup (coreKey tile core) else s)
/-- HALT_PROPAGATE (spec R228): a member core halts or resumes between issues, on a tile that is Open. -/
def execHaltPropagate (msg : Nat) (s : State) : Out :=
  .next <| match s.msg? msg with
  | some (.halt k res) =>
    let s1 := s.unsend msg
    if (s.tile (k / 768)).debug == .closed || !s.tileUp (k / 768) || (s.core k).halted != res then s1
    else if res then s1.resumeCore k else (s1.wake (k / 768)).haltCore k
  | _ => s

/-! ### A debugger's writes into an image (spec/11 R230) -/

/-- A register takes a state code: Awaiting is stored as Empty, and so is Cut without an attachment. A register that becomes Full in
this way holds a value without meaning (log 3). -/
def Strand.storeCode (st : Strand) (seed r code : Nat) : Strand :=
  let c := st.rc r
  match code with
  | 0 => if c.st == .full then st else st.setCode r (Config.freeWide (seed * 32 + r)).toNat
  | 2 => st.setRc r { c with st := if (st.attached r).isSome then .cut else .empty, acq := none, loss := none }
  | _ => st.setRc r { c with st := .empty, acq := none, loss := none }
/-- What a write of SS stores: reserved bits read as zero, and RM 5 to 7 store 0 (spec/13 R258). -/
def ssStored (v : Nat) : BitVec 64 := .ofNat 64 (bits v 32 16 * 2 ^ 32 + bits v 18 1 * 2 ^ 18 + bits v 8 9 * 2 ^ 8 + rmFlags v)
/-- A write of dword k of the header: PC, SS, GST and WST take the bits that lie in it. -/
def Strand.writeHeader (st : Strand) (seed k v : Nat) : Strand :=
  let h := st.header - bits st.header (64 * k) 64 * 2 ^ (64 * k) + v % 2 ^ 64 * 2 ^ (64 * k)
  let touched := fun (lo n : Nat) => decide (lo < 64 * k + 64) && decide (64 * k < lo + n)
  let st1 := { st with pc := .ofNat 56 (bits h 457 55 * 2), ss := if touched 393 64 then ssStored (bits h 393 64) else st.ss }
  (List.range 24).foldl (fun x r =>
    let lo := if r < 16 then 361 + 2 * r else 345 + 2 * (r - 16)
    if touched lo 2 then x.storeCode seed r (bits h lo 2) else x) st1
/-- A write of 64 bits at an offset of the image. -/
def Strand.writeImage (st : Strand) (seed off : Nat) (v : Word) : Strand :=
  let k := off / 8
  if k < 8 then st.writeHeader seed k v.toNat
  else if k < 24 then st.setG (.ofNat 4 (k - 8)) v
  else if k < 32 then st.setX (k - 24) v
  else
    let r := (k - 32) / 4
    let old := if (st.rc (16 + r)).st == .full then st.codeVal (16 + r) else (Config.freeWide (seed * 32 + r)).toNat
    let lo := (k - 32) % 4 * 64
    st.setW (.ofNat 3 r) (.ofNat 256 (old - bits old lo 64 * 2 ^ lo + v.toNat * 2 ^ lo))
/-- The strand that DBGSEL selects, while its core is halted. -/
def State.selected (s : State) (t : Nat) : Option Strand :=
  let v := (s.tile t).dbgsel
  if (s.core (coreKey t (bits v 4 10))).halted then s.slotStrand t (bits v 4 10) (bits v 0 4) else none
/-- DEBUG_IMAGE_WRITE (spec R230). -/
def execDebugImageWrite (tile off : Nat) (val : BitVec 64) (s : State) : Out :=
  .next <| match s.selected tile with
  | none => s
  | some st => if s.tileUp tile && s.debugMay tile 2 && decide (off < 512) && off % 8 == 0 then s.bump.putStrand (st.writeImage s.fresh off val) else s

/-! ### A debugger's memory accesses (spec/11 R230) -/

/-- Does a debugger at a tile reach memory: both tiles serve and permit it (spec/03 R51, spec/11 R227)? -/
def State.debugReach (s : State) (tile pa p : Nat) : Bool :=
  s.tileUp tile && s.debugMay tile p && s.debugMay (pa / 2 ^ 36) p
/-- DEBUG_MEMORY_READ (spec R230): as a host-window read; one that is not permitted, or not served, returns all-ones. An access first moves
the tiles that it reaches from Idle to Run (spec/03 R51). -/
def execDebugMemoryRead (tile pa len : Nat) (s : State) : Out :=
  let ones := List.replicate len (255 : Byte)
  .next <|
    if !s.debugReach tile pa 3 || !s.paOk pa len then s.reply (.bytes ones)
    else if s.waitsPhys pa len then s
    else if inContextStore pa then
      let r := ((s.wake tile).wake (pa / 2 ^ 36)).storeRead pa len
      r.1.reply (match r.2 with | some l => .bytes l | none => .abort)
    else
      match ((s.wake tile).wake (pa / 2 ^ 36)).physRead pa len with
      | (s1, some v) => s1.reply (.bytes (leBytes v len))
      | (s1, none) => s1.reply .abort
/-- DEBUG_MEMORY_WRITE (spec R230): as a host-window write; one that is not permitted, or not served, is discarded. -/
def execDebugMemoryWrite (tile pa : Nat) (data : List Byte) (s : State) : Out :=
  .next <|
    if !s.debugReach tile pa 4 || !s.paOk pa data.length || s.waitsPhys pa data.length then s
    else if inContextStore pa then (s.wake tile).wake (pa / 2 ^ 36)
    else (((s.wake tile).wake (pa / 2 ^ 36)).physWrite pa data).1

end Sys2Proof.Machine
end

