-- ==== Sys2Proof/Machine/Hedge.lean ====
section
/-! DEFINITION. Hedge barriers: arming, arriving, waiting, the messages between tiles and the releases (spec/18 R366 to R371,
spec/10 R200). -/

namespace Sys2Proof.Machine

/-! ### A rectangle as x0[13:0] of HARM holds it -/

def rectRow (r : BitVec 14) : Nat := bits r.toNat 0 3
def rectCol (r : BitVec 14) : Nat := bits r.toNat 3 3
def rectRows (r : BitVec 14) : Nat := bits r.toNat 6 4
def rectCols (r : BitVec 14) : Nat := bits r.toNat 10 4
/-- Is a tile in a rectangle? -/
def rectHas (r : BitVec 14) (t : Nat) : Bool := inRect t (rectRow r) (rectCol r) (rectRows r) (rectCols r)
/-- The last row and the last column. -/
def rectLastRow (r : BitVec 14) : Nat := rectRow r + rectRows r - 1
def rectLastCol (r : BitVec 14) : Nat := rectCol r + rectCols r - 1

/-- HedgeMisuse (spec/18 R367). -/
def hedgeMisuse (h reason : Nat) : Trip := ⟨11, 0, .ofNat 64 (h * 256 + reason)⟩

/-! ### Release and arrivals (spec/18 R369) -/

/-- Fill the waiters of a register's generation with a value; the others wait on. -/
def State.fillHedge (s : State) (t : Nat) (x : Hedge) (v : Nat) : State :=
  (x.waiters.filter (fun w => w.gen == x.gen)).foldl
    (fun s w => s.sendFrom t (.fill w.handle w.reg w.tag v (some 4) none)) s
/-- The waiters that a release leaves. -/
def Hedge.others (x : Hedge) : List HedgeWaiter := x.waiters.filter (fun w => w.gen != x.gen)

/-- A tile that originates or receives the release: RELGEN := GEN, STATE := Idle, its waiters are filled, and the release goes
on up the last column and west along the row. -/
def State.releaseHedge (s : State) (t h : Nat) (rect : BitVec 14) : State :=
  let x := s.hedge t h
  let s1 := (s.putHedge t h { x with relgen := x.gen, state := .idle, waiters := x.others, rowDone := false }).fillHedge t x x.gen
  let s2 := if t % 8 = rectLastCol rect && decide (rectRow rect < t / 8) then s1.sendFrom t (.hedgeRel (t - 8) h rect) else s1
  if rectCol rect < t % 8 then s2.sendFrom t (.hedgeRel (t - 1) h rect) else s2

/-- Steps 2 and 3 of spec/18 R369, once the row of a tile of the last column is done. -/
def State.hedgeColumn (s : State) (t h : Nat) : State :=
  let x := s.hedge t h
  if x.rowDone && (t / 8 == rectRow x.rect || x.col == some x.rect) then
    let x1 := { x with rowDone := false, col := (if t / 8 == rectRow x.rect then x.col else none) }
    let s1 := s.putHedge t h x1
    if t / 8 < rectLastRow x.rect then s1.sendFrom t (.hedgeCol (t + 8) h x.rect) else s1.releaseHedge t h x.rect
  else s

/-- Step 1: a complete tile that holds its row arrival sends one on, or its row is done. -/
def State.hedgeAdvance (s : State) (t h : Nat) : State :=
  let x := s.hedge t h
  if x.state == .armed && x.part == 0 && x.bytes == 0 && (t % 8 == rectCol x.rect || x.row == some x.rect) then
    let x1 := { x with state := .arrived, row := (if t % 8 == rectCol x.rect then x.row else none),
                       rowDone := t % 8 == rectLastCol x.rect }
    let s1 := s.putHedge t h x1
    if t % 8 < rectLastCol x.rect then s1.sendFrom t (.hedgeRow (t + 1) h x.rect) else s1.hedgeColumn t h
  else s.hedgeColumn t h

/-- A copy's write lowers BYTES while the register is Armed; at zero it stays (spec/18 R367, spec/10 R200). -/
def State.hedgeLower (s : State) (t h n : Nat) : State :=
  let x := s.hedge t h
  if x.state == .armed then (s.putHedge t h { x with bytes := x.bytes - n }).hedgeAdvance t h else s

/-! ### Loss and the end of a job (spec/18 R371) -/

/-- Every register of a tile whose rectangle holds a lost tile is released, its waiters filled with bit 63 and GEN. -/
def State.hedgeLoss (s : State) (t lost : Nat) : State :=
  (List.range 16).foldl (fun s h =>
    let x := s.hedge t h
    if x.state != .idle && rectHas x.rect lost then
      (s.putHedge t h { x with relgen := x.gen, state := .idle, waiters := x.others, rowDone := false }).fillHedge t x
        (2 ^ 63 + x.gen)
    else s) s
/-- The registers of a job that completed or is cancelled return to Idle without a release, and the messages held for them are
discarded. -/
def State.hedgeJobEnd (s : State) (job : Nat) : State :=
  { s with tiles := FMap.mapVals s.tiles (fun _ (tl : Tile) =>
      { tl with hedges := FMap.mapVals tl.hedges (fun _ (x : Hedge) =>
          if x.job == job then { x with state := HedgeState.idle, row := none, col := none, rowDone := false } else x) }) }

/-! ### The instructions -/

/-- The reason HARM is refused, if it is (spec/18 R367). -/
def State.harmRefused (s : State) (t : Strand) (x : Hedge) (rect : BitVec 14) (a b : Word) : Option Nat :=
  let tiles := rectTiles (rectRow rect) (rectCol rect) (rectRows rect) (rectCols rect)
  if x.state != .idle then some 1
  else if rectRows rect = 0 || rectCols rect = 0 || decide (8 < rectRow rect + rectRows rect)
      || decide (8 < rectCol rect + rectCols rect)
      || !tiles.all (fun n => s.inPlot t.job n && s.tileLive n) || !rectHas rect t.loc.tile then some 2
  else if 2 ^ 16 ≤ a.toNat || 2 ^ 40 ≤ b.toNat then some 3
  else none

/-- HARM (spec R367): arms hedge register h over the rectangle of x0. -/
def execHarm (h : BitVec 4) (a b : GSrc) (s : State) : Out :=
  s.plain (encode (.harm h a b)) 4 [gsrc a, gsrc b] (fun x =>
    let t := x.o.loc.tile
    let r := x.s.hedge t h.toNat
    let rect : BitVec 14 := (x.o.xv 0).truncate 14
    match x.s.harmRefused x.o r rect (x.o.gv a.reg) (x.o.gv b.reg) with
    | some n => x.trap (hedgeMisuse h.toNat n)
    | none =>
      let s1 := x.s.putHedge t h.toNat { r with gen := (r.gen + 1) % 65536, part := (x.o.gv a.reg).toNat,
                                                bytes := (x.o.gv b.reg).toNat, rect := rect, job := x.o.job, state := .armed }
      x.done (s1.hedgeAdvance t h.toNat) x.t)
/-- HARR (spec R368): waits for the strand's posted stores and updates homed in the rectangle, then arrives; d := GEN. -/
def execHarr (d : GReg) (h : BitVec 4) (s : State) : Out :=
  s.plain (encode (.harr d h)) 4 [] (fun x =>
    let t := x.o.loc.tile
    let r := x.s.hedge t h.toNat
    let w := Wait.rect r.rect
    if x.s0.waitOver { x.o with wait := w } then
      if r.state != .armed || r.part == 0 then x.trap (hedgeMisuse h.toNat 4)
      else
        x.done ((x.s.putHedge t h.toNat { r with part := r.part - 1 }).hedgeAdvance t h.toNat)
          (x.t.setG d (.ofNat 64 r.gen))
    else x.parkWait w)
/-- HWAIT (spec R370): d is filled at the release of a generation. -/
def execHwait (d : GReg) (a : GSrc) (h : BitVec 4) (s : State) : Out :=
  s.plain (encode (.hwait d a h)) 4 [gsrc a] (fun x =>
    let t := x.o.loc.tile
    let r := x.s.hedge t h.toNat
    let g := (x.o.gv a.reg).toNat % 65536
    let tag := x.s.fresh
    if (r.relgen + 65536 - g) % 65536 < 2 ^ 15 then
      (x.done x.s (x.t.await d.toNat tag)).send (.fill x.t.handle d.toNat tag g (some 4) none)
    else if g == r.gen && r.state != .idle then
      if 256 ≤ r.waiters.length then x.s0.park { x.o with wait := .hedge h.toNat g } 9 0
      else
        x.done (x.s.bump.putHedge t h.toNat { r with waiters := r.waiters ++ [⟨g, x.t.handle, d.toNat, tag⟩] })
          (x.t.await d.toNat tag)
    else x.trap (hedgeMisuse h.toNat 5))

/-! ### The messages -/

/-- HEDGE_BYTES (spec R200): a copy's write has been performed; the tile's byte count falls. -/
def execHedgeBytes (msg : Nat) (s : State) : Out :=
  .next <| match s.msg? msg with
  | some (.hedgeBytes t h n) => if s.tileUp t then (s.unsend msg).hedgeLower t h n else s.unsend msg
  | _ => s
/-- HEDGE_ROW_ARRIVAL (spec R369): the arrival is held, one for each register, and the tile goes on if it can. -/
def execHedgeRowArrival (msg : Nat) (s : State) : Out :=
  .next <| match s.msg? msg with
  | some (.hedgeRow t h rect) =>
    let x := s.hedge t h
    let s1 := s.unsend msg
    if x.row.isSome || !s.tileUp t then s1 else (s1.putHedge t h { x with row := some rect }).hedgeAdvance t h
  | _ => s
/-- HEDGE_COLUMN_ARRIVAL (spec R369): the same for a column arrival. -/
def execHedgeColumnArrival (msg : Nat) (s : State) : Out :=
  .next <| match s.msg? msg with
  | some (.hedgeCol t h rect) =>
    let x := s.hedge t h
    let s1 := s.unsend msg
    if x.col.isSome || !s.tileUp t then s1 else (s1.putHedge t h { x with col := some rect }).hedgeAdvance t h
  | _ => s
/-- HEDGE_RELEASE (spec R369): the tile releases its register and passes the release on. -/
def execHedgeRelease (msg : Nat) (s : State) : Out :=
  .next <| match s.msg? msg with
  | some (.hedgeRel t h rect) => if s.tileUp t then (s.unsend msg).releaseHedge t h rect else s.unsend msg
  | _ => s

end Sys2Proof.Machine
end

