-- ==== Sys2Proof/Machine/Tasks.lean ====
section
/-! DEFINITION. Tasks: records and their checks (spec/10 R182 to R185), accesses of a task, the task ring (R204), retirement and
faults (R203, spec/11 R212), engine holds (R187), posts and their acceptance (R181, R186, spec/18 R363), TASKW (spec/18 R364) and
the end of a task (R186, R188). -/

namespace Sys2Proof.Machine

/-! ### Records (spec/10 R182 to R184) -/

def recTag (r : Nat) : Nat := bits r 228 12
def recNsucc (r : Nat) : Nat := bits r 225 3
/-- The tags of the successors, in order. -/
def recSuccs (r : Nat) : List Nat := (List.range (recNsucc r)).map (fun i => bits r (176 + 12 * i) 12)
def recCw (r : Nat) : Nat := bits r 123 53 * 8
def recHen (r : Nat) : Bool := bits r 122 1 == 1
def recHreg (r : Nat) : Nat := bits r 118 4
/-- A field of the body. -/
def recBody (r lo len : Nat) : Nat := bits r (256 + lo) len

def recEng (r : Nat) : Nat := recBody r 648 2
def recBank (r : Nat) : Nat := recBody r 652 1
def recFmtA (r : Nat) : Nat := recBody r 661 3
def recFmtB (r : Nat) : Nat := recBody r 658 3
def recKlen (r : Nat) : Nat := recBody r 664 16
def recBse (r : Nat) : Bool := recBody r 654 1 == 1
def recSpa (r : Nat) : Bool := recBody r 653 1 == 1
def recDrain (r : Nat) : Bool := recBody r 650 1 == 1
/-- The format code of spec/12 R231 of a matrix operand's format. -/
def matFmt (f : Nat) : Nat :=
  match f with
  | 0 => 3 | 1 => 4 | 2 => 5 | 3 => 8 | 4 => 1 | _ => 2
/-- The format code of a drain's format. -/
def drainFmt (f : Nat) : Nat :=
  match f with
  | 0 => 0 | 1 => 1 | 2 => 2 | 3 => 3 | 4 => 4 | _ => 10
/-- Is the accumulator of a matrix record FE96 (spec/10 R189)? -/
def recFe (r : Nat) : Bool :=
  recFmtA r == 1 || recFmtB r == 1 || decide (4 ≤ recFmtA r) || decide (4 ≤ recFmtB r)

def cpSfmt (r : Nat) : Nat := recBody r 396 4
def cpDfmt (r : Nat) : Nat := recBody r 392 4
def cpKind (r : Nat) : Nat := recBody r 388 2
def cpEng (r : Nat) : Nat := recBody r 386 2
def cpScgen (r : Nat) : Bool := recBody r 385 1 == 1
def cpMen (r : Nat) : Bool := recBody r 327 1 == 1
/-- N0 to N3. -/
def cpN (r i : Nat) : Nat := recBody r (640 - 16 * i) 16
/-- The tiles of the multicast rectangle. -/
def cpRect (r : Nat) : List Nat := rectTiles (recBody r 324 3) (recBody r 321 3) (recBody r 317 4) (recBody r 313 4)
/-- The tiles a copy writes channels or scale memory of: its rectangle, or the posting tile (spec/10 R199). -/
def cpTiles (r t : Nat) : List Nat := if cpMen r then cpRect r else [t]
/-- Nibbles of an element: E2M1 takes one. -/
def cpNibbles (r fmt : Nat) : Nat :=
  match fmt with
  | 0 => 2 * 2 ^ recBody r 390 2 | 1 => 8 | 2 => 4 | 3 => 4 | 6 => 1 | _ => 2

/-- The header's checks (spec/10 R185). -/
def headerOk (r kind : Nat) : Bool :=
  bits r 224 1 == 0 && bits r 0 118 == 0 && bits r 248 8 == kind && decide (recNsucc r ≤ 4)
  && bits r (176 + 12 * recNsucc r) (12 * (4 - recNsucc r)) == 0 && !(recSuccs r).contains (recTag r)
/-- The checks of a matrix record. -/
def matrixOk (r : Nat) : Bool :=
  let size := fmtWidth (drainFmt (recBody r 655 3)) / 8
  let wide := fun f => decide (4 ≤ f)
  recBody r 64 548 == 0 && decide (recFmtA r < 6) && decide (recFmtB r < 6) && decide (recBody r 655 3 < 6)
  && wide (recFmtA r) == wide (recFmtB r) && recKlen r != 0
  && recBody r 680 32 % size == 0 && decide (256 * size ≤ recBody r 680 32)
  && (recBody r 655 3 != 5 || (recFmtA r == 3 && recFmtB r == 3 && !recBse r))
  && (!recBse r || (decide (recBody r 630 18 + 256 * recKlen r ≤ 262144) && decide (recBody r 612 18 + 256 * recKlen r ≤ 262144)))
  && !recHen r
/-- The checks of a copy record of a job. DESIGN CHOICE (log 37): MEN with MROWS or MCOLS of 0, outside the 1 to 8 of spec/10 R184, fails them,
though R185 lists no check of it. -/
def State.copyOk (s : State) (job r : Nat) : Bool :=
  let sf := cpSfmt r
  let df := cpDfmt r
  recBody r 384 1 == 0 && recBody r 0 313 == 0 && decide (sf < 8) && decide (df < 8)
  && (List.range 4).all (fun i => cpN r i != 0) && (sf == 0) == (df == 0)
  && !((sf == 6 || df == 6) && cpN r 0 % 2 == 1) && !(cpKind r == 3 && decide (0x3FFFF < recBody r 656 56))
  && (!cpScgen r || ((df == 4 || df == 6) && decide (1 ≤ sf) && decide (sf ≤ 3) && cpN r 0 % 32 == 0))
  && (!cpMen r || (recBody r 317 4 != 0 && recBody r 313 4 != 0 && decide (recBody r 324 3 + recBody r 317 4 ≤ 8)
      && decide (recBody r 321 3 + recBody r 313 4 ≤ 8) && (cpRect r).all (fun t => s.inPlot job t)))
/-- Does a record pass R185? -/
def State.recordOk (s : State) (job : Nat) (isCopy : Bool) (r : Nat) : Bool :=
  if isCopy then headerOk r 2 && s.copyOk job r else headerOk r 1 && matrixOk r

/-! ### Accesses of a task -/

/-- What an access of a task answers: a value, or a fault code of spec/10 R203; 64 more says that a host aperture or a peer refused
it. -/
inductive TaskRes where
  | ok (v : Nat)
  | fault (code : Nat)
deriving DecidableEq, Repr

/-- The fault code of a trap's cause met at a home. -/
def faultCode (cause g4 : Nat) : Nat :=
  match cause with
  | 6 => 2 | 7 => 3 | 8 => 4 | _ => if g4 = 13 then 12 else 5

/-- The bed table a task's accesses use on its tile. -/
def State.taskTable (s : State) (t : Nat) (asid : BitVec 12) : Option BedTable := s.tableKnown t asid

/-- Read for a task: the checks of spec/07 R122 and R124, then the home (spec/10 R196). quiet: the cache has seen the line in this burst. -/
def State.taskRead (s : State) (t : Nat) (tab : BedTable) (asid : BitVec 12) (va : Word) (len align tseq : Nat) (quiet : Bool) :
    State × TaskRes :=
  match tab.check .copyRead va align with
  | .inl _ => (s, .fault 3)
  | .inr h =>
    match s.targetBed h (tab.spills h.index) t va with
    | .column key bed hoff kind spill =>
      if !s.tileUp (key / 16) then (s, .fault 12)
      else
        (match s.homeRead key bed hoff kind spill asid len 0 ⟨none, 0, tseq, quiet⟩ with
         | (s1, .ok v _) => (s1, .ok v)
         | (s1, .trip c g4) => (s1, .fault (faultCode c g4)))
    | .host die aper bus => if s.aperServes die aper bus len false then (s, .ok (s.hostMem.read bus len)) else (s, .fault 69)
    | .peer die index ra rv =>
      (match s.askPeer die index ra rv len [] with
       | (s1, true) => (s1, .ok ((Config.freeWide s.fresh).toNat % 2 ^ (8 * len)))
       | (s1, false) => (s1, .fault 69))

/-- Write bytes of a task at a target: the state, a fault code if it failed, and the tile written. -/
def State.taskPut (s : State) (g : Target) (asid : BitVec 12) (job : Nat) (data : List Byte) (tseq : Nat) (quiet : Bool) :
    State × Option Nat × Option Nat :=
  match g with
  | .column key bed hoff kind spill =>
    if !s.tileUp (key / 16) then (s, some 12, none)
    else
      (match s.homeWrite key bed hoff kind spill asid data ⟨none, 0, tseq, quiet⟩ with
       | (s1, .ok _ _) => (s1, none, some (key / 16))
       | (s1, .trip c g4) => (s1, some (faultCode c g4), none))
  | .host die aper bus =>
    if s.aperServes die aper bus data.length true then
      (({ s with hostMem := s.hostMem.putBytes bus data }).notePort job (s.aperHostPort die aper), none, none)
    else (s.raiseFrom die 0x30 0 bus, some 69, none)
  | .peer die index ra rv =>
    (match s.askPeer die index ra rv data.length data with
     | (s1, true) => (s1, none, none)
     | (s1, false) => (s1, some 69, none))

/-- Write for a task after the checks of spec/07 R122 and R124. -/
def State.taskWrite (s : State) (t : Nat) (tab : BedTable) (asid : BitVec 12) (job : Nat) (va : Word) (data : List Byte)
    (align tseq : Nat) : State × Option Nat × Option Nat :=
  match tab.check .copyWrite va align with
  | .inl _ => (s, some 3, none)
  | .inr h => s.taskPut (s.targetBed h (tab.spills h.index) t va) asid job data tseq false
/-- What a write meets as it is issued: a fault code, or nothing; the cache sees the line where it is the first write of a burst to it
(spec/07 R122, R125, R135, spec/10 R196). -/
def State.taskLand (s : State) (g : Target) (asid : BitVec 12) (len tseq : Nat) (quiet : Bool) : State × Option Nat :=
  match g with
  | .column key bed hoff kind _ =>
    if !s.tileUp (key / 16) then (s, some 12)
    else if kind == .scratch then (s, if (s.quad (quadOfCol key)).scrw * 2 ^ 20 ≤ hoff then some 4 else none)
    else
      (match s.translateFor key asid (cvaOf bed hoff) 1 0 tseq with
       | (s1, .trip c g4) => (s1, some (faultCode c g4))
       | (s1, .ok off) => (if quiet then s1 else s1.viaBus key off len true, none))
  | .host die aper bus => if s.aperServes die aper bus len true then (s, none) else (s.raiseFrom die 0x30 0 bus, some 69)
  | .peer die index _ _ => (s, if s.peerMask die index = 0 then some 69 else none)
/-- Does the read of a task wait at the port? -/
def State.taskWaits (s : State) (t : Nat) (tab : BedTable) (a : Access) (asid : BitVec 12) (va : Word) (len acc : Nat) : Bool :=
  match tab.check a va 1 with
  | .inl _ => false
  | .inr h => s.waitsFor (s.targetBed h (tab.spills h.index) t va) asid len acc

/-! ### The ring, holds and retirement (spec/10 R187, R203, R204) -/

def State.task? (s : State) (t tseq : Nat) : Option Task := FMap.get? (s.tile t).tasks tseq
def State.putTask (s : State) (t : Nat) (x : Task) : State :=
  let tl := s.tile t
  s.putTile t { tl with tasks := FMap.set tl.tasks x.tseq x }
/-- Update a task's ring entry. -/
def State.ringSet (s : State) (t tseq : Nat) (f : RingEntry → RingEntry) : State :=
  let tl := s.tile t
  match FMap.get? tl.ring (tseq % 256) with
  | some e => if e.tseq = tseq then s.putTile t { tl with ring := FMap.set tl.ring (tseq % 256) (f e) } else s
  | none => s
/-- A task changes state, in the area and in the ring. -/
def State.setTask (s : State) (t : Nat) (x : Task) (st : TaskState) : State :=
  (s.putTask t { x with state := st }).ringSet t x.tseq (fun e => { e with state := st, eng := x.eng })
/-- A task becomes Ready, behind those that are Ready. -/
def State.readyTask (s : State) (t : Nat) (x : Task) : State :=
  let tl := s.tile t
  (s.putTile t { tl with readyCount := tl.readyCount + 1 }).setTask t { x with readyAt := tl.readyCount } .ready

/-- The tasks of a tile. -/
def State.tasksOf (s : State) (t : Nat) : List Task := (s.tile t).tasks.map (·.2)
/-- Every task with its tile. -/
def State.allTasks (s : State) : List (Nat × Task) := (s.tiles.map (fun kv => kv.2.tasks.map (fun x => (kv.1, x.2)))).flatten
/-- The engines whose channels or scale memory a copy fills. -/
def cpEngines (r t : Nat) : List Nat := if cpKind r = 0 then [] else (cpTiles r t).map (fun n => quadKey n (cpEng r))
/-- Does a job still need the engine it holds: a Ready or running matrix task of it, or a running copy into it? -/
def State.needsEngine (s : State) (key job : Nat) : Bool :=
  s.allTasks.any (fun p => p.2.job == job && !p.2.finished &&
    (if p.2.isCopy then p.2.state == .running && (cpEngines p.2.record p.1).contains key
     else (p.2.state == .ready || p.2.state == .running) && quadKey p.1 (recEng p.2.record) == key))
/-- Holds whose channels are empty and whose jobs need them no longer end (spec/10 R187). -/
def State.refreshHolds (s : State) : State :=
  { s with engines := FMap.mapVals s.engines (fun k (e : Engine) =>
      match e.hold with
      | some j => if e.chA.isEmpty && e.chB.isEmpty && !s.needsEngine k j then { e with hold := none } else e
      | none => e) }

/-- The value that a TASKW of a retired task receives (spec/18 R364). -/
def taskwValue (x : Task) (st : TaskState) (code : Nat) : Nat :=
  match st with
  | .done => x.tseq * 2 ^ 32 + x.tag * 2 ^ 16 + (if x.ovf then 512 else 0) + (if x.nan then 256 else 0)
  | .faulted => x.tag * 2 ^ 16 + code
  | _ => x.tag * 2 ^ 16
/-- A task leaves the task area: its ring entry, its waiters and the engine holds follow. -/
def State.retire (s : State) (t : Nat) (x : Task) (st : TaskState) (code : Nat) (faddr : Word) : State :=
  let s1 := s.ringSet t x.tseq (fun e => { e with state := st, eng := x.eng, fcode := code, faddr := faddr.truncate 56 })
  let tl := s1.tile t
  let s2 := s1.putTile t { tl with tasks := FMap.erase tl.tasks x.tseq, taskWaiters := tl.taskWaiters.filter (fun w => w.tseq != x.tseq) }
  let s3 := (tl.taskWaiters.filter (fun w => w.tseq == x.tseq)).foldl
    (fun s w => s.sendFrom t (.fill w.handle w.reg w.tag (taskwValue x st code) (some 4) none)) s2
  s3.refreshHolds

/-- The copy and matrix engines that run a task are free of it. -/
def State.leaveEngines (s : State) (t : Nat) (x : Task) : State :=
  if x.isCopy then
    let key := colKey t x.eng
    let c := s.col key
    if c.copy = some x.tseq then s.putCol key { c with copy := none } else s
  else
    let key := quadKey t (recEng x.record)
    let e := s.engine key
    s.putEngine key { e with
      run := (if e.run = some x.tseq then none else e.run)
      cur := (if e.run = some x.tseq then none else e.cur)
      drain := (if e.drain = some x.tseq then none else e.drain) }

/-- A task faults: its post is done with failure, its fault is recorded and reported in a column (spec/10 R203, spec/11 R212).
A refusal by a host aperture or a peer records status 5 as code 12 does (spec/05 R85). -/
def State.faultTask (s : State) (t : Nat) (x : Task) (c : Nat) (faddr : Word) (col : Nat) : State :=
  let code := c % 64
  let s1 := ((s.leaveEngines t x).retire t x .faulted code faddr).itemFailed x.item (code == 12 || decide (64 ≤ c))
  (s1.rejoin x.poster).reportFault t
    ⟨col * 48, x.tseq, if x.isCopy then 2 else 1, code, faddr.truncate 56, x.raddr, x.poster, x.job, x.flat⟩
/-- A task faults at the engine that runs it; both copies of a combined one fault, but for one whose completion word is written (spec/10 R199). -/
def State.faultRunning (s : State) (t : Nat) (x : Task) (code : Nat) (faddr : Word) : State :=
  let col := if x.isCopy then x.eng else 4 * recEng x.record
  let s1 := s.faultTask t x code faddr col
  ((s1.tasksOf t).filter (fun y => (y.partner == some x.tseq || x.partner == some y.tseq) && y.fin == 0)).foldl
    (fun s y => s.faultTask t y code faddr col) s1

/-- A task ends cancelled: no word, no successor, its post done. -/
def State.cancelTask (s : State) (t : Nat) (x : Task) : State :=
  ((s.leaveEngines t x).retire t x .cancelled 0 0).settle x.item true
/-- Has a job been cancelled, or is it gone? -/
def State.jobCancelled (s : State) (job : Nat) : Bool :=
  match s.job? job with
  | some j => j.cancelCause != 0
  | none => true

/-- The tasks of a cancelled job end, but for a matrix task within a step, which ends with it, and a copy with writes issued, which ends when
they are performed (spec/10 R203); its placeholders are freed. -/
def State.cancelTasks (s : State) (job : Nat) : State :=
  let inStep := fun (s : State) (p : Nat × Task) =>
    if p.2.isCopy then !p.2.writes.isEmpty else (let e := s.engine (quadKey p.1 (recEng p.2.record)); e.run == some p.2.tseq && e.cur.isSome)
  let s1 := (s.allTasks.filter (fun p => p.2.job == job)).foldl (fun s p =>
    if inStep s p then s.putTask p.1 { p.2 with stopping := true } else s.cancelTask p.1 p.2) s
  { s1 with tiles := FMap.mapVals s1.tiles (fun _ (tl : Tile) =>
      { tl with holders := tl.holders.filter (fun kv => kv.1 / 4096 != job) }) }

/-! ### Posts (spec/10 R181, R186, spec/18 R363) -/

/-- The next task sequence number (spec/10 R181). -/
def nextTseq (n : Nat) : Nat := if n = 0xFFFFFFFE then 1 else n + 1
/-- Entries of a tile's task area in use. -/
def Tile.areaUsed (tl : Tile) : Nat := tl.tasks.length + tl.holders.length
/-- A record with the scales of MTASK in place of SCA and SCB. -/
def withScales (r : Nat) (scales : Word) : Nat := r - bits r 256 64 * 2 ^ 256 + scales.toNat * 2 ^ 256

/-- Is a task of a job and tag not yet retired on a tile? -/
def State.tagTask (s : State) (t job tag : Nat) : Option Task := (s.tasksOf t).find? (fun x => x.job == job && x.tag == tag)

/-- A post is accepted with its record as read, or with the fault that its read met. -/
def State.acceptTask (s : State) (t : Nat) (isCopy : Bool) (h : BitVec 64) (reg tag job flat col : Nat) (asid : BitVec 12)
    (va scales : Word) (item : Nat) (res : TaskRes) : State :=
  let tl := s.tile t
  let n := tl.tseq
  let r := match res with | .ok v => if isCopy then v else withScales v scales | .fault _ => 0
  let tg := recTag r
  let x : Task := { tseq := n, job := job, tag := tg, isCopy := isCopy, record := r, raddr := va.truncate 56, poster := h,
                    flat := flat, postCol := col, asid := asid, count := 0, state := .waiting, readyAt := 0,
                    held := s.jobSuspended job, eng := 0, done := 0, nan := false, ovf := false, item := item,
                    finished := false, partner := none, stopping := false, scales := [], fin := 0, writes := [], ahead := [], got := none, lastRd := none,
                    lastWr := none, scaled := false, due := none }
  let e : RingEntry := ⟨n, h, x.raddr, tg, .waiting, 0, 0, if isCopy then 2 else 1, 0⟩
  let s1 := (s.putTile t { tl with tseq := nextTseq n, ring := FMap.set tl.ring (n % 256) e }).sendFrom t
    (.fill h reg tag n none none)
  match res with
  | .fault c => s1.faultTask t x c va col
  | .ok _ =>
    if !s.recordOk job isCopy r then s1.faultTask t x 1 0 col
    else if (s.tagTask t job tg).isSome then s1.faultTask t x 10 0 col
    else
      let b := FMap.getD tl.holders (job * 4096 + tg) 0
      let c : Int := (bits r 240 8 : Int) - b
      let tl1 := s1.tile t
      let s2 := s1.putTile t { tl1 with holders := FMap.erase tl1.holders (job * 4096 + tg) }
      if c ≤ 0 then s2.readyTask t { x with count := c } else s2.setTask t { x with count := c } .waiting

/-- A record's 128 bytes with the locations that were read before the others in their places: each location takes its own event, and no
order holds among them (spec/08 R138). -/
def recordRead (v : Nat) (ahead : FMap Nat) : Nat :=
  ahead.foldl (fun a e => a - bits a (64 * e.1) 64 * 2 ^ (64 * e.1) + e.2 * 2 ^ (64 * e.1)) v
/-- One location of a post's record is read on its own; what it meets is reported as the record is read to its end. -/
def State.recordAhead (s : State) (t : Nat) (tab : BedTable) (asid : BitVec 12) (va : Word) (ahead : FMap Nat) : State × FMap Nat :=
  let n := (Config.freeWord s.fresh).toNat % 16
  let s0 := s.bump
  let a := va + .ofNat 64 (8 * n)
  if s0.taskWaits t tab .copyRead asid a 8 0 || (FMap.get? ahead n).isSome then (s0, ahead)
  else
    match s0.taskRead t tab asid a 8 8 (s0.tile t).tseq false with
    | (s1, .ok v) => (s1, FMap.set ahead n v)
    | (_, .fault _) => (s0, ahead)

/-- TASK_POST_ARRIVAL (spec R181): the scheduler reads the record and accepts the post, or refuses it for want of an entry. -/
def execTaskPostArrival (msg : Nat) (s : State) : Out :=
  .next <| match s.msg? msg with
  | some (.taskPost t isCopy h reg tag job flat col asid va scales item false ahead) =>
    if !s.tileUp t then s
    else if s.jobCancelled job then (s.unsend msg).settle item true
    else
      (match s.taskTable t asid with
       | none => s.wantTable t 0 job
       | some tab =>
         if s.taskWaits t tab .copyRead asid va 128 0 then s
         else
         let r := s.taskRead t tab asid va 128 128 (s.tile t).tseq false
         let res : TaskRes := match r.2 with | .ok v => .ok (recordRead v ahead) | .fault c => .fault c
         let tg := match res with | .ok v => recTag v | .fault _ => 0
         let holder := (match r.2 with | .ok _ => true | .fault _ => false) &&
           (FMap.get? (s.tile t).holders (job * 4096 + tg)).isSome
         if holder || decide ((s.tile t).areaUsed < 4096) then
           (r.1.unsend msg).acceptTask t isCopy h reg tag job flat col asid va scales item res
         else
           { s with msgs := FMap.set s.msgs msg (.taskPost t isCopy h reg tag job flat col asid va scales item true []) })
  | _ => s
/-- TASK_POST_RETRY (spec R181): a refused post is sent again; of a post that no one has refused, one location of its record is read
before the rest (spec/08 R138). -/
def execTaskPostRetry (msg : Nat) (s : State) : Out :=
  .next <| match s.msg? msg with
  | some (.taskPost t isCopy h reg tag job flat col asid va scales item true _) =>
    s.recross msg (.taskPost t isCopy h reg tag job flat col asid va scales item false [])
  | some (.taskPost t isCopy h reg tag job flat col asid va scales item false ahead) =>
    if !s.tileUp t || s.jobCancelled job || va.toNat % 128 ≠ 0 then s
    else
      (match s.taskTable t asid with
       | none => s
       | some tab =>
         let r := s.recordAhead t tab asid va ahead
         { r.1 with msgs := FMap.set r.1.msgs msg (.taskPost t isCopy h reg tag job flat col asid va scales item false r.2) })
  | _ => s

/-- What a TASKW of a task that the area does not hold receives (spec/18 R364). -/
def Tile.taskwNow (tl : Tile) (n : Nat) : Nat :=
  match FMap.get? tl.ring (n % 256) with
  | some e =>
    if e.tseq ≠ n then 2 ^ 64 - 1
    else
      (match e.state with
       | .done => n * 2 ^ 32 + e.tag * 2 ^ 16
       | .faulted => e.tag * 2 ^ 16 + e.fcode
       | .cancelled => e.tag * 2 ^ 16
       | _ => 2 ^ 64 - 1)
  | none => 2 ^ 64 - 1
/-- TASKW_REQUEST (spec R364): filled at once, or at the task's retirement. -/
def execTaskwRequest (msg : Nat) (s : State) : Out :=
  .next <| match s.msg? msg with
  | some (.taskw t h reg tag n) =>
    let tl := s.tile t
    let s1 := s.unsend msg
    if (FMap.get? tl.tasks n).isSome then s1.putTile t { tl with taskWaiters := tl.taskWaiters ++ [⟨n, h, reg, tag⟩] }
    else s1.sendFrom t (.fill h reg tag (tl.taskwNow n) (some 4) none)
  | _ => s

/-! ### The end of a task (spec/10 R186, R188) -/

/-- The completion word. -/
def completionWord (x : Task) : Nat :=
  x.tseq * 2 ^ 32 + x.tag * 2 ^ 16 + (if x.ovf then 512 else 0) + (if x.nan then 256 else 0)

/-- Decrement one successor: none where a placeholder is needed and no entry is free. -/
def State.decrement (s : State) (t job tag : Nat) : Option State :=
  match s.tagTask t job tag with
  | some y =>
    let c := y.count - 1
    if y.state == .waiting && decide (c ≤ 0) then some (s.readyTask t { y with count := c })
    else some (s.putTask t { y with count := c })
  | none =>
    let tl := s.tile t
    let k := job * 4096 + tag
    match FMap.get? tl.holders k with
    | some b => some (s.putTile t { tl with holders := FMap.set tl.holders k (b + 1) })
    | none => if tl.areaUsed < 4096 then some (s.putTile t { tl with holders := FMap.set tl.holders k 1 }) else none

/-- Decrement the successors that are left, then retire. -/
def State.finishTask (s : State) (t : Nat) (x : Task) : List Nat → State
  | [] =>
    let s1 := s.retire t x .done 0 0
    if recCw x.record = 0 then s1.settle x.item true else s1
  | tag :: rest =>
    match s.decrement t x.job tag with
    | some s1 => s1.finishTask t { x with fin := x.fin + 1 } rest
    | none => s.putTask t x

end Sys2Proof.Machine
end

