-- ==== Sys2Proof/Machine/Engines.lean ====
section
/-! DEFINITION. Engines: the issue of Ready tasks (spec/10 R187, R192, R199), copies (R196 to R200), matrix steps and their
arithmetic (R189 to R193, R195, spec/12 R245, R246), drains (R194, spec/12 R247) and the channel timeouts (R190). -/

namespace Sys2Proof.Machine

/-! ### Issue (spec/10 R187) -/

/-- Did one task become Ready before another? -/
def Task.before (x y : Task) : Bool := decide (x.readyAt < y.readyAt) || (x.readyAt == y.readyAt && decide (x.tseq < y.tseq))
/-- The engines a task names that a hold can keep from it. -/
def Task.engines (x : Task) (t : Nat) : List Nat :=
  if x.isCopy then cpEngines x.record t else [quadKey t (recEng x.record)]
/-- Does another job hold an engine that a task names? -/
def State.heldFrom (s : State) (t : Nat) (x : Task) : Bool :=
  (x.engines t).any (fun k => match (s.engine k).hold with | some j => j != x.job | none => false)
/-- The channels a copy fills: by engine, A or B. -/
def cpChannels (r t : Nat) : List Nat :=
  if cpKind r = 1 || cpKind r = 2 then (cpTiles r t).map (fun n => quadKey n (cpEng r) * 2 + (cpKind r - 1)) else []
/-- Do two lists share a member? -/
def meet (a b : List Nat) : Bool := a.any (fun x => b.contains x)
/-- Is a channel that a copy fills taken: by a running copy, or by one that became Ready here before it and is not kept waiting
by a hold (spec/10 R190)? The copy with which it would be combined does not count. -/
def State.channelTaken (s : State) (t : Nat) (x : Task) (but : Option Nat) : Bool :=
  s.allTasks.any (fun p => p.2.isCopy && !(p.1 == t && (some p.2.tseq == but || (p.2.partner.isSome && p.2.partner == but))) && meet (cpChannels p.2.record p.1) (cpChannels x.record t) &&
    ((p.2.state == .running && !p.2.finished)
      || (p.1 == t && p.2.state == .ready && !p.2.held && !s.heldFrom t p.2 && p.2.before x)))
/-- May a Ready copy issue when its turn comes? -/
def State.copyFree (s : State) (t : Nat) (x : Task) : Bool := !x.held && !s.heldFrom t x && !s.channelTaken t x none
/-- The lowest-numbered free copy engine of a tile. -/
def State.freeCopyEngine (s : State) (t : Nat) : Option Nat :=
  (List.range 16).find? (fun c => (s.col (colKey t c)).copy.isNone)
/-- Is a bank of an engine being drained, or owed a drain? -/
def State.bankDrained (s : State) (t : Nat) (e : Engine) (bank : Nat) : Bool :=
  match e.drain with
  | some n => (match s.task? t n with | some y => recBank y.record == bank | none => false)
  | none => false
/-- May a Ready matrix task issue: its engine has finished its previous task's steps, its bank is not being drained, and no task
of that engine became Ready before it, held ones apart? -/
def State.matrixFree (s : State) (t : Nat) (x : Task) : Bool :=
  let e := s.engine (quadKey t (recEng x.record))
  !x.held && !s.heldFrom t x && e.run.isNone && !s.bankDrained t e (recBank x.record)
  && !(s.tasksOf t).any (fun y => !y.isCopy && y.state == .ready && recEng y.record == recEng x.record && !y.held
        && !s.heldFrom t y && y.before x)

/-- Two copies may be combined (spec/10 R199): their bodies are equal but for the multicast fields. -/
def sameBody (a b : Nat) : Bool := recBody a 328 440 == recBody b 328 440 && recBody a 0 313 == recBody b 0 313
/-- The running copy with which a Ready copy is combined, where it became Ready within 256 base cycles of it, which is open here
(log 2). Two at most are combined, neither past its first burst, and one whose engines or channels are not free to it is not. -/
def State.partnerOf (s : State) (t : Nat) (x : Task) : Option Task :=
  if (Config.freeWord s.fresh).toNat % 2 = 0 || s.heldFrom t x || x.done != 0 || (s.tasksOf t).any (fun z => z.partner == some x.tseq) then none
  else
    (s.tasksOf t).find? (fun y => y.isCopy && y.state == .running && y.done == 0 && y.writes.isEmpty && !y.finished && y.partner.isNone
      && !(s.tasksOf t).any (fun z => z.partner == some y.tseq) && !s.channelTaken t x (some y.tseq)
      && !y.stopping && y.job == x.job && y.asid == x.asid && sameBody y.record x.record)

/-- The first copy of a job into an engine makes the job hold it. -/
def State.takeHold (s : State) (job : Nat) (ks : List Nat) : State :=
  ks.foldl (fun s k => s.putEngine k { s.engine k with hold := some job }) s

/-- A bank of an engine. -/
def Engine.bank (e : Engine) (b : Nat) : Bank := if b = 0 then e.bank0 else e.bank1
def Engine.setBank (e : Engine) (b : Nat) (x : Bank) : Engine := if b = 0 then { e with bank0 := x } else { e with bank1 := x }

/-- A matrix task issues: ZERO clears its bank; a bank of the other kind faults it with code 9 (spec/10 R192). -/
def State.issueMatrix (s : State) (t : Nat) (x : Task) : State :=
  let k := quadKey t (recEng x.record)
  let e := s.engine k
  let b := recBank x.record
  let fe := recFe x.record
  if x.done = 0 && recBody x.record 651 1 = 0 && (e.bank b).fe != fe then
    (s.setTask t x .running).faultRunning t { x with eng := recEng x.record } 9 0
  else
    let e1 := if x.done = 0 && recBody x.record 651 1 = 1 then e.setBank b ⟨fe, [], false⟩ else e
    (s.putEngine k { e1 with run := some x.tseq, step := x.done, cur := none }).setTask t
      { x with eng := recEng x.record, stopping := false } .running

/-- TASK_ISSUE (spec R187): a Ready task whose turn it is issues to its engine. -/
def execTaskIssue (tile tseq : Nat) (s : State) : Out :=
  .next <| match s.task? tile tseq with
  | none => s
  | some x =>
    if x.state != .ready || !s.tileUp tile then s
    else if !x.isCopy then (if s.matrixFree tile x then s.issueMatrix tile x else s)
    else if x.held || x.partner.isSome then s
    else
      match s.partnerOf tile x with
      | some y => (s.bump.takeHold x.job (cpEngines x.record tile)).setTask tile { x with eng := y.eng, partner := some y.tseq } .running
      | none =>
        if !s.copyFree tile x
          || (s.tasksOf tile).any (fun y => y.isCopy && y.state == .ready && y.partner.isNone && y.before x && s.copyFree tile y)
        then s
        else
          match s.freeCopyEngine tile with
          | none => s
          | some c =>
            let key := colKey tile c
            let s1 := (s.bump.takeHold x.job (cpEngines x.record tile)).putCol key { s.col key with copy := some tseq }
            let s2 := s1.setTask tile { x with eng := c, stopping := false } .running
            -- the copies combined with it before a suspension run again with it
            ((s2.tasksOf tile).filter (fun y => y.partner == some tseq && y.state == .ready)).foldl
              (fun s y => s.setTask tile { y with eng := c, stopping := false } .running) s2

/-! ### Copies (spec/10 R196 to R200) -/

/-- Elements a copy handles at a time: a block of generated scales, the two elements of a byte, or one. -/
def cpUnit (r : Nat) : Nat := if cpScgen r then 32 else if cpSfmt r = 6 || cpDfmt r = 6 then 2 else 1
/-- Units of the whole copy. -/
def cpTotal (r : Nat) : Nat := cpN r 0 / cpUnit r * cpN r 1 * cpN r 2 * cpN r 3
/-- Destination bytes of a unit. -/
def cpUnitBytes (r : Nat) : Nat := cpUnit r * cpNibbles r (cpDfmt r) / 2
/-- The four loop indices of the first element of unit u. -/
def cpIndex (r u : Nat) : Nat × Nat × Nat × Nat :=
  let n0 := cpN r 0 / cpUnit r
  (u % n0 * cpUnit r, u / n0 % cpN r 1, u / n0 / cpN r 1 % cpN r 2, u / n0 / cpN r 1 / cpN r 2)
/-- The address of the element at the loop indices, in 64 bits: strides are signed. -/
def cpAddr (r base lo fmt : Nat) (ix : Nat × Nat × Nat × Nat) : Word :=
  let st := fun i => sextW (recBody r (lo - 32 * i) 32) 32
  .ofNat 64 base + .ofNat 64 ix.2.2.2 * st 2 + .ofNat 64 ix.2.2.1 * st 1 + .ofNat 64 ix.2.1 * st 0
    + .ofNat 64 (ix.1 * cpNibbles r fmt / 2)
def cpSrc (r : Nat) (ix : Nat × Nat × Nat × Nat) : Word := cpAddr r (recBody r 712 56) 560 (cpSfmt r) ix
def cpDst (r : Nat) (ix : Nat × Nat × Nat × Nat) : Word := cpAddr r (recBody r 656 56) 464 (cpDfmt r) ix

/-- One source element, the i-th of the copy. A location is read once for the elements of it that follow one another (spec/08 R138), and the
cache sees a line once for those (spec/23 R407); one that has been read ahead of its turn is not read again. -/
def State.cpGet (s : State) (t : Nat) (tab : BedTable) (x : Task) (i : Nat) (a : Word) (size : Nat) : State × Task × TaskRes :=
  let n := a.toNat
  let part := fun (v : Nat) => v / 2 ^ (8 * (n % 8)) % 2 ^ (8 * size)
  match (match x.got with | some (e, v) => if (e = n && n % 8 != 0) || e = n + size then some v else none | none => none), FMap.get? x.ahead i with
  | some v, _ => (s, { x with got := some (n + size, v) }, .ok (part v))
  | none, some v => (s, { x with got := some (n + size, v), ahead := FMap.erase x.ahead i }, .ok (part v))
  | none, none =>
    match tab.check .copyRead a size with
    | .inl _ => (s, x, .fault 3)
    | .inr h =>
      match s.targetBed h (tab.spills h.index) t a with
      | .column _ _ _ _ _ =>
        (match s.taskRead t tab x.asid (.ofNat 64 (n / 8 * 8)) 8 8 x.tseq (x.lastRd == some (n / 64)) with
         | (s1, .ok v) => (s1, { x with got := some (n + size, v), lastRd := some (n / 64) }, .ok (part v))
         | (s1, .fault c) => (s1, x, .fault c))
      | _ =>
        let r := s.taskRead t tab x.asid a size size x.tseq false
        (r.1, x, r.2)
/-- The source elements of a unit, or a fault with its address. -/
def State.cpRead (s : State) (t : Nat) (tab : BedTable) (x : Task) (ix : Nat × Nat × Nat × Nat) :
    Nat → State × Task × (List Nat ⊕ Nat × Word)
  | 0 => (s, x, .inl [])
  | k + 1 =>
    match s.cpRead t tab x ix k with
    | (s1, x1, .inr f) => (s1, x1, .inr f)
    | (s1, x1, .inl l) =>
      let a := cpSrc x.record (ix.1 + k, ix.2)
      let size := (cpNibbles x.record (cpSfmt x.record) + 1) / 2
      match s1.cpGet t tab x1 (x.done * cpUnit x.record + k) a size with
      | (s2, x2, .fault c) => (s2, x2, .inr (c, a))
      | (s2, x2, .ok v) => (s2, x2, .inl (l ++ [if cpSfmt x.record = 6 then bits v (4 * ((ix.1 + k) % 2)) 4 else v]))

/-- The value of a source element. -/
def cpValue (sfmt x : Nat) : FVal := if sfmt = 7 then .fin (intDy (intVal 8 x)) else (ffmt (sfmt - 1)).value x
/-- A value in a destination format; none for a NaN in a format without one (spec/10 R197). -/
def cpEncode (dfmt : Nat) (v : FVal) : Option Nat :=
  if v.isNan && (dfmt == 6 || dfmt == 7) then none
  else some (if dfmt = 7 then (toInt 8 0 v).1 else ((ffmt (dfmt - 1)).ofVal 0 v).1)
/-- The magnitude of a value; a NaN has none. -/
def FVal.mag : FVal → Option FVal
  | .fin d => some (.fin { d with neg := false })
  | .inf _ => some (.inf false)
  | .nan _ => none
/-- amax of a block. -/
def blockMax (l : List FVal) : FVal :=
  (l.filterMap FVal.mag).foldl (fun m v => if m.lt v then v else m) (.fin ⟨false, 0, 0⟩)
/-- The block scale's byte (spec/10 R198). -/
def blockScale (dfmt : Nat) (l : List FVal) : Nat :=
  let F := ffmt (dfmt - 1)
  let top := F.value F.maxFin
  let m := blockMax l
  if m.isZero then 0x38
  else
    match ((List.range 126).map (· + 1)).find? (fun c =>
      match FVal.mul (e4m3.value c) top with
      | some p => m.lt p || m.eq p
      | none => false) with
    | some c => c
    | none => 0x7E
/-- The destination elements of a unit with the scale it generates; none where a NaN has no encoding. -/
def cpConvert (r : Nat) (l : List Nat) : Option (List Nat × List Byte) :=
  if cpSfmt r = 0 then some (l, [])
  else
    let vs := l.map (cpValue (cpSfmt r))
    if cpScgen r then
      let sc := blockScale (cpDfmt r) vs
      let F := ffmt (cpDfmt r - 1)
      if cpDfmt r = 6 && vs.any FVal.isNan then none
      else some (vs.map (fun v => (F.div 0 v (e4m3.value sc)).1), [.ofNat 8 sc])
    else
      let es := vs.map (cpEncode (cpDfmt r))
      if es.all Option.isSome then some (es.filterMap id, []) else none
/-- Two E2M1 elements a byte, the lower in bits [3:0]. -/
def packNibbles : List Nat → List Byte
  | a :: b :: l => .ofNat 8 (a + 16 * b) :: packNibbles l
  | _ => []
/-- The destination bytes of a unit, in order. -/
def cpBytes (r : Nat) (l : List Nat) : List Byte :=
  if cpDfmt r = 6 then packNibbles l else (l.map (fun e => leBytes e (cpNibbles r (cpDfmt r) / 2))).flatten

/-- The task and those combined with it. -/
def State.combined (s : State) (t : Nat) (x : Task) : List Task := x :: (s.tasksOf t).filter (fun y => y.partner == some x.tseq)
/-- Lower the hedge registers on tile n, where a write of a combined copy was performed, that the records it was written for
name (spec/10 R199, R200). -/
def State.cpHedge (s : State) (t : Nat) (xs : List Task) (wrote : Task → Bool) (n bytes : Nat) : State :=
  xs.foldl (fun s y =>
    if recHen y.record && wrote y then s.sendFrom t (.hedgeBytes n (recHreg y.record) bytes) else s) s

/-- The destination tiles of a combined copy, each once, ascending. -/
def unionTiles (t : Nat) (xs : List Task) : List Nat :=
  ((xs.map (fun y => cpTiles y.record t)).flatten.foldl (fun m n => FMap.set m n ()) ([] : FMap Unit)).map (·.1)

/-- Where a multicast to memory writes on tile n: its replica (spec/10 R199). -/
def BedTable.replicaTarget (tab : BedTable) (tiles : List Nat) (va : Word) (n : Nat) : Option Target :=
  match tab.find va.toNat with
  | none => none
  | some h =>
    if h.bed.kind == .replicated && tiles.all (fun m => inRect m h.bed.trow0 h.bed.tcol0 h.bed.trows h.bed.tcols) then
      let r := h.bed.replica (va.toNat - h.bed.base) n
      some (.column r.1 h.index r.2 h.bed.kind (tab.spills h.index))
    else none

/-- The tile of the home of a target. -/
def Target.tile? : Target → Option Nat
  | .column key _ _ _ _ => some (key / 16)
  | _ => none

/-- Where one piece in memory is written: at Home(), or at the replica of each tile of the rectangles, and of the tile of Home() where
one of two combined copies has no rectangle; none where the bed may not take it (spec/10 R199). -/
def State.cpTargets (s : State) (t : Nat) (tab : BedTable) (xs : List Task) (va : Word) (align : Nat) : Option (List Target) :=
  match tab.check .copyWrite va align with
  | .inl _ => none
  | .inr h =>
    let home := s.targetBed h (tab.spills h.index) t va
    if xs.any (fun y => cpMen y.record) then
      let rect := unionTiles t (xs.filter (fun y => cpMen y.record))
      let more := if xs.all (fun y => cpMen y.record) then [] else home.tile?.toList.filter (fun n => !rect.contains n)
      let l := (rect ++ more).map (tab.replicaTarget rect va)
      if l.all Option.isSome then some (l.filterMap id) else none
    else some [home]

/-- The pieces of a unit in memory: each element, or each byte of two E2M1 elements. -/
def cpPieces (r : Nat) (ix : Nat × Nat × Nat × Nat) (data : List Byte) : List (Word × List Byte) :=
  let size := if cpDfmt r = 6 then 1 else cpNibbles r (cpDfmt r) / 2
  let step := if cpDfmt r = 6 then 2 else 1
  (List.range (data.length / size)).map (fun k => (cpDst r (ix.1 + step * k, ix.2), (data.drop (k * size)).take size))

/-- The bytes on their way to a tile's channel. -/
def Task.chanBytes (x : Task) (n : Nat) : Nat := ((x.writes.filter (fun w => w.dest == .chan n)).map (fun w => w.data.length)).sum
/-- Have the channels of every destination room for a unit, what is on its way to them counted? -/
def State.cpRoom (s : State) (x : Task) (tiles : List Nat) : Bool :=
  tiles.all (fun n =>
    let e := s.engine (quadKey n (cpEng x.record))
    decide ((if cpKind x.record = 1 then e.chA else e.chB).length + x.chanBytes n + cpUnitBytes x.record ≤ 2 ^ 21))

/-- Do two targets lie in the same part of memory? -/
def Target.beside : Target → Target → Bool
  | .column k b _ _ _, .column k' b' _ _ _ => k == k' && b == b'
  | .host d a _, .host d' a' _ => d == d' && a == a'
  | .peer d i _ _, .peer d' i' _ _ => d == d' && i == i'
  | _, _ => false
/-- The node that a write of a copy on tile t goes to. -/
def CopyDest.node : CopyDest → Nat
  | .mem g => g.node
  | .gen g => g.node
  | .scale n _ => n
  | .chan n => n
/-- Issue a write: it joins the one before it of the same location where it goes on from it, so that a location is written by one event
(spec/08 R138). One for another node travels there on class 6 (spec/02 R25). -/
def State.issueWrite (s : State) (t : Nat) (x : Task) (d : CopyDest) (va : Nat) (data : List Byte) : State × Task :=
  let joins := fun (w : CopyWrite) => w.va + w.data.length == va && va % 8 != 0 && (match w.dest, d with
    | .mem g, .mem g' => g.beside g'
    | .gen g, .gen g' => g.beside g'
    | _, _ => false)
  if x.writes.any joins then (s, { x with writes := x.writes.map (fun w => if joins w then { w with data := w.data ++ data } else w) })
  else if d.node = t then (s, { x with writes := x.writes ++ [⟨d, va, data, none⟩] })
  else (s.sendFrom t (.copyData d.node), { x with writes := x.writes ++ [⟨d, va, data, some s.fresh⟩] })
/-- Issue one piece to memory, to each of its targets; a fault comes with its address. -/
def State.cpMemory (s : State) (t : Nat) (tab : BedTable) (x : Task) (xs : List Task) (mk : Target → CopyDest) (va : Word)
    (data : List Byte) : State × Task × Option (Nat × Word) :=
  match s.cpTargets t tab xs va data.length with
  | none => (s, x, some (3, va))
  | some gs =>
    let quiet := x.lastWr == some (va.toNat / 64)
    gs.foldl (fun p g =>
      match p with
      | (s, x, some f) => (s, x, some f)
      | (s, x, none) =>
        match s.taskLand g x.asid data.length x.tseq quiet with
        | (s1, some c) => (s1, x, some (c, va))
        | (s1, none) =>
          let q := s1.issueWrite t x (mk g) va.toNat data
          (q.1, q.2, none)) (s, { x with lastWr := some (va.toNat / 64) }, none)

/-- A tile's channel takes bytes of a copy, with the hedges that this lowers. -/
def State.cpPush (s : State) (t r : Nat) (xs : List Task) (n : Nat) (data : List Byte) : State :=
  let k := quadKey n (cpEng r)
  let e := s.engine k
  (s.putEngine k (if cpKind r = 1 then { e with chA := e.chA ++ data } else { e with chB := e.chB ++ data })).cpHedge t xs
    (fun y => (cpTiles y.record t).contains n) n data.length
/-- Issue the bytes of a unit to their destination: the channels of this tile take them at once, those of others in loop order as they arrive
(spec/10 R190, R196). -/
def State.cpWrite (s : State) (t : Nat) (tab : BedTable) (x : Task) (xs : List Task) (ix : Nat × Nat × Nat × Nat)
    (data : List Byte) : State × Task × Option (Nat × Word) :=
  let r := x.record
  let tiles := unionTiles t xs
  if cpKind r = 0 then
    (cpPieces r ix data).foldl (fun p w =>
      match p with
      | (s, x, some f) => (s, x, some f)
      | (s, x, none) => s.cpMemory t tab x xs .mem w.1 w.2) (s, x, none)
  else if !tiles.all s.tileUp then (s, x, some (12, 0))
  else if cpKind r = 3 then
    (cpPieces r ix data).foldl (fun p w =>
      match p with
      | (s, x, some f) => (s, x, some f)
      | (s, x, none) =>
        if 262144 < w.1.toNat + w.2.length then (s, x, some (11, w.1))
        else
          let q := tiles.foldl (fun p n => w.2.zipIdx.foldl (fun (p : State × Task) b =>
            p.1.issueWrite t p.2 (.scale n (w.1.toNat + b.2)) (w.1.toNat + b.2) [b.1]) p) (s, x)
          (q.1, q.2, none))
      (s, x, none)
  else
    let q := tiles.foldl (fun (p : State × Task) n =>
      if n = t then (p.1.cpPush t x.record xs n data, p.2) else p.1.issueWrite t p.2 (.chan n) 0 data) (s, x)
    (q.1, q.2, none)

/-- The generated scales are issued, once every value is at its home (spec/10 R198). -/
def State.cpScales (s : State) (t : Nat) (tab : BedTable) (x : Task) : State × Task × Option (Nat × Word) :=
  (x.scales.zipIdx).foldl (fun p b =>
    match p with
    | (s, x, some f) => (s, x, some f)
    | (s, x, none) => s.cpMemory t tab x [] .gen (.ofNat 64 (recBody x.record 328 56 + b.2)) [b.1]) (s, { x with lastWr := none }, none)

/-- A copy stops under a suspension: Ready again, held, its engine free (spec/11 R216). -/
def State.stopCopy (s : State) (t : Nat) (x : Task) : State :=
  (s.combined t x).foldl (fun s y => s.setTask t { y with held := true, stopping := false, done := x.done, scales := x.scales, got := none, ahead := [] } .ready)
    (s.leaveEngines t x)
/-- Has a suspended copy reached a resume offset? -/
def Task.atOffset (x : Task) : Bool := x.stopping && x.done * cpUnitBytes x.record % 4096 == 0

/-- Is a piece of memory, or a byte of scale memory, among the writes that are not performed yet? -/
def Task.unwritten (x : Task) (d : CopyDest) (va len : Nat) : Bool :=
  x.writes.any (fun w => decide (w.va ≤ va) && decide (va + len ≤ w.va + w.data.length) && (match w.dest, d with
    | .mem g, .mem g' => g.beside g'
    | .gen g, .gen g' => g.beside g'
    | .scale n o, .scale n' o' => n == n' && o == o'
    | _, _ => false))
/-- Scales that are written when another, or the completion word, meets a fault have no meaning (spec/10 R198, log 37). -/
def State.cpUnscale (s : State) (t : Nat) (tab : BedTable) (x : Task) : State :=
  if !x.scaled then s.bump
  else
    (List.range x.scales.length).foldl (fun s b =>
      let va : Word := .ofNat 64 (recBody x.record 328 56 + b)
      ((s.cpTargets t tab [] va 1).getD []).foldl (fun u g =>
        if x.unwritten (.gen g) va.toNat 1 then u
        else (u.taskPut g x.asid x.job [Config.freeByte (s.fresh * 2 ^ 80 + 2 ^ 79 + b)] x.tseq true).1) s) s.bump
/-- The bytes that a conversion copy has put at its destination are values without meaning after its fault (spec/10 R198, log 3): free
bytes in memory, in scale memory, and at the end of the channels it fills. What it has issued and not performed is not written. -/
def State.cpUndefined (s : State) (t : Nat) (tab : BedTable) (x : Task) : State :=
  let r := x.record
  let xs := s.combined t x
  let tiles := unionTiles t xs
  let free := fun (i n : Nat) => (List.range n).map (fun k => Config.freeByte (s.fresh * 2 ^ 80 + i * 64 + k))
  let ub := cpUnitBytes r
  if cpSfmt r = 0 then s
  else if cpKind r = 0 then
    (List.range x.done).foldl (fun s u => (cpPieces r (cpIndex r u) (free u ub)).foldl (fun s w =>
      ((s.cpTargets t tab xs w.1 w.2.length).getD []).foldl (fun s g =>
        if x.unwritten (.mem g) w.1.toNat w.2.length then s else (s.taskPut g x.asid x.job w.2 x.tseq true).1) s) s) (s.cpUnscale t tab x)
  else if cpKind r = 3 then
    (List.range x.done).foldl (fun s u => (cpPieces r (cpIndex r u) (free u ub)).foldl (fun s w =>
      tiles.foldl (fun s n =>
        let k := quadKey n (cpEng r)
        w.2.zipIdx.foldl (fun s b =>
          let e := s.engine k
          if x.unwritten (.scale n (w.1.toNat + b.2)) (w.1.toNat + b.2) 1 then s
          else s.putEngine k { e with scale := e.scale.putBytes (w.1.toNat + b.2) [b.1] }) s) s) s) (s.cpUnscale t tab x)
  else
    tiles.foldl (fun s n =>
      let k := quadKey n (cpEng r)
      let e := s.engine k
      let m := x.done * ub - x.chanBytes n
      let blur := fun (c : List Byte) => c.take (c.length - m) ++ free n (min c.length m)
      s.putEngine k (if cpKind r = 1 then { e with chA := blur e.chA } else { e with chB := blur e.chB })) (s.cpUnscale t tab x)
/-- A running copy faults (spec/10 R198, R203); what it has on its way is dropped. -/
def State.copyFault (s : State) (t : Nat) (tab : BedTable) (x : Task) (code : Nat) (faddr : Word) : State :=
  ((x.writes.filterMap (·.msg)).foldl State.unsend (s.cpUndefined t tab x)).faultRunning t { x with writes := [] } code faddr

/-- What the completion word of a copy would meet: a fault with its address. A copy that generates scales looks before it writes them, for it
writes neither where it faults (spec/10 R198). -/
def State.wordFault (s : State) (t : Nat) (tab : BedTable) (x : Task) : Option (Nat × Word) :=
  let va : Word := .ofNat 64 (recCw x.record)
  if recCw x.record = 0 then none
  else
    match tab.check .copyWrite va 8 with
    | .inl _ => some (3, va)
    | .inr h => ((s.taskLand (s.targetBed h (tab.spills h.index) t va) x.asid 8 x.tseq true).2).map (fun c => (c, va))
/-- The end of a copy: its generated scales are issued, and once they are at their homes it is finished and its engine free. -/
def State.endCopy (s : State) (t : Nat) (tab : BedTable) (x : Task) : State :=
  if x.scales.isEmpty || x.scaled then
    ((s.combined t x).foldl (fun s y => s.putTask t { y with finished := true }) (s.leaveEngines t x)).refreshHolds
  else
    match (s.combined t x).findSome? (s.wordFault t tab), s.cpScales t tab x with
    | some f, _ => s.copyFault t tab x f.1 f.2
    | none, (s1, _, some f) => s1.copyFault t tab x f.1 f.2
    | none, (s1, x1, none) => s1.putTask t { x1 with scaled := true }

/-- Does the next unit wait at a port: for the read of an element, or for the walk of a destination? -/
def State.cpWaits (s : State) (t : Nat) (tab : BedTable) (x : Task) (ix : Nat × Nat × Nat × Nat) : Bool :=
  let r := x.record
  (List.range (cpUnit r)).any (fun k => s.taskWaits t tab .copyRead x.asid (cpSrc r (ix.1 + k, ix.2)) 1 0)
  || (cpKind r == 0 && (cpPieces r ix (List.replicate (cpUnitBytes r) 0)).any (fun w => s.taskWaits t tab .copyWrite x.asid w.1 1 1))

/-- A running copy goes on: it reads, converts and issues its next unit, or comes to a resume offset or to its end once all that it has
issued is performed. A fault waits for that too. One of a cancelled job issues nothing more. -/
def State.copyIssue (s : State) (t : Nat) (x : Task) (tab : BedTable) : State :=
  let r := x.record
  let xs := s.combined t x
  let idle := fun (u : State) => if x.writes.isEmpty then u else s
  let trip := fun (u : State) (f : Nat × Word) =>
    if x.writes.isEmpty then u.copyFault t tab x f.1 f.2 else u.putTask t { x with due := some f }
  if s.jobCancelled x.job then s
  else
  match x.due with
  | some f => idle (s.copyFault t tab x f.1 f.2)
  | none =>
  if cpTotal r ≤ x.done then idle (s.endCopy t tab x)
  else if x.atOffset then idle (s.stopCopy t x)
  else if (cpKind r = 1 || cpKind r = 2) && !s.cpRoom x (unionTiles t xs) then s
  else
    let ix := cpIndex r x.done
    if s.cpWaits t tab x ix then s
    else
      match s.cpRead t tab x ix (cpUnit r) with
      | (s1, _, .inr f) => trip s1 f
      | (s1, x1, .inl l) =>
        match cpConvert r l with
        | none => trip s1 (6, cpSrc r ix)
        | some (es, sc) =>
          match s1.cpWrite t tab x1 xs ix (cpBytes r es) with
          | (s2, _, some f) => trip s2 f
          | (s2, x2, none) => s2.putTask t { x2 with done := x.done + 1, scales := x.scales ++ sc }

/-- A location of the source is read ahead of its turn: that of element i, the first of those that follow one another in it. The reads of a copy
have no order among locations (spec/08 R138). One that meets a fault is left to its turn. -/
def State.copyAhead (s : State) (t : Nat) (x : Task) (tab : BedTable) (i : Nat) : State :=
  let r := x.record
  let size := (cpNibbles r (cpSfmt r) + 1) / 2
  let at_ := fun (i : Nat) => let ix := cpIndex r (i / cpUnit r); cpSrc r (ix.1 + i % cpUnit r, ix.2)
  let a := at_ i
  let follows := decide (0 < i) && ((at_ (i - 1) + .ofNat 64 size == a && a.toNat % 8 != 0) || at_ (i - 1) == a)
  if s.jobCancelled x.job || x.due.isSome || decide (i < x.done * cpUnit r) || decide (cpTotal r * cpUnit r ≤ i) || follows
      || (FMap.get? x.ahead i).isSome || s.taskWaits t tab .copyRead x.asid a 1 0 then s
  else
    match tab.check .copyRead a size with
    | .inl _ => s
    | .inr h =>
      match s.targetBed h (tab.spills h.index) t a with
      | .column _ _ _ _ _ =>
        (match s.taskRead t tab x.asid (.ofNat 64 (a.toNat / 8 * 8)) 8 8 x.tseq (x.lastRd == some (a.toNat / 64)) with
         | (s1, .ok v) => s1.putTask t { x with ahead := FMap.set x.ahead i v, lastRd := some (a.toNat / 64) }
         | (_, .fault _) => s)
      | _ => s

/-- The location that a target names, by a number of its own (spec/08 R138). -/
def State.placeOf (s : State) (asid : BitVec 12) (g : Target) : Nat :=
  match g with
  | .column key bed hoff kind _ =>
    if kind == .scratch then 2 ^ 60 + (key * 2 ^ 40 + hoff) / 8
    else (match (s.translate key asid (cvaOf bed hoff) 1).2 with | .ok off => panelAddr key off / 8 | .trip _ _ => 2 ^ 61 + (key * 2 ^ 50 + cvaOf bed hoff) / 8)
  | .host die aper bus => 2 ^ 62 + ((die * 256 + aper) * 2 ^ 64 + bus) / 8
  | .peer die index a va => 2 ^ 63 + (((die * 4096 + index) * 4096 + a) * 2 ^ 64 + va) / 8
/-- The location of an issued write. -/
def State.writePlace (s : State) (asid : BitVec 12) (w : CopyWrite) : Nat :=
  match w.dest with
  | .mem g => 4 * s.placeOf asid g
  | .gen g => 4 * s.placeOf asid g
  | .scale n off => 4 * (n * 2 ^ 20 + off) + 1
  | .chan n => 4 * n + 2
/-- May an issued write be performed: nothing more of its location follows in the run, and no earlier write of that location is left
(spec/10 R196)? -/
def State.mayPerform (s : State) (x : Task) (w : CopyWrite) (i : Nat) : Bool :=
  let stop := w.va + w.data.length
  (stop % 8 == 0 || decide (cpTotal x.record ≤ x.done) || x.atOffset || x.due.isSome || s.jobCancelled x.job || (match w.dest with | .mem _ => false | _ => true)
    || (cpDst x.record (cpIndex x.record x.done)).toNat != stop)
  && !((x.writes.take i).any (fun v => s.writePlace x.asid v == s.writePlace x.asid w))
/-- A copy that was cancelled ends once what it has issued is performed. -/
def State.copyAfter (s : State) (t : Nat) (x : Task) : State :=
  if x.writes.isEmpty && s.jobCancelled x.job then (s.combined t x).foldl (fun s y => s.cancelTask t y) s else s
/-- Is the message that carries a write still on its way, or lost (spec/02 R38)? -/
def State.writeAway (s : State) (w : CopyWrite) : Bool := match w.msg with | some id => !s.landed id | none => false
def State.writeLost (s : State) (w : CopyWrite) : Bool :=
  match w.msg with
  | some id => (match FMap.get? s.transit id with | some t => t.lost | none => false)
  | none => false
/-- An issued write is performed (spec/08 R138): at its home, once its message is there, with the hedges it lowers. One lost on its way faults
the copy with code 12 (spec/02 R38). -/
def State.copyPerform (s0 : State) (t : Nat) (x : Task) (tab : BedTable) (i : Nat) : State :=
  match x.writes[i]? with
  | none => s0
  | some w =>
    if s0.writeLost w then s0.copyFault t tab x 12 0
    else if s0.writeAway w then s0
    else
    let s := match w.msg with | some id => s0.unsend id | none => s0
    let x1 := { x with writes := x.writes.eraseIdx i }
    let xs := s.combined t x1
    let va : Word := .ofNat 64 w.va
    let home := (tab.find w.va).bind (fun h => (s.targetBed h (tab.spills h.index) t va).tile?)
    let put := fun (g : Target) (wrote : Nat → Task → Bool) =>
      if s.waitsFor g x.asid w.data.length 1 then s0
      else
        match s.taskPut g x.asid x.job w.data x.tseq true with
        | (s1, some c, _) => s1.copyFault t tab x c va
        | (s1, none, some n) => ((s1.putTask t x1).cpHedge t xs (wrote n) n w.data.length).copyAfter t x1
        | (s1, none, none) => (s1.putTask t x1).copyAfter t x1
    if !s.mayPerform x w i then s0
    else
      match w.dest with
      | .mem g => put g (fun n y => if cpMen y.record then (cpRect y.record).contains n else home == some n)
      | .gen g => put g (fun _ _ => true)
      | .scale n off =>
        if !s.tileUp n then s.copyFault t tab x 12 0
        else
          let k := quadKey n (cpEng x.record)
          let e := s.engine k
          (((s.putEngine k { e with scale := e.scale.putBytes off w.data }).putTask t x1).cpHedge t xs
            (fun y => (cpTiles y.record t).contains n) n w.data.length).copyAfter t x1
      | .chan n =>
        if !s.tileUp n then s.copyFault t tab x 12 0
        else ((s.cpPush t x.record xs n w.data).putTask t x1).copyAfter t x1

/-- COPY_RUN (spec R196): a copy engine reads, converts and issues its next unit in loop order (n is 0), or one of the writes it has issued,
the one at place n - 1, is performed; those of different locations are performed in any order (spec/08 R138, R153). From 2^32 on n names an
element, 2^32 more than its number, whose location is read ahead of its turn (log 2). -/
def execCopyRun (tile eng n : Nat) (s : State) : Out :=
  .next <| if !s.tileUp tile then s else match (s.col (colKey tile eng)).copy.bind (s.task? tile) with
  | none => s
  | some x =>
    if x.state != .running || x.finished then s
    else
      match s.taskTable tile x.asid with
      | none => s.wantTable tile 0 x.job
      | some tab =>
        if n = 0 then s.copyIssue tile x tab
        else if n < 2 ^ 32 then s.copyPerform tile x tab (n - 1)
        else s.copyAhead tile x tab (n - 2 ^ 32)
/-- CHANNEL_FULL_TIMEOUT (spec R190): a copy that waits for channel room faults with code 8. -/
def execChannelFullTimeout (tile eng : Nat) (s : State) : Out :=
  .next <| match (s.col (colKey tile eng)).copy.bind (s.task? tile) with
  | some x =>
    if (cpKind x.record = 1 || cpKind x.record = 2) && decide (x.done < cpTotal x.record)
        && !s.cpRoom x (unionTiles tile (s.combined tile x)) then
      match s.taskTable tile x.asid with
      | some tab => s.copyFault tile tab x 8 0
      | none => s.faultRunning tile x 8 0
    else s
  | none => s

/-! ### Matrix steps (spec/10 R189 to R193, R195) -/

/-- K of a step: 256, or what remains. -/
def stepK (r step : Nat) : Nat := min 256 (32 * recKlen r - 256 * step)
/-- Steps of a task. -/
def stepCount (r : Nat) : Nat := (32 * recKlen r + 255) / 256
/-- Bits of a row of A in a step: values, then metadata under SPA. -/
def rowBitsA (r k : Nat) : Nat :=
  let w := fmtWidth (matFmt (recFmtA r))
  if recSpa r then k / 2 * w + k else k * w
def rowBitsB (r k : Nat) : Nat := k * fmtWidth (matFmt (recFmtB r))
/-- Bytes of a step in each channel. -/
def stepBytesA (r k : Nat) : Nat := 256 * rowBitsA r k / 8
def stepBytesB (r k : Nat) : Nat := 256 * rowBitsB r k / 8

/-- MATRIX_STEP_BEGIN (spec R190): with all of a step's bytes in both channels it begins, pops them and reads its scales. -/
def execMatrixStepBegin (tile eng : Nat) (s : State) : Out :=
  let key := quadKey tile eng
  let e := s.engine key
  .next <| match e.run.bind (s.task? tile) with
  | none => s
  | some x =>
    let r := x.record
    let k := stepK r e.step
    if e.cur.isSome || stepCount r ≤ e.step || x.stopping || x.held || !s.tileUp tile then s
    else if e.chA.length < stepBytesA r k || e.chB.length < stepBytesB r k then s
    else if e.badA || e.badB then (s.logError tile 3 true 0 0 x.tseq).faultRunning tile x 5 0
    else if recBse r && e.badScale then (s.logError tile 5 true 0 0 x.tseq).faultRunning tile x 5 0
    else
      let sc := fun lo => if recBse r then e.scale.bytes (recBody r lo 18 + 2048 * e.step) (8 * k) else []
      s.putEngine key { e with
        chA := e.chA.drop (stepBytesA r k), chB := e.chB.drop (stepBytesB r k)
        cur := some ⟨k, e.chA.take (stepBytesA r k), e.chB.take (stepBytesB r k), sc 630, sc 612⟩ }

/-- The value of a matrix operand. -/
def matValue (fmt x : Nat) : FVal := if fmt = 8 then .fin (intDy (intVal 8 x)) else (ffmt fmt).value x
/-- A block scale's value (spec/12 R233). -/
def scaleValue (b : Nat) : FVal := if 0x7F ≤ b then .nan false else e4m3.value b
/-- 1.0. -/
def oneVal : FVal := .fin ⟨false, 1, 0⟩

/-- A step's operands as numbers. -/
structure StepData where
  r : Nat
  k : Nat
  a : Nat
  b : Nat
  sa : Nat
  sb : Nat

/-- B[k][n] of the step. -/
def StepData.bVal (d : StepData) (n k : Nat) : FVal :=
  let f := matFmt (recFmtB d.r)
  matValue f (bits d.b (rowBitsB d.r d.k * n + k * fmtWidth f) (fmtWidth f))
/-- The four or, under SPA, up to five products of a group: pairs of an element of A and one of B. -/
def StepData.group (d : StepData) (m n g : Nat) : List (FVal × FVal) :=
  let f := matFmt (recFmtA d.r)
  let w := fmtWidth f
  let row := rowBitsA d.r d.k * m
  if recSpa d.r then
    let md := bits d.a (row + d.k / 2 * w + 4 * g) 4
    let i0 := md % 4
    let i1 := md / 4
    [(matValue f (bits d.a (row + 2 * g * w) w), d.bVal n (4 * g + i0)),
     (matValue f (bits d.a (row + (2 * g + 1) * w) w), d.bVal n (4 * g + i1))]
    ++ (((List.range 4).filter (fun l => l != i0 && l != i1)).map (fun l => (FVal.fin ⟨false, 0, 0⟩, d.bVal n (4 * g + l))))
  else (List.range 4).map (fun l => (matValue f (bits d.a (row + (4 * g + l) * w) w), d.bVal n (4 * g + l)))
/-- The two block scales of a block of 32 (spec/10 R191). -/
def StepData.scales (d : StepData) (m n j : Nat) : FVal × FVal :=
  if recBse d.r then (scaleValue (bits d.sa (8 * (256 * j + m)) 8), scaleValue (bits d.sb (8 * (256 * j + n)) 8))
  else (oneVal, oneVal)

/-- A product with its scales, exact; none where it is a NaN (spec/12 R246). -/
def scaledProduct (sc : FVal × FVal) (p : FVal × FVal) : Option FVal :=
  match FVal.mul p.1 p.2 with
  | none => none
  | some x =>
    match FVal.mul x sc.1 with
    | none => none
    | some y =>
      match FVal.mul y sc.2 with
      | none => none
      | some z => if z.isNan then none else some z
/-- The exact sum of products; none for a NaN, or for infinities of both signs. A sum of operands that are all -0 is -0 (spec/12 R238). -/
def exactSum : List (Option FVal) → Option FVal
  | [] => some (.fin ⟨false, 0, 0⟩)
  | x :: l => l.foldl (fun acc x =>
    match acc, x with
    | some a, some b => FVal.add 0 a b
    | _, _ => none) x

/-- The greatest FX96 value, in counts of 2^-36 (spec/12 R245). -/
def fxMax : Int := 2 ^ 95 - 1
/-- FX96Add. -/
def fxAdd (x : Acc) (v : Int) : Acc :=
  let t := x.fx + v
  if fxMax < t then { x with fx := fxMax, ovf := true }
  else if t < -(2 ^ 95) then { x with fx := -(2 ^ 95), ovf := true }
  else { x with fx := t }
/-- One block of 32 added into an FX96 entry (spec/10 R193). -/
def StepData.fxBlock (d : StepData) (m n j : Nat) (x : Acc) : Acc :=
  let sc := d.scales m n j
  let ps := (((List.range 8).map (fun g => d.group m n (8 * j + g))).flatten).map (scaledProduct sc)
  match exactSum ps with
  | some (.fin v) => fxAdd x (v.at (-36))
  | _ => { x with nan := true }
/-- One group of four added into an FE96 entry (spec/12 R246). -/
def StepData.feGroup (d : StepData) (m n g : Nat) (x : Acc) : Acc :=
  match exactSum ((d.group m n g).map (scaledProduct (d.scales m n (g / 8)))) with
  | none => { x with nan := true }
  | some v =>
    let grp := (fe96.ofVal 0 v).1
    match FVal.add 0 (fe96.value x.fe.toNat) (fe96.value grp) with
    | none => { x with nan := true }
    | some t =>
      let e := (fe96.ofVal 0 t).1
      { x with fe := .ofNat 96 e, ovf := x.ovf || (fe96.value e).isInf }
/-- An entry after the step. -/
def StepData.entry (d : StepData) (m n : Nat) (x : Acc) : Acc :=
  if recFe d.r then (List.range (d.k / 4)).foldl (fun x g => d.feGroup m n g x) x
  else (List.range (d.k / 32)).foldl (fun x j => d.fxBlock m n j x) x

/-- An entry of zero. -/
def Acc.zero : Acc := ⟨0, 0, false, false⟩
/-- A bank after the step. -/
def Bank.step (b : Bank) (d : StepData) : Bank :=
  { b with ents := (List.range 65536).filterMap (fun i =>
      let x := d.entry (i / 256) (i % 256) (FMap.getD b.ents i Acc.zero)
      if x = Acc.zero then none else some (i, x)) }

/-- The next drain that an engine owes begins (spec/10 R194); a task whose steps are done waits for it in the run place. -/
def State.startDrain (s : State) (t key : Nat) : State :=
  let e := s.engine key
  match e.run.bind (s.task? t) with
  | none => s
  | some x =>
    if e.drain.isNone && e.cur.isNone && decide (stepCount x.record ≤ e.step) then
      s.putEngine key { e with drain := some x.tseq, run := none, drained := 0, drainCount := 0 }
    else s

/-- A matrix task stops between steps: Ready again and held, its step number kept (spec/11 R215). -/
def State.stopMatrix (s : State) (t : Nat) (x : Task) : State :=
  let key := quadKey t (recEng x.record)
  let e := s.engine key
  (s.putEngine key { e with run := none, cur := none }).setTask t { x with held := true, stopping := false, done := e.step } .ready

/-- The last step of a task is done: its drain begins or is owed, or it is finished. -/
def State.lastStep (s : State) (t key : Nat) (x : Task) : State :=
  if recDrain x.record then s.startDrain t key
  else
    let e := s.engine key
    ((s.putEngine key { e with run := none }).putTask t { x with finished := true }).refreshHolds

/-- MATRIX_STEP_END (spec R193): the step's products are added into the bank. -/
def execMatrixStepEnd (tile eng : Nat) (s : State) : Out :=
  let key := quadKey tile eng
  let e := s.engine key
  .next <| match e.run.bind (s.task? tile), e.cur with
  | some x, some c =>
    let r := x.record
    if (e.bank (recBank r)).bad then (s.logError tile 5 true 0 0 x.tseq).faultRunning tile x 5 0
    else
    let d : StepData := ⟨r, c.k, leValue c.a, leValue c.b, leValue c.sa, leValue c.sb⟩
    let e1 := e.setBank (recBank r) { (e.bank (recBank r)).step d with fe := recFe r }
    let y := { x with done := e.step + 1 }
    let s1 := (s.putEngine key { e1 with cur := none, step := e.step + 1 }).putTask tile y
    if s.jobCancelled x.job then s1.cancelTask tile y
    else if stepCount r ≤ e.step + 1 then s1.lastStep tile key y
    else if x.stopping then s1.stopMatrix tile y
    else s1
  | _, _ => s
/-- CHANNEL_STARVE_TIMEOUT (spec R190): a step that waits for channel bytes faults its task with code 7. -/
def execChannelStarveTimeout (tile eng : Nat) (s : State) : Out :=
  let e := s.engine (quadKey tile eng)
  .next <| match e.run.bind (s.task? tile) with
  | none => s
  | some x =>
    let k := stepK x.record e.step
    if e.cur.isNone && decide (e.step < stepCount x.record) && !x.stopping && !x.held
        && (decide (e.chA.length < stepBytesA x.record k) || decide (e.chB.length < stepBytesB x.record k)) then
      s.faultRunning tile x 7 0
    else s

/-! ### Drains (spec/10 R194, spec/12 R247) -/

/-- The exact value of an entry. -/
def Acc.value (x : Acc) (fe : Bool) : FVal := if fe then fe96.value x.fe.toNat else .fin ⟨decide (x.fx < 0), x.fx.natAbs, -36⟩
/-- The element that an entry drains to, by the first case of spec/10 R194 that applies. -/
def drainElement (dfmt : Nat) (fe : Bool) (sca scb : Nat) (x : Acc) : Nat :=
  let v := x.value fe
  let F := ffmt (drainFmt dfmt)
  let a := fp32.value sca
  let b := fp32.value scb
  let neg := (v.neg != a.neg) != b.neg
  if dfmt = 5 then
    (if x.nan then 0
     else if x.ovf then (if v.neg then 2 ^ 31 else 2 ^ 31 - 1)
     else (toInt 10 0 v).1)
  else if x.nan || a.isNan || b.isNan then F.qnan
  else if x.ovf then
    (if a.isZero || b.isZero then F.qnan else F.signed neg (if F.ieee then F.inf else F.maxFin))
  else if a.isInf || b.isInf then (if v.isZero then F.qnan else (F.ofVal 0 (.inf neg)).1)
  else
    match FVal.mul a b with
    | none => F.qnan
    | some ab =>
      match FVal.mul v ab with
      | none => F.qnan
      | some p => (F.ofVal 0 p).1

/-- Bytes of a drain's element. -/
def drainSize (r : Nat) : Nat := fmtWidth (drainFmt (recBody r 655 3)) / 8
/-- The address of the element of row m and column n (spec/10 R194). -/
def drainAddr (r m n : Nat) : Nat := recBody r 712 56 + m * recBody r 680 32 + n * drainSize r
/-- The locations of a row. -/
def drainLocs (r m : Nat) : Nat := (drainAddr r m 256 - 1) / 8 - drainAddr r m 0 / 8 + 1
/-- How many locations at the start of row m the row before it reaches into: they are written with that row's elements (spec/08 R138). -/
def drainShared (r m : Nat) : Nat :=
  if m = 0 then 0 else min (drainLocs r m) ((drainAddr r (m - 1) 256 - 1) / 8 + 1 - drainAddr r m 0 / 8)
/-- The locations of a whole drain, each once. -/
def drainTotal (r : Nat) : Nat := ((List.range 256).map (fun m => drainLocs r m - drainShared r m)).sum
/-- The columns of the elements in location j of row m. -/
def drainCols (r m j : Nat) : List Nat := (List.range 256).filter (fun n => drainAddr r m n / 8 == drainAddr r m 0 / 8 + j)
/-- The later rows that reach into location j of row m. -/
def drainMore (r m j : Nat) : List Nat :=
  ((List.range (255 - m)).map (· + m + 1)).filter (fun k => decide (drainAddr r k 0 / 8 ≤ drainAddr r m 0 / 8 + j))
/-- Write the elements of row m in its location j; a fault comes with its address. The cache sees a line with its first location of the row. -/
def State.drainPiece (s : State) (t : Nat) (tab : BedTable) (x : Task) (b : Bank) (m j : Nat) : State × Option (Nat × Word) :=
  let r := x.record
  let va := drainAddr r m ((drainCols r m j).headD 0)
  let data := ((drainCols r m j).map (fun n =>
    leBytes (drainElement (recBody r 655 3) b.fe (recBody r 32 32) (recBody r 0 32) (FMap.getD b.ents (256 * m + n) Acc.zero)) (drainSize r))).flatten
  match tab.check .copyWrite (.ofNat 64 va) (drainSize r) with
  | .inl _ => (s, some (3, .ofNat 64 va))
  | .inr h =>
    match s.taskPut (s.targetBed h (tab.spills h.index) t (.ofNat 64 va)) x.asid x.job data x.tseq (j != 0 && decide (8 ≤ va % 64)) with
    | (s1, some c, _) => (s1, some (c, .ofNat 64 va))
    | (s1, none, _) => (s1, none)
/-- Write one location of a drain, with the elements of every row that reaches into it, in their order (spec/10 R194, spec/08 R138). -/
def State.drainWrite (s : State) (t : Nat) (tab : BedTable) (x : Task) (b : Bank) (m j : Nat) : State × Option (Nat × Word) :=
  (drainMore x.record m j).foldl (fun p k =>
    match p with
    | (s, some f) => (s, some f)
    | (s, none) => s.drainPiece t tab x b k (drainAddr x.record m 0 / 8 + j - drainAddr x.record k 0 / 8)) (s.drainPiece t tab x b m j)

/-- A drain is over: its task is finished, and the next owed drain begins. -/
def State.drainEnd (s : State) (t key : Nat) (x : Task) (b : Bank) : State :=
  let s1 := (s.putEngine key { s.engine key with drain := none }).putTask t
    { x with finished := true, nan := b.ents.any (fun kv => kv.2.nan), ovf := b.ents.any (fun kv => kv.2.ovf) }
  s1.refreshHolds.startDrain t key
/-- DRAIN_DONE (spec R194): the elements of one location are written, the location loc mod 129 of row loc div 129, those of a later row in it
among them; each is its own event, in
any order (spec/08 R138), and after the last the drain is over. The step's operand is the engine's number plus four times loc. -/
def execDrainDone (tile eng : Nat) (s : State) : Out :=
  let loc := eng / 4
  let key := quadKey tile (eng % 4)
  let e := s.engine key
  .next <| match e.drain.bind (s.task? tile) with
  | none => s
  | some x =>
    match s.taskTable tile x.asid with
    | none => s.wantTable tile 0 x.job
    | some tab =>
      let b := e.bank (recBank x.record)
      let m := loc / 129
      let j := loc % 129
      if 256 ≤ m || drainLocs x.record m ≤ j || j < drainShared x.record m || e.drained.testBit loc then s
      else if b.bad then ((s.logError tile 5 true 0 0 x.tseq).faultRunning tile x 5 0).startDrain tile key
      else if s.taskWaits tile tab .copyWrite x.asid (.ofNat 64 (drainAddr x.record m ((drainCols x.record m j).headD 0))) 8 1 then s
      else
        (match s.drainWrite tile tab x b m j with
         | (s1, some f) => (s1.faultRunning tile x f.1 f.2).startDrain tile key
         | (s1, none) =>
           let e1 := s1.engine key
           let s2 := s1.putEngine key { e1 with drained := e.drained + 2 ^ loc, drainCount := e.drainCount + 1 }
           if drainTotal x.record ≤ e.drainCount + 1 then s2.drainEnd tile key x b else s2)

/-! ### The end of a task (spec/10 R186, R188) -/

/-- Is the copy combined with this one to write its completion word first: the words are written in ascending TSEQ (spec/10 R199)? -/
def State.wordBefore (s : State) (t : Nat) (x : Task) : Bool :=
  (s.tasksOf t).any (fun y => y.isCopy && y.finished && y.fin == 0 && decide (y.tseq < x.tseq)
    && (x.partner == some y.tseq || y.partner == some x.tseq))
/-- TASK_FINISH (spec R186): the completion word is written, the successors are decremented in order, the task is retired. -/
def execTaskFinish (tile tseq : Nat) (s : State) : Out :=
  .next <| match s.task? tile tseq with
  | none => s
  | some x =>
    if !x.finished || s.wordBefore tile x then s
    else if x.fin = 0 && recCw x.record != 0 then
      (match s.taskTable tile x.asid with
       | none => s.wantTable tile 0 x.job
       | some tab =>
         if s.taskWaits tile tab .copyWrite x.asid (.ofNat 64 (recCw x.record)) 8 1 then s
         else match s.taskWrite tile tab x.asid x.job (.ofNat 64 (recCw x.record)) (leBytes (completionWord x) 8) 8 tseq with
         | (s1, some c, _) => (if x.isCopy then s1.cpUndefined tile tab x else s1).faultRunning tile x c (.ofNat 64 (recCw x.record))
         | (s1, none, _) => (s1.settle x.item true).finishTask tile { x with fin := 1 } (recSuccs x.record))
    else s.finishTask tile { x with fin := max x.fin 1 } ((recSuccs x.record).drop (x.fin - 1))

/-! ### The save record of an engine's slot (spec/11 R213) -/

/-- The panel physical address of an engine's slot. -/
def State.saveSlot (s : State) (t eng : Nat) : Nat :=
  let v := (s.tile t).esave.toNat
  panelAddr (colKey t (bits v 32 4)) (bits v 25 7 * 2 ^ 25 + eng * 2 ^ 23)
/-- The save record, at offset 0x0024_0000 of the slot: in its first dword the valid bit at 63, the kinds of banks 1 and 0 at 17 and 16 (1 for
FE96) and JOB in bits 15 to 0; in its second the bytes of channel B above those of channel A (log 40). -/
def saveRecord (job : Nat) (fe0 fe1 : Bool) (na nb : Nat) : Nat :=
  (2 ^ 63 + (if fe1 then 2 ^ 17 else 0) + (if fe0 then 2 ^ 16 else 0) + job % 2 ^ 16) + (nb * 2 ^ 32 + na) * 2 ^ 64
/-- The save record of an engine's slot, as memory holds it. -/
def State.recordOf (s : State) (t eng : Nat) : Nat := s.mem.read (s.saveSlot t eng + 0x240000) 16
/-- The job for which an engine's slot is valid; a tile without a save area has none. -/
def State.savedFor (s : State) (t eng : Nat) : Option Nat :=
  let r := s.recordOf t eng
  if bits (s.tile t).esave.toNat 63 1 = 1 && bits r 63 1 = 1 then some (bits r 0 16) else none
/-- Has a tile a slot valid for a job? -/
def State.tileSaved (s : State) (t job : Nat) : Bool := (List.range 4).any (fun e => s.savedFor t e == some job)
/-- A slot is marked invalid. -/
def State.dropSlot (s : State) (t eng : Nat) : State :=
  let a := s.saveSlot t eng + 0x240000
  { s with mem := s.mem.write a 8 (s.recordOf t eng % 2 ^ 63) }.heal a 8
/-- The slots of a job that ends are invalid, on every tile. -/
def State.dropSlots (s : State) (job : Nat) : State :=
  (List.range 64).foldl (fun s t => (List.range 4).foldl (fun s e => if s.savedFor t e = some job then s.dropSlot t e else s) s) s

end Sys2Proof.Machine
end

