-- ==== Sys2Proof/Machine/Float.lean ====
section
/-! DEFINITION. The meanings of the scalar floating-point instructions (spec/17 R344 to R349). -/

namespace Sys2Proof.Machine

/-- The format code of an FS field: FP32, FP16, BF16, I32 (spec/13 R261). -/
def fsCode (f : BitVec 2) : Nat := if f.toNat = 3 then 10 else f.toNat
/-- The format an instruction works in: PFA under a prefix, else what FS names (spec/13 R262, R266). -/
def Strand.fmt (t : Strand) (f : BitVec 2) : Nat := if t.pp then t.pfa else fsCode f
/-- A prefix is accepted with FS 0, PFA among these codes and PFB 0 (spec/17 R345). -/
def accepts (f : BitVec 2) (l : List Nat) : Accepts := some (fun a b => f.toNat == 0 && l.contains a && b == 0)
/-- The small floating formats E4M3, E5M2 and E2M1. -/
def smallFloats : List Nat := [3, 4, 5]
/-- A result of a format in a g register: the sign above an I format, zeros above the others (spec/13 R249). -/
def fmtWord (code v : Nat) : Word := if isSigned code then sextW v (fmtWidth code) else zextW v (fmtWidth code)
/-- The value of a scalar float operand (spec/17 R344). -/
def fval (code : Nat) (w : Word) : FVal := (ffmt code).value (w.toNat % 2 ^ fmtWidth code)
/-- The bits of a scalar float operand. -/
def fbits (code : Nat) (w : Word) : Nat := w.toNat % 2 ^ fmtWidth code
/-- A result with its flags ORed into SS. -/
def Strand.setF (t : Strand) (d : GReg) (code : Nat) (r : Nat × Nat) : Strand := (t.setG d (fmtWord code r.1)).orFlags r.2

/-- d := f(s1, s2) in a format, with flags; op is given the format code and the rounding mode. -/
def State.fop2 (s : State) (word : Nat) (f : BitVec 2) (d : GReg) (a b : GSrc)
    (op : Nat → Nat → Word → Word → Nat × Nat) : Out :=
  s.issue word 4 (accepts f smallFloats) noLimit (fun _ => [gsrc a, gsrc b]) [] (fun x =>
    let c := x.o.fmt f
    x.done x.s (x.t.setF d c (op c x.o.rm (x.o.gv a.reg) (x.o.gv b.reg))))
/-- d := f(s1, s2, s3). -/
def State.fop3 (s : State) (word : Nat) (f : BitVec 2) (d : GReg) (a b e : GSrc)
    (op : Nat → Nat → Word → Word → Word → Nat × Nat) : Out :=
  s.issue word 4 (accepts f smallFloats) noLimit (fun _ => [gsrc a, gsrc b, gsrc e]) [] (fun x =>
    let c := x.o.fmt f
    x.done x.s (x.t.setF d c (op c x.o.rm (x.o.gv a.reg) (x.o.gv b.reg) (x.o.gv e.reg))))
/-- d := f(s1). -/
def State.fop1 (s : State) (word : Nat) (f : BitVec 2) (d : GReg) (a : GSrc) (op : Nat → Nat → Word → Nat × Nat) : Out :=
  s.issue word 4 (accepts f smallFloats) noLimit (fun _ => [gsrc a]) [] (fun x =>
    let c := x.o.fmt f
    x.done x.s (x.t.setF d c (op c x.o.rm (x.o.gv a.reg))))

/-! The operations on operand bits: format code, rounding mode, operands; the result's bits and its flags. -/

def fAdd (c m : Nat) (a b : Word) : Nat × Nat := (ffmt c).add m (fval c a) (fval c b)
def fSub (c m : Nat) (a b : Word) : Nat × Nat := (ffmt c).add m (fval c a) (fval c b).negate
def fMul (c m : Nat) (a b : Word) : Nat × Nat := (ffmt c).mul m (fval c a) (fval c b)
def fDiv (c m : Nat) (a b : Word) : Nat × Nat := (ffmt c).div m (fval c a) (fval c b)
def fFma (c m : Nat) (a b e : Word) : Nat × Nat := (ffmt c).fma m (fval c a) (fval c b) (fval c e)
def fFms (c m : Nat) (a b e : Word) : Nat × Nat := (ffmt c).fma m (fval c a) (fval c b) (fval c e).negate
def fSqrt (c m : Nat) (a : Word) : Nat × Nat := (ffmt c).sqrt m (fval c a)
def fMinmax (max prop : Bool) (c _m : Nat) (a b : Word) : Nat × Nat := (ffmt c).minmax max prop (fbits c a) (fbits c b)
/-- s1 with its sign bit cleared (spec/17 R347). -/
def fAbs (c _m : Nat) (a : Word) : Nat × Nat := (fbits c a % 2 ^ (fmtWidth c - 1), 0)
/-- s1 with its sign bit inverted. -/
def fNeg (c _m : Nat) (a : Word) : Nat × Nat := ((fbits c a + 2 ^ (fmtWidth c - 1)) % 2 ^ fmtWidth c, 0)
/-- s1 with the sign bit of s2. -/
def fSgnj (c _m : Nat) (a b : Word) : Nat × Nat :=
  (fbits c a % 2 ^ (fmtWidth c - 1) + bits b.toNat (fmtWidth c - 1) 1 * 2 ^ (fmtWidth c - 1), 0)
/-- 1 where the comparison holds. -/
def fCmp (op c _m : Nat) (a b : Word) : Nat × Nat :=
  let r := fcmp op (fval c a) (fval c b)
  (if r.1 then 1 else 0, r.2)

/-- FADD (spec R346): Scalar floating addition. -/
def execFadd (f : BitVec 2) (d : GReg) (a : GSrc) (b : GSrc) (s : State) : Out :=
  s.fop2 (encode (.fadd f d a b)) f d a b fAdd
/-- FSUB (spec R346): Scalar floating subtraction. -/
def execFsub (f : BitVec 2) (d : GReg) (a : GSrc) (b : GSrc) (s : State) : Out :=
  s.fop2 (encode (.fsub f d a b)) f d a b fSub
/-- FMUL (spec R346): Scalar floating multiplication. -/
def execFmul (f : BitVec 2) (d : GReg) (a : GSrc) (b : GSrc) (s : State) : Out :=
  s.fop2 (encode (.fmul f d a b)) f d a b fMul
/-- FDIV (spec R346): Scalar floating division. -/
def execFdiv (f : BitVec 2) (d : GReg) (a : GSrc) (b : GSrc) (s : State) : Out :=
  s.fop2 (encode (.fdiv f d a b)) f d a b fDiv
/-- FMIN (spec R243): Floating minimum, ignoring a single quiet NaN. -/
def execFmin (f : BitVec 2) (d : GReg) (a : GSrc) (b : GSrc) (s : State) : Out :=
  s.fop2 (encode (.fmin f d a b)) f d a b (fMinmax false false)
/-- FMAX (spec R243): Floating maximum, ignoring a single quiet NaN. -/
def execFmax (f : BitVec 2) (d : GReg) (a : GSrc) (b : GSrc) (s : State) : Out :=
  s.fop2 (encode (.fmax f d a b)) f d a b (fMinmax true false)
/-- FMINP (spec R243): Floating minimum that propagates NaN. -/
def execFminp (f : BitVec 2) (d : GReg) (a : GSrc) (b : GSrc) (s : State) : Out :=
  s.fop2 (encode (.fminp f d a b)) f d a b (fMinmax false true)
/-- FMAXP (spec R243): Floating maximum that propagates NaN. -/
def execFmaxp (f : BitVec 2) (d : GReg) (a : GSrc) (b : GSrc) (s : State) : Out :=
  s.fop2 (encode (.fmaxp f d a b)) f d a b (fMinmax true true)
/-- FSGNJ (spec R347): Replaces the sign bit of s1 with that of s2. -/
def execFsgnj (f : BitVec 2) (d : GReg) (a : GSrc) (b : GSrc) (s : State) : Out :=
  s.fop2 (encode (.fsgnj f d a b)) f d a b fSgnj
/-- FFMA (spec R346): Fused multiply-add with one rounding. -/
def execFfma (f : BitVec 2) (d : GReg) (a : GSrc) (b : GSrc) (c : GSrc) (s : State) : Out :=
  s.fop3 (encode (.ffma f d a b c)) f d a b c fFma
/-- FFMS (spec R346): Fused multiply-subtract with one rounding. -/
def execFfms (f : BitVec 2) (d : GReg) (a : GSrc) (b : GSrc) (c : GSrc) (s : State) : Out :=
  s.fop3 (encode (.ffms f d a b c)) f d a b c fFms
/-- FSQRT (spec R346): Scalar floating square root. -/
def execFsqrt (f : BitVec 2) (d : GReg) (a : GSrc) (s : State) : Out := s.fop1 (encode (.fsqrt f d a)) f d a fSqrt
/-- FABS (spec R347): Clears the sign bit. -/
def execFabs (f : BitVec 2) (d : GReg) (a : GSrc) (s : State) : Out := s.fop1 (encode (.fabs f d a)) f d a fAbs
/-- FNEG (spec R347): Inverts the sign bit. -/
def execFneg (f : BitVec 2) (d : GReg) (a : GSrc) (s : State) : Out := s.fop1 (encode (.fneg f d a)) f d a fNeg
/-- A comparison: d := 0 or 1, whatever the operand format. -/
def State.fcompare (s : State) (word op : Nat) (f : BitVec 2) (d : GReg) (a b : GSrc) : Out :=
  s.issue word 4 (accepts f smallFloats) noLimit (fun _ => [gsrc a, gsrc b]) [] (fun x =>
    let r := fCmp op (x.o.fmt f) x.o.rm (x.o.gv a.reg) (x.o.gv b.reg)
    x.done x.s ((x.t.setG d (.ofNat 64 r.1)).orFlags r.2))
/-- FEQ (spec R347): Floating equality comparison. -/
def execFeq (f : BitVec 2) (d : GReg) (a : GSrc) (b : GSrc) (s : State) : Out :=
  s.fcompare (encode (.feq f d a b)) 0 f d a b
/-- FLT (spec R347): Floating less-than comparison. -/
def execFlt (f : BitVec 2) (d : GReg) (a : GSrc) (b : GSrc) (s : State) : Out :=
  s.fcompare (encode (.flt f d a b)) 1 f d a b
/-- FLE (spec R347): Floating less-or-equal comparison. -/
def execFle (f : BitVec 2) (d : GReg) (a : GSrc) (b : GSrc) (s : State) : Out :=
  s.fcompare (encode (.fle f d a b)) 2 f d a b
/-- FCLASS (spec R348): Writes the class mask of a floating value. -/
def execFclass (f : BitVec 2) (d : GReg) (a : GSrc) (s : State) : Out := s.issue (encode (.fclass f d a)) 4 (accepts f smallFloats) noLimit (fun _ => [gsrc a]) [] (fun x =>
    let c := x.o.fmt f
    x.done x.s (x.t.setG d (.ofNat 64 ((ffmt c).classify (fbits c (x.o.gv a.reg))))))
/-- The s2 codes of a conversion: without a prefix a code outside lo to hi is a reserved field; with one s2 must be 0 (spec/14
R276). -/
def cvtLimit (word : Nat) (e : BitVec 4) (lo hi : Nat) : State → Strand → Option Trip :=
  fun _ t => if !t.pp && (decide (e.toNat < lo) || decide (hi < e.toNat)) then some (reserved word) else none
/-- The prefixes of a conversion: FS 0, s2 0, a small floating PFA, PFB within lo to hi (spec/17 R345). -/
def cvtAccepts (f : BitVec 2) (e : BitVec 4) (lo hi : Nat) : Accepts :=
  some (fun a b => f.toNat == 0 && e.toNat == 0 && smallFloats.contains a && decide (lo ≤ b) && decide (b ≤ hi))
/-- The second format of a conversion: PFB under a prefix, else s2. -/
def Strand.fmt2 (t : Strand) (e : BitVec 4) : Nat := if t.pp then t.pfb else e.toNat
/-- FCVT (spec R349): Converts between floating formats. -/
def execFcvt (f : BitVec 2) (d : GReg) (a : GSrc) (e : BitVec 4) (s : State) : Out := s.issue (encode (.fcvt f d a e)) 4 (cvtAccepts f e 0 5) (cvtLimit (encode (.fcvt f d a e)) e 0 5) (fun _ => [gsrc a]) [] (fun x =>
    let c := x.o.fmt2 e
    x.done x.s (x.t.setF d c ((ffmt c).ofVal x.o.rm (fval (x.o.fmt f) (x.o.gv a.reg)))))
/-- FCVTI (spec R349): Converts a floating value to a saturated integer. -/
def execFcvti (f : BitVec 2) (d : GReg) (a : GSrc) (e : BitVec 4) (s : State) : Out := s.issue (encode (.fcvti f d a e)) 4 (cvtAccepts f e 8 15) (cvtLimit (encode (.fcvti f d a e)) e 8 15) (fun _ => [gsrc a]) [] (fun x =>
    let c := x.o.fmt2 e
    x.done x.s (x.t.setF d c (toInt c x.o.rm (fval (x.o.fmt f) (x.o.gv a.reg)))))
/-- ICVTF (spec R349): Converts an integer to a floating format. -/
def execIcvtf (f : BitVec 2) (d : GReg) (a : GSrc) (e : BitVec 4) (s : State) : Out := s.issue (encode (.icvtf f d a e)) 4 (cvtAccepts f e 8 15) (cvtLimit (encode (.icvtf f d a e)) e 8 15) (fun _ => [gsrc a]) [] (fun x =>
    let c := x.o.fmt f
    x.done x.s (x.t.setF d c ((ffmt c).round x.o.rm (intDy (intVal (x.o.fmt2 e) (x.o.gv a.reg).toNat)))))

end Sys2Proof.Machine
end

