-- ==== Sys2Proof/Machine/Queues.lean ====
section
/-! DEFINITION. Work queues and their front ends (spec/04 R57 to
R61), event rings (spec/04 R63) and the request of LAUNCH (spec/18 R375). -/

namespace Sys2Proof.Machine

/-! ### Accesses under LOC (spec/04 R57) -/

/-- Read under a queue's LOC: 2 is device memory, 0 and 1 host memory through a port of the die. -/
def State.locRead (s : State) (loc a len : Nat) : State × Option Nat :=
  if loc = 2 then s.physRead a len else (s, some (s.hostMem.read a len))
/-- Write under a queue's LOC. -/
def State.locWrite (s : State) (loc a : Nat) (data : List Byte) : State × Bool :=
  if loc = 2 then s.physWrite a data else ({ s with hostMem := s.hostMem.putBytes a data }, true)

/-! ### Queue registers (spec/04 R57, R59, R60) -/

/-- A queue enters Error: it stops fetching and QueueError is raised; code is a reject code of spec/05 R72, or 0.
DESIGN CHOICE (log 37): a Launch that was fetched before the queue entered Error goes on: accepted it advances QHEAD, rejected it puts 9 in ERRC
and raises a QueueError of its own; spec/04 R60 says what the queue stops fetching and nothing of what it has fetched. -/
def State.queueError (s : State) (q errc code : Nat) : State :=
  (s.putQueue q { s.queue q with state := .error, errc := errc, held := false, skip := false }).raiseQueue 0x40 q 0 0 (errc + code * 256)

/-- A record that a queue's front end holds for an inbox is withdrawn. -/
def State.dropHeld (s : State) (q : Nat) : State :=
  let gone := (s.msgs.filter (fun kv => match kv.2 with | .launchRec _ r => r.queue == q | _ => false)).map (·.1)
  let s1 := gone.foldl State.unsend s
  { s1 with tiles := FMap.mapVals s1.tiles (fun _ (t : Tile) => { t with inbox := t.inbox.filter (fun r => r.queue != q) }) }

/-- The fields of QCTL that a write always stores. PRIO and WEIGHT take effect at the next arbitration round, and at once in a queue that is
not enabled, which takes part in none (log 37). -/
def Queue.setCtl (x : Queue) (v : Nat) : Queue :=
  let w := max 1 (bits v 40 8)
  let p := bits v 37 3
  { x with
    evport := bits v 48 3, weight := w, prio := p, vec := bits v 0 11
    curPrio := if x.en then x.curPrio else p, curWeight := if x.en then x.curWeight else w }
/-- The fields of QCTL that a write stores while EN is 0. -/
def Queue.setCfg (x : Queue) (v : Nat) : Queue :=
  if x.en then x else { x with loc := bits v 60 2, log2n := bits v 32 5, asid := bits v 20 12 }
/-- Is the stored tail further ahead than the ring is long (spec/04 R60, code 3)? -/
def Queue.overrun (x : Queue) (tail : BitVec 32) : Bool := decide (2 ^ x.log2n < (tail - x.head).toNat)
/-- Is a new count behind the previous one (spec/04 R60, code 8)? -/
def Queue.behind (x : Queue) (tail : BitVec 32) : Bool :=
  decide (1 ≤ (x.tail - tail).toNat) && decide ((x.tail - tail).toNat ≤ 2 ^ 31 - 1)

/-- EN is set: the configuration is judged, then a doorbell stored while EN was 0. -/
def State.enableQueue (s : State) (q : Nat) (x : Queue) : State :=
  let y := { x with en := true }
  if x.state == .error then s.putQueue q y
  else if x.loc = 3 || x.log2n < 4 || 16 < x.log2n then (s.putQueue q y).queueError q 7 0
  else if x.late then (s.putQueue q y).queueError q 8 0
  else if x.overrun x.tail then (s.putQueue q y).queueError q 3 0
  else s.putQueue q { y with state := .active }

/-- A write of QCTL (spec/04 R57). -/
def State.writeQctl (s : State) (q v : Nat) : State :=
  let x := s.queue q
  let y := (x.setCtl v).setCfg v
  if bits v 62 1 = 1 then
    (s.dropHeld q).putQueue q
      { y with en := false, head := 0, tail := 0, state := .disabled, errc := 0, held := false, late := false, skip := false }
  else if bits v 63 1 = 0 then
    s.putQueue q { y with en := false, state := if x.state == .active then .disabled else x.state }
  else if x.en then s.putQueue q y
  else s.enableQueue q y
/-- A write of QBASE: ignored while EN is 1 (spec/04 R57). -/
def State.writeQbase (s : State) (q : Nat) (v : BitVec 64) : State :=
  let x := s.queue q
  if x.en then s else s.putQueue q { x with base := v }

/-- QUEUE_ENABLE (spec R57): a write of QCTL with EN at 1. -/
def execQueueEnable (q : Nat) (val : BitVec 64) (s : State) : Out :=
  .next (s.writeQctl q (setBits (setBits val 63 1 1) 62 1 0).toNat)
/-- QUEUE_CLEAR (spec R57): writing 1 to CLEAR zeroes QHEAD and the tail, and returns the queue to Disabled. -/
def execQueueClear (q : Nat) (s : State) : Out :=
  let x := s.queue q
  .next ((s.dropHeld q).putQueue q
    { x with en := false, head := 0, tail := 0, state := .disabled, errc := 0, held := false, late := false, skip := false })
/-- DOORBELL (spec R59): stores a new tail count, or puts the queue into Error. -/
def execDoorbell (q : Nat) (tail : BitVec 32) (s : State) : Out :=
  let x := s.queue q
  .next <|
    if x.state == .active then
      (if tail == x.tail then s
       else if x.behind tail then s.queueError q 8 0
       else if x.overrun tail then s.queueError q 3 0
       else s.putQueue q { x with tail := tail })
    else s.putQueue q { x with tail := tail, late := x.late || x.behind tail }

/-! ### Front ends (spec/04 R58 to R61) -/

/-- The lowest free index of a lead gardener's job table. -/
def State.freeJob (s : State) (lead : Nat) : Option Nat :=
  (List.range 1024).find? (fun i => (s.job? (lead * 1024 + i)).isNone)
/-- The pending list of a lead gardener. -/
def State.pendingJobs (s : State) (lead : Nat) : List Job :=
  (s.jobs.map (·.2)).filter (fun j => j.handle / 1024 == lead && j.state == .pending)
/-- Is a lead gardener's pending list or job table full (spec/05 R73)? -/
def State.gardenFull (s : State) (lead : Nat) : Bool := decide (256 ≤ (s.pendingJobs lead).length) || (s.freeJob lead).isNone
/-- Front ends skip the queues whose record has come to a lead gardener without room, until it is accepted (spec/05 R73). -/
def State.markSkips (s : State) (die : Nat) : State :=
  { s with queues := FMap.mapVals s.queues (fun q (x : Queue) =>
      if q / 16384 = die && s.tiles.any (fun kv => kv.2.inbox.any (fun r => r.queue == q) && s.gardenFull kv.1) then
        { x with skip := true }
      else x) }

/-- Has an Active queue entries pending? -/
def Queue.pending (x : Queue) : Bool := x.state == .active && x.head != x.tail
/-- The queues of a die at its highest level with entries pending, ascending, those apart that are skipped. -/
def State.readyQueues (s : State) (die : Nat) : List Nat :=
  let l := s.queues.filter (fun kv => kv.1 / 16384 == die && kv.2.pending && !kv.2.skip)
  let top := l.foldl (fun m kv => max m kv.2.curPrio) 0
  (l.filter (fun kv => kv.2.curPrio == top)).map (·.1)
/-- The queue whose turn it is, how many entries of its turn it has then taken, and whether the turns start anew at the lowest queue (spec/04
R61). -/
def State.pickQueue (s : State) (die : Nat) : Option (Nat × Nat × Bool) :=
  let l := s.readyQueues die
  match l.head? with
  | none => none
  | some lowest =>
    let last := FMap.getD (s.die die).turns (s.queue lowest).curPrio (65536, 0)
    if l.contains last.1 && decide (last.2 < (s.queue last.1).curWeight) then some (last.1, last.2 + 1, false)
    else
      match l.find? (fun q => decide (last.1 < q)) with
      | some q => some (q, 1, false)
      | none => some (lowest, 1, true)
/-- A new arbitration round: PRIO and WEIGHT take effect (spec/04 R57). A round ends when a level's turns start anew, or when no queue has
entries pending (log 37). -/
def State.newRound (s : State) (die : Nat) : State :=
  { s with queues := FMap.mapVals s.queues (fun q (x : Queue) =>
      if q / 16384 = die then { x with curPrio := x.prio, curWeight := x.weight } else x) }
/-- The queue that a front end serves next, with the state after a round that ends; a new round starts with the first entry of the lowest
queue of the highest level. -/
def State.nextQueue (s : State) (die : Nat) : State × Option (Nat × Nat) :=
  let s0 := s.markSkips die
  match s0.pickQueue die with
  | some (q, n, false) => (s0, some (q, n))
  | _ =>
    let s1 := s0.newRound die
    (s1, ((s1.readyQueues die).head?).map (fun q => (q, 1)))

/-- The units of a launch record under a queue's LOC. -/
def State.readUnits (s : State) (loc a : Nat) : Nat → State × Option (List Nat)
  | 0 => (s, some [])
  | n + 1 =>
    match s.readUnits loc a n with
    | (s1, none) => (s1, none)
    | (s1, some l) =>
      match s1.locRead loc (a + 64 * n) 64 with
      | (s2, none) => (s2, none)
      | (s2, some u) => (s2, some (l ++ [u]))

/-- Does an access under a queue's LOC wait at the port of a column (spec/09 R173, spec/11 R226)? -/
def State.locWaits (s : State) (loc a len : Nat) : Bool := loc == 2 && s.waitsPhys a len
/-- Does a unit of the launch record that a ring entry names wait there? -/
def State.recordWaits (s : State) (loc e : Nat) : Bool :=
  bits e 360 8 == 1 && loc == 2 && (List.range (bits e 368 16)).any (fun i => s.locWaits loc (bits e 448 64 + 64 * i) 64)

/-- QHEAD advances by one. -/
def State.advanceHead (s : State) (q : Nat) : State :=
  let x := s.queue q
  s.putQueue q { x with head := x.head + 1, held := false, skip := false }

/-- A Launch entry: its record is read and goes to its lead gardener on class 0; the queue waits for the answer. -/
def State.launchEntry (s : State) (q e : Nat) : State :=
  let x := s.queue q
  match s.readUnits x.loc (bits e 448 64) (bits e 368 16) with
  | (s1, none) => s1.queueError q 6 0
  | (s1, some us) =>
    let u0 := us.headD 0
    if bits u0 180 12 ≠ x.asid then s1.queueError q 5 0
    else
      let lead := bits u0 164 3 * 8 + bits u0 161 3
      let r : InboxRec := ⟨q, x.curPrio, q / 16384, us, bits e 368 16, .ofNat 64 (bits e 384 64), bits e 358 1 == 1, s1.fresh⟩
      (s1.sendFrom (64 + q / 16384) (.launchRec lead r)).putQueue q { x with held := true }

/-- A ring entry that has been read (spec/04 R58, R60). -/
def State.entry (s : State) (q e : Nat) : State :=
  let x := s.queue q
  let kind := bits e 360 8
  if bits e 0 358 ≠ 0 then s.queueError q 1 0
  else if bits e 359 1 ≠ phaseOf x.head.toNat x.log2n then s.queueError q 2 0
  else if 2 < kind || (kind = 1 && bits e 368 16 = 0) then s.queueError q 4 0
  else if kind = 1 then s.launchEntry q e
  else if kind = 0 then s.advanceHead q
  else if x.loc = 2 && !s.readable (bits e 448 64) 8 then s.queueError q 6 0
  else
    (s.putQueue q { x with markers := x.markers ++
      [⟨.ofNat 64 (bits e 448 64), .ofNat 64 (bits e 384 64), bits e 358 1 == 1, x.jobs⟩] }).advanceHead q

/-- The ring slot of an entry number. -/
def Queue.slotAddr (x : Queue) (i : Nat) : Nat := x.base.toNat / 64 * 64 + 64 * (i % 2 ^ x.log2n)

/-- QUEUE_FETCH (spec R61): a front end picks a queue and fetches its entry at QHEAD; while a Launch of the queue whose turn it is has no
answer, it waits, as it does while what it reads waits at the port of a column. ok says whether the reads of host memory that this takes complete: where one does not, the entry or the launch record
is unreadable (spec R60). -/
def State.queueFetch (s : State) (die : Nat) (ok : Bool) : State :=
    if s.head.phase ≠ 5 || !s.dieWorks die then s
    else
      match s.nextQueue die with
      | (s0, none) => s0
      | (s0, some (q, n)) =>
        let x := s0.queue q
        if x.held then s0
        else if s0.locWaits x.loc (x.slotAddr x.head.toNat) 64 then s
        else
          let d := s0.die die
          let s1 := s0.putDie die { d with turns := FMap.set d.turns x.curPrio (q, n) }
          if x.loc ≠ 2 && !ok then s1.queueError q 6 0
          else
            match s1.locRead x.loc (x.slotAddr x.head.toNat) 64 with
            | (s2, none) => s2.queueError q 6 0
            | (s2, some e) => if s2.recordWaits x.loc e then s else s2.entry q e
/-- QUEUE_FETCH of front end 0 to 3; 4 to 7 are the same front ends where a read of host memory does not complete. -/
def execQueueFetch (die : Nat) (s : State) : Out :=
  .next (s.queueFetch (if die < 4 then die else die - 4) (decide (die < 4)))

/-- MARKER_WRITE (spec R58): the first Marker of the queue whose earlier jobs have all completed writes its word. -/
def execMarkerWrite (q : Nat) (s : State) : Out :=
  let x := s.queue q
  .next <|
    match x.markers.find? (fun m => m.jobs.all (fun j => !x.jobs.contains j)) with
    | none => s
    | some m =>
      if s.locWaits x.loc m.addr.toNat 8 then s else
      let s1 := s.putQueue q { x with markers := x.markers.erase m }
      match s1.locWrite x.loc m.addr.toNat (leBytes m.tag.toNat 8) with
      | (s2, false) => s2.queueError q 6 0
      | (s2, true) => if m.evt then s2.raiseQueue 0x42 q 0 m.tag 0 else s2

/-! ### Event rings (spec/04 R63) -/

/-- EVHEAD_WRITE (spec R63): the host has consumed records; buffered events take the room. -/
def execEvheadWrite (port : Nat) (val : BitVec 64) (s : State) : Out :=
  .next ((s.putPort port { s.port port with evhead := val.truncate 32 }).drainEvents port)
/-- EVLOST_READ (spec R63): the read clears the count. -/
def execEvlostRead (port : Nat) (s : State) : Out :=
  let p := s.port port
  .next (((s.putPort port { p with evlost := 0 }).reply (.value p.evlost)).drainEvents port)

/-! ### LAUNCH at the front end (spec/18 R375) -/

/-- The panel physical address of a target, translated at its home as a read. -/
def State.physOf (s : State) (asid : BitVec 12) (g : Target) : State × Option Nat :=
  match g with
  | .column key bed hoff kind _ =>
    if kind == .scratch || !s.tileUp (key / 16) then (s, none)
    else
      match s.translate key asid (cvaOf bed hoff) 0 with
      | (s1, .ok off) => (s1, some (key * 2 ^ 32 + off))
      | (s1, .trip _ _) => (s1, none)
  | _ => (s, none)

/-- A Launch entry as LAUNCH writes it. -/
def launchWord (pa tag lrlen phase evt : Nat) : Nat :=
  pa * 2 ^ 448 + tag * 2 ^ 384 + lrlen * 2 ^ 368 + 2 ^ 360 + phase * 2 ^ 359 + evt * 2 ^ 358

/-- Enter a record in a queue's ring: the status that LAUNCH's d receives. -/
def State.enterLaunch (s : State) (q : Nat) (asid : BitVec 12) (tag : Word) (lrlen : Nat) (evt : Bool) (pa : Nat) :
    State × Nat :=
  let x := s.queue q
  if x.loc ≠ 2 || x.state != .active then (s, 1)
  else if (x.tail - x.head).toNat = 2 ^ x.log2n then (s, 2)
  else if x.asid ≠ asid.toNat then (s, 3)
  else
    let i := x.tail.toNat
    let e := launchWord pa tag.toNat lrlen (phaseOf i x.log2n) (if evt then 1 else 0)
    ((s.physWrite (x.slotAddr i) (leBytes e 64)).1.putQueue q { x with tail := x.tail + 1 }, 0)

/-- Does a LAUNCH wait: the walk at the home of its record, or the write of its ring slot, at the port of a column? -/
def State.launchWaits (s : State) (q : Nat) (g : Target) : Bool :=
  let x := s.queue q
  (match g with | .column key _ _ _ _ => s.tileUp (key / 16) && (s.col key).repair.isSome | _ => false)
  || x.state == .active && s.locWaits x.loc (x.slotAddr x.tail.toNat) 64
/-- LAUNCH_REQUEST (spec R375): the home of the record translates its address, and the front end enters it in the ring. -/
def execLaunchRequest (msg : Nat) (s : State) : Out :=
  .next <| match s.msg? msg with
  | some (.launch h reg tag q asid utag lrlen evt g) =>
    let s0 := s.unsend msg
    let fill := fun (s : State) v => s.sendFrom (64 + q / 16384) (.fill h reg tag v none none)
    if lrlen = 0 then fill s0 5
    else if s.launchWaits q g then s
    else
      (match s0.physOf asid g with
       | (s1, none) => fill s1 4
       | (s1, some pa) =>
         let r := s1.enterLaunch q asid utag lrlen evt pa
         fill r.1 r.2)
  | _ => s

end Sys2Proof.Machine
end

