-- ==== Sys2Proof/Machine/Launch.lean ====
section
/-! DEFINITION. Launch records: their layout (spec/05 R65 to R69), the rules of their levels (R70), the checks of a lead gardener
(R72, spec/07 R118, spec/13 R253, R254), the order of its inbox and acceptance (R73). -/

namespace Sys2Proof.Machine

/-! ### Layout (spec/05 R65 to R69) -/

/-- A level descriptor. -/
def levelOf (u k : Nat) : Level := ⟨bits u (64 * k + 36) 4, bits u (64 * k + 33) 3, bits u (64 * k) 32⟩
/-- The half of a unit that a predecessor entry lies in. -/
def predWord (us : List Nat) (j : Nat) : Nat := bits ((us[3 + j / 2]?).getD 0) (256 * (j % 2)) 256
/-- A predecessor entry. -/
def predOf (w : Nat) : Pred := ⟨bits w 200 56, bits w 136 56, bits w 72 56, bits w 0 32⟩
/-- The fields of a launch record. -/
def launchOf (us : List Nat) : LaunchRec :=
  let a := us.headD 0
  let b := (us[1]?).getD 0
  let c := (us[2]?).getD 0
  { seq := bits a 456 56, entry := bits a 392 56, cwaddr := bits a 328 56, goaddr := bits a 264 56, handler := bits a 200 56
    asid := bits a 180 12, nlev := bits a 176 4, npred := bits a 171 5, slotcap := bits a 167 4, prow := bits a 164 3
    pcol := bits a 161 3, prows := bits a 157 4, pcols := bits a 153 4, bedtab := bits b 470 42, bedn := bits b 461 9
    cutn := bits b 452 9, cuttab := bits b 406 42
    args := [.ofNat 64 (bits b 192 64), .ofNat 64 (bits b 128 64), .ofNat 64 (bits b 64 64), .ofNat 64 (bits b 0 64)]
    levels := (List.range (min (bits a 176 4) 8)).map (levelOf c)
    preds := (List.range (bits a 171 5)).map (fun j => predOf (predWord us j)) }

/-- Every reserved field of a launch record is zero, and so is every descriptor at or above NLEV and the upper half of a last unit
that holds one entry (spec/05 R65 to R69). -/
def reservedZero (us : List Nat) : Bool :=
  let a := us.headD 0
  let b := (us[1]?).getD 0
  let c := (us[2]?).getD 0
  let n := bits a 176 4
  let m := bits a 171 5
  [(448, 8), (384, 8), (320, 8), (256, 8), (192, 8), (0, 153)].all (fun p => bits a p.1 p.2 == 0)
  && bits b 448 4 == 0 && bits b 256 150 == 0
  && (List.range 8).all (fun k => if k < n then bits c (64 * k + 40) 24 == 0 && bits c (64 * k + 32) 1 == 0 else bits c (64 * k) 64 == 0)
  && (List.range m).all (fun j =>
    let w := predWord us j
    bits w 192 8 == 0 && bits w 128 8 == 0 && bits w 32 40 == 0)
  && (m % 2 == 0 || predWord us m == 0)

/-! ### Levels (spec/05 R70) -/

/-- The strands of one instance of level k. -/
def instanceSize (l : List Level) (k : Nat) : Nat := (l.drop (k + 1)).foldl (fun n v => n * v.count) 1
/-- N, the strands of the job. -/
def LaunchRec.total (l : LaunchRec) : Nat := l.levels.foldl (fun n v => n * v.count) 1
/-- The effective domain of each level, from that of the level above it. -/
def effectiveDomains (above : Nat) : List Level → List Nat
  | [] => []
  | v :: l => let d := if v.domain = 5 then above else v.domain
              d :: effectiveDomains d l
/-- No level's domain is wider than the effective domain above it. -/
def domainsOk (above : Nat) : List Level → Bool
  | [] => true
  | v :: l => if v.domain = 5 then domainsOk above l else decide (v.domain < 5) && decide (above ≤ v.domain) && domainsOk v.domain l
/-- The scope of a domain. -/
def domainScope (d : Nat) : Nat :=
  match d with
  | 0 => 6 | 1 => 4 | 2 => 3 | 3 => 2 | _ => 1
/-- The most strands of one instance in a unit of a domain; plot and free have no bound. -/
def instanceFits (cap domain n : Nat) : Bool :=
  match domain with
  | 1 => decide (n ≤ cap * 768)
  | 2 => decide (n ≤ cap * 192)
  | 3 => decide (n ≤ cap * 48)
  | 4 => decide (n ≤ cap)
  | _ => true

/-! ### Cutting tables (spec/13 R253, R254) -/

/-- May an instruction stand at position i of a recipe of this register? -/
def recipeInsOk (treg i w : Nat) : Bool :=
  let src := fun (c : Nat × Bool) => !c.2 && (decide (0 < i) || c.1 != treg)
  (w % 4 == 3 || decide (w < 65536)) &&
  match recipeIns w with
  | .value d srcs _ => d == treg && srcs.all src
  | .srd d n => d == treg && specialAssigned n
  | .xget d _ => d == treg
  | .load d td b tb _ _ _ => d == treg && !td && src (b, tb)
  | .none => false
/-- The recipe of an entry of a cutting table; none where it is not valid. -/
def recipeEntry (w : Nat) : Option Recipe :=
  let treg := bits w 3 5
  let n := bits w 0 3
  let ins := (List.range n).map (fun i => bits w (32 + 32 * i) 32)
  if bits w 160 96 = 0 && bits w 8 24 = 0 && treg < 24 && 1 ≤ n && n ≤ 4 && bits w (32 + 32 * n) (32 * (4 - n)) = 0
    && ((List.range n).zip ins).all (fun p => recipeInsOk treg p.1 p.2) then some ⟨treg, ins⟩ else none
/-- The recipes of a table; none where an entry is not valid. -/
def recipesOf (ws : List Nat) : Option (List Recipe) :=
  if ws.all (fun w => (recipeEntry w).isSome) then some (ws.filterMap recipeEntry) else none

/-! ### Reading the tables -/

/-- Read n entries of a table by panel physical address. -/
def State.physList (s : State) (pa size : Nat) : Nat → State × Option (List Nat)
  | 0 => (s, some [])
  | n + 1 =>
    match s.physList pa size n with
    | (s1, none) => (s1, none)
    | (s1, some l) =>
      match s1.physRead (pa + size * n) size with
      | (s2, none) => (s2, none)
      | (s2, some v) => (s2, some (l ++ [v]))
/-- The beds of a launch, as far as they are valid by themselves. -/
def State.readBeds (s : State) (l : LaunchRec) : State × Option (List Bed) :=
  if l.bedn = 0 || 256 < l.bedn || l.bedtab % 64 ≠ 0 then (s, none)
  else
    match s.physList l.bedtab 64 l.bedn with
    | (s1, some ws) => (s1, bedsOf ws)
    | (s1, none) => (s1, none)
/-- The recipes of a launch; no table with CUTN 0. -/
def State.readCuts (s : State) (l : LaunchRec) : State × Option (List Recipe) :=
  if l.cutn = 0 then (s, some [])
  else if 256 < l.cutn || l.cuttab % 64 ≠ 0 then (s, none)
  else
    match s.physList l.cuttab 32 l.cutn with
    | (s1, some ws) => (s1, recipesOf ws)
    | (s1, none) => (s1, none)

/-- Does a read of the launch's tables wait at the port of a column (spec/09 R173, spec/11 R226)? -/
def State.tablesWait (s : State) (l : LaunchRec) : Bool :=
  decide (l.bedn ≤ 256) && (List.range l.bedn).any (fun i => s.waitsPhys (l.bedtab + 64 * i) 64)
  || decide (l.cutn ≤ 256) && (List.range l.cutn).any (fun i => s.waitsPhys (l.cuttab + 32 * i) 32)

/-! ### The checks (spec/05 R72) -/

/-- The tiles of a plot. -/
def LaunchRec.plot (l : LaunchRec) : List Nat := rectTiles l.prow l.pcol l.prows l.pcols
/-- The grid's rows: 7 after GridReduced (spec/03 R45). -/
def State.gridRows (s : State) : Nat := if s.head.grid7 then 7 else 8
/-- Does the plot lie in the grid, on live tiles? DESIGN CHOICE (log 37): PROWS or PCOLS of 0, outside the 1 to 8 of spec/05 R66, fails this
check of R72, which names no value 0. -/
def State.plotOk (s : State) (l : LaunchRec) : Bool :=
  decide (1 ≤ l.prows) && decide (1 ≤ l.pcols) && decide (l.prow + l.prows ≤ s.gridRows) && decide (l.pcol + l.pcols ≤ 8)
  && l.plot.all s.tileLive
/-- Does a bed of the table hold this aligned address? -/
def addrOk (beds : List Bed) (align va : Nat) : Bool := va % align == 0 && beds.any (fun b => b.holds va)
/-- Does another job of the address space hold records on a tile with a different BEDTAB (spec/05 R72, R78)? -/
def State.bedConflict (s : State) (asid bedtab t : Nat) : Bool :=
  (s.tile t).recs.any (fun kv => kv.2.state != .free && kv.2.asid == asid
    && (match s.job? kv.2.job with | some j => j.lrec.bedtab != bedtab | none => false))

/-- The reject code of a record: the lowest-numbered check that it fails, or 0. -/
def State.rejectCode (s : State) (us : List Nat) (lrlen : Nat) (l : LaunchRec) (beds : Option (List Bed))
    (cuts : Option (List Recipe)) : Nat :=
  let bs := beds.getD []
  let lv := l.levels
  let ks := List.range lv.length
  let inPlot := fun t => inRect t l.prow l.pcol l.prows l.pcols
  let opt := fun align va => va == 0 || addrOk bs align va
  let checks : List (Nat × Bool) :=
    [(1, lrlen == 3 + (l.npred + 1) / 2),
     (2, reservedZero us),
     (3, decide (1 ≤ l.nlev) && decide (l.nlev ≤ 8) && lv.all (fun v => v.count != 0) && decide (l.total < 2 ^ 40)),
     (4, s.plotOk l),
     (5, domainsOk 0 lv && l.slotcap != 0
        && (ks.zip lv).all (fun p => instanceFits l.slotcap p.2.domain (instanceSize lv p.1))),
     (6, (lv.zip (effectiveDomains 0 lv)).all (fun p => decide (p.1.scope < 11) && decide (domainScope p.2 ≤ p.1.scope))),
     (7, beds.isSome && s.tableOk bs inPlot),
     (8, cuts.isSome),
     (9, addrOk bs 2 l.entry && addrOk bs 8 l.cwaddr && opt 8 l.goaddr && opt 2 l.handler
        && l.preds.all (fun p => addrOk bs 8 p.pcw && opt 8 p.pgo)),
     (10, l.plot.all (fun t => !s.bedConflict l.asid l.bedtab t)),
     (11, l.preds.all (fun p => p.gothr == 0 || p.pgo != 0))]
  ((checks.find? (fun c => !c.2)).map (·.1)).getD 0

/-! ### The inbox (spec/05 R73) -/

/-- The record that an inbox accepts next: the highest PRIO, then the dies in turn after the last one served, then arrival. -/
def Tile.nextRecord (t : Tile) : Option InboxRec :=
  let top := t.inbox.foldl (fun m r => max m r.prio) 0
  let l := t.inbox.filter (fun r => r.prio == top)
  let dies := [(t.inboxDie + 1) % 4, (t.inboxDie + 2) % 4, (t.inboxDie + 3) % 4, t.inboxDie % 4]
  (dies.filterMap (fun d => l.find? (fun r => r.die == d))).head?

/-- A job as it is accepted. -/
def newJob (h : Nat) (l : LaunchRec) (beds : List Bed) (cuts : List Recipe) (r : InboxRec) : Job where
  handle := h
  lrec := l
  beds := tableOf l.bedn l.bedtab beds
  cuts := ⟨l.cutn, l.cuttab, cuts⟩
  queue := some r.queue
  prio := r.prio
  die := r.die
  usertag := r.usertag
  evt := r.evt
  state := .pending
  early := []
  earlyDone := []
  released := false
  status := 0
  created := 0
  ended := 0
  tilesLeft := []
  cancelCause := 0
  tiles := l.plot
  arrival := r.arrival
  hostPorts := []
  preds := List.replicate l.npred 0
  lostKnown := []
  asked := false
  orphan := false

/-- A checked record is accepted: the job takes its handle, QHEAD advances, JobAccepted is raised if asked for. -/
def State.acceptRecord (s : State) (r : InboxRec) (j : Job) : State :=
  let s1 := (s.putJob j).advanceHead r.queue
  let x := s1.queue r.queue
  let s2 := s1.putQueue r.queue { x with jobs := x.jobs ++ [j.handle] }
  if r.evt then s2.raiseJob 0x44 j j.handle else s2

/-- The launch records that have come to a lead gardener stand in its inbox, in the order of their arrival. -/
def State.takeRecords (s : State) (tile : Nat) : State :=
  let come := s.msgs.filterMap (fun kv => match kv.2 with
    | .launchRec t r => if t == tile && s.landed kv.1 then some (kv.1, r) else none
    | _ => none)
  come.foldl (fun s p =>
    let t := s.tile tile
    ((s.unsend p.1).putTile tile { t with inbox := t.inbox ++ [{ p.2 with arrival := s.fresh }] }).bump) s
/-- The last flit of a message has left the mesh: a launch record then stands in the inbox of its lead gardener. -/
def State.arrived (s : State) (id : Nat) : State :=
  match s.msg? id with
  | some (.launchRec t _) => s.takeRecords t
  | _ => s
/-- LAUNCH_RECORD_DELIVER (spec R73): the lead gardener checks the next record of its inbox, and accepts or rejects it; with its
pending list or job table full it takes none. -/
def execLaunchRecordDeliver (tile : Nat) (s0 : State) : Out :=
  let s := s0.takeRecords tile
  .next <|
    if s.tileLive tile && !s.tileUp tile then s
    else
      match (s.tile tile).nextRecord, s.freeJob tile with
      | some r, some i =>
        let l := launchOf r.units
        if s.gardenFull tile || s.tablesWait l then s
        else
          let t := s.tile tile
          let s1 := s.putTile tile { t with inbox := t.inbox.filter (fun x => x.queue != r.queue), inboxDie := r.die }
          let (s2, beds) := s1.readBeds l
          let (s3, cuts) := s2.readCuts l
          (match s3.rejectCode r.units r.lrlen l beds cuts with
           | 0 => s3.acceptRecord r (newJob (tile * 1024 + i) l (beds.getD []) (cuts.getD []) r)
           | c => s3.queueError r.queue 9 c)
      | _, _ => s

end Sys2Proof.Machine
end

