-- ==== Sys2Proof/Machine/Mesh.lean ====
section
/-! DEFINITION. Flits and links: virtual channels and credits (spec/02 R25), injection and error responses (R32), forwarding at an old
site (R37), the choice of a port (R27 to R30), acknowledgements, retries and retraining (R23, R24), links that go Down (R35), scale-up
ports (R39, R40). A message that leaves its node is delivered once every flit of it has crossed (log 5). -/

namespace Sys2Proof.Machine

/-- The virtual channel of a flit: 2 * class, and one more on the escape channel (spec/02 R25). -/
def Flit.channel (f : Flit) : Nat := 2 * f.cls + if f.escape then 1 else 0

/-! ### Flits at a router (spec/02 R23, R25, R32, R37) -/

/-- The flits that stand in one virtual channel of an input port of a router (spec/02 R25). -/
def Router.held (x : Router) (port channel : Nat) : Nat := (x.buf.filter (fun f => f.inp == port && f.channel == channel)).length
/-- The free credits of an output port for a virtual channel: slots of the buffer at its other end that no flit holds or is on its way
to (spec/02 R25, R29). -/
def State.credits (s : State) (r p channel : Nat) : Nat :=
  match linkPeer r p with
  | none => 0
  | some (q, k) =>
    let y := s.router q
    y.slots - y.held k channel - ((FMap.getD y.wire k []).filter (fun f => f.channel == channel)).length
/-- The next message of a node that enters the mesh at its router: the oldest with flits to send whose virtual channel has room. An I/O die in
the safe talkative state sends class 0 only (spec/03 R44). -/
def State.nextFlit (s : State) (r n : Nat) : Option (Nat × Transit × Option (Nat × Nat)) :=
  s.transit.findSome? (fun kv =>
    if kv.2.src ≠ n || kv.2.lost || kv.2.flits ≤ kv.2.sent then none
    else
      match (FMap.get? s.msgs kv.1).bind (fun m => (s.msgDest m).map (fun d => (d, m.trafficClass))) with
      | none => some (kv.1, kv.2, none)
      | some p =>
        if (s.router r).held 4 (2 * p.2) < (s.router r).slots && (n < 64 || p.2 = 0 || s.dieWorks (n - 64)) then some (kv.1, kv.2, some p)
        else none)
/-- One more flit of a message is out of the mesh. -/
def State.flitOut (s : State) (id : Nat) : State :=
  match FMap.get? s.transit id with
  | some t => { s with transit := FMap.set s.transit id { t with got := t.got + 1 } }
  | none => s
/-- Does a router inject for its tile: its tables name the tile there (spec/02 R33, R34)? -/
def Router.serves (x : Router) (r n : Nat) : Bool :=
  decide (72 ≤ r) || (remapState (x.remapAt x.active n) == 1 && remapSite (x.remapAt x.active n) == r)
/-- FLIT_ARRIVAL (spec R23): a flit arrives by a port whose link is Up; one with a bad CRC is counted and sent again. Port 4 is the tile's
own: the next flit of its messages enters the mesh. -/
def execFlitArrival (router port : Nat) (crcOk : Bool) (s : State) : Out :=
  let x := s.router router
  .next <|
    if port = 4 then
      match s.nodeOf router with
      | none => s
      | some n =>
        if !x.serves router n then s
        else
          match s.nextFlit router n with
          | none => s
          | some (id, _, none) => { s with transit := FMap.erase s.transit id }
          | some (id, t, some (d, cls)) =>
            ({ s with transit := FMap.set s.transit id { t with sent := t.sent + 1 } }).holdFlit router
              ⟨id, n, d, cls, false, true, x.active, 4⟩
    else if !s.linkUp router port then s
    else
      match FMap.getD x.wire port [] with
      | [] => s
      | f :: l =>
        if crcOk then (s.putRouter router { x with wire := FMap.set x.wire port l }).holdFlit router { f with inp := port }
        else
          let s1 := s.setPort router port (fun p => { p with crcerr := min (p.crcerr + 1) 255 })
          match linkPeer router port with
          | some (q, k) => (s1.setPort q k (fun p => { p with retries := min (p.retries + 1) 255 })).linkLog router false
          | none => s1
/-- FLIT_ACK (spec R23): over a link that is Up, the oldest flit of a retry buffer has been acknowledged. -/
def execFlitAck (router port : Nat) (s : State) : Out :=
  let x := s.router router
  let sent := FMap.getD x.retry port []
  let wire := match linkPeer router port with | some (q, k) => FMap.getD (s.router q).wire k [] | none => []
  .next <| if s.linkUp router port && decide (wire.length < sent.length) then s.putRouter router { x with retry := FMap.set x.retry port sent.tail } else s

/-! ### Choosing a port (spec/02 R27 to R30) -/

/-- The way a flit takes at a router: ejection, or of its ports those with credits, the one with the most, the first among equals in the
order North, South, West, East, then the links of code 5. -/
def State.choice (s : State) (r : Nat) (f : Flit) : Option (Option Nat) :=
  let l := s.exits r f
  if l.contains none then some none
  else
    (((l.filterMap (·)).filter (fun p => decide (0 < s.credits r p f.channel))).foldl (fun b p =>
      match b with
      | none => some p
      | some c => if s.credits r c f.channel < s.credits r p f.channel then some p else some c) none).map some
/-- The turn of a class at an output port: 0, then 1, then 2 to 6 by round robin after the class served last (spec/02 R27). -/
def Router.turn (x : Router) (e : Option Nat) (cls : Nat) : Nat :=
  if cls < 2 then cls else 2 + (cls + 4 - FMap.getD x.rr (e.getD 4) 6) % 5
/-- The class is served at an output port. -/
def Router.serve (x : Router) (e : Option Nat) (cls : Nat) : Router :=
  if cls < 2 then x else { x with rr := FMap.set x.rr (e.getD 4) cls }
/-- Does a flit meet a port code that names no port (spec/02 R28)? -/
def State.misrouted (s : State) (r : Nat) (f : Flit) : Bool := (s.router r).misroutes f
/-- Send a flit over a link: it stands in the retry buffer until acknowledged. After a down hop on an escape channel its phase is down. -/
def State.sendFlit (s : State) (r p : Nat) (f : Flit) : State :=
  match linkPeer r p with
  | none => s
  | some (q, k) =>
    let x := s.router r
    let f1 := { f with up := f.up && (!f.escape || bits (FMap.getD x.ups f.parity 0) p 1 == 1) }
    let s1 := s.putRouter r { x with retry := FMap.set x.retry p (FMap.getD x.retry p [] ++ [f]) }
    let y := s1.router q
    s1.putRouter q { y with wire := FMap.set y.wire k (FMap.getD y.wire k [] ++ [f1]) }
/-- Does a flit of a router wait for the same way with an earlier turn (spec/02 R27)? -/
def State.beaten (s : State) (r k : Nat) (e : Option Nat) (cls : Nat) : Bool :=
  let x := s.router r
  ((List.range x.buf.length).zip x.buf).any (fun p =>
    p.1 != k && s.choice r p.2 == some e && decide (x.turn e p.2.cls < x.turn e cls))
/-- FLIT_FORWARD (spec R29): the k-th flit of a router leaves by the port that the bank of its parity and the credits give, unless one
whose turn comes earlier waits for that port; one with an invalid port code is discarded with a routing error (spec R28). -/
def execFlitForward (router k : Nat) (s : State) : Out :=
  let x := s.router router
  .next <| match x.buf[k]? with
  | none => s
  | some f =>
    let gone := { x with buf := x.buf.eraseIdx k }
    if s.misrouted router f then
      (s.putRouter router { gone with dropped := x.dropped + 1, routeErrs := x.routeErrs + 1 }).flitLost f.id
    else
      match s.choice router f with
      | none => s
      | some e =>
        if s.beaten router k e f.cls then s
        else
          let s1 := s.putRouter router (gone.serve e f.cls)
          match e with
          | none => (s1.flitOut f.id).arrived f.id
          | some p => s1.sendFlit router p f
/-- ESCAPE_TIMEOUT (spec R29): a flit that has found no credit on any candidate, or has no candidate left, moves to the escape channel of
its class. -/
def execEscapeTimeout (router k : Nat) (s : State) : Out :=
  let x := s.router router
  .next <| match x.buf[k]? with
  | some f =>
    if f.escape || (s.choice router f).isSome then s
    else s.putRouter router { x with buf := x.buf.set k { f with escape := true, up := true } }
  | none => s

/-! ### Links (spec/02 R23, R24, R35) -/

/-- LINK_ACK_TIMEOUT (spec R23): a link that has not delivered a flit retrains. -/
def execLinkAckTimeout (router port : Nat) (s : State) : Out :=
  let x := s.router router
  .next <| if (x.port port).lstate = 2 && !(FMap.getD x.retry port []).isEmpty then s.setLink router port 1 else s
/-- LINK_TRAINED (spec R23): training completes, and the link is Up. -/
def execLinkTrained (router port : Nat) (s : State) : Out :=
  .next <| if ((s.router router).port port).lstate = 1 then s.setLink router port 2 else s
/-- Flits that a Down link has not delivered wait at their sender again, as its retry buffer holds them. -/
def State.unsent (s : State) (r p : Nat) : State :=
  match linkPeer r p with
  | none => s
  | some (q, k) =>
    let y := s.router q
    let n := (FMap.getD y.wire k []).length
    let s1 := s.putRouter q { y with wire := FMap.erase y.wire k }
    let x := s1.router r
    let sent := FMap.getD x.retry p []
    s1.putRouter r { x with retry := FMap.erase x.retry p, buf := x.buf ++ sent.drop (sent.length - n) }
/-- A link is Down, or Disabled: both routers clear the port, and undelivered flits wait for another way; old flits that have none left take
the new tables where they are committed (spec/02 R24, R35, log 5). -/
def State.linkStop (s : State) (r p v : Nat) : State :=
  let s1 := ((s.setLink r p v).unsent r p).clearPort r p
  match linkPeer r p with
  | some (q, k) => (((s1.unsent q k).clearPort q k).rehold r).rehold q
  | none => s1
/-- A link is Down (spec/02 R23). -/
def State.linkDown (s : State) (r p : Nat) : State := s.linkStop r p 0
/-- A flit of a lost router: a management message that another node sent is sent again, any other is lost (spec/02 R38, log 5). -/
def State.flitGone (s : State) (tile id : Nat) : State :=
  match FMap.get? s.transit id, FMap.get? s.msgs id with
  | some t, some m =>
    if m.trafficClass = 0 && t.src ≠ tile then { s with transit := FMap.set s.transit id { t with sent := 0, got := 0 } }
    else s.flitLost id
  | _, _ => s
/-- The flits inside a router that is lost, or on their way out of it (spec/02 R38). -/
def State.routerLost (s : State) (site tile : Nat) : State :=
  let x := s.router site
  let ends := (linkPorts site).filterMap (fun p => linkPeer site p)
  let out := (ends.map (fun e => FMap.getD (s.router e.1).wire e.2 [])).flatten
  let s1 := ends.foldl (fun s e => s.putRouter e.1 { s.router e.1 with wire := FMap.erase (s.router e.1).wire e.2 })
    (s.putRouter site { x with buf := [], retry := [] })
  (x.buf ++ out).foldl (fun s f => s.flitGone tile f.id) s1
/-- What a lost tile has not sent out, and what has reached it and was not served, is lost; so is a strand whose migration was lost with
its sender (spec/02 R38, spec/11 R224). -/
def State.trafficLost (s : State) (tile : Nat) : State :=
  let here := fun (kv : Nat × Msg) => s.msgDest kv.2 == some tile && s.landed kv.1
  let own := (s.msgs.filter (fun kv => here kv && (FMap.get? s.transit kv.1).isNone)).map (·.1)
  let s1 := own.foldl State.unsend s
  let s2 := { s1 with transit := FMap.mapVals s1.transit (fun k (t : Transit) =>
    if (t.src = tile && t.sent < t.flits) || (match FMap.get? s.msgs k with | some m => here (k, m) | none => false) then
      { t with lost := true }
    else t) }
  s2.msgs.foldl (fun s kv =>
    match kv.2, FMap.get? s2.transit kv.1 with
    | .migrate h _ _, some t => if t.src = tile && t.lost then (s.unsend kv.1).loseStrand h false else s
    | _, _ => s) s2
/-- The DETAIL of LinkDown: site and port. -/
def linkDetail (r p : Nat) : Nat := r * 16 + p
/-- A port status register (spec/02 R24). -/
def PortStat.word (p : PortStat) : Nat := p.retries * 2 ^ 16 + p.crcerr * 2 ^ 8 + p.lstate
/-- PORT_STATUS_READ (spec R24, R39): the read clears RETRIES and CRCERR. Routers 76 to 79 stand for the scale-up ports of the four dies, to
which the spec gives no offset (log 29). -/
def execPortStatusRead (router port : Nat) (s : State) : Out :=
  .next <|
    if 76 ≤ router then
      let d := s.die (router - 76)
      let p := FMap.getD d.scaleUp port ⟨0, 0, 0⟩
      if 80 ≤ router || 40 ≤ port || !s.dieWorks (router - 76) then s
      else (s.putDie (router - 76) { d with scaleUp := FMap.set d.scaleUp port { p with retries := 0, crcerr := 0 } }).reply (.value p.word)
    else (s.setPort router port (fun x => { x with retries := 0, crcerr := 0 })).reply (.value ((s.router router).port port).word)
/-- A scale-up port takes a link state: 0 Down, 1 Training, 2 Up, 3 Disabled or 4 Up with flow control paused. One that goes Down leaves every
peer mask at once, as a Disabled one does, and one that comes Up returns to those it left (spec/02 R24, R39, R40). -/
def State.scaleUpLink (s : State) (die port lstate : Nat) : State :=
  let d := s.die die
  let p := FMap.getD d.scaleUp port ⟨0, 0, 0⟩
  let bit := BitVec.ofNat 128 (2 ^ port)
  let d1 := { d with scaleUp := FMap.set d.scaleUp port { p with lstate := lstate } }
  if lstate = 2 || lstate = 4 then
    s.putDie die { d1 with
      peers := FMap.mapVals d.peers (fun k (e : BitVec 128) => e ||| (FMap.getD d.masked k 0 &&& bit))
      masked := FMap.mapVals d.masked (fun _ (e : BitVec 128) => e &&& ~~~bit) }
  else if lstate = 1 then s.putDie die d1
  else
    s.putDie die { d1 with
      peers := FMap.mapVals d.peers (fun _ (e : BitVec 128) => e &&& ~~~bit)
      masked := d.peers.foldl (fun m kv => FMap.set m kv.1 (FMap.getD m kv.1 0 ||| (kv.2 &&& bit))) d.masked }

end Sys2Proof.Machine
end

