-- ==== Sys2Proof/Machine/Rake.lean ====
section
/-! DEFINITION. Rake units: kernels and their check (spec/10 R201), requests, index elements and targets (R202), the fills of the
rake buffer (spec/07 R136) and RKSTS (spec/10 R202). -/

namespace Sys2Proof.Machine

/-! ### Kernels (spec/10 R201) -/

/-- What an instruction does in a kernel: a value into d, a transfer to a parcel where a test of the registers holds, a target at
an address, nothing, or the end. -/
inductive KernelOp where
  | value (d : Nat) (srcs : List Nat) (f : List Nat → Nat)
  | branch (test : (Nat → Word) → Bool) (target : Int)
  | pref (a : Nat)
  | nop
  | exit

/-- The parcel that a transfer at a parcel names. -/
def kernelTarget (at_ off n : Nat) : Int := at_ + (sextW off n).toInt
/-- A branch on two sources; none where one has the take modifier. -/
def kernelBr2 (at_ : Nat) (a b : GSrc) (off : BitVec 12) (f : Word → Word → Bool) : Option KernelOp :=
  if a.take || b.take then none
  else some (.branch (fun g => f (g a.reg.toNat) (g b.reg.toNat)) (kernelTarget at_ off.toNat 12))
/-- A branch on one source. -/
def kernelBr1 (at_ : Nat) (a : GSrc) (off n : Nat) (f : Word → Bool) : Option KernelOp :=
  if a.take then none else some (.branch (fun g => f (g a.reg.toNat)) (kernelTarget at_ off n))

/-- The meaning of an instruction at a parcel of a kernel; none for one outside the permitted set. -/
def kernelOp (at_ : Nat) (i : Instr) : Option KernelOp :=
  match i with
  | .beq a b off => kernelBr2 at_ a b off (fun x y => decide (x = y))
  | .bne a b off => kernelBr2 at_ a b off (fun x y => decide (x ≠ y))
  | .blt a b off => kernelBr2 at_ a b off (fun x y => decide (x.toInt < y.toInt))
  | .bge a b off => kernelBr2 at_ a b off (fun x y => decide (y.toInt ≤ x.toInt))
  | .bltn a b off => kernelBr2 at_ a b off (fun x y => decide (x.toNat < y.toNat))
  | .bgen a b off => kernelBr2 at_ a b off (fun x y => decide (y.toNat ≤ x.toNat))
  | .beqz a off => kernelBr1 at_ a off.toNat 12 (fun x => decide (x = 0))
  | .bnez a off => kernelBr1 at_ a off.toNat 12 (fun x => decide (x ≠ 0))
  | .beqz16 r off => kernelBr1 at_ ⟨r, false⟩ off.toNat 7 (fun x => decide (x = 0))
  | .bnez16 r off => kernelBr1 at_ ⟨r, false⟩ off.toNat 7 (fun x => decide (x ≠ 0))
  | .j off => some (.branch (fun _ => true) (kernelTarget at_ off.toNat 20))
  | .j16 off => some (.branch (fun _ => true) (kernelTarget at_ off.toNat 11))
  | .nop => some .nop
  | .nop16 => some .nop
  | .exit => some .exit
  | .exit16 => some .exit
  | .pref a => if a.take then none else some (.pref a.reg.toNat)
  | i =>
    match recOp i with
    | .value d srcs f =>
      if d < 16 && srcs.all (fun c => decide (c.1 < 16) && !c.2) then some (.value d (srcs.map (·.1)) f) else none
    | _ => none

/-- The instruction at a parcel of a kernel, with its length in parcels. -/
def kernelAt (l : List Nat) (at_ : Nat) : Option (KernelOp × Nat) :=
  let p := (l[at_]?).getD 0
  if p % 4 = 3 then
    match l[at_ + 1]? with
    | none => none
    | some q =>
      match decode32 (p + 65536 * q) with
      | .ok i => (kernelOp at_ i).map (fun o => (o, 2))
      | _ => none
  else
    match decode16 p with
    | .ok i => (kernelOp at_ i).map (fun o => (o, 1))
    | _ => none

/-- The reason code of a kernel from a parcel on, n instructions before it: 0 valid. DESIGN CHOICE (log 37): of a kernel that is invalid for
several reasons, for spec/10 R201 gives them no order, the first instruction in address order that is not permitted or transfers wrongly decides
between codes 2 and 3; 2 and 3 go before 4, also where that instruction comes after the 64th; and 1 goes before 5 where the header is malformed and
the rest cannot be read. -/
def kernelCode (l : List Nat) (at_ n : Nat) : Nat → Nat
  | 0 => 0
  | fuel + 1 =>
    if l.length ≤ at_ then (if 64 < n then 4 else 0)
    else
      match kernelAt l at_ with
      | none => 2
      | some (.branch _ t, k) => if t ≤ at_ || (l.length : Int) < t then 3 else kernelCode l (at_ + k) (n + 1) fuel
      | some (_, k) => kernelCode l (at_ + k) (n + 1) fuel

/-- A kernel run from a parcel: the addresses that its PREFs name, at most eight. Its transfers go forward, so the parcels bound its
instructions. -/
def kernelRun (l : List Nat) (at_ : Nat) (g : List Word) (out : List Word) : Nat → List Word
  | 0 => out
  | fuel + 1 =>
    if l.length ≤ at_ then out
    else
      match kernelAt l at_ with
      | none => out
      | some (.value d srcs f, k) =>
        kernelRun l (at_ + k) (g.set d (.ofNat 64 (f (srcs.map (fun r => ((g[r]?).getD 0).toNat))))) out fuel
      | some (.branch test t, k) =>
        kernelRun l (if test (fun r => (g[r]?).getD 0) then t.toNat else at_ + k) g out fuel
      | some (.pref a, k) =>
        kernelRun l (at_ + k) g (if out.length < 8 then out ++ [(g[a]?).getD 0] else out) fuel
      | some (.nop, k) => kernelRun l (at_ + k) g out fuel
      | some (.exit, _) => out

/-! ### Requests (spec/10 R202) -/

/-- Read bytes of a kernel or of an index line for a rake unit, in line-sized reads at their homes. -/
def State.rakeRead (s : State) (tile : Nat) (tab : BedTable) (acc : Access) (asid : BitVec 12) (va : Word) (len : Nat) (h : BitVec 64) :
    State × Option Nat :=
  match tab.check acc va 1 with
  | .inl _ => (s, none)
  | .inr b =>
    match s.serveRead (s.targetBed b (tab.spills b.index) tile va) asid len 0 (busParty h) with
    | (s1, .ok v _) => (s1, some v)
    | (s1, .trip _ _) => (s1, none)

/-- Does a rake unit's own read wait at the port? -/
def State.rakeWaits (s : State) (tile : Nat) (tab : BedTable) (acc : Access) (asid : BitVec 12) (va : Word) (len : Nat) : Bool :=
  match tab.check acc va 1 with
  | .inl _ => false
  | .inr b => s.waitsFor (s.targetBed b (tab.spills b.index) tile va) asid len 0

/-- The parcels of a kernel. -/
def State.kernelParcels (s : State) (tile : Nat) (tab : BedTable) (r : RakeReq) : Nat → State × Option (List Nat)
  | 0 => (s, some [])
  | n + 1 =>
    match s.kernelParcels tile tab r n with
    | (s1, none) => (s1, none)
    | (s1, some l) =>
      match s1.rakeRead tile tab .fetch r.asid (r.kaddr + .ofNat 64 (4 + 2 * n)) 2 r.handle with
      | (s2, none) => (s2, none)
      | (s2, some p) => (s2, some (l ++ [p]))

/-- The kernel of a request, or its reason code. -/
def State.loadKernel (s : State) (tile : Nat) (r : RakeReq) : State × (List Nat ⊕ Nat) :=
  match s.taskTable tile r.asid with
  | none => (s, .inr 5)
  | some tab =>
    match s.rakeRead tile tab .fetch r.asid r.kaddr 4 r.handle with
    | (s1, none) => (s1, .inr 5)
    | (s1, some hd) =>
      if hd = 0 || 128 < hd then (s1, .inr 1)
      else
        match s1.kernelParcels tile tab r hd with
        | (s2, none) => (s2, .inr 5)
        | (s2, some l) => (s2, match kernelCode l 0 0 129 with | 0 => .inl l | c => .inr c)

/-- The request that runs is done. -/
def State.rakeDone (s : State) (key : Nat) (r : RakeReq) : State :=
  (s.putCol key { s.col key with rakeRun := none }).settle r.item true
/-- The request that runs goes on, or is done: every element run, every target filled or skipped. -/
def State.rakeKeep (s : State) (key : Nat) (r : RakeReq) : State :=
  if r.next = r.nidx && r.todo.isEmpty && r.out = 0 then s.rakeDone key r
  else s.putCol key { s.col key with rakeRun := some r }
/-- SKIPS rises by one, saturating. -/
def State.skip (s : State) (key : Nat) : State :=
  let c := s.col key
  s.putCol key { c with skips := min (c.skips + 1) (2 ^ 32 - 1) }

/-- RAKE_REQUEST_START (spec R202): the unit takes the next request; one with an invalid kernel is done at once. -/
def execRakeRequestStart (tile col : Nat) (s : State) : Out :=
  let key := colKey tile col
  let c := s.col key
  .next <| match c.rakeRun, c.rakeQ with
  | none, r :: q =>
    let s1 := s.putCol key { c with rakeQ := q }
    if r.nidx = 0 then s1.rakeDone key r
    else if (match s.taskTable tile r.asid with | some tab => s.rakeWaits tile tab .fetch r.asid r.kaddr 4 | none => false) then s
    else
      (match s1.loadKernel tile r with
       | (s2, .inl l) => s2.putCol key { s2.col key with rakeRun := some { r with kernel := l } }
       | (s2, .inr code) => (s2.putCol key { s2.col key with kerr := code }).rakeDone key r)
  | _, _ => s

/-- The index line that an element lies in: its bytes, none where it cannot be used. -/
def State.indexLine (s : State) (tile : Nat) (r : RakeReq) (va : Word) : State × RakeReq × Option Nat :=
  let n := va.toNat / 64
  let seen := match r.line with | some (m, v) => if m = n then some v else none | none => none
  match seen with
  | some v => (s, r, v)
  | none =>
    match s.taskTable tile r.asid with
    | none => (s, { r with line := some (n, none) }, none)
    | some tab =>
      match s.rakeRead tile tab .rake r.asid (.ofNat 64 (n * 64)) 64 r.handle with
      | (s1, v) => (s1, { r with line := some (n, v) }, v)

/-- Is a line on its way into a column's rake buffer (spec/22 R402)? -/
def State.fetching (s : State) (key : Nat) (asid : BitVec 12) (line : Nat) : Bool :=
  s.msgs.any (fun kv => match kv.2 with
    | .rakeFetch k _ a l _ pf => k == key && a == asid && l == line && !pf
    | .rakeData k _ a l d => k == key && a == asid && l == line && d.isSome
    | _ => false)
/-- Start the fetch or prefetch of a target line, or skip it; a line that is there or on its way is not fetched again. -/
def State.rakeTarget (s : State) (tile key : Nat) (r : RakeReq) (line : Nat) : State × RakeReq :=
  let va : Word := .ofNat 64 (line * 64)
  let hit := (s.taskTable tile r.asid).bind (fun tab =>
    match tab.check .rake va 1 with
    | .inl _ => none
    | .inr b => some (s.targetBed b (tab.spills b.index) tile va))
  match hit with
  | none => (s.skip key, r)
  | some g =>
    let pf := match g.home with | some k => k / 16 == tile | none => false
    if !pf && ((s.col key).rakeBuf.any (fun x => x.asid == r.asid && x.line == line && !x.bad) || s.fetching key r.asid line) then (s, r)
    else
      let c := s.col key
      ((s.putCol key { c with rakeOut := c.rakeOut + 1 }).sendFrom tile (.rakeFetch key r.item r.asid line g pf), { r with out := r.out + 1 })
/-- Start pending targets while fewer than 64 are outstanding. -/
def State.rakeTargets (s : State) (tile key : Nat) (r : RakeReq) : Nat → State × RakeReq
  | 0 => (s, r)
  | n + 1 =>
    match r.todo with
    | [] => (s, r)
    | a :: l =>
      if 64 ≤ (s.col key).rakeOut then (s, r)
      else
        match s.rakeTarget tile key { r with todo := l } a with
        | (s1, r1) => s1.rakeTargets tile key r1 n

/-- The registers an element's kernel starts with. -/
def RakeReq.regs (r : RakeReq) (element : Nat) : List Word :=
  [.ofNat 64 (extend r.signed (if r.wide then 8 else 4) element), .ofNat 64 r.next, r.p0, r.p1] ++ List.replicate 12 0

/-- RAKE_ELEMENT (spec R202): the kernel runs for the next index element, and its targets are sent for; the unit pauses at 64
outstanding. -/
def execRakeElement (tile col : Nat) (s : State) : Out :=
  let key := colKey tile col
  .next <| match (s.col key).rakeRun with
  | none => s
  | some r =>
    if !r.todo.isEmpty then
      let p := s.rakeTargets tile key r 8
      p.1.rakeKeep key p.2
    else if r.next < r.nidx then
      let size := if r.wide then 8 else 4
      let va := r.ia + .ofNat 64 (size * r.next)
      if (match s.taskTable tile r.asid with | some tab => s.rakeWaits tile tab .rake r.asid (.ofNat 64 (va.toNat / 64 * 64)) 64 | none => false)
      then s
      else
      (match s.indexLine tile r va with
       | (s1, r1, none) => (s1.skip key).rakeKeep key { r1 with next := r.next + 1 }
       | (s1, r1, some v) =>
         let l := kernelRun r.kernel 0 (r.regs (fromLine v va.toNat size)) [] 129
         let p := s1.rakeTargets tile key { r1 with next := r.next + 1, todo := l.map (fun a => a.toNat / 64) } 8
         p.1.rakeKeep key p.2)
    else s

/-- A fetch or prefetch is done: one fewer is outstanding, its target is skipped where it failed, and the request may be done. -/
def State.rakeEnd (s0 : State) (key item : Nat) (ok : Bool) : State :=
  let s := if ok then s0 else s0.skip key
  let c := s.col key
  let s1 := s.putCol key { c with rakeOut := c.rakeOut - 1 }
  (match c.rakeRun with
   | some r => if r.item = item then s1.rakeKeep key { r with out := r.out - 1 } else s1
   | none => s1).rejoinAll key
/-- A prefetch brings its line into the tile cache; whether it could. -/
def State.rakePrefetch (s : State) (tile : Nat) (asid : BitVec 12) (g : Target) : State × Bool :=
  match s.physOf asid g with
  | (s1, some pa) =>
    (match s1.errAt pa 1 with
     | some src => (s1.logError tile src true pa 0 0, false)
     | none => (s1.viaBus (pa / 2 ^ 32) (pa % 2 ^ 32) 1 false, true))
  | (s1, none) => (s1, match g with | .column _ _ _ kind _ => kind == .scratch | _ => false)
/-- RAKE_FETCH_FILL (spec R202): a prefetch enters the tile cache; a fetch is served at its home, and when its data is back its line enters
the rake buffer, where it records AG as it then is (spec/07 R136, spec/08 R149). One that fails is a target skipped. -/
def execRakeFetchFill (msg : Nat) (s : State) : Out :=
  .next <| match s.msg? msg with
  | some (.rakeFetch key item asid _ g true) =>
    if s.waitsFor g asid 1 0 then s
    else
      let p := (s.unsend msg).rakePrefetch (key / 16) asid g
      p.1.rakeEnd key item p.2
  | some (.rakeFetch key item asid line g false) =>
    if s.waitsFor g asid 64 0 then s
    else
      (match s.serveRead g asid 64 0 (busParty 0) with
       | (s1, .ok v _) => s1.turnInto msg g.node (.rakeData key item asid line (some v))
       | (s1, .trip _ _) => s1.turnInto msg (if s.nodeUp g then g.node else key / 16) (.rakeData key item asid line none))
  | some (.rakeData key item asid line data) =>
    let s1 := s.unsend msg
    (match data with
     | some v =>
       let c := s1.col key
       (s1.putCol key { c with rakeBuf := pushLine 4096 c.rakeBuf ⟨asid, line, (s1.tile (key / 16)).ag, v, false⟩ }).rakeEnd key item true
     | none => s1.rakeEnd key item false)
  | _ => s

/-- RKSTS (spec/10 R202). -/
def Column.rksts (c : Column) : Nat := c.kerr * 2 ^ 60 + c.rakeOut * 2 ^ 32 + c.skips
/-- RKSTS_READ (spec R202): the read clears KERR and SKIPS. -/
def execRkstsRead (tile col : Nat) (s : State) : Out :=
  let c := s.col (colKey tile col)
  .next (s.replyReg tile c.rksts (s.putCol (colKey tile col) { c with kerr := 0, skips := 0 }))

end Sys2Proof.Machine
end

