-- ==== Sys2Proof/Machine/Sched.lean ====
section
/-! DEFINITION. The scheduler: a lead gardener's own accesses, predecessors (spec/05 R75, R77), binding (R70, R74, R76, R78, R79,
R413), dispatch (R80, R81), completion (R83 to R85) and JOBCMD (R86). -/

namespace Sys2Proof.Machine

/-! ### A lead gardener's accesses (spec/05 R75, R76, R83) -/

/-- Where an address of a job leads its lead gardener. -/
def State.gardenTarget (s : State) (j : Job) (a : Access) (va : Nat) : Option Target :=
  match j.beds.check a (.ofNat 64 va) 8 with
  | .inl _ => none
  | .inr h => some (s.targetBed h (j.beds.spills h.index) (j.handle / 1024) (.ofNat 64 va))
/-- Read a word of a job. -/
def State.gardenRead (s : State) (j : Job) (va : Nat) : State × Option Nat :=
  match s.gardenTarget j .ldr va with
  | none => (s, none)
  | some (.host die aper bus) => (s, if s.aperServes die aper bus 8 false then some (s.hostMem.read bus 8) else none)
  | some (.peer die index ra rv) =>
    (match s.askPeer die index ra rv 8 [] with
     | (s1, true) => (s1.bump, some (Config.freeWord s1.fresh).toNat)
     | (s1, false) => (s1, none))
  | some g =>
    match s.serveRead g (.ofNat 12 j.lrec.asid) 8 0 (busParty 0) with
    | (s1, .ok v _) => (s1, some v)
    | (s1, .trip _ _) => (s1, none)
/-- Write a word of a job; whether it was written. -/
def State.gardenWrite (s : State) (j : Job) (va v : Nat) : State × Bool :=
  match s.gardenTarget j .stp va with
  | none => (s, false)
  | some (.peer die index ra rv) => s.askPeer die index ra rv 8 (leBytes v 8)
  | some g => s.performPosted (.bytes (leBytes v 8)) (.ofNat 12 j.lrec.asid) g 0 j.handle

/-- Does such an access wait at the port of its home? -/
def State.gardenWaits (s : State) (j : Job) (a : Access) (va acc : Nat) : Bool :=
  match s.gardenTarget j a va with
  | none => false
  | some g => s.waitsFor g (.ofNat 12 j.lrec.asid) 8 acc

/-! ### Completion (spec/05 R83 to R85) -/

/-- The records of a job on a tile. -/
def Tile.recordsOf (t : Tile) (job : Nat) : List (Nat × BindRec) := t.recs.filter (fun kv => kv.2.state != .free && kv.2.job == job)
/-- Does another job of an address space hold records on a tile? -/
def Tile.keepsAsid (t : Tile) (asid job : Nat) : Bool := t.recs.any (fun kv => kv.2.state != .free && kv.2.asid == asid && kv.2.job != job)
/-- What a tile forgets with a job (spec/05 R83, spec/07 R119, spec/10 R186). -/
def Tile.dropJob (t : Tile) (job asid : Nat) : Tile :=
  { t with
    recs := FMap.mapVals t.recs (fun _ (r : BindRec) => if r.job == job then { r with state := RecState.free } else r)
    cuts := FMap.erase t.cuts job, levels := FMap.erase t.levels job, released := t.released.filter (· != job)
    holders := t.holders.filter (fun kv => kv.1 / 4096 != job)
    bedTables := if t.keepsAsid asid job then t.bedTables else FMap.erase t.bedTables asid }
/-- An engine held by a job that ends is cleared: its channels, scale memory and hold (spec/10 R187). -/
def Engine.dropJob (e : Engine) (job : Nat) : Engine :=
  if e.hold = some job then { e with chA := [], chB := [], scale := [], badA := false, badB := false, badScale := false, hold := none } else e
/-- A job's handle is free: its records, tables, engines, hedges and placeholders go with it. -/
def State.releaseJob (s : State) (j : Job) : State :=
  let h := j.handle
  let s1 := (s.hedgeJobEnd h).dropSlots h
  { s1 with
    tiles := FMap.mapVals s1.tiles (fun _ (t : Tile) => Tile.dropJob t h j.lrec.asid)
    engines := FMap.mapVals s1.engines (fun _ (e : Engine) => Engine.dropJob e h)
    cols := FMap.mapVals s1.cols (fun _ (c : Column) => { c with counts := FMap.erase c.counts h })
    queues := FMap.mapVals s1.queues (fun _ (q : Queue) =>
      { q with jobs := q.jobs.filter (· != h), markers := q.markers.map (fun (m : Marker) => { m with jobs := m.jobs.filter (· != h) }) })
    jobs := FMap.erase s1.jobs h }
/-- Write the completion word, release the job, and raise JobDone where asked for or where the word could not be written. -/
def State.finishJob (s : State) (j : Job) : State :=
  let p := s.gardenWrite j j.lrec.cwaddr (j.lrec.seq * 256 + j.status)
  let s1 := p.1.releaseJob j
  if j.evt || !p.2 then s1.raiseJob 0x41 j (j.status + if p.2 then 0 else 256) else s1

/-- Is every record of a job Drained or Free? Those of a cancelled job dispatch no more. -/
def State.recordsDone (s : State) (j : Job) : Bool :=
  j.cancelCause != 0 || s.tiles.all (fun kv => (kv.2.recordsOf j.handle).all (fun r => r.2.state == .drained))
/-- Has nothing of a job been left: strands, items that are stores, updates, copies or tasks, and reports of task faults? -/
def State.jobQuiet (s : State) (job : Nat) : Bool :=
  !s.strands.any (fun kv => kv.2.job == job)
  && !s.items.any (fun kv => kv.2.job == job && !kv.2.failed && kv.2.cls != .read && kv.2.cls != .rake)
  && s.tiles.all (fun kv => !kv.2.taskFaults.any (fun r => r.job == job) && !kv.2.tasks.any (fun x => x.2.job == job))
/-- Has every strand of a job that a dock created been counted as ended: exited, killed or reported lost (spec/05 R83, spec/11 R225)?
Counts that a dock has not reported yet are among them. -/
def State.strandsCounted (s : State) (j : Job) : Bool :=
  let l := s.cols.map (fun kv => FMap.getD kv.2.counts j.handle (0, 0))
  decide (j.created + (l.map (·.1)).sum ≤ j.ended + (l.map (·.2)).sum)
/-- The port through which a completion word in host memory is written (spec/04 R62). -/
def State.wordPort (s : State) (j : Job) : Option Nat :=
  match s.gardenTarget j .stp j.lrec.cwaddr with
  | some (.host die aper _) => some (s.aperHostPort die aper)
  | _ => none
/-- The ports whose writes the completion word must wait for. -/
def State.flushPorts (s : State) (j : Job) : List Nat :=
  match s.wordPort j with
  | some p => j.hostPorts.filter (· != p)
  | none => []
/-- JOB_COMPLETE (spec R83): with the job's records, strands and items finished, the completion word is written, behind a read of
every other port that the job wrote through (spec R62). -/
def execJobComplete (job : Nat) (s : State) : Out :=
  .next <| match s.job? job with
  | none => s
  | some j =>
    if j.state == .pending || j.orphan || !s.recordsDone j || !s.jobQuiet job || !s.strandsCounted j || !s.tileLive (job / 1024) then s
    else
      let l := s.flushPorts j
      if !l.isEmpty then
        l.foldl (fun s p => s.sendFrom (job / 1024) (.hostFlush p job)) (s.putJob { j with state := .completing, hostPorts := [] })
      else if s.msgs.any (fun kv => match kv.2 with | .hostFlush _ h => h == job | _ => false) || s.gardenWaits j .stp j.lrec.cwaddr 1 then s
      else s.finishJob { j with status := if j.status = 0 then j.cancelCause else j.status }

/-! ### Cancel (spec/05 R77, R86) -/

/-- End every strand of a job as KILL does. -/
def State.killJob (s : State) (job : Nat) : State :=
  ((s.strands.map (·.2)).filter (fun st => st.job == job)).foldl (fun s st => s.kill st) s
/-- The Cancel procedure on a bound job, with the cause it records; the second pass ends the children that killed parents release
(spec/18 R372). -/
def State.cancelJob (s : State) (j : Job) (cause : Nat) : State :=
  if j.state == .completing then s
  else
    let h := j.handle
    let s1 := s.putJob { j with state := .completing, cancelCause := cause }
    let s2 := { s1 with tiles := FMap.mapVals s1.tiles (fun _ (t : Tile) =>
      { t with
        recs := FMap.mapVals t.recs (fun _ (r : BindRec) =>
          if r.job == h && r.state == RecState.active then { r with state := RecState.suspended } else r)
        taskFaults := t.taskFaults.filter (fun r => r.job != h) }) }
    (((s2.killJob h).killJob h).cancelTasks h).hedgeJobEnd h
/-- A pending job completes without having been bound; while its completion word waits at the port it stays as a job that completes. -/
def State.dropPending (s : State) (j : Job) (status : Nat) : State :=
  if s.gardenWaits j .stp j.lrec.cwaddr 1 then s.putJob { j with state := .completing, status := status, cancelCause := status }
  else s.finishJob { j with status := status }

/-! ### Predecessors (spec/05 R75, R77) -/

/-- Poll one entry: 0 waiting, 1 complete, 2 early, 3 failed. -/
def State.pollEntry (s : State) (j : Job) (p : Pred) : State × Nat :=
  if s.gardenWaits j .ldr p.pcw 0 then (s, 0) else
  match s.gardenRead j p.pcw with
  | (s1, none) => (s1, 3)
  | (s1, some v) =>
    if v = p.pseq * 256 then (s1, 1)
    else if v / 256 = p.pseq then (s1, 3)
    else if p.gothr = 0 || s1.gardenWaits j .ldr p.pgo 0 then (s1, 0)
    else
      match s1.gardenRead j p.pgo with
      | (s2, none) => (s2, 3)
      | (s2, some g) => (s2, if g / 2 ^ 32 = p.pseq % 2 ^ 32 && p.gothr ≤ g % 2 ^ 32 then 2 else 0)
/-- Poll entries in order. -/
def State.pollAll (s : State) (j : Job) : List Pred → State × List Nat
  | [] => (s, [])
  | p :: l =>
    let r := s.pollEntry j p
    let q := r.1.pollAll j l
    (q.1, r.2 :: q.2)
/-- A poll of a pending job: one failed entry completes it with status 4. -/
def State.pollPending (s : State) (j : Job) : State :=
  let (s1, l) := s.pollAll j j.lrec.preds
  if l.contains 3 then s1.dropPending j 4 else s1.putJob { j with preds := l }
/-- The tiles that hold strands of a job. -/
def State.strandTiles (s : State) (job : Nat) : List Nat :=
  (List.range 64).filter (fun t => s.strands.any (fun kv => kv.2.job == job && kv.2.loc.tile == t))
/-- A poll of the entries of E not yet complete: a failed one cancels the job, the last complete one releases it. -/
def State.pollEarly (s : State) (j : Job) : State :=
  let idx := j.early.filter (fun i => !j.earlyDone.contains i)
  let (s1, l) := s.pollAll j (idx.filterMap (fun i => j.lrec.preds[i]?))
  let done := j.earlyDone ++ ((idx.zip l).filter (fun p => p.2 == 1)).map (·.1)
  if l.contains 3 then s1.cancelJob j 4
  else if j.early.all (fun i => done.contains i) then
    (s1.strandTiles j.handle).foldl (fun s t => s.sendFrom (j.handle / 1024) (.releaseNote t j.handle)) (s1.putJob { j with earlyDone := done, released := true })
  else s1.putJob { j with earlyDone := done }
/-- PREDECESSOR_POLL (spec R75): the lead gardener reads the entries of its pending records, and those of E of its bound jobs. -/
def execPredecessorPoll (tile : Nat) (s : State) : Out :=
  .next <|
    if !s.tileLive tile then s
    else
      ((s.jobs.map (·.2)).filter (fun j => j.handle / 1024 == tile && !j.orphan)).foldl (fun s j =>
        if j.state == .pending then s.pollPending j
        else if !j.released && !j.early.isEmpty && j.state != .completing then s.pollEarly j
        else s) s
/-- RELEASE_NOTICE (spec R77): the tile lets the job's PREDWAITs complete. -/
def execReleaseNotice (msg : Nat) (s : State) : Out :=
  .next <| match s.msg? msg with
  | some (.releaseNote t job) =>
    let x := s.tile t
    let s1 := (s.unsend msg).putTile t { x with released := if x.released.contains job then x.released else x.released ++ [job] }
    (List.range 16).foldl (fun s c => s.rejoinAll (colKey t c)) s1
  | _ => s

/-! ### Binding (spec/05 R70, R74, R78, R79, R413) -/

/-- The domain's unit in which a record lies, where its strands share one: plot, tile, quadrant, column, or core. -/
def unitOf (r : PlaceRec) (domain : Nat) : Nat × Nat × Nat :=
  match domain with
  | 1 => (r.tile, 0, 0)
  | 2 => (r.tile, r.col / 4, 0)
  | 3 => (r.tile, r.col, 0)
  | 4 => (r.tile, r.col, r.cmask.toNat)
  | _ => (0, 0, 0)
/-- Records that follow each other split no instance of a level that is kept within one unit of its domain. -/
def unitsOk (levels : List Level) : List PlaceRec → Bool
  | a :: b :: l =>
    ((List.range levels.length).zip levels).all (fun p =>
      p.2.domain == 5 || b.first % instanceSize levels p.1 == 0 || unitOf a p.2.domain == unitOf b p.2.domain)
    && unitsOk levels (b :: l)
  | _ => true
/-- The ranges of the records follow each other from a flat index up to N. -/
def rangesOk (from_ total : Nat) : List PlaceRec → Bool
  | [] => from_ == total
  | r :: l => r.first == from_ && decide (1 ≤ r.count) && rangesOk (from_ + r.count) total l
/-- Is one bit of a mask set? -/
def oneBit (m : BitVec 48) : Bool := ((List.range 48).filter (fun i => m.getLsbD i)).length == 1
/-- A job's effective limit of slots per core on a tile (spec/05 R74). -/
def State.slotLimit (s : State) (l : LaunchRec) (t : Nat) : Nat := min l.slotcap (bits (s.tile t).gpol.toNat 16 8)
/-- The fields of one record. -/
def State.placeRecOk (s : State) (l : LaunchRec) (r : PlaceRec) : Bool :=
  inRect r.tile l.prow l.pcol l.prows l.pcols && s.tileUp r.tile && decide (r.col < 16) && decide (1 ≤ r.budget)
  && decide (r.budget ≤ s.slotLimit l r.tile) && r.cmask != 0 && (!l.levels.any (fun v => v.domain == 4) || oneBit r.cmask)
/-- The budgets of the job's records in each core stay within its limit. -/
def State.budgetsOk (s : State) (l : LaunchRec) (rs : List PlaceRec) : Bool :=
  rs.all (fun r => (List.range 48).all (fun n => !r.cmask.getLsbD n ||
    decide (((rs.filter (fun q => q.tile == r.tile && q.col == r.col && q.cmask.getLsbD n)).map (·.budget)).sum ≤ s.slotLimit l r.tile)))

/-- The strands placed in a column. -/
def placedIn (rs : List PlaceRec) (t c : Nat) : Nat := ((rs.filter (fun r => r.tile == t && r.col == c)).map (·.count)).sum
/-- The room of a column at binding: its slots less the strands that other jobs have there or have still to dispatch. -/
def State.colRoom (s : State) (t c : Nat) : Nat :=
  720 - (s.colStrands (colKey t c)).length
    - (((s.tile t).recs.filter (fun kv => kv.2.col == c && (kv.2.state == .active || kv.2.state == .suspended))).map (·.2.ncnt)).sum
/-- The largest unit that R70 keeps within one column or quadrant. -/
def placeUnit (levels : List Level) : Nat :=
  (((List.range levels.length).zip levels).map (fun p => if 2 ≤ p.2.domain && p.2.domain ≤ 4 then instanceSize levels p.1 else 1)).foldl max 1
/-- Columns filled in ascending number, each up to a limit or its room. -/
def compactOk (u : Nat) (l : List (Nat × Nat)) : Bool :=
  (List.range l.length).all (fun i => ((l[i]?).map (·.1)).getD 0 == 0 ||
    (l.take i).all (fun p => decide (p.2 < p.1 + u)))
/-- Counts with their rooms: none above its room, and they differ by at most one unit, those without more room apart. What is left once none
has room for a unit more is spread over all by the same rule (log 37). -/
def evenOk (u : Nat) (l : List (Nat × Nat)) : Bool :=
  if l.all (fun a => decide (a.1 ≤ a.2)) then l.all (fun a => l.all (fun b => decide (b.1 ≤ a.1 + u) || decide (a.2 < a.1 + u)))
  else l.all (fun a => decide (a.2 < a.1 + u) && l.all (fun b => decide (b.1 - b.2 ≤ a.1 - a.2 + u)))
/-- The bound of PLACE on a tile (spec/05 R413). -/
def State.placeOk (s : State) (l : LaunchRec) (rs : List PlaceRec) (t : Nat) : Bool :=
  let u := placeUnit l.levels
  let lim := 48 * s.slotLimit l t
  let cols := (List.range 16).map (fun c => (placedIn rs t c, s.colRoom t c))
  let capped := cols.map (fun p => (p.1, min lim p.2))
  match bits (s.tile t).gpol.toNat 0 2 with
  | 0 => compactOk u capped
  | 2 =>
    let quad := fun q => (cols.drop (4 * q)).take 4
    evenOk u ((List.range 4).map (fun q => (((quad q).map (·.1)).sum, ((quad q).map (·.2)).sum)))
    && (List.range 4).all (fun q => compactOk u ((capped.drop (4 * q)).take 4))
  | _ => evenOk u cols
/-- May the job be bound on a tile (spec/05 R78)? -/
def State.tileTakes (s : State) (j : Job) (rs : List PlaceRec) (t : Nat) : Bool :=
  let x := s.tile t
  let live := x.recs.filter (fun kv => kv.2.state != .free)
  decide (live.length + (rs.filter (fun r => r.tile == t)).length ≤ 1024)
  && decide ((live.map (·.2.job)).eraseDups.length + 1 ≤ bits x.gpol.toNat 24 8)
  && !s.bedConflict j.lrec.asid j.lrec.bedtab t && s.placeOk j.lrec rs t
/-- Is a placement one that the spec lets the lead gardener choose? -/
def State.placementOk (s : State) (j : Job) (rs : List PlaceRec) : Bool :=
  rangesOk 0 j.lrec.total rs && rs.all (s.placeRecOk j.lrec) && unitsOk j.lrec.levels rs && s.budgetsOk j.lrec rs
  && (rs.map (·.tile)).all (s.tileTakes j rs)

/-- Install a job's tables on a tile of its plot; the descriptors of its address space that the cores have cached go. -/
def State.installTables (s : State) (j : Job) (t : Nat) : State :=
  let x := s.tile t
  let s1 := s.putTile t { x with
    bedTables := FMap.set x.bedTables j.lrec.asid j.beds, cuts := FMap.set x.cuts j.handle j.cuts,
    levels := FMap.set x.levels j.handle j.lrec.levels }
  { s1 with cores := FMap.mapVals s1.cores (fun k (c : Core) =>
      if k / 768 = t then { c with bedCache := c.bedCache.filter (fun e => e.asid.toNat != j.lrec.asid) } else c) }
/-- Has some tile of a job's plot room to bind it: a free entry of its slot table, fewer jobs than MAXJOBS, and no other bed table of the
address space (spec/05 R78)? -/
def State.hasRoom (s : State) (j : Job) : Bool :=
  j.lrec.plot.any (fun t =>
    let x := s.tile t
    let live := x.recs.filter (fun kv => kv.2.state != .free)
    s.tileUp t && decide (live.length < 1024) && decide ((live.map (·.2.job)).eraseDups.length < bits x.gpol.toNat 24 8)
    && !s.bedConflict j.lrec.asid j.lrec.bedtab t)
/-- May a pending record be bound, as far as its predecessors go (spec/05 R75)? -/
def Job.eligible (j : Job) : Bool := j.state == .pending && !j.orphan && j.preds.all (fun p => p == 1 || p == 2)
/-- The record that a lead gardener binds next: of the eligible ones with room, by PRIO, then round robin over the dies, then arrival
(spec/05 R73, R78; log 37). -/
def State.nextBind (s : State) (lead : Nat) : Option Job :=
  let l := (s.jobs.map (·.2)).filter (fun j => j.handle / 1024 == lead && j.eligible && s.hasRoom j)
  let top := l.foldl (fun m j => max m j.prio) 0
  let d := (s.tile lead).bindDie
  let first := fun (die : Nat) => (l.filter (fun j => j.prio == top && j.die == die)).foldl
    (fun b j => match b with | none => some j | some (x : Job) => if j.arrival < x.arrival then some j else b) none
  [(d + 1) % 4, (d + 2) % 4, (d + 3) % 4, d % 4].findSome? first
/-- Write a bind record, Suspended, at the lowest free index of its tile. -/
def State.writeRecord (s : State) (j : Job) (r : PlaceRec) : State :=
  let x := s.tile r.tile
  match (List.range 1024).find? (fun i => match FMap.get? x.recs i with | some b => b.state == .free | none => true) with
  | none => s
  | some i =>
    let b : BindRec := ⟨j.handle, j.lrec.asid, r.col, r.budget, .suspended, j.lrec.entry, r.first, r.count, r.cmask, j.lrec.args⟩
    s.putTile r.tile { x with recs := FMap.set x.recs i b }
/-- The records of a job, all written, become Active. -/
def State.activate (s : State) (job : Nat) : State :=
  { s with tiles := FMap.mapVals s.tiles (fun _ (t : Tile) =>
      { t with recs := FMap.mapVals t.recs (fun _ (r : BindRec) =>
          if r.job == job && r.state == RecState.suspended then { r with state := RecState.active } else r) }) }
/-- BIND_JOB (spec R78): the lead gardener binds an eligible job, the next in its order that has room, under a placement of its choice: the go
word first, then the tables and the records, which become Active together. -/
def execBindJob (job : Nat) (recs : List PlaceRec) (s : State) : Out :=
  .next <| match s.job? job with
  | none => s
  | some j =>
    if j.eligible && s.tileUp (job / 1024) && (s.nextBind (job / 1024)).map (·.handle) == some job && s.placementOk j recs
        && !(j.lrec.goaddr != 0 && s.gardenWaits j .stp j.lrec.goaddr 1) then
      let s1 := if j.lrec.goaddr = 0 then s else (s.gardenWrite j j.lrec.goaddr (j.lrec.seq % 2 ^ 32 * 2 ^ 32)).1
      let s2 := j.lrec.plot.foldl (fun s t => s.installTables j t) s1
      let s3 := (recs.foldl (fun s r => s.writeRecord j r) s2).activate job
      let s4 := s3.putTile (job / 1024) { s3.tile (job / 1024) with bindDie := j.die }
      s4.putJob { j with state := .running, early := (List.range j.preds.length).filter (fun i => j.preds[i]? == some 2) }
    else s

/-! ### Dispatch (spec/05 R80, R81) -/

/-- The record that a column's dispatcher visits next: the Active ones in ascending index, after the last one visited. -/
def State.nextRecord (s : State) (t c : Nat) : Option (Nat × BindRec) :=
  let l := (s.tile t).recs.filter (fun kv => kv.2.state == .active && kv.2.col == c)
  match l.find? (fun kv => decide ((s.col (colKey t c)).visit < kv.1)) with
  | some x => some x
  | none => l.head?
/-- The strands of a record that a core holds or that wait in its arrival queue. -/
def State.recordStrands (s : State) (t core rec_ : Nat) : Nat :=
  ((s.strands.map (·.2)).filter (fun st => st.bindRec == some rec_ && st.loc.tile == t && st.loc.core == core
    && (st.inSlot || (s.core (coreKey t core)).arrival.contains st.handle))).length
/-- The first strand of a record, in a core's arrival queue (spec/05 R81). -/
def State.createStrand (s : State) (t core i : Nat) (r : BindRec) : State :=
  let key := colKey t (coreCol core)
  let h := s.nextHandle key r.job
  let loc : Place := ⟨t, coreCol core, core, 0⟩
  let st := newStrand h r.entry (gInit r.args) r.job (.ofNat 12 r.asid) r.first 0 loc (s.freeImg key) .fresh
  let s1 := (((s.takeSid key).takeImg key st.img).countStrand key r.job 1 0).bornAcquired { st with bindRec := some i }
  let x := s1.tile t
  let r1 := { r with first := r.first + 1, ncnt := r.ncnt - 1, state := (if r.ncnt ≤ 1 then RecState.drained else r.state) }
  (s1.putTile t { x with recs := FMap.set x.recs i r1 }).enqueue (coreKey t core) h
/-- DISPATCH (spec R80): a column's dispatcher visits its next Active record, and creates at most one strand of it. -/
def execDispatch (tile col rec_ : Nat) (s : State) : Out :=
  .next <| match s.nextRecord tile col with
  | none => s
  | some (i, r) =>
    if i ≠ rec_ || !s.tileUp tile then s
    else
      let key := colKey tile col
      let s1 := s.putCol key { s.col key with visit := i }
      match s1.pickCore tile col (fun c => r.cmask.getLsbD (c % 48) && decide (s1.recordStrands tile c i < r.budget)) with
      | none => s1
      | some c => s1.createStrand tile c i r

/-! ### JOBCMD (spec/05 R86) -/

/-- The last command of a tile and its result. -/
def State.jobcmd (s : State) (t job result : Nat) : State := s.putTile t { s.tile t with jobcmdJob := job, jobcmdResult := result }
/-- The job that a command at a tile names, which its gardener holds. -/
def State.jobAt (s : State) (t job : Nat) : Option Job := if job / 1024 = t then (s.job? job).filter (fun j => !j.orphan) else none
/-- The tiles that take part in a suspension: every live tile of the panel (spec/11 R214). -/
def State.liveTiles (s : State) : List Nat := (List.range 64).filter s.tileLive
/-- Must a Suspend be refused: an engine that the job holds has a slot valid for another job, or its tile no save area (spec/11 R214)? -/
def State.suspendBlocked (s : State) (job : Nat) : Bool :=
  s.engines.any (fun kv => kv.2.hold == some job &&
    ((match s.savedFor (kv.1 / 4) (kv.1 % 4) with | some x => x != job | none => false) || bits (s.tile (kv.1 / 4)).esave.toNat 63 1 == 0))
/-- JOBCMD_SUSPEND (spec R86): notices go to every tile, unless the command is refused. -/
def execJobcmdSuspend (tile job : Nat) (s : State) : Out :=
  .next <| match s.jobAt tile job with
  | none => s.jobcmd tile job 1
  | some j =>
    if j.state != .running || s.suspendBlocked job then s.jobcmd tile job 2
    else
      s.liveTiles.foldl (fun s t => s.sendFrom tile (.suspendNote t job))
        ((s.jobcmd tile job 0).putJob { j with state := .suspending, tilesLeft := s.liveTiles })
/-- JOBCMD_RESUME (spec R86): reverses a suspension. -/
def execJobcmdResume (tile job : Nat) (s : State) : Out :=
  .next <| match s.jobAt tile job with
  | none => s.jobcmd tile job 1
  | some j =>
    if j.state != .suspended then s.jobcmd tile job 2
    else
      s.liveTiles.foldl (fun s t => s.sendFrom tile (.resumeNote t job))
        ((s.jobcmd tile job 0).putJob { j with state := .resuming, tilesLeft := s.liveTiles })
/-- JOBCMD_CANCEL (spec R86): a pending job completes at once with status 1; a bound one is cancelled. -/
def execJobcmdCancel (tile job : Nat) (s : State) : Out :=
  .next <| match s.jobAt tile job with
  | none => s.jobcmd tile job 1
  | some j =>
    if j.state == .pending then (s.jobcmd tile job 0).dropPending j 1
    else (s.jobcmd tile job 0).cancelJob j 1

/-- JOBSTS (spec/11 R218) of the job that JOBCMD names. -/
def JobState.code : JobState → Nat
  | .pending => 1 | .running => 2 | .suspending => 3 | .suspended => 4 | .resuming => 5 | .completing => 6
def State.jobsts (s : State) (t : Nat) : Nat :=
  match s.jobAt t (s.tile t).jobcmdJob with
  | none => 0
  | some j => j.state.code * 2 ^ 61 + j.status * 2 ^ 40 + (j.created - j.ended) % 2 ^ 40

/-! ### Counts and losses (spec/11 R225) -/

/-- STRAND_COUNT_REPORT (spec R225): a dock reports the strands it created and ended since its last report. -/
def execStrandCountReport (tile col job : Nat) (s : State) : Out :=
  let key := colKey tile col
  let c := s.col key
  .next <| match FMap.get? c.counts job with
  | none => s
  | some n =>
    let s1 := s.putCol key { c with counts := FMap.erase c.counts job }
    match s1.job? job with
    | some j => s1.putJob { j with created := j.created + n.1, ended := j.ended + n.2 }
    | none => s1
/-- The DETAIL of StrandLost: the job's handle above the low 48 bits of the strand's. -/
def lostDetail (job strand : Nat) : Nat := job * 2 ^ 48 + strand % 2 ^ 48
/-- LOSS_COUNT_ANSWER (spec R225): every surviving dock has answered with its count of the job's images; the strands missing are
reported lost, and count as ended. -/
def execLossCountAnswer (tile job : Nat) (s : State) : Out :=
  .next <| match s.jobAt tile job with
  | none => s
  | some j =>
    if !j.asked || s.cols.any (fun kv => (FMap.get? kv.2.counts job).isSome) then s
    else
      let held := (s.strands.filter (fun kv => kv.2.job == job)).length
      let lost := j.created - j.ended - held
      let known := j.lostKnown.take lost
      let s1 := s.putJob { j with asked := false, lostKnown := [], ended := j.ended + lost }
      let s2 := known.foldl (fun s h => s.raiseJob 0x43 j (lostDetail job h.toNat)) s1
      let s3 := if known.length < lost then s2.raiseJob 0x43 j (lostDetail job (2 ^ 48 - 1)) else s2
      if lost = 0 then s3 else s3.recordStatus job 2

end Sys2Proof.Machine
end

