-- ==== Sys2Proof/Machine/Registers.lean ====
section
/-! DEFINITION. What the registers of BAR0 read as (spec/04 R54 and the register maps it refers to). The table has no step for a plain
read, which changes nothing; registers whose read clears them have steps of their own. -/

namespace Sys2Proof.Machine

/-- BOOTSTS (spec/03 R45). -/
def State.bootsts (s : State) : Nat :=
  s.head.phase * 2 ^ 28 + s.head.live * 2 ^ 20 + s.head.diefail.toNat * 2 ^ 16 + (if s.head.grid7 then 2 ^ 12 else 0) + s.head.err
/-- Window control (spec/04 R55). -/
def Port.windowCtl (x : Port) : Nat := (if x.winEn then 2 ^ 63 else 0) + x.log2sz * 2 ^ 42 + x.winBase * 2 ^ 30
/-- EVCTL (spec/04 R63). -/
def Port.evctl (x : Port) : Nat := (if x.even then 2 ^ 63 else 0) + x.evlog2n * 2 ^ 32 + x.evvec
/-- QCTL (spec/04 R57). -/
def Queue.qctl (x : Queue) : Nat :=
  (if x.en then 2 ^ 63 else 0) + x.loc * 2 ^ 60 + x.evport * 2 ^ 48 + x.weight * 2 ^ 40 + x.prio * 2 ^ 37 + x.log2n * 2 ^ 32 + x.asid * 2 ^ 20 + x.vec
def QueueState.code : QueueState → Nat
  | .disabled => 0 | .active => 1 | .error => 2
/-- QSTAT (spec/04 R57). -/
def Queue.qstat (x : Queue) : Nat := x.state.code * 2 ^ 30 + (if x.state == .error then x.errc else 0)
def PowerState.code : PowerState → Nat
  | .run => 0 | .idle => 1 | .retain => 2 | .off => 3
/-- PWRCMD (spec/04 R54). -/
def Power.cmd (p : Power) : Nat := p.mode.code + p.result * 16 + (if p.target.isSome then 256 else 0)
def RecState.code : RecState → Nat
  | .free => 0 | .active => 1 | .suspended => 2 | .drained => 3
/-- A bind record as SLOTWIN shows it (spec/05 R79). -/
def BindRec.word (r : BindRec) : Nat :=
  r.job * 2 ^ 496 + r.asid * 2 ^ 484 + r.col * 2 ^ 480 + r.budget * 2 ^ 476 + r.state.code * 2 ^ 474 + r.entry * 2 ^ 400 + r.first * 2 ^ 360
  + r.ncnt * 2 ^ 320 + r.cmask.toNat * 2 ^ 272 + ((List.range 4).map (fun i => ((r.args[i]?).getD 0).toNat * 2 ^ (64 * (3 - i)))).sum
/-- An error-log entry (spec/11 R221). -/
def ElogEntry.word (e : ElogEntry) : Nat :=
  e.src * 2 ^ 248 + (if e.unc then 2 ^ 247 else 0) + e.paddr * 2 ^ 200 + e.handle.toNat * 2 ^ 136 + e.tseq * 2 ^ 104 + e.cyc
def TaskState.code : TaskState → Nat
  | .waiting => 1 | .ready => 2 | .running => 3 | .done => 4 | .faulted => 5 | .cancelled => 6
/-- An entry of the task ring (spec/10 R204). -/
def RingEntry.word (e : RingEntry) : Nat :=
  e.tseq * 2 ^ 224 + e.poster.toNat * 2 ^ 160 + e.raddr.toNat * 2 ^ 104 + e.tag * 2 ^ 92 + e.state.code * 2 ^ 88 + e.eng * 2 ^ 83 + e.fcode * 2 ^ 75
  + e.kind * 2 ^ 73 + e.faddr.toNat * 2 ^ 17
def HedgeState.code : HedgeState → Nat
  | .idle => 0 | .armed => 1 | .arrived => 2
/-- A hedge register (spec/18 R366). -/
def Hedge.word (x : Hedge) : Nat :=
  x.bytes * 2 ^ 88 + x.part * 2 ^ 72 + x.gen * 2 ^ 56 + x.relgen * 2 ^ 40 + x.state.code * 2 ^ 38 + x.rect.toNat * 2 ^ 24 + x.job * 2 ^ 8
/-- QPART (spec/07 R132). -/
def Quad.qpart (q : Quad) : Nat := (if q.busy then 2 ^ 63 else 0) + q.scrw * 2 ^ 8 + q.retw
/-- SVSTS (spec/09 R178). -/
def Quad.svsts (q : Quad) : Nat :=
  (if q.spilling then 2 ^ 63 else 0) + (if q.isForcing then 2 ^ 62 else 0) + q.runs.length * 2 ^ 56 + q.freeSlot * 2 ^ 32 + q.freeDir * 2 ^ 16
/-- A router's MESHCTL (spec/02 R33). -/
def Router.meshctl (x : Router) : Nat := x.epoch * 2 ^ 16 + (if x.oldBusy then 256 else 0) + x.active
/-- A 64-bit word of a wide register. -/
def dwordOf (v off : Nat) : Nat := bits v (off / 8 * 64) 64

/-- A register of a tile's management block, by its offset. DBGCTL needs the token's permission to halt, DBGSEL one to read or write registers
(spec/11 R227; log 37). The mesh control block of a Vacant tile, which has no router of its own, shows that of North (log 37). -/
def State.tileReg (s : State) (t o : Nat) : Nat :=
  let x := s.tile t
  let r := s.router ((s.siteOf t).getD 72)
  if o < 0x400 then
    (if o % 0x200 < 0x80 then (r.remapAt (o / 0x200) (o % 0x200 / 2)).toNat
     else if o % 0x200 < 0x80 + 136 then (r.routeAt (o / 0x200) ((o % 0x200 - 0x80) / 2)).toNat else 0)
  else if o = 0x400 then r.meshctl
  else if o = 0x2000 then x.pow.cap
  else if o = 0x2004 then x.repauth
  else if o = 0x2008 then x.pow.cmd
  else if o = 0x2010 then x.gpol.toNat
  else if o = 0x2018 then x.jobcmdResult * 2 ^ 60 + x.jobcmdJob
  else if o = 0x2020 then x.slotsel
  else if 0x2040 ≤ o && o < 0x2080 then dwordOf (match FMap.get? x.recs x.slotsel with | some b => b.word | none => 0) (o - 0x2040)
  else if 0x3000 ≤ o && o < 0x3400 then
    let q := s.quad (quadKey t ((o - 0x3000) / 0x100))
    let k := o % 0x100
    (if k = 0 then q.qpart
     else if 0x40 ≤ k && k < 0x80 then (FMap.getD q.ret ((k - 0x40) / 8) 0).toNat
     else if 0x80 ≤ k && k < 0xA0 then (FMap.getD q.ef ((k - 0x80) / 8) 0).toNat else 0)
  else if 0x4000 ≤ o && o < 0x5800 then (s.core (coreKey t ((o - 0x4000) / 8))).corectl.toNat
  else if 0x6000 ≤ o && o < 0x6080 then (if (s.col (colKey t ((o - 0x6000) / 8))).tbBusy then 2 ^ 61 else 0)
  else if 0x7000 ≤ o && o < 0x7100 then (if o % 0x40 = 0 then (s.quad (quadKey t ((o - 0x7000) / 0x40))).svsts else 0)
  else if 0x9000 ≤ o && o < 0xB000 then dwordOf (match FMap.get? x.ring ((o - 0x9000) / 32) with | some e => e.word | none => 0) (o % 32)
  else if o = 0xB000 then x.esave.toNat
  else if o = 0xB008 then x.supvec.toNat
  else if o = 0xB010 then x.supasid.toNat
  else if o = 0xB018 then x.supbedt.toNat
  else if o = 0xB020 then s.jobsts t
  else if o = 0xB030 then x.elogcnt
  else if 0xB100 ≤ o && o < 0xB900 then dwordOf (match FMap.get? x.elog ((o - 0xB100) / 32) with | some e => e.word | none => 0) (o % 32)
  else if 0xC000 ≤ o && o < 0xD800 then
    (if s.tileUp t && s.debugMay t 0 then (s.core (coreKey t ((o - 0xC000) / 8))).dbgctl.toNat else 2 ^ 64 - 1)
  else if o = 0xD800 then (if s.tileUp t && (s.debugMay t 1 || s.debugMay t 2) then x.dbgsel else 2 ^ 64 - 1)
  else if 0xDC00 ≤ o && o < 0xDE00 then
    (match s.selected t with
     | some st => if s.tileUp t && s.debugMay t 1 then leValue (((s.imageBytes st).drop (o - 0xDC00)).take 8) else 2 ^ 64 - 1
     | none => 2 ^ 64 - 1)
  else if 0xE000 ≤ o && o < 0xE100 then dwordOf (s.hedge t ((o - 0xE000) / 16)).word (o % 16)
  else 0
/-- A register of BAR0, by its offset (spec/04 R54): an offset without one reads as zero, an Unbound tile's block as all-ones.
DESIGN CHOICE (log 37): outside its mesh control block the block of a Vacant tile answers the registers that its wipe has left; spec/02 R32
speaks of its traffic and not of the host's view. -/
def State.register (s : State) (off : Nat) : Nat :=
  if off < 0x10 then bits s.head.serial.toNat (off / 8 * 64) 64
  else if off = 0x10 then s.bootsts
  else if off = 0x14 then s.head.epoch * 2 ^ 16 + (if s.head.grid7 then 7 else 8)
  else if 0x1000 ≤ off && off < 0x1080 then (if off % 16 = 0 then (s.port ((off - 0x1000) / 16)).windowCtl else 0)
  else if 0x2000 ≤ off && off < 0x2200 then
    let x := s.port ((off - 0x2000) / 64)
    (match off % 64 with
     | 0 => x.evbase.toNat | 8 => x.evctl | 0x10 => x.evhead.toNat | 0x14 => x.evtail.toNat | _ => 0)
  else if 0x10000 ≤ off && off < 0x14000 then
    dwordOf (FMap.getD (s.die ((off - 0x10000) / 4096)).apers (off % 4096 / 16) 0).toNat (off % 16)
  else if 0x20000 ≤ off && off < 0x60000 then
    dwordOf (FMap.getD (s.die ((off - 0x20000) / 65536)).peers (off % 65536 / 16) 0).toNat (off % 16)
  else if 0x100000 ≤ off && off < 0x500000 then
    let t := (off - 0x100000) / 65536
    if s.unboundTile t then 2 ^ 64 - 1 else s.tileReg t (off % 65536)
  else if 0x800000 ≤ off && off < 0xA00000 then
    let x := s.queue ((off - 0x800000) / 32)
    (match off % 32 with
     | 0 => x.base.toNat | 8 => x.qctl | 0x10 => x.head.toNat | 0x14 => x.qstat | _ => 0)
  else 0
/-- The registers whose read has an effect, and a row of the opcode table: WINFENCE, EVLOST, the port status registers, the counters of a quadrant
and of a sieve, DOCKSTS and RKSTS (spec/02 R24, spec/04 R55, R63, spec/06 R100, spec/07 R132, spec/09 R178, spec/10 R202). -/
def readsWithEffect (off : Nat) : Bool :=
  let o := off % 65536
  if off < 0x100000 then
    (decide (0x1000 ≤ off) && decide (off < 0x1080) && off % 16 == 8) || (decide (0x2000 ≤ off) && decide (off < 0x2200) && off % 64 == 0x18)
  else
    decide (off < 0x500000) && ((decide (0x1000 ≤ o) && decide (o < 0x1040))
      || (decide (0x3000 ≤ o) && decide (o < 0x3400) && decide (0x10 ≤ o % 0x100) && decide (o % 0x100 < 0x28))
      || (decide (0x5800 ≤ o) && decide (o < 0x5880))
      || (decide (0x7000 ≤ o) && decide (o < 0x7100) && decide (8 ≤ o % 0x40) && decide (o % 0x40 < 0x30))
      || (decide (0x7800 ≤ o) && decide (o < 0x7880)))

end Sys2Proof.Machine
end

