-- ==== Sys2Proof/Machine/Host.lean ====
section
/-! DEFINITION. The host's own accesses: requests that a port does not support, function-level reset (spec/04 R53), writes of registers that
store fields (spec/04 R54), and the memory window (spec/04 R55, R56). -/

namespace Sys2Proof.Machine

/-- UNSUPPORTED_REQUEST (spec R53): Unsupported Request, and AddressError with the address. -/
def execUnsupportedRequest (port addr : Nat) (s : State) : Out :=
  .next ((s.reply .unsupported).raiseFrom (port / 2 % 4) 0x30 0 addr)
/-- FUNCTION_LEVEL_RESET (spec R53): the port's window and event-ring registers return to reset; LOG2SZ is fixed. -/
def execFunctionLevelReset (port : Nat) (s : State) : Out :=
  .next (if port < 8 then s.putPort port { Port.reset with log2sz := (s.port port).log2sz } else s)

/-! ### Register writes (spec/04 R54) -/

/-- A word masked to the fields that a register has. -/
def keepBits (v : Nat) (l : List (Nat × Nat)) : Nat := (l.map (fun p => bits v p.1 p.2 * 2 ^ p.1)).sum
/-- Window control (spec/04 R55). -/
def Port.setWindow (x : Port) (v : Nat) : Port := { x with winEn := bits v 63 1 == 1, winBase := bits v 30 12 }
/-- Event-ring control (spec/04 R63): EVBASE and EVCTL. EVTAIL and EVLOST are not written, EVHEAD is EVHEAD_WRITE. -/
def State.writeRing (s : State) (p o : Nat) (v : Nat) : State :=
  let x := s.port p
  if o = 0 then s.putPort p { x with evbase := .ofNat 64 (v / 4096 * 4096) }
  else if o = 8 then
    (s.putPort p { x with even := bits v 63 1 == 1, evlog2n := bits v 32 5, evvec := bits v 0 11 }).drainEvents p
  else s
/-- Half of a 128-bit table entry. -/
def setHalf128 (old : BitVec 128) (high : Bool) (v : Nat) : BitVec 128 :=
  if high then .ofNat 128 (old.toNat % 2 ^ 64 + v % 2 ^ 64 * 2 ^ 64) else .ofNat 128 (old.toNat / 2 ^ 64 * 2 ^ 64 + v % 2 ^ 64)
/-- Half of an aperture entry (spec/04 R64). -/
def State.writeAper (s : State) (d e : Nat) (high : Bool) (v : Nat) : State :=
  let x := s.die d
  let w := if high then v / 4096 * 4096 else keepBits v [(0, 32), (61, 3)]
  s.putDie d { x with apers := FMap.set x.apers e (setHalf128 (FMap.getD x.apers e 0) high w) }
/-- Half of a peer entry: the port mask in the low half, the MAC address in the high half (log 5). -/
def State.writePeer (s : State) (d e : Nat) (high : Bool) (v : Nat) : State :=
  let x := s.die d
  let w := if high then bits v 0 48 else bits v 0 40
  s.putDie d { x with
    peers := FMap.set x.peers e (setHalf128 (FMap.getD x.peers e 0) high w)
    masked := if high then x.masked else FMap.erase x.masked e }
/-- TILECAP (spec/04 R54). -/
def tileCap (v : Nat) : Nat := let w := bits v 0 10; if 300 ≤ w && w ≤ 760 && w % 10 == 0 then w else 760
/-- GPOL (spec/05 R74). -/
def gpolStored (v : Nat) : BitVec 32 :=
  let m := bits v 24 8
  let sh := bits v 16 8
  let p := bits v 8 8
  .ofNat 32 (max 1 m * 2 ^ 24 + (if sh = 0 || 15 < sh then 15 else sh) * 2 ^ 16 + (if p = 0 || 100 < p then 10 else p) * 2 ^ 8 + bits v 0 2)
/-- CORECTL (spec/06 R100). -/
def corectlStored (v : Nat) : BitVec 64 :=
  let e := bits v 24 8
  let q := bits v 16 6
  .ofNat 64 ((if e = 0 then 32 else e) * 2 ^ 24 + (if 2 ≤ q && q ≤ 32 then q else 8) * 2 ^ 16 + bits v 8 8 * 2 ^ 8)
/-- A range register (spec/07 R133): a column outside the quadrant stores EN as 0. -/
def rangeStored (q v : Nat) : BitVec 64 :=
  .ofNat 64 (keepBits v [(16, 16), (32, 16), (59, 4)] + (if bits v 59 4 / 4 = q then bits v 63 1 * 2 ^ 63 else 0))
/-- DBGCTL's HOB and GROUP (spec/11 R228). -/
def dbgctlStored (old : BitVec 64) (v : Nat) : BitVec 64 := setBits (setBits old 60 1 (bits v 60 1)) 44 8 (bits v 44 8)
/-- A quadrant's range registers. -/
def State.writeRange (s : State) (t q o v : Nat) : State :=
  let k := quadKey t q
  let x := s.quad k
  if 0x40 ≤ o && o < 0x80 then s.putQuad k { x with ret := FMap.set x.ret ((o - 0x40) / 8) (rangeStored q v) }
  else if 0x80 ≤ o && o < 0xA0 then s.putQuad k { x with ef := FMap.set x.ef ((o - 0x80) / 8) (rangeStored q v) }
  else s
/-- A register of a tile's management block that stores its fields. -/
def State.writeTileReg (s : State) (t o v : Nat) : State :=
  let x := s.tile t
  if o = 0x2000 then s.putTile t { x with pow := { x.pow with cap := tileCap v } }
  else if o = 0x2004 then s.putTile t { x with repauth := bits v 0 3 }
  else if o = 0x2010 then s.putTile t { x with gpol := gpolStored v }
  else if o = 0x2018 then (if bits v 62 2 = 0 then s.putTile t { x with jobcmdJob := bits v 0 16 } else s)
  else if o = 0x2020 then s.putTile t { x with slotsel := bits v 0 10 }
  else if 0x3000 ≤ o && o < 0x3400 && o % 8 = 0 then s.writeRange t ((o - 0x3000) / 0x100) (o % 0x100) v
  else if 0x4000 ≤ o && o < 0x5800 && o % 8 = 0 then
    let k := coreKey t ((o - 0x4000) / 8)
    (s.putCore k { s.core k with corectl := corectlStored v }).reserve k
  else if o = 0xB000 then s.putTile t { x with esave := .ofNat 64 (keepBits v [(25, 7), (32, 4), (63, 1)]) }
  else if o = 0xB008 then s.putTile t { x with supvec := .ofNat 64 (keepBits v [(1, 55), (63, 1)]) }
  else if o = 0xB010 then s.putTile t { x with supasid := .ofNat 12 v }
  else if o = 0xB018 then s.putTile t { x with supbedt := .ofNat 64 (keepBits v [(6, 36), (52, 9)]), supValid := false }
  else if 0xC000 ≤ o && o < 0xD800 && o % 8 = 0 then
    let k := coreKey t ((o - 0xC000) / 8)
    (if s.tileUp t && s.debugMay t 0 then (s.wake t).putCore k { s.core k with dbgctl := dbgctlStored (s.core k).dbgctl v } else s)
  else if o = 0xD800 then (if s.tileUp t && (s.debugMay t 1 || s.debugMay t 2) then (s.putTile t { x with dbgsel := bits v 0 14 }).wake t else s)
  else s
/-- The host has read a register of a tile's block: a debugger's read moves an Idle tile to Run first (spec/03 R51). -/
def State.readWake (s : State) (t o : Nat) : State :=
  let permitted := (decide (0xC000 ≤ o) && decide (o < 0xD800) && s.debugMay t 0) || (o == 0xD800 && (s.debugMay t 1 || s.debugMay t 2))
    || (decide (0xDC00 ≤ o) && decide (o < 0xDE00) && s.debugMay t 1)
  if permitted && s.tileUp t then s.wake t else s
/-- The peer timeout of a die, in steps of 100 microseconds from 1 to 1,000 (spec/02 R40). -/
def State.writePeerTimeout (s : State) (d v : Nat) : State :=
  if 1 ≤ v && v ≤ 1000 then s.putDie d { s.die d with peerTimeout := v } else s
/-- REGISTER_WRITE (spec R54): a register without a behaviour of its own stores its fields; other offsets ignore writes. Beyond BAR0 the operand
names, at 2^32 + d, the peer timeout of die d, for which the spec gives no offset, and at 2^33 + o a read of the register at o, for
which the table has no row unless the read has an effect (log 29). -/
def execRegisterWrite (off : Nat) (val : BitVec 64) (s : State) : Out :=
  let v := val.toNat
  .next <|
    if 2 ^ 33 ≤ off then
      let o := off - 2 ^ 33
      if readsWithEffect o then s
      else (if 0x100000 ≤ o && o < 0x500000 then s.readWake ((o - 0x100000) / 65536) (o % 65536) else s).reply (.value (s.register o))
    else if 2 ^ 32 ≤ off then (if off < 2 ^ 32 + 4 then s.writePeerTimeout (off - 2 ^ 32) v else s)
    else if 0x1000 ≤ off && off < 0x1080 then
      (if off % 16 = 0 then s.putPort ((off - 0x1000) / 16) ((s.port ((off - 0x1000) / 16)).setWindow v) else s)
    else if 0x2000 ≤ off && off < 0x2200 then s.writeRing ((off - 0x2000) / 64) (off % 64) v
    else if 0x10000 ≤ off && off < 0x14000 && off % 8 = 0 then
      s.writeAper ((off - 0x10000) / 4096) (off % 4096 / 16) (off % 16 == 8) v
    else if 0x20000 ≤ off && off < 0x60000 && off % 8 = 0 then
      s.writePeer ((off - 0x20000) / 65536) (off % 65536 / 16) (off % 16 == 8) v
    else if 0x100000 ≤ off && off < 0x500000 then
      (if s.tileLive ((off - 0x100000) / 65536) then s.writeTileReg ((off - 0x100000) / 65536) (off % 65536) v else s)
    else if 0x800000 ≤ off && off < 0xA00000 then
      (if off % 32 = 0 then s.writeQbase ((off - 0x800000) / 32) val
       else if off % 32 = 8 then s.writeQctl ((off - 0x800000) / 32) v
       else s)
    else s

/-! ### The window (spec/04 R55, R56) -/

/-- The panel physical address of a window's offset; bits of BASE below the window's size count as zero. -/
def Port.windowPa (x : Port) (off : Nat) : Nat := x.winBase * 2 ^ 30 / 2 ^ x.log2sz * 2 ^ x.log2sz + off
/-- Aligned 64-byte pieces of len bytes from an address. -/
def pieces (pa len : Nat) : List (Nat × Nat) :=
  (List.range ((pa + len + 63) / 64 - pa / 64)).map (fun i =>
    let lo := max pa ((pa / 64 + i) * 64)
    (lo, min (pa + len) ((pa / 64 + i) * 64 + 64) - lo))
/-- WINDOW_READ (spec R56): the pieces go to their homes, each to be served on its own; all-ones where the window is closed. -/
def execWindowRead (port off len : Nat) (s : State) : Out :=
  let x := s.port port
  let l := pieces (x.windowPa off) len
  .next <|
    if !x.winEn || !s.dieWorks (port / 2) || l.isEmpty then s.reply (.bytes (List.replicate len 255))
    else
      let s1 := { s.bump with winReads := FMap.set s.winReads s.fresh ⟨port, x.windowPa off, len, [], l.length, false⟩ }
      l.foldl (fun s1 p => s1.sendFrom (64 + port / 2) (.winRead s.fresh p.1 p.2 (units p.1 p.2))) s1
/-- WINDOW_WRITE (spec R56): the pieces go to their homes as posted stores; a closed window discards. -/
def execWindowWrite (port off : Nat) (data : List Byte) (s : State) : Out :=
  let x := s.port port
  let pa := x.windowPa off
  .next <|
    if !x.winEn || !s.dieWorks (port / 2) then s
    else (pieces pa data.length).foldl (fun s p => s.sendFrom (64 + port / 2) (.winWrite port p.1 p.2
      ((units p.1 p.2).map (fun u => (u.1, (data.drop (u.1 - pa)).take u.2))))) s
/-- WINFENCE_READ (spec R55): returns once every write before it is acknowledged: 1 if one was discarded. -/
def execWinfenceRead (port : Nat) (s : State) : Out :=
  .next <|
    if s.msgs.any (fun kv => match kv.2 with | .winWrite p _ _ _ => p == port | _ => false) then s
    else s.reply (.value (if (s.port port).winFail then 1 else 0))

end Sys2Proof.Machine
end

