-- ==== Sys2Proof/Machine/Integer.lean ====
section
/-! DEFINITION. The meanings of the integer instructions (spec/15 R293 to R301). -/

namespace Sys2Proof.Machine

/-- ADD (spec R294): d := s1 + s2. -/
def execAdd (d : GReg) (a : GSrc) (b : GSrc) (s : State) : Out := s.op2 (encode (.add d a b)) 4 d a b aluAdd
/-- SUB (spec R294): d := s1 − s2. -/
def execSub (d : GReg) (a : GSrc) (b : GSrc) (s : State) : Out := s.op2 (encode (.sub d a b)) 4 d a b aluSub
/-- MUL (spec R294): d := low 64 bits of s1 × s2. -/
def execMul (d : GReg) (a : GSrc) (b : GSrc) (s : State) : Out := s.op2 (encode (.mul d a b)) 4 d a b aluMul
/-- MULH (spec R294): d := high 64 bits of the signed product. -/
def execMulh (d : GReg) (a : GSrc) (b : GSrc) (s : State) : Out := s.op2 (encode (.mulh d a b)) 4 d a b aluMulh
/-- MULHN (spec R294): d := high 64 bits of the unsigned product. -/
def execMulhn (d : GReg) (a : GSrc) (b : GSrc) (s : State) : Out := s.op2 (encode (.mulhn d a b)) 4 d a b aluMulhn
/-- DIV (spec R294): d := the signed quotient under SDivRem. -/
def execDiv (d : GReg) (a : GSrc) (b : GSrc) (s : State) : Out := s.op2 (encode (.div d a b)) 4 d a b aluDiv
/-- DIVN (spec R294): d := the unsigned quotient under UDivRem. -/
def execDivn (d : GReg) (a : GSrc) (b : GSrc) (s : State) : Out := s.op2 (encode (.divn d a b)) 4 d a b aluDivn
/-- REM (spec R294): d := the signed remainder. -/
def execRem (d : GReg) (a : GSrc) (b : GSrc) (s : State) : Out := s.op2 (encode (.rem d a b)) 4 d a b aluRem
/-- REMN (spec R294): d := the unsigned remainder. -/
def execRemn (d : GReg) (a : GSrc) (b : GSrc) (s : State) : Out := s.op2 (encode (.remn d a b)) 4 d a b aluRemn
/-- AND (spec R296): d := s1 AND s2. -/
def execAnd (d : GReg) (a : GSrc) (b : GSrc) (s : State) : Out := s.op2 (encode (.and d a b)) 4 d a b aluAnd
/-- OR (spec R296): d := s1 OR s2. -/
def execOr (d : GReg) (a : GSrc) (b : GSrc) (s : State) : Out := s.op2 (encode (.or d a b)) 4 d a b aluOr
/-- XOR (spec R296): d := s1 XOR s2. -/
def execXor (d : GReg) (a : GSrc) (b : GSrc) (s : State) : Out := s.op2 (encode (.xor d a b)) 4 d a b aluXor
/-- ANDN (spec R296): d := s1 AND NOT s2. -/
def execAndn (d : GReg) (a : GSrc) (b : GSrc) (s : State) : Out := s.op2 (encode (.andn d a b)) 4 d a b aluAndn
/-- SLL (spec R296): d := s1 shifted left by s2[5:0]. -/
def execSll (d : GReg) (a : GSrc) (b : GSrc) (s : State) : Out := s.op2 (encode (.sll d a b)) 4 d a b aluSll
/-- SRL (spec R296): d := s1 shifted right logically by s2[5:0]. -/
def execSrl (d : GReg) (a : GSrc) (b : GSrc) (s : State) : Out := s.op2 (encode (.srl d a b)) 4 d a b aluSrl
/-- SRA (spec R296): d := s1 shifted right arithmetically by s2[5:0]. -/
def execSra (d : GReg) (a : GSrc) (b : GSrc) (s : State) : Out := s.op2 (encode (.sra d a b)) 4 d a b aluSra
/-- ROTL (spec R296): d := s1 rotated left by s2[5:0]. -/
def execRotl (d : GReg) (a : GSrc) (b : GSrc) (s : State) : Out := s.op2 (encode (.rotl d a b)) 4 d a b aluRotl
/-- MIN (spec R298): d := the signed minimum. -/
def execMin (d : GReg) (a : GSrc) (b : GSrc) (s : State) : Out := s.op2 (encode (.min d a b)) 4 d a b aluMin
/-- MAX (spec R298): d := the signed maximum. -/
def execMax (d : GReg) (a : GSrc) (b : GSrc) (s : State) : Out := s.op2 (encode (.max d a b)) 4 d a b aluMax
/-- MINN (spec R298): d := the unsigned minimum. -/
def execMinn (d : GReg) (a : GSrc) (b : GSrc) (s : State) : Out := s.op2 (encode (.minn d a b)) 4 d a b aluMinn
/-- MAXN (spec R298): d := the unsigned maximum. -/
def execMaxn (d : GReg) (a : GSrc) (b : GSrc) (s : State) : Out := s.op2 (encode (.maxn d a b)) 4 d a b aluMaxn
/-- SLT (spec R298): d := 1 if s1 < s2 signed, otherwise 0. -/
def execSlt (d : GReg) (a : GSrc) (b : GSrc) (s : State) : Out := s.op2 (encode (.slt d a b)) 4 d a b aluSlt
/-- SLTN (spec R298): d := 1 if s1 < s2 unsigned, otherwise 0. -/
def execSltn (d : GReg) (a : GSrc) (b : GSrc) (s : State) : Out := s.op2 (encode (.sltn d a b)) 4 d a b aluSltn
/-- SEQ (spec R298): d := 1 if s1 = s2, otherwise 0. -/
def execSeq (d : GReg) (a : GSrc) (b : GSrc) (s : State) : Out := s.op2 (encode (.seq d a b)) 4 d a b aluSeq
/-- ADD_W (spec R295): d := sign extension of the 32-bit sum. -/
def execAddW (d : GReg) (a : GSrc) (b : GSrc) (s : State) : Out := s.op2 (encode (.addW d a b)) 4 d a b aluAddW
/-- SUB_W (spec R295): d := sign extension of the 32-bit difference. -/
def execSubW (d : GReg) (a : GSrc) (b : GSrc) (s : State) : Out := s.op2 (encode (.subW d a b)) 4 d a b aluSubW
/-- SLL_W (spec R295): d := sign extension of the 32-bit left shift. -/
def execSllW (d : GReg) (a : GSrc) (b : GSrc) (s : State) : Out := s.op2 (encode (.sllW d a b)) 4 d a b aluSllW
/-- SRL_W (spec R295): d := sign extension of the 32-bit logical right shift. -/
def execSrlW (d : GReg) (a : GSrc) (b : GSrc) (s : State) : Out := s.op2 (encode (.srlW d a b)) 4 d a b aluSrlW
/-- SRA_W (spec R295): d := sign extension of the 32-bit arithmetic right shift. -/
def execSraW (d : GReg) (a : GSrc) (b : GSrc) (s : State) : Out := s.op2 (encode (.sraW d a b)) 4 d a b aluSraW
/-- MADD (spec R294): d := s1 × s2 + s3 modulo 2^64. -/
def execMadd (d : GReg) (a : GSrc) (b : GSrc) (c : GSrc) (s : State) : Out :=
  s.op3 (encode (.madd d a b c)) 4 d a b c aluMadd
/-- SEL (spec R298): d := s2 if s1 ≠ 0, otherwise s3, with all three sources read. -/
def execSel (d : GReg) (a : GSrc) (b : GSrc) (c : GSrc) (s : State) : Out := s.op3 (encode (.sel d a b c)) 4 d a b c aluSel
/-- MOV (spec R301): d := s1. -/
def execMov (d : GReg) (a : GSrc) (s : State) : Out := s.op1 (encode (.mov d a)) 4 d a aluMov
/-- CLZ (spec R299): d := the count of leading zero bits. -/
def execClz (d : GReg) (a : GSrc) (s : State) : Out := s.op1 (encode (.clz d a)) 4 d a aluClz
/-- CTZ (spec R299): d := the count of trailing zero bits. -/
def execCtz (d : GReg) (a : GSrc) (s : State) : Out := s.op1 (encode (.ctz d a)) 4 d a aluCtz
/-- POPC (spec R299): d := the count of set bits. -/
def execPopc (d : GReg) (a : GSrc) (s : State) : Out := s.op1 (encode (.popc d a)) 4 d a aluPopc
/-- BREV (spec R299): d := s1 with its bit order reversed. -/
def execBrev (d : GReg) (a : GSrc) (s : State) : Out := s.op1 (encode (.brev d a)) 4 d a aluBrev
/-- BSWAP (spec R299): d := s1 with its byte order reversed. -/
def execBswap (d : GReg) (a : GSrc) (s : State) : Out := s.op1 (encode (.bswap d a)) 4 d a aluBswap
/-- SEXT_B (spec R299): d := sign extension of the low 8 bits. -/
def execSextB (d : GReg) (a : GSrc) (s : State) : Out := s.op1 (encode (.sextB d a)) 4 d a (aluSext 8)
/-- ZEXT_B (spec R299): d := zero extension of the low 8 bits. -/
def execZextB (d : GReg) (a : GSrc) (s : State) : Out := s.op1 (encode (.zextB d a)) 4 d a (aluZext 8)
/-- SEXT_H (spec R299): d := sign extension of the low 16 bits. -/
def execSextH (d : GReg) (a : GSrc) (s : State) : Out := s.op1 (encode (.sextH d a)) 4 d a (aluSext 16)
/-- ZEXT_H (spec R299): d := zero extension of the low 16 bits. -/
def execZextH (d : GReg) (a : GSrc) (s : State) : Out := s.op1 (encode (.zextH d a)) 4 d a (aluZext 16)
/-- SEXT_W (spec R299): d := sign extension of the low 32 bits. -/
def execSextW (d : GReg) (a : GSrc) (s : State) : Out := s.op1 (encode (.sextW d a)) 4 d a (aluSext 32)
/-- ZEXT_W (spec R299): d := zero extension of the low 32 bits. -/
def execZextW (d : GReg) (a : GSrc) (s : State) : Out := s.op1 (encode (.zextW d a)) 4 d a (aluZext 32)
/-- ADDI (spec R297): d := s1 + sign-extended IMM12. -/
def execAddi (d : GReg) (a : GSrc) (imm : BitVec 12) (s : State) : Out :=
  s.op1 (encode (.addi d a imm)) 4 d a (fun x => aluAdd x (sextW imm.toNat 12))
/-- ANDI (spec R296): d := s1 AND the immediate. -/
def execAndi (d : GReg) (a : GSrc) (imm : BitVec 12) (s : State) : Out :=
  s.op1 (encode (.andi d a imm)) 4 d a (fun x => aluAnd x (sextW imm.toNat 12))
/-- ORI (spec R296): d := s1 OR the immediate. -/
def execOri (d : GReg) (a : GSrc) (imm : BitVec 12) (s : State) : Out :=
  s.op1 (encode (.ori d a imm)) 4 d a (fun x => aluOr x (sextW imm.toNat 12))
/-- XORI (spec R296): d := s1 XOR the immediate. -/
def execXori (d : GReg) (a : GSrc) (imm : BitVec 12) (s : State) : Out :=
  s.op1 (encode (.xori d a imm)) 4 d a (fun x => aluXor x (sextW imm.toNat 12))
/-- SLTI (spec R297): d := 1 if s1 < imm signed, otherwise 0. -/
def execSlti (d : GReg) (a : GSrc) (imm : BitVec 12) (s : State) : Out :=
  s.op1 (encode (.slti d a imm)) 4 d a (fun x => aluSlt x (sextW imm.toNat 12))
/-- SLLI (spec R296): d := s1 shifted left by the immediate amount. -/
def execSlli (d : GReg) (a : GSrc) (n : BitVec 6) (s : State) : Out :=
  s.op1 (encode (.slli d a n)) 4 d a (fun x => aluSll x (zextW n.toNat 6))
/-- SRLI (spec R296): d := s1 shifted right logically by the immediate amount. -/
def execSrli (d : GReg) (a : GSrc) (n : BitVec 6) (s : State) : Out :=
  s.op1 (encode (.srli d a n)) 4 d a (fun x => aluSrl x (zextW n.toNat 6))
/-- SRAI (spec R296): d := s1 shifted right arithmetically by the immediate amount. -/
def execSrai (d : GReg) (a : GSrc) (n : BitVec 6) (s : State) : Out :=
  s.op1 (encode (.srai d a n)) 4 d a (fun x => aluSra x (zextW n.toNat 6))
/-- ROTLI (spec R296): d := s1 rotated left by the immediate amount. -/
def execRotli (d : GReg) (a : GSrc) (n : BitVec 6) (s : State) : Out :=
  s.op1 (encode (.rotli d a n)) 4 d a (fun x => aluRotl x (zextW n.toNat 6))
/-- A bit field that reaches past bit 63 is a reserved field at step 6 of spec/13 R268 (spec/15 R300). -/
def bfLimit (word : Nat) (p k : BitVec 6) : State → Strand → Option Trip :=
  fun _ _ => if 64 < p.toNat + k.toNat + 1 then some (reserved word) else none
/-- BFX (spec R300): d := sign-extended bit field of s1. -/
def execBfx (d : GReg) (a : GSrc) (p : BitVec 6) (k : BitVec 6) (s : State) : Out := s.issue (encode (.bfx d a p k)) 4 none (bfLimit (encode (.bfx d a p k)) p k) (fun _ => [gsrc a]) [] (fun x =>
    x.done x.s (x.t.setG d (aluBfx p.toNat (k.toNat + 1) (x.o.gv a.reg))))
/-- BFXN (spec R300): d := zero-extended bit field of s1. -/
def execBfxn (d : GReg) (a : GSrc) (p : BitVec 6) (k : BitVec 6) (s : State) : Out := s.issue (encode (.bfxn d a p k)) 4 none (bfLimit (encode (.bfxn d a p k)) p k) (fun _ => [gsrc a]) [] (fun x =>
    x.done x.s (x.t.setG d (aluBfxn p.toNat (k.toNat + 1) (x.o.gv a.reg))))
/-- BFI (spec R300): Inserts the low bits of s1 into a field of d. -/
def execBfi (d : GReg) (a : GSrc) (p : BitVec 6) (k : BitVec 6) (s : State) : Out := s.issue (encode (.bfi d a p k)) 4 none (bfLimit (encode (.bfi d a p k)) p k) (fun _ => [gsrc a, (d.toNat, false)]) [] (fun x =>
    x.done x.s (x.t.setG d (aluBfi p.toNat (k.toNat + 1) (x.o.gv d) (x.o.gv a.reg))))
/-- LI (spec R301): d := sign-extended IMM21. -/
def execLi (d : GReg) (imm : BitVec 21) (s : State) : Out := s.op0 (encode (.li d imm)) 4 d (fun _ => sextW imm.toNat 21)
/-- LUI (spec R301): d := IMM21 × 2^12. -/
def execLui (d : GReg) (imm : BitVec 21) (s : State) : Out := s.op0 (encode (.lui d imm)) 4 d (fun _ => aluLui imm)
/-- AUIPC (spec R301): d := PC + IMM21 × 2^12. -/
def execAuipc (d : GReg) (imm : BitVec 21) (s : State) : Out :=
  s.op0 (encode (.auipc d imm)) 4 d (fun t => t.pc.zeroExtend 64 + aluLui imm)
/-- ADD_16 (spec R269): 16-bit d := d + s. -/
def execAdd16 (d : GReg) (r : GReg) (s : State) : Out := s.opHa (encode (.add16 d r)) d r aluAdd
/-- SUB_16 (spec R269): 16-bit d := d − s. -/
def execSub16 (d : GReg) (r : GReg) (s : State) : Out := s.opHa (encode (.sub16 d r)) d r aluSub
/-- AND_16 (spec R269): 16-bit d := d AND s. -/
def execAnd16 (d : GReg) (r : GReg) (s : State) : Out := s.opHa (encode (.and16 d r)) d r aluAnd
/-- OR_16 (spec R269): 16-bit d := d OR s. -/
def execOr16 (d : GReg) (r : GReg) (s : State) : Out := s.opHa (encode (.or16 d r)) d r aluOr
/-- XOR_16 (spec R269): 16-bit d := d XOR s. -/
def execXor16 (d : GReg) (r : GReg) (s : State) : Out := s.opHa (encode (.xor16 d r)) d r aluXor
/-- MOV_16 (spec R269): 16-bit d := s. -/
def execMov16 (d : GReg) (r : GReg) (s : State) : Out := s.op1 (encode (.mov16 d r)) 2 d ⟨r, false⟩ aluMov
/-- SLL_16 (spec R269): 16-bit d := d shifted left by s. -/
def execSll16 (d : GReg) (r : GReg) (s : State) : Out := s.opHa (encode (.sll16 d r)) d r aluSll
/-- SRL_16 (spec R269): 16-bit d := d shifted right logically by s. -/
def execSrl16 (d : GReg) (r : GReg) (s : State) : Out := s.opHa (encode (.srl16 d r)) d r aluSrl
/-- ADD_W_16 (spec R269): 16-bit ADD.w d, d, s. -/
def execAddW16 (d : GReg) (r : GReg) (s : State) : Out := s.opHa (encode (.addW16 d r)) d r aluAddW
/-- SUB_W_16 (spec R269): 16-bit SUB.w d, d, s. -/
def execSubW16 (d : GReg) (r : GReg) (s : State) : Out := s.opHa (encode (.subW16 d r)) d r aluSubW
/-- ANDN_16 (spec R269): 16-bit d := d AND NOT s. -/
def execAndn16 (d : GReg) (r : GReg) (s : State) : Out := s.opHa (encode (.andn16 d r)) d r aluAndn
/-- SRA_16 (spec R269): 16-bit arithmetic right shift of d by s. -/
def execSra16 (d : GReg) (r : GReg) (s : State) : Out := s.opHa (encode (.sra16 d r)) d r aluSra
/-- MUL_16 (spec R269): 16-bit d := d × s. -/
def execMul16 (d : GReg) (r : GReg) (s : State) : Out := s.opHa (encode (.mul16 d r)) d r aluMul
/-- SLT_16 (spec R269): 16-bit SLT d, d, s. -/
def execSlt16 (d : GReg) (r : GReg) (s : State) : Out := s.opHa (encode (.slt16 d r)) d r aluSlt
/-- SLTN_16 (spec R269): 16-bit SLTN d, d, s. -/
def execSltn16 (d : GReg) (r : GReg) (s : State) : Out := s.opHa (encode (.sltn16 d r)) d r aluSltn
/-- SEQ_16 (spec R269): 16-bit SEQ d, d, s. -/
def execSeq16 (d : GReg) (r : GReg) (s : State) : Out := s.opHa (encode (.seq16 d r)) d r aluSeq
/-- MIN_16 (spec R269): 16-bit MIN d, d, s. -/
def execMin16 (d : GReg) (r : GReg) (s : State) : Out := s.opHa (encode (.min16 d r)) d r aluMin
/-- MAX_16 (spec R269): 16-bit MAX d, d, s. -/
def execMax16 (d : GReg) (r : GReg) (s : State) : Out := s.opHa (encode (.max16 d r)) d r aluMax
/-- MINN_16 (spec R269): 16-bit MINN d, d, s. -/
def execMinn16 (d : GReg) (r : GReg) (s : State) : Out := s.opHa (encode (.minn16 d r)) d r aluMinn
/-- MAXN_16 (spec R269): 16-bit MAXN d, d, s. -/
def execMaxn16 (d : GReg) (r : GReg) (s : State) : Out := s.opHa (encode (.maxn16 d r)) d r aluMaxn
/-- ROTL_16 (spec R269): 16-bit ROTL d, d, s. -/
def execRotl16 (d : GReg) (r : GReg) (s : State) : Out := s.opHa (encode (.rotl16 d r)) d r aluRotl
/-- MULH_16 (spec R269): 16-bit MULH d, d, s. -/
def execMulh16 (d : GReg) (r : GReg) (s : State) : Out := s.opHa (encode (.mulh16 d r)) d r aluMulh
/-- MULHN_16 (spec R269): 16-bit MULHN d, d, s. -/
def execMulhn16 (d : GReg) (r : GReg) (s : State) : Out := s.opHa (encode (.mulhn16 d r)) d r aluMulhn
/-- ADDI_16 (spec R270): 16-bit d := d + sign-extended IMM6. -/
def execAddi16 (d : GReg) (imm : BitVec 6) (s : State) : Out :=
  s.op1 (encode (.addi16 d imm)) 2 d ⟨d, false⟩ (fun x => aluAdd x (sextW imm.toNat 6))
/-- ANDI_16 (spec R270): 16-bit d := d AND sign-extended IMM6. -/
def execAndi16 (d : GReg) (imm : BitVec 6) (s : State) : Out :=
  s.op1 (encode (.andi16 d imm)) 2 d ⟨d, false⟩ (fun x => aluAnd x (sextW imm.toNat 6))
/-- LI_16 (spec R270): 16-bit d := sign-extended IMM6. -/
def execLi16 (d : GReg) (imm : BitVec 6) (s : State) : Out := s.op0 (encode (.li16 d imm)) 2 d (fun _ => sextW imm.toNat 6)
/-- SLLI_16 (spec R270): 16-bit d := d shifted left by IMM6. -/
def execSlli16 (d : GReg) (imm : BitVec 6) (s : State) : Out :=
  s.op1 (encode (.slli16 d imm)) 2 d ⟨d, false⟩ (fun x => aluSll x (zextW imm.toNat 6))
/-- SRLI_16 (spec R270): 16-bit logical right shift of d by IMM6. -/
def execSrli16 (d : GReg) (imm : BitVec 6) (s : State) : Out :=
  s.op1 (encode (.srli16 d imm)) 2 d ⟨d, false⟩ (fun x => aluSrl x (zextW imm.toNat 6))
/-- SRAI_16 (spec R270): 16-bit arithmetic right shift of d by IMM6. -/
def execSrai16 (d : GReg) (imm : BitVec 6) (s : State) : Out :=
  s.op1 (encode (.srai16 d imm)) 2 d ⟨d, false⟩ (fun x => aluSra x (zextW imm.toNat 6))

end Sys2Proof.Machine
end

