-- ==== Sys2Proof/Machine/Power.lean ====
section
/-! DEFINITION. Power and temperature (spec/01 R17 to R20), the loss of what a tile holds (spec/11 R224, spec/02 R38), power states
(spec/03 R49, R52), lane repair (spec/03 R48, spec/11 R226) and the patrol scrubber (spec/11 R220, R221). -/

namespace Sys2Proof.Machine

def State.setPow (s : State) (t : Nat) (p : Power) : State := s.putTile t { s.tile t with pow := p }

/-! ### Caps and throttling (spec/01 R17 to R19) -/

/-- POWER_MEASURE (spec R17): a sample enters the window's mean. -/
def execPowerMeasure (tile watts : Nat) (s : State) : Out :=
  let p := (s.tile tile).pow
  .next (if s.tileUp tile then s.setPow tile { p with sum := p.sum + watts, count := p.count + 1 } else s)
/-- The cap in force on a tile: its own, or the panel's effective cap where that is lower (spec/01 R19). -/
def State.capOf (s : State) (t : Nat) : Nat := if s.head.imposed then min (s.tile t).pow.cap s.head.effCap else (s.tile t).pow.cap
/-- Does a sensor hold stage 2 throttling (spec/01 R20)? -/
def Power.heatHeld (p : Power) : Bool := p.heatBase || !p.heatDram.isEmpty
/-- One step down, a later stage only with the earlier one at its floor (spec/01 R18). -/
def Power.throttle (p : Power) : Power :=
  if 4 < p.duty then { p with duty := p.duty - 1 }
  else if 8 < p.clock then { p with clock := p.clock - 1 }
  else { p with dispatchHold := true }
/-- One step of recovery, in the reverse order; both measures of the clock recover together. -/
def Power.recover (p : Power) : Power :=
  let heat := if p.heatHeld then p.clockHeat else min 16 (p.clockHeat + 1)
  if p.dispatchHold then { p with dispatchHold := false }
  else if p.clock < 16 || p.clockHeat < heat then { p with clock := min 16 (p.clock + 1), clockHeat := heat }
  else { p with duty := min 16 (p.duty + 1) }
/-- POWER_WINDOW_END (spec R18): one step of throttling or of recovery; PowerStage is raised on entry into stage 2 or 3. -/
def execPowerWindowEnd (tile : Nat) (s : State) : Out :=
  let p := (s.tile tile).pow
  let cap := s.capOf tile
  let q := { p with sum := 0, count := 0 }
  .next <|
    if p.count = 0 || !s.tileUp tile then s
    else if cap * p.count < p.sum then
      let s1 := s.setPow tile q.throttle
      if 4 < p.duty then s1
      else if p.clock = 16 then s1.raiseMain 0x10 tile 2
      else if p.clock = 8 && !p.dispatchHold then s1.raiseMain 0x10 tile 3
      else s1
    else if p.sum * 10 ≤ cap * 9 * p.count then s.setPow tile q.recover
    else s.setPow tile q

/-- The highest TILECAP of a live tile. -/
def State.topCap (s : State) : Nat := ((List.range 64).filter s.tileLive).foldl (fun m t => max m (s.tile t).pow.cap) 0
/-- PANEL_BUDGET_MEASURE (spec R19): with the mean input over 50 kW the effective cap falls by 1 W; PowerStage 4 is raised as it is
first imposed. -/
def execPanelBudgetMeasure (watts : Nat) (s : State) : Out :=
  let h := { s.head with inSum := s.head.inSum + watts, inCount := s.head.inCount + 1 }
  .next <|
    if s.head.phase ≠ 5 then s
    else if h.inSum ≤ 50000 * h.inCount then { s with head := h }
    else
      let base := if h.imposed then min h.effCap s.topCap else s.topCap
      let s1 := { s with head := { h with effCap := base - 1, imposed := true } }
      if h.imposed then s1 else s1.raiseMain 0x10 0 4
/-- PANEL_BUDGET_WINDOW_END (spec R19): a mean of at most 49 kW raises the effective cap by 1 W, until every tile is at its TILECAP. -/
def execPanelBudgetWindowEnd (s : State) : Out :=
  let h := s.head
  let h1 := { h with inSum := 0, inCount := 0 }
  .next <|
    if h.inCount = 0 then s
    else if h.imposed && decide (h.inSum ≤ 49000 * h.inCount) then
      { s with head := { h1 with effCap := h.effCap + 1, imposed := decide (h.effCap + 1 < s.topCap) } }
    else { s with head := h1 }

/-! ### Temperature (spec/01 R20) -/

/-- THERMAL_THRESHOLD (spec R20): a sensor, 0 the base die and 1 to 12 the DRAM layers, crosses a threshold or a release temperature. -/
def execThermalThreshold (tile sensor temp : Nat) (s : State) : Out :=
  let p := (s.tile tile).pow
  let q := { p with temps := FMap.set p.temps sensor temp }
  let hot := fun (n : Nat) => q.temps.any (fun kv => decide (1 ≤ kv.1) && decide (n ≤ kv.2))
  let q1 := { q with refresh2 := hot 85 }
  .next <|
    if !s.tileLive tile || p.mode == .off || 12 < sensor then s
    else if sensor = 0 then s.setPow tile { q1 with heatBase := if 105 ≤ temp then true else if temp < 100 then false else p.heatBase }
    else
      let rest := p.heatDram.filter (· != sensor)
      s.setPow tile { q1 with
        heatDram := if 95 ≤ temp then rest ++ [sensor] else if temp < 90 then rest else p.heatDram }
/-- THERMAL_CLOCK_STEP (spec R20): with a sensor still at or above its threshold both clocks fall by a sixteenth, to a floor of 8; the
first such step raises PowerStage 2. -/
def execThermalClockStep (tile : Nat) (s : State) : Out :=
  let p := (s.tile tile).pow
  let hot := p.temps.any (fun kv => decide ((if kv.1 = 0 then 105 else 95) ≤ kv.2))
  .next <|
    if !s.tileUp tile || !hot || p.clockHeat ≤ 8 then s
    else
      let s1 := s.setPow tile { p with clockHeat := p.clockHeat - 1 }
      if p.clockHeat = 16 then s1.raiseMain 0x10 tile 2 else s1

/-! ### What is lost with a tile (spec/11 R224) -/

/-- The registers of a tile that has lost power; the records of its inbox are held by front ends (spec/05 R73). -/
def Tile.wiped (x : Tile) : Tile :=
  { Tile.reset with
    pow := { Power.reset with result := x.pow.result, target := x.pow.target }
    debug := x.debug, opened := x.opened, inbox := x.inbox, inboxDie := x.inboxDie, bindDie := x.bindDie }
/-- Its lanes stay mapped, and its dock's SIDs are not used again (spec/06 R89). -/
def Column.wiped (c : Column) : Column := { Column.reset with lanes := c.lanes, sidCount := c.sidCount }
/-- Who waits at a tile for a fill: strands in its join tables, task waiters and hedges. -/
def State.waitersAt (s : State) (t : Nat) : List (BitVec 64 × Nat × Nat) :=
  ((s.cols.filter (fun kv => kv.1 / 16 == t)).map (fun kv => kv.2.joins.map (fun w => (w.handle, w.reg, w.tag)))).flatten
  ++ (s.tile t).taskWaiters.map (fun w => (w.handle, w.reg, w.tag))
  ++ ((s.tile t).hedges.map (fun kv => kv.2.waiters.map (fun w => (w.handle, w.reg, w.tag)))).flatten
/-- The items that end with a tile: of its outbound pairs and rake requests. -/
def State.itemsAt (s : State) (t : Nat) : List Nat :=
  ((s.cores.filter (fun kv => kv.1 / 768 == t)).map (fun kv => kv.2.outq.map (fun p => p.2.item))).flatten
  ++ ((s.cols.filter (fun kv => kv.1 / 16 == t)).map (fun kv => (kv.2.rakeQ ++ kv.2.rakeRun.toList).map (·.item))).flatten
/-- The jobs that a tile leads cannot complete: StrandLost with the job's handle and no strand's (spec/11 R225). -/
def State.orphanJobs (s : State) (t : Nat) : State :=
  ((s.jobs.map (·.2)).filter (fun j => j.handle / 1024 == t && !j.orphan)).foldl (fun s j =>
    (s.putJob { j with orphan := true }).raiseJob 0x43 j (lostDetail j.handle (2 ^ 48 - 1))) s
/-- Everything that a tile holds is lost: strands, tasks, engines, caches, scratch, sieves, memory, registers and the jobs it leads. A
strand that it has sent away is in the mesh and not lost yet. -/
def State.wipeTile (s : State) (t : Nat) : State :=
  let mine := fun (st : Strand) => st.loc.tile == t && st.status != .inFlight
  let gone := (s.strands.map (·.2)).filter mine
  let s1 := (s.waitersAt t).foldl (fun s w => s.send (.fill w.1 w.2.1 w.2.2 0 none (some ⟨0, 13⟩))) s
  let s2 := (s.itemsAt t).foldl State.itemDone s1
  let s3 := (s.tasksOf t).foldl (fun s x => (s.itemFailed x.item true).rejoin x.poster) s2
  let s4 := gone.foldl (fun s st => (s.unqueue st.handle).eraseStrand st.handle) s3
  let s5 := { s4 with
    items := s4.items.filter (fun kv => !(kv.2.failed && gone.any (fun st => st.handle == kv.2.handle)))
    cores := s4.cores.filter (fun kv => kv.1 / 768 != t)
    cols := FMap.mapVals s4.cols (fun k (c : Column) => if k / 16 = t then Column.wiped c else c)
    quads := s4.quads.filter (fun kv => kv.1 / 4 != t)
    engines := s4.engines.filter (fun kv => kv.1 / 4 != t)
    mem := s4.mem.clear (t * 2 ^ 36) ((t + 1) * 2 ^ 36)
    sram := s4.sram.clear (sramKey (4 * t) 0 0) (sramKey (4 * t + 4) 0 0)
    badLines := s4.badLines.filter (fun l =>
      !((decide (t * 2 ^ 30 ≤ l) && decide (l < (t + 1) * 2 ^ 30))
        || (decide (sramLine (sramKey (4 * t) 0 0) ≤ l) && decide (l < sramLine (sramKey (4 * t + 4) 0 0))))) }
  let s6 := (s5.putTile t (s5.tile t).wiped).orphanJobs t
  let s7 := match s6.head.retire with
    | some r => if r.tile = t && !r.copied then { s6 with head := { s6.head with retire := none } } else s6
    | none => s6
  s7.cols.foldl (fun s kv => if kv.1 / 16 = t then s else s.reserveCol kv.1) s7

/-- A LossNotice for a tile goes to every live tile (spec/02 R38). -/
def State.noticeLoss (s : State) (t : Nat) : State :=
  let s1 := s.raiseMain 0x21 t (match s.head.update with | some u => u.epoch | none => s.head.epoch)
  (s1.liveTiles.filter (· != t)).foldl (fun s n => s.sendFrom 64 (.lossNote n t)) s1
/-- The links around a site go Down (spec/02 R23, R35). -/
def State.siteDown (s : State) (site : Nat) : State := (linkPorts site).foldl (fun s p => s.linkDown site p) s
/-- A table update goes on without a router. -/
def State.updateWithout (s : State) (r : Nat) : State :=
  match s.head.update with
  | some u => s.commitWhenAll { u with nodes := u.nodes.filter (· != r) }
  | none => s
/-- A tile is marked Vacant, its work is lost, and the change is committed (spec/02 R38): suspensions and table updates go on without
it. -/
def State.loseTile (s : State) (t : Nat) : State :=
  let site := (s.siteOf t).getD 72
  let s1 := if site < 72 then ((s.routerLost site t).trafficLost t).siteDown site else s
  let s2 := s1.wipeTile t
  let s3 := { s2 with
    jobs := FMap.mapVals s2.jobs (fun _ (j : Job) => { j with tilesLeft := j.tilesLeft.filter (· != t) })
    head := { s2.head with lost := s2.head.lost ++ [t], remap := FMap.set s2.head.remap t (remapEntry 3 site) } }
  (s3.updateWithout site).startUpdate.noticeLoss t

/-- THERMAL_TRIP (spec R20): a sensor reads 115 °C or more: the tile enters Off from any state, its work lost, halts and breakpoints
discarded, and is left Closed. -/
def execThermalTrip (tile sensor : Nat) (s : State) : Out :=
  .next <|
    if !s.tileLive tile || 12 < sensor || FMap.getD (s.tile tile).pow.temps sensor 0 < 115 then s
    else
      let s1 := s.wipeTile tile
      let t := s1.tile tile
      ((s1.putTile tile { t with debug := .closed, pow := { t.pow with target := none } }).raiseMain 0x11 tile sensor).noticeLoss tile
/-- REGULATOR_FAIL (spec R224): the tile stops, and its neighbours mark their links Down. -/
def execRegulatorFail (tile : Nat) (s : State) : Out :=
  .next <| match s.siteOf tile with
  | some site =>
    if s.tileLive tile then ((((s.routerLost site tile).trafficLost tile).wipeTile tile).setSite site .failed).siteDown site else s
  | none => s

/-! ### Power states (spec/03 R49, R51, R52) -/

/-- Does a tile hold work that keeps it from Retain and Off (spec/03 R52)? -/
def State.holdsWork (s : State) (t : Nat) : Bool :=
  let x := s.tile t
  x.recs.any (fun kv => kv.2.state != .free) || s.strands.any (fun kv => kv.2.loc.tile == t)
  || (List.range 16).any (fun c => !(s.imagesAway (colKey t c)).isEmpty)
  || !x.tasks.isEmpty || !x.holders.isEmpty || x.hedges.any (fun kv => kv.2.state != .idle)
  || s.cols.any (fun kv => kv.1 / 16 == t && (kv.2.copy.isSome || kv.2.rakeRun.isSome || !kv.2.rakeQ.isEmpty))
  || (List.range 4).any (fun e => (s.savedFor t e).isSome)
/-- The RESULT of a request for Retain or Off: 2 where a tile is Halting, 1 where it holds work, is in neither Run nor Idle, or is
already changing. -/
def State.powerResult (s : State) (t : Nat) : Nat :=
  let p := (s.tile t).pow
  if (s.tile t).debug == .halting then 2
  else if s.holdsWork t || !(p.mode == .run || p.mode == .idle) || p.target.isSome then 1
  else 0
/-- Every pending granule of a tile's four sieves is applied (spec/09 R180). -/
def State.applyTile (s : State) (t : Nat) : State :=
  (List.range 4).foldl (fun s q =>
    let qk := quadKey t q
    (s.quad qk).dir.foldl (fun s g => s.applyGranule qk g .retire) s) s
/-- What a quadrant keeps through Retain: its registers, with the tile cache and bin SRAM lost. -/
def Quad.asleep (q : Quad) : Quad := { q with lines := [], dir := [], bins := [], runs := [], spilling := false, forceQ := [], forcing := .none }
/-- What a core keeps through Retain: its registers. The spec names QPART, the range registers and CYC; the model keeps CORECTL, DBGCTL and
the counters of sieve and tile cache too, as registers of the management block (log 37). -/
def Core.retained (c : Core) : Core := { Core.reset with corectl := c.corectl, dbgctl := c.dbgctl }
/-- Retain: sieves applied, the cache written back, and cores, engines and the SRAM layer without power (spec/03 R52). -/
def State.retainTile (s : State) (t : Nat) : State :=
  let s1 := s.applyTile t
  { s1 with
    quads := FMap.mapVals s1.quads (fun k (q : Quad) =>
      if k / 4 = t then Quad.asleep { q with qwbk := q.qwbk + (q.lines.filter (fun l => l.dirty)).length } else q)
    cores := FMap.mapVals s1.cores (fun k (c : Core) => if k / 768 = t then Core.retained c else c)
    engines := s1.engines.filter (fun kv => kv.1 / 4 != t)
    cols := FMap.mapVals s1.cols (fun k (c : Column) => if k / 16 = t then { c with tlb := [], rakeBuf := [] } else c)
    sram := s1.sram.clear (sramKey (4 * t) 0 0) (sramKey (4 * t + 4) 0 0)
    badLines := s1.badLines.filter (fun l =>
      !(decide (sramLine (sramKey (4 * t) 0 0) ≤ l) && decide (l < sramLine (sramKey (4 * t + 4) 0 0)))) }
/-- PWRCMD_RETAIN (spec R52). -/
def execPwrcmdRetain (tile : Nat) (s : State) : Out :=
  let p := (s.tile tile).pow
  .next <|
    if !s.tileLive tile then s
    else
      match s.powerResult tile with
      | 0 => (s.retainTile tile).setPow tile { p with mode := .retain, result := 0, target := some .retain }
      | n => s.setPow tile { p with result := n }
/-- PWRCMD_OFF (spec R52): power is removed from all but the router and the management link. -/
def execPwrcmdOff (tile : Nat) (s : State) : Out :=
  let p := (s.tile tile).pow
  .next <|
    if !s.tileLive tile then s
    else
      match s.powerResult tile with
      | 0 => (s.setPow tile { p with result := 0, target := some .off }).wipeTile tile
      | n => s.setPow tile { p with result := n }
/-- PWRCMD_RUN (spec R52): ends Retain or Off; in Run and Idle there is nothing to do. -/
def execPwrcmdRun (tile : Nat) (s : State) : Out :=
  let p := (s.tile tile).pow
  .next <|
    if !s.tileLive tile then s
    else if p.target.isSome then s.setPow tile { p with result := 1 }
    else if p.mode == .run || p.mode == .idle then s.setPow tile { p with result := 0 }
    else s.setPow tile { p with result := 0, target := some .run }
/-- POWER_TRANSITION_DONE (spec R52): the transition completes. Off ends with the image verified and the self-test of the site, whose
failure is handled as at boot. -/
def execPowerTransitionDone (tile : Nat) (res : SelfTest) (s : State) : Out :=
  let p := (s.tile tile).pow
  .next <|
    if !s.tileLive tile then s
    else
      match p.target, s.siteOf tile with
      | some .run, some site =>
        if p.mode == .retain then s.setPow tile { p with mode := .run, target := none }
        else
          let img := match s.head.tileImage with | some i => s.imageOk i | none => false
          match s.judge site { res with pass := res.pass && img && (s.site site).status == .live } with
          | (s1, true) =>
            let x := s1.tile tile
            let s2 := s1.startTile tile site
            let y := s2.tile tile
            let s3 := s2.putTile tile { y with
              cyc := 0, debug := x.debug, opened := x.opened, inbox := x.inbox, inboxDie := x.inboxDie, bindDie := x.bindDie }
            s3.putSite site { s3.site site with
              report := some res
              measure := (match s.head.tileImage with | some i => i.hash | none => 0) }
          | (s1, false) => (s1.setSite site .failed).loseTile tile
      | some m, _ => s.setPow tile { p with mode := m, target := none }
      | none, _ => s
/-- Is nothing at work on a tile: no strand, task, copy or rake request (spec/03 R49)? -/
def State.tileAtRest (s : State) (t : Nat) : Bool :=
  !s.strands.any (fun kv => kv.2.loc.tile == t && kv.2.status != .inFlight) && (s.tile t).tasks.isEmpty
  && !s.cols.any (fun kv => kv.1 / 16 == t && (kv.2.copy.isSome || kv.2.rakeRun.isSome || !kv.2.rakeQ.isEmpty))
/-- IDLE_ENTER (spec R49): a tile with nothing at work gates its clocks; a halted one stays in Run (spec/03 R51). -/
def execIdleEnter (tile : Nat) (s : State) : Out :=
  let p := (s.tile tile).pow
  .next <|
    if s.tileUp tile && p.mode == .run && p.target.isNone && s.tileAtRest tile && (s.tile tile).debug != .halting then
      s.setPow tile { p with mode := .idle }
    else s
/-- IDLE_EXIT (spec R49): an arrival moves the tile back to Run. -/
def execIdleExit (tile : Nat) (s : State) : Out :=
  let p := (s.tile tile).pow
  .next (if s.tileUp tile && p.mode == .idle then s.setPow tile { p with mode := .run } else s)

/-! ### Lane repair (spec/03 R48, spec/11 R226) -/

/-- Begin a repair: the column holds new accesses until the switch. A retrain is marked by 4096 above the lane. While one is under way in the
column another is answered Busy (log 37). -/
def State.startRepair (s : State) (t col n : Nat) : State :=
  let k := colKey t col
  if (s.col k).repair.isSome then s.reply (.status "Busy") else s.putCol k { s.col k with repair := some n }
/-- REPAIR_COMMAND (spec R48): the host commands a repair; with no spare left it fails, and the column is reported. -/
def execRepairCommand (tile col lane : Nat) (s : State) : Out :=
  .next <| match s.siteOf tile with
  | some site =>
    if !s.tileUp tile || 16 ≤ col || 1040 ≤ lane then s
    else if s.repairable site col lane then s.startRepair tile col lane
    else s.reply (.noSpare tile col)
  | none => s
/-- REPAIR_AUTO (spec R48): a condition in a class that REPAUTH enables starts a retrain (class 0) or a repair (1 and 2). -/
def execRepairAuto (tile col lane cls : Nat) (s : State) : Out :=
  .next <| match s.siteOf tile with
  | some site =>
    if !s.tileUp tile || 16 ≤ col || 1040 ≤ lane || 2 < cls || bits (s.tile tile).repauth cls 1 = 0 then s
    else if cls = 0 then s.startRepair tile col (4096 + lane)
    else if s.repairable site col lane then s.startRepair tile col lane
    else s.reply (.noSpare tile col)
  | none => s
/-- REPAIR_SWITCH (spec R226): the lane is switched to a free spare, or retuned; Repair is raised with column and lane, and the held
accesses go on. A column that a compaction of the log has retired meanwhile has no spare left (spec/03 R47). -/
def execRepairSwitch (tile col : Nat) (s : State) : Out :=
  let k := colKey tile col
  let c := s.col k
  .next <| match c.repair, s.siteOf tile with
  | some n, some site =>
    let s1 := s.putCol k { c with repair := none }
    if 4096 ≤ n then s1.raiseMain 0x23 tile (2 ^ 63 + col * 65536 + (n - 4096))
    else
      if s1.colRetired site col then s1.reply (.noSpare tile col)
      else
        let s2 := s1.logAppend 3 site col n 0x23
        (s2.putCol k { s2.col k with busBad := false, lanes := laneMap (s1.deadLanes site col ++ [n]) }).raiseMain 0x23 tile (col * 65536 + n)
  | _, _ => s

/-! ### The scrubber (spec/11 R220, R221) -/

/-- An uncorrectable error arises in the structure of a source of R220, to be met at the next access there. p names the place: for 2 the
panel physical address of a line that the tile cache holds, or 2^42 and more for the key of a byte of scratch; for 3 twice an engine and which
channel; for 4 a quadrant and 2^12 times the place of a bin entry; for 5 four times an engine and 0 for scale memory or a bank plus 1; for 6 a
strand's handle times 256 and a register, x registers from 128; for 7 a column, plus 1024 and 1024 times a core of it where the line lies in
its line and instruction buffers and not in the rake unit's; for 8 a strand whose image is stored; for 9 a column. -/
def State.strike (s : State) (source p : Nat) : State :=
  match source with
  | 2 =>
    if 2 ^ 42 ≤ p then { s with badLines := if s.badLines.contains (sramLine (p - 2 ^ 42)) then s.badLines
                                            else s.badLines ++ [sramLine (p - 2 ^ 42)] }
    else
      let qk := quadOfCol (p / 2 ^ 32)
      let q := s.quad qk
      s.putQuad qk { q with lines := q.lines.map (fun l => if l.within (p / 2 ^ 32 % 16) (p % 2 ^ 32) 1 then { l with bad := true } else l) }
  | 3 =>
    let e := s.engine (p / 2)
    s.putEngine (p / 2) (if p % 2 = 0 then { e with badA := e.badA || !e.chA.isEmpty } else { e with badB := e.badB || !e.chB.isEmpty })
  | 4 =>
    let q := s.quad (p % 2 ^ 12)
    match q.bins[p / 2 ^ 12]? with
    | some kv => s.putQuad (p % 2 ^ 12) { q with bins := FMap.set q.bins kv.1 { kv.2 with bad := true } }
    | none => s
  | 5 =>
    let e := s.engine (p / 4)
    s.putEngine (p / 4) (match p % 4 with
      | 0 => { e with badScale := true }
      | 1 => { e with bank0 := { e.bank0 with bad := true } }
      | _ => { e with bank1 := { e.bank1 with bad := true } })
  | 6 =>
    match s.strand? (.ofNat 64 (p / 256)) with
    | some st =>
      if !st.inSlot then s
      else if 128 ≤ p % 256 then s.putStrand { st with xpar := st.xpar ||| 1#8 <<< (p % 8) }
      else s.putStrand (st.setRc (p % 256) { st.rc (p % 256) with par := true })
    | none => s
  | 7 =>
    let k := p % 1024
    let bad := fun (l : List Snapshot) => l.map (fun x => { x with bad := true })
    if p < 1024 then s.putCol k { s.col k with rakeBuf := bad (s.col k).rakeBuf }
    else
      let key := k / 16 * 768 + k % 16 * 48 + (p / 1024 - 1) % 48
      let c := s.core key
      s.putCore key { c with lineBuf := bad c.lineBuf, instrBuf := bad c.instrBuf }
  | 8 =>
    match s.strand? (.ofNat 64 p) with
    | some st => if st.inSlot then s else s.putStrand { st with imgBad := true }
    | none => s
  | 9 => s.putCol p { s.col p with busBad := true }
  | _ => s
/-- PATROL_SCRUB (spec R220): a DRAM line is read and written back: 0 clean, 1 corrected, otherwise uncorrectable. An error of another
structure's arises as kind 16 and its source: the scrubber does not look there, and the next access finds it (log 36). -/
def execPatrolScrub (pa kind : Nat) (s : State) : Out :=
  .next <|
    if 16 ≤ kind then s.strike (kind - 16) pa
    else if kind = 0 || !s.paOk pa 1 then s
    else if kind = 1 then s.logError (pa / 2 ^ 36) 1 false pa 0 0
    else { s with badLines := if s.badLines.contains (pa / 64) then s.badLines else s.badLines ++ [pa / 64] }.logError (pa / 2 ^ 36) 1 true pa 0 0

end Sys2Proof.Machine
end

