-- ==== Sys2Proof/Machine/Updates.lean ====
section
/-! DEFINITION. The steps of update streams: the outbound queue, flits and their answers, spills, forced applies, flushes and the
sieve's counters (spec/09 R162 to R178). -/

namespace Sys2Proof.Machine

/-! ### Outbound queues (spec/09 R162 to R165) -/

/-- The waiting pairs of an outbound queue in queue order, each with its entry number. -/
def Core.waitingPairs (c : Core) : List (Nat × OutPair) :=
  let ps := c.outq.filter (fun kv => kv.2.state == .waiting)
  ((ps.foldl (fun (m : FMap (Nat × OutPair)) kv => FMap.set m kv.2.item kv) []).map (·.2))
/-- Do two pairs share a flit? -/
def OutPair.sameFlit (a b : OutPair) : Bool :=
  a.home == b.home && a.asid == b.asid && a.bed == b.bed && a.op == b.op && a.etype == b.etype
/-- The pairs of the next flit, at most n of them. -/
def Core.nextFlit (c : Core) (n : Nat) : List (Nat × OutPair) :=
  match c.waitingPairs with
  | [] => []
  | p :: l => p :: ((l.takeWhile (fun q => q.2.sameFlit p.2)).take (min n 3 - 1))
/-- UPDATE_SEND (spec R163): a core sends the next flit, of up to n pairs. -/
def execUpdateSend (tile core n : Nat) (s : State) : Out :=
  let k := coreKey tile core
  let c := s.core k
  .next <| match c.nextFlit n with
  | [] => s
  | p :: l =>
    let ps := p :: l
    let q := ps.foldl (fun m x => FMap.set m x.1 { x.2 with state := .sent }) c.outq
    let f := ps.map (fun x => (⟨x.1, x.2.hoff, x.2.lmask, x.2.value, x.2.refusals⟩ : FlitPair))
    (s.putCore k { c with outq := q }).sendFrom tile
      (.update p.2.home (colKey tile (coreCol core)) k p.2.asid p.2.bed p.2.op p.2.etype f)

/-- The spill area an update bed's entries go to: its address space and the SPBED of the tile's copy. -/
def State.spillOf (s : State) (tile : Nat) (asid : BitVec 12) (bed : Nat) : Nat :=
  asid.toNat * 256 + match (s.tableKnown tile asid).bind (fun t => FMap.get? t.beds bed) with | some b => b.spbed | none => 0
/-- A pair reaches its sieve: translated as a write, then offered to the bins. -/
def State.acceptPair (s : State) (key : Nat) (asid : BitVec 12) (bed op etype : Nat) (p : FlitPair) : State × PairAnswer :=
  if !s.tileUp (key / 16) then (s, .failed)
  else
    match s.translate key asid (cvaOf bed p.hoff) 1 with
    | (s1, .trip _ _) => (s1, .failed)
    | (s1, .ok off) =>
      let r := (s1.quad (quadOfCol key)).offer (key % 16 * 2 ^ 32 + off) op etype (s1.spillOf (key / 16) asid bed) asid bed
        p.lmask p.value.toNat p.refused
      (s1.putQuad (quadOfCol key) r.1, r.2)
/-- UPDATE_FLIT_ARRIVAL (spec R166): each pair is accepted, refused or discarded as failed, and answered. -/
def execUpdateFlitArrival (msg : Nat) (s : State) : Out :=
  .next <| match s.msg? msg with
  | some (.update key _ core asid bed op etype ps) =>
    if s.tileUp (key / 16) && (s.col key).repair.isSome then s
    else
      ps.foldl (fun s p =>
        let r := s.acceptPair key asid bed op etype p
        if s.tileUp (key / 16) then r.1.sendFrom (key / 16) (.updateAns core p.tag r.2) else r.1.send (.updateAns core p.tag r.2))
        (s.unsend msg)
  | _ => s
/-- UPDATE_ANSWER (spec R164): an accepted or failed pair's entry is free; a refused pair waits out its backoff. -/
def execUpdateAnswer (msg : Nat) (s : State) : Out :=
  .next <| match s.msg? msg with
  | some (.updateAns k tag ans) =>
    let s1 := s.unsend msg
    let c := s1.core k
    (match FMap.get? c.outq tag with
     | none => s1
     | some p =>
       match ans with
       | .refused => s1.putCore k { c with outq := FMap.set c.outq tag { p with state := .backoff, refusals := p.refusals + 1 } }
       | a => ((s1.putCore k { c with outq := FMap.erase c.outq tag }).settle p.item (a == .accepted)).rejoinAll
                (colKey (k / 768) (coreCol (k % 768))))
  | _ => s
/-- UPDATE_RESEND (spec R164): a pair's backoff expires. -/
def execUpdateResend (tile core tag : Nat) (s : State) : Out :=
  let k := coreKey tile core
  let c := s.core k
  .next <| match FMap.get? c.outq tag with
  | some p => if p.state == .backoff then s.putCore k { c with outq := FMap.set c.outq tag { p with state := .waiting } } else s
  | none => s

/-! ### Spills and forced applies (spec/09 R167, R168) -/

/-- The bytes of a striped bed homed in a column: they lie at home offsets from 0 on (spec/07 R120). -/
def Bed.bytesInCol (b : Bed) (tile c : Nat) : Nat :=
  let G := 2 ^ b.log2g
  let m := b.trows * b.tcols
  let n := 16 * m
  if m = 0 || !inRect tile b.trow0 b.tcol0 b.trows b.tcols then 0
  else
    let t := (tile / 8 - b.trow0) * b.tcols + (tile % 8 - b.tcol0)
    let sm := if b.order then c * m + t else t * 16 + c
    b.len / (n * G) * G + min G (b.len % (n * G) - sm * G)
/-- The room of a spill area in lines. -/
def State.areaRoom (s : State) (qk spill : Nat) : Nat :=
  match s.spillBed qk spill with
  | some b => ((List.range 4).map (fun i => b.bytesInCol (qk / 4) (4 * (qk % 4) + i) / 64)).sum
  | none => 0
/-- The lines of a spill area: the column within the quadrant with the home offset. -/
def State.areaLines (s : State) (qk spill : Nat) : List (Nat × Nat) :=
  match s.spillBed qk spill with
  | some b => ((List.range 4).map (fun i => (List.range (b.bytesInCol (qk / 4) (4 * (qk % 4) + i) / 64)).map (fun l => (i, 64 * l)))).flatten
  | none => []
/-- The lines of a spill area that live runs take. -/
def Quad.runLines (q : Quad) (spill : Nat) : Nat := ((q.runs.filter (fun r => r.spill == spill)).map (fun r => linesFor r.entries)).sum
/-- Does a spill area have room for the next run? -/
def State.areaFits (s : State) (qk spill : Nat) : Bool :=
  let q := s.quad qk
  decide (q.runLines spill + linesFor (q.nextRun spill) ≤ s.areaRoom qk spill)
/-- Does the spill fit: room in each area for its run, and no more than 32 live runs? -/
def State.spillFits (s : State) (qk : Nat) : Bool :=
  let q := s.quad qk
  decide (q.runs.length + q.spillBeds.length ≤ 32) && q.spillBeds.all (fun b => s.areaFits qk b)
/-- The panel physical address of a line of a spill area, where its page table gives it one. -/
def State.areaAddr (s : State) (qk spill : Nat) (x : Nat × Nat) : Option Nat :=
  let key := colKey (qk / 4) (4 * (qk % 4) + x.1)
  match (s.walk key (.ofNat 12 (spill / 256)) (cvaOf (spill % 256) x.2)).2 with
  | .leaf e => some (panelAddr key (e.off + cvaOf (spill % 256) x.2 % e.size))
  | _ => none
/-- The lines of memory for the next run of a spill area: the first that no live run holds (log 39). -/
def State.runPlace (s : State) (qk spill : Nat) : List Nat :=
  let q := s.quad qk
  let free := (s.areaLines qk spill).filterMap (fun x => (s.areaAddr qk spill x).bind (fun pa => if q.runAt (pa / 64) then none else some (pa / 64)))
  free.take (linesFor (q.nextRun spill))
/-- Is a column of a quadrant under repair (spec/11 R226)? -/
def State.quadRepair (s : State) (qk : Nat) : Bool := (List.range 4).any (fun i => (s.col (colKey (qk / 4) (4 * (qk % 4) + i))).repair.isSome)
/-- The walk for a line of a spill area, with what it leaves in the translation buffer and the tile cache (spec/07 R131). -/
def State.areaSeen (s : State) (qk spill line : Nat) : State :=
  match (s.areaLines qk spill).find? (fun x => (s.areaAddr qk spill x).map (· / 64) == some line) with
  | some x => (s.translate (colKey (qk / 4) (4 * (qk % 4) + x.1)) (.ofNat 12 (spill / 256)) (cvaOf (spill % 256) x.2) 1).1
  | none => s
/-- A line of a run is written on path 4, through the tile cache; what its bytes are is open (spec/09 R166, R167, log 3, log 39). -/
def State.writeRunLine (s : State) (qk spill line : Nat) : State :=
  let s1 := (s.areaSeen qk spill line).lineByBus line true
  (({ s1 with mem := s1.mem.putBytes (line * 64) ((List.range 64).map (fun i => Config.freeByte (s1.fresh * 64 + i))) }).heal (line * 64) 64).bump
/-- The next line of a quadrant's runs is written; the slots of the entries that it holds are free (spec/09 R167). -/
def State.spillLine (s : State) (qk : Nat) : State :=
  match (s.quad qk).runs.find? (fun r => decide (0 < r.left)) with
  | none => s
  | some r =>
    let s1 := match r.pas[linesFor r.entries - r.left]? with | some l => s.writeRunLine qk r.spill l | none => s
    let q1 := s1.quad qk
    s1.putQuad qk { q1 with runs := q1.runs.map (fun x => if x.id == r.id then { x with left := x.left - 1 } else x) }
/-- SIEVE_SPILL (spec R167): the sieve starts to write its bins as runs when free slots fall below 16,384; while it writes them, one line more
is written. Its writes wait for the repair of a column (spec/11 R226). -/
def execSieveSpill (tile quad : Nat) (s : State) : Out :=
  let qk := quadKey tile quad
  let q := s.quad qk
  .next <|
    if q.spilling then (if s.quadRepair qk then s else s.spillLine qk)
    else if q.spillDue && s.spillFits qk then s.bump.putQuad qk (q.spill s.fresh (s.runPlace qk))
    else s
/-- The lines of a run that are still to be written. -/
def Run.linesLeft (r : Run) : List Nat := r.pas.drop (linesFor r.entries - r.left)
/-- SIEVE_SPILL_DONE (spec R167): what is left of the runs is written, and the spill ends. -/
def execSieveSpillDone (tile quad : Nat) (s : State) : Out :=
  let qk := quadKey tile quad
  .next <|
    if s.quadRepair qk then s
    else
      let s1 := ((s.quad qk).runs.filter (·.writing)).foldl (fun s r => r.linesLeft.foldl (fun s l => s.writeRunLine qk r.spill l) s) s
      let q1 := s1.quad qk
      s1.putQuad qk { q1 with spilling := false, runs := q1.runs.map (fun r => { r with writing := false, left := 0 }) }

/-- What a spill without room makes the sieve's forced applies go on until: the oldest run of the area is free, or free slots reach 16,384
where the area could not hold the next run even when empty (spec/09 R168). The table's first two rows can hold at once, and the spec gives no
precedence between them: the runs of the area are freed first (DESIGN CHOICE, log 37). -/
def State.forceFor (s : State) (qk : Nat) : Forcing :=
  let q := s.quad qk
  let short := q.spillBeds.filter (fun b => !s.areaFits qk b)
  let run := if 32 < q.runs.length + q.spillBeds.length then q.runs.head? else q.runs.find? (fun r => short.contains r.spill)
  match run with
  | some r => .run r.id
  | none => .slots
/-- The next granule that forced applies for a spill take, oldest directory entry first. -/
def Quad.forceNext (q : Quad) (f : Forcing) : Option Nat :=
  match f with
  | .run id => q.dir.find? (fun g => q.runs.any (fun r => r.id == id && r.entries.any (fun kv => kv.1 / 4096 == g)))
  | .slots => if 16384 ≤ q.freeSlot then none else q.dir.find? (fun g => q.bins.any (fun kv => kv.1 / 4096 == g))
  | .none => none
/-- Forced applies go on, or have come to their end. -/
def State.forceOn (s : State) (qk : Nat) (f : Forcing) : State :=
  match (s.quad qk).forceNext f with
  | none => s.putQuad qk { s.quad qk with forcing := .none }
  | some g =>
    let s1 := s.applyGranule qk g .forced
    let q1 := s1.quad qk
    s1.putQuad qk { q1 with forcing := if (q1.forceNext f).isSome then f else .none }
/-- Do a sieve's applies wait: for the repair of one of its columns, or for its runs to be written (spec/09 R173, spec/11 R226)? -/
def State.sieveHeld (s : State) (qk : Nat) : Bool :=
  (s.quad qk).spilling || s.quadRepair qk
/-- FORCED_APPLY (spec R168): the sieve applies one granule that a refused pair or a spill without room waits for. -/
def execForcedApply (tile quad : Nat) (s : State) : Out :=
  let qk := quadKey tile quad
  let q := s.quad qk
  .next <|
    if s.sieveHeld qk then s
    else
      match q.forceQ with
      | g :: _ =>
        let s1 := s.applyGranule qk g .forced
        s1.putQuad qk { s1.quad qk with forceQ := (s1.quad qk).forceQ.filter (· != g) }
      | [] =>
        match q.forcing with
        | .none => if q.spillDue && !s.spillFits qk then s.forceOn qk (s.forceFor qk) else s
        | f => s.forceOn qk f

/-! ### Flushes (spec/09 R175) -/

/-- The granules with pending entries of a bed. -/
def Quad.granulesOf (q : Quad) (asid : BitVec 12) (bed : Nat) : List Nat :=
  let mine := fun (kv : Nat × BinEntry) => kv.2.srcs.contains (asid, bed)
  q.dir.filter (fun g => (q.bins.any (fun kv => kv.1 / 4096 == g && mine kv))
    || q.runs.any (fun r => r.entries.any (fun kv => kv.1 / 4096 == g && mine kv)))
/-- FLUSH_REQUEST (spec R175): the sieve applies every granule of the bed, and acknowledges. -/
def execFlushRequest (msg : Nat) (s : State) : Out :=
  .next <| match s.msg? msg with
  | some (.flush h id qk asid bed) =>
    let s1 := s.unsend msg
    if s1.tileUp (qk / 4) then
      if s.sieveHeld qk then s
      else (((s1.quad qk).granulesOf asid bed).foldl (fun s g => s.applyGranule qk g .access) s1).sendFrom (qk / 4) (.flushAck h id true)
    else s1.send (.flushAck h id false)
  | _ => s
/-- FLUSH_ACK (spec R175): one acknowledgement fewer is missing. -/
def execFlushAck (msg : Nat) (s : State) : Out :=
  .next <| match s.msg? msg with
  | some (.flushAck h id ok) =>
    let s1 := s.unsend msg
    (match s1.strand? h with
     | none => s1
     | some st =>
       match st.phase with
       | .uflush i n f => if i = id then (s1.putStrand { st with phase := .uflush i (n - 1) (f || !ok) }).rejoin h else s1
       | _ => s1)
  | _ => s
/-- SIEVE_COUNTER_READ (spec R178): register k at offset 8k of the block: 1 SVACC, 2 SVREF, 3 SVSPILL, 4 SVFORCE, 5 SVAPPLY; the
read clears it. -/
def execSieveCounterRead (tile quad k : Nat) (s : State) : Out :=
  let qk := quadKey tile quad
  let q := s.quad qk
  let got := fun (v : Nat) (q : Quad) => s.replyReg tile (v % 2 ^ 64) (s.putQuad qk q)
  .next <| match k with
  | 1 => got q.svacc { q with svacc := 0 }
  | 2 => got q.svref { q with svref := 0 }
  | 3 => got q.svspill { q with svspill := 0 }
  | 4 => got q.svforce { q with svforce := 0 }
  | 5 => got q.svapply { q with svapply := 0 }
  | _ => s

end Sys2Proof.Machine
end

