-- ==== Sys2Proof/Machine/Loss.lean ====
section
/-! DEFINITION. Planned retirement (spec/02 R37) and unplanned loss of a tile (spec/02 R38). -/

namespace Sys2Proof.Machine

/-! ### Planned retirement (spec/02 R37) -/

/-- Must a job be pre-empted before a tile is retired: its plot holds the tile, or one of its beds lies there? -/
def Job.touches (j : Job) (t : Nat) : Bool := j.lrec.plot.contains t || j.beds.beds.any (fun kv => kv.2.tiles.contains t)
/-- Is some such job neither suspended nor still pending? An orphan counts while something of it is left. -/
def State.retireBusy (s : State) (t : Nat) : Bool :=
  s.jobs.any (fun kv => kv.2.touches t && kv.2.state != .suspended && kv.2.state != .pending && !(kv.2.orphan && s.jobQuiet kv.1))
/-- A spare: live at boot, not bound, without power, and with no retirement in force. -/
def State.spares (s : State) : List Nat :=
  (s.sitesIn .unpowered).filter (fun k => !s.siteRetired k && (match (s.site k).report with | some r => r.pass | none => false))
/-- A site joins the mesh: its links to routers there are Up. -/
def State.joinSite (s : State) (site : Nat) (nodes : List Nat) : State :=
  (linkPorts site).foldl (fun s p =>
    match linkPeer site p with
    | some (q, _) => if nodes.contains q then s.setLink site p 2 else s
    | none => s) s
/-- RETIRE (spec R37): the head gardener chooses the nearest spare, powers and tests it, has the tile's sieves apply every granule (spec
R180), and starts to copy; or the command fails with Busy or NoSpare. grace is in microseconds. A second Retire while one
is under way is answered Busy (log 37). A tile in Retain or Off, such as one that has tripped (spec/01 R20), is retired like any other. -/
def execRetire (tile grace : Nat) (res : SelfTest) (s : State) : Out :=
  .next <| match s.siteOf tile with
  | none => s
  | some old =>
    if !s.tileLive tile then s
    else if 10000 < grace then s.reply (.status "Refused")
    else if s.retireBusy tile || s.head.retire.isSome then s.reply (.status "Busy")
    else
      match nearest old s.spares with
      | none => s.reply (.status "NoSpare")
      | some k =>
        let img := match s.head.tileImage with | some i => s.imageOk i | none => false
        match s.judge k { res with pass := res.pass && img } with
        | (s1, false) => (s1.setSite k .failed).reply (.status "NoSpare")
        | (s1, true) =>
          let s2 := (s1.putSite k ⟨.live, some res, (match s.head.tileImage with | some i => i.hash | none => 0)⟩).applyTile tile
          let s3 := s2.joinSite k (s2.meshNodes s2.head.remap)
          { s3 with head := { s3.head with retire := some ⟨tile, old, k, grace, false⟩ } }
/-- What moves with a tile to its new site: its memory and the gardeners' records; caches, buffers and SRAM start empty there, and CYC at
some count. One that was Off runs there, on a site that has passed its self-test (log 27). -/
def State.moveTile (s : State) (t site : Nat) : State :=
  let s1 := s.retainTile t
  let x := s1.tile t
  let pow := if x.pow.mode == .off then { x.pow with mode := .run, target := none } else x.pow
  let s2 := s1.putTile t { x with cyc := (Config.freeWord s.fresh).toNat, pow := pow }
  let s3 := { s2 with
    engines := s.engines.filter (fun kv => kv.1 / 4 != t) }
  (List.range 16).foldl (fun s c => s.putCol (colKey t c) { s.col (colKey t c) with lanes := laneMap (s.deadLanes site c) }) s3.bump
/-- RETIRE_COPY_DONE (spec R37): the copy is complete, and the tables are updated to name the new site. -/
def execRetireCopyDone (s : State) : Out :=
  .next <| match s.head.retire with
  | some r =>
    if r.copied then s
    else
      let s1 := { s with head := { s.head with
        retire := some { r with copied := true }, remap := FMap.set s.head.remap r.tile (remapEntry 1 r.newSite) } }
      (s1.moveTile r.tile r.newSite).startUpdate
  | none => s
/-- Has a router no flit, neither standing there, nor on the wire into it, nor unacknowledged? -/
def State.routerEmpty (s : State) (r : Nat) : Bool :=
  (s.router r).buf.isEmpty && (s.router r).wire.all (fun kv => kv.2.isEmpty) && (s.router r).retry.all (fun kv => kv.2.isEmpty)
/-- RETIRE_GRACE_END (spec R37): once the tables name the new site and the old site has forwarded what it held, the old site is powered off,
its retirement is logged, and RetireDone is raised. -/
def execRetireGraceEnd (s : State) : Out :=
  .next <| match s.head.retire with
  | some r =>
    if !r.copied || s.head.update.isSome || !s.routerEmpty r.oldSite then s
    else
      let s1 := ((s.siteDown r.oldSite).setSite r.oldSite .retired).putRouter r.oldSite Router.reset
      let s2 := { s1 with head := { s1.head with retire := none } }.logAppend 1 r.oldSite 0 0 0x22
      s2.startUpdate.raiseMain 0x22 r.tile r.newSite
  | none => s

/-! ### Unplanned loss (spec/02 R35, R38) -/

/-- A LossNotice for the flits lost at a site to which no tile is bound any more: it names 64, no tile (spec/02 R37, R38). -/
def State.noticeSite (s : State) : State := s.liveTiles.foldl (fun s n => s.sendFrom 64 (.lossNote n 64)) s
/-- The live tiles that have lost every path to the head gardener over links that are not Down are lost, and so are the flits at the old site of
a retirement that has lost it, of which a LossNotice tells the docks (spec/02 R35, R37, R38). before: what the head gardener reached. -/
def State.cutOff (s : State) (before : FMap Nat) : State :=
  let gone := before.filter (fun kv => (FMap.get? s.reached kv.1).isNone)
  let s1 := match s.head.retire with
    | some r => if (FMap.get? gone r.oldSite).isSome && r.copied then
        (((s.routerLost r.oldSite 64).updateWithout r.oldSite).setSite r.oldSite .failed).noticeSite
      else s
    | none => s
  (List.range 64).foldl (fun s t =>
    match s.siteOf t with
    | some k => if s.tileLive t && (FMap.get? gone k).isSome then (s.loseTile t).setSite k .failed else s
    | none => s) s1
/-- SCALE_UP_PORT_LINK_CHANGE (spec R40): a port of I/O die 0 to 3 takes a link state. From 4 on the operand names a router, 4 more than its
number: its gardener disables the link at a port, which is then routed around as a Down one is, or lets a Disabled one train again (spec/02
R24, log 29). -/
def execScaleUpPortLinkChange (die port lstate : Nat) (s : State) : Out :=
  let r := die - 4
  .next <|
    if die < 4 then (if 40 ≤ port || 4 < lstate || !s.dieWorks die then s else s.scaleUpLink die port lstate)
    else if (linkPeer r port).isNone then s
    else if lstate = 3 && s.linkLive r port then (((s.linkStop r port 3).startUpdate).cutOff s.reached)
    else if lstate = 1 && ((s.router r).port port).lstate = 3 then (s.setLink r port 1).startUpdate
    else s
/-- LINK_RETRAIN_TIMEOUT (spec R23): a link that has not retrained is Down; the gardeners are told, routes are computed anew, and a tile
without a path is lost (spec R35). -/
def execLinkRetrainTimeout (router port : Nat) (s : State) : Out :=
  .next <| if ((s.router router).port port).lstate = 1 then
      ((((s.linkDown router port).raiseMain 0x20 ((s.tileAt router).getD 0) (linkDetail router port)).linkLog router true).startUpdate).cutOff s.reached
    else s

/-- TILE_LOSS (spec R38): the head gardener marks the tile Vacant, commits the change, and issues a LossNotice. -/
def execTileLoss (tile : Nat) (s : State) : Out :=
  .next <| match s.siteOf tile with
  | some site => if s.tileLive tile then ((s.loseTile tile).setSite site .failed).cutOff s.reached else s
  | none => s
/-- LOSS_NOTICE (spec R38): a tile hears of a loss: hedges that involve the lost tile are released, its lead gardener asks the docks for
their counts (spec/11 R225), and its docks start to wait. -/
def execLossNotice (tile lost : Nat) (s : State) : Out :=
  .next <| match s.msgs.find? (fun kv => kv.2 == .lossNote tile lost && s.landed kv.1) with
  | none => s
  | some (id, _) =>
    let s1 := (s.unsend id).hedgeLoss tile lost
    { s1 with
      jobs := FMap.mapVals s1.jobs (fun _ (j : Job) => if j.handle / 1024 = tile && j.state != JobState.pending then { j with asked := true } else j)
      head := { s1.head with waits := s1.head.waits ++ (List.range 16).map (fun c => (colKey tile c, lost, s1.fresh)) } }

/-- The dock that sent a request, where a strand that stands somewhere awaits it. -/
def State.senderOf (s : State) (m : Msg) : Option Nat :=
  let at_ := fun (h : BitVec 64) => (s.strand? h).map (·.colKey)
  let ofItem := fun (i : Nat) => (FMap.get? s.items i).bind (fun it => at_ it.handle)
  match m with
  | .read d _ _ _ _ _ => at_ (s.readerOf d)
  | .posted _ _ _ _ i => ofItem i
  | .instrLine k _ _ _ => some (colKey (k / 768) (coreCol (k % 768)))
  | .migrate h _ _ => at_ h
  | .joinIncr h _ _ _ => at_ h
  | .joinDecr _ _ _ _ i => ofItem i
  | .joinReg h _ _ _ _ _ _ => at_ h
  | .update _ _ k _ _ _ _ _ => some (colKey (k / 768) (coreCol (k % 768)))
  | .flush h _ _ _ _ => at_ h
  | .taskPost _ _ h _ _ _ _ _ _ _ _ _ _ _ => at_ h
  | .taskw _ h _ _ _ => at_ h
  | .bedw _ h _ _ _ _ _ _ _ => at_ h
  | .rakeFetch k _ _ _ _ _ => some k
  | .tlbi h _ _ _ _ _ _ => at_ h
  | .cacheCtl _ h _ _ _ _ _ => at_ h
  | _ => none
/-- The dock that an answer goes to. -/
def State.answerDock (s : State) (m : Msg) : Option Nat :=
  let at_ := fun (h : BitVec 64) => (s.strand? h).map (·.colKey)
  match m with
  | .fill h _ _ _ _ _ => at_ h
  | .readDone d _ _ _ _ => at_ (s.readerOf d)
  | .postedAck i _ => (FMap.get? s.items i).bind (fun it => at_ it.handle)
  | .refusal h _ _ => at_ h
  | .joinAck h _ _ => at_ h
  | .updateAns k _ _ => some (colKey (k / 768) (coreCol (k % 768)))
  | .flushAck h _ _ => at_ h
  | .tlbiAck h _ _ _ => at_ h
  | .accepted _ k _ => some k
  | .rakeData k _ _ _ _ => some k
  | _ => none
/-- A request outstanding to a lost tile, or lost on its way, is resolved (spec/02 R38): a migration is a strand lost, a task post a
TaskFault of code 12, and every other request takes the answer of a tile that does not serve. -/
def State.resolve (s0 : State) (id : Nat) (m : Msg) : State :=
  let s := { s0 with transit := FMap.erase s0.transit id }
  let lossFill := fun (s : State) h reg tag => (s.unsend id).send (.fill h reg tag 0 none (some ⟨0, 13⟩))
  match m with
  | .migrate h _ _ => (s.unsend id).loseStrand h true
  | .taskPost _ isCopy h reg tag job flat col _ va _ item _ _ =>
    ((lossFill s h reg tag).settle item false).reportFault ((s.strandTile h).getD 0)
      ⟨col * 48, 0, if isCopy then 2 else 1, 12, 0, va.truncate 56, h, job, flat⟩
  | .taskw _ h reg tag _ => lossFill s h reg tag
  | .bedw _ h reg tag _ _ _ _ _ => lossFill s h reg tag
  | .read d _ va _ _ item => (s.unsend id).send (.readDone d va 0 (some (9, 13)) item)
  | .posted _ _ _ _ item => (s.unsend id).settle item false
  | .instrLine k asid line _ => (s.unsend id).failLine k asid line 9 13
  | .joinIncr h _ _ _ => (s.unsend id).send (.joinAck h 9 13)
  | .joinDecr job _ _ _ item => ((s.unsend id).itemDone item).recordStatus job 5
  | .joinReg h reg tag _ _ _ _ => (lossFill s h reg tag).joinAccepted h tag
  | .update _ _ core _ _ _ _ ps => ps.foldl (fun s p => s.send (.updateAns core p.tag .failed)) (s.unsend id)
  | .flush h fid _ _ _ => (s.unsend id).send (.flushAck h fid false)
  | .rakeFetch key item _ _ _ _ => (s.unsend id).rakeEnd key item false
  | .tlbi h reg tag _ _ _ _ => (s.unsend id).send (.tlbiAck h reg tag 1)
  | .cacheCtl _ h reg tag _ _ _ => (s.unsend id).send (.fill h reg tag allOnes none none)
  | .winRead rid pa len _ => s.winNowhere id rid pa len
  | .winWrite port pa _ _ => (s.unsend id).winDiscard port pa
  | .launchRec _ _ => s
  | _ => s0
/-- An answer that has not come is taken as the loss of its request. -/
def State.unanswered (s : State) (m : Msg) : State :=
  match m with
  | .fill h reg tag _ _ _ => s.send (.fill h reg tag 0 none (some ⟨0, 13⟩))
  | .readDone d va _ _ item => s.send (.readDone d va 0 (some (9, 13)) item)
  | .postedAck item _ => s.settle item false
  | .refusal h _ _ => s.loseStrand h true
  | .joinAck h _ _ => s.send (.joinAck h 9 13)
  | .updateAns k tag _ => s.send (.updateAns k tag .failed)
  | .flushAck h id _ => s.send (.flushAck h id false)
  | .tlbiAck h reg tag _ => s.send (.tlbiAck h reg tag 1)
  | .rakeData key item _ _ _ => s.rakeEnd key item false
  | _ => s
/-- An answer on its way when the wait for it ends: its request counts as lost, and the answer is discarded and counted when it comes; one
that was itself lost does not come (spec/02 R38). -/
def State.lateAnswer (s : State) (key id : Nat) (m : Msg) : State :=
  let lost := match FMap.get? s.transit id with | some t => t.lost | none => false
  (if lost then s.unsend id else { s with msgs := FMap.set s.msgs id (.lateAns key) }).unanswered m
/-- Has a message been lost in the mesh? -/
def State.isLost (s : State) (id : Nat) : Bool := match FMap.get? s.transit id with | some t => t.lost | none => false
/-- LOSS_WAIT_EXPIRE (spec R38): 20 microseconds after the notice a dock resolves every request that it sent before the notice and still
holds unanswered, whatever tile it went to: those not served yet, and those whose answer has not come. A request of which no dock is the
sender is resolved where it was lost or went to the lost tile. -/
def execLossWaitExpire (tile col lost : Nat) (s : State) : Out :=
  let key := colKey tile col
  .next <| match s.head.waits.find? (fun w => w.1 == key && w.2.1 == lost) with
  | none => s
  | some w =>
    let s1 := { s with head := { s.head with waits := s.head.waits.erase w } }
    let old := s1.msgs.filter (fun kv => decide (kv.1 < w.2.2))
    let reqs := old.filter (fun kv => match s1.senderOf kv.2 with
      | some k => k == key
      | none => (s1.msgDest kv.2 == some lost || s1.isLost kv.1) && (s1.answerDock kv.2).isNone && (match kv.2 with | .lossNote _ _ => false | _ => true))
    let anss := old.filter (fun kv => s1.answerDock kv.2 == some key && !s1.landed kv.1)
    let s2 := reqs.foldl (fun s kv => s.resolve kv.1 kv.2) s1
    anss.foldl (fun s kv => s.lateAnswer key kv.1 kv.2) s2

end Sys2Proof.Machine
end

