-- ==== Sys2Proof/Machine/Preempt.lean ====
section
/-! DEFINITION. Pre-emption: the engine save area (spec/11 R213), suspension (R214 to R216, R219, spec/06 R102) and resumption
(R217, R218). -/

namespace Sys2Proof.Machine

/-! ### The engine save area (spec/11 R213) -/

/-- The 16 bytes of an accumulator entry: the 96-bit value, then the flags. -/
def Acc.image (x : Acc) (fe : Bool) : Nat :=
  (if fe then x.fe.toNat else (x.fx % 2 ^ 96).toNat) + ((if x.nan then 1 else 0) + (if x.ovf then 2 else 0)) * 2 ^ 96
/-- The entry that 16 bytes hold. -/
def accOf (fe : Bool) (v : Nat) : Acc :=
  let x := v % 2 ^ 96
  if fe then ⟨0, .ofNat 96 x, bits v 96 1 == 1, bits v 97 1 == 1⟩
  else ⟨(BitVec.ofNat 96 x).toInt, 0, bits v 96 1 == 1, bits v 97 1 == 1⟩
/-- The bytes of an area replaced: every listed value at its place, zeros elsewhere. -/
def Memory.area (m : Memory) (base len : Nat) (l : List (Nat × List Byte)) : Memory :=
  l.foldl (fun m p => m.putBytes (base + p.1) p.2) (m.clear base (base + len))
/-- A bank's image written. -/
def Memory.saveBank (m : Memory) (base : Nat) (b : Bank) : Memory :=
  m.area base (2 ^ 20) (b.ents.map (fun kv => (16 * kv.1, leBytes (kv.2.image b.fe) 16)))
/-- A bank read back: the entries that are not zero. -/
def Memory.loadBank (m : Memory) (base : Nat) (fe : Bool) : Bank :=
  let idx := ((m.filter (fun c => decide (base ≤ c.1) && decide (c.1 < base + 2 ^ 20))).map (fun c => (c.1 - base) / 16)).eraseDups
  ⟨fe, idx.foldl (fun e i =>
    let x := accOf fe (m.read (base + 16 * i) 16)
    if x = Acc.zero then e else FMap.set e i x) [], false⟩
/-- Is an engine free to be saved for a job that is being suspended: no step, no drain, no completion word
owed, no copy of the job into it under way, and the notice received everywhere (spec/11 R214, R215)? -/
def State.saveReady (s : State) (t eng job : Nat) : Bool :=
  let key := quadKey t eng
  let e := s.engine key
  e.hold == some job && e.run.isNone && e.cur.isNone && e.drain.isNone
  && !s.msgs.any (fun kv => match kv.2 with | .suspendNote _ h => h == job | _ => false)
  && !s.allTasks.any (fun p => p.2.job == job && p.2.isCopy && p.2.state == .running && (cpEngines p.2.record p.1).contains key)
  && !(s.tasksOf t).any (fun x => x.job == job && !x.isCopy && x.finished && recEng x.record == eng)
/-- The parts of a slot, by place and length: the banks, scale memory, the record, and so many bytes of each channel. -/
def slotParts (na nb : Nat) : List (Nat × Nat) :=
  [(0, 2 ^ 20), (2 ^ 20, 2 ^ 20), (0x200000, 0x40000), (0x240000, 16), (0x400000, na), (0x600000, nb)]
/-- Bytes of a slot pass over the vertical bus, through the tile cache (spec/07 R131). -/
def State.slotBus (s : State) (b : Nat) (p : Nat × Nat) (write : Bool) : State :=
  if p.2 = 0 then s else s.viaBus (b / 2 ^ 32) (b % 2 ^ 32 + p.1) p.2 write
/-- What the restore of a part of a slot meets: an uncorrectable error is logged (spec/11 R222). -/
def State.slotErr (s : State) (b : Nat) (p : Nat × Nat) : State :=
  let s1 := s.slotBus b p false
  match if p.2 = 0 then none else s.errAt (b + p.1) p.2 with
  | some src => s1.logError (b / 2 ^ 36) src true (b + p.1) 0 0
  | none => s1
/-- Has a part of a slot an uncorrectable error? That of its record spoils all it holds. -/
def State.slotBad (s : State) (b : Nat) (p : Nat × Nat) : Bool :=
  (s.errAt (b + 0x240000) 16).isSome || (decide (p.2 ≠ 0) && (s.errAt (b + p.1) p.2).isSome)
/-- What an engine could not read of its own store stands in the slot as a line that is uncorrectable: erroneous data is told at every access
and passed on as data nowhere (spec/11 R220, R222). -/
def State.slotSpoil (s : State) (t b : Nat) (e : Engine) : State :=
  ([(e.bank0.bad, 5, 0), (e.bank1.bad, 5, 2 ^ 20), (e.badScale, 5, 0x200000), (e.badA && !e.chA.isEmpty, 3, 0x400000),
    (e.badB && !e.chB.isEmpty, 3, 0x600000)].filter (fun x => x.1)).foldl (fun s x =>
      { s.logError t x.2.1 true 0 0 0 with badLines := s.badLines ++ [(b + x.2.2) / 64] }) s
/-- Save an engine into its slot, clear it as at job end, and release its hold. -/
def State.saveEngine (s : State) (t eng job : Nat) : State :=
  let key := quadKey t eng
  let e := s.engine key
  let b := s.saveSlot t eng
  let m1 := (s.mem.saveBank b e.bank0).saveBank (b + 2 ^ 20) e.bank1
  let m2 := m1.area (b + 0x200000) 0x40000 (e.scale.map (fun c => (c.1, [c.2])))
  let m3 := (m2.putBytes (b + 0x400000) e.chA).putBytes (b + 0x600000) e.chB
  let m4 := m3.write (b + 0x240000) 16 (saveRecord job e.bank0.fe e.bank1.fe e.chA.length e.chB.length)
  let s1 := (slotParts e.chA.length e.chB.length).foldl (fun s p => (s.slotBus b p true).heal (b + p.1) p.2) { s with mem := m4 }
  (s1.slotSpoil t b e).putEngine key { e with
    bank0 := { e.bank0 with bad := false }, bank1 := { e.bank1 with bad := false }
    chA := [], chB := [], scale := [], badA := false, badB := false, badScale := false, hold := none }
/-- Restore a slot into its engine, whatever its area then holds, and mark it invalid (spec/11 R213, R217). What cannot be read is an error
of the engine's own store from then on: the task that meets it faults with code 5 (spec/11 R222). -/
def State.restoreEngine (s : State) (t eng job : Nat) : State :=
  let key := quadKey t eng
  let e := s.engine key
  let b := s.saveSlot t eng
  let sc := ((s.mem.filter (fun c => decide (b + 0x200000 ≤ c.1) && decide (c.1 < b + 0x240000))).map
    (fun c => (c.1 - (b + 0x200000), c.2)))
  let r := s.recordOf t eng
  let na := min (bits r 64 32) (2 ^ 21)
  let nb := min (bits r 96 32) (2 ^ 21)
  let s1 := (slotParts na nb).foldl (fun s p => s.slotErr b p) s
  (s1.dropSlot t eng).putEngine key { e with
    bank0 := { s.mem.loadBank b (bits r 16 1 == 1) with bad := s.slotBad b (0, 2 ^ 20) }
    bank1 := { s.mem.loadBank (b + 2 ^ 20) (bits r 17 1 == 1) with bad := s.slotBad b (2 ^ 20, 2 ^ 20) }
    scale := sc, badScale := s.slotBad b (0x200000, 0x40000)
    chA := s.mem.bytes (b + 0x400000) na, badA := s.slotBad b (0x400000, na)
    chB := s.mem.bytes (b + 0x600000) nb, badB := s.slotBad b (0x600000, nb)
    hold := some job }

/-! ### Suspension (spec/11 R214 to R216, spec/06 R102) -/

/-- Steps 2 and 3 for one strand: Suspended, withdrawn from every queue and refusal list. Urgent strands run on, trapped and halted ones
stay, one in flight waits for its answer. The image of a resident one is written (spec/06 R110). -/
def State.suspendStrand (s : State) (st : Strand) : State :=
  if st.urgent then s
  else if st.status == .queued || st.status == .ready || st.status == .parked || st.status == .evicted || st.status == .refused then
    let w := if st.inSlot then s.writeImg st.colKey st.img else s
    let s1 := (w.withdraw st).putStrand
      { (if st.inSlot then s.storeImage st else st).afresh with status := .suspended, pcause := 0, parkedFor := 0, bedWait := none }
    if st.status == .refused then s1 else s1.reserve st.coreKey
  else s
/-- Steps 4 and 5 for one task: held in the trellis, or on its way to stop. -/
def State.suspendTask (s : State) (t : Nat) (x : Task) : State :=
  match x.state with
  | .waiting => s.putTask t { x with held := true }
  | .ready => s.putTask t { x with held := true }
  | .running =>
    if x.finished then s
    else
      let e := s.engine (quadKey t (recEng x.record))
      if x.isCopy then s.putTask t { x with stopping := true }
      else if e.run = some x.tseq && e.cur.isNone && e.step < stepCount x.record then s.stopMatrix t x
      else s.putTask t { x with stopping := true }
  | _ => s
/-- SUSPEND_NOTICE (spec R214): the tile suspends the job's records, strands and tasks; its report is sent, to arrive once step 6 is
done. -/
def execSuspendNotice (msg : Nat) (s : State) : Out :=
  .next <| match s.msg? msg with
  | some (.suspendNote t job) =>
    if !s.jobSuspended job then s.unsend msg
    else
      let x := s.tile t
      let s1 := (s.unsend msg).putTile t { x with recs := FMap.mapVals x.recs (fun _ (r : BindRec) =>
        if r.job == job && r.state == RecState.active then { r with state := RecState.suspended } else r) }
      let s2 := ((s1.strands.map (·.2)).filter (fun st => st.job == job && st.loc.tile == t)).foldl (fun s st => s.suspendStrand st) s1
      let s3 := ((s2.tasksOf t).filter (fun y => y.job == job)).foldl (fun s y => s.suspendTask t y) s2
      s3.sendFrom t (.tileReport t job)
  | _ => s
/-- ENGINE_SAVE_DONE (spec R214): an engine that the outgoing job holds has been saved, with every write it owed performed. -/
def execEngineSaveDone (tile eng : Nat) (s : State) : Out :=
  .next <| match (s.engine (quadKey tile eng)).hold.bind s.job? with
  | none => s
  | some j =>
    if s.waitsPhys (s.saveSlot tile eng) (2 ^ 23) then s
    else if j.state == .suspending && s.saveReady tile eng j.handle then s.saveEngine tile eng j.handle else s
/-- Has a tile finished step 6 for a job? -/
def State.tileSuspended (s : State) (t job : Nat) : Bool :=
  !s.strands.any (fun kv => kv.2.job == job && kv.2.loc.tile == t && !kv.2.urgent && kv.2.status != .suspended && kv.2.status != .trapped)
  && !(s.tasksOf t).any (fun x => x.job == job && x.state == .running && !x.finished)
  && !s.engines.any (fun kv => kv.1 / 4 == t && kv.2.hold == some job)

/-! ### Resumption (spec/11 R217, R218) -/

/-- The end of R217 on a tile, when no slot there is still saved for the job: its tasks may issue, its records are Active, its strands
pass to the resume list. -/
def State.resumeTile (s : State) (t job : Nat) : State :=
  if s.tileSaved t job then s
  else
    let x := s.tile t
    let s1 := s.putTile t { x with
      recs := FMap.mapVals x.recs (fun _ (r : BindRec) =>
        if r.job == job && r.state == RecState.suspended then { r with state := RecState.active } else r)
      tasks := FMap.mapVals x.tasks (fun _ (y : Task) => if y.job == job then { y with held := false } else y) }
    ((s1.strands.map (·.2)).filter (fun st => st.job == job && st.loc.tile == t && st.status == .suspended)).foldl
      (fun s st => s.toResume st) s1
/-- RESUME_NOTICE (spec R217): the tile resumes the job where no slot is saved for it; its report is sent, to arrive once R217 is done
there. -/
def execResumeNotice (msg : Nat) (s : State) : Out :=
  .next <| match s.msg? msg with
  | some (.resumeNote t job) => ((s.unsend msg).resumeTile t job).sendFrom t (.tileReport t job)
  | _ => s
/-- ENGINE_RESTORE (spec R217): a slot is restored once its engine is free of another job's hold; after the last one of a tile the
job's tasks, records and strands go on there. -/
def execEngineRestore (tile eng : Nat) (s : State) : Out :=
  let e := s.engine (quadKey tile eng)
  .next <| match (s.savedFor tile eng).bind s.job? with
  | none => s
  | some j =>
    let noted := !s.msgs.any (fun kv => kv.2 == .resumeNote tile j.handle)
    if s.waitsPhys (s.saveSlot tile eng) (2 ^ 23) then s
    else if j.state == .resuming && noted && (e.hold.isNone || e.hold == some j.handle) && e.run.isNone && e.drain.isNone then
      ((s.restoreEngine tile eng j.handle).resumeTile tile j.handle).refreshHolds
    else s
/-- PREEMPTION_TILE_REPORT (spec R218): the lead gardener hears that a tile has finished; after the last one the job is suspended, or
runs. -/
def execPreemptionTileReport (msg : Nat) (s : State) : Out :=
  .next <| match s.msg? msg with
  | some (.tileReport t job) =>
    (match s.job? job with
     | none => s.unsend msg
     | some j =>
       let l := j.tilesLeft.filter (· != t)
       let done (next : JobState) : State :=
         (s.unsend msg).putJob { j with tilesLeft := l, state := if l.isEmpty then next else j.state }
       match j.state with
       | .suspending => if s.tileSuspended t job then done .suspended else s
       | .resuming =>
         if s.tileSaved t job then s else done .running
       | _ => s.unsend msg)
  | _ => s

end Sys2Proof.Machine
end

