-- ==== Sys2Proof/Machine/Wide.lean ====
section
/-! DEFINITION. The meanings of the wide instructions, VTLD apart (spec/17 R350 to R358, spec/12 R236, R248). -/

namespace Sys2Proof.Machine

/-! ### Lanes (spec/12 R231) -/

/-- Lane i of e bits. -/
def laneAt (e w i : Nat) : Nat := bits w (e * i) e
/-- n lanes of e bits put together, with the OR of their flags. -/
def lanes (n e : Nat) (f : Nat → Nat × Nat) : Nat × Nat :=
  (List.range n).foldl (fun p i => (p.1 + (f i).1 % 2 ^ e * 2 ^ (e * i), p.2 ||| (f i).2)) (0, 0)
/-- A w register with flags ORed into SS. -/
def Strand.setV (t : Strand) (d : WReg) (r : Nat × Nat) : Strand := (t.setW d (.ofNat 256 r.1)).orFlags r.2
/-- The floating formats a prefix names, and the integer ones. -/
def intCodes : List Nat := [8, 9, 10, 11, 12, 13, 14, 15]
def laneCodes : List Nat := [3, 4, 5] ++ intCodes

/-- Lane by lane over wa and wb in the lane format; op is given the format code, the rounding mode and the lanes. -/
def State.vop2 (s : State) (word : Nat) (codes : List Nat) (f : BitVec 2) (d : WReg) (a b : WSrc)
    (op : Nat → Nat → Nat → Nat → Nat × Nat) : Out :=
  s.issue word 4 (accepts f codes) noLimit (fun _ => [wsrc a, wsrc b]) [] (fun x =>
    let c := x.o.fmt f
    let e := fmtWidth c
    let va := (x.o.wv a.reg).toNat
    let vb := (x.o.wv b.reg).toNat
    x.done x.s (x.t.setV d (lanes (fmtLanes c) e (fun i => op c x.o.rm (laneAt e va i) (laneAt e vb i)))))
/-- Over wa, wb and wc. -/
def State.vop3 (s : State) (word : Nat) (f : BitVec 2) (d : WReg) (a b g : WSrc)
    (op : Nat → Nat → Nat → Nat → Nat → Nat × Nat) : Out :=
  s.issue word 4 (accepts f laneCodes) noLimit (fun _ => [wsrc a, wsrc b, wsrc g]) [] (fun x =>
    let c := x.o.fmt f
    let e := fmtWidth c
    let va := (x.o.wv a.reg).toNat
    let vb := (x.o.wv b.reg).toNat
    let vc := (x.o.wv g.reg).toNat
    x.done x.s (x.t.setV d (lanes (fmtLanes c) e (fun i =>
      op c x.o.rm (laneAt e va i) (laneAt e vb i) (laneAt e vc i)))))
/-- Over wa. -/
def State.vop1 (s : State) (word : Nat) (acc : Accepts) (f : BitVec 2) (d : WReg) (a : WSrc)
    (op : Nat → Nat → Nat → Nat × Nat) : Out :=
  s.issue word 4 acc noLimit (fun _ => [wsrc a]) [] (fun x =>
    let c := x.o.fmt f
    let e := fmtWidth c
    let va := (x.o.wv a.reg).toNat
    x.done x.s (x.t.setV d (lanes (fmtLanes c) e (fun i => op c x.o.rm (laneAt e va i)))))

/-! ### Lane operations: format code, rounding mode, lanes; the result's bits and its flags -/

/-- An integer lane result modulo 2^e. -/
def intLane (c : Nat) (v : Int) : Nat × Nat := (intEnc (fmtWidth c) v, 0)
def vAdd (c m a b : Nat) : Nat × Nat :=
  if isFloat c then (ffmt c).add m ((ffmt c).value a) ((ffmt c).value b) else intLane c (intVal c a + intVal c b)
def vSub (c m a b : Nat) : Nat × Nat :=
  if isFloat c then (ffmt c).add m ((ffmt c).value a) ((ffmt c).value b).negate else intLane c (intVal c a - intVal c b)
def vMul (c m a b : Nat) : Nat × Nat :=
  if isFloat c then (ffmt c).mul m ((ffmt c).value a) ((ffmt c).value b) else intLane c (intVal c a * intVal c b)
def vFma (c m a b g : Nat) : Nat × Nat :=
  if isFloat c then (ffmt c).fma m ((ffmt c).value a) ((ffmt c).value b) ((ffmt c).value g)
  else intLane c (intVal c a * intVal c b + intVal c g)
def vFms (c m a b g : Nat) : Nat × Nat :=
  if isFloat c then (ffmt c).fma m ((ffmt c).value a) ((ffmt c).value b) ((ffmt c).value g).negate
  else intLane c (intVal c a * intVal c b - intVal c g)
/-- c - a * b, computed exactly. -/
def vFnma (c m a b g : Nat) : Nat × Nat :=
  if isFloat c then (ffmt c).fma m ((ffmt c).value a).negate ((ffmt c).value b) ((ffmt c).value g)
  else intLane c (intVal c g - intVal c a * intVal c b)
def vMinmax (max prop : Bool) (c _m a b : Nat) : Nat × Nat :=
  if isFloat c then (ffmt c).minmax max prop a b
  else
    let less := decide (intVal c a < intVal c b)
    (if less == max then b else a, 0)
def vAbs (c _m a : Nat) : Nat × Nat :=
  if isFloat c then (a % 2 ^ (fmtWidth c - 1), 0) else intLane c (if isSigned c then (intVal c a).natAbs else intVal c a)
def vNeg (c _m a : Nat) : Nat × Nat :=
  if isFloat c then ((a + 2 ^ (fmtWidth c - 1)) % 2 ^ fmtWidth c, 0) else intLane c (-intVal c a)
/-- All-ones where the comparison holds: 0 equal, 1 less, 2 less or equal (spec/17 R352). -/
def vCmp (op c _m a b : Nat) : Nat × Nat :=
  let r := if isFloat c then fcmp op ((ffmt c).value a) ((ffmt c).value b)
    else (match op with
      | 0 => decide (intVal c a = intVal c b)
      | 1 => decide (intVal c a < intVal c b)
      | _ => decide (intVal c a ≤ intVal c b), 0)
  (if r.1 then 2 ^ fmtWidth c - 1 else 0, r.2)

/-- VADD (spec R350): Lane-wise add. -/
def execVadd (f : BitVec 2) (d : WReg) (a : WSrc) (b : WSrc) (s : State) : Out :=
  s.vop2 (encode (.vadd f d a b)) laneCodes f d a b vAdd
/-- VSUB (spec R350): Lane-wise subtract. -/
def execVsub (f : BitVec 2) (d : WReg) (a : WSrc) (b : WSrc) (s : State) : Out :=
  s.vop2 (encode (.vsub f d a b)) laneCodes f d a b vSub
/-- VMUL (spec R350): Lane-wise multiply. -/
def execVmul (f : BitVec 2) (d : WReg) (a : WSrc) (b : WSrc) (s : State) : Out :=
  s.vop2 (encode (.vmul f d a b)) laneCodes f d a b vMul
/-- VMIN (spec R350): Lane-wise minimum. -/
def execVmin (f : BitVec 2) (d : WReg) (a : WSrc) (b : WSrc) (s : State) : Out :=
  s.vop2 (encode (.vmin f d a b)) laneCodes f d a b (vMinmax false false)
/-- VMAX (spec R350): Lane-wise maximum. -/
def execVmax (f : BitVec 2) (d : WReg) (a : WSrc) (b : WSrc) (s : State) : Out :=
  s.vop2 (encode (.vmax f d a b)) laneCodes f d a b (vMinmax true false)
/-- VMINP (spec R350): Lane-wise NaN-propagating minimum. -/
def execVminp (f : BitVec 2) (d : WReg) (a : WSrc) (b : WSrc) (s : State) : Out :=
  s.vop2 (encode (.vminp f d a b)) smallFloats f d a b (vMinmax false true)
/-- VMAXP (spec R350): Lane-wise NaN-propagating maximum. -/
def execVmaxp (f : BitVec 2) (d : WReg) (a : WSrc) (b : WSrc) (s : State) : Out :=
  s.vop2 (encode (.vmaxp f d a b)) smallFloats f d a b (vMinmax true true)
/-- VFMA (spec R350): Lane-wise fused a × b + c. -/
def execVfma (f : BitVec 2) (d : WReg) (a : WSrc) (b : WSrc) (c : WSrc) (s : State) : Out :=
  s.vop3 (encode (.vfma f d a b c)) f d a b c vFma
/-- VFMS (spec R350): Lane-wise fused a × b − c. -/
def execVfms (f : BitVec 2) (d : WReg) (a : WSrc) (b : WSrc) (c : WSrc) (s : State) : Out :=
  s.vop3 (encode (.vfms f d a b c)) f d a b c vFms
/-- VFNMA (spec R350): Lane-wise fused c − a × b. -/
def execVfnma (f : BitVec 2) (d : WReg) (a : WSrc) (b : WSrc) (c : WSrc) (s : State) : Out :=
  s.vop3 (encode (.vfnma f d a b c)) f d a b c vFnma
/-- VABS (spec R350): Lane-wise absolute value. -/
def execVabs (f : BitVec 2) (d : WReg) (a : WSrc) (s : State) : Out :=
  s.vop1 (encode (.vabs f d a)) (accepts f laneCodes) f d a vAbs
/-- VNEG (spec R350): Lane-wise negation. -/
def execVneg (f : BitVec 2) (d : WReg) (a : WSrc) (s : State) : Out :=
  s.vop1 (encode (.vneg f d a)) (accepts f laneCodes) f d a vNeg
/-- VCMPEQ (spec R352): Lane-wise equality mask. -/
def execVcmpeq (f : BitVec 2) (d : WReg) (a : WSrc) (b : WSrc) (s : State) : Out :=
  s.vop2 (encode (.vcmpeq f d a b)) laneCodes f d a b (vCmp 0)
/-- VCMPLT (spec R352): Lane-wise less-than mask. -/
def execVcmplt (f : BitVec 2) (d : WReg) (a : WSrc) (b : WSrc) (s : State) : Out :=
  s.vop2 (encode (.vcmplt f d a b)) laneCodes f d a b (vCmp 1)
/-- VCMPLE (spec R352): Lane-wise less-or-equal mask. -/
def execVcmple (f : BitVec 2) (d : WReg) (a : WSrc) (b : WSrc) (s : State) : Out :=
  s.vop2 (encode (.vcmple f d a b)) laneCodes f d a b (vCmp 2)

/-! ### Logic, select and shifts (spec/17 R351, R352) -/

/-- VAND (spec R351): 256-bit AND. -/
def execVand (d : WReg) (a : WSrc) (b : WSrc) (s : State) : Out := s.plain (encode (.vand d a b)) 4 [wsrc a, wsrc b] (fun x =>
    x.done x.s (x.t.setW d (x.o.wv a.reg &&& x.o.wv b.reg)))
/-- VOR (spec R351): 256-bit OR. -/
def execVor (d : WReg) (a : WSrc) (b : WSrc) (s : State) : Out := s.plain (encode (.vor d a b)) 4 [wsrc a, wsrc b] (fun x =>
    x.done x.s (x.t.setW d (x.o.wv a.reg ||| x.o.wv b.reg)))
/-- VXOR (spec R351): 256-bit XOR. -/
def execVxor (d : WReg) (a : WSrc) (b : WSrc) (s : State) : Out := s.plain (encode (.vxor d a b)) 4 [wsrc a, wsrc b] (fun x =>
    x.done x.s (x.t.setW d (x.o.wv a.reg ^^^ x.o.wv b.reg)))
/-- VSEL (spec R352): Bitwise select d := (a AND b) OR (NOT a AND c). -/
def execVsel (d : WReg) (a : WSrc) (b : WSrc) (c : WSrc) (s : State) : Out := s.plain (encode (.vsel d a b c)) 4 [wsrc a, wsrc b, wsrc c] (fun x =>
    x.done x.s (x.t.setW d ((x.o.wv a.reg &&& x.o.wv b.reg) ||| (~~~(x.o.wv a.reg) &&& x.o.wv c.reg))))
/-- A shift of every lane by the whole of g. -/
def State.vshift (s : State) (word : Nat) (f : BitVec 2) (d : WReg) (a : WSrc) (g : GSrc) (op : Nat → Nat → Nat → Nat) : Out :=
  s.issue word 4 (accepts f intCodes) noLimit (fun _ => [wsrc a, gsrc g]) [] (fun x =>
    let e := fmtWidth (x.o.fmt f)
    let k := (x.o.gv g.reg).toNat
    let va := (x.o.wv a.reg).toNat
    x.done x.s (x.t.setV d (lanes (256 / e) e (fun i => (op e k (laneAt e va i), 0)))))
def shl (e k a : Nat) : Nat := if e ≤ k then 0 else a * 2 ^ k % 2 ^ e
def shr (e k a : Nat) : Nat := if e ≤ k then 0 else a / 2 ^ k
/-- Copies of bit e - 1 shifted in. -/
def sra (e k a : Nat) : Nat :=
  let n := min k (e - 1)
  if bits a (e - 1) 1 = 1 then a / 2 ^ n + (2 ^ e - 2 ^ (e - n)) else a / 2 ^ n
/-- VSHL (spec R351): Lane-wise left shift by a g count. -/
def execVshl (f : BitVec 2) (d : WReg) (a : WSrc) (g : GSrc) (s : State) : Out :=
  s.vshift (encode (.vshl f d a g)) f d a g shl
/-- VSHR (spec R351): Lane-wise logical right shift. -/
def execVshr (f : BitVec 2) (d : WReg) (a : WSrc) (g : GSrc) (s : State) : Out :=
  s.vshift (encode (.vshr f d a g)) f d a g shr
/-- VSRA (spec R351): Lane-wise arithmetic right shift. -/
def execVsra (f : BitVec 2) (d : WReg) (a : WSrc) (g : GSrc) (s : State) : Out :=
  s.vshift (encode (.vsra f d a g)) f d a g sra

/-! ### Conversion and reduction (spec/17 R353, R354, spec/12 R248) -/

/-- The E8M10 entry of a code in a core's decode table: +0 at the tile's release (spec/12 R235). -/
def Core.t8 (c : Core) (code : Nat) : Nat := (FMap.getD c.table code 0).toNat
/-- The value of a floating or T8 lane. -/
def laneValue (core : Core) (c x : Nat) : FVal := if c = 6 then e8m10.value (core.t8 x) else (ffmt c).value x
/-- Conv of a lane from one format to another (spec/17 R353). -/
def convLane (core : Core) (src dst m x : Nat) : Nat × Nat :=
  if src < 7 then
    let v := laneValue core src x
    if isFloat dst then (ffmt dst).ofVal m v else toInt dst m v
  else if isFloat dst then (ffmt dst).round m (intDy (intVal src x))
  else saturate dst (intVal src x)
/-- VCVT (spec R353): Lane-wise format conversion. -/
def execVcvt (f : BitVec 2) (d : WReg) (a : WSrc) (c : BitVec 3) (s : State) : Out := s.issue (encode (.vcvt f d a c)) 4
    (some (fun p q => f.toNat == 0 && c.toNat == 0 && p != 7 && (decide (q < 6) || decide (8 ≤ q)))) noLimit
    (fun _ => [wsrc a]) [] (fun x =>
      let src := x.o.fmt f
      let dst := if x.o.pp then x.o.pfb else fsCode (.ofNat 2 c.toNat)
      let va := (x.o.wv a.reg).toNat
      x.done x.s (x.t.setV d (lanes (min (fmtLanes src) (fmtLanes dst)) (fmtWidth dst) (fun i =>
        convLane (x.s.core x.o.coreKey) src dst x.o.rm (laneAt (fmtWidth src) va i)))))
/-- One level of the tree: pairs of FP32 encodings added, with their flags. -/
def treeLevel (m : Nat) : List Nat → List Nat × Nat
  | a :: b :: l =>
    let r := fp32.add m (fp32.value a) (fp32.value b)
    let q := treeLevel m l
    (r.1 :: q.1, r.2 ||| q.2)
  | l => (l, 0)
/-- Tree(v): k levels (spec/12 R248). -/
def tree (m : Nat) : Nat → List Nat → Nat → Nat × Nat
  | 0, l, fl => (l.headD 0, fl)
  | k + 1, l, fl =>
    let q := treeLevel m l
    tree m k q.1 (fl ||| q.2)
/-- The reduction of floating lanes given in FP32 with the flags of their widening. -/
def reduceFloat (m : Nat) (l : List (Nat × Nat)) : Nat × Nat :=
  tree m (Nat.log2 l.length) (l.map (·.1)) ((l.map (·.2)).foldl (· ||| ·) 0)
/-- The reduction of integer lanes: the sum modulo 2^64. -/
def reduceInt (l : List Int) : Nat × Nat := (intEnc 64 l.sum, 0)
def redCodes : List Nat := [3, 4, 5, 6] ++ intCodes
/-- VSUM (spec R354): Sums all lanes in the fixed pairwise tree. -/
def execVsum (f : BitVec 2) (d : WReg) (a : WSrc) (s : State) : Out := s.issue (encode (.vsum f d a)) 4 (accepts f redCodes) noLimit (fun _ => [wsrc a]) [] (fun x =>
    let c := x.o.fmt f
    let core := x.s.core x.o.coreKey
    let l := (List.range (fmtLanes c)).map (laneAt (fmtWidth c) (x.o.wv a.reg).toNat)
    x.done x.s (x.t.setV d (
      if c < 7 then reduceFloat x.o.rm (l.map (fun v => fp32.ofVal x.o.rm (laneValue core c v)))
      else reduceInt (l.map (intVal c)))))
/-- VDOT (spec R354): Dot product of two registers in the fixed tree. -/
def execVdot (f : BitVec 2) (d : WReg) (a : WSrc) (b : WSrc) (s : State) : Out := s.issue (encode (.vdot f d a b)) 4 (accepts f redCodes) noLimit (fun _ => [wsrc a, wsrc b]) [] (fun x =>
    let c := x.o.fmt f
    let core := x.s.core x.o.coreKey
    let la := (List.range (fmtLanes c)).map (laneAt (fmtWidth c) (x.o.wv a.reg).toNat)
    let lb := (List.range (fmtLanes c)).map (laneAt (fmtWidth c) (x.o.wv b.reg).toNat)
    x.done x.s (x.t.setV d (
      if c < 7 then
        reduceFloat x.o.rm (List.zipWith (fun v w => fp32.mul x.o.rm (laneValue core c v) (laneValue core c w)) la lb)
      else reduceInt (List.zipWith (fun v w => intVal c v * intVal c w) la lb))))

/-! ### Special functions (spec/17 R355) -/

/-- VEXP2 (spec R355): Correctly rounded 2^x per lane. -/
def execVexp2 (f : BitVec 2) (d : WReg) (a : WSrc) (s : State) : Out :=
  s.vop1 (encode (.vexp2 f d a)) none f d a (fun c _ v => (ffmt c).special 0 v)
/-- VLOG2 (spec R355): Correctly rounded log2 x per lane. -/
def execVlog2 (f : BitVec 2) (d : WReg) (a : WSrc) (s : State) : Out :=
  s.vop1 (encode (.vlog2 f d a)) none f d a (fun c _ v => (ffmt c).special 1 v)
/-- VRCP (spec R355): Correctly rounded 1/x per lane. -/
def execVrcp (f : BitVec 2) (d : WReg) (a : WSrc) (s : State) : Out :=
  s.vop1 (encode (.vrcp f d a)) none f d a (fun c _ v => (ffmt c).special 2 v)
/-- VRSQ (spec R355): Correctly rounded 1/√x per lane. -/
def execVrsq (f : BitVec 2) (d : WReg) (a : WSrc) (s : State) : Out :=
  s.vop1 (encode (.vrsq f d a)) none f d a (fun c _ v => (ffmt c).special 3 v)

/-! ### Data movement (spec/17 R356) -/

/-- The lane width: the prefix's, else a default. -/
def Strand.width (t : Strand) (dflt : Nat) : Nat := if t.pp then fmtWidth t.pfa else dflt
/-- A prefix that gives the lane width alone. -/
def widthOnly (l : List Nat) : Accepts := some (fun a b => l.contains a && b == 0)
def moveCodes : List Nat := [0, 1, 2, 3, 4, 5, 6] ++ intCodes
def permCodes : List Nat := [0, 1, 2, 3, 4, 6] ++ intCodes
/-- A lane number at or above the lane count is a reserved field at step 6. -/
def laneLimit (word : Nat) (l : BitVec 4) : State → Strand → Option Trip :=
  fun _ t => if 256 / t.width 64 ≤ l.toNat then some (reserved word) else none
/-- VPERM (spec R356): Permutes lanes of a by indices in b. -/
def execVperm (d : WReg) (a : WSrc) (b : WSrc) (s : State) : Out := s.issue (encode (.vperm d a b)) 4 (widthOnly permCodes) noLimit (fun _ => [wsrc a, wsrc b]) [] (fun x =>
    let e := x.o.width 8
    let n := 256 / e
    let va := (x.o.wv a.reg).toNat
    let vb := (x.o.wv b.reg).toNat
    x.done x.s (x.t.setV d (lanes n e (fun i => (if laneAt e vb i < n then laneAt e va (laneAt e vb i) else 0, 0)))))
/-- VMOV (spec R356): d := a. -/
def execVmov (d : WReg) (a : WSrc) (s : State) : Out :=
  s.plain (encode (.vmov d a)) 4 [wsrc a] (fun x => x.done x.s (x.t.setW d (x.o.wv a.reg)))
/-- VBCST (spec R356): Broadcasts a g value to every lane. -/
def execVbcst (d : WReg) (g : GSrc) (s : State) : Out := s.issue (encode (.vbcst d g)) 4 (widthOnly moveCodes) noLimit (fun _ => [gsrc g]) [] (fun x =>
    x.done x.s (x.t.setW d (.ofNat 256 (laneSplat (x.o.width 64) (x.o.gv g.reg).toNat))))
/-- VINS (spec R356): Inserts a g value into one lane. -/
def execVins (d : WReg) (a : WSrc) (g : GSrc) (l : BitVec 4) (s : State) : Out := s.issue (encode (.vins d a g l)) 4 (widthOnly moveCodes) (laneLimit (encode (.vins d a g l)) l) (fun _ => [wsrc a, gsrc g]) [] (fun x =>
    x.done x.s (x.t.setW d (.ofNat 256 (laneSet (x.o.width 64) l.toNat (x.o.wv a.reg).toNat (x.o.gv g.reg).toNat))))
/-- VEXT (spec R356): Extracts one lane into a g register. -/
def execVext (d : GReg) (a : WSrc) (l : BitVec 4) (s : State) : Out := s.issue (encode (.vext d a l)) 4 (widthOnly moveCodes) (laneLimit (encode (.vext d a l)) l) (fun _ => [wsrc a]) [] (fun x =>
    let v := laneAt (x.o.width 64) (x.o.wv a.reg).toNat l.toNat
    x.done x.s (x.t.setG d (if x.o.pp then fmtWord x.o.pfa v else .ofNat 64 v)))
/-- VSLIDE (spec R356): Slides lanes down by IMM4. -/
def execVslide (d : WReg) (a : WSrc) (l : BitVec 4) (s : State) : Out := s.issue (encode (.vslide d a l)) 4 (widthOnly moveCodes) noLimit (fun _ => [wsrc a]) [] (fun x =>
    let e := x.o.width 64
    let va := (x.o.wv a.reg).toNat
    x.done x.s (x.t.setV d (lanes (256 / e) e (fun i =>
      (if i + l.toNat < 256 / e then laneAt e va (i + l.toNat) else 0, 0)))))

/-! ### 2:4 compression (spec/17 R357) -/

/-- A lane's magnitude, as a number that orders as it does. -/
def magnitude (c x : Nat) : Nat :=
  if isFloat c then (if ((ffmt c).value x).isNan then 2 ^ fmtWidth c else x % 2 ^ (fmtWidth c - 1))
  else if isSigned c then (intVal c x).natAbs else x
/-- The lane of four that ranks first among those not left out: larger magnitude, then lower number. -/
def bestOf (m : Nat → Nat) (skip : Option Nat) : Nat :=
  ((List.range 4).foldl (fun (b : Option Nat) i =>
    if skip == some i then b
    else match b with | none => some i | some j => if m j < m i then some i else b) none).getD 0
/-- The two lanes kept of a group of four, ascending. -/
def keepTwo (m : Nat → Nat) : Nat × Nat :=
  let p := bestOf m none
  let q := bestOf m (some p)
  (min p q, max p q)
/-- VCOMP's result. -/
def compress (c w : Nat) : Nat :=
  let e := fmtWidth c
  let group := fun acc k =>
    let r := keepTwo (fun i => magnitude c (laneAt e w (4 * k + i)))
    acc + laneAt e w (4 * k + r.1) * 2 ^ (e * (2 * k)) + laneAt e w (4 * k + r.2) * 2 ^ (e * (2 * k + 1))
      + (r.2 * 4 + r.1) * 2 ^ (128 + 4 * k)
  (List.range (fmtLanes c / 4)).foldl group 0
/-- VCOMP (spec R357): Compresses each group of four lanes to two values and metadata. -/
def execVcomp (f : BitVec 2) (d : WReg) (a : WSrc) (s : State) : Out := s.issue (encode (.vcomp f d a)) 4 (accepts f laneCodes) noLimit (fun _ => [wsrc a]) [] (fun x =>
    x.done x.s (x.t.setW d (.ofNat 256 (compress (x.o.fmt f) (x.o.wv a.reg).toNat))))

/-! ### The T8 table (spec/17 R358, spec/12 R235, R236) -/

/-- Dist of spec/12 R236: none for infinity. -/
def distTo (v b : FVal) : Option Dy :=
  match v, b with
  | .fin x, .fin y =>
    let d := Dy.add 0 x { y with neg := !y.neg }
    some { d with neg := false }
  | .inf x, .inf y => if x = y then some ⟨false, 0, 0⟩ else none
  | _, _ => none
/-- Is one distance less than another, or equal to it? -/
def distLt (a b : Option Dy) : Bool :=
  match a, b with
  | some x, some y => x.lt y
  | some _, none => true
  | none, _ => false
def distEq (a b : Option Dy) : Bool :=
  match a, b with
  | some x, some y => x.eq y
  | none, none => true
  | _, _ => false
/-- The binary search of VENC. -/
def vencSearch (T : Nat → FVal) (v : FVal) : Nat → Nat → Nat → Nat
  | 0, lo, _ => lo
  | n + 1, lo, hi =>
    if lo < hi then
      let mid := (lo + hi) / 2
      if (T mid).lt v then vencSearch T v n (mid + 1) hi else vencSearch T v n lo mid
    else lo
/-- VENC(v, T) with its flags (spec/12 R236). -/
def venc (T : Nat → FVal) (v : FVal) : Nat × Nat :=
  if v.isNan then
    (((List.range 256).find? (fun c => (T c).isNan)).getD 0, if v.isSnan then flNV else 0)
  else
    let c := vencSearch T v 8 0 255
    if c = 0 then (0, 0)
    else
      let lo := distTo v (T (c - 1))
      let hi := distTo v (T c)
      (if distLt lo hi || (distEq lo hi && (c - 1) % 2 == 0) then c - 1 else c, 0)
/-- The table of a core as values. -/
def Core.t8Val (c : Core) (code : Nat) : FVal := e8m10.value (c.t8 code)
/-- VDEC (spec R358): Decodes T8 bytes through the core's decode table. -/
def execVdec (f : BitVec 2) (d : WReg) (a : WSrc) (s : State) : Out := s.issue (encode (.vdec f d a)) 4 none noLimit (fun _ => [wsrc a]) [] (fun x =>
    let c := fsCode f
    let core := x.s.core x.o.coreKey
    x.done x.s (x.t.setV d (lanes (fmtLanes c) (fmtWidth c) (fun i =>
      (ffmt c).ofVal x.o.rm (core.t8Val (laneAt 8 (x.o.wv a.reg).toNat i))))))
/-- VENC (spec R358): Encodes lanes to T8 codes by searching the core's table. -/
def execVenc (f : BitVec 2) (d : WReg) (a : WSrc) (s : State) : Out := s.issue (encode (.venc f d a)) 4 none noLimit (fun _ => [wsrc a]) [] (fun x =>
    let c := fsCode f
    let core := x.s.core x.o.coreKey
    x.done x.s (x.t.setV d (lanes (fmtLanes c) 8 (fun i =>
      venc core.t8Val ((ffmt c).value (laneAt (fmtWidth c) (x.o.wv a.reg).toNat i))))))

end Sys2Proof.Machine
end

