-- ==== Sys2Proof/Machine/Dispatch.lean ====
section
/-! DEFINITION. The dispatch: one arm for every row of spec/opcode_table.json, each one direct call of its meaning. -/

namespace Sys2Proof.Machine

def exec (i : Instr) (s : State) : Host.Outcome State Fault Refusal :=
  match i with
  | .add d a b => Sys2Proof.Machine.execAdd d a b s
  | .sub d a b => Sys2Proof.Machine.execSub d a b s
  | .mul d a b => Sys2Proof.Machine.execMul d a b s
  | .mulh d a b => Sys2Proof.Machine.execMulh d a b s
  | .mulhn d a b => Sys2Proof.Machine.execMulhn d a b s
  | .madd d a b c => Sys2Proof.Machine.execMadd d a b c s
  | .div d a b => Sys2Proof.Machine.execDiv d a b s
  | .divn d a b => Sys2Proof.Machine.execDivn d a b s
  | .rem d a b => Sys2Proof.Machine.execRem d a b s
  | .remn d a b => Sys2Proof.Machine.execRemn d a b s
  | .and d a b => Sys2Proof.Machine.execAnd d a b s
  | .or d a b => Sys2Proof.Machine.execOr d a b s
  | .xor d a b => Sys2Proof.Machine.execXor d a b s
  | .andn d a b => Sys2Proof.Machine.execAndn d a b s
  | .sll d a b => Sys2Proof.Machine.execSll d a b s
  | .srl d a b => Sys2Proof.Machine.execSrl d a b s
  | .sra d a b => Sys2Proof.Machine.execSra d a b s
  | .rotl d a b => Sys2Proof.Machine.execRotl d a b s
  | .min d a b => Sys2Proof.Machine.execMin d a b s
  | .max d a b => Sys2Proof.Machine.execMax d a b s
  | .minn d a b => Sys2Proof.Machine.execMinn d a b s
  | .maxn d a b => Sys2Proof.Machine.execMaxn d a b s
  | .slt d a b => Sys2Proof.Machine.execSlt d a b s
  | .sltn d a b => Sys2Proof.Machine.execSltn d a b s
  | .seq d a b => Sys2Proof.Machine.execSeq d a b s
  | .sel d a b c => Sys2Proof.Machine.execSel d a b c s
  | .mov d a => Sys2Proof.Machine.execMov d a s
  | .clz d a => Sys2Proof.Machine.execClz d a s
  | .ctz d a => Sys2Proof.Machine.execCtz d a s
  | .popc d a => Sys2Proof.Machine.execPopc d a s
  | .brev d a => Sys2Proof.Machine.execBrev d a s
  | .bswap d a => Sys2Proof.Machine.execBswap d a s
  | .sextB d a => Sys2Proof.Machine.execSextB d a s
  | .sextH d a => Sys2Proof.Machine.execSextH d a s
  | .sextW d a => Sys2Proof.Machine.execSextW d a s
  | .zextB d a => Sys2Proof.Machine.execZextB d a s
  | .zextH d a => Sys2Proof.Machine.execZextH d a s
  | .zextW d a => Sys2Proof.Machine.execZextW d a s
  | .addW d a b => Sys2Proof.Machine.execAddW d a b s
  | .subW d a b => Sys2Proof.Machine.execSubW d a b s
  | .sllW d a b => Sys2Proof.Machine.execSllW d a b s
  | .srlW d a b => Sys2Proof.Machine.execSrlW d a b s
  | .sraW d a b => Sys2Proof.Machine.execSraW d a b s
  | .addi d a imm => Sys2Proof.Machine.execAddi d a imm s
  | .andi d a imm => Sys2Proof.Machine.execAndi d a imm s
  | .ori d a imm => Sys2Proof.Machine.execOri d a imm s
  | .xori d a imm => Sys2Proof.Machine.execXori d a imm s
  | .slli d a n => Sys2Proof.Machine.execSlli d a n s
  | .srli d a n => Sys2Proof.Machine.execSrli d a n s
  | .srai d a n => Sys2Proof.Machine.execSrai d a n s
  | .rotli d a n => Sys2Proof.Machine.execRotli d a n s
  | .slti d a imm => Sys2Proof.Machine.execSlti d a imm s
  | .bfx d a p k => Sys2Proof.Machine.execBfx d a p k s
  | .bfxn d a p k => Sys2Proof.Machine.execBfxn d a p k s
  | .bfi d a p k => Sys2Proof.Machine.execBfi d a p k s
  | .jalr d a imm => Sys2Proof.Machine.execJalr d a imm s
  | .loop d imm => Sys2Proof.Machine.execLoop d imm s
  | .lui d imm => Sys2Proof.Machine.execLui d imm s
  | .auipc d imm => Sys2Proof.Machine.execAuipc d imm s
  | .li d imm => Sys2Proof.Machine.execLi d imm s
  | .j off => Sys2Proof.Machine.execJ off s
  | .jal d off => Sys2Proof.Machine.execJal d off s
  | .beq a b off => Sys2Proof.Machine.execBeq a b off s
  | .bne a b off => Sys2Proof.Machine.execBne a b off s
  | .blt a b off => Sys2Proof.Machine.execBlt a b off s
  | .bge a b off => Sys2Proof.Machine.execBge a b off s
  | .bltn a b off => Sys2Proof.Machine.execBltn a b off s
  | .bgen a b off => Sys2Proof.Machine.execBgen a b off s
  | .beqz a off => Sys2Proof.Machine.execBeqz a off s
  | .bnez a off => Sys2Proof.Machine.execBnez a off s
  | .ld d base sz imm => Sys2Proof.Machine.execLd d base sz imm s
  | .ldn d base sz imm => Sys2Proof.Machine.execLdn d base sz imm s
  | .ldr d base sz imm => Sys2Proof.Machine.execLdr d base sz imm s
  | .vld d base imm => Sys2Proof.Machine.execVld d base imm s
  | .ldrWide d base imm => Sys2Proof.Machine.execLdrWide d base imm s
  | .st d base sz imm => Sys2Proof.Machine.execSt d base sz imm s
  | .vst d base imm => Sys2Proof.Machine.execVst d base imm s
  | .stp d base sz imm => Sys2Proof.Machine.execStp d base sz imm s
  | .vstp d base imm => Sys2Proof.Machine.execVstp d base imm s
  | .stm d base sz imm => Sys2Proof.Machine.execStm d base sz imm s
  | .sto d base sz imm => Sys2Proof.Machine.execSto d base sz imm s
  | .ldaq d base sc sz imm => Sys2Proof.Machine.execLdaq d base sc sz imm s
  | .strl d base sc sz imm => Sys2Proof.Machine.execStrl d base sc sz imm s
  | .amoadd d base imm => Sys2Proof.Machine.execAmoadd d base imm s
  | .amoand d base imm => Sys2Proof.Machine.execAmoand d base imm s
  | .amoor d base imm => Sys2Proof.Machine.execAmoor d base imm s
  | .amoxor d base imm => Sys2Proof.Machine.execAmoxor d base imm s
  | .amomin d base imm => Sys2Proof.Machine.execAmomin d base imm s
  | .amomax d base imm => Sys2Proof.Machine.execAmomax d base imm s
  | .amominn d base imm => Sys2Proof.Machine.execAmominn d base imm s
  | .amomaxn d base imm => Sys2Proof.Machine.execAmomaxn d base imm s
  | .amoswp d base imm => Sys2Proof.Machine.execAmoswp d base imm s
  | .amocas d base imm => Sys2Proof.Machine.execAmocas d base imm s
  | .upd d base imm => Sys2Proof.Machine.execUpd d base imm s
  | .vupd d base imm => Sys2Proof.Machine.execVupd d base imm s
  | .uflush base imm => Sys2Proof.Machine.execUflush base imm s
  | .rake base imm => Sys2Proof.Machine.execRake base imm s
  | .fence d sc => Sys2Proof.Machine.execFence d sc s
  | .pfence d sc => Sys2Proof.Machine.execPfence d sc s
  | .xfence d sc => Sys2Proof.Machine.execXfence d sc s
  | .ufence d => Sys2Proof.Machine.execUfence d s
  | .migr a => Sys2Proof.Machine.execMigr a s
  | .home d a => Sys2Proof.Machine.execHome d a s
  | .pref a => Sys2Proof.Machine.execPref a s
  | .cpin d a b => Sys2Proof.Machine.execCpin d a b s
  | .cunpin d a b => Sys2Proof.Machine.execCunpin d a b s
  | .chint d a b => Sys2Proof.Machine.execChint d a b s
  | .cwb d a b => Sys2Proof.Machine.execCwb d a b s
  | .replsync d a b => Sys2Proof.Machine.execReplsync d a b s
  | .fadd f d a b => Sys2Proof.Machine.execFadd f d a b s
  | .fsub f d a b => Sys2Proof.Machine.execFsub f d a b s
  | .fmul f d a b => Sys2Proof.Machine.execFmul f d a b s
  | .fdiv f d a b => Sys2Proof.Machine.execFdiv f d a b s
  | .ffma f d a b c => Sys2Proof.Machine.execFfma f d a b c s
  | .ffms f d a b c => Sys2Proof.Machine.execFfms f d a b c s
  | .fsqrt f d a => Sys2Proof.Machine.execFsqrt f d a s
  | .fmin f d a b => Sys2Proof.Machine.execFmin f d a b s
  | .fmax f d a b => Sys2Proof.Machine.execFmax f d a b s
  | .fminp f d a b => Sys2Proof.Machine.execFminp f d a b s
  | .fmaxp f d a b => Sys2Proof.Machine.execFmaxp f d a b s
  | .fabs f d a => Sys2Proof.Machine.execFabs f d a s
  | .fneg f d a => Sys2Proof.Machine.execFneg f d a s
  | .fsgnj f d a b => Sys2Proof.Machine.execFsgnj f d a b s
  | .feq f d a b => Sys2Proof.Machine.execFeq f d a b s
  | .flt f d a b => Sys2Proof.Machine.execFlt f d a b s
  | .fle f d a b => Sys2Proof.Machine.execFle f d a b s
  | .fclass f d a => Sys2Proof.Machine.execFclass f d a s
  | .fcvt f d a e => Sys2Proof.Machine.execFcvt f d a e s
  | .fcvti f d a e => Sys2Proof.Machine.execFcvti f d a e s
  | .icvtf f d a e => Sys2Proof.Machine.execIcvtf f d a e s
  | .vadd f d a b => Sys2Proof.Machine.execVadd f d a b s
  | .vsub f d a b => Sys2Proof.Machine.execVsub f d a b s
  | .vmul f d a b => Sys2Proof.Machine.execVmul f d a b s
  | .vfma f d a b c => Sys2Proof.Machine.execVfma f d a b c s
  | .vfms f d a b c => Sys2Proof.Machine.execVfms f d a b c s
  | .vfnma f d a b c => Sys2Proof.Machine.execVfnma f d a b c s
  | .vmin f d a b => Sys2Proof.Machine.execVmin f d a b s
  | .vmax f d a b => Sys2Proof.Machine.execVmax f d a b s
  | .vminp f d a b => Sys2Proof.Machine.execVminp f d a b s
  | .vmaxp f d a b => Sys2Proof.Machine.execVmaxp f d a b s
  | .vabs f d a => Sys2Proof.Machine.execVabs f d a s
  | .vneg f d a => Sys2Proof.Machine.execVneg f d a s
  | .vand d a b => Sys2Proof.Machine.execVand d a b s
  | .vor d a b => Sys2Proof.Machine.execVor d a b s
  | .vxor d a b => Sys2Proof.Machine.execVxor d a b s
  | .vcmpeq f d a b => Sys2Proof.Machine.execVcmpeq f d a b s
  | .vcmplt f d a b => Sys2Proof.Machine.execVcmplt f d a b s
  | .vcmple f d a b => Sys2Proof.Machine.execVcmple f d a b s
  | .vsel d a b c => Sys2Proof.Machine.execVsel d a b c s
  | .vcvt f d a c => Sys2Proof.Machine.execVcvt f d a c s
  | .vsum f d a => Sys2Proof.Machine.execVsum f d a s
  | .vdot f d a b => Sys2Proof.Machine.execVdot f d a b s
  | .vexp2 f d a => Sys2Proof.Machine.execVexp2 f d a s
  | .vlog2 f d a => Sys2Proof.Machine.execVlog2 f d a s
  | .vrcp f d a => Sys2Proof.Machine.execVrcp f d a s
  | .vrsq f d a => Sys2Proof.Machine.execVrsq f d a s
  | .vperm d a b => Sys2Proof.Machine.execVperm d a b s
  | .vmov d a => Sys2Proof.Machine.execVmov d a s
  | .vcomp f d a => Sys2Proof.Machine.execVcomp f d a s
  | .vdec f d a => Sys2Proof.Machine.execVdec f d a s
  | .venc f d a => Sys2Proof.Machine.execVenc f d a s
  | .vshl f d a g => Sys2Proof.Machine.execVshl f d a g s
  | .vshr f d a g => Sys2Proof.Machine.execVshr f d a g s
  | .vsra f d a g => Sys2Proof.Machine.execVsra f d a g s
  | .vbcst d g => Sys2Proof.Machine.execVbcst d g s
  | .vins d a g l => Sys2Proof.Machine.execVins d a g l s
  | .vext d a l => Sys2Proof.Machine.execVext d a l s
  | .vslide d a l => Sys2Proof.Machine.execVslide d a l s
  | .vtld g => Sys2Proof.Machine.execVtld g s
  | .mtask d a b => Sys2Proof.Machine.execMtask d a b s
  | .ctask d a => Sys2Proof.Machine.execCtask d a s
  | .taskw d a => Sys2Proof.Machine.execTaskw d a s
  | .waitc d => Sys2Proof.Machine.execWaitc d s
  | .harm h a b => Sys2Proof.Machine.execHarm h a b s
  | .harr d h => Sys2Proof.Machine.execHarr d h s
  | .hwait d a h => Sys2Proof.Machine.execHwait d a h s
  | .spawn d a => Sys2Proof.Machine.execSpawn d a s
  | .spawnHome d a b => Sys2Proof.Machine.execSpawnHome d a b s
  | .join d a => Sys2Proof.Machine.execJoin d a s
  | .launch d a b => Sys2Proof.Machine.execLaunch d a b s
  | .srd d n => Sys2Proof.Machine.execSrd d n s
  | .srdHandle d a n => Sys2Proof.Machine.execSrdHandle d a n s
  | .swr n a => Sys2Proof.Machine.execSwr n a s
  | .swrHandle h n a => Sys2Proof.Machine.execSwrHandle h n a s
  | .trap imm => Sys2Proof.Machine.execTrap imm s
  | .resume a => Sys2Proof.Machine.execResume a s
  | .resumeMigrate a b => Sys2Proof.Machine.execResumeMigrate a b s
  | .kill a => Sys2Proof.Machine.execKill a s
  | .bkpt imm => Sys2Proof.Machine.execBkpt imm s
  | .tlbiPage d a b => Sys2Proof.Machine.execTlbiPage d a b s
  | .tlbiAsid d b => Sys2Proof.Machine.execTlbiAsid d b s
  | .tlbiAll d => Sys2Proof.Machine.execTlbiAll d s
  | .bedw d a b => Sys2Proof.Machine.execBedw d a b s
  | .clre r => Sys2Proof.Machine.execClre r s
  | .isf d r => Sys2Proof.Machine.execIsf d r s
  | .waitf r => Sys2Proof.Machine.execWaitf r s
  | .cut r n => Sys2Proof.Machine.execCut r n s
  | .uncut r => Sys2Proof.Machine.execUncut r s
  | .drop r => Sys2Proof.Machine.execDrop r s
  | .xset xd a => Sys2Proof.Machine.execXset xd a s
  | .xget d xs => Sys2Proof.Machine.execXget d xs s
  | .clreW r => Sys2Proof.Machine.execClreW r s
  | .isfW d r => Sys2Proof.Machine.execIsfW d r s
  | .waitfW r => Sys2Proof.Machine.execWaitfW r s
  | .cutW r n => Sys2Proof.Machine.execCutW r n s
  | .uncutW r => Sys2Proof.Machine.execUncutW r s
  | .dropW r => Sys2Proof.Machine.execDropW r s
  | .xli xd imm => Sys2Proof.Machine.execXli xd imm s
  | .add16 d r => Sys2Proof.Machine.execAdd16 d r s
  | .sub16 d r => Sys2Proof.Machine.execSub16 d r s
  | .and16 d r => Sys2Proof.Machine.execAnd16 d r s
  | .or16 d r => Sys2Proof.Machine.execOr16 d r s
  | .xor16 d r => Sys2Proof.Machine.execXor16 d r s
  | .mov16 d r => Sys2Proof.Machine.execMov16 d r s
  | .sll16 d r => Sys2Proof.Machine.execSll16 d r s
  | .srl16 d r => Sys2Proof.Machine.execSrl16 d r s
  | .addW16 d r => Sys2Proof.Machine.execAddW16 d r s
  | .subW16 d r => Sys2Proof.Machine.execSubW16 d r s
  | .andn16 d r => Sys2Proof.Machine.execAndn16 d r s
  | .sra16 d r => Sys2Proof.Machine.execSra16 d r s
  | .mul16 d r => Sys2Proof.Machine.execMul16 d r s
  | .slt16 d r => Sys2Proof.Machine.execSlt16 d r s
  | .sltn16 d r => Sys2Proof.Machine.execSltn16 d r s
  | .seq16 d r => Sys2Proof.Machine.execSeq16 d r s
  | .min16 d r => Sys2Proof.Machine.execMin16 d r s
  | .max16 d r => Sys2Proof.Machine.execMax16 d r s
  | .minn16 d r => Sys2Proof.Machine.execMinn16 d r s
  | .maxn16 d r => Sys2Proof.Machine.execMaxn16 d r s
  | .rotl16 d r => Sys2Proof.Machine.execRotl16 d r s
  | .mulh16 d r => Sys2Proof.Machine.execMulh16 d r s
  | .mulhn16 d r => Sys2Proof.Machine.execMulhn16 d r s
  | .addi16 d imm => Sys2Proof.Machine.execAddi16 d imm s
  | .li16 d imm => Sys2Proof.Machine.execLi16 d imm s
  | .slli16 d imm => Sys2Proof.Machine.execSlli16 d imm s
  | .srai16 d imm => Sys2Proof.Machine.execSrai16 d imm s
  | .andi16 d imm => Sys2Proof.Machine.execAndi16 d imm s
  | .srli16 d imm => Sys2Proof.Machine.execSrli16 d imm s
  | .ldD16 d base off => Sys2Proof.Machine.execLdD16 d base off s
  | .stD16 d base off => Sys2Proof.Machine.execStD16 d base off s
  | .ldrD16 d base off => Sys2Proof.Machine.execLdrD16 d base off s
  | .stpD16 d base off => Sys2Proof.Machine.execStpD16 d base off s
  | .beqz16 r off => Sys2Proof.Machine.execBeqz16 r off s
  | .bnez16 r off => Sys2Proof.Machine.execBnez16 r off s
  | .j16 off => Sys2Proof.Machine.execJ16 off s
  | .nop => Sys2Proof.Machine.execNop s
  | .pin => Sys2Proof.Machine.execPin s
  | .unpin => Sys2Proof.Machine.execUnpin s
  | .rakew => Sys2Proof.Machine.execRakew s
  | .exit => Sys2Proof.Machine.execExit s
  | .nxtgo => Sys2Proof.Machine.execNxtgo s
  | .predwait => Sys2Proof.Machine.execPredwait s
  | .yield => Sys2Proof.Machine.execYield s
  | .nop16 => Sys2Proof.Machine.execNop16 s
  | .exit16 => Sys2Proof.Machine.execExit16 s
  | .yield16 => Sys2Proof.Machine.execYield16 s
  | .ufence16 => Sys2Proof.Machine.execUfence16 s
  | .predwait16 => Sys2Proof.Machine.execPredwait16 s
  | .nxtgo16 => Sys2Proof.Machine.execNxtgo16 s
  | .jal16 off => Sys2Proof.Machine.execJal16 off s
  | .fmt fa fb => Sys2Proof.Machine.execFmt fa fb s
  | .powerMeasure tile watts => Sys2Proof.Machine.execPowerMeasure tile watts s
  | .powerWindowEnd tile => Sys2Proof.Machine.execPowerWindowEnd tile s
  | .panelBudgetMeasure watts => Sys2Proof.Machine.execPanelBudgetMeasure watts s
  | .panelBudgetWindowEnd => Sys2Proof.Machine.execPanelBudgetWindowEnd s
  | .thermalThreshold tile sensor temp => Sys2Proof.Machine.execThermalThreshold tile sensor temp s
  | .thermalClockStep tile => Sys2Proof.Machine.execThermalClockStep tile s
  | .thermalTrip tile sensor => Sys2Proof.Machine.execThermalTrip tile sensor s
  | .regulatorFail tile => Sys2Proof.Machine.execRegulatorFail tile s
  | .powerOn => Sys2Proof.Machine.execPowerOn s
  | .tileBoot site res => Sys2Proof.Machine.execTileBoot site res s
  | .selfTestReport site => Sys2Proof.Machine.execSelfTestReport site s
  | .bindTimeout => Sys2Proof.Machine.execBindTimeout s
  | .attestationRequest nonce => Sys2Proof.Machine.execAttestationRequest nonce s
  | .fuseCommand ver sig => Sys2Proof.Machine.execFuseCommand ver sig s
  | .reset => Sys2Proof.Machine.execReset s
  | .debugOpenCommand tile => Sys2Proof.Machine.execDebugOpenCommand tile s
  | .debugChallenge nonce => Sys2Proof.Machine.execDebugChallenge nonce s
  | .debugToken tok => Sys2Proof.Machine.execDebugToken tok s
  | .debugClose mask => Sys2Proof.Machine.execDebugClose mask s
  | .debugTokenExpire => Sys2Proof.Machine.execDebugTokenExpire s
  | .pwrcmdRetain tile => Sys2Proof.Machine.execPwrcmdRetain tile s
  | .pwrcmdOff tile => Sys2Proof.Machine.execPwrcmdOff tile s
  | .pwrcmdRun tile => Sys2Proof.Machine.execPwrcmdRun tile s
  | .powerTransitionDone tile res => Sys2Proof.Machine.execPowerTransitionDone tile res s
  | .idleEnter tile => Sys2Proof.Machine.execIdleEnter tile s
  | .idleExit tile => Sys2Proof.Machine.execIdleExit tile s
  | .repairCommand tile col lane => Sys2Proof.Machine.execRepairCommand tile col lane s
  | .repairAuto tile col lane cls => Sys2Proof.Machine.execRepairAuto tile col lane cls s
  | .repairSwitch tile col => Sys2Proof.Machine.execRepairSwitch tile col s
  | .flitArrival router port crcOk => Sys2Proof.Machine.execFlitArrival router port crcOk s
  | .flitAck router port => Sys2Proof.Machine.execFlitAck router port s
  | .flitForward router k => Sys2Proof.Machine.execFlitForward router k s
  | .escapeTimeout router k => Sys2Proof.Machine.execEscapeTimeout router k s
  | .linkAckTimeout router port => Sys2Proof.Machine.execLinkAckTimeout router port s
  | .linkTrained router port => Sys2Proof.Machine.execLinkTrained router port s
  | .linkRetrainTimeout router port => Sys2Proof.Machine.execLinkRetrainTimeout router port s
  | .tableUpdateReceive router => Sys2Proof.Machine.execTableUpdateReceive router s
  | .tableAck router => Sys2Proof.Machine.execTableAck router s
  | .tableCommit router => Sys2Proof.Machine.execTableCommit router s
  | .oldBankRelease => Sys2Proof.Machine.execOldBankRelease s
  | .retire tile grace res => Sys2Proof.Machine.execRetire tile grace res s
  | .retireCopyDone => Sys2Proof.Machine.execRetireCopyDone s
  | .retireGraceEnd => Sys2Proof.Machine.execRetireGraceEnd s
  | .tileLoss tile => Sys2Proof.Machine.execTileLoss tile s
  | .lossNotice tile lost => Sys2Proof.Machine.execLossNotice tile lost s
  | .lossWaitExpire tile col lost => Sys2Proof.Machine.execLossWaitExpire tile col lost s
  | .peerFrame die frame => Sys2Proof.Machine.execPeerFrame die frame s
  | .peerAck msg => Sys2Proof.Machine.execPeerAck msg s
  | .peerAckTimeout msg => Sys2Proof.Machine.execPeerAckTimeout msg s
  | .portStatusRead router port => Sys2Proof.Machine.execPortStatusRead router port s
  | .unsupportedRequest port addr => Sys2Proof.Machine.execUnsupportedRequest port addr s
  | .functionLevelReset port => Sys2Proof.Machine.execFunctionLevelReset port s
  | .registerWrite off val => Sys2Proof.Machine.execRegisterWrite off val s
  | .windowRead port off len => Sys2Proof.Machine.execWindowRead port off len s
  | .windowWrite port off data => Sys2Proof.Machine.execWindowWrite port off data s
  | .winfenceRead port => Sys2Proof.Machine.execWinfenceRead port s
  | .queueEnable q val => Sys2Proof.Machine.execQueueEnable q val s
  | .queueClear q => Sys2Proof.Machine.execQueueClear q s
  | .doorbell q tail => Sys2Proof.Machine.execDoorbell q tail s
  | .queueFetch die => Sys2Proof.Machine.execQueueFetch die s
  | .markerWrite q => Sys2Proof.Machine.execMarkerWrite q s
  | .evheadWrite port val => Sys2Proof.Machine.execEvheadWrite port val s
  | .evlostRead port => Sys2Proof.Machine.execEvlostRead port s
  | .launchRecordDeliver tile => Sys2Proof.Machine.execLaunchRecordDeliver tile s
  | .predecessorPoll tile => Sys2Proof.Machine.execPredecessorPoll tile s
  | .bindJob job recs => Sys2Proof.Machine.execBindJob job recs s
  | .releaseNotice msg => Sys2Proof.Machine.execReleaseNotice msg s
  | .dispatch tile col rec => Sys2Proof.Machine.execDispatch tile col rec s
  | .slotGrant tile core => Sys2Proof.Machine.execSlotGrant tile core s
  | .jobComplete job => Sys2Proof.Machine.execJobComplete job s
  | .jobcmdSuspend tile job => Sys2Proof.Machine.execJobcmdSuspend tile job s
  | .jobcmdResume tile job => Sys2Proof.Machine.execJobcmdResume tile job s
  | .jobcmdCancel tile job => Sys2Proof.Machine.execJobcmdCancel tile job s
  | .suspendNotice msg => Sys2Proof.Machine.execSuspendNotice msg s
  | .engineSaveDone tile eng => Sys2Proof.Machine.execEngineSaveDone tile eng s
  | .resumeNotice msg => Sys2Proof.Machine.execResumeNotice msg s
  | .engineRestore tile eng => Sys2Proof.Machine.execEngineRestore tile eng s
  | .strandCountReport tile col job => Sys2Proof.Machine.execStrandCountReport tile col job s
  | .lossCountAnswer tile job => Sys2Proof.Machine.execLossCountAnswer tile job s
  | .tableFetch msg => Sys2Proof.Machine.execTableFetch msg s
  | .bedCacheFill tile core slot => Sys2Proof.Machine.execBedCacheFill tile core slot s
  | .parkRecheck tile core slot => Sys2Proof.Machine.execParkRecheck tile core slot s
  | .evict tile core => Sys2Proof.Machine.execEvict tile core s
  | .fill msg => Sys2Proof.Machine.execFill msg s
  | .instructionLineFill msg => Sys2Proof.Machine.execInstructionLineFill msg s
  | .migrationArrival msg => Sys2Proof.Machine.execMigrationArrival msg s
  | .migrationAcceptance msg => Sys2Proof.Machine.execMigrationAcceptance msg s
  | .migrationRefusal msg => Sys2Proof.Machine.execMigrationRefusal msg s
  | .migrationBackoffExpire handle => Sys2Proof.Machine.execMigrationBackoffExpire handle s
  | .recall msg => Sys2Proof.Machine.execRecall msg s
  | .migrationErrorResponse msg => Sys2Proof.Machine.execMigrationErrorResponse msg s
  | .handlerCreate tile core => Sys2Proof.Machine.execHandlerCreate tile core s
  | .remoteReadServe msg => Sys2Proof.Machine.execRemoteReadServe msg s
  | .postedStorePerform msg => Sys2Proof.Machine.execPostedStorePerform msg s
  | .postedStoreAck msg => Sys2Proof.Machine.execPostedStoreAck msg s
  | .joinWordChange msg => Sys2Proof.Machine.execJoinWordChange msg s
  | .joinIncrementAck msg => Sys2Proof.Machine.execJoinIncrementAck msg s
  | .joinRegistration msg => Sys2Proof.Machine.execJoinRegistration msg s
  | .joinRegistrationRetry msg => Sys2Proof.Machine.execJoinRegistrationRetry msg s
  | .updateSend tile core n => Sys2Proof.Machine.execUpdateSend tile core n s
  | .updateFlitArrival msg => Sys2Proof.Machine.execUpdateFlitArrival msg s
  | .updateAnswer msg => Sys2Proof.Machine.execUpdateAnswer msg s
  | .updateResend tile core tag => Sys2Proof.Machine.execUpdateResend tile core tag s
  | .sieveSpill tile quad => Sys2Proof.Machine.execSieveSpill tile quad s
  | .forcedApply tile quad => Sys2Proof.Machine.execForcedApply tile quad s
  | .flushRequest msg => Sys2Proof.Machine.execFlushRequest msg s
  | .flushAck msg => Sys2Proof.Machine.execFlushAck msg s
  | .sieveCounterRead tile quad k => Sys2Proof.Machine.execSieveCounterRead tile quad k s
  | .taskPostArrival msg => Sys2Proof.Machine.execTaskPostArrival msg s
  | .taskPostRetry msg => Sys2Proof.Machine.execTaskPostRetry msg s
  | .taskIssue tile tseq => Sys2Proof.Machine.execTaskIssue tile tseq s
  | .copyRun tile eng n => Sys2Proof.Machine.execCopyRun tile eng n s
  | .matrixStepBegin tile eng => Sys2Proof.Machine.execMatrixStepBegin tile eng s
  | .matrixStepEnd tile eng => Sys2Proof.Machine.execMatrixStepEnd tile eng s
  | .drainDone tile eng => Sys2Proof.Machine.execDrainDone tile eng s
  | .channelStarveTimeout tile eng => Sys2Proof.Machine.execChannelStarveTimeout tile eng s
  | .channelFullTimeout tile eng => Sys2Proof.Machine.execChannelFullTimeout tile eng s
  | .taskFinish tile tseq => Sys2Proof.Machine.execTaskFinish tile tseq s
  | .hedgeBytes msg => Sys2Proof.Machine.execHedgeBytes msg s
  | .hedgeRowArrival msg => Sys2Proof.Machine.execHedgeRowArrival msg s
  | .hedgeColumnArrival msg => Sys2Proof.Machine.execHedgeColumnArrival msg s
  | .hedgeRelease msg => Sys2Proof.Machine.execHedgeRelease msg s
  | .taskwRequest msg => Sys2Proof.Machine.execTaskwRequest msg s
  | .rakeRequestStart tile col => Sys2Proof.Machine.execRakeRequestStart tile col s
  | .rakeElement tile col => Sys2Proof.Machine.execRakeElement tile col s
  | .rakeFetchFill msg => Sys2Proof.Machine.execRakeFetchFill msg s
  | .rkstsRead tile col => Sys2Proof.Machine.execRkstsRead tile col s
  | .launchRequest msg => Sys2Proof.Machine.execLaunchRequest msg s
  | .tlbiInvalidate msg => Sys2Proof.Machine.execTlbiInvalidate msg s
  | .tlbiAck msg => Sys2Proof.Machine.execTlbiAck msg s
  | .tbinvPage tile col asid cvapg => Sys2Proof.Machine.execTbinvPage tile col asid cvapg s
  | .tbinvAsid tile col asid => Sys2Proof.Machine.execTbinvAsid tile col asid s
  | .tbinvAll tile col => Sys2Proof.Machine.execTbinvAll tile col s
  | .invalidationComplete tile col => Sys2Proof.Machine.execInvalidationComplete tile col s
  | .bedwReadDone msg => Sys2Proof.Machine.execBedwReadDone msg s
  | .vtldTableReplace msg => Sys2Proof.Machine.execVtldTableReplace msg s
  | .cacheControlRequest msg => Sys2Proof.Machine.execCacheControlRequest msg s
  | .qpartWrite tile quad val => Sys2Proof.Machine.execQpartWrite tile quad val s
  | .qpartChangeDone tile quad => Sys2Proof.Machine.execQpartChangeDone tile quad s
  | .quadrantCounterRead tile quad k => Sys2Proof.Machine.execQuadrantCounterRead tile quad k s
  | .dockstsRead tile col => Sys2Proof.Machine.execDockstsRead tile col s
  | .dbgHaltRequest tile core => Sys2Proof.Machine.execDbgHaltRequest tile core s
  | .dbgResumeRequest tile core => Sys2Proof.Machine.execDbgResumeRequest tile core s
  | .haltPropagate msg => Sys2Proof.Machine.execHaltPropagate msg s
  | .debugImageWrite tile off val => Sys2Proof.Machine.execDebugImageWrite tile off val s
  | .debugMemoryRead tile pa len => Sys2Proof.Machine.execDebugMemoryRead tile pa len s
  | .debugMemoryWrite tile pa data => Sys2Proof.Machine.execDebugMemoryWrite tile pa data s
  | .patrolScrub pa kind => Sys2Proof.Machine.execPatrolScrub pa kind s
  | .powerLoss torn => Sys2Proof.Machine.execPowerLoss torn s
  | .scaleUpPortLinkChange die port lstate => Sys2Proof.Machine.execScaleUpPortLinkChange die port lstate s
  | .hostReadCompletion msg ok => Sys2Proof.Machine.execHostReadCompletion msg ok s
  | .sieveSpillDone tile quad => Sys2Proof.Machine.execSieveSpillDone tile quad s
  | .preemptionTileReport msg => Sys2Proof.Machine.execPreemptionTileReport msg s
  | .tableFetchRequest msg => Sys2Proof.Machine.execTableFetchRequest msg s
  | .safeTalkativePowerOff site => Sys2Proof.Machine.execSafeTalkativePowerOff site s

end Sys2Proof.Machine
end

