-- ==== Sys2Proof/Machine/Step.lean ====
section
/-! DEFINITION. One step of the panel: the head of the agenda, or a clock edge when the agenda is empty (log 1). -/

namespace Sys2Proof.Machine

/-- Run the instruction that a slot's strand has fetched: the meaning of what it decodes to, or the trap of an encoding that
names none (spec/13 R268). -/
def runFetched (s : State) (st : Strand) (w : Nat) : Host.Outcome State Fault Refusal :=
  let c := { s with cur := some st.handle }
  match decodeFetched w with
  | .ok ins => exec ins c
  | .fmt fa fb => execFmt fa fb c
  | .jal16 off => execJal16 off c
  | .illegal => .next (s.trap st (illegal w))
  | .reserved => .next (s.trap st (reserved w))
  | .short => .next (s.trap st (illegal w))

/-- A slot's turn: a parked strand first re-examines its cause; a strand that may issue fetches and runs one instruction. -/
def turn (s : State) (tile core slot : Nat) : Host.Outcome State Fault Refusal :=
  match s.slotStrand tile core slot with
  | none => .next s
  | some st =>
    if s.mayIssue st then
      if st.status == .parked && !s.causeClear st then .next (s.recheck st)
      else
        let t := st.unpark
        match (s.putStrand t).fetch t with
        | .stop s1 => .next s1
        | .parcel w s1 => runFetched s1 t w
    else .next s

/-- One step. -/
def step (s : State) : Host.Outcome State Fault Refusal :=
  match s.agenda with
  | [] => .next s.clockEdge
  | .issue t c k :: rest => turn { s with agenda := rest, cur := none } t c k
  | .agent e :: rest => exec e { s with agenda := rest, cur := none }

/-- s with an instruction where step fetches next: its words in the instruction buffer of core 0, a strand at address 0 in the
slot whose turn is next. nbits is how many bits the row has; the bits above are zero. -/
def State.withFetchWord (s : State) (nbits w : Nat) : State := s.placeWord (w % 2 ^ nbits)

end Sys2Proof.Machine
end

