-- ==== Sys2Proof/Safety.lean ====
section
/-! DEFINITION. What counts as a safe run, and the invariants that claims use. -/

namespace Sys2Proof.Machine

/-- t is reached from s by steps that all answer a next state. -/
inductive Reaches : State → State → Prop where
  | refl (s : State) : Reaches s s
  | tail {s t u : State} : Reaches s t → step t = .next u → Reaches s u

/-- A run is safe when no step reachable from its start stops. -/
def Safe (s : State) : Prop := ∀ t, Reaches s t → ∃ u, step t = .next u

/-- Device memory, SRAM and host memory are in their canonical form. -/
def State.memOk (s : State) : Prop := s.mem.wf = true ∧ s.sram.wf = true ∧ s.hostMem.wf = true

end Sys2Proof.Machine
end

