-- ==== Sys2Proof/WellFormed.lean ====
section
/-! DEFINITION. Which terms of Instr are instructions of the machine: the values that the operand fields may hold and the
opcode map rejects (spec/13 R262, R268, spec/14 R274, R276, R277). What depends on the strand's prefix is checked by the
meanings (spec/14 R276). -/

namespace Sys2Proof

/-- An FS field that admits FP32, FP16 and BF16 only (spec/14 R276, spec/17 R350, R355, R358). -/
def fsFloat (f : BitVec 2) : Bool := f != 3

/-- A scope code that an encoding may hold (spec/13 R262). -/
def scopeOk (sc : BitVec 4) : Bool := decide (sc.toNat < 12)

/-- Does the term stand for an encoded instruction? -/
def Instr.encoded (ins : Instr) : Bool := ins.len != 0

/-- The checks on an instruction's fields. -/
def Instr.fieldsOk : Instr → Bool
  | .ldn _ _ sz _ => sz != 3
  | .ldaq _ _ sc _ _ => scopeOk sc
  | .strl _ _ sc _ _ => scopeOk sc
  | .fence _ sc => scopeOk sc
  | .pfence _ sc => scopeOk sc
  | .xfence _ sc => scopeOk sc
  | .fadd f _ _ _ => fsFloat f
  | .fsub f _ _ _ => fsFloat f
  | .fmul f _ _ _ => fsFloat f
  | .fdiv f _ _ _ => fsFloat f
  | .ffma f _ _ _ _ => fsFloat f
  | .ffms f _ _ _ _ => fsFloat f
  | .fsqrt f _ _ => fsFloat f
  | .fmin f _ _ _ => fsFloat f
  | .fmax f _ _ _ => fsFloat f
  | .fminp f _ _ _ => fsFloat f
  | .fmaxp f _ _ _ => fsFloat f
  | .fabs f _ _ => fsFloat f
  | .fneg f _ _ => fsFloat f
  | .fsgnj f _ _ _ => fsFloat f
  | .feq f _ _ _ => fsFloat f
  | .flt f _ _ _ => fsFloat f
  | .fle f _ _ _ => fsFloat f
  | .fclass f _ _ => fsFloat f
  | .fcvt f _ _ _ => fsFloat f
  | .fcvti f _ _ _ => fsFloat f
  | .icvtf f _ _ _ => fsFloat f
  | .vminp f _ _ _ => fsFloat f
  | .vmaxp f _ _ _ => fsFloat f
  | .vcvt _ _ _ c => decide (c.toNat < 4)
  | .vexp2 f _ _ => fsFloat f
  | .vlog2 f _ _ => fsFloat f
  | .vrcp f _ _ => fsFloat f
  | .vrsq f _ _ => fsFloat f
  | .vdec f _ _ => fsFloat f
  | .venc f _ _ => fsFloat f
  | _ => true

/-- A well-formed instruction: one with an encoding, every field in range. -/
def Instr.wf (ins : Instr) : Bool := ins.encoded && ins.fieldsOk

end Sys2Proof
end

