-- ==== Sys2Proof/Certificates/Slice0/Obligations.lean ====
section
/-! DEFINITION. The statements for the provers. What a statement says an instruction does is written here from the spec, in
functions of its own (namespace Said); the model's functions appear as the subject of the statements. -/

open Sys2Proof Sys2Proof.Machine

namespace Sys2Proof.Said

/-! ### The issue of an instruction -/

/-- Every register of a list is Full, carries no DataLoss and has no parity error, nor has an x register one (spec/13 R250, spec/16 R320,
spec/11 R220). -/
abbrev Ready (st : Strand) (reads : List Nat) : Prop :=
  st.xpar = 0 ∧ ∀ r ∈ reads, (st.rc r).st = .full ∧ (st.rc r).loss = none ∧ (st.rc r).par = false
/-- The strand st issues in state s and nothing holds it back before its operands: no prefix is pending, and every
register that the instruction reads is ready (spec/13 R250, R266, R268). -/
def Issues (s : State) (st : Strand) (reads : List Nat) : Prop :=
  s.cur = some st.handle ∧ s.strand? st.handle = some st ∧ st.pp = false ∧ Ready st reads

/-- A source field as a register code and its take bit. -/
def g (a : GSrc) : Nat × Bool := (a.reg.toNat, a.take)
def w (a : WSrc) : Nat × Bool := (16 + a.reg.toNat, a.take)
/-- A g register read without a take bit. -/
def plainG (r : GReg) : Nat × Bool := (r.toNat, false)

/-- The state after an instruction that reads srcs, changes the strand by f and completes at an address: nothing but the reads, f,
and the end of the issue. -/
def completesAt (s : State) (st : Strand) (srcs : List (Nat × Bool)) (pc : BitVec 56) (f : Strand → Strand) : State :=
  (s.readSources st srcs).1.putStrand ((f (s.readSources st srcs).2).completed pc)

/-- The same at the following instruction, len bytes on. -/
def completes (s : State) (st : Strand) (srcs : List (Nat × Bool)) (len : Nat) (f : Strand → Strand) : State :=
  completesAt s st srcs (st.pc + .ofNat 56 len) f

/-- What a register-only instruction does: its sources in field order, its length in bytes, the register it writes, the value. -/
structure Result where
  srcs : List (Nat × Bool)
  len : Nat
  d : GReg
  v : Word

end Sys2Proof.Said
namespace Sys2Proof.Said

/-- A register-register instruction of 4 bytes. -/
def bin (d : GReg) (a b : GSrc) (t : Strand) (f : Word → Word → Word) : Option Result :=
  some ⟨[g a, g b], 4, d, f (t.gv a.reg) (t.gv b.reg)⟩
/-- A 16-bit form: d := d op s. -/
def half (d r : GReg) (t : Strand) (f : Word → Word → Word) : Option Result :=
  some ⟨[plainG d, plainG r], 2, d, f (t.gv d) (t.gv r)⟩
/-- An instruction of one source. -/
def un (d : GReg) (a : GSrc) (t : Strand) (f : Word → Word) : Option Result := some ⟨[g a], 4, d, f (t.gv a.reg)⟩
/-- A 16-bit form with an immediate: d := d op imm. -/
def halfImm (d : GReg) (t : Strand) (f : Word → Word) : Option Result := some ⟨[plainG d], 2, d, f (t.gv d)⟩

/-- Bits 127 to 64 of the product of the sign-extended operands (spec/15 R294). -/
def mulh (a b : Word) : Word := ((a.signExtend 128 * b.signExtend 128) >>> 64).truncate 64
/-- Bits 127 to 64 of the unsigned product (spec/15 R294). -/
def mulhn (a b : Word) : Word := ((a.zeroExtend 128 * b.zeroExtend 128) >>> 64).truncate 64
/-- A 32-bit operation, sign-extended (spec/15 R295). -/
def low32 (f : BitVec 32 → BitVec 32 → BitVec 32) (a b : Word) : Word := (f (a.truncate 32) (b.truncate 32)).signExtend 64
/-- The amount of a shift: six bits (spec/15 R296). -/
def amount (b : Word) : Nat := (b.truncate 6).toNat
def rotl (a : Word) (n : Nat) : Word := if n = 0 then a else (a <<< n) ||| (a >>> (64 - n))
def bool (b : Bool) : Word := if b then 1#64 else 0#64

/-- The integer arithmetic, logic, shift, compare, select, constant and move instructions (spec/15 R294 to R298, R301, spec/12
R244). -/
def arith (i : Instr) (t : Strand) : Option Result :=
  match i with
  | .add d a b => bin d a b t (· + ·)
  | .sub d a b => bin d a b t (· - ·)
  | .mul d a b => bin d a b t (· * ·)
  | .mulh d a b => bin d a b t mulh
  | .mulhn d a b => bin d a b t mulhn
  | .madd d a b c => some ⟨[g a, g b, g c], 4, d, t.gv a.reg * t.gv b.reg + t.gv c.reg⟩
  | .div d a b => bin d a b t (fun x y => if y = 0 then BitVec.allOnes 64 else x.sdiv y)
  | .rem d a b => bin d a b t (fun x y => if y = 0 then x else x.srem y)
  | .divn d a b => bin d a b t (fun x y => if y = 0 then BitVec.allOnes 64 else x / y)
  | .remn d a b => bin d a b t (fun x y => if y = 0 then x else x % y)
  | .addW d a b => bin d a b t (low32 (· + ·))
  | .subW d a b => bin d a b t (low32 (· - ·))
  | .sllW d a b => bin d a b t (low32 (fun x y => x <<< (y.toNat % 32)))
  | .srlW d a b => bin d a b t (low32 (fun x y => x >>> (y.toNat % 32)))
  | .sraW d a b => bin d a b t (low32 (fun x y => x.sshiftRight (y.toNat % 32)))
  | .and d a b => bin d a b t (· &&& ·)
  | .or d a b => bin d a b t (· ||| ·)
  | .xor d a b => bin d a b t (· ^^^ ·)
  | .andn d a b => bin d a b t (fun x y => x &&& ~~~y)
  | .sll d a b => bin d a b t (fun x y => x <<< amount y)
  | .srl d a b => bin d a b t (fun x y => x >>> amount y)
  | .sra d a b => bin d a b t (fun x y => x.sshiftRight (amount y))
  | .rotl d a b => bin d a b t (fun x y => rotl x (amount y))
  | .min d a b => bin d a b t (fun x y => if x.toInt ≤ y.toInt then x else y)
  | .max d a b => bin d a b t (fun x y => if x.toInt ≤ y.toInt then y else x)
  | .minn d a b => bin d a b t (fun x y => if x.toNat ≤ y.toNat then x else y)
  | .maxn d a b => bin d a b t (fun x y => if x.toNat ≤ y.toNat then y else x)
  | .slt d a b => bin d a b t (fun x y => bool (x.slt y))
  | .sltn d a b => bin d a b t (fun x y => bool (x.ult y))
  | .seq d a b => bin d a b t (fun x y => bool (x == y))
  | .sel d a b c => some ⟨[g a, g b, g c], 4, d, if t.gv a.reg = 0 then t.gv c.reg else t.gv b.reg⟩
  | .mov d a => un d a t id
  | .addi d a imm => un d a t (· + imm.signExtend 64)
  | .andi d a imm => un d a t (· &&& imm.signExtend 64)
  | .ori d a imm => un d a t (· ||| imm.signExtend 64)
  | .xori d a imm => un d a t (· ^^^ imm.signExtend 64)
  | .slti d a imm => un d a t (fun x => bool (x.slt (imm.signExtend 64)))
  | .slli d a n => un d a t (· <<< n.toNat)
  | .srli d a n => un d a t (· >>> n.toNat)
  | .srai d a n => un d a t (fun x => x.sshiftRight n.toNat)
  | .rotli d a n => un d a t (fun x => rotl x n.toNat)
  | .li d imm => some ⟨[], 4, d, imm.signExtend 64⟩
  | .lui d imm => some ⟨[], 4, d, imm.signExtend 64 <<< 12⟩
  | .auipc d imm => some ⟨[], 4, d, t.pc.zeroExtend 64 + (imm.signExtend 64 <<< 12)⟩
  | .add16 d r => half d r t (· + ·)
  | .sub16 d r => half d r t (· - ·)
  | .and16 d r => half d r t (· &&& ·)
  | .or16 d r => half d r t (· ||| ·)
  | .xor16 d r => half d r t (· ^^^ ·)
  | .mov16 d r => some ⟨[plainG r], 2, d, t.gv r⟩
  | .sll16 d r => half d r t (fun x y => x <<< amount y)
  | .srl16 d r => half d r t (fun x y => x >>> amount y)
  | .addW16 d r => half d r t (low32 (· + ·))
  | .subW16 d r => half d r t (low32 (· - ·))
  | .andn16 d r => half d r t (fun x y => x &&& ~~~y)
  | .sra16 d r => half d r t (fun x y => x.sshiftRight (amount y))
  | .mul16 d r => half d r t (· * ·)
  | .slt16 d r => half d r t (fun x y => bool (x.slt y))
  | .sltn16 d r => half d r t (fun x y => bool (x.ult y))
  | .seq16 d r => half d r t (fun x y => bool (x == y))
  | .min16 d r => half d r t (fun x y => if x.toInt ≤ y.toInt then x else y)
  | .max16 d r => half d r t (fun x y => if x.toInt ≤ y.toInt then y else x)
  | .minn16 d r => half d r t (fun x y => if x.toNat ≤ y.toNat then x else y)
  | .maxn16 d r => half d r t (fun x y => if x.toNat ≤ y.toNat then y else x)
  | .rotl16 d r => half d r t (fun x y => rotl x (amount y))
  | .mulh16 d r => half d r t mulh
  | .mulhn16 d r => half d r t mulhn
  | .addi16 d imm => halfImm d t (· + imm.signExtend 64)
  | .andi16 d imm => halfImm d t (· &&& imm.signExtend 64)
  | .li16 d imm => some ⟨[], 2, d, imm.signExtend 64⟩
  | .slli16 d imm => halfImm d t (· <<< imm.toNat)
  | .srli16 d imm => halfImm d t (· >>> imm.toNat)
  | .srai16 d imm => halfImm d t (fun x => x.sshiftRight imm.toNat)
  | _ => none

/-- The bit-manipulation and bit-field instructions (spec/15 R299, R300): P in p, W - 1 in k. -/
def bitwise (i : Instr) (t : Strand) : Option Result :=
  match i with
  | .clz d a => un d a t BitVec.clz
  | .ctz d a => un d a t BitVec.ctz
  | .popc d a => un d a t BitVec.cpop
  | .brev d a => un d a t BitVec.reverse
  | .bswap d a => un d a t (fun x =>
      (x.extractLsb' 0 8 ++ x.extractLsb' 8 8 ++ x.extractLsb' 16 8 ++ x.extractLsb' 24 8 ++ x.extractLsb' 32 8
        ++ x.extractLsb' 40 8 ++ x.extractLsb' 48 8 ++ x.extractLsb' 56 8).truncate 64)
  | .sextB d a => un d a t (fun x => (x.truncate 8).signExtend 64)
  | .sextH d a => un d a t (fun x => (x.truncate 16).signExtend 64)
  | .sextW d a => un d a t (fun x => (x.truncate 32).signExtend 64)
  | .zextB d a => un d a t (fun x => (x.truncate 8).zeroExtend 64)
  | .zextH d a => un d a t (fun x => (x.truncate 16).zeroExtend 64)
  | .zextW d a => un d a t (fun x => (x.truncate 32).zeroExtend 64)
  | .bfx d a p k =>
    if p.toNat + k.toNat < 64 then un d a t (fun x => (x.extractLsb' p.toNat (k.toNat + 1)).signExtend 64) else none
  | .bfxn d a p k =>
    if p.toNat + k.toNat < 64 then un d a t (fun x => (x.extractLsb' p.toNat (k.toNat + 1)).zeroExtend 64) else none
  | .bfi d a p k =>
    if p.toNat + k.toNat < 64 then
      let mask : Word := (BitVec.allOnes (k.toNat + 1)).zeroExtend 64 <<< p.toNat
      some ⟨[g a, plainG d], 4, d, (t.gv d &&& ~~~mask) ||| ((t.gv a.reg <<< p.toNat) &&& mask)⟩
    else none
  | _ => none

end Sys2Proof.Said

/-- Spec/15 R293 to R298, R301, spec/12 R244: with its sources Full and no prefix pending, each integer arithmetic, logic, shift,
compare, select, constant and move instruction, 16-bit forms included, writes the value the rules give to d and completes at the
following instruction; beside the reads and takes of its sources nothing else of the state changes. -/
def Sys2Proof.Said.integerInstructionWritesResult : Prop :=
  ∀ (i : Instr) (s : State) (st : Strand) (r : Said.Result), Said.arith i st = some r → Said.Issues s st (r.srcs.map (·.1)) →
    Sys2Proof.Machine.exec i s = .next (Said.completes s st r.srcs r.len (fun t => t.setG r.d r.v))

/-- Spec/15 R293, R299, R300: the same for CLZ to ZEXT.w and for the bit-field instructions with P + W at most 64; with P + W above
64 a bit-field instruction raises ReservedField with g4 holding the parcels. -/
def Sys2Proof.Said.bitInstructionWritesResult : Prop :=
  (∀ (i : Instr) (s : State) (st : Strand) (r : Said.Result), Said.bitwise i st = some r → Said.Issues s st (r.srcs.map (·.1)) →
    Sys2Proof.Machine.exec i s = .next (Said.completes s st r.srcs r.len (fun t => t.setG r.d r.v))) ∧
  (∀ (d : GReg) (a : GSrc) (p k : BitVec 6) (s : State) (st : Strand), 64 ≤ p.toNat + k.toNat → Said.Issues s st [] →
    ∀ i ∈ [Instr.bfx d a p k, Instr.bfxn d a p k, Instr.bfi d a p k],
      Sys2Proof.Machine.exec i s = .next (s.trap st ⟨2, 0, .ofNat 64 (encode i)⟩))

/-- Spec/15 R294 to R301, spec/12 R244: every integer, logic, shift, compare, select, constant, move and bit instruction writes its result into d and completes. -/
def Obligations.IntegerInstructionsWriteTheirResult : Prop :=
  Sys2Proof.Said.integerInstructionWritesResult ∧ Sys2Proof.Said.bitInstructionWritesResult
namespace Sys2Proof.Said

/-- What a transfer of control does with given registers: its sources, its length, the register it writes with the value, and the
target when it takes place. -/
structure Transfer where
  srcs : List (Nat × Bool)
  len : Nat
  write : Option (GReg × Word)
  target : Option Word

/-- The address of the transferring instruction plus a signed distance in parcels (spec/15 R302). -/
def rel {n : Nat} (t : Strand) (off : BitVec n) : Word := t.pc.zeroExtend 64 + (off.signExtend 64 <<< 1)
/-- The link (spec/15 R302): the following instruction's address; the PC is 56 bits wide (log 9). -/
def link (t : Strand) (len : Nat) : Word := (t.pc + .ofNat 56 len).zeroExtend 64
/-- A conditional branch of 4 bytes. -/
def branch (t : Strand) (srcs : List (Nat × Bool)) (c : Bool) (off : BitVec 12) : Option Transfer :=
  some ⟨srcs, 4, none, if c then some (rel t off) else none⟩

/-- Jumps, branches and LOOP (spec/15 R303 to R306). -/
def transfer (i : Instr) (t : Strand) : Option Transfer :=
  match i with
  | .j off => some ⟨[], 4, none, some (rel t off)⟩
  | .jal d off => some ⟨[], 4, some (d, link t 4), some (rel t off)⟩
  | .jalr d a imm => some ⟨[g a], 4, some (d, link t 4), some (t.gv a.reg + imm.signExtend 64)⟩
  | .j16 off => some ⟨[], 2, none, some (rel t off)⟩
  | .jal16 off => some ⟨[], 2, some (15, link t 2), some (rel t off)⟩
  | .beq a b off => branch t [g a, g b] (t.gv a.reg == t.gv b.reg) off
  | .bne a b off => branch t [g a, g b] (t.gv a.reg != t.gv b.reg) off
  | .blt a b off => branch t [g a, g b] ((t.gv a.reg).slt (t.gv b.reg)) off
  | .bge a b off => branch t [g a, g b] ((t.gv b.reg).sle (t.gv a.reg)) off
  | .bltn a b off => branch t [g a, g b] ((t.gv a.reg).ult (t.gv b.reg)) off
  | .bgen a b off => branch t [g a, g b] ((t.gv b.reg).ule (t.gv a.reg)) off
  | .beqz a off => branch t [g a] (t.gv a.reg == 0) off
  | .bnez a off => branch t [g a] (t.gv a.reg != 0) off
  | .beqz16 r off => some ⟨[plainG r], 2, none, if t.gv r == 0 then some (rel t off) else none⟩
  | .bnez16 r off => some ⟨[plainG r], 2, none, if t.gv r != 0 then some (rel t off) else none⟩
  | .loop d imm =>
    some ⟨[plainG d], 4, if t.gv d = 0 then none else some (d, t.gv d - 1),
      if t.gv d = 0 ∨ t.gv d = 1 then none else some (rel t imm)⟩
  | _ => none

/-- The strand with a register written, if one is. -/
def write (w : Option (GReg × Word)) (t : Strand) : Strand :=
  match w with
  | some (d, v) => t.setG d v
  | none => t

end Sys2Proof.Said

/-- Spec/15 R302 to R306: with its sources Full, a jump, a branch or LOOP that does not transfer completes at the following
instruction; one that transfers to a target below 2^56 and even writes its link or count and completes at the target; a target at
or above 2^56 raises BedMiss with g2 the target, an odd one Misaligned with g2 the target and g4 2, with no register written.
Choices of the model: log 9. -/
def Obligations.TransferGoesToTarget : Prop :=
  ∀ (i : Instr) (s : State) (st : Strand) (x : Said.Transfer), Said.transfer i st = some x →
    Said.Issues s st (x.srcs.map (·.1)) →
    (x.target = none → Sys2Proof.Machine.exec i s = .next (Said.completes s st x.srcs x.len (Said.write x.write))) ∧
    (∀ t, x.target = some t →
      (t.toNat < 2 ^ 56 → t.toNat % 2 = 0 →
        Sys2Proof.Machine.exec i s = .next (Said.completesAt s st x.srcs (t.truncate 56) (Said.write x.write))) ∧
      (t.toNat < 2 ^ 56 → t.toNat % 2 = 1 → Sys2Proof.Machine.exec i s = .next (s.trap st ⟨3, t, 2⟩)) ∧
      (2 ^ 56 ≤ t.toNat → Sys2Proof.Machine.exec i s = .next (s.trap st ⟨4, t, 0⟩)))

/-- Spec/15 R307: the word 0x000E0007 and the parcel 0xE002 are NOP; a NOP with any bit of a reserved field set (bits 15 to 7 and
31 to 20 of the word, bits 9 to 2 of the parcel) raises ReservedField; NOP changes nothing but the PC (the end of the issue, which
every instruction has, counts the issue in WIN: spec/06 R109). -/
def Obligations.NopChangesOnlyPc : Prop :=
  encode .nop = 0x000E0007 ∧ encode .nop16 = 0xE002 ∧
  decode32 0x000E0007 = .ok .nop ∧ decode16 0xE002 = .ok .nop16 ∧
  (∀ (s : State) (st : Strand) (lo hi : Nat), lo < 2 ^ 9 → hi < 2 ^ 12 → lo + hi ≠ 0 →
    runFetched s st (0x000E0007 + lo * 2 ^ 7 + hi * 2 ^ 20) =
      .next (s.trap st ⟨2, 0, .ofNat 64 (0x000E0007 + lo * 2 ^ 7 + hi * 2 ^ 20)⟩)) ∧
  (∀ (s : State) (st : Strand) (p : Nat), 0 < p → p < 2 ^ 8 →
    runFetched s st (0xE002 + p * 4) = .next (s.trap st ⟨2, 0, .ofNat 64 (0xE002 + p * 4)⟩)) ∧
  (∀ (s : State) (st : Strand), Said.Issues s st [] →
    Sys2Proof.Machine.exec .nop s = .next (Said.completes s st [] 4 id) ∧
    Sys2Proof.Machine.exec .nop16 s = .next (Said.completes s st [] 2 id))
namespace Sys2Proof.Said

/-- The sources, with their take bits, of an instruction of the integer and control chapters that has no operand limit, in field
order (spec/15 R294 to R306). -/
def sources (i : Instr) (t : Strand) : Option (List (Nat × Bool)) :=
  match arith i t, bitwise i t, transfer i t with
  | some r, _, _ => some r.srcs
  | none, some r, _ => some r.srcs
  | none, none, some x => some x.srcs
  | none, none, none => none

/-- st issues with no prefix pending, whatever the states of its registers. -/
def IssuesAnyhow (s : State) (st : Strand) : Prop :=
  s.cur = some st.handle ∧ s.strand? st.handle = some st ∧ st.pp = false

end Sys2Proof.Said

/-- Spec/13 R250, R251, R255, spec/06 R97, spec/16 R320: an instruction of the integer and control chapters with a source that is
Empty or Awaiting parks with cause 1 and PREG the first such register in field order, its PC and every register as before; with none,
the first Cut source takes a turn of its replay; with none of either, the first source that carries a DataLoss raises it. -/
def Obligations.UnreadySourceHoldsIssue : Prop :=
  ∀ (i : Instr) (s : State) (st : Strand) (srcs : List (Nat × Bool)), Said.sources i st = some srcs → Said.IssuesAnyhow s st →
    (∀ (pre post : List (Nat × Bool)) (c : Nat × Bool), srcs = pre ++ c :: post →
      (∀ p ∈ pre, (st.rc p.1).st = .full ∨ (st.rc p.1).st = .cut) →
      (st.rc c.1).st = .empty ∨ (st.rc c.1).st = .awaiting →
      Sys2Proof.Machine.exec i s = .next (s.putStrand { st with
        status := .parked, pcause := 1, preg := c.1,
        parkedFor := if st.status = .parked ∧ st.pcause = 1 then st.parkedFor else 0 })) ∧
    ((∀ c ∈ srcs, (st.rc c.1).st = .full ∨ (st.rc c.1).st = .cut) →
      (∀ (pre post : List (Nat × Bool)) (c : Nat × Bool), srcs = pre ++ c :: post → (∀ p ∈ pre, (st.rc p.1).st = .full) →
        (st.rc c.1).st = .cut → Sys2Proof.Machine.exec i s = .next (s.replayStep st c.1)) ∧
      ((∀ c ∈ srcs, (st.rc c.1).st = .full) →
        ∀ (pre post : List (Nat × Bool)) (c : Nat × Bool) (l : Loss), srcs = pre ++ c :: post →
          (∀ p ∈ pre, (st.rc p.1).loss = none) → (st.rc c.1).loss = some l →
          Sys2Proof.Machine.exec i s = .next (s.trap st ⟨9, l.g2, l.g4⟩)))

/-- Spec/13 R251: reading sources none of which carries an acquire changes nothing but the states of the registers taken: each is
Empty afterwards, or Cut if it carries an attachment; every other register keeps its state, and every value slot its value. -/
def Sys2Proof.Said.takenSourceBecomesEmptyOrCut : Prop :=
  ∀ (s : State) (st : Strand) (srcs : List (Nat × Bool)), (∀ c ∈ srcs, (st.rc c.1).acq = none) → (∀ c ∈ srcs, c.1 < 24) →
    ∃ ctl : Vector RegCtl 24, s.readSources st srcs = (s, { st with ctl := ctl }) ∧
      ∀ r, (hr : r < 24) → ctl[r] =
        if (r, true) ∈ srcs then
          { st.rc r with st := (if (st.attached r).isSome then .cut else .empty), acq := none, loss := none }
        else st.rc r

/-- Spec/08 R140, R149, R150, spec/06 R113: the first read of a register that carries an acquire of scope code 2 or more performs
it: AG of the strand's tile advances by one, the strand's SG takes it, the line and instruction buffers of its core are empty, and
for a scope of code 4 or more the rake buffer of its column too; the register then carries none, and keeps its value and state. -/
def Sys2Proof.Said.firstReadPerformsAcquire : Prop :=
  ∀ (s : State) (st : Strand) (r : Nat) (sc : BitVec 4), r < 24 → (st.rc r).acq = some sc → 2 ≤ sc.toNat →
    (s.tile st.loc.tile).ag + 1 < 65536 →
    let q := s.readSources st [(r, false)]
    (q.1.tile st.loc.tile).ag = (s.tile st.loc.tile).ag + 1 ∧
    q.2.sg = (s.tile st.loc.tile).ag + 1 ∧
    (q.1.core st.coreKey).lineBuf = [] ∧ (q.1.core st.coreKey).instrBuf = [] ∧
    (4 ≤ sc.toNat → (q.1.col st.colKey).rakeBuf = []) ∧
    q.2.rc r = { st.rc r with acq := none } ∧ q.2.g = st.g ∧ q.2.w = st.w ∧ q.2.pc = st.pc ∧
    q.1.mem = s.mem ∧ q.1.strands = s.strands

/-- Spec/13 R250, R252: a write of a g or w register stores the value and makes that register Full, with its attachment and its
count of owed fills kept; no other register, and nothing else of the strand, changes. -/
def Sys2Proof.Said.registerWriteMakesFull : Prop :=
  (∀ (st : Strand) (d : GReg) (v : Word), ∃ (g : Vector Word 16) (ctl : Vector RegCtl 24),
    st.setG d v = { st with g := g, ctl := ctl } ∧
    (∀ r, (hr : r < 16) → g[r] = if r = d.toNat then v else st.g[r]) ∧
    (∀ r, (hr : r < 24) → ctl[r] = if r = d.toNat then { st.rc r with st := .full, acq := none, loss := none, par := false } else st.rc r)) ∧
  (∀ (st : Strand) (d : WReg) (v : Wide), ∃ (w : Vector Wide 8) (ctl : Vector RegCtl 24),
    st.setW d v = { st with w := w, ctl := ctl } ∧
    (∀ r, (hr : r < 8) → w[r] = if r = d.toNat then v else st.w[r]) ∧
    (∀ r, (hr : r < 24) →
      ctl[r] = if r = 16 + d.toNat then { st.rc r with st := .full, acq := none, loss := none, par := false } else st.rc r))

/-- Spec/13 R252, spec/06 R92, R93: a fill of a register counts as arrived; it completes the register, with its value, only if it
answers the latest owing instruction and the register still awaits it; any other fill leaves value and state as they were. -/
def Sys2Proof.Said.fillCompletesOnlyLatestOwner : Prop :=
  (∀ (st : Strand) (r : GReg) (tag v : Nat), (st.rc r.toNat).st = .awaiting → (st.rc r.toNat).tag = tag →
    (st.takeFill r.toNat tag v none none).gv r = .ofNat 64 v ∧
    ((st.takeFill r.toNat tag v none none).rc r.toNat).st = .full ∧
    ((st.takeFill r.toNat tag v none none).rc r.toNat).owed = (st.rc r.toNat).owed - 1) ∧
  (∀ (st : Strand) (r tag v : Nat) (a : Option (BitVec 4)) (l : Option Loss), r < 24 →
    (st.rc r).st ≠ .awaiting ∨ (st.rc r).tag ≠ tag →
    (st.takeFill r tag v a l).g = st.g ∧ (st.takeFill r tag v a l).w = st.w ∧
    (st.takeFill r tag v a l).rc r = { st.rc r with owed := (st.rc r).owed - 1 })

/-- Spec/13 R251, spec/08 R149, R150: a source that is taken becomes Empty or Cut; a register's first read performs the acquire that it carries. -/
def Obligations.ReadsTakeAndAcquire : Prop :=
  Sys2Proof.Said.takenSourceBecomesEmptyOrCut ∧ Sys2Proof.Said.firstReadPerformsAcquire

/-- Spec/13 R250, R252: a write makes its register Full; a fill does so only for the latest owing instruction. -/
def Obligations.WritesAndFillsMakeFull : Prop :=
  Sys2Proof.Said.registerWriteMakesFull ∧ Sys2Proof.Said.fillCompletesOnlyLatestOwner
namespace Sys2Proof.Said

/-- Integer format codes (spec/12 R231). -/
def ints : List Nat := [8, 9, 10, 11, 12, 13, 14, 15]

/-- The table of spec/17 R345: which PFA and which PFB an instruction accepts; none for one that accepts no prefix. -/
def prefixes (i : Instr) : Option (List Nat × List Nat) :=
  match i with
  | .fadd .. | .fsub .. | .fmul .. | .fdiv .. | .ffma .. | .ffms .. | .fsqrt .. | .fmin .. | .fmax .. | .fminp .. | .fmaxp ..
  | .fabs .. | .fneg .. | .fsgnj .. | .feq .. | .flt .. | .fle .. | .fclass .. => some ([3, 4, 5], [0])
  | .fcvt .. => some ([3, 4, 5], [0, 1, 2, 3, 4, 5])
  | .fcvti .. | .icvtf .. => some ([3, 4, 5], ints)
  | .vadd .. | .vsub .. | .vmul .. | .vfma .. | .vfms .. | .vfnma .. | .vmin .. | .vmax .. | .vabs .. | .vneg .. | .vcmpeq ..
  | .vcmplt .. | .vcmple .. | .vcomp .. => some ([3, 4, 5] ++ ints, [0])
  | .vminp .. | .vmaxp .. => some ([3, 4, 5], [0])
  | .vshl .. | .vshr .. | .vsra .. => some (ints, [0])
  | .vcvt .. => some ([0, 1, 2, 3, 4, 5, 6] ++ ints, [0, 1, 2, 3, 4, 5] ++ ints)
  | .vsum .. | .vdot .. => some ([3, 4, 5, 6] ++ ints, [0])
  | .vbcst .. | .vins .. | .vext .. | .vslide .. => some ([0, 1, 2, 3, 4, 5, 6] ++ ints, [0])
  | .vperm .. => some ([0, 1, 2, 3, 4, 6] ++ ints, [0])
  | _ => none

/-- The format fields that must be zero under a prefix: FS, the s2 of FCVT, FCVTI and ICVTF, the c of VCVT (spec/17 R345, spec/14
R276, R277). -/
def formatFields (i : Instr) : List Nat :=
  match i with
  | .fadd f _ _ _ | .fsub f _ _ _ | .fmul f _ _ _ | .fdiv f _ _ _ | .fmin f _ _ _ | .fmax f _ _ _ | .fminp f _ _ _
  | .fmaxp f _ _ _ | .fsgnj f _ _ _ | .feq f _ _ _ | .flt f _ _ _ | .fle f _ _ _ => [f.toNat]
  | .ffma f _ _ _ _ | .ffms f _ _ _ _ => [f.toNat]
  | .fsqrt f _ _ | .fabs f _ _ | .fneg f _ _ | .fclass f _ _ => [f.toNat]
  | .fcvt f _ _ e | .fcvti f _ _ e | .icvtf f _ _ e => [f.toNat, e.toNat]
  | .vadd f _ _ _ | .vsub f _ _ _ | .vmul f _ _ _ | .vmin f _ _ _ | .vmax f _ _ _ | .vminp f _ _ _ | .vmaxp f _ _ _
  | .vcmpeq f _ _ _ | .vcmplt f _ _ _ | .vcmple f _ _ _ | .vdot f _ _ _ => [f.toNat]
  | .vfma f _ _ _ _ | .vfms f _ _ _ _ | .vfnma f _ _ _ _ => [f.toNat]
  | .vabs f _ _ | .vneg f _ _ | .vcomp f _ _ | .vsum f _ _ => [f.toNat]
  | .vshl f _ _ _ | .vshr f _ _ _ | .vsra f _ _ _ => [f.toNat]
  | .vcvt f _ _ c => [f.toNat, c.toNat]
  | _ => []

/-- Does an instruction accept this strand's pending prefix (spec/17 R345)? -/
def prefixTaken (i : Instr) (st : Strand) : Bool :=
  match prefixes i with
  | some p => p.1.contains st.pfa && p.2.contains st.pfb && (formatFields i).all (· == 0)
  | none => false

/-- As Issues, for an instruction that may follow FMT: no prefix is pending, or one that the instruction accepts. -/
def IssuesFmt (i : Instr) (s : State) (st : Strand) (reads : List Nat) : Prop :=
  s.cur = some st.handle ∧ s.strand? st.handle = some st ∧ (st.pp = false ∨ prefixTaken i st = true) ∧ Ready st reads

end Sys2Proof.Said

/-- Spec/13 R266, R268, spec/17 R345: an encoded instruction that follows FMT and accepts no prefix raises IllegalInstruction, and one
that accepts a prefix but not this pair of formats, or has a format field of its own that is not zero, raises ReservedField; g4 holds
its parcels, and this holds before any operand is looked at and for every instruction of the opcode map. -/
def Sys2Proof.Said.prefixAcceptedOnlyAsTabled : Prop :=
  ∀ (i : Instr) (s : State) (st : Strand), i.encoded = true → s.cur = some st.handle → s.strand? st.handle = some st →
    st.pp = true → Said.prefixTaken i st = false →
    Sys2Proof.Machine.exec i s =
      .next (s.trap st ⟨if (Said.prefixes i).isSome then 2 else 1, 0, .ofNat 64 (encode i)⟩)

/-- Spec/13 R266: FMT with no prefix pending sets PP, PFA and PFB, leaves the other bits of SS, and completes 2 bytes on. -/
def Sys2Proof.Said.fmtSetsPendingPrefix : Prop :=
  ∀ (s : State) (st : Strand) (fa fb : BitVec 4), Said.Issues s st [] → 
    Sys2Proof.Machine.exec (.fmt fa fb) s = .next (s.putStrand { st.completed (st.pc + 2) with
      ss := (st.ss &&& ~~~0x1FF00#64) ||| 0x100#64 ||| (fa.zeroExtend 64 <<< 9) ||| (fb.zeroExtend 64 <<< 13) })
namespace Sys2Proof.Said

/-- What a floating or wide instruction does: its sources in field order, and its effect on the strand after they are read. -/
structure Effect where
  srcs : List (Nat × Bool)
  f : Strand → Strand

/-- The format code an instruction works in: PFA under a prefix, else what FS names, 3 being I32 (spec/13 R261, R266). -/
def fmtOf (t : Strand) (f : BitVec 2) : Nat := if t.pp then t.pfa else if f = 3 then 10 else f.toNat
/-- The other format of a conversion: PFB under a prefix, else the code in s2 (spec/14 R276). -/
def fmtTo (t : Strand) (e : BitVec 4) : Nat := if t.pp then t.pfb else e.toNat
/-- The lane width of a data movement: the prefix's, else a default (spec/17 R356). -/
def widthOf (t : Strand) (dflt : Nat) : Nat := if t.pp then fmtWidth t.pfa else dflt

/-- Flags NV DZ OF UF NX, as a number of five bits, ORed into SS (spec/13 R258, R259). -/
def raise (fl : Nat) (t : Strand) : Strand := { t with ss := t.ss ||| .ofNat 64 (fl * 8) }
/-- An element of a format in a g register: sign-extended for an I format, zero-extended for any other (spec/13 R249, spec/17
R344). -/
def inG (code v : Nat) : Word :=
  if 8 ≤ code ∧ code ≤ 11 then (BitVec.ofNat (fmtWidth code) v).signExtend 64 else (BitVec.ofNat (fmtWidth code) v).zeroExtend 64
/-- d := r with flags. -/
def toG (d : GReg) (code : Nat) (r : Nat × Nat) (t : Strand) : Strand := raise r.2 (t.setG d (inG code r.1))
/-- The element of a format in the low bits of a g register, and its value (spec/17 R344, spec/12 R232). -/
def elem (code : Nat) (v : Word) : Nat := v.toNat % 2 ^ fmtWidth code
def val (code : Nat) (v : Word) : FVal := (ffmt code).value (elem code v)

/-- A scalar instruction of two sources, given the format, the rounding mode and the operands. -/
def f2 (t : Strand) (f : BitVec 2) (d : GReg) (a b : GSrc) (op : Nat → Nat → Word → Word → Nat × Nat) : Option Effect :=
  some ⟨[g a, g b], toG d (fmtOf t f) (op (fmtOf t f) t.rm (t.gv a.reg) (t.gv b.reg))⟩
def f3 (t : Strand) (f : BitVec 2) (d : GReg) (a b c : GSrc) (op : Nat → Nat → Word → Word → Word → Nat × Nat) : Option Effect :=
  some ⟨[g a, g b, g c], toG d (fmtOf t f) (op (fmtOf t f) t.rm (t.gv a.reg) (t.gv b.reg) (t.gv c.reg))⟩
def f1 (t : Strand) (f : BitVec 2) (d : GReg) (a : GSrc) (op : Nat → Nat → Word → Nat × Nat) : Option Effect :=
  some ⟨[g a], toG d (fmtOf t f) (op (fmtOf t f) t.rm (t.gv a.reg))⟩
/-- A comparison writes 0 or 1 (spec/17 R347). -/
def fcmpTo (t : Strand) (op : Nat) (f : BitVec 2) (d : GReg) (a b : GSrc) : Option Effect :=
  let r := fcmp op (val (fmtOf t f) (t.gv a.reg)) (val (fmtOf t f) (t.gv b.reg))
  some ⟨[g a, g b], fun x => raise r.2 (x.setG d (if r.1 then 1 else 0))⟩
/-- The sign bit of a format. -/
def sign (code : Nat) : Nat := 2 ^ (fmtWidth code - 1)

/-- The scalar floating-point instructions (spec/17 R346 to R349, spec/12 R240 to R243). -/
def scalar (i : Instr) (t : Strand) : Option Effect :=
  match i with
  | .fadd f d a b => f2 t f d a b (fun c m x y => (ffmt c).add m (val c x) (val c y))
  | .fsub f d a b => f2 t f d a b (fun c m x y => (ffmt c).add m (val c x) (val c y).negate)
  | .fmul f d a b => f2 t f d a b (fun c m x y => (ffmt c).mul m (val c x) (val c y))
  | .fdiv f d a b => f2 t f d a b (fun c m x y => (ffmt c).div m (val c x) (val c y))
  | .ffma f d a b e => f3 t f d a b e (fun c m x y z => (ffmt c).fma m (val c x) (val c y) (val c z))
  | .ffms f d a b e => f3 t f d a b e (fun c m x y z => (ffmt c).fma m (val c x) (val c y) (val c z).negate)
  | .fsqrt f d a => f1 t f d a (fun c m x => (ffmt c).sqrt m (val c x))
  | .fmin f d a b => f2 t f d a b (fun c _ x y => (ffmt c).minmax false false (elem c x) (elem c y))
  | .fmax f d a b => f2 t f d a b (fun c _ x y => (ffmt c).minmax true false (elem c x) (elem c y))
  | .fminp f d a b => f2 t f d a b (fun c _ x y => (ffmt c).minmax false true (elem c x) (elem c y))
  | .fmaxp f d a b => f2 t f d a b (fun c _ x y => (ffmt c).minmax true true (elem c x) (elem c y))
  | .fabs f d a => f1 t f d a (fun c _ x => (elem c x % sign c, 0))
  | .fneg f d a => f1 t f d a (fun c _ x => (elem c x ^^^ sign c, 0))
  | .fsgnj f d a b => f2 t f d a b (fun c _ x y => (elem c x % sign c + elem c y / sign c * sign c, 0))
  | .feq f d a b => fcmpTo t 0 f d a b
  | .flt f d a b => fcmpTo t 1 f d a b
  | .fle f d a b => fcmpTo t 2 f d a b
  | .fclass f d a => some ⟨[g a], fun x => x.setG d (.ofNat 64 ((ffmt (fmtOf t f)).classify (elem (fmtOf t f) (t.gv a.reg))))⟩
  | .fcvt f d a e =>
    if t.pp ∨ e.toNat ≤ 5 then
      some ⟨[g a], toG d (fmtTo t e) ((ffmt (fmtTo t e)).ofVal t.rm (val (fmtOf t f) (t.gv a.reg)))⟩
    else none
  | .fcvti f d a e =>
    if t.pp ∨ 8 ≤ e.toNat then some ⟨[g a], toG d (fmtTo t e) (toInt (fmtTo t e) t.rm (val (fmtOf t f) (t.gv a.reg)))⟩ else none
  | .icvtf f d a e =>
    if t.pp ∨ 8 ≤ e.toNat then
      some ⟨[g a], toG d (fmtOf t f) ((ffmt (fmtOf t f)).round t.rm (intDy (intVal (fmtTo t e) (t.gv a.reg).toNat)))⟩
    else none
  | _ => none

/-! ### Wide instructions -/

/-- Lane i of e bits (spec/12 R231). -/
def lane (e : Nat) (v : Wide) (i : Nat) : Nat := (v >>> (e * i)).toNat % 2 ^ e
/-- n lanes of e bits side by side, zeros above. -/
def pack (n e : Nat) (f : Nat → Nat) : Wide := .ofNat 256 ((List.range n).map (fun i => f i % 2 ^ e * 2 ^ (e * i))).sum
/-- The OR of the flags of n lanes (spec/12 R241). -/
def orAll (n : Nat) (f : Nat → Nat) : Nat := (List.range n).foldl (fun p i => p ||| f i) 0
/-- d := n lanes of e bits, with the flags of all of them. -/
def toW (d : WReg) (n e : Nat) (f : Nat → Nat × Nat) (t : Strand) : Strand :=
  raise (orAll n (fun i => (f i).2)) (t.setW d (pack n e (fun i => (f i).1)))
/-- A reduction's result in lane 0, zeros above (spec/17 R354). -/
def toW1 (d : WReg) (r : Nat × Nat) (t : Strand) : Strand := raise r.2 (t.setW d (.ofNat 256 r.1))

def v2 (t : Strand) (f : BitVec 2) (d : WReg) (a b : WSrc) (op : Nat → Nat → Nat → Nat → Nat × Nat) : Option Effect :=
  let c := fmtOf t f
  some ⟨[w a, w b], toW d (fmtLanes c) (fmtWidth c) (fun i =>
    op c t.rm (lane (fmtWidth c) (t.wv a.reg) i) (lane (fmtWidth c) (t.wv b.reg) i))⟩
def v3 (t : Strand) (f : BitVec 2) (d : WReg) (a b e : WSrc) (op : Nat → Nat → Nat → Nat → Nat → Nat × Nat) : Option Effect :=
  let c := fmtOf t f
  some ⟨[w a, w b, w e], toW d (fmtLanes c) (fmtWidth c) (fun i =>
    op c t.rm (lane (fmtWidth c) (t.wv a.reg) i) (lane (fmtWidth c) (t.wv b.reg) i) (lane (fmtWidth c) (t.wv e.reg) i))⟩
def v1 (t : Strand) (f : BitVec 2) (d : WReg) (a : WSrc) (op : Nat → Nat → Nat → Nat × Nat) : Option Effect :=
  let c := fmtOf t f
  some ⟨[w a], toW d (fmtLanes c) (fmtWidth c) (fun i => op c t.rm (lane (fmtWidth c) (t.wv a.reg) i))⟩

/-- A floating lane operation on the values, or an integer one modulo 2^e (spec/17 R350). -/
def either (fl : FFmt → Nat → FVal → FVal → Nat × Nat) (int : Int → Int → Int) (c m x y : Nat) : Nat × Nat :=
  if c < 6 then fl (ffmt c) m ((ffmt c).value x) ((ffmt c).value y)
  else ((int (intVal c x) (intVal c y) % 2 ^ fmtWidth c).toNat, 0)
def either3 (fl : FFmt → Nat → FVal → FVal → FVal → Nat × Nat) (int : Int → Int → Int → Int) (c m x y z : Nat) : Nat × Nat :=
  if c < 6 then fl (ffmt c) m ((ffmt c).value x) ((ffmt c).value y) ((ffmt c).value z)
  else ((int (intVal c x) (intVal c y) (intVal c z) % 2 ^ fmtWidth c).toNat, 0)
/-- The smaller or larger lane (spec/17 R350, spec/12 R243). -/
def minmax (max prop : Bool) (c _m x y : Nat) : Nat × Nat :=
  if c < 6 then (ffmt c).minmax max prop x y
  else (if max then (if intVal c x < intVal c y then y else x) else (if intVal c x < intVal c y then x else y), 0)
/-- All ones where the comparison holds (spec/17 R352). -/
def mask (op : Nat) (int : Int → Int → Bool) (c _m x y : Nat) : Nat × Nat :=
  let r := if c < 6 then fcmp op ((ffmt c).value x) ((ffmt c).value y) else (int (intVal c x) (intVal c y), 0)
  (if r.1 then 2 ^ fmtWidth c - 1 else 0, r.2)
/-- The value of a T8 code in a core's decode table (spec/12 R235). -/
def t8 (core : Core) (code : Nat) : FVal := e8m10.value (core.t8 code)
/-- The value of a floating or T8 lane. -/
def laneVal (core : Core) (c x : Nat) : FVal := if c = 6 then t8 core x else (ffmt c).value x
/-- Conv of spec/17 R353. -/
def conv (core : Core) (src dst m x : Nat) : Nat × Nat :=
  if src ≤ 6 then (if dst ≤ 5 then (ffmt dst).ofVal m (laneVal core src x) else toInt dst m (laneVal core src x))
  else if dst ≤ 5 then (ffmt dst).round m (intDy (intVal src x)) else saturate dst (intVal src x)
/-- The lanes of a register, in order. -/
def lanesOf (c : Nat) (v : Wide) : List Nat := (List.range (fmtLanes c)).map (lane (fmtWidth c) v)
/-- A shift of every lane by the whole of g (spec/17 R351). -/
def shift (t : Strand) (f : BitVec 2) (d : WReg) (a : WSrc) (k : GSrc) (op : (e : Nat) → BitVec e → Nat → BitVec e) :
    Option Effect :=
  let e := fmtWidth (fmtOf t f)
  some ⟨[w a, g k], toW d (256 / e) e (fun i => ((op e (.ofNat e (lane e (t.wv a.reg) i)) (t.gv k.reg).toNat).toNat, 0))⟩
/-- A special function of every lane (spec/17 R355). -/
def special (t : Strand) (n : Nat) (f : BitVec 2) (d : WReg) (a : WSrc) : Option Effect :=
  v1 t f d a (fun c _ x => (ffmt c).special n x)

/-- The wide instructions, VTLD apart (spec/17 R350 to R358, spec/12 R236, R248), on a core that holds this decode table. -/
def wide (i : Instr) (core : Core) (t : Strand) : Option Effect :=
  match i with
  | .vadd f d a b => v2 t f d a b (either (fun F m x y => F.add m x y) (· + ·))
  | .vsub f d a b => v2 t f d a b (either (fun F m x y => F.add m x y.negate) (· - ·))
  | .vmul f d a b => v2 t f d a b (either (fun F m x y => F.mul m x y) (· * ·))
  | .vfma f d a b c => v3 t f d a b c (either3 (fun F m x y z => F.fma m x y z) (fun x y z => x * y + z))
  | .vfms f d a b c => v3 t f d a b c (either3 (fun F m x y z => F.fma m x y z.negate) (fun x y z => x * y - z))
  | .vfnma f d a b c => v3 t f d a b c (either3 (fun F m x y z => F.fma m x.negate y z) (fun x y z => z - x * y))
  | .vmin f d a b => v2 t f d a b (minmax false false)
  | .vmax f d a b => v2 t f d a b (minmax true false)
  | .vminp f d a b => v2 t f d a b (fun c _ x y => (ffmt c).minmax false true x y)
  | .vmaxp f d a b => v2 t f d a b (fun c _ x y => (ffmt c).minmax true true x y)
  | .vabs f d a => v1 t f d a (fun c _ x =>
      if c < 6 then (x % sign c, 0) else (((if intVal c x < 0 then -intVal c x else intVal c x) % 2 ^ fmtWidth c).toNat, 0))
  | .vneg f d a => v1 t f d a (fun c _ x =>
      if c < 6 then (x ^^^ sign c, 0) else ((-intVal c x % 2 ^ fmtWidth c).toNat, 0))
  | .vcmpeq f d a b => v2 t f d a b (mask 0 (fun x y => x == y))
  | .vcmplt f d a b => v2 t f d a b (mask 1 (fun x y => decide (x < y)))
  | .vcmple f d a b => v2 t f d a b (mask 2 (fun x y => decide (x ≤ y)))
  | .vand d a b => some ⟨[w a, w b], fun x => x.setW d (t.wv a.reg &&& t.wv b.reg)⟩
  | .vor d a b => some ⟨[w a, w b], fun x => x.setW d (t.wv a.reg ||| t.wv b.reg)⟩
  | .vxor d a b => some ⟨[w a, w b], fun x => x.setW d (t.wv a.reg ^^^ t.wv b.reg)⟩
  | .vsel d a b c =>
    some ⟨[w a, w b, w c], fun x => x.setW d ((t.wv a.reg &&& t.wv b.reg) ||| (~~~t.wv a.reg &&& t.wv c.reg))⟩
  | .vshl f d a k => shift t f d a k (fun e x n => if e ≤ n then 0 else x <<< n)
  | .vshr f d a k => shift t f d a k (fun e x n => if e ≤ n then 0 else x >>> n)
  | .vsra f d a k => shift t f d a k (fun e x n => x.sshiftRight (min n e))
  | .vcvt f d a c =>
    let src := fmtOf t f
    let dst := if t.pp then t.pfb else if c.toNat = 3 then 10 else c.toNat
    if t.pp ∨ c.toNat < 4 then
      some ⟨[w a], toW d (min (fmtLanes src) (fmtLanes dst)) (fmtWidth dst) (fun i =>
        conv core src dst t.rm (lane (fmtWidth src) (t.wv a.reg) i))⟩
    else none
  | .vsum f d a =>
    let c := fmtOf t f
    some ⟨[w a], toW1 d (
      if c ≤ 6 then reduceFloat t.rm ((lanesOf c (t.wv a.reg)).map (fun x => fp32.ofVal t.rm (laneVal core c x)))
      else ((((lanesOf c (t.wv a.reg)).map (intVal c)).sum % 2 ^ 64).toNat, 0))⟩
  | .vdot f d a b =>
    let c := fmtOf t f
    some ⟨[w a, w b], toW1 d (
      if c ≤ 6 then reduceFloat t.rm (List.zipWith (fun x y => fp32.mul t.rm (laneVal core c x) (laneVal core c y))
        (lanesOf c (t.wv a.reg)) (lanesOf c (t.wv b.reg)))
      else (((List.zipWith (fun x y => intVal c x * intVal c y) (lanesOf c (t.wv a.reg)) (lanesOf c (t.wv b.reg))).sum
        % 2 ^ 64).toNat, 0))⟩
  | .vexp2 f d a => special t 0 f d a
  | .vlog2 f d a => special t 1 f d a
  | .vrcp f d a => special t 2 f d a
  | .vrsq f d a => special t 3 f d a
  | .vperm d a b =>
    let e := widthOf t 8
    some ⟨[w a, w b], toW d (256 / e) e (fun i =>
      (if lane e (t.wv b.reg) i < 256 / e then lane e (t.wv a.reg) (lane e (t.wv b.reg) i) else 0, 0))⟩
  | .vmov d a => some ⟨[w a], fun x => x.setW d (t.wv a.reg)⟩
  | .vbcst d k =>
    let e := widthOf t 64
    some ⟨[g k], toW d (256 / e) e (fun _ => ((t.gv k.reg).toNat, 0))⟩
  | .vins d a k l =>
    let e := widthOf t 64
    if l.toNat < 256 / e then
      some ⟨[w a, g k], toW d (256 / e) e (fun i =>
        (if i = l.toNat then (t.gv k.reg).toNat else lane e (t.wv a.reg) i, 0))⟩
    else none
  | .vext d a l =>
    let e := widthOf t 64
    if l.toNat < 256 / e then
      some ⟨[w a], fun x => x.setG d (if t.pp then inG t.pfa (lane e (t.wv a.reg) l.toNat)
        else .ofNat 64 (lane e (t.wv a.reg) l.toNat))⟩
    else none
  | .vslide d a l =>
    let e := widthOf t 64
    some ⟨[w a], toW d (256 / e) e (fun i => (if i + l.toNat < 256 / e then lane e (t.wv a.reg) (i + l.toNat) else 0, 0))⟩
  | .vcomp f d a => some ⟨[w a], fun x => x.setW d (.ofNat 256 (compress (fmtOf t f) (t.wv a.reg).toNat))⟩
  | .vdec f d a =>
    let c := if f = 3 then 10 else f.toNat
    some ⟨[w a], toW d (fmtLanes c) (fmtWidth c) (fun i => (ffmt c).ofVal t.rm (t8 core (lane 8 (t.wv a.reg) i)))⟩
  | .venc f d a =>
    let c := if f = 3 then 10 else f.toNat
    some ⟨[w a], toW d (fmtLanes c) 8 (fun i => venc (t8 core) ((ffmt c).value (lane (fmtWidth c) (t.wv a.reg) i)))⟩
  | _ => none

end Sys2Proof.Said

/-- Spec/17 R344 to R349, spec/12 R240 to R243: with its sources Full and no prefix or an accepted one, each scalar floating
instruction writes its result in the format named to d, ORs the result's flags into SS, and completes 4 bytes on; beside the reads
and takes of its sources nothing else changes. The value functions (FFmt.add and the rest) are the subject of
RoundingIsCorrect and ExactArithmetic. -/
def Obligations.ScalarFloatWritesResult : Prop :=
  ∀ (i : Instr) (s : State) (st : Strand) (e : Said.Effect), Said.scalar i st = some e → i.fieldsOk = true →
    Said.IssuesFmt i s st (e.srcs.map (·.1)) →
    Sys2Proof.Machine.exec i s = .next (Said.completes s st e.srcs 4 e.f)

/-- Spec/17 R350 to R358, spec/12 R235, R236, R241, R243, R248: the same for each wide instruction but VTLD, lane by lane: the flags of
all its lanes are ORed into SS, and lanes above those it computes are zero.
Choices of the model: log 8. -/
def Obligations.WideInstructionWritesLanes : Prop :=
  ∀ (i : Instr) (s : State) (st : Strand) (e : Said.Effect), Said.wide i (s.core st.coreKey) st = some e → i.fieldsOk = true →
    Said.IssuesFmt i s st (e.srcs.map (·.1)) →
    Sys2Proof.Machine.exec i s = .next (Said.completes s st e.srcs 4 e.f)

/-- Spec/14 R276, spec/17 R356: without a prefix, FCVT with a format code above 5 in s2, and FCVTI and ICVTF with one below 8, raise
ReservedField; VINS and VEXT with a lane number at or above the lane count raise it too, with or without a prefix. -/
def Sys2Proof.Said.formatLimitsRaiseReservedField : Prop :=
  (∀ (f : BitVec 2) (d : GReg) (a : GSrc) (e : BitVec 4) (s : State) (st : Strand), Said.Issues s st [] →
    (5 < e.toNat → Sys2Proof.Machine.exec (.fcvt f d a e) s = .next (s.trap st ⟨2, 0, .ofNat 64 (encode (.fcvt f d a e))⟩)) ∧
    (e.toNat < 8 → Sys2Proof.Machine.exec (.fcvti f d a e) s = .next (s.trap st ⟨2, 0, .ofNat 64 (encode (.fcvti f d a e))⟩)) ∧
    (e.toNat < 8 → Sys2Proof.Machine.exec (.icvtf f d a e) s = .next (s.trap st ⟨2, 0, .ofNat 64 (encode (.icvtf f d a e))⟩))) ∧
  (∀ (d : WReg) (x : GReg) (a : WSrc) (k : GSrc) (l : BitVec 4) (s : State) (st : Strand), 256 / Said.widthOf st 64 ≤ l.toNat →
    (Said.IssuesFmt (.vins d a k l) s st [] →
      Sys2Proof.Machine.exec (.vins d a k l) s = .next (s.trap st ⟨2, 0, .ofNat 64 (encode (.vins d a k l))⟩)) ∧
    (Said.IssuesFmt (.vext x a l) s st [] →
      Sys2Proof.Machine.exec (.vext x a l) s = .next (s.trap st ⟨2, 0, .ofNat 64 (encode (.vext x a l))⟩)))
namespace Sys2Proof.Said

/-- 2 to an integer power, as a rational. -/
def pow2 (e : Int) : Rat := if 0 ≤ e then ((2 ^ e.toNat : Nat) : Rat) else 1 / ((2 ^ (-e).toNat : Nat) : Rat)
/-- The rational number that a finite value is. -/
def rat (d : Dy) : Rat := (if d.neg then -(d.man : Rat) else (d.man : Rat)) * pow2 d.exp
/-- The absolute value of a rational. -/
def abs (x : Rat) : Rat := if x < 0 then -x else x
/-- The largest finite value of a format (spec/12 R232). -/
def largest (F : FFmt) : Rat :=
  match F.value F.maxFin with
  | .fin d => rat d
  | _ => 0
/-- The formats that strand instructions compute in (spec/12 R241). -/
def formats : List FFmt := [fp32, fp16, bf16, e4m3, e5m2, e2m1]

/-- r, an encoding with flags, is x rounded to a format in a mode (spec/12 R237, R241): it encodes a finite value that the mode's row of
the table picks among all finite values of the format, and NX is raised exactly when that value is not x. -/
def Rounds (F : FFmt) (mode : Nat) (x : Rat) (r : Nat × Nat) : Prop :=
  ∃ v, F.value r.1 = .fin v ∧ (r.2 % 2 = 1 ↔ rat v ≠ x) ∧
    ∀ (b : Nat) (u : Dy), F.value b = .fin u →
      (mode = 0 → abs (rat v - x) ≤ abs (rat u - x) ∧
        (abs (rat v - x) = abs (rat u - x) → rat u ≠ rat v → r.1 % 2 = 0)) ∧
      (mode = 1 → abs (rat v) ≤ abs x ∧ 0 ≤ rat v * x ∧ (abs (rat u) ≤ abs x → abs (rat u) ≤ abs (rat v))) ∧
      (mode = 2 → rat v ≤ x ∧ (rat u ≤ x → rat u ≤ rat v)) ∧
      (mode = 3 → x ≤ rat v ∧ (x ≤ rat u → rat v ≤ rat u)) ∧
      (mode = 4 → abs (rat v - x) ≤ abs (rat u - x) ∧
        (abs (rat v - x) = abs (rat u - x) → rat u ≠ rat v → abs (rat u) < abs (rat v)))

/-- A rational is the sign-and-magnitude code's value, negative when s is 1. -/
def withSign (s : Nat) (x : Rat) : Rat := if s = 1 then -x else x
/-- The table of R232: each format with its exponent and fraction bits, whether it names infinities, and whether it holds signalling NaNs. -/
def layouts : List (FFmt × Nat × Nat × Bool × Bool) :=
  [(fp32, 8, 23, true, true), (fp16, 5, 10, true, true), (bf16, 8, 7, true, true), (e4m3, 4, 3, false, false), (e5m2, 5, 2, true, false),
    (e2m1, 2, 1, false, false)]
/-- The spacing of the values next below the largest finite one. -/
def topGap (F : FFmt) : Rat := largest F - (match F.value (F.maxFin - 1) with | .fin d => rat d | _ => 0)
/-- The rounded value, computed with an unbounded exponent, exceeds the largest finite value (spec/12 R237, R239). -/
def exceeds (F : FFmt) (m : Nat) (neg : Bool) (x : Rat) : Prop :=
  largest F + topGap F ≤ abs x ∨ (m = 0 ∧ (largest F + topGap F / 2 < abs x ∨ (abs x = largest F + topGap F / 2 ∧ F.maxFin % 2 = 1))) ∨
  (m = 4 ∧ largest F + topGap F / 2 ≤ abs x) ∨ (largest F < abs x ∧ ((m = 2 ∧ neg = true) ∨ (m = 3 ∧ neg = false)))
/-- What the row of R239 gives beyond the range. -/
def beyondRange (F : FFmt) (m : Nat) (neg : Bool) : Nat × Nat :=
  ((if neg then F.signBit else 0) +
    (if F.ieee = true ∧ (m = 0 ∨ m = 4 ∨ (m = 2 ∧ neg = true) ∨ (m = 3 ∧ neg = false)) then F.inf else F.maxFin), 5)
/-- The smallest normal value, 2^emin. -/
def leastNormal (F : FFmt) : Rat := pow2 (2 - 2 ^ (F.ebits - 1))
/-- Tiny after rounding (spec/12 R241): rounded to the format's precision with an unbounded exponent, the value is below the smallest normal. -/
def tiny (F : FFmt) (m : Nat) (neg : Bool) (x : Rat) : Prop :=
  let ulp := leastNormal F / 2 ^ (F.fbits + 1)
  abs x < leastNormal F ∧ ¬ ((m = 0 ∨ m = 4) ∧ leastNormal F - ulp / 2 ≤ abs x) ∧
    ¬ (((m = 2 ∧ neg = true) ∨ (m = 3 ∧ neg = false)) ∧ leastNormal F - ulp < abs x)
/-- r, an encoding with flags, is the root of x rounded to a format in a mode: the finite value v of r lies as the mode's row says to every
other one, told by squares. -/
def RootRounds (F : FFmt) (m : Nat) (x : Rat) (r : Nat × Nat) : Prop :=
  ∃ v, F.value r.1 = .fin v ∧ v.neg = false ∧ (r.2 % 2 = 1 ↔ rat v * rat v ≠ x) ∧
    ∀ (b : Nat) (u : Dy), F.value b = .fin u → 0 ≤ rat u →
      ((m = 1 ∨ m = 2) → rat v * rat v ≤ x ∧ (rat u * rat u ≤ x → rat u ≤ rat v)) ∧
      (m = 3 → x ≤ rat v * rat v ∧ (x ≤ rat u * rat u → rat v ≤ rat u)) ∧
      ((m = 0 ∨ m = 4) →
        (rat v < rat u → 4 * x ≤ (rat u + rat v) * (rat u + rat v)) ∧ (rat u < rat v → (rat u + rat v) * (rat u + rat v) ≤ 4 * x) ∧
        (rat u ≠ rat v → 4 * x = (rat u + rat v) * (rat u + rat v) → if m = 0 then r.1 % 2 = 0 else rat u < rat v))
/-- n is x rounded to an integer in a mode. -/
def intRounds (m : Nat) (x : Rat) (n : Int) : Prop :=
  (m = 0 → abs (x - n) ≤ 1 / 2 ∧ (abs (x - n) = 1 / 2 → n % 2 = 0)) ∧
  (m = 1 → abs n ≤ abs x ∧ abs x < abs n + 1 ∧ 0 ≤ x * n) ∧ (m = 2 → (n : Rat) ≤ x ∧ x < n + 1) ∧ (m = 3 → (n : Rat) - 1 < x ∧ x ≤ n) ∧
  (m = 4 → abs (x - n) ≤ 1 / 2 ∧ (abs (x - n) = 1 / 2 → abs x < abs n))
/-- Encoding x does not order above encoding y; -0 orders below +0 (spec/12 R243). -/
def notAbove (F : FFmt) (x y : Nat) : Prop :=
  match F.value x, F.value y with
  | .fin a, .fin b => rat a < rat b ∨ (rat a = rat b ∧ (a.neg = true ∨ b.neg = false))
  | .inf true, _ => True
  | _, .inf false => True
  | _, _ => False
/-- The least and greatest value of an integer format of e bits. -/
def least (code : Nat) : Int := if code < 12 then -(2 ^ (fmtWidth code - 1)) else 0
def greatest (code : Nat) : Int := if code < 12 then 2 ^ (fmtWidth code - 1) - 1 else 2 ^ fmtWidth code - 1
/-- An integer in e bits. -/
def inBits (code : Nat) (n : Int) : Nat := (BitVec.ofInt (fmtWidth code) n).toNat

end Sys2Proof.Said

/-- Spec/12 R232, spec/17 R348: the value of every encoding of a strand format, by its sign, exponent and fraction, and its FCLASS mask. The
canonical quiet NaNs, infinities and largest finite codes are those of the table. -/
def Sys2Proof.Said.encodingsHoldTheirValues : Prop :=
  (∀ p ∈ Said.layouts, ∀ s E f : Nat, s < 2 → E < 2 ^ p.2.1 → f < 2 ^ p.2.2.1 →
    let F := p.1
    let x := s * 2 ^ (p.2.1 + p.2.2.1) + E * 2 ^ p.2.2.1 + f
    let neg := decide (s = 1)
    (p.2.2.2.1 = true → E = 2 ^ p.2.1 - 1 → f = 0 → F.value x = .inf neg ∧ F.classify x = if neg then 2 ^ 0 else 2 ^ 7) ∧
    (p.2.2.2.1 = true → E = 2 ^ p.2.1 - 1 → f ≠ 0 →
      let quiet := p.2.2.2.2 = false ∨ 2 ^ (p.2.2.1 - 1) ≤ f
      (quiet → F.value x = .nan false ∧ F.classify x = 2 ^ 9) ∧ (¬ quiet → F.value x = .nan true ∧ F.classify x = 2 ^ 8)) ∧
    (F = e4m3 → E = 15 → f = 7 → F.value x = .nan false ∧ F.classify x = 2 ^ 9) ∧
    ((p.2.2.2.1 = true → E ≠ 2 ^ p.2.1 - 1) → (F = e4m3 → ¬ (E = 15 ∧ f = 7)) → ∃ d, F.value x = .fin d ∧ d.neg = neg ∧
      (E = 0 → Said.rat d = Said.withSign s ((f : Rat) / 2 ^ p.2.2.1 * Said.pow2 (2 - 2 ^ (p.2.1 - 1))) ∧
        F.classify x = if f = 0 then (if neg then 2 ^ 3 else 2 ^ 4) else if neg then 2 ^ 2 else 2 ^ 5) ∧
      (E ≠ 0 → Said.rat d = Said.withSign s ((1 + (f : Rat) / 2 ^ p.2.2.1) * Said.pow2 (E - (2 ^ (p.2.1 - 1) - 1))) ∧
        F.classify x = if neg then 2 ^ 1 else 2 ^ 6))) ∧
  Said.formats.map (·.qnan) = [0x7FC00000, 0x7E00, 0x7FC0, 0x7F, 0x7E, 0] ∧
  [fp32, fp16, bf16, e5m2].map (·.inf) = [0x7F800000, 0x7C00, 0x7F80, 0x7C] ∧
  Said.formats.map (·.maxFin) = [0x7F7FFFFF, 0x7BFF, 0x7F7F, 0x7E, 0x7B, 0x7]

/-- Spec/12 R238, R240, R241, spec/17 R346: sum, difference, product and fused sum of finite values round the exact result once, of infinities follow IEEE 754;
an invalid operation or a NaN operand gives the canonical quiet NaN, NV for the former and for a signalling NaN; a root is rounded as its mode
says, of -0 is -0, of a negative number invalid. -/
def Sys2Proof.Said.resultsAreRoundedOnce : Prop :=
  ∀ F ∈ Said.formats, ∀ m, m < 5 →
    (∀ a b c : Dy,
      F.add m (.fin a) (.fin b) = F.round m (Dy.add m a b) ∧ F.mul m (.fin a) (.fin b) = F.round m (Dy.mul a b) ∧
      (∃ d, F.fma m (.fin a) (.fin b) (.fin c) = F.round m d ∧ Said.rat d = Said.rat a * Said.rat b + Said.rat c ∧
        (Said.rat d = 0 → d.neg = if (a.neg ^^ b.neg) = c.neg then c.neg else decide (m = 2))) ∧
      ((FVal.fin a).negate = .fin { a with neg := !a.neg }) ∧
      (a.man = 0 → F.sqrt m (.fin a) = ((if a.neg then F.signBit else 0), 0)) ∧
      (a.man ≠ 0 → a.neg = true → F.sqrt m (.fin a) = (F.qnan, 16)) ∧
      (a.man ≠ 0 → a.neg = false → Said.rat a ≤ Said.largest F * Said.largest F → Said.RootRounds F m (Said.rat a) (F.sqrt m (.fin a)))) ∧
    (∀ (n k : Bool) (a b : Dy), F.ieee = true →
      let inf := fun (n : Bool) => (((if n then F.signBit else 0) + F.inf, 0) : Nat × Nat)
      F.add m (.inf n) (.fin a) = inf n ∧ F.add m (.inf n) (.inf n) = inf n ∧ F.add m (.inf n) (.inf (!n)) = (F.qnan, 16) ∧
      F.mul m (.inf n) (.inf k) = inf (n ^^ k) ∧ (a.man ≠ 0 → F.mul m (.inf n) (.fin a) = inf (n ^^ a.neg)) ∧
      (a.man = 0 → F.mul m (.inf n) (.fin a) = (F.qnan, 16)) ∧
      F.fma m (.fin a) (.fin b) (.inf n) = inf n ∧ (a.man ≠ 0 → F.fma m (.inf n) (.fin a) (.fin b) = inf (n ^^ a.neg)) ∧
      (a.man ≠ 0 → F.fma m (.inf n) (.fin a) (.inf (!(n ^^ a.neg))) = (F.qnan, 16)) ∧
      F.sqrt m (.inf false) = inf false ∧ F.sqrt m (.inf true) = (F.qnan, 16) ∧ F.div m (.inf n) (.inf k) = (F.qnan, 16) ∧
      (a.man ≠ 0 → b.man = 0 → F.div m (.fin a) (.fin b) = ((inf (a.neg ^^ b.neg)).1, 8)) ∧
      (a.man = 0 → b.man = 0 → F.div m (.fin a) (.fin b) = (F.qnan, 16))) ∧
    (∀ (g : Bool) (v : FVal), F.nan = true →
      let nan := fun (q : Bool) => ((F.qnan, if q then 16 else 0) : Nat × Nat)
      let any := g || v.isSnan
      F.add m (.nan g) v = nan any ∧ F.add m v (.nan g) = nan any ∧ F.mul m (.nan g) v = nan any ∧ F.mul m v (.nan g) = nan any ∧
      F.div m (.nan g) v = nan any ∧ F.div m v (.nan g) = nan any ∧ F.sqrt m (.nan g) = nan g ∧
      (∀ a : Dy, F.fma m (.nan g) (.fin a) v = nan any ∧ F.fma m (.fin a) (.nan g) v = nan any ∧ F.fma m (.fin a) (.fin a) (.nan g) = nan g))

/-- Spec/12 R239, R240, R242, R243: FMIN, FMAX, FMINP and FMAXP by the rows of R243; a conversion between floating formats rounds a finite value and takes infinities
and NaNs as R239 says; one to an integer rounds, then saturates with NV alone; one from an integer starts at its exact value.
Choices of the model: log 32. -/
def Sys2Proof.Said.selectionsAndConversions : Prop :=
  (∀ F ∈ Said.formats, ∀ (x y : Nat) (p : Bool), let a := F.value x
    let b := F.value y
    (a.isSnan = true ∨ b.isSnan = true → ∀ max, F.minmax max p x y = (F.qnan, 16)) ∧
    (a = .nan false → b = .nan false → ∀ max, F.minmax max p x y = (F.qnan, 0)) ∧
    (a = .nan false → b.isNan = false → ∀ max, F.minmax max p x y = (if p then F.qnan else y, 0)) ∧
    (b = .nan false → a.isNan = false → ∀ max, F.minmax max p x y = (if p then F.qnan else x, 0)) ∧
    (a.isNan = false → b.isNan = false →
      ((F.minmax false p x y = (x, 0) ∧ Said.notAbove F x y) ∨ (F.minmax false p x y = (y, 0) ∧ Said.notAbove F y x)) ∧
      ((F.minmax true p x y = (x, 0) ∧ Said.notAbove F y x) ∨ (F.minmax true p x y = (y, 0) ∧ Said.notAbove F x y)))) ∧
  (∀ F ∈ Said.formats, ∀ (m : Nat) (d : Dy) (n g : Bool), F.ofVal m (.fin d) = F.round m d ∧
    F.ofVal m (.inf n) = (if F.ieee then ((if n then F.signBit else 0) + F.inf, 0) else ((if n then F.signBit else 0) + F.maxFin, 16)) ∧
    F.ofVal m (.nan g) = (F.qnan, if g = true ∨ F = e2m1 then 16 else 0)) ∧
  (∀ code, 8 ≤ code → code < 16 → ∀ m, m < 5 →
    (∀ d : Dy, ∃ n : Int, Said.intRounds m (Said.rat d) n ∧
      (n < Said.least code → toInt code m (.fin d) = (Said.inBits code (Said.least code), 16)) ∧
      (Said.greatest code < n → toInt code m (.fin d) = (Said.inBits code (Said.greatest code), 16)) ∧
      (Said.least code ≤ n → n ≤ Said.greatest code → toInt code m (.fin d) = (Said.inBits code n, if (n : Rat) = Said.rat d then 0 else 1))) ∧
    (∀ g, toInt code m (.nan g) = (0, 16)) ∧
    toInt code m (.inf false) = (Said.inBits code (Said.greatest code), 16) ∧ toInt code m (.inf true) = (Said.inBits code (Said.least code), 16) ∧
    ∀ v : Nat, intVal code v = (if code < 12 then (BitVec.ofNat (fmtWidth code) v).toInt else ((BitVec.ofNat (fmtWidth code) v).toNat : Int)) ∧
      Said.rat (intDy (intVal code v)) = intVal code v)

/-- Spec/12 R237, R239, R241: for each strand format and each of the five modes, rounding a finite value whose magnitude is at most the
largest finite value gives what the mode's row of R237 says, with the sign kept; from twice the largest finite value upward it gives
what the row of R239 says, with OF and NX. Between the two it gives that where the rounded value, computed with an unbounded exponent, exceeds the largest finite
one, and the largest finite value with NX alone where it does not. UF is raised within the range just when the result is inexact and tiny after rounding. -/
def Obligations.RoundingIsCorrect : Prop :=
  ∀ F ∈ Said.formats, ∀ (m : Nat) (d : Dy), m < 5 →
    (Said.abs (Said.rat d) ≤ Said.largest F →
      Said.Rounds F m (Said.rat d) (F.round m d) ∧ (F.round m d).1 / F.signBit = (if d.neg then 1 else 0)) ∧
    (2 * Said.largest F ≤ Said.abs (Said.rat d) →
      F.round m d =
        ((if d.neg then F.signBit else 0) +
          (if F.ieee = true ∧ (m = 0 ∨ m = 4 ∨ (m = 2 ∧ d.neg = true) ∨ (m = 3 ∧ d.neg = false)) then F.inf else F.maxFin), 5)) ∧
    (Said.largest F < Said.abs (Said.rat d) →
      (Said.exceeds F m d.neg (Said.rat d) → F.round m d = Said.beyondRange F m d.neg) ∧
      (¬ Said.exceeds F m d.neg (Said.rat d) → F.round m d = ((if d.neg then F.signBit else 0) + F.maxFin, 1))) ∧
    (Said.abs (Said.rat d) ≤ Said.largest F →
      ((F.round m d).2 / 2 % 2 = 1 ↔ (F.round m d).2 % 2 = 1 ∧ Said.tiny F m d.neg (Said.rat d)) ∧ (F.round m d).2 < 4)

/-- Spec/12 R238, R241, spec/17 R346: the sum and the product formed before rounding are exact; a zero sum of operands of opposite sign
is +0, or -0 under RDN, and of operands of one sign keeps it; a product's sign is the exclusive OR; comparison is exact; and a quotient
of finite nonzero values with magnitude at most the largest finite value is correctly rounded. With them (spec/12 R232, R239, R240, R242, R243, spec/17 R348): the value
and class of every encoding, fused sums rounded once, rounded roots, the rows of infinities and NaNs, the minimum and maximum forms, and the conversions.
Choices of the model: log 32. -/
def Obligations.ExactArithmetic : Prop :=
  (∀ (m : Nat) (a b : Dy), Said.rat (Dy.add m a b) = Said.rat a + Said.rat b ∧ Said.rat (Dy.mul a b) = Said.rat a * Said.rat b ∧
    (Dy.mul a b).neg = (a.neg ^^ b.neg) ∧ (Dy.lt a b = true ↔ Said.rat a < Said.rat b) ∧ (Dy.eq a b = true ↔ Said.rat a = Said.rat b) ∧
    (Said.rat a + Said.rat b = 0 → (Dy.add m a b).neg = if a.neg = b.neg then a.neg else decide (m = 2))) ∧
  (∀ F ∈ Said.formats, ∀ (m : Nat) (a b : Dy), m < 5 → a.man ≠ 0 → b.man ≠ 0 →
    Said.abs (Said.rat a / Said.rat b) ≤ Said.largest F →
    Said.Rounds F m (Said.rat a / Said.rat b) (F.div m (.fin a) (.fin b))) ∧
  Sys2Proof.Said.encodingsHoldTheirValues ∧ Sys2Proof.Said.resultsAreRoundedOnce ∧ Sys2Proof.Said.selectionsAndConversions

/-- Spec/13 R266, R268, spec/17 R345, R346: FMT and the prefixes, and the limits of format fields. -/
def Obligations.PrefixesAndFormatLimits : Prop :=
  Sys2Proof.Said.prefixAcceptedOnlyAsTabled ∧ Sys2Proof.Said.fmtSetsPendingPrefix ∧ Sys2Proof.Said.formatLimitsRaiseReservedField
namespace Sys2Proof.Said

/-- The strand with register r in a given state, its attachment, count of owed fills and value slot as they were. -/
def setState (r : Nat) (x : RegState) (t : Strand) : Strand :=
  t.setRc r { t.rc r with st := x, acq := none, loss := none }
/-- Does a register carry an attachment: an entry of CMAP with its code (spec/06 R91)? -/
def attachedTo (t : Strand) (r : Nat) : Bool := (List.range 8).any (fun i => ((t.cmap.toList[i]?).map (·.reg)) == some r)
/-- The state code of R92. -/
def stateCode : RegState → Word
  | .full => 0 | .empty => 1 | .cut => 2 | .awaiting => 3
/-- CMAP with one entry replaced. -/
def setEntry (i : Nat) (e : CmapEntry) (t : Strand) : Strand := { t with cmap := t.cmap.setIfInBounds i e }
/-- The g or w register instruction with this subject: the two forms of one FN (spec/14 R275). -/
def both (f : GReg → Instr) (h : WReg → Instr) (r : Nat) : Instr := if r < 16 then f (.ofNat 4 r) else h (.ofNat 3 (r - 16))

end Sys2Proof.Said

/-- Spec/15 R308: CLRE never parks: a register without an attachment becomes Empty and one with an attachment Cut, whatever its
state was, and the count of fills it is owed stays, so a fill that comes later is discarded. -/
def Sys2Proof.Said.clreEmptiesOrCuts : Prop :=
  ∀ (s : State) (st : Strand) (r : Nat), r < 24 → Said.Issues s st [] →
    Sys2Proof.Machine.exec (Said.both .clre .clreW r) s =
      .next (Said.completes s st [] 4 (Said.setState r (if Said.attachedTo st r then .cut else .empty)))

/-- Spec/15 R309: ISF writes the state code of r before the write into d, zero-extended, and never parks or regrows r. -/
def Sys2Proof.Said.isfWritesStateCode : Prop :=
  ∀ (s : State) (st : Strand) (d : GReg) (r : Nat), r < 24 → Said.Issues s st [] →
    Sys2Proof.Machine.exec (Said.both (.isf d) (.isfW d) r) s =
      .next (Said.completes s st [] 4 (fun t => t.setG d (Said.stateCode (st.rc r).st)))

/-- Spec/15 R310: WAITF of a Full register completes, its value and attachment unchanged; of an Awaiting or Empty one it parks with
cause 1 and PREG r; of a Cut one it takes a turn of the replay. A Full register with a parity error raises DataLoss of source 6, with the
entry that the error log takes (spec/11 R205, R220, R221). -/
def Sys2Proof.Said.waitfWaitsForFull : Prop :=
  ∀ (s : State) (st : Strand) (r : Nat), r < 24 → Said.IssuesAnyhow s st → (st.rc r).loss = none →
    (Said.Ready st [r] →
      Sys2Proof.Machine.exec (Said.both .waitf .waitfW r) s = .next (Said.completes s st [(r, false)] 4 id)) ∧
    ((st.rc r).st = .full → (st.rc r).par = true →
      Sys2Proof.Machine.exec (Said.both .waitf .waitfW r) s = .next ((s.logError st.loc.tile 6 true 0 st.handle 0).trap st
        ⟨9, 0, .ofNat 64 ((s.tile st.loc.tile).elogcnt * 2 ^ 32 + 6)⟩)) ∧
    ((st.rc r).st = .awaiting ∨ (st.rc r).st = .empty →
      Sys2Proof.Machine.exec (Said.both .waitf .waitfW r) s = .next (s.park st 1 r)) ∧
    ((st.rc r).st = .cut → Sys2Proof.Machine.exec (Said.both .waitf .waitfW r) s = .next (s.replayStep st r))

/-- Spec/15 R311, spec/13 R253, R257: CUT of recipe n on a tile that holds the job's cutting table. With n below CUTN, TREG r and an
entry of CMAP of r's own, the entry's recipe index becomes n; with none, the lowest unused entry takes r and n; the state of r stays.
With n at or above CUTN, a TREG other than r, or no entry left, it raises IllegalInstruction and changes nothing. -/
def Sys2Proof.Said.cutAttachesRecipe : Prop :=
  ∀ (s : State) (st : Strand) (r : Nat) (n : BitVec 8) (j : Job) (tab : CutTable) (e : Recipe), r < 24 → Said.Issues s st [] →
    st.sup = false → s.job? st.job = some j → n.toNat < j.lrec.cutn →
    FMap.get? (s.tile st.loc.tile).cuts st.job = some tab → tab.recipes[n.toNat]? = some e →
    let i := Said.both (fun r => .cut r n) (fun r => .cutW r n) r
    (e.treg = r → ∀ k, k < 8 → (st.cmap.toList[k]?).map (·.reg) = some r →
      (∀ k', k' < k → (st.cmap.toList[k']?).map (·.reg) ≠ some r) →
      Sys2Proof.Machine.exec i s = .next (Said.completes s st [] 4 (Said.setEntry k ⟨r, n⟩))) ∧
    (e.treg = r → Said.attachedTo st r = false → ∀ k, k < 8 → (st.cmap.toList[k]?).map (·.reg) = some 31 →
      (∀ k', k' < k → (st.cmap.toList[k']?).map (·.reg) ≠ some 31) →
      Sys2Proof.Machine.exec i s = .next (Said.completes s st [] 4 (Said.setEntry k ⟨r, n⟩))) ∧
    (e.treg ≠ r ∨ (Said.attachedTo st r = false ∧ Said.attachedTo st 31 = false) →
      Sys2Proof.Machine.exec i s = .next (s.trap st ⟨1, 0, .ofNat 64 (encode i)⟩))

/-- Spec/15 R311, spec/13 R257: CUT of a recipe at or above CUTN, and every CUT of a supervisor handler, raises
IllegalInstruction. -/
def Sys2Proof.Said.cutBeyondTableIsIllegal : Prop :=
  ∀ (s : State) (st : Strand) (r : Nat) (n : BitVec 8), r < 24 → Said.Issues s st [] →
    (st.sup = true ∨ ∃ j, s.job? st.job = some j ∧ j.lrec.cutn ≤ n.toNat) →
    let i := Said.both (fun r => .cut r n) (fun r => .cutW r n) r
    Sys2Proof.Machine.exec i s = .next (s.trap st ⟨1, 0, .ofNat 64 (encode i)⟩)

/-- Spec/15 R312: UNCUT of a register that is not Cut frees its entry of CMAP, its register code 31, and keeps its state and value;
without an attachment it changes nothing; a Cut register first takes a turn of its replay. -/
def Sys2Proof.Said.uncutFreesAttachment : Prop :=
  ∀ (s : State) (st : Strand) (r : Nat), r < 24 → Said.Issues s st [] →
    ((st.rc r).st ≠ .cut → Sys2Proof.Machine.exec (Said.both .uncut .uncutW r) s =
      .next (Said.completes s st [] 4 (fun t => { t with cmap := t.cmap.map (fun e => if e.reg = r then ⟨31, e.recipe⟩ else e) }))) ∧
    ((st.rc r).st = .cut → Sys2Proof.Machine.exec (Said.both .uncut .uncutW r) s = .next (s.replayStep st r))

/-- Spec/15 R313: DROP never parks: a Full or Empty register with an attachment becomes Cut, and any other register is as it was. -/
def Sys2Proof.Said.dropCutsAttachedRegister : Prop :=
  ∀ (s : State) (st : Strand) (r : Nat), r < 24 → Said.Issues s st [] →
    Sys2Proof.Machine.exec (Said.both .drop .dropW r) s =
      .next (Said.completes s st [] 4 (fun t =>
        if Said.attachedTo st r && ((st.rc r).st == .full || (st.rc r).st == .empty) then Said.setState r .cut t else t))

/-- Spec/15 R315: XSET writes x[d] from a g source, XGET reads x[s] into d and never parks, XLI writes x[d] with the sign-extended immediate
and never parks; each completes 4 bytes on and writes no other register. XSET is MAJ 19, FN 6, format A, XGET MAJ 19, FN 7, XLI MAJ 20, format X; a
set bit in a reserved field of XSET or XGET makes the word one with a nonzero reserved field. XLI x3, -5 is 0xFFFFEDD3. -/
def Obligations.ExtensionRegistersMove : Prop :=
  (∀ (s : State) (st : Strand) (k : XReg),
    (∀ a : GSrc, Said.Issues s st [a.reg.toNat] →
      Sys2Proof.Machine.exec (.xset k a) s =
        .next (Said.completes s st [Said.g a] 4 (fun t => { t with x := t.x.setIfInBounds k.toNat (st.gv a.reg) }))) ∧
    (∀ d : GReg, Said.Issues s st [] →
      Sys2Proof.Machine.exec (.xget d k) s = .next (Said.completes s st [] 4 (fun t => t.setG d st.x[k.toNat]))) ∧
    (∀ imm : BitVec 22, Said.Issues s st [] →
      Sys2Proof.Machine.exec (.xli k imm) s =
        .next (Said.completes s st [] 4 (fun t => { t with x := t.x.setIfInBounds k.toNat (imm.signExtend 64) })))) ∧
  (∀ (k : XReg) (a : GSrc), decode32 (6 * 2 ^ 26 + (if a.take then 2 ^ 15 else 0) + a.reg.toNat * 2 ^ 11 + k.toNat * 2 ^ 7 + 79) = .ok (.xset k a)) ∧
  (∀ (k : XReg) (d : GReg), decode32 (7 * 2 ^ 26 + k.toNat * 2 ^ 11 + d.toNat * 2 ^ 7 + 79) = .ok (.xget d k)) ∧
  (∀ (k : XReg) (imm : BitVec 22), decode32 (imm.toNat * 2 ^ 10 + k.toNat * 2 ^ 7 + 83) = .ok (.xli k imm)) ∧
  (∀ (k : XReg) (a : GSrc) (mid hi : Nat), mid < 2 → hi < 2 ^ 10 → mid + hi ≠ 0 → decode32 (6 * 2 ^ 26 + hi * 2 ^ 16 +
    (if a.take then 2 ^ 15 else 0) + a.reg.toNat * 2 ^ 11 + mid * 2 ^ 10 + k.toNat * 2 ^ 7 + 79) = .reserved) ∧
  (∀ (k : XReg) (d : GReg) (mid hi : Nat), mid < 4 → hi < 2 ^ 10 → mid + hi ≠ 0 →
    decode32 (7 * 2 ^ 26 + hi * 2 ^ 16 + mid * 2 ^ 14 + k.toNat * 2 ^ 11 + d.toNat * 2 ^ 7 + 79) = .reserved) ∧
  decode32 0xFFFFEDD3 = .ok (.xli 3 0x3FFFFB)

/-- Spec/15 R311, spec/13 R253, R257: CUT. -/
def Obligations.CutAttachesOrIsIllegal : Prop :=
  Sys2Proof.Said.cutAttachesRecipe ∧ Sys2Proof.Said.cutBeyondTableIsIllegal
namespace Sys2Proof.Said

/-- A format-M or 16-bit access: its sources in field order, the registers waited for beside them, its length, its effective address,
its alignment, the bed bits it needs and the bed kinds it may name (spec/16 R317, spec/07 R122 to R124). -/
structure Access where
  srcs : List (Nat × Bool)
  waits : List Nat
  len : Nat
  va : Word
  align : Nat
  need : Bed → Bool
  kinds : BedKind → Bool

/-- EA (spec/16 R317). -/
def ea (t : Strand) (base : GSrc) (imm : BitVec 9) (scale : Nat) : Word := t.gv base.reg + imm.signExtend 64 * .ofNat 64 scale
def ea16 (t : Strand) (base : GReg) (off : BitVec 3) : Word := t.gv base + off.zeroExtend 64 * 8
/-- A destination with the take modifier is waited for (spec/13 R251). -/
def waited (d : Nat × Bool) : List Nat := if d.2 then [d.1] else []

def needRd (b : Bed) : Bool := b.rd
def needWr (b : Bed) : Bool := b.wr && !b.imm
def needAtomic (b : Bed) : Bool := b.rd && b.wr && b.atm && !b.imm
def anyKind (_ : BedKind) : Bool := true
def notIo (k : BedKind) : Bool := k != .host && k != .peer
def writable (k : BedKind) : Bool := k != .replicated && k != .host && k != .peer
def notReplicated (k : BedKind) : Bool := k != .replicated

def loadAt (d : Nat × Bool) (base : Nat × Bool) (len : Nat) (va : Word) (size : Nat) (kinds : BedKind → Bool) : Option Access :=
  some ⟨[base], waited d, len, va, size, needRd, kinds⟩
def storeAt (d : Nat × Bool) (base : Nat × Bool) (len : Nat) (va : Word) (size : Nat) (kinds : BedKind → Bool) : Option Access :=
  some ⟨[base, d], [], len, va, size, needWr, kinds⟩
def atomicAt (t : Strand) (d base : GSrc) (imm : BitVec 9) : Option Access :=
  some ⟨[g base, g d], [], 4, ea t base imm 8, 8, needAtomic, writable⟩

/-- The ordered loads: LD, LDN, VLD and the 16-bit LD.d (spec/16 R319). -/
def load (i : Instr) (t : Strand) : Option Access :=
  match i with
  | .ld d b sz imm => loadAt (g d) (g b) 4 (ea t b imm (2 ^ sz.toNat)) (2 ^ sz.toNat) notIo
  | .ldn d b sz imm => loadAt (g d) (g b) 4 (ea t b imm (2 ^ sz.toNat)) (2 ^ sz.toNat) notIo
  | .vld d b imm => loadAt (w d) (g b) 4 (ea t b imm 32) 32 notIo
  | .ldD16 d b off => loadAt (plainG d) (plainG b) 2 (ea16 t b off) 8 notIo
  | _ => none
/-- The remote reads (spec/16 R320). -/
def remote (i : Instr) (t : Strand) : Option Access :=
  match i with
  | .ldr d b sz imm => loadAt (g d) (g b) 4 (ea t b imm (2 ^ sz.toNat)) (2 ^ sz.toNat) anyKind
  | .ldrWide d b imm => loadAt (w d) (g b) 4 (ea t b imm 32) 32 anyKind
  | .ldrD16 d b off => loadAt (plainG d) (plainG b) 2 (ea16 t b off) 8 anyKind
  | _ => none
/-- LDAQ (spec/16 R321). -/
def acquiring (i : Instr) (t : Strand) : Option Access :=
  match i with
  | .ldaq d b _ sz imm => loadAt (g d) (g b) 4 (ea t b imm (2 ^ sz.toNat)) (2 ^ sz.toNat) notIo
  | _ => none
/-- The ordered stores: ST, VST, STO and the 16-bit ST.d (spec/16 R322, R325). -/
def store (i : Instr) (t : Strand) : Option Access :=
  match i with
  | .st d b sz imm => storeAt (g d) (g b) 4 (ea t b imm (2 ^ sz.toNat)) (2 ^ sz.toNat) writable
  | .vst d b imm => storeAt (w d) (g b) 4 (ea t b imm 32) 32 writable
  | .stD16 d b off => storeAt (plainG d) (plainG b) 2 (ea16 t b off) 8 writable
  | .sto d b sz imm => storeAt (g d) (g b) 4 (ea t b imm (2 ^ sz.toNat)) (2 ^ sz.toNat) (· == .replicated)
  | _ => none
/-- The posted stores STP, VSTP and the 16-bit STP.d, and STM (spec/16 R324, R325). -/
def posted (i : Instr) (t : Strand) : Option Access :=
  match i with
  | .stp d b sz imm => storeAt (g d) (g b) 4 (ea t b imm (2 ^ sz.toNat)) (2 ^ sz.toNat) notReplicated
  | .vstp d b imm => storeAt (w d) (g b) 4 (ea t b imm 32) 32 notReplicated
  | .stpD16 d b off => storeAt (plainG d) (plainG b) 2 (ea16 t b off) 8 notReplicated
  | _ => none
def multi (i : Instr) (t : Strand) : Option Access :=
  match i with
  | .stm d b sz imm => storeAt (g d) (g b) 4 (ea t b imm (2 ^ sz.toNat)) (2 ^ sz.toNat) (· == .replicated)
  | _ => none
/-- The atomics (spec/16 R327): what is written, given the old value; none where nothing is. -/
def atomic (i : Instr) (t : Strand) : Option (Access × GReg × (Word → Option Word)) :=
  let op := fun (d base : GSrc) (imm : BitVec 9) (f : Word → Word → Word) =>
    (atomicAt t d base imm).map (fun a => (a, d.reg, fun old => some (f old (t.gv d.reg))))
  match i with
  | .amoadd d b imm => op d b imm (· + ·)
  | .amoand d b imm => op d b imm (· &&& ·)
  | .amoor d b imm => op d b imm (· ||| ·)
  | .amoxor d b imm => op d b imm (· ^^^ ·)
  | .amomin d b imm => op d b imm (fun x y => if x.toInt ≤ y.toInt then x else y)
  | .amomax d b imm => op d b imm (fun x y => if x.toInt ≤ y.toInt then y else x)
  | .amominn d b imm => op d b imm (fun x y => if x.toNat ≤ y.toNat then x else y)
  | .amomaxn d b imm => op d b imm (fun x y => if x.toNat ≤ y.toNat then y else x)
  | .amoswp d b imm => op d b imm (fun _ y => y)
  | .amocas d b imm =>
    (atomicAt t d b imm).map (fun a => (a, d.reg, fun old => if old = t.x[0] then some (t.gv d.reg) else none))
  | _ => none
/-- UPD and VUPD (spec/16 R328). -/
def updating (i : Instr) (t : Strand) : Option Access :=
  match i with
  | .upd d b imm => some ⟨[g b, g d], [], 4, ea t b imm 8, 8, fun b => b.wr, (· == .update)⟩
  | .vupd d b imm => some ⟨[g b, w d], [], 4, ea t b imm 32, 32, fun b => b.wr, (· == .update)⟩
  | _ => none

/-- Every access of the tables above. -/
def accessOf (i : Instr) (t : Strand) : Option Access :=
  (load i t).or ((remote i t).or ((acquiring i t).or ((store i t).or ((posted i t).or ((multi i t).or
    (((atomic i t).map (·.1)).or (updating i t)))))))

/-- The access issues with every register it reads or waits for Full. -/
def Armed (s : State) (st : Strand) (a : Access) : Prop :=
  IssuesAnyhow s st ∧ Ready st (a.srcs.map (·.1)) ∧ ∀ r ∈ a.waits, (st.rc r).st = .full
/-- ... and it passes the four checks of spec/07 R122 in a bed. -/
def Passes (s : State) (st : Strand) (a : Access) (h : BedHit) : Prop :=
  Armed s st a ∧ s.lookup st a.va = .hit h ∧ a.va.toNat % a.align = 0 ∧ a.need h.bed = true ∧ a.kinds h.bed.kind = true
/-- The home of an access through a bed, with the offset there (spec/07 R120). -/
def homeOf (st : Strand) (a : Access) (h : BedHit) : Option (Nat × Nat) := h.bed.home (a.va.toNat - h.bed.base) st.loc.tile
/-- Is a bed the spill bed of an update bed of the strand's table (spec/09 R167)? -/
def spills (s : State) (st : Strand) (h : BedHit) : Bool := (s.tableFor st).any (fun t => t.spills h.index)
/-- What a load puts into its register: 32 bytes, or size bytes extended to 64 bits (spec/16 R319). -/
def loaded (signed : Bool) (size v : Nat) : Nat :=
  if size = 32 then v % 2 ^ 256
  else if signed then ((BitVec.ofNat (8 * size) v).signExtend 64).toNat else v % 2 ^ (8 * size)
/-- LDN alone zero-extends. -/
def signed (i : Instr) : Bool := match i with | .ldn .. => false | .vld .. => false | .ldrWide .. => false | _ => true
/-- The destination code of a load. -/
def destOf (i : Instr) : Nat :=
  match i with
  | .ld d _ _ _ => d.reg.toNat | .ldn d _ _ _ => d.reg.toNat | .vld d _ _ => 16 + d.reg.toNat | .ldD16 d _ _ => d.toNat
  | .ldr d _ _ _ => d.reg.toNat | .ldrWide d _ _ => 16 + d.reg.toNat | .ldrD16 d _ _ => d.toNat
  | .ldaq d _ _ _ _ => d.reg.toNat | _ => 0
/-- The bytes a store writes, lowest first. -/
def dataOf (i : Instr) (t : Strand) : List Byte :=
  match i with
  | .st d _ sz _ => leBytes (t.gv d.reg).toNat (2 ^ sz.toNat)
  | .sto d _ sz _ => leBytes (t.gv d.reg).toNat (2 ^ sz.toNat)
  | .stp d _ sz _ => leBytes (t.gv d.reg).toNat (2 ^ sz.toNat)
  | .stm d _ sz _ => leBytes (t.gv d.reg).toNat (2 ^ sz.toNat)
  | .strl d _ _ sz _ => leBytes (t.gv d.reg).toNat (2 ^ sz.toNat)
  | .vst d _ _ => leBytes (t.wv d.reg).toNat 32
  | .vstp d _ _ => leBytes (t.wv d.reg).toNat 32
  | .stD16 d _ _ => leBytes (t.gv d).toNat 8
  | .stpD16 d _ _ => leBytes (t.gv d).toNat 8
  | _ => []
/-- The strand after the reads of an access. -/
def after (s : State) (st : Strand) (a : Access) : State × Strand := s.readSources st a.srcs
/-- ... and once its bed has been found. -/
def found (s : State) (st : Strand) (a : Access) (h : BedHit) : State := (after s st a).1.touchBed (after s st a).2 h
/-- The PC after an access. -/
def next (st : Strand) (a : Access) : BitVec 56 := st.pc + .ofNat 56 a.len
/-- What a scope field means: code 11 is the SCOPE of level x7[2:0] of the strand's job, panel where there is no such level (spec/08 R141). -/
def scopeAt (s : State) (st : Strand) (sc : BitVec 4) : Nat :=
  if sc = 11 then ((s.job? st.job).bind (fun j => (j.lrec.levels[st.x[7].toNat % 8]?).map (·.scope))).getD 7 else sc.toNat
/-- Until the fill of a pinned LDAQ, an access that could hit a snapshot parks with cause 1, PREG naming its destination (spec/08 R149). -/
def heldByLdaq (s : State) (st : Strand) (r : Nat) : State := s.park { st with wait := .ldaq } 1 r

end Sys2Proof.Said

/-- Spec/07 R116, R119, R122 to R124, spec/11 R205, spec/16 R317: each load, store, posted store, atomic and update whose registers are ready
makes the checks of R122 in their order before it leaves the core: BedMiss with g2 the address; Misaligned with g4 the size;
Protection with g4 the bed index times 256 plus 1; BedKind with g4 the bed index times 256 plus the kind; the bed found is the one last
used in the core's bed cache, also where a check fails. With a descriptor that is not cached the strand waits in its slot. -/
def Obligations.AccessChecksComeInOrder : Prop :=
  ∀ (i : Instr) (s : State) (st : Strand) (a : Said.Access), Said.accessOf i st = some a → Said.Armed s st a →
    (s.lookup st a.va = .miss → Sys2Proof.Machine.exec i s = .next (s.trap st ⟨4, a.va, 0⟩)) ∧
    (s.lookup st a.va = .wait → Sys2Proof.Machine.exec i s = .next (s.putStrand { st with bedWait := some a.va })) ∧
    (∀ h, s.lookup st a.va = .hit h →
      (a.va.toNat % a.align ≠ 0 → Sys2Proof.Machine.exec i s = .next ((s.touchBed st h).trap st ⟨3, a.va, .ofNat 64 a.align⟩)) ∧
      (a.va.toNat % a.align = 0 → a.need h.bed = false →
        Sys2Proof.Machine.exec i s = .next ((s.touchBed st h).trap st ⟨7, a.va, .ofNat 64 (h.index * 256 + 1)⟩)) ∧
      (a.va.toNat % a.align = 0 → a.need h.bed = true → a.kinds h.bed.kind = false →
        Sys2Proof.Machine.exec i s = .next ((s.touchBed st h).trap st ⟨5, a.va, .ofNat 64 (h.index * 256 + h.bed.kind.code)⟩)))

/-- Spec/16 R319 cases 4 and 5, spec/07 R129, R122, spec/08 R149: an ordered load whose home is the current column. A line-buffer hit
completes at issue with the value; otherwise the home is read, d is set Awaiting, the line is allocated, and a fill with the extended value
is on its way; a check that fails at the home raises its trap with the strand there. It parks while the fill of a pinned LDAQ is out, and
waits, unissued, while its column is repaired or its granule's run is being written (spec/11 R226, spec/09 R173). -/
def Obligations.LoadAtHomeFillsRegister : Prop :=
  ∀ (i : Instr) (s : State) (st : Strand) (a : Said.Access) (h : BedHit) (hoff : Nat), Said.load i st = some a →
    Said.Passes s st a h → Said.homeOf st a h = some (st.colKey, hoff) →
    let r := Said.after s st a
    let s1 := (Said.found s st a h).scrubLine r.2 a.va.toNat
    (∀ p l, st.ldaq = p :: l → Sys2Proof.Machine.exec i s = .next (Said.heldByLdaq s st p)) ∧
    (st.ldaq = [] →
      (∀ v, s1.lineHit r.2 a.va.toNat a.align = some v →
        Sys2Proof.Machine.exec i s = .next (s1.putStrand
          ((r.2.setCode (Said.destOf i) (Said.loaded (Said.signed i) a.align v)).completed (Said.next st a)))) ∧
      (s1.lineHit r.2 a.va.toNat a.align = none → s1.waitsHome st.colKey h.index hoff h.bed.kind st.asid a.align 0 = true →
        Sys2Proof.Machine.exec i s = .next s) ∧
      (s1.lineHit r.2 a.va.toNat a.align = none → s1.waitsHome st.colKey h.index hoff h.bed.kind st.asid a.align 0 = false → ∀ s2 res,
        s1.homeRead st.colKey h.index hoff h.bed.kind (Said.spills s st h) st.asid a.align 0 st.party = (s2, res) →
        (∀ v off, res = .ok v off →
          let s3 := s2.allocLine r.2 st.colKey h.bed.kind a.va.toNat off
          Sys2Proof.Machine.exec i s = .next ((s3.putStrand
            ((r.2.await (Said.destOf i) s3.fresh).completed (Said.next st a))).send
              (.fill st.handle (Said.destOf i) s3.fresh (Said.loaded (Said.signed i) a.align v) none none))) ∧
        (∀ c g4, res = .trip c g4 → Sys2Proof.Machine.exec i s = .next (s2.trap st ⟨c, a.va, .ofNat 64 g4⟩))))

/-- Spec/16 R319 cases 1 to 3, spec/06 R103, R104, R109: an ordered load whose home is another column. One that hits the rake buffer
completes at issue; otherwise the load of a strand that is pinned, or that its sixth bounce pins, becomes a remote read; otherwise the
strand leaves for the home when nothing is owed to it and nothing of its own is outstanding, and parks with DepartWait when not. -/
def Sys2Proof.Said.loadElsewhere : Prop :=
  ∀ (i : Instr) (s : State) (st : Strand) (a : Said.Access) (h : BedHit) (key hoff : Nat),
    Said.load i st = some a → Said.Passes s st a h → Said.homeOf st a h = some (key, hoff) → key ≠ st.colKey →
    let r := Said.after s st a
    let s1 := (Said.found s st a h).scrubRake r.2 a.va.toNat
    let g := Target.column key h.index hoff h.bed.kind (Said.spills s st h)
    let m := st.countWin.bounceTo .plain st.colKey key
    let asks := fun (t : Strand) => (s1.putStrand ((t.await (Said.destOf i) s1.fresh).finished (Said.next st a))).requestRead
              t a.va g (Said.destOf i) s1.fresh a.align (Said.signed i) none
    (∀ p l, st.ldaq = p :: l → Sys2Proof.Machine.exec i s = .next (Said.heldByLdaq s st p)) ∧
    (st.ldaq = [] →
      (∀ v, s1.rakeHit r.2 a.va.toNat a.align = some v →
        Sys2Proof.Machine.exec i s = .next (s1.putStrand ((r.2.countWin.bounceStay.setCode (Said.destOf i)
          (Said.loaded (Said.signed i) a.align v)).finished (Said.next st a)))) ∧
      (s1.rakeHit r.2 a.va.toNat a.align = none →
        (st.pinned = true → Sys2Proof.Machine.exec i s = .next (asks r.2.countWin.bounceStay)) ∧
        (st.pinned = false → m.2 = false → Sys2Proof.Machine.exec i s = .next (asks { r.2 with bounce := m.1.bounce })) ∧
        (st.pinned = false → m.2 = true → s.mayDepart st = true →
          Sys2Proof.Machine.exec i s = .next ((s.touchBed st h).depart m.1 key g.cva a.va)) ∧
        (st.pinned = false → m.2 = true → s.mayDepart st = false →
          Sys2Proof.Machine.exec i s = .next (s.park st 2 0))))

/-- Spec/16 R322, R325, spec/06 R103, R104, R109: the same for an ordered store, which of a strand that stays becomes a posted store. -/
def Sys2Proof.Said.storeElsewhere : Prop :=
  ∀ (i : Instr) (s : State) (st : Strand) (a : Said.Access) (h : BedHit) (key hoff : Nat),
    Said.store i st = some a → Said.Passes s st a h → Said.homeOf st a h = some (key, hoff) → key ≠ st.colKey →
    let r := Said.after s st a
    let s1 := Said.found s st a h
    let g := Target.column key h.index hoff h.bed.kind (Said.spills s st h)
    let m := st.countWin.bounceTo .plain st.colKey key
    let posts := fun (t : Strand) => (s1.putStrand (t.finished (Said.next st a))).post t a.va g (Said.dataOf i st)
    (st.pinned = true → Sys2Proof.Machine.exec i s = .next (posts r.2.countWin.bounceStay)) ∧
    (st.pinned = false → m.2 = false → Sys2Proof.Machine.exec i s = .next (posts { r.2 with bounce := m.1.bounce })) ∧
    (st.pinned = false → m.2 = true → s.mayDepart st = true →
      Sys2Proof.Machine.exec i s = .next ((s.touchBed st h).depart m.1 key g.cva a.va)) ∧
    (st.pinned = false → m.2 = true → s.mayDepart st = false → Sys2Proof.Machine.exec i s = .next (s.park st 2 0))

/-- Spec/16 R319 cases 1 to 3, R322, spec/06 R103, R104, R109: ordered loads and stores whose home is another column.
Choices of the model: log 10. -/
def Obligations.AccessElsewhereMovesStrand : Prop := Sys2Proof.Said.loadElsewhere ∧ Sys2Proof.Said.storeElsewhere

/-- Spec/16 R320, spec/08 R145, R149: LDR never moves the strand: a rake-buffer hit with a home elsewhere completes at issue; otherwise d is
set Awaiting and a read request, one item, goes to the home, or to the I/O die for a host or peer bed. -/
def Sys2Proof.Said.ldrSendsReadRequest : Prop :=
  ∀ (i : Instr) (s : State) (st : Strand) (a : Said.Access) (h : BedHit), Said.remote i st = some a → Said.Passes s st a h →
    let r := Said.after s st a
    let s1 := (Said.found s st a h).scrubRake r.2 a.va.toNat
    let g := s.target st h a.va
    let asks := fun (u : State) (t : Strand) => (u.putStrand ((t.await (Said.destOf i) u.fresh).finished (Said.next st a))).requestRead
        t a.va g (Said.destOf i) u.fresh a.align (Said.signed i) none
    (g.home = some st.colKey → Sys2Proof.Machine.exec i s = .next (asks (Said.found s st a h) r.2.countWin)) ∧
    (g.home ≠ some st.colKey →
      (∀ p l, st.ldaq = p :: l → Sys2Proof.Machine.exec i s = .next (Said.heldByLdaq s st p)) ∧
      (st.ldaq = [] →
        (∀ v, s1.rakeHit r.2 a.va.toNat a.align = some v →
          Sys2Proof.Machine.exec i s = .next (s1.putStrand
            ((r.2.countWin.bounceStay.setCode (Said.destOf i) (Said.loaded (Said.signed i) a.align v)).finished (Said.next st a)))) ∧
        (s1.rakeHit r.2 a.va.toNat a.align = none → Sys2Proof.Machine.exec i s = .next (asks s1 r.2.countWin.bounceStay))))

/-- Spec/16 R321, spec/08 R140, R141, R149: LDAQ at its home looks up no buffer and allocates no line: the home is read, the acquire at its
scope is performed, and the fill of d is on its way. A pinned strand's LDAQ of another home asks for a remote read whose fill performs
the acquire, and d is marked as such a destination. -/
def Obligations.LdaqAtHomeAcquires : Prop :=
  ∀ (d base : GSrc) (sc : BitVec 4) (sz : BitVec 2) (imm : BitVec 9) (s : State) (st : Strand) (a : Said.Access) (h : BedHit)
    (key hoff : Nat), Said.acquiring (.ldaq d base sc sz imm) st = some a → Said.Passes s st a h →
    Said.homeOf st a h = some (key, hoff) →
    let r := Said.after s st a
    let s1 := Said.found s st a h
    let i := Instr.ldaq d base sc sz imm
    (key = st.colKey → s1.waitsHome key h.index hoff h.bed.kind st.asid a.align 0 = true → Sys2Proof.Machine.exec i s = .next s) ∧
    (key = st.colKey → s1.waitsHome key h.index hoff h.bed.kind st.asid a.align 0 = false →
      ∀ s2 v off, s1.homeRead st.colKey h.index hoff h.bed.kind (Said.spills s st h) st.asid a.align 0 st.party = (s2, .ok v off) →
        let q := s2.acquire r.2 (Said.scopeAt s st sc % 16)
        Sys2Proof.Machine.exec i s = .next ((q.1.putStrand
          ((q.2.await d.reg.toNat q.1.fresh).completed (Said.next st a))).send
            (.fill st.handle d.reg.toNat q.1.fresh (Said.loaded true a.align v) none none))) ∧
    (key ≠ st.colKey → st.pinned = true →
      let t := r.2.countWin.bounceStay
      Sys2Proof.Machine.exec i s = .next ((s1.putStrand ({ t.await d.reg.toNat s1.fresh with ldaq := st.ldaq ++ [d.reg.toNat] }.finished
        (Said.next st a))).requestRead t a.va (.column key h.index hoff h.bed.kind (Said.spills s st h)) d.reg.toNat s1.fresh a.align true
          (some (.ofNat 4 (Said.scopeAt s st sc)))))

/-- Spec/16 R322, R323, R325, spec/07 R129, R122: an ordered store whose home is the current column is performed before the strand's next
issue: the home is written with the register's low bytes and the matching line leaves the core's line buffer; a check that fails
at the home raises its trap there. STRL does the same once the items it waits for within its scope are done, and parks with cause
5 until then. -/
def Obligations.StoreAtHomeIsPerformed : Prop :=
  (∀ (i : Instr) (s : State) (st : Strand) (a : Said.Access) (h : BedHit) (hoff : Nat), Said.store i st = some a →
    Said.Passes s st a h → Said.homeOf st a h = some (st.colKey, hoff) →
    let r := Said.after s st a
    let s1 := Said.found s st a h
    (s1.waitsHome st.colKey h.index hoff h.bed.kind st.asid a.align 1 = true → Sys2Proof.Machine.exec i s = .next s) ∧
    (s1.waitsHome st.colKey h.index hoff h.bed.kind st.asid a.align 1 = false →
      ∀ s2 res, s1.homeWrite st.colKey h.index hoff h.bed.kind (Said.spills s st h) st.asid (Said.dataOf i st) st.party = (s2, res) →
        (∀ v off, res = .ok v off →
          Sys2Proof.Machine.exec i s = .next ((s2.dropLine r.2 a.va.toNat).putStrand (r.2.completed (Said.next st a)))) ∧
        (∀ c g4, res = .trip c g4 → Sys2Proof.Machine.exec i s = .next (s2.trap st ⟨c, a.va, .ofNat 64 g4⟩)))) ∧
  (∀ (d base : GSrc) (sc : BitVec 4) (sz : BitVec 2) (imm : BitVec 9) (s : State) (st : Strand),
    Said.Issues s st [base.reg.toNat, d.reg.toNat] →
    let w := Wait.items [.posted, .update] [] (Said.scopeAt s st sc)
    (s.waitOver { st with wait := w } = false → Sys2Proof.Machine.exec (.strl d base sc sz imm) s = .next (s.parkWait st w)) ∧
    (s.waitOver { st with wait := w } = true →
      Sys2Proof.Machine.exec (.strl d base sc sz imm) s = Sys2Proof.Machine.exec (.st d base sz imm) s))

/-- Spec/16 R324, spec/08 R145: STP and VSTP never move the strand: each sends one posted store with the register's bytes, one item,
and completes at its issue; when the home is the current column the matching line leaves the core's line buffer. -/
def Sys2Proof.Said.postedStoreSendsOneItem : Prop :=
  ∀ (i : Instr) (s : State) (st : Strand) (a : Said.Access) (h : BedHit), Said.posted i st = some a → Said.Passes s st a h →
    let r := Said.after s st a
    let s1 := Said.found s st a h
    let g := s.target st h a.va
    (g.home = some st.colKey → Sys2Proof.Machine.exec i s =
      .next (((s1.dropLine r.2 a.va.toNat).putStrand (r.2.completed (Said.next st a))).post r.2 a.va g (Said.dataOf i st))) ∧
    (g.home ≠ some st.colKey → Sys2Proof.Machine.exec i s =
      .next ((s1.putStrand (r.2.countWin.bounceStay.finished (Said.next st a))).post r.2.countWin.bounceStay a.va g (Said.dataOf i st)))

/-- Spec/16 R325: STM completes at its issue, and has sent one posted store to the replica of every tile of the bed's rectangle. -/
def Sys2Proof.Said.stmPostsToEveryReplica : Prop :=
  ∀ (i : Instr) (s : State) (st : Strand) (a : Said.Access) (h : BedHit), Said.multi i st = some a → Said.Passes s st a h →
    ∃ u, Sys2Proof.Machine.exec i s = .next u ∧
      u.strand? st.handle = some ((Said.after s st a).2.completed (Said.next st a)) ∧
      ∀ tile ∈ h.bed.tiles, ∃ id item, FMap.get? u.msgs id = some (.posted (.bytes (Said.dataOf i st)) st.asid a.va
        (.column (h.bed.replica (a.va.toNat - h.bed.base) tile).1 h.index (h.bed.replica (a.va.toNat - h.bed.base) tile).2
          h.bed.kind (Said.spills s st h)) item)

/-- Spec/16 R327, spec/06 R109: an atomic at its home reads the old value and writes what its row of the table gives as one event,
d := old, and the matching line leaves the core's line buffer; with its home elsewhere even a pinned strand leaves for it, or
parks with DepartWait.
Choices of the model: log 10. -/
def Obligations.AtomicReadsAndWritesAtHome : Prop :=
  ∀ (i : Instr) (s : State) (st : Strand) (a : Said.Access) (d : GReg) (f : Word → Option Word) (h : BedHit) (key hoff : Nat),
    Said.atomic i st = some (a, d, f) → Said.Passes s st a h → Said.homeOf st a h = some (key, hoff) →
    let r := Said.after s st a
    let s1 := Said.found s st a h
    let m := st.countWin.bounceTo .atomic st.colKey key
    (key = st.colKey → s1.waitsHome key h.index hoff h.bed.kind st.asid 8 1 = true → Sys2Proof.Machine.exec i s = .next s) ∧
    (key = st.colKey → s1.waitsHome key h.index hoff h.bed.kind st.asid 8 1 = false →
      ∀ s2 res, s1.homeRmw key h.index hoff h.bed.kind (Said.spills s st h) st.asid (fun old => (f (.ofNat 64 old)).map BitVec.toNat)
          st.party = (s2, res) →
        (∀ v off, res = .ok v off → Sys2Proof.Machine.exec i s =
          .next ((s2.dropLine r.2 a.va.toNat).putStrand ((r.2.setG d (.ofNat 64 v)).completed (Said.next st a)))) ∧
        (∀ c g4, res = .trip c g4 → Sys2Proof.Machine.exec i s = .next (s2.trap st ⟨c, a.va, .ofNat 64 g4⟩))) ∧
    (key ≠ st.colKey → s.mayDepart st = true → Sys2Proof.Machine.exec i s = .next ((s.touchBed st h).depart m.1 key
      (Target.column key h.index hoff h.bed.kind (Said.spills s st h)).cva a.va)) ∧
    (key ≠ st.colKey → s.mayDepart st = false → Sys2Proof.Machine.exec i s = .next (s.park st 2 0))

/-- Spec/16 R324, R325: STP and VSTP send one posted store, STM one to every replica. -/
def Obligations.PostedStoresSendTheirItems : Prop :=
  Sys2Proof.Said.postedStoreSendsOneItem ∧ Sys2Proof.Said.stmPostsToEveryReplica
/-- Spec/07 R120: Home(). A local bed is in its one column. Granule (q, s) of a striped or update bed, of size G, is the q-th that place s holds: in
tile-major order the places are the 16 columns of one tile after another, in column-major order the tiles of one column after
another, tiles in ascending number. A replica's granules go round its 16 columns, in the current tile where the rectangle holds it and else in the
primary. A scratch bed's 4 KiB pages go round the columns of its quadrant. Host and peer beds have no home column. -/
def Sys2Proof.Said.homeIsWhereTheBedPutsIt : Prop :=
  ∀ (b : Bed) (cur : Nat), let G := 2 ^ b.log2g
    (b.kind = .here → ∀ off, b.home off cur = some (b.ltile * 16 + b.colm, off)) ∧
    (b.kind = .striped ∨ b.kind = .update → ∀ i j c q p, i < b.trows → j < b.tcols → c < 16 → p < G →
      let t := i * b.tcols + j
      let m := b.trows * b.tcols
      let place := if b.order then c * m + t else t * 16 + c
      b.home ((q * (16 * m) + place) * G + p) cur = some (((b.trow0 + i) * 8 + b.tcol0 + j) * 16 + c, q * G + p)) ∧
    (b.kind = .replicated → ∀ c q p, c < 16 → p < G →
      let here := fun (i j : Nat) => i < b.trows ∧ j < b.tcols ∧ b.tcol0 + j < 8 ∧ cur = (b.trow0 + i) * 8 + b.tcol0 + j
      ((∃ i j, here i j) → b.home ((q * 16 + c) * G + p) cur = some (cur * 16 + c, q * G + p)) ∧
      ((∀ i j, ¬ here i j) → b.home ((q * 16 + c) * G + p) cur = some (b.prim * 16 + c, q * G + p))) ∧
    (b.kind = .scratch → ∀ q c p, c < 4 → p < 4096 →
      b.home ((q * 4 + c) * 4096 + p) cur = some (b.ltile * 16 + 4 * b.quad + c, (q * 4 + c) * 4096 + p)) ∧
    (b.kind = .host ∨ b.kind = .peer → ∀ off, b.home off cur = none)

/-- Spec/07 R122, R125, R127, R135, spec/13 R249, spec/00 R5: a read at a home that succeeds and is neither of an update bed nor of a
spill bed returns the little-endian value of the bytes at the translated offset of the column, or of the scratch ways, and changes
no memory and no strand; a scratch offset at or above SCRW MiB raises ScratchBounds with the offset and changes nothing. -/
def Sys2Proof.Said.homeReadReturnsItsBytes : Prop :=
  (∀ (s s1 : State) (key bed hoff : Nat) (kind : BedKind) (asid : BitVec 12) (len acc : Nat) (w : Party) (v : Nat)
    (off : Option Nat), kind ≠ .scratch → kind ≠ .update →
    s.homeRead key bed hoff kind false asid len acc w = (s1, .ok v off) →
    ∃ o, off = some o ∧ (s.translate key asid (bed * 2 ^ 40 + hoff) acc).2 = .ok o ∧
      v = s.mem.read (key * 2 ^ 32 + o) len ∧
      s1.mem = s.mem ∧ s1.sram = s.sram ∧ s1.hostMem = s.hostMem ∧ s1.strands = s.strands) ∧
  (∀ (s s1 : State) (key bed hoff : Nat) (spill : Bool) (asid : BitVec 12) (len acc : Nat) (w : Party),
    let q := s.quad (quadOfCol key)
    (q.scrw * 2 ^ 20 ≤ hoff → s.homeRead key bed hoff .scratch spill asid len acc w = (s, .trip 8 hoff)) ∧
    (∀ v off, hoff < q.scrw * 2 ^ 20 → s.homeRead key bed hoff .scratch spill asid len acc w = (s1, .ok v off) →
      s1 = s ∧ v = s.sram.read (q.scratchKey (quadOfCol key) hoff) len))

/-- Spec/07 R122, R125, R135, R138, spec/00 R5: a write at a home that succeeds and is not of an update bed changes, of all memory, just
the bytes stored: those at the translated offset of the column upward, each to the byte given; every other byte reads as before. -/
def Sys2Proof.Said.homeWriteWritesExactlyItsBytes : Prop :=
  (∀ (s s1 : State) (key bed hoff : Nat) (kind : BedKind) (spill : Bool) (asid : BitVec 12) (data : List Byte) (w : Party)
    (v : Nat) (off : Option Nat), s.memOk → kind ≠ .scratch → kind ≠ .update →
    s.homeWrite key bed hoff kind spill asid data w = (s1, .ok v off) →
    ∃ o, off = some o ∧ (s.translate key asid (bed * 2 ^ 40 + hoff) 1).2 = .ok o ∧
      (∀ a, a < key * 2 ^ 32 + o ∨ key * 2 ^ 32 + o + data.length ≤ a → s1.mem.byte a = s.mem.byte a) ∧
      (∀ i, (hi : i < data.length) → s1.mem.byte (key * 2 ^ 32 + o + i) = data[i]) ∧
      s1.sram = s.sram ∧ s1.hostMem = s.hostMem ∧ s1.strands = s.strands) ∧
  (∀ (s s1 : State) (key bed hoff : Nat) (spill : Bool) (asid : BitVec 12) (data : List Byte) (w : Party) (v : Nat)
    (off : Option Nat), s.memOk → s.homeWrite key bed hoff .scratch spill asid data w = (s1, .ok v off) →
    let k := (s.quad (quadOfCol key)).scratchKey (quadOfCol key) hoff
    (∀ a, a < k ∨ k + data.length ≤ a → s1.sram.byte a = s.sram.byte a) ∧
    (∀ i, (hi : i < data.length) → s1.sram.byte (k + i) = data[i]) ∧
    s1.mem = s.mem ∧ s1.hostMem = s.hostMem ∧ s1.strands = s.strands)

/-- Spec/16 R327, spec/07 R138: the event of an atomic at a home outside scratch that is not an update bed: the old value is the 8 bytes
at the translated offset; with a value to write they become it, and with none memory is as it was; no other byte changes. -/
def Obligations.AtomicEventChangesOneLocation : Prop :=
  ∀ (s s1 : State) (key bed hoff : Nat) (kind : BedKind) (asid : BitVec 12) (f : Nat → Option Nat) (w : Party) (v : Nat)
    (off : Option Nat), s.memOk → kind ≠ .scratch → kind ≠ .update →
    s.homeRmw key bed hoff kind false asid f w = (s1, .ok v off) →
    ∃ o, off = some o ∧ (s.translate key asid (bed * 2 ^ 40 + hoff) 1).2 = .ok o ∧ v = s.mem.read (key * 2 ^ 32 + o) 8 ∧
      (f v = none → s1.mem = s.mem) ∧
      (∀ x, f v = some x → s1.mem.read (key * 2 ^ 32 + o) 8 = x % 2 ^ 64) ∧
      (∀ a, a < key * 2 ^ 32 + o ∨ key * 2 ^ 32 + o + 8 ≤ a → s1.mem.byte a = s.mem.byte a) ∧
      s1.sram = s.sram ∧ s1.hostMem = s.hostMem ∧ s1.strands = s.strands

/-- The home performs the store or the atomic: none of its checks fails there (spec/07 R122). -/
def Sys2Proof.Said.HomePerforms (i : Instr) (s : State) (st : Strand) (a : Said.Access) (h : BedHit) (hoff : Nat) : Prop :=
  (∀ p, Said.atomic i st = some p → ∃ s2 v off, (Said.found s st a h).homeRmw st.colKey h.index hoff h.bed.kind (Said.spills s st h) st.asid
      (fun old => (p.2.2 (.ofNat 64 old)).map BitVec.toNat) st.party = (s2, .ok v off)) ∧
  (Said.atomic i st = none → ∃ s2 v off, (Said.found s st a h).homeWrite st.colKey h.index hoff h.bed.kind (Said.spills s st h) st.asid
      (Said.dataOf i st) st.party = (s2, .ok v off))

/-- Spec/16 R322, R324, R327, spec/07 R138: the frame of a store or an atomic performed at its home, outside scratch and update beds:
of all memory only the bytes stored to change, those of the access's size at the address that the home's translation gives for EA;
SRAM and host memory are as they were, every other strand is as it was, and of the strand itself no register's value changes but
the atomic's destination. -/
def Obligations.StoreChangesOnlyItsBytes : Prop :=
  ∀ (i : Instr) (s u : State) (st : Strand) (a : Said.Access) (h : BedHit) (hoff o : Nat), s.memOk →
    (Said.store i st).or ((Said.atomic i st).map (·.1)) = some a → Said.Passes s st a h →
    Said.homeOf st a h = some (st.colKey, hoff) → h.bed.kind ≠ .scratch → h.bed.kind ≠ .update →
    Said.spills s st h = false →
    ((Said.found s st a h).translate st.colKey st.asid (h.index * 2 ^ 40 + hoff) 1).2 = .ok o →
    Said.HomePerforms i s st a h hoff → Sys2Proof.Machine.exec i s = .next u →
    (∀ x, x < st.colKey * 2 ^ 32 + o ∨ st.colKey * 2 ^ 32 + o + a.align ≤ x → u.mem.byte x = s.mem.byte x) ∧
    u.sram = s.sram ∧ u.hostMem = s.hostMem ∧
    (∀ hd, hd ≠ st.handle → u.strand? hd = s.strand? hd) ∧
    ∃ t, u.strand? st.handle = some t ∧ t.w = st.w ∧ t.x = st.x ∧
      ∀ r : GReg, (∀ p, Said.atomic i st = some p → r ≠ p.2.1) → t.gv r = st.gv r

namespace Sys2Proof.Said

/-- The instruction is one of the integer, control, floating and wide instructions, and it completes in this state: its sources
Full, its prefix accepted, its target, if it transfers, legal. -/
def RegisterOnly (i : Instr) (s : State) (st : Strand) : Prop :=
  (∃ r, (arith i st).or (bitwise i st) = some r ∧ Issues s st (r.srcs.map (·.1))) ∨
  (∃ x, transfer i st = some x ∧ Issues s st (x.srcs.map (·.1)) ∧
    ∀ t, x.target = some t → t.toNat < 2 ^ 56 ∧ t.toNat % 2 = 0) ∨
  (∃ e, (scalar i st).or (wide i (s.core st.coreKey) st) = some e ∧ i.fieldsOk = true ∧ IssuesFmt i s st (e.srcs.map (·.1)))

end Sys2Proof.Said

/-- Spec/15 R293, spec/17 R350: the frame of the integer, control, floating and wide instructions: one that completes changes no byte of
device memory, SRAM or host memory, no message, item or job, no other strand, and of its own strand neither an x register, nor the
attachments, nor its identity; an integer instruction also leaves every w register, and every g register but d, with its value. -/
def Obligations.RegisterInstructionLeavesTheRest : Prop :=
  ∀ (i : Instr) (s : State) (st : Strand), Said.RegisterOnly i s st →
    ∃ u t, Sys2Proof.Machine.exec i s = .next u ∧ u.strand? st.handle = some t ∧
      u.mem = s.mem ∧ u.sram = s.sram ∧ u.hostMem = s.hostMem ∧ u.msgs = s.msgs ∧ u.items = s.items ∧ u.jobs = s.jobs ∧
      (∀ hd, hd ≠ st.handle → u.strand? hd = s.strand? hd) ∧
      t.x = st.x ∧ t.job = st.job ∧ t.asid = st.asid ∧ t.flat = st.flat ∧ t.joinw = st.joinw ∧ t.cmap = st.cmap ∧ t.loc = st.loc ∧
      (∀ r, (Said.arith i st).or (Said.bitwise i st) = some r →
        t.w = st.w ∧ (∀ k : GReg, k ≠ r.d → t.gv k = st.gv k) ∧ t.gv r.d = r.v ∧ (t.rc r.d.toNat).st = .full)

/-- Spec/07 R120, R122, R125, R135, R138: the home of an address, and reads and writes there.
Choices of the model: log 15. -/
def Obligations.HomeAccessesTouchTheirBytes : Prop :=
  Sys2Proof.Said.homeIsWhereTheBedPutsIt ∧
  Sys2Proof.Said.homeReadReturnsItsBytes ∧ Sys2Proof.Said.homeWriteWritesExactlyItsBytes
namespace Sys2Proof.Said

/-- The pairs of UPD and VUPD: the location's distance from EA and its value (spec/16 R328). -/
def pairs (i : Instr) (t : Strand) : List (Nat × Word) :=
  match i with
  | .upd d _ _ => [(0, t.gv d.reg)]
  | .vupd d _ _ =>
    let m := if (t.x[0].toNat / 16) % 16 = 0 then 15 else (t.x[0].toNat / 16) % 16
    ([0, 1, 2, 3].filter (fun j => m / 2 ^ j % 2 = 1)).map (fun j => (8 * j, (t.wv d.reg).extractLsb' (64 * j) 64))
  | _ => []
/-- M of spec/16 R328, with L one bit for each lane of the location. -/
def updateMask (t : Strand) (etype : Nat) : Nat :=
  let l := 2 ^ laneCount etype - 1
  if t.x[0].toNat % 16 = 0 then l else (t.x[0].toNat % 16) &&& l
/-- What a waiting instruction waits for, where its report goes, whether it acquires and at which scope, and its length (spec/16 R329,
R332, R333, spec/18 R365, spec/08 R141, R147). -/
def waiting (i : Instr) (s : State) (t : Strand) : Option (Wait × GReg × Option Nat × Nat) :=
  match i with
  | .ufence d => some (.items [] [.update] 0, d, none, 4)
  | .ufence16 => some (.items [] [.update] 0, 0, none, 2)
  | .pfence d sc => some (.items [.posted] [] (scopeAt s t sc), d, none, 4)
  | .fence d sc =>
    let n := scopeAt s t sc
    some (.items [.posted, .update] (if 4 ≤ n then [.copy, .task, .rake] else []) n, d, some n, 4)
  | .xfence d sc => some (.paths (t.x[0].toNat % 64) (scopeAt s t sc), d, none, 4)
  | .waitc d => some (.counts t.x[0], d, none, 4)
  | _ => none
/-- The failed items of a strand that a wait covers and that are not yet reported (spec/16 R331). -/
def isReported (s : State) (t : Strand) (w : Wait) (kv : Nat × Item) : Bool :=
  kv.2.handle == t.handle && kv.2.failed && s.waitCovers w t.colKey t.job kv.2
/-- The state and strand once a wait reports: with report field 0 nothing changes; otherwise d takes the count of the failed items
covered, at most 2^32 - 1, and they count as reported (spec/16 R331). -/
def reported (s : State) (t : Strand) (w : Wait) (d : GReg) : State × Strand :=
  if d = 0 then (s, t)
  else ({ s with items := s.items.filter (fun kv => !isReported s t w kv) },
    t.setG d (.ofNat 64 (min (s.items.filter (isReported s t w)).length (2 ^ 32 - 1))))
/-- The failed items of a REPLSYNC, its posted stores and its reads under one group (spec/16 R326, R331). -/
def inGroup (t : Strand) (id : Nat) (kv : Nat × Item) : Bool :=
  kv.2.handle == t.handle && kv.2.failed && kv.2.group == id && kv.2.cls != .update
/-- The state and strand once a REPLSYNC reports them. -/
def groupReported (s : State) (t : Strand) (id : Nat) (d : GReg) : State × Strand :=
  if d = 0 then (s, t)
  else ({ s with items := s.items.filter (fun kv => !inGroup t id kv) },
    t.setG d (.ofNat 64 (min (s.items.filter (inGroup t id)).length (2 ^ 32 - 1))))
/-- The operation number, destination and sources of a tile-cache request (spec/16 R340 to R343). -/
def cacheRequest (i : Instr) : Option (Nat × GReg × GSrc × GSrc) :=
  match i with
  | .cpin d a b => some (0, d, a, b) | .cunpin d a b => some (1, d, a, b) | .chint d a b => some (2, d, a, b)
  | .cwb d a b => some (3, d, a, b) | _ => none

end Sys2Proof.Said

/-- Spec/16 R328, spec/09 R162: UPD and VUPD queue one outbound entry and one item for each of their pairs and complete; they park with
cause 4, until as many entries are free as they need, while the outbound queue of 64 entries has not room for all of them. A pair's entry names its home, bed, operator, element type,
offset, lane mask and value. -/
def Sys2Proof.Said.updateQueuesItsPairs : Prop :=
  (∀ (i : Instr) (s : State) (st : Strand) (a : Said.Access) (h : BedHit), Said.updating i st = some a → Said.Passes s st a h →
    let r := Said.after s st a
    ((s.core st.coreKey).outq.length + (Said.pairs i st).length ≤ 64 →
      Sys2Proof.Machine.exec i s = .next (((Said.pairs i st).foldl (fun q p =>
        q.queuePair r.2 h (a.va.toNat + p.1) (Said.updateMask st h.bed.etype) p.2) (r.1.touchBed r.2 h)).putStrand
          (r.2.completed (Said.next st a)))) ∧
    (64 < (s.core st.coreKey).outq.length + (Said.pairs i st).length → Sys2Proof.Machine.exec i s =
      .next (s.park { st with wait := .room (Said.pairs i st).length } 4 0))) ∧
  (∀ (s : State) (t : Strand) (h : BedHit) (va m : Nat) (v : Word) (key hoff : Nat),
    h.bed.home (va - h.bed.base) t.loc.tile = some (key, hoff) → (s.core t.coreKey).outq.length < 64 →
    ∃ n, n < 64 ∧ FMap.get? (s.core t.coreKey).outq n = none ∧
      FMap.get? ((s.queuePair t h va m v).core t.coreKey).outq n =
        some ⟨s.fresh, key, t.asid, h.index, h.bed.op, h.bed.etype, hoff, m, v, 0, .waiting⟩ ∧
      (∀ k, k ≠ n → FMap.get? ((s.queuePair t h va m v).core t.coreKey).outq k = FMap.get? (s.core t.coreKey).outq k) ∧
      FMap.get? (s.queuePair t h va m v).items s.fresh = some ⟨t.handle, t.job, .update, some key, 0, false, h.index⟩ ∧
      (s.queuePair t h va m v).mem = s.mem)

/-- Spec/16 R329, R331 to R333, spec/18 R365, spec/08 R147: UFENCE, PFENCE, FENCE, XFENCE and WAITC complete when nothing they wait for is
outstanding, report the failed items they covered, and FENCE then acquires at its scope; until then they park with cause 5. A wait
for classes within a scope is over exactly when the strand has no outstanding item that it covers.
Choices of the model: log 14. -/
def Obligations.FenceWaitsThenReports : Prop :=
  (∀ (i : Instr) (s : State) (st : Strand) (w : Wait) (d : GReg) (acq : Option Nat) (len : Nat),
    Said.waiting i s st = some (w, d, acq, len) → Said.Issues s st [] →
    (s.waitOver { st with wait := w } = false → Sys2Proof.Machine.exec i s = .next (s.parkWait st w)) ∧
    (s.waitOver { st with wait := w } = true →
      let q := Said.reported s st w d
      (acq = none → Sys2Proof.Machine.exec i s = .next (q.1.putStrand (q.2.completed (st.pc + .ofNat 56 len)))) ∧
      (∀ sc, acq = some sc → Sys2Proof.Machine.exec i s =
        .next ((q.1.acquire q.2 sc).1.putStrand ((q.1.acquire q.2 sc).2.completed (st.pc + .ofNat 56 len)))))) ∧
  (∀ (s : State) (st : Strand) (near far : List ItemClass) (sc : Nat),
    s.waitOver { st with wait := .items near far sc } = true ↔
      ∀ kv ∈ s.items, kv.2.handle = st.handle → kv.2.failed = false →
        kv.2.cls ∉ far ∧ (kv.2.cls ∈ near → s.covers sc st.colKey st.job kv.2.home kv.2.far = false))

/-- Spec/16 R330, spec/09 R175: UFLUSH outside an update bed raises BedKind; its first issue waits for the strand's own pairs to the bed,
then asks every sieve of every tile of the bed's rectangle to flush and parks with cause 5; it completes when every answer has come and
none failed, and when one did it writes an error-log entry and raises DataLoss with source 10 and that entry's number (spec/11 R205, R221).
Each issue is a use of its bed's entry (spec/07 R119). -/
def Sys2Proof.Said.uflushAsksEverySieve : Prop :=
  ∀ (b : GSrc) (imm : BitVec 9) (s : State) (st : Strand) (h : BedHit), Said.Issues s st [b.reg.toNat] →
    let va := Said.ea st b imm 8
    let i := Instr.uflush b imm
    s.lookup st va = .hit h →
    (h.bed.kind ≠ .update → Sys2Proof.Machine.exec i s = .next ((s.touchBed st h).trap st ⟨5, va, .ofNat 64 (h.index * 256 + h.bed.kind.code)⟩)) ∧
    (h.bed.kind = .update →
      (st.phase = .none → s.waitOver { st with wait := .bed h.index } = false →
        Sys2Proof.Machine.exec i s = .next ((s.touchBed st h).parkWait st (.bed h.index))) ∧
      (st.phase = .none → s.waitOver { st with wait := .bed h.index } = true →
        ∃ u t, Sys2Proof.Machine.exec i s = .next u ∧ u.strand? st.handle = some t ∧ t.status = .parked ∧ t.pcause = 5 ∧
          t.phase = .uflush s.fresh (4 * h.bed.tiles.length) false ∧
          ∀ tile ∈ h.bed.tiles, ∀ q < 4, ∃ id, FMap.get? u.msgs id = some (.flush st.handle s.fresh (quadKey tile q) st.asid h.index)) ∧
      (∀ n m f, st.phase = .uflush n (m + 1) f →
        Sys2Proof.Machine.exec i s = .next ((s.touchBed st h).park { st with wait := .answer } 5 0)) ∧
      (∀ n, st.phase = .uflush n 0 false → let r := s.readSources st [Said.g b]
        Sys2Proof.Machine.exec i s = .next ((r.1.touchBed r.2 h).putStrand (r.2.completed (st.pc + 4)))) ∧
      (∀ n, st.phase = .uflush n 0 true → Sys2Proof.Machine.exec i s =
        .next (((s.touchBed st h).logError st.loc.tile 10 true 0 st.handle 0).trap st
          ⟨9, va, .ofNat 64 ((s.tile st.loc.tile).elogcnt * 2 ^ 32 + 10)⟩)))

/-- Spec/16 R334 to R337, spec/06 R103, R104, R109: MIGR to the current column translates the address as a read and completes with no other effect, and
to another leaves for it, pinned or not; HOME writes the home code with IO and HERE; PREF completes whatever its address; PIN sets PINLEFT to 511 and UNPIN
clears PINLEFT, RUN and WIN.
Choices of the model: log 10. -/
def Obligations.MigrationControl : Prop :=
  (∀ (a : GSrc) (s : State) (st : Strand) (h : BedHit), Said.Issues s st [a.reg.toNat] → s.lookup st (st.gv a.reg) = .hit h →
    let r := s.readSources st [Said.g a]
    let va := st.gv a.reg
    let g := s.target st h va
    (∀ key bed hoff kind spill, g = .column key bed hoff kind spill →
      (key = st.colKey → kind = .scratch →
        Sys2Proof.Machine.exec (.migr a) s = .next ((r.1.touchBed r.2 h).putStrand (r.2.completed (st.pc + 4)))) ∧
      (key = st.colKey → kind ≠ .scratch → (r.1.touchBed r.2 h).waitsHome key bed hoff kind st.asid 1 0 = true →
        Sys2Proof.Machine.exec (.migr a) s = .next s) ∧
      (key = st.colKey → kind ≠ .scratch → (r.1.touchBed r.2 h).waitsHome key bed hoff kind st.asid 1 0 = false →
       ∀ s1 res, (r.1.touchBed r.2 h).translateFor key st.asid (bed * 2 ^ 40 + hoff) 0 st.handle 0 = (s1, res) →
        (∀ o, res = .ok o → Sys2Proof.Machine.exec (.migr a) s = .next (s1.putStrand (r.2.completed (st.pc + 4)))) ∧
        (∀ c g4, res = .trip c g4 → Sys2Proof.Machine.exec (.migr a) s = .next (s1.trap st ⟨c, va, .ofNat 64 g4⟩))) ∧
      (key ≠ st.colKey → s.mayDepart st = true → Sys2Proof.Machine.exec (.migr a) s =
        .next ((s.touchBed st h).depart (st.countWin.bounceTo .migr st.colKey key).1 key g.cva va)) ∧
      (key ≠ st.colKey → s.mayDepart st = false → Sys2Proof.Machine.exec (.migr a) s = .next (s.park st 2 0))) ∧
    (g.home = none → Sys2Proof.Machine.exec (.migr a) s =
      .next ((s.touchBed st h).trap st ⟨5, va, .ofNat 64 (h.index * 256 + h.bed.kind.code)⟩)) ∧
    (∀ d : GReg, Sys2Proof.Machine.exec (.home d a) s = .next ((r.1.touchBed r.2 h).putStrand ((r.2.setG d
      (match g.home with
       | none => 0x8000000000000000
       | some k => (if k = st.colKey then 0x4000000000000000 else 0) + .ofNat 64 k)).completed (st.pc + 4))))) ∧
  (∀ (a : GSrc) (s : State) (st : Strand), Said.Issues s st [a.reg.toNat] → s.lookup st (st.gv a.reg) ≠ .wait →
    let r := s.readSources st [Said.g a]
    (∀ h, s.lookup st (st.gv a.reg) = .hit h → r.1.waitsFor (r.1.target st h (st.gv a.reg)) st.asid 1 0 = false) →
    ∃ u, Sys2Proof.Machine.exec (.pref a) s = .next u ∧ u.mem = s.mem ∧ u.sram = s.sram ∧ u.msgs = s.msgs ∧
      u.strand? st.handle = some (r.2.completed (st.pc + 4))) ∧
  (∀ (s : State) (st : Strand), Said.Issues s st [] →
    (∃ t, Sys2Proof.Machine.exec .pin s = .next (s.putStrand t) ∧ t.handle = st.handle ∧ t.pinLeft = 511 ∧ t.pc = st.pc + 4 ∧
      t.g = st.g ∧ t.run = st.run) ∧
    (∃ t, Sys2Proof.Machine.exec .unpin s = .next (s.putStrand t) ∧ t.handle = st.handle ∧ t.pinLeft = 0 ∧ t.run = 0 ∧ t.win = 0 ∧
      t.pc = st.pc + 4 ∧ t.g = st.g))

/-- Spec/16 R338, R339, spec/10 R202, spec/07 R136: RAKE whose index address passes its checks queues its request at the column's rake unit
as one item and completes; with eight requests queued nothing issues, and one of no index is done at once. RAKEW parks with cause 5 while an earlier rake fetch of the column is out,
and then invalidates the column's rake buffer and completes. -/
def Sys2Proof.Said.rakeQueuesRequest : Prop :=
  (∀ (b : GSrc) (imm : BitVec 9) (s : State) (st : Strand) (h : BedHit), Said.Issues s st [b.reg.toNat] →
    let ia := Said.ea st b imm 8
    let wide := st.x[1].toNat / 2 ^ 40 % 2 = 1
    s.lookup st ia = .hit h → ia.toNat % (if wide then 8 else 4) = 0 → h.bed.rd = true →
    (8 ≤ (s.col st.colKey).rakeQ.length →
      Sys2Proof.Machine.exec (.rake b imm) s = .next s) ∧
    ((s.col st.colKey).rakeQ.length < 8 → st.x[1].toNat % 2 ^ 40 = 0 →
      let r := s.readSources st [Said.g b]
      Sys2Proof.Machine.exec (.rake b imm) s = .next ((r.1.touchBed r.2 h).putStrand (r.2.completed (st.pc + 4)))) ∧
    ((s.col st.colKey).rakeQ.length < 8 → st.x[1].toNat % 2 ^ 40 ≠ 0 → ∃ u item q, Sys2Proof.Machine.exec (.rake b imm) s = .next u ∧
      u.strand? st.handle = some ((s.readSources st [Said.g b]).2.completed (st.pc + 4)) ∧
      (u.col st.colKey).rakeQ = (s.col st.colKey).rakeQ ++ [q] ∧ q.item = item ∧ q.ia = ia ∧ q.nidx = st.x[1].toNat % 2 ^ 40 ∧
      q.wide = decide wide ∧ q.signed = decide (st.x[1].toNat / 2 ^ 41 % 2 = 1) ∧ q.kaddr = st.x[0] ∧ q.p0 = st.x[2] ∧ q.p1 = st.x[3] ∧
      q.handle = st.handle ∧ q.next = 0 ∧
      FMap.get? u.items item = some ⟨st.handle, st.job, .rake, some st.colKey, 0, false, 0⟩)) ∧
  (∀ (s : State) (st : Strand) (n : Nat), Said.Issues s st [] → (st.wait = .rake n ∨ (n = s.fresh ∧ ∀ m, st.wait ≠ .rake m)) →
    (s.rakeOutBefore st.colKey n = true →
      Sys2Proof.Machine.exec .rakew s = .next (s.parkWait st (.rake n))) ∧
    (s.rakeOutBefore st.colKey n = false → ∃ u, Sys2Proof.Machine.exec .rakew s = .next u ∧
      u.strand? st.handle = some (st.completed (st.pc + 4)) ∧ (u.col st.colKey).rakeBuf = [] ∧ u.cores = s.cores ∧ u.tiles = s.tiles))

/-- Spec/16 R326, R331, spec/07 R122: REPLSYNC of length 0 completes at once, whatever its address (before every check: log 37); otherwise its checks come in R122's order: BedMiss, Misaligned for
an address or a length that is no multiple of 8, Protection, and BedKind outside one replicated bed; its first issue sends a read of every
location to the primary and parks with cause 5; and when all its reads and posted stores are done it completes and reports those that
failed. Each issue is a use of its bed's entry (spec/07 R119). -/
def Sys2Proof.Said.replsyncRuns : Prop :=
  ∀ (d : GReg) (a b : GSrc) (s : State) (st : Strand), Said.Issues s st [a.reg.toNat, b.reg.toNat] →
    let va := st.gv a.reg
    let len := st.gv b.reg
    let i := Instr.replsync d a b
    let r := s.readSources st [Said.g a, Said.g b]
    (len = 0 → Sys2Proof.Machine.exec i s =
      .next (Said.completes s st [Said.g a, Said.g b] 4 (fun t => if d = 0 then t else t.setG d 0))) ∧
    (len ≠ 0 →
      (s.lookup st va = .miss → Sys2Proof.Machine.exec i s = .next (s.trap st ⟨4, va, 0⟩)) ∧
      ∀ h, s.lookup st va = .hit h →
      (va.toNat % 8 ≠ 0 ∨ len.toNat % 8 ≠ 0 → Sys2Proof.Machine.exec i s = .next ((s.touchBed st h).trap st ⟨3, va, 8⟩)) ∧
      (va.toNat % 8 = 0 → len.toNat % 8 = 0 → h.bed.rd = false ∨ h.bed.wr = false →
        Sys2Proof.Machine.exec i s = .next ((s.touchBed st h).trap st ⟨7, va, .ofNat 64 (h.index * 256 + 1)⟩)) ∧
      (va.toNat % 8 = 0 → len.toNat % 8 = 0 → h.bed.rd = true → h.bed.wr = true →
        (h.bed.kind ≠ .replicated ∨ h.bed.base + h.bed.len < va.toNat + len.toNat →
          Sys2Proof.Machine.exec i s = .next ((s.touchBed st h).trap st ⟨5, va, .ofNat 64 (h.index * 256 + h.bed.kind.code)⟩)) ∧
        (h.bed.kind = .replicated → h.bed.base ≤ va.toNat → va.toNat + len.toNat ≤ h.bed.base + h.bed.len →
          ((∀ n, st.phase ≠ .replsync n) → ∃ u t, Sys2Proof.Machine.exec i s = .next u ∧ u.strand? st.handle = some t ∧
            t.status = .parked ∧ t.pcause = 5 ∧ t.phase = .replsync (s.fresh + 1) ∧
            ∀ k, k < len.toNat / 8 → ∃ id item,
              FMap.get? u.msgs id = some (.read (.replsync (s.fresh + 1) item st.asid (.ofNat 64 (va.toNat + 8 * k)))
                st.asid (.ofNat 64 (va.toNat + 8 * k)) 8
                (.column (h.bed.replica (va.toNat + 8 * k - h.bed.base) h.bed.prim).1 h.index
                  (h.bed.replica (va.toNat + 8 * k - h.bed.base) h.bed.prim).2 .replicated false) item)) ∧
          (∀ n, st.phase = .replsync n → s.waitOver { st with wait := .answer } = false →
            Sys2Proof.Machine.exec i s = .next ((s.touchBed st h).park { st with wait := .answer } 5 0)) ∧
          (∀ n, st.phase = .replsync n → s.waitOver { st with wait := .answer } = true →
            let q := Said.groupReported (r.1.touchBed r.2 h) r.2 n d
            Sys2Proof.Machine.exec i s = .next (q.1.putStrand (q.2.completed (st.pc + 4)))))))

/-- Spec/16 R326: a read of a REPLSYNC returns: its value goes out as a posted store to the replica of every tile of the bed but the
primary's. -/
def Sys2Proof.Said.replsyncReadPosts : Prop :=
  ∀ (s : State) (msg id item it' value : Nat) (asid : BitVec 12) (va va' : Word) (it : Item) (st : Strand) (h : BedHit),
    s.msg? msg = some (.readDone (.replsync id item asid va) va' value none it') → FMap.get? s.items item = some it →
    s.strand? it.handle = some st → (s.tableFor st).bind (fun t => t.find va.toNat) = some h →
    ∃ u, Sys2Proof.Machine.exec (.fill msg) s = .next u ∧ u.mem = s.mem ∧
      ∀ tile ∈ h.bed.tiles, tile ≠ h.bed.prim → ∃ n post, FMap.get? u.msgs n = some (.posted (.bytes (leBytes value 8)) asid va
        (.column (h.bed.replica (va.toNat - h.bed.base) tile).1 h.index (h.bed.replica (va.toNat - h.bed.base) tile).2 h.bed.kind false)
        post)

/-- Spec/16 R326, R331: REPLSYNC copies the primary to every other replica. -/
def Obligations.ReplsyncCopiesPrimary : Prop := Sys2Proof.Said.replsyncRuns ∧ Sys2Proof.Said.replsyncReadPosts

/-- Spec/16 R340, spec/07 R122: CPIN, CUNPIN, CHINT and CWB set d Awaiting and send one request, no item, towards the home of s1, completing at
issue; where a check of R122 or the bed's kind forbids it the request goes out with no home, to be answered with all ones; none traps. -/
def Sys2Proof.Said.cacheControlSendsRequest : Prop :=
  ∀ (i : Instr) (op : Nat) (d : GReg) (a b : GSrc) (s : State) (st : Strand), Said.cacheRequest i = some (op, d, a, b) →
    Said.Issues s st [a.reg.toNat, b.reg.toNat] →
    let va := st.gv a.reg
    let r := s.readSources st [Said.g a, Said.g b]
    let ask := fun (q : State) (g : Option Target) =>
      (q.putStrand ((r.2.await d.toNat q.fresh).completed (st.pc + 4))).sendFrom st.loc.tile
        (.cacheCtl op st.handle d.toNat q.fresh st.asid g (st.gv b.reg))
    (s.lookup st va = .miss → Sys2Proof.Machine.exec i s = .next (ask r.1 none)) ∧
    (∀ h, s.lookup st va = .hit h →
      (h.bed.rd = false ∨ h.bed.kind = .scratch ∨ h.bed.kind = .host ∨ h.bed.kind = .peer →
        Sys2Proof.Machine.exec i s = .next (ask (r.1.touchBed r.2 h) none)) ∧
      (h.bed.rd = true → h.bed.kind ≠ .scratch → h.bed.kind ≠ .host → h.bed.kind ≠ .peer →
        Sys2Proof.Machine.exec i s = .next (ask (r.1.touchBed r.2 h) (some (s.target st h va)))))

/-- Spec/16 R328, R330, spec/09 R162, R175: UPD, VUPD and UFLUSH. -/
def Obligations.UpdatesAreQueuedAndFlushed : Prop :=
  Sys2Proof.Said.updateQueuesItsPairs ∧ Sys2Proof.Said.uflushAsksEverySieve

/-- Spec/16 R338 to R343, spec/10 R202: RAKE, RAKEW, CPIN, CUNPIN, CHINT and CWB. -/
def Obligations.RakeAndCacheRequestsGoOut : Prop :=
  Sys2Proof.Said.rakeQueuesRequest ∧ Sys2Proof.Said.cacheControlSendsRequest
namespace Sys2Proof.Said

/-- The step answers this next state. -/
def Runs (i : Instr) (s u : State) : Prop := Sys2Proof.Machine.exec i s = .next u
/-- A tile's power manager changed by f. -/
def power (s : State) (t : Nat) (f : Power → Power) : State := s.putTile t { s.tile t with pow := f (s.tile t).pow }
/-- The cap in force: the tile's, or the panel's effective cap where one is imposed and lower (spec/01 R19). -/
def cap (s : State) (t : Nat) : Nat := if s.head.imposed then min (s.tile t).pow.cap s.head.effCap else (s.tile t).pow.cap
/-- Does a sensor hold stage 2 (spec/01 R20)? -/
def heated (p : Power) : Prop := p.heatBase = true ∨ p.heatDram ≠ []
/-- The threshold of a sensor's stage 2 row (spec/01 R20). -/
def threshold (sensor : Nat) : Nat := if sensor = 0 then 105 else 95
/-- A tile that runs or is Idle (its cores answer). -/
def up (s : State) (t : Nat) : Prop := s.tileUp t = true

end Sys2Proof.Said

/-- Spec/01 R17 to R20. A sample enters the window. A window over the cap in force takes one step: duty from 16 to 4, then both clocks from
16 to 8, then the dispatch hold; entry into stage 2 or 3 raises PowerStage. One at or below 90 per cent of it undoes one step, the
latest stage first, the clock only as far as heat allows. The head gardener lowers its effective cap by 1 W while the mean input is over 50 kW and raises it by 1 W after
a window at or below 49 kW. Sensors hold stage 2 between their threshold and release temperatures, and a held clock falls one
sixteenth at each step to its floor of 8.
Choices of the model: log 25. -/
def Obligations.PowerManagersThrottleByStages : Prop :=
  (∀ (s : State) (t n : Nat), Said.up s t →
    Said.Runs (.powerMeasure t n) s (Said.power s t fun p => { p with sum := p.sum + n, count := p.count + 1 })) ∧
  (∀ (s : State) (t : Nat), Said.up s t → 0 < (s.tile t).pow.count →
    let i := Instr.powerWindowEnd t
    let p := (s.tile t).pow
    let next := fun (f : Power → Power) => Said.power s t fun p => f { p with sum := 0, count := 0 }
    (Said.cap s t * p.count < p.sum →
      (4 < p.duty → Said.Runs i s (next fun p => { p with duty := p.duty - 1 })) ∧
      (p.duty ≤ 4 → p.clock = 16 → Said.Runs i s ((next fun p => { p with clock := 15 }).raiseMain 0x10 t 2)) ∧
      (p.duty ≤ 4 → 8 < p.clock → p.clock < 16 → Said.Runs i s (next fun p => { p with clock := p.clock - 1 })) ∧
      (p.duty ≤ 4 → p.clock = 8 → p.dispatchHold = false →
        Said.Runs i s ((next fun p => { p with dispatchHold := true }).raiseMain 0x10 t 3)) ∧
      (p.duty ≤ 4 → p.clock = 8 → p.dispatchHold = true → Said.Runs i s (next id))) ∧
    (p.sum * 10 ≤ Said.cap s t * 9 * p.count → p.sum ≤ Said.cap s t * p.count →
      (p.dispatchHold = true → Said.Runs i s (next fun p => { p with dispatchHold := false })) ∧
      (p.dispatchHold = false → p.clock < 16 → Said.heated p → Said.Runs i s (next fun p => { p with clock := p.clock + 1 })) ∧
      (p.dispatchHold = false → (p.clock < 16 ∨ p.clockHeat < 16) → p.clock ≤ 16 → ¬ Said.heated p →
        Said.Runs i s (next fun p => { p with clock := min 16 (p.clock + 1), clockHeat := min 16 (p.clockHeat + 1) })) ∧
      (p.dispatchHold = false → p.clock = 16 → p.clockHeat = 16 → Said.Runs i s (next fun p => { p with duty := min 16 (p.duty + 1) }))) ∧
    (p.sum ≤ Said.cap s t * p.count → Said.cap s t * 9 * p.count < p.sum * 10 → Said.Runs i s (next id))) ∧
  (∀ (s : State) (n : Nat), s.head.phase = 5 →
    let sum := s.head.inSum + n
    let count := s.head.inCount + 1
    (sum ≤ 50000 * count → Said.Runs (.panelBudgetMeasure n) s { s with head := { s.head with inSum := sum, inCount := count } }) ∧
    (50000 * count < sum → s.head.imposed = true → Said.Runs (.panelBudgetMeasure n) s
      { s with head := { s.head with inSum := sum, inCount := count, effCap := min s.head.effCap s.topCap - 1 } }) ∧
    (50000 * count < sum → s.head.imposed = false → Said.Runs (.panelBudgetMeasure n) s
      ({ s with head := { s.head with inSum := sum, inCount := count, effCap := s.topCap - 1, imposed := true } }.raiseMain 0x10 0 4))) ∧
  (∀ (s : State), 0 < s.head.inCount →
    (s.head.imposed = true → s.head.inSum ≤ 49000 * s.head.inCount → ∃ h, Said.Runs .panelBudgetWindowEnd s { s with head := h } ∧
      h.effCap = s.head.effCap + 1 ∧ (h.imposed = true ↔ s.head.effCap + 1 < s.topCap) ∧ h.inSum = 0 ∧ h.inCount = 0) ∧
    (s.head.imposed = false ∨ 49000 * s.head.inCount < s.head.inSum →
      Said.Runs .panelBudgetWindowEnd s { s with head := { s.head with inSum := 0, inCount := 0 } })) ∧
  (∀ (s : State) (t sensor temp : Nat), s.tileLive t = true → (s.tile t).pow.mode ≠ .off → sensor ≤ 12 →
    ∃ q, Said.Runs (.thermalThreshold t sensor temp) s (s.putTile t { s.tile t with pow := q }) ∧
      q.temps = FMap.set (s.tile t).pow.temps sensor temp ∧ q.cap = (s.tile t).pow.cap ∧ q.clock = (s.tile t).pow.clock ∧
      q.clockHeat = (s.tile t).pow.clockHeat ∧ q.duty = (s.tile t).pow.duty ∧
      (sensor = 0 → q.heatDram = (s.tile t).pow.heatDram ∧ (105 ≤ temp → q.heatBase = true) ∧ (temp < 100 → q.heatBase = false) ∧
        (100 ≤ temp → temp < 105 → q.heatBase = (s.tile t).pow.heatBase)) ∧
      (0 < sensor → q.heatBase = (s.tile t).pow.heatBase ∧ (95 ≤ temp → sensor ∈ q.heatDram) ∧ (temp < 90 → sensor ∉ q.heatDram) ∧
        (90 ≤ temp → temp < 95 → q.heatDram = (s.tile t).pow.heatDram) ∧
        ∀ k, k ≠ sensor → (k ∈ q.heatDram ↔ k ∈ (s.tile t).pow.heatDram))) ∧
  (∀ (s : State) (t k : Nat) (temp : Nat), Said.up s t → (k, temp) ∈ (s.tile t).pow.temps → Said.threshold k ≤ temp → 8 < (s.tile t).pow.clockHeat →
    let v := Said.power s t fun p => { p with clockHeat := p.clockHeat - 1 }
    Said.Runs (.thermalClockStep t) s (if (s.tile t).pow.clockHeat = 16 then v.raiseMain 0x10 t 2 else v))
namespace Sys2Proof.Said

/-- Does an address of the panel lie in the memory of tile t (spec/02 R36)? -/
def ofTile (t a : Nat) : Prop := t * 2 ^ 36 ≤ a ∧ a < (t + 1) * 2 ^ 36
/-- Strands stand under their handles, refusal lists name cores of a column, and a migration crosses from the tile of its strand. -/
def keyed (s : State) : Prop :=
  FMap.sorted s.strands = true ∧ (∀ kv ∈ s.strands, kv.2.handle.toNat = kv.1) ∧ (∀ kv ∈ s.cols, ∀ e ∈ kv.2.refusals, e.core < 768) ∧
  FMap.sorted s.msgs = true ∧ FMap.sorted s.transit = true ∧
  ∀ k h d m x v, FMap.get? s.msgs k = some (.migrate h d m) → FMap.get? s.transit k = some x → s.strand? h = some v → x.src = v.loc.tile
/-- Nothing that a tile holds is left after it loses power (spec/11 R224): strands (but for one in flight), cores, quadrants, engines,
DRAM; and its registers hold their reset values. The strands of other tiles are kept. -/
def lostAll (s u : State) (t : Nat) : Prop :=
  (∀ h v, s.strand? h = some v → v.loc.tile = t → v.status ≠ .inFlight → u.strand? h = none) ∧
  (∀ h v, s.strand? h = some v → v.loc.tile ≠ t → ∃ c, u.strand? h = some { v with cls := c }) ∧ (∀ kv ∈ u.cores, kv.1 / 768 ≠ t) ∧
  (∀ kv ∈ u.engines, kv.1 / 4 ≠ t) ∧ (∀ kv ∈ u.quads, kv.1 / 4 ≠ t) ∧
  (∀ a, ofTile t a → u.mem.byte a = 0) ∧ (∀ a, ¬ ofTile t a → u.mem.byte a = s.mem.byte a) ∧
  (u.tile t).recs = [] ∧ (u.tile t).tasks = [] ∧ (u.tile t).hedges = [] ∧ (u.tile t).pow.cap = 760 ∧ (u.tile t).ag = 0 ∧
  (u.tile t).supvec = 0
/-- No Column entry is in force for a column (spec/03 R47). -/
def columnKept (s : State) (site col : Nat) : Prop := ∀ e ∈ s.head.log.inForce, e.kind = 2 → e.site = site → e.col ≠ col
/-- Nor a Site or Column entry for a site. -/
def unretired (s : State) (site : Nat) : Prop := ∀ e ∈ s.head.log.inForce, e.kind = 1 ∨ e.kind = 2 → e.site ≠ site
/-- A column that is not retired has a spare left for each retired lane and one more (spec/03 R48). -/
def spareLeft (s : State) (site col lane : Nat) : Prop := columnKept s site col ∧ laneFits (s.deadLanes site col ++ [lane]) = true
/-- The repair sequencer holds a column's accesses (spec/11 R226): n is the lane, or 4096 above it for a retrain. -/
def repairing (s : State) (t col n : Nat) : State := s.putCol (colKey t col) { s.col (colKey t col) with repair := some n }

end Sys2Proof.Said

/-- Spec/11 R224, spec/01 R20, spec/02 R38: a tile whose regulator fails stops and loses everything it holds; its site is failed. A
thermal trip, at 115 degrees or more, takes a tile to Off from any state, discards halts and leaves it Closed; below that there is none. -/
def Sys2Proof.Said.tileLossTakesEverything : Prop :=
  (∀ (s : State) (t site : Nat), s.mem.wf = true → Said.keyed s → s.siteOf t = some site → s.tileLive t = true →
    ∃ u, Said.Runs (.regulatorFail t) s u ∧ Said.lostAll s u t ∧ (u.site site).status = .failed) ∧
  (∀ (s : State) (t sensor : Nat), s.mem.wf = true → Said.keyed s → s.tileLive t = true → sensor ≤ 12 →
    let temp := FMap.getD (s.tile t).pow.temps sensor 0
    (temp < 115 → Said.Runs (.thermalTrip t sensor) s s) ∧
    (115 ≤ temp → ∃ u, Said.Runs (.thermalTrip t sensor) s u ∧ Said.lostAll s u t ∧ (u.tile t).pow.mode = .off ∧ (u.tile t).pow.target = none ∧
      (u.tile t).debug = .closed))

/-- Spec/03 R49, R51, R52: a tile that is Halting refuses Retain and Off with RESULT 2, and one that holds work or is in neither Run nor
Idle with RESULT 1, nothing else changing. An accepted Retain keeps the DRAM, its sieves applied; an accepted Off loses it. Run ends either. A tile with
nothing at work becomes Idle, and an arrival brings it back to Run.
Choices of the model: log 3, 25. -/
def Obligations.PowerCommandsFollowTheTable : Prop :=
  (∀ (s : State) (t : Nat) (i : Instr), i = .pwrcmdRetain t ∨ i = .pwrcmdOff t → s.tileLive t = true →
    ((s.tile t).debug = .halting → Said.Runs i s (Said.power s t fun p => { p with result := 2 })) ∧
    ((s.tile t).debug ≠ .halting → s.holdsWork t = true ∨ (s.tile t).pow.mode = .retain ∨ (s.tile t).pow.mode = .off ∨ (s.tile t).pow.target ≠ none →
      Said.Runs i s (Said.power s t fun p => { p with result := 1 })) ∧
    ((s.tile t).debug ≠ .halting → s.holdsWork t = false → (s.tile t).pow.mode = .run ∨ (s.tile t).pow.mode = .idle → (s.tile t).pow.target = none →
      ∃ u, Said.Runs i s u ∧ (u.tile t).pow.result = 0 ∧
        (i = .pwrcmdRetain t → (u.tile t).pow.target = some .retain ∧ (u.tile t).pow.mode = .retain ∧
          ((∀ q, q < 4 → (s.quad (quadKey t q)).dir = []) → u.mem = s.mem) ∧ ∀ q, q < 4 → (u.quad (quadKey t q)).lines = [] ∧ (u.quad (quadKey t q)).dir = []) ∧
        (i = .pwrcmdOff t → (u.tile t).pow.target = some .off ∧ (s.mem.wf = true → ∀ a, Said.ofTile t a → u.mem.byte a = 0)))) ∧
  (∀ (s : State) (t : Nat), s.tileLive t = true →
    ((s.tile t).pow.target ≠ none → Said.Runs (.pwrcmdRun t) s (Said.power s t fun p => { p with result := 1 })) ∧
    ((s.tile t).pow.target = none → (s.tile t).pow.mode = .run ∨ (s.tile t).pow.mode = .idle →
      Said.Runs (.pwrcmdRun t) s (Said.power s t fun p => { p with result := 0 })) ∧
    ((s.tile t).pow.target = none → (s.tile t).pow.mode = .retain ∨ (s.tile t).pow.mode = .off →
      Said.Runs (.pwrcmdRun t) s (Said.power s t fun p => { p with result := 0, target := some .run }))) ∧
  (∀ (s : State) (t : Nat) (res : SelfTest), s.tileLive t = true →
    (∀ m, (s.tile t).pow.target = some m → m ≠ .run →
      Said.Runs (.powerTransitionDone t res) s (Said.power s t fun p => { p with mode := m, target := none })) ∧
    (∀ site, (s.tile t).pow.target = some .run → (s.tile t).pow.mode = .retain → s.siteOf t = some site →
      Said.Runs (.powerTransitionDone t res) s (Said.power s t fun p => { p with mode := .run, target := none })) ∧
    (∀ site i, (s.tile t).pow.target = some .run → (s.tile t).pow.mode ≠ .retain → s.siteOf t = some site → (s.site site).status = .live →
      s.head.tileImage = some i → res.pass = true → res.lanes = [] → Said.unretired s site → (∀ c, c < 16 → laneFits (s.deadLanes site c) = true) →
      ∃ u, Said.Runs (.powerTransitionDone t res) s u ∧ (s.imageOk i = true → (u.tile t).pow.mode = .run ∧ (u.tile t).pow.target = none ∧
        (u.tile t).cyc = 0 ∧ (u.tile t).debug = (s.tile t).debug ∧ (u.site site).report = some res ∧ (u.site site).measure = i.hash ∧ u.mem = s.mem))) ∧
  (∀ (s : State) (t : Nat), Said.up s t →
    ((s.tile t).pow.mode = .run → (s.tile t).pow.target = none → s.tileAtRest t = true → (s.tile t).debug ≠ .halting →
      Said.Runs (.idleEnter t) s (Said.power s t fun p => { p with mode := .idle })) ∧
    ((s.tile t).pow.mode = .idle → Said.Runs (.idleExit t) s (Said.power s t fun p => { p with mode := .run })))

/-- Spec/03 R48, spec/11 R220, R221, R226: a repair that the host commands, or that a class enabled in REPAUTH starts, holds the column's
accesses; with no spare left the column is reported to the host instead. The switch maps the lane, appends a kind 3 entry and
raises Repair with column and lane; a retrain only raises it, with bit 63. The scrubber logs what it finds, and an uncorrectable
line stays bad. An error that arises in a register, a stored image or a column's path marks it, for the next access to meet (the model's
choice of the event: log 36). -/
def Sys2Proof.Said.repairMapsALane : Prop :=
  (∀ (s : State) (t site col lane : Nat), Said.up s t → s.siteOf t = some site → col < 16 → lane < 1040 →
    let free := (s.col (colKey t col)).repair = none
    (Said.spareLeft s site col lane → free → Said.Runs (.repairCommand t col lane) s (Said.repairing s t col lane)) ∧
    (Said.spareLeft s site col lane → ¬ free → Said.Runs (.repairCommand t col lane) s (s.reply (.status "Busy"))) ∧
    (¬ Said.spareLeft s site col lane → Said.Runs (.repairCommand t col lane) s (s.reply (.noSpare t col))) ∧
    (∀ cls, cls ≤ 2 → bits (s.tile t).repauth cls 1 = 0 → Said.Runs (.repairAuto t col lane cls) s s) ∧
    (bits (s.tile t).repauth 0 1 = 1 → free → Said.Runs (.repairAuto t col lane 0) s (Said.repairing s t col (4096 + lane))) ∧
    (∀ cls, cls = 1 ∨ cls = 2 → bits (s.tile t).repauth cls 1 = 1 →
      (Said.spareLeft s site col lane → free → Said.Runs (.repairAuto t col lane cls) s (Said.repairing s t col lane)) ∧
      (¬ Said.spareLeft s site col lane → Said.Runs (.repairAuto t col lane cls) s (s.reply (.noSpare t col))))) ∧
  (∀ (s : State) (t site col lane : Nat), s.siteOf t = some site → lane < 1040 →
    let v := s.putCol (colKey t col) { s.col (colKey t col) with repair := none }
    ((s.col (colKey t col)).repair = some (4096 + lane) → Said.Runs (.repairSwitch t col) s (v.raiseMain 0x23 t (2 ^ 63 + col * 65536 + lane))) ∧
    ((s.col (colKey t col)).repair = some lane → ¬ Said.columnKept s site col → Said.Runs (.repairSwitch t col) s (v.reply (.noSpare t col))) ∧
    ((s.col (colKey t col)).repair = some lane → Said.columnKept s site col →
      let a := v.logAppend 3 site col lane 0x23
      Said.Runs (.repairSwitch t col) s ((a.putCol (colKey t col) { a.col (colKey t col) with
        busBad := false, lanes := laneMap (s.deadLanes site col ++ [lane]) }).raiseMain 0x23 t (col * 65536 + lane)))) ∧
  (∀ (s : State) (pa : Nat), s.paOk pa 1 = true →
    Said.Runs (.patrolScrub pa 0) s s ∧ Said.Runs (.patrolScrub pa 1) s (s.logError (pa / 2 ^ 36) 1 false pa 0 0) ∧
    ∀ k, 2 ≤ k → k < 16 → ∃ u, Said.Runs (.patrolScrub pa k) s u ∧ pa / 64 ∈ u.badLines ∧ (∀ l ∈ s.badLines, l ∈ u.badLines) ∧
      u.mem = s.mem ∧ (u.tile (pa / 2 ^ 36)).elogcnt = ((s.tile (pa / 2 ^ 36)).elogcnt + 1) % 2 ^ 32) ∧
  (∀ (s : State) (st : Strand) (r col : Nat), s.strand? st.handle = some st → r < 128 →
    (st.inSlot = true → Said.Runs (.patrolScrub (st.handle.toNat * 256 + r) 22) s (s.putStrand (st.setRc r { st.rc r with par := true }))) ∧
    (st.inSlot = false → Said.Runs (.patrolScrub st.handle.toNat 24) s (s.putStrand { st with imgBad := true })) ∧
    Said.Runs (.patrolScrub col 25) s (s.putCol col { s.col col with busBad := true }))
namespace Sys2Proof.Said

/-- The image that a die boots from: slot A, else slot B (spec/03 R41). -/
def bootImage (s : State) (d : Nat) : Option Image :=
  match (s.die d).slotA, (s.die d).slotB with
  | some a, some b => if s.imageOk a then some a else if s.imageOk b then some b else none
  | some a, none => if s.imageOk a then some a else none
  | none, some b => if s.imageOk b then some b else none
  | none, none => none
/-- The status with which a site starts, given the retirements in force (spec/03 R41): 1 a Site entry, 2 a Column entry. -/
def firstStatus (log : List LogEntry) (site : Nat) : SiteStatus :=
  if (log.any fun e => e.site == site && e.kind == 1) then .retired
  else if (log.any fun e => e.site == site && e.kind == 2) then .talkative else .released
/-- A fuse command is signed by a key of the panel that is not revoked (spec/03 R42; log 4). -/
def fuseSigned (s : State) (cmd v sig : Nat) : Prop :=
  ∃ k, k < 8 ∧ s.head.revoked.getLsbD k = false ∧ Config.ed25519Ok (FMap.getD s.head.edKeys k 0) (leBytes v 4 ++ leBytes cmd 4) sig = true
/-- Is some powered site's report still out? -/
def reportsOut (s : State) : Prop := ∃ k, k < 72 ∧ ((s.site k).status = .released ∨ (s.site k).status = .tested)
/-- What power that comes and goes leaves (spec/03 R45, R47, R50): every unit at reset, fuses and flash kept. -/
def cold (s u : State) : Prop :=
  u.strands = [] ∧ u.tiles = [] ∧ u.cores = [] ∧ u.cols = [] ∧ u.quads = [] ∧ u.engines = [] ∧ u.jobs = [] ∧ u.queues = [] ∧ u.ports = [] ∧
    u.routers = [] ∧ u.sites = [] ∧ u.mem = [] ∧ u.sram = [] ∧ u.msgs = [] ∧ u.items = [] ∧ u.badLines = [] ∧ u.hostMem = s.hostMem ∧
    u.head.phase = 0 ∧ u.head.powered = false ∧ u.head.token = none ∧ u.head.nonces = [] ∧ u.head.remap = [] ∧
    u.head.serial = s.head.serial ∧ u.head.production = s.head.production ∧ u.head.secver = s.head.secver ∧
    u.head.revoked = s.head.revoked ∧ u.head.bootno = s.head.bootno ∧
    ∀ d, (u.die d).slotA = (s.die d).slotA ∧ (u.die d).slotB = (s.die d).slotB ∧ (u.die d).evbuf = [] ∧ (u.die d).booted = false

/-- The live sites of the same physical column in rows above site k's. -/
def liveAbove (s : State) (k : Nat) : Nat :=
  ((List.range 72).filter (fun j => j % 8 == k % 8 && decide (j < k) && (s.site j).status == .live)).length
/-- Logical tile t is bound to site k: remap state 1 with the site's row and column (spec/02 R32). -/
def boundTo (u : State) (t k : Nat) : Prop := FMap.get? u.head.remap t = some (.ofNat 16 (2 ^ 14 + k))
/-- The physical hops between site (t div 8, t mod 8) and site k. -/
def hopsFrom (t k : Nat) : Nat := ((t / 8 : Int) - (k / 8 : Nat)).natAbs + ((t % 8 : Int) - (k % 8 : Nat)).natAbs

end Sys2Proof.Said

/-- Spec/02 R31: the binder. With 64 or more live sites the grid has 8 rows, otherwise 7. The live sites of a physical column take the logical tiles of
that column from row 0 in ascending physical row. Each tile left takes, in ascending number, the nearest live site not taken, by hops, then
by row, then by column. No site is bound twice, no tile beyond the grid is bound, and the spares that remain lose their power. -/
def Sys2Proof.Said.binderBindsInOrder : Prop :=
  ∀ s : State, 56 ≤ (s.sitesIn .live).length →
    let u := s.bindGrid
    let rows := if 64 ≤ (s.sitesIn .live).length then 8 else 7
    let live := fun k => k < 72 ∧ (s.site k).status = .live
    let first := fun t k => live k ∧ Said.liveAbove s k < rows ∧ t = Said.liveAbove s k * 8 + k % 8
    (∀ t k, first t k → Said.boundTo u t k) ∧
    (∀ t, t < rows * 8 → (∀ k, ¬ first t k) → ∃ k, Said.boundTo u t k ∧ live k ∧
      ∀ k', live k' → (∀ t', Said.boundTo u t' k' → t ≤ t' ∧ ∀ x, ¬ first t' x) →
        Said.hopsFrom t k < Said.hopsFrom t k' ∨ (Said.hopsFrom t k = Said.hopsFrom t k' ∧ k ≤ k')) ∧
    (∀ t t' k, Said.boundTo u t k → Said.boundTo u t' k → t = t') ∧
    (∀ t, rows * 8 ≤ t → FMap.get? u.head.remap t = none) ∧
    (∀ k, live k → (∀ t, ¬ Said.boundTo u t k) → (u.site k).status = .unpowered)

/-- Spec/03 R41 to R45, R47, spec/02 R31, spec/01 R22: with power and flow each die boots from slot A or B or is held talkative; without North the boot ends with
ERR 1, without a usable log with ERR 2; otherwise every site that the log does not retire is released. A released site whose image
is accepted tests itself; its report makes it live, or failed and retired. The last report, or the timeout, binds the grid: below 56 live sites
ERR 3, otherwise phase Ready with epoch 1. -/
def Sys2Proof.Said.bringUpReachesReadyOrFails : Prop :=
  (∀ s : State, s.head.flow = false → Said.Runs .powerOn s s) ∧
  (∀ s : State, s.head.powered = false → s.head.flow = true → ∃ u, Said.Runs .powerOn s u ∧ u.head.powered = true ∧ u.head.bootno = s.head.bootno + 1 ∧
    (∀ d, d < 4 → match Said.bootImage s d with
      | some i => (u.die d).booted = true ∧ (u.die d).talkative = false ∧ (u.die d).measure = i.hash ∧ u.head.diefail.getLsbD d = false
      | none => (u.die d).booted = false ∧ (u.die d).talkative = true ∧ u.head.diefail.getLsbD d = true) ∧
    match Said.bootImage s 0, s.head.log.recover (s.head.bootno + 1) with
    | none, _ => u.head.err = 1 ∧ u.head.phase = 6
    | some _, none => u.head.err = 2 ∧ u.head.phase = 6
    | some _, some g => u.head.phase = 3 ∧ u.head.log = g ∧ ∀ k, k < 72 → (u.site k).status = Said.firstStatus g.inForce k) ∧
  (∀ (s : State) (k : Nat) (r : SelfTest) (i : Image), s.head.phase = 3 → (s.site k).status = .released → s.head.tileImage = some i →
    Said.Runs (.tileBoot k r) s (if s.imageOk i then s.putSite k ⟨.tested, some r, i.hash⟩ else s)) ∧
  (∀ (s : State) (k : Nat) (r : SelfTest), k < 72 → s.head.phase = 3 → (s.site k).status = .tested → (s.site k).report = some r →
    r.lanes = [] → (∀ c, c < 16 → laneFits (s.deadLanes k c) = true) → ∀ x,
    (Said.unretired s k ∧ x = .live) ∨ (¬ Said.unretired s k ∧ x = .failed) →
    let v := if r.pass then s.setSite k x else (s.logSelfTest 1 k 0 0).setSite k .failed
    let w := { v with head := { v.head with live := (v.sitesIn .live).length } }
    (Said.reportsOut w → Said.Runs (.selfTestReport k) s w) ∧ (¬ Said.reportsOut w → Said.Runs (.selfTestReport k) s w.bindGrid)) ∧
  (∀ s : State, s.head.phase = 3 → ∃ v, Said.Runs .bindTimeout s v.bindGrid ∧ (¬ Said.reportsOut s → v = s) ∧
    (∀ k, k < 72 → (v.site k).status = if (s.site k).status = .released ∨ (s.site k).status = .tested then .failed else (s.site k).status)) ∧
  (∀ s : State, let n := (s.sitesIn .live).length
    (n < 56 → s.bindGrid.head.err = 3 ∧ s.bindGrid.head.phase = 6 ∧ s.bindGrid.head.live = n) ∧
    (56 ≤ n → s.bindGrid.head.phase = 5 ∧ s.bindGrid.head.epoch = 1 ∧ s.bindGrid.head.live = n ∧ (s.bindGrid.head.grid7 = true ↔ n < 64)))

/-- Spec/03 R42, R44, R46, R47, R50: an attestation report begins with the nonce, the security state and the grid rows and ends with two
signatures over what comes before; a fuse command signed by a key that is not revoked raises the counter or blows the fuse of Production, and any other is refused; a reset and a loss of power leave fuses, flash, log
and boot count, close every tile and discard the token; an append torn by the loss leaves an entry that the next boot voids; the host may
power off a site or die in the safe talkative state, and ask it for its status, self-test and measurement (the form of those requests is
the model's choice: log 29). -/
def Sys2Proof.Said.resetKeepsFusesAndLog : Prop :=
  (∀ (s : State) (n : BitVec 256), s.head.powered = true → (s.die 0).booted = true → ∃ b, b.length = 0xD40 ∧
    Said.Runs (.attestationRequest n) s (s.reply (.bytes (b ++ leBytes (Config.ed25519Sign b) 64 ++ leBytes (Config.mldsaSign b) 3309))) ∧
    b.take 32 = leBytes n.toNat 32 ∧ (b.drop 32).take 2 = [if s.head.production then 1 else 0, if s.head.grid7 then 7 else 8] ∧
    (b.drop 34).take 14 = List.replicate 14 0 ∧
    (∀ d, d < 4 → (b.drop (0x30 + 48 * d)).take 48 = leBytes (s.die d).measure.toNat 48) ∧
    (b.drop 0xD08).take 8 = leBytes s.head.log.lastSeq 8) ∧
  (∀ (s : State) (cmd v sig : Nat), cmd < 2 ^ 32 → v < 2 ^ 32 → s.head.powered = true → (s.die 0).booted = true →
    let i := Instr.fuseCommand (cmd * 2 ^ 32 + v) sig
    (Said.fuseSigned s cmd v sig → cmd = 0 → Said.Runs i s
      ({ s with head := { s.head with secver := max s.head.secver v } }.reply (.status "Accepted"))) ∧
    (Said.fuseSigned s cmd v sig → cmd = 1 → Said.Runs i s ({ s with head := { s.head with production := true } }.reply (.status "Accepted"))) ∧
    (¬ Said.fuseSigned s cmd v sig ∨ 1 < cmd → Said.Runs i s (s.reply (.status "Refused")))) ∧
  (∀ s : State, ∃ u, Said.Runs .reset s u ∧ Said.cold s u ∧ u.head.log = s.head.log) ∧
  (∀ s : State, ∃ u, Said.Runs (.powerLoss false) s u ∧ Said.cold s u ∧ u.head.log = s.head.log) ∧
  (∀ s : State, s.head.powered = true → 3 ≤ s.head.phase → s.head.log.half ≠ [] → s.head.log.half.length < 1024 →
    ∃ u e, Said.Runs (.powerLoss true) s u ∧ Said.cold s u ∧ e.ok = false ∧ (voidTorn [e]).map (·.commit) = [0] ∧
      (u.head.log.half = s.head.log.half ++ [e] ∨ s.head.sealing = true ∧ u.head.log = ⟨[e], [], 0⟩) ∧
      (∀ x ∈ u.head.log.inForce, x ∈ s.head.log.inForce)) ∧
  (∀ (s : State) (k : Nat), k < 72 →
    ((s.site k).status = .talkative ∨ (s.site k).status = .failed → Said.Runs (.safeTalkativePowerOff k) s (s.putSite k Site.reset)) ∧
    ((s.site k).status = .live → Said.Runs (.safeTalkativePowerOff k) s s)) ∧
  (∀ (s : State) (d : Nat), d < 4 → (s.die d).talkative = true → (s.die d).off = false →
    Said.Runs (.safeTalkativePowerOff (72 + d)) s (s.putDie d { s.die d with off := true }) ∧
    Said.Runs (.safeTalkativePowerOff (76 * 3 + 72 + d)) s (s.reply (.bytes (leBytes (s.die d).measure.toNat 48)))) ∧
  (∀ (s : State) (k : Nat), k < 72 → (s.site k).status = .talkative ∨ (s.site k).status = .failed →
    Said.Runs (.safeTalkativePowerOff (76 + k)) s (s.reply (.status "SafeTalkative")) ∧
    (∀ r, (s.site k).report = some r → Said.Runs (.safeTalkativePowerOff (76 * 2 + k)) s (s.reply (.status (if r.pass then "Pass" else "Fail")))) ∧
    Said.Runs (.safeTalkativePowerOff (76 * 3 + k)) s (s.reply (.bytes (leBytes (s.site k).measure.toNat 48))))

/-- Spec/03 R41 to R52, spec/02 R31: bring-up from power to Ready, and RESET.
Choices of the model: log 3, 4, 6, 26, 29, 37. -/
def Obligations.BringUpAndReset : Prop :=
  Sys2Proof.Said.bringUpReachesReadyOrFails ∧ Sys2Proof.Said.binderBindsInOrder ∧ Sys2Proof.Said.resetKeepsFusesAndLog
namespace Sys2Proof.Said

/-- Every core of a tile goes on and no breakpoint is set (spec/03 R50). -/
def running (u : State) (t : Nat) : Prop :=
  ∀ k, k / 768 = t → (u.core k).halted = false ∧ (u.core k).hob = false
/-- The strands of a core's slots are Halted, or were before. -/
def haltsCore (s u : State) (k : Nat) : Prop :=
  (u.core k).halted = true ∧ (u.core k).bedCache = (s.core k).bedCache ∧
  (∀ h st, s.strand? h = some st → st.inSlot = true → st.coreKey = k →
    ∃ t, u.strand? h = some t ∧ t.status = .halted ∧ t.pcause = 0 ∧ t.wait = .none ∧ t.pc = st.pc ∧ t.g = st.g ∧ t.ss = st.ss) ∧
  (∀ h st, s.strand? h = some st → ¬ (st.inSlot = true ∧ st.coreKey = k) → u.strand? h = some st)
/-- ... and the strands of a core that resumes are Ready, but for those of a suspended job (spec/06 R102, spec/11 R219). -/
def resumesCore (s u : State) (k : Nat) : Prop :=
  (u.core k).halted = false ∧
  (∀ h st, s.strand? h = some st → st.status = .halted → st.coreKey = k → s.jobSuspended st.job = false →
    u.strand? h = some { st with status := .ready })
/-- An access moves an Idle tile to Run (spec/03 R51). -/
def woken (s : State) (t : Nat) : State :=
  if (s.tile t).pow.mode = .idle then s.putTile t { s.tile t with pow := { (s.tile t).pow with mode := .run } } else s
/-- A tile closes: no breakpoint of it is set, no core of it is halted, and the halted strands of its halted cores are Ready, but for those
of a suspended job. -/
def closes (s u : State) (t : Nat) : Prop :=
  (u.tile t).debug = .closed ∧ running u t ∧
  ∀ h st, s.strand? h = some st → st.status = .halted → st.coreKey / 768 = t → (s.core st.coreKey).halted = true → s.jobSuspended st.job = false →
    u.strand? h = some { st with status := .ready }
end Sys2Proof.Said

/-- Spec/03 R49 to R51: in Development a host command opens a tile, in Production it is refused; a challenge returns its nonce; an accepted token
opens the live tiles of its mask and uses its nonce up, and one that is not accepted changes nothing; Close and the end of the
token's duration clear breakpoints, resume halted cores and close the tiles. -/
def Sys2Proof.Said.debugOpensByCommandOrToken : Prop :=
  (∀ (s : State) (t : Nat), s.head.production = false → s.tileLive t = true → ∃ u, Said.Runs (.debugOpenCommand t) s u ∧
    (u.tile t).opened = true ∧ (u.tile t).debug ≠ .closed ∧ ((s.tile t).debug ≠ .closed → (u.tile t).debug = (s.tile t).debug) ∧
    ∀ k, k ≠ t → u.tile k = s.tile k) ∧
  (∀ (s : State) (t : Nat), s.head.production = true → Said.Runs (.debugOpenCommand t) s (s.reply (.status "Refused"))) ∧
  (∀ (s : State) (n : BitVec 256), s.head.powered = true → (s.die 0).booted = true → ∃ h, Said.Runs (.debugChallenge n) s
    ({ s with head := h }.reply (.bytes (leBytes n.toNat 32))) ∧ (n, (s.die 0).timer) ∈ h.nonces ∧ h.usedNonces = s.head.usedNonces ∧ h.token = s.head.token) ∧
  (∀ (s : State) (k : Token), s.head.powered = true → (s.die 0).booted = true → ∃ u, Said.Runs (.debugToken k) s u ∧
    (s.tokenOk k = true → u.head.token = some k ∧ k.nonce ∈ u.head.usedNonces ∧ u.head.tokenUntil = (s.die 0).timer + k.duration.toNat * 10 ^ 9 ∧
      (∀ t, t < 64 → k.mask.getLsbD t = true → s.tileLive t = true → (u.tile t).opened = true ∧ (u.tile t).debug ≠ .closed) ∧
      ∀ k0, s.head.token = some k0 → ∀ t, t < 64 → k0.mask.getLsbD t = true → k.mask.getLsbD t = false → s.tileLive t = true → Said.closes s u t) ∧
    (s.tokenOk k = false → u = s.reply (.status "Refused"))) ∧
  (∀ (s : State) (k : Token), s.head.powered = true → (s.die 0).booted = true →
    (k.serial ≠ s.head.serial ∨ k.nonce ∈ s.head.usedNonces ∨ (∀ n ∈ s.head.nonces, n.1 = k.nonce → n.2 + 60000000000 < (s.die 0).timer) ∨
      k.duration.toNat = 0 ∨ 86400 < k.duration.toNat ∨ 32 ≤ k.perms.toNat) →
    Said.Runs (.debugToken k) s (s.reply (.status "Refused"))) ∧
  (∀ (s : State) (n : BitVec 256) (k : Token), s.head.powered = false ∨ (s.die 0).booted = false →
    Said.Runs (.debugChallenge n) s s ∧ Said.Runs (.debugToken k) s s) ∧
  (∀ (s : State) (m : BitVec 64), ∃ u, Said.Runs (.debugClose m) s u ∧
    ∀ t, t < 64 → s.tileLive t = true → if m.getLsbD t = true then Said.closes s u t else u.tile t = s.tile t) ∧
  (∀ (s : State) (k : Token), s.head.token = some k → s.head.tokenUntil ≤ (s.die 0).timer → ∃ u, Said.Runs .debugTokenExpire s u ∧
    u.head.token = none ∧ ∀ t, t < 64 → k.mask.getLsbD t = true → s.tileLive t = true → Said.closes s u t)

/-- Spec/11 R228 to R230, spec/03 R51: a halt request on an open tile makes the strands of the core's slots Halted and raises DebugHalt with
the group, a message going to each running member of the group on an open tile, also from a core that is halted already; a request to a
core without a group that is halted changes nothing; a request to a tile in Retain or Off is refused; a resume makes them Ready. A debugger's write of a g or x register of the selected slot is stored; its memory accesses are those of the host window,
all-ones and discarded where they are not permitted, and move an Idle tile to Run, as a resume request does. Without power or North
nothing answers. -/
def Sys2Proof.Said.haltStopsACore : Prop :=
  (∀ (s : State) (t c : Nat), c < 768 → s.tileUp t = true → s.tileLive t = true → (s.tile t).debug ≠ .closed → s.head.production = false →
    (s.core (coreKey t c)).halted = false → (s.core (coreKey t c)).group = 0 → (s.tile t).pow.mode = .run →
    ∃ v, Said.Runs (.dbgHaltRequest t c) s (v.raiseMain 0x50 t 0) ∧ Said.haltsCore s v (coreKey t c) ∧ (v.tile t).debug = .halting) ∧
  (∀ (s : State) (t c g : Nat), c < 768 → s.tileUp t = true → s.tileLive t = true → (s.tile t).debug ≠ .closed → s.head.production = false →
    (s.core (coreKey t c)).halted = true → (s.core (coreKey t c)).group = g → (s.tile t).pow.mode = .run →
    (g = 0 → Said.Runs (.dbgHaltRequest t c) s s) ∧
    (∀ j, g ≠ 0 → j ≠ coreKey t c → (s.core j).group = g → (s.core j).halted = false → (s.tile (j / 768)).debug ≠ .closed →
      (∀ kv ∈ s.msgs, kv.2 ≠ .halt j false) → ∃ v : State, Said.Runs (.dbgHaltRequest t c) s (v.raiseMain 0x50 t g) ∧
        (∃ id, FMap.get? v.msgs id = some (.halt j false)) ∧ v.strands = s.strands ∧ v.cores = s.cores)) ∧
  (∀ (s : State) (t c : Nat), c < 768 → s.tileLive t = true → s.tileUp t = false →
    Said.Runs (.dbgHaltRequest t c) s (s.reply (.status "Refused"))) ∧
  (∀ (s : State) (t c : Nat), c < 768 → s.tileUp t = true → (s.tile t).debug ≠ .closed → s.head.production = false →
    (s.core (coreKey t c)).group = 0 → ∃ u, Said.Runs (.dbgResumeRequest t c) s u ∧ Said.resumesCore s u (coreKey t c) ∧ (u.tile t).pow.mode = ((Said.woken s t).tile t).pow.mode) ∧
  (∀ (s : State) (n k : Nat) (r : Bool), s.msg? n = some (.halt k r) → (s.tile (k / 768)).debug ≠ .closed → s.tileUp (k / 768) = true →
    (s.tile (k / 768)).pow.mode = .run → (s.core k).halted = r → ∃ u, Said.Runs (.haltPropagate n) s u ∧ u.msgs = FMap.erase s.msgs n ∧
      (r = true → Said.resumesCore s u k) ∧ (r = false → Said.haltsCore s u k)) ∧
  (∀ (s : State) (t off : Nat) (v : Word) (st : Strand), s.selected t = some st → s.tileUp t = true → s.debugMay t 2 = true → off % 8 = 0 →
    (∀ r : GReg, off = 64 + 8 * r.toNat → Said.Runs (.debugImageWrite t off v) s (s.bump.putStrand (st.setG r v))) ∧
    (∀ r, r < 8 → off = 192 + 8 * r → Said.Runs (.debugImageWrite t off v) s (s.bump.putStrand (st.setX r v))) ∧
    (512 ≤ off → Said.Runs (.debugImageWrite t off v) s s)) ∧
  (∀ (s : State) (t pa len : Nat), (s.tileUp t = false ∨ s.debugMay t 3 = false ∨ s.debugMay (pa / 2 ^ 36) 3 = false ∨ s.paOk pa len = false) →
    Said.Runs (.debugMemoryRead t pa len) s (s.reply (.bytes (List.replicate len 0xFF)))) ∧
  (∀ (s : State) (t pa len : Nat), s.tileUp t = true → s.debugMay t 3 = true → s.debugMay (pa / 2 ^ 36) 3 = true → s.paOk pa len = true →
    let v := Said.woken (Said.woken s t) (pa / 2 ^ 36)
    (s.waitsPhys pa len = true → Said.Runs (.debugMemoryRead t pa len) s s) ∧
    (s.waitsPhys pa len = false → inContextStore pa = true → s.head.production = true ∨ s.badAt pa len = false →
      Said.Runs (.debugMemoryRead t pa len) s (v.bump.reply
        (.bytes (if s.head.production then List.replicate len 0xFF else s.storeBytes pa len)))) ∧
    (s.waitsPhys pa len = false → inContextStore pa = true → s.head.production = false → s.badAt pa len = true →
      Said.Runs (.debugMemoryRead t pa len) s ((v.logError (pa / 2 ^ 36) 8 true pa 0 0).bump.reply .abort)) ∧
    (s.waitsPhys pa len = false → inContextStore pa = false → Said.Runs (.debugMemoryRead t pa len) s (match (v.physRead pa len).2 with
      | some x => (v.physRead pa len).1.reply (.bytes (leBytes x len))
      | none => (v.physRead pa len).1.reply .abort))) ∧
  (∀ (s : State) (t pa : Nat) (b : List Byte),
    ((s.tileUp t = false ∨ s.debugMay t 4 = false ∨ s.debugMay (pa / 2 ^ 36) 4 = false ∨ s.paOk pa b.length = false) →
      Said.Runs (.debugMemoryWrite t pa b) s s) ∧
    (s.tileUp t = true → s.debugMay t 4 = true → s.debugMay (pa / 2 ^ 36) 4 = true → s.paOk pa b.length = true → s.waitsPhys pa b.length = false →
      let v := Said.woken (Said.woken s t) (pa / 2 ^ 36)
      Said.Runs (.debugMemoryWrite t pa b) s (if inContextStore pa then v else (v.physWrite pa b).1)))

/-- Spec/03 R49 to R51, spec/11 R228 to R230: opening and closing debug access, halts and debugger accesses.
Choices of the model: log 28, 37. -/
def Obligations.DebugAccessAndHalts : Prop :=
  Sys2Proof.Said.debugOpensByCommandOrToken ∧ Sys2Proof.Said.haltStopsACore
namespace Sys2Proof.Said

/-- No tile is bound to a number in a bank of a router: Unbound or Vacant; an I/O die always is there (spec/02 R32). -/
def noTile (x : Router) (bank d : Nat) : Prop := d < 64 ∧ (remapState (x.remapAt bank d) = 0 ∨ remapState (x.remapAt bank d) = 3)
/-- A flit that is injected again, on the adaptive channel with the parity of the active bank (spec/02 R37). -/
def anew (x : Router) (f : Flit) : Flit := { f with parity := x.active, escape := false, up := true }
/-- An old flit whose tile is Forwarding in the active bank is injected again (spec/02 R37). -/
def taken (x : Router) (f : Flit) : Flit :=
  if f.dst < 64 ∧ f.parity ≠ x.active ∧ remapState (x.remapAt x.active f.dst) = 2 then anew x f else f
/-- The error response to a flit (spec/02 R32). -/
def errorTo (x : Router) (f : Flit) : Flit := ⟨f.id, f.dst, f.src, 1, false, true, x.active, f.inp⟩
/-- The link status at a router's port. -/
def lstate (s : State) (r p : Nat) : Nat := ((s.router r).port p).lstate
/-- A link is Up at both its ends. -/
def carries (s : State) (r p : Nat) : Prop := ∃ q k, linkPeer r p = some (q, k) ∧ lstate s r p = 2 ∧ lstate s q k = 2
/-- The link at a port is Down or Disabled at an end of it, or there is none. -/
def cut (s : State) (r p : Nat) : Prop :=
  ∀ q k, linkPeer r p = some (q, k) → (lstate s r p ≠ 1 ∧ lstate s r p ≠ 2) ∨ (lstate s q k ≠ 1 ∧ lstate s q k ≠ 2)
/-- A router's tables have no port left for a flit but those of cut links, neither on its channel nor on the escape channel, on which it
would begin in phase up (spec/02 R29, R35). -/
def noWay (s : State) (r : Nat) (f : Flit) : Prop :=
  let x := s.router r
  let esc := { f with escape := true, up := f.up || !f.escape }
  (f.escape = false → ∀ e ∈ x.named f, ∃ p, e = some p ∧ cut s r p) ∧ (∀ e ∈ x.named esc, ∃ p, e = some p ∧ cut s r p) ∧ x.misroutes esc = false
/-- What a router makes of a flit that it takes up: one for a tile that has moved from here follows it (spec/02 R37), and an old one with no
way left takes the new tables, on its channel (R35; log 5). -/
def heldAs (s : State) (r : Nat) (f g : Flit) : Prop :=
  let x := s.router r
  let h := taken x f
  (h.parity ≠ x.active → noWay s r h → g = { h with parity := x.active, up := true }) ∧ (h.parity = x.active ∨ ¬ noWay s r h → g = h)
/-- The flits that then stand there for it: itself; or the error response where its tile is not bound; or nothing, where it is a response
itself or nobody is there to be told (spec/02 R32; log 37). -/
def putsIn (s : State) (r : Nat) (f : Flit) (l : List Flit) : Prop :=
  let x := s.router r
  ∃ g, heldAs s r f g ∧ (¬ noTile x g.parity g.dst → l = [g]) ∧
    (noTile x g.parity g.dst → f.cls ≠ 1 → ¬ noTile x x.active f.src → l = [errorTo x f]) ∧
    (noTile x g.parity g.dst → f.cls = 1 ∨ noTile x x.active f.src → l = [])
/-- A router takes up a list of flits. -/
def putsAll (s : State) (r : Nat) (l m : List Flit) : Prop := ∃ ls, List.Forall₂ (putsIn s r) l ls ∧ m = ls.flatten
/-- Every route entry of a router, of both banks, has a bit of AMASK clear. -/
def maskedOut (s : State) (r p : Nat) : Prop := ∀ kv ∈ (s.router r).route, kv.2.getLsbD p = false
/-- The way that a flit takes: ejection, or among its exits the port with the most credits, the first of them among equals (spec/02 R29). -/
def takes (s : State) (r : Nat) (f : Flit) (e : Option Nat) : Prop :=
  e ∈ s.exits r f ∧ (none ∈ s.exits r f → e = none) ∧
  ∀ p, e = some p → 0 < s.credits r p f.channel ∧ ∀ q, some q ∈ s.exits r f → s.credits r q f.channel ≤ s.credits r p f.channel ∧
    (s.credits r q f.channel = s.credits r p f.channel → (s.exits r f).idxOf (some p) ≤ (s.exits r f).idxOf (some q))
/-- The turn of a class at an output port: class 0, class 1, then the others in turn after the one served last (spec/02 R27). -/
def turn (x : Router) (e : Option Nat) (cls : Nat) : Nat :=
  if cls ≤ 1 then cls else 2 + (cls + 4 - FMap.getD x.rr (e.getD 4) 6) % 5
/-- A message loses a flit, and with it all. -/
def lostIn (s u : State) (id : Nat) : Prop := ∀ x, FMap.get? s.transit id = some x → FMap.get? u.transit id = some { x with lost := true }

end Sys2Proof.Said

/-- Spec/02 R23, R25, R27 to R29, R32, R37, spec/11 R221: over a link that is Up a flit with a good CRC comes to stand in the router; one for a tile
that is not bound becomes an error response to its source, or is dropped where it is a response (log 37); one with a bad CRC is counted,
logged and sent again. Messages enter the
mesh flit by flit, with the parity of the active bank, as their virtual channel has room. A flit leaves by the exit with the most credits, class
0 first, then class 1, then the others in turn; one with an invalid port code is discarded as a routing error; without a credit, or a port that
is Up, it moves to the escape channel. -/
def Sys2Proof.Said.flitsFollowTheTables : Prop :=
  (∀ (s : State) (r p : Nat) (f : Flit) (l : List Flit), p ≠ 4 → FMap.getD (s.router r).wire p [] = f :: l →
    let x := s.router r
    (Said.carries s r p → ∃ u m, Said.Runs (.flitArrival r p true) s u ∧ Said.putsIn s r { f with inp := p } m ∧ (u.router r).buf = x.buf ++ m ∧
      FMap.getD (u.router r).wire p [] = l ∧ (m ≠ [] → (u.router r).dropped = x.dropped ∧ u.transit = s.transit) ∧
      (m = [] → (u.router r).dropped = x.dropped + 1 ∧ Said.lostIn s u f.id)) ∧
    (∀ q k, linkPeer r p = some (q, k) → q ≠ r → Said.carries s r p → ∃ u, Said.Runs (.flitArrival r p false) s u ∧
      FMap.getD (u.router r).wire p [] = f :: l ∧ (u.router r).buf = x.buf ∧
      ((u.router r).port p).crcerr = min ((x.port p).crcerr + 1) 255 ∧
      ((u.router q).port k).retries = min (((s.router q).port k).retries + 1) 255 ∧
      ∀ t, s.tileAt r = some t → (u.tile t).elogcnt = ((s.tile t).elogcnt + 1) % 2 ^ 32) ∧
    (∀ c, ¬ Said.carries s r p → Said.Runs (.flitArrival r p c) s s)) ∧
  (∀ (s : State) (r id n d : Nat) (t : Transit) (m : Msg), s.nodeOf r = some n → (s.router r).serves r n = true → s.transit = [(id, t)] → t.src = n →
    t.lost = false → t.sent < t.flits → FMap.get? s.msgs id = some m → s.msgDest m = some d →
    let x := s.router r
    let room := x.held 4 (2 * m.trafficClass) < x.slots
    (room → n < 64 ∨ m.trafficClass = 0 ∨ s.dieWorks (n - 64) = true → ¬ Said.noTile x x.active d →
      ∃ u, Said.Runs (.flitArrival r 4 true) s u ∧ (u.router r).buf = x.buf ++ [⟨id, n, d, m.trafficClass, false, true, x.active, 4⟩] ∧
        u.msgs = s.msgs ∧ u.transit = [(id, { t with sent := t.sent + 1 })]) ∧
    (¬ room ∨ (64 ≤ n ∧ m.trafficClass ≠ 0 ∧ s.dieWorks (n - 64) = false) → Said.Runs (.flitArrival r 4 true) s s)) ∧
  (∀ (s : State) (r p q k : Nat) (f : Flit) (l : List Flit), linkPeer r p = some (q, k) → Said.carries s r p → FMap.getD (s.router r).retry p [] = f :: l →
    (FMap.getD (s.router q).wire k []).length ≤ l.length → ∃ u, Said.Runs (.flitAck r p) s u ∧ FMap.getD (u.router r).retry p [] = l) ∧
  (∀ (s : State) (r k : Nat) (f : Flit), (s.router r).buf[k]? = some f →
    let x := s.router r
    (s.misrouted r f = true → ∃ u, Said.Runs (.flitForward r k) s u ∧ (u.router r).buf = x.buf.eraseIdx k ∧
      (u.router r).dropped = x.dropped + 1 ∧ (u.router r).routeErrs = x.routeErrs + 1 ∧ Said.lostIn s u f.id) ∧
    (∀ e, s.misrouted r f = false → Said.takes s r f e →
      ((∃ j g, j ≠ k ∧ x.buf[j]? = some g ∧ Said.takes s r g e ∧ Said.turn x e g.cls < Said.turn x e f.cls) → Said.Runs (.flitForward r k) s s) ∧
      ((∀ g ∈ x.buf, Said.turn x e f.cls ≤ Said.turn x e g.cls) → ∃ u, Said.Runs (.flitForward r k) s u ∧
        (2 ≤ f.cls → FMap.getD (u.router r).rr (e.getD 4) 6 = f.cls) ∧
        (e = none → (∀ n j, FMap.get? s.msgs f.id ≠ some (.launchRec n j)) → (u.router r).buf = x.buf.eraseIdx k ∧
          ∀ t, FMap.get? s.transit f.id = some t → FMap.get? u.transit f.id = some { t with got := t.got + 1 }) ∧
        ∀ p q j, e = some p → linkPeer r p = some (q, j) → q ≠ r → ∃ b, (u.router r).buf = x.buf.eraseIdx k ∧ u.transit = s.transit ∧
          FMap.getD (u.router r).retry p [] = FMap.getD x.retry p [] ++ [f] ∧
          FMap.getD (u.router q).wire j [] = FMap.getD (s.router q).wire j [] ++ [{ f with up := b }] ∧
          (b = true → f.up = true) ∧ (f.escape = false → b = f.up)))) ∧
  (∀ (s : State) (r k : Nat) (f : Flit), (s.router r).buf[k]? = some f → f.escape = false → none ∉ s.exits r f →
    ((∀ p, some p ∈ s.exits r f → s.credits r p f.channel = 0) →
      ∃ u, Said.Runs (.escapeTimeout r k) s u ∧ (u.router r).buf = (s.router r).buf.set k { f with escape := true, up := true }) ∧
    (∀ p, some p ∈ s.exits r f → 0 < s.credits r p f.channel → Said.Runs (.escapeTimeout r k) s s))

/-- Spec/02 R23, R24, R35: a link whose flits are not acknowledged trains, at both ends, then is Up, or Down: undelivered flits wait at their
sender again, the port is cleared from AMASK, LinkDown is raised, an update begins, and a tile that loses every path is lost. A
gardener's disabling of a port does the same but raises nothing, until it lets the link train again (the event's form: log 29). -/
def Sys2Proof.Said.linksTrainAndGoDown : Prop :=
  ∀ (s : State) (r p q k : Nat), linkPeer r p = some (q, k) → q ≠ r →
    let sent := FMap.getD (s.router r).retry p []
    let back := sent.drop (sent.length - (FMap.getD (s.router q).wire k []).length)
    let stops : State → Nat → Prop := fun v n =>
      Said.lstate v r p = n ∧ Said.lstate v q k = n ∧ (r < 72 → p < 4 → Said.maskedOut v r p) ∧
      FMap.getD (v.router r).retry p [] = [] ∧ FMap.getD (v.router q).wire k [] = [] ∧ Said.putsAll v r ((s.router r).buf ++ back) (v.router r).buf
    let sorts := FMap.sorted (s.router r).retry = true ∧ FMap.sorted (s.router q).wire = true
    (Said.lstate s r p = 2 → sent ≠ [] → ∃ u, Said.Runs (.linkAckTimeout r p) s u ∧
      Said.lstate u r p = 1 ∧ Said.lstate u q k = 1 ∧ (u.router r).retry = (s.router r).retry) ∧
    (Said.lstate s r p = 1 →
      (∃ u, Said.Runs (.linkTrained r p) s u ∧ Said.lstate u r p = 2 ∧ Said.lstate u q k = 2) ∧
      (sorts → ∃ v u : State, Said.Runs (.linkRetrainTimeout r p) s (u.cutOff s.reached) ∧ stops v 0 ∧
        u = ((v.raiseMain 0x20 ((s.tileAt r).getD 0) (r * 16 + p)).linkLog r true).startUpdate ∧ u.head.update.isSome = true)) ∧
    (¬ Said.cut s r p → sorts → ∃ v : State, Said.Runs (.scaleUpPortLinkChange (r + 4) p 3) s (v.startUpdate.cutOff s.reached) ∧ stops v 3) ∧
    (Said.lstate s r p = 3 → ∃ v : State, Said.Runs (.scaleUpPortLinkChange (r + 4) p 1) s v.startUpdate ∧
      Said.lstate v r p = 1 ∧ Said.lstate v q k = 1)

/-- Spec/02 R34: a gardener that receives an update writes both tables into the inactive bank, its own tile's entry giving the ejection
port, no flit's route changing, and acknowledges; with the last acknowledgement Commit goes out to every router. -/
def Sys2Proof.Said.updatesReachTheGardeners : Prop :=
  (∀ (s : State) (r : Nat) (u : TableUpdate), s.head.update = some u → r ∈ u.nodes → r ∉ u.received → (∃ id, (id, Msg.tableUpdate r) ∈ s.msgs) →
    let x := s.router r
    let b := 1 - x.active
    FMap.sorted x.remap = true → FMap.sorted x.route = true → FMap.sorted x.io = true → FMap.sorted u.remap = true → (∀ kv ∈ u.remap, kv.1 < 64) →
    ∃ v : State, Said.Runs (.tableUpdateReceive r) s v ∧ v.head = { s.head with update := some { u with received := u.received ++ [r] } } ∧
      (∃ n, FMap.get? v.msgs n = some (.tableAck r)) ∧
      (v.router r).active = x.active ∧ (v.router r).epoch = x.epoch ∧ (v.router r).buf = x.buf ∧
      (∀ q, q ≠ r → v.router q = s.router q) ∧
      (s.head.retire = none → ∀ t, t < 64 → (v.router r).remapAt b t = FMap.getD u.remap t 0) ∧
      (∀ y, s.head.retire = some y → y.oldSite = r → y.copied = true → y.tile < 64 → remapState ((v.router r).remapAt b y.tile) = 2 ∧
        ∀ t, t < 64 → t ≠ y.tile → (v.router r).remapAt b t = FMap.getD u.remap t 0) ∧
      (∀ d, d < 128 → (v.router r).routeAt b d = FMap.getD (routesOf u.links u.remap u.nodes r).table d 0) ∧
      (∀ t, t < 64 → r < 72 → FMap.get? u.remap t = some (remapEntry 1 r) → (v.router r).routeAt b t = routeEntry 4 4 16) ∧
      (∀ t, t < 64 → (v.router r).remapAt x.active t = x.remapAt x.active t) ∧ (∀ d, d < 128 → (v.router r).routeAt x.active d = x.routeAt x.active d) ∧
      ∀ f, f.parity = x.active → f.dst < 68 → v.exits r f = s.exits r f) ∧
  (∀ (s : State) (r : Nat), (∀ id, (id, Msg.tableUpdate r) ∉ s.msgs) → Said.Runs (.tableUpdateReceive r) s s) ∧
  (∀ (s : State) (r : Nat) (u : TableUpdate), s.head.update = some u → r ∈ u.received → r ∉ u.acked → (∃ id, (id, Msg.tableAck r) ∈ s.msgs) →
    ∃ v w, Said.Runs (.tableAck r) s v ∧ v.head = { s.head with update := some w } ∧ w.acked = u.acked ++ [r] ∧
      (w.committing = true ↔ ∀ q ∈ u.nodes, q ∈ u.acked ∨ q = r) ∧ w.epoch = u.epoch ∧ w.nodes = u.nodes ∧ w.committed = u.committed ∧
      (w.committing = true → u.committing = false → ∀ q ∈ u.nodes, ∃ n, FMap.get? v.msgs n = some (.tableCommit q)))

/-- Spec/02 R30, R33 to R35, R37: an update sends both tables' ground to every router of the mesh, with an epoch one higher. A commit flips
ACTIVE and takes the epoch, the flits that stand there keeping their bank but those whose tile has moved away, or that have no way
left; a port whose link is cut is cleared from the new tables; once every router has committed and none holds a flit of the old
parity, the old bank is released, and a further update may start. -/
def Sys2Proof.Said.tablesChangeByTheProtocol : Prop :=
  (∀ (s : State) (r : Nat) (u : TableUpdate), s.head.update = some u → u.committing = true → r ∈ u.nodes → r ∉ u.committed →
    (∃ id, (id, Msg.tableCommit r) ∈ s.msgs) →
    let x := s.router r
    let n := 1 - x.active
    ∃ v : State, Said.Runs (.tableCommit r) s v ∧ (v.router r).active = n ∧ (v.router r).epoch = u.epoch ∧ (v.router r).remap = x.remap ∧
      Said.putsAll v r x.buf (v.router r).buf ∧ (∀ p, p < 4 → r < 72 → (linkPeer r p).isSome = true → Said.cut s r p → Said.maskedOut v r p) ∧
      (∀ q, q ≠ r → v.router q = s.router q) ∧ v.head.update = some { u with committed := u.committed ++ [r] } ∧
      ((∀ q ∈ u.nodes, q ∈ u.committed ∨ q = r) → v.head.epoch = u.epoch)) ∧
  (∀ (s : State) (u : TableUpdate), s.head.update = some u → (∀ q ∈ u.nodes, q ∈ u.committed) →
    ((∀ q ∈ u.nodes, ∀ f ∈ (s.router q).buf, f.parity = (s.router q).active) →
      (∀ q ∈ u.nodes, ∀ kv ∈ (s.router q).wire, ∀ f ∈ kv.2, f.parity = (s.router q).active) →
      (s.head.stale = false → Said.Runs .oldBankRelease s { s with head := { s.head with update := none, epoch := u.epoch } }) ∧
      (s.head.stale = true → ∃ v w, Said.Runs .oldBankRelease s v ∧ v.head.update = some w ∧ w.epoch = (u.epoch + 1) % 65536 ∧
        w.remap = s.head.remap ∧ w.received = [] ∧ w.acked = [] ∧ w.committed = [] ∧
        ∀ q ∈ w.nodes, ∃ n, FMap.get? v.msgs n = some (.tableUpdate q))) ∧
    (∀ q f, q ∈ u.nodes → f ∈ (s.router q).buf → f.parity ≠ (s.router q).active → Said.Runs .oldBankRelease s s))

/-- Spec/02 R23 to R35, R37: flits, links, and the change of the routing tables.
Choices of the model: log 3, 5, 29, 37. -/
def Obligations.MeshMovesFlitsAndChangesTables : Prop :=
  Sys2Proof.Said.flitsFollowTheTables ∧ Sys2Proof.Said.linksTrainAndGoDown ∧ Sys2Proof.Said.updatesReachTheGardeners ∧
    Sys2Proof.Said.tablesChangeByTheProtocol
/-- Spec/02 R31, R37: Retire fails with Busy while a job that touches the tile is not pre-empted, and with NoSpare without a spare;
otherwise the nearest spare is powered and tested and the copy begins. When it is done the tile's remap entry names the new site and
an update begins, a tile that was Off running there (the model's choice: log 27); at the end of the grace period, once nothing stands at the
old site and the update is over, the old site is retired, its retirement is logged, and RetireDone names the new site. -/
def Sys2Proof.Said.retireMovesATile : Prop :=
  (∀ (s : State) (t old grace : Nat) (res : SelfTest), s.siteOf t = some old → s.tileLive t = true → grace ≤ 10000 →
    (s.retireBusy t = true → Said.Runs (.retire t grace res) s (s.reply (.status "Busy"))) ∧
    (s.retireBusy t = false → s.head.retire = none →
      (s.spares = [] → Said.Runs (.retire t grace res) s (s.reply (.status "NoSpare"))) ∧
      (∀ k i, nearest old s.spares = some k → s.head.tileImage = some i → res.pass = true → res.lanes = [] →
        (∀ c, c < 16 → laneFits (s.deadLanes k c) = true) → ∃ u, Said.Runs (.retire t grace res) s u ∧
          (s.imageOk i = true → u.head.retire = some ⟨t, old, k, grace, false⟩ ∧ (u.site k).status = .live ∧ u.head.remap = s.head.remap)))) ∧
  (∀ (place k : Nat) (l : List Nat), nearest place l = some k → k ∈ l ∧ ∀ j ∈ l, hops place k ≤ hops place j) ∧
  (∀ (s : State) (r : Retirement), s.head.retire = some r → r.copied = false → ∃ u, Said.Runs .retireCopyDone s u ∧
    u.head.retire = some { r with copied := true } ∧ u.head.remap = FMap.set s.head.remap r.tile (remapEntry 1 r.newSite) ∧
    u.head.update.isSome = true ∧
    (u.tile r.tile).pow.mode = (if (s.tile r.tile).pow.mode = .off then .run else (s.tile r.tile).pow.mode)) ∧
  (∀ (s : State) (r : Retirement), s.head.retire = some r → s.head.update ≠ none ∨ (s.router r.oldSite).buf ≠ [] →
    Said.Runs .retireGraceEnd s s) ∧
  (∀ (s : State) (r : Retirement), s.head.retire = some r → r.copied = true → s.head.update = none → (s.router r.oldSite).buf = [] →
    (∀ kv ∈ (s.router r.oldSite).wire, kv.2 = []) → (∀ kv ∈ (s.router r.oldSite).retry, kv.2 = []) → ∃ (u : State) (e : LogEntry),
    Said.Runs .retireGraceEnd s (u.raiseMain 0x22 r.tile r.newSite) ∧ u.head.retire = none ∧
    (u.site r.oldSite).status = .retired ∧ e ∈ u.head.log.half ∧ e.kind = 1 ∧ e.site = r.oldSite ∧ e.ok = true ∧
    u.head.update.isSome = true)

/-- Spec/02 R38, spec/11 R224, R225: a lost tile is marked Vacant and loses everything; a LossNotice goes to every other live tile, whose
docks begin to wait and whose lead gardener asks for counts. When the wait ends, a migration sent before the notice and not answered is a
lost strand, and a posted store fails, also one whose acknowledgement comes later, to be discarded and counted. A tile that the loss
leaves without a path is lost too. -/
def Sys2Proof.Said.lossIsNoticedAndResolved : Prop :=
  (∀ (s : State) (t site : Nat), s.mem.wf = true → Said.keyed s → s.siteOf t = some site → s.tileLive t = true →
    ∃ u : State, Said.Runs (.tileLoss t) s (u.cutOff s.reached) ∧ Said.lostAll s u t ∧ (u.site site).status = .failed ∧ t ∈ u.head.lost ∧
    FMap.get? u.head.remap t = some (remapEntry 3 site) ∧ u.head.update.isSome = true ∧
    (∀ k, k < 64 → k ≠ t → s.tileLive k = true → ∃ n, FMap.get? u.msgs n = some (.lossNote k t)) ∧
    (u.head.retire = none → (∀ n j, n < 64 → u.siteOf n = some j → (FMap.get? u.reached j).isSome = true) → u.cutOff s.reached = u)) ∧
  (∀ (s : State) (t lost : Nat), (∃ n, (n, Msg.lossNote t lost) ∈ s.msgs ∧ s.landed n = true) → ∃ u, Said.Runs (.lossNotice t lost) s u ∧
    (∀ c, c < 16 → ∃ n, (colKey t c, lost, n) ∈ u.head.waits) ∧
    ∀ k j, s.job? k = some j → u.job? k = some { j with asked := j.asked || (j.handle / 1024 == t && j.state != .pending) }) ∧
  (∀ (s : State) (t c lost n id : Nat), s.head.waits = [(colKey t c, lost, n)] → id < n →
    (∀ h dest p st j, s.msgs = [(id, .migrate h dest p)] → s.strand? h = some st → st.colKey = colKey t c → st.handle = h →
      (s.col st.dest).refusals = [] →
      s.job? st.job = some j → j.handle = st.job → ∃ u, Said.Runs (.lossWaitExpire t c lost) s u ∧ u.head.waits = [] ∧ u.msgs = [] ∧
        u.strands = FMap.erase s.strands h.toNat ∧ u.job? st.job = some { j with lostKnown := j.lostKnown ++ [h], asked := true }) ∧
    (∀ b a va key bed off kind sp item it st, s.msgs = [(id, .posted (.bytes b) a va (.column key bed off kind sp) item)] →
      FMap.get? s.items item = some it → s.strand? it.handle = some st → st.colKey = colKey t c →
      ∃ u, Said.Runs (.lossWaitExpire t c lost) s u ∧ u.msgs = [] ∧ FMap.get? u.items item = some { it with failed := true } ∧ u.mem = s.mem) ∧
    (∀ item ok it st, s.msgs = [(id, .postedAck item ok)] → s.landed id = false → s.isLost id = false →
      FMap.get? s.items item = some it → s.strand? it.handle = some st → st.colKey = colKey t c →
      ∃ u, Said.Runs (.lossWaitExpire t c lost) s u ∧ u.msgs = [(id, .lateAns (colKey t c))] ∧ FMap.get? u.items item = some { it with failed := true })) ∧
  (∀ (s : State) (id key : Nat), s.msg? id = some (.lateAns key) → ∃ u, Said.Runs (.postedStoreAck id) s u ∧ u.msgs = FMap.erase s.msgs id ∧
    (u.col key).late = (s.col key).late + 1 ∧ u.items = s.items) ∧
  (∀ (s : State) (t c lost : Nat), s.head.waits = [] → Said.Runs (.lossWaitExpire t c lost) s s)

/-- Spec/02 R35, R37, R38: when links have gone Down or routers failed, each live tile that the head gardener reached before over links that
are not Down, and reaches no longer, is marked Vacant, is known as lost, its site failed, and an update begins; the last such tile, where it
is the only one, loses everything, and every other live tile hears of it. The old site of a copied retirement that is so cut off fails, its
flits are lost, and every live tile hears of that. -/
def Sys2Proof.Said.unreachedTilesAreLost : Prop :=
  (∀ (s : State) (before : FMap Nat) (t k : Nat), FMap.sorted before = true → t < 64 → s.siteOf t = some k → s.tileLive t = true →
    (FMap.get? before k).isSome = true → FMap.get? s.reached k = none →
    FMap.get? (s.cutOff before).head.remap t = some (remapEntry 3 k) ∧ t ∈ (s.cutOff before).head.lost ∧
    ((s.cutOff before).site k).status = .failed ∧ (s.cutOff before).head.update.isSome = true ∧
    (s.mem.wf = true → Said.keyed s → s.head.retire = none → (∀ n j, n < 64 → n ≠ t → s.siteOf n = some j → (FMap.get? s.reached j).isSome = true) →
      Said.lostAll s (s.cutOff before) t ∧
      ∀ n, n < 64 → n ≠ t → s.tileLive n = true → ∃ i, FMap.get? (s.cutOff before).msgs i = some (.lossNote n t))) ∧
  (∀ (s : State) (before : FMap Nat), s.head.retire = none →
    (∀ n j, n < 64 → s.siteOf n = some j → s.tileLive n = true → (FMap.get? s.reached j).isSome = true) → s.cutOff before = s) ∧
  (∀ (s : State) (before : FMap Nat) (r : Retirement), FMap.sorted before = true → s.head.retire = some r → r.copied = true → r.oldSite < 72 →
    (FMap.get? before r.oldSite).isSome = true → FMap.get? s.reached r.oldSite = none →
    (∀ n j, n < 64 → s.siteOf n = some j → (FMap.get? s.reached j).isSome = true) →
    ((s.cutOff before).site r.oldSite).status = .failed ∧ ((s.cutOff before).router r.oldSite).buf = [] ∧
    ∀ n, n < 64 → s.tileLive n = true → ∃ i, FMap.get? (s.cutOff before).msgs i = some (.lossNote n 64))

/-- Spec/02 R37, spec/03 R47, R48: a planned retirement, and a lane's repair.
Choices of the model: log 3, 19, 27, 36, 37. -/
def Obligations.SparesReplaceTilesAndLanes : Prop :=
  Sys2Proof.Said.repairMapsALane ∧ Sys2Proof.Said.retireMovesATile

/-- Spec/02 R35, R38, spec/11 R223 to R225: the loss of a tile, its notice and its end.
Choices of the model: log 24, 37. -/
def Obligations.LossIsTotalNoticedAndResolved : Prop :=
  Sys2Proof.Said.tileLossTakesEverything ∧ Sys2Proof.Said.lossIsNoticedAndResolved ∧ Sys2Proof.Said.unreachedTilesAreLost
namespace Sys2Proof.Said

/-- A register that a read clears: the read answers its value, and it is then as changed. -/
def readClears (i : Instr) (s : State) (v : Nat) (t : State) : Prop := Runs i s (t.reply (.value v))
/-- ... in the management block of a tile: an Unbound tile answers all-ones, and nothing is cleared (spec/04 R54). -/
def tileReadClears (i : Instr) (s : State) (t v : Nat) (u : State) : Prop :=
  (s.unboundTile t = true → Runs i s (s.reply (.value (2 ^ 64 - 1)))) ∧ (s.unboundTile t = false → readClears i s v u)
/-- The offset of a register of tile t's management block, and of core c's CORECTL (spec/04 R54). -/
def tileOff (t o : Nat) : Nat := 0x100000 + 65536 * t + o
/-- A request of ours to a peer is answered: it is out of the mesh and of the die. -/
def peerDone (s : State) (n die : Nat) : State :=
  (s.unsend n).putDie die { s.die die with framed := (s.die die).framed.filter (· != n) }
/-- The answer of a node that works crosses the mesh from there. -/
def dieSends (s u : State) (die : Nat) (m : Msg) : State := if s.dieWorks die then u.sendFrom (64 + die) m else u.send m
/-- The last bytes of a window read have come: it answers the bytes v, or aborts. -/
def winEnds (u : State) (n id len : Nat) (v : Option Nat) : State :=
  ({ u.unsend n with winReads := FMap.erase u.winReads id }).reply (match v with | some x => .bytes (leBytes x len) | none => .abort)
/-- A piece of a window write is discarded, with AddressError (spec/04 R55). -/
def winLost (u : State) (p pa : Nat) : State :=
  (u.putPort p { u.port p with winFail := true }).raiseFrom (p / 2) 0x30 (pa / 2 ^ 36 % 64) pa

end Sys2Proof.Said

/-- Spec/02 R24, spec/04 R53 to R55, R57, R63, spec/06 R100, spec/07 R132, spec/09 R178, spec/10 R202, spec/11 R209: RC registers answer
their value and are cleared; a write stores the fields that a register has, a value that it does not admit storing its default,
and any other offset ignores it, also in a tile that is in Retain or Off; no write of a register touches the panel's memory. Beyond BAR0 the
operand names the peer timeout of a die (spec/02 R40), or a read of a register without an effect (log 29). An unsupported request is answered so and raises AddressError; a function-level
reset returns the port's window and ring to reset. -/
def Sys2Proof.Said.hostReadsAndWritesRegisters : Prop :=
  (∀ (s : State) (r p : Nat), r < 76 → let x := (s.router r).port p
    Said.readClears (.portStatusRead r p) s (x.retries * 65536 + x.crcerr * 256 + x.lstate)
      (s.setPort r p (fun y => { y with retries := 0, crcerr := 0 }))) ∧
  (∀ (s : State) (d p : Nat), d < 4 → p < 40 → s.dieWorks d = true → let x := FMap.getD (s.die d).scaleUp p ⟨0, 0, 0⟩
    Said.readClears (.portStatusRead (76 + d) p) s (x.retries * 65536 + x.crcerr * 256 + x.lstate)
      (s.putDie d { s.die d with scaleUp := FMap.set (s.die d).scaleUp p { x with retries := 0, crcerr := 0 } })) ∧
  (∀ (s : State) (p : Nat), ∃ u, Said.Runs (.evlostRead p) s u ∧ .value (s.port p).evlost ∈ u.out ∧ (u.port p).evlost = 0) ∧
  (∀ (s : State) (t q : Nat), let k := quadKey t q; let x := s.quad k
    Said.tileReadClears (.sieveCounterRead t q 1) s t (x.svacc % 2 ^ 64) (s.putQuad k { x with svacc := 0 }) ∧
    Said.tileReadClears (.sieveCounterRead t q 2) s t (x.svref % 2 ^ 64) (s.putQuad k { x with svref := 0 }) ∧
    Said.tileReadClears (.sieveCounterRead t q 3) s t (x.svspill % 2 ^ 64) (s.putQuad k { x with svspill := 0 }) ∧
    Said.tileReadClears (.sieveCounterRead t q 4) s t (x.svforce % 2 ^ 64) (s.putQuad k { x with svforce := 0 }) ∧
    Said.tileReadClears (.sieveCounterRead t q 5) s t (x.svapply % 2 ^ 64) (s.putQuad k { x with svapply := 0 }) ∧
    Said.tileReadClears (.quadrantCounterRead t q 0) s t (x.qhit % 2 ^ 64) (s.putQuad k { x with qhit := 0 }) ∧
    Said.tileReadClears (.quadrantCounterRead t q 1) s t (x.qmiss % 2 ^ 64) (s.putQuad k { x with qmiss := 0 }) ∧
    Said.tileReadClears (.quadrantCounterRead t q 2) s t (x.qwbk % 2 ^ 64) (s.putQuad k { x with qwbk := 0 })) ∧
  (∀ (s : State) (t c : Nat), let k := colKey t c; let x := s.col k
    Said.tileReadClears (.dockstsRead t c) s t ((262144 - s.imagesUsed k) * 2 ^ 32 + x.refCount * 65536 + x.refusals.length * 4096)
      (s.putCol k { x with refCount := 0 }) ∧
    Said.readClears (.rkstsRead t c) s (x.kerr * 2 ^ 60 + x.rakeOut * 2 ^ 32 + x.skips) (s.putCol k { x with kerr := 0, skips := 0 })) ∧
  (∀ (s : State) (p a : Nat), Said.Runs (.unsupportedRequest p a) s ((s.reply .unsupported).raiseFrom (p / 2 % 4) 0x30 0 a)) ∧
  (∀ (s : State) (p : Nat), p < 8 → ∃ u, Said.Runs (.functionLevelReset p) s u ∧ (u.port p).winEn = false ∧ (u.port p).even = false ∧
    (u.port p).winBase = 0 ∧ (u.port p).evbase = 0 ∧ (u.port p).log2sz = (s.port p).log2sz ∧ ∀ k, k ≠ p → u.port k = s.port k) ∧
  (∀ (s : State) (p : Nat) (v : BitVec 64), ∃ u, Said.Runs (.evheadWrite p v) s u ∧ (u.port p).evhead = v.truncate 32 ∧ u.mem = s.mem) ∧
  (∀ (s : State) (o : Nat) (v : BitVec 64), ∃ u, Said.Runs (.registerWrite o v) s u ∧ u.mem = s.mem ∧ u.strands = s.strands ∧ u.sram = s.sram ∧
    (o < 0x1000 → u = s) ∧ (0xA00000 ≤ o → o < 2 ^ 32 → u = s) ∧
    (∀ d, d < 4 → o = 2 ^ 32 + d → (u.die d).peerTimeout = if 1 ≤ v.toNat ∧ v.toNat ≤ 1000 then v.toNat else (s.die d).peerTimeout) ∧
    (∀ k, o = 2 ^ 33 + k → readsWithEffect k = false → .value (s.register k) ∈ u.out) ∧
    (∀ p, p < 8 → o = 0x1000 + 16 * p → (u.port p).winEn = v.getLsbD 63 ∧ (u.port p).winBase = v.toNat / 2 ^ 30 % 4096 ∧
      (u.port p).log2sz = (s.port p).log2sz) ∧
    (∀ q, q < 65536 → o = 0x800000 + 32 * q → (u.queue q).base = if (s.queue q).en then (s.queue q).base else v) ∧
    ∀ t, t < 64 → s.tileLive t = true →
      (o = Said.tileOff t 0x2000 → (u.tile t).pow.cap =
        let w := v.toNat % 1024
        if 300 ≤ w ∧ w ≤ 760 ∧ w % 10 = 0 then w else 760) ∧
      (o = Said.tileOff t 0x2004 → (u.tile t).repauth = v.toNat % 8) ∧
      (o = Said.tileOff t 0x2020 → (u.tile t).slotsel = v.toNat % 1024) ∧
      (o = Said.tileOff t 0xB008 → (u.tile t).supvec = v &&& 0x80FFFFFFFFFFFFFE) ∧
      (o = Said.tileOff t 0xB010 → (u.tile t).supasid = v.truncate 12) ∧
      (o = Said.tileOff t 0 → u = s))

/-- Spec/04 R55, R56, R62, R64, spec/02 R36: a closed window reads all-ones and discards. Through an open one each 64-byte piece of a request goes
to its home on its own, and is served there unit by unit in any order: a read answers, after its last unit, the bytes read, all-ones with
AddressError outside the populated space and an abort on an uncorrectable error; a write is stored, or discarded with AddressError;
WINFENCE answers 0 or 1 once every write is done. -/
def Sys2Proof.Said.windowReachesMemory : Prop :=
  (∀ (s : State) (p off len : Nat), (s.port p).winEn = false ∨ s.dieWorks (p / 2) = false →
    Said.Runs (.windowRead p off len) s (s.reply (.bytes (List.replicate len 0xFF))) ∧ ∀ b, Said.Runs (.windowWrite p off b) s s) ∧
  (∀ (s : State) (p off len : Nat), (s.port p).winEn = true → s.dieWorks (p / 2) = true → (s.port p).winBase = 0 → 0 < len → off % 64 + len ≤ 64 →
    Said.Runs (.windowRead p off len) s (({ s.bump with winReads := FMap.set s.winReads s.fresh ⟨p, off, len, [], 1, false⟩ }).sendFrom
      (64 + p / 2) (.winRead s.fresh off len (units off len))) ∧
    (∀ b : List Byte, b.length = len → off % 8 + len ≤ 8 →
      Said.Runs (.windowWrite p off b) s (s.sendFrom (64 + p / 2) (.winWrite p off len [(off, b)])))) ∧
  (∀ (s : State) (p off len : Nat), (s.port p).winEn = true → s.dieWorks (p / 2) = true → (s.port p).winBase = 0 → 0 < len →
    ∃ u, Said.Runs (.windowRead p off len) s u ∧ ∀ i, off / 64 + i < (off + len + 63) / 64 →
      let a := max off ((off / 64 + i) * 64)
      let n := min (off + len) ((off / 64 + i) * 64 + 64) - a
      FMap.get? u.msgs (s.fresh + 1 + i) = some (.winRead s.fresh a n (units a n))) ∧
  (∀ (s : State) (n id p pa len : Nat), s.msg? n = some (.winRead id pa len [(pa, len)]) → 0 < len → pa % 8 + len ≤ 8 →
    s.waitsPhys (pa / 64 * 64) 64 = false →
    (s.paOk pa len = false → FMap.get? s.winReads id = some ⟨p, pa, len, [], 1, false⟩ → Said.Runs (.remoteReadServe n) s
      ((({ s.unsend n with winReads := FMap.erase s.winReads id }).reply (.bytes (List.replicate len 0xFF))).raiseFrom (p / 2) 0x30
        (pa / 2 ^ 36 % 64) pa)) ∧
    (s.paOk pa len = true → inContextStore pa = false →
      let r := s.bump.physReadIn pa len false
      FMap.get? r.1.winReads id = some ⟨p, pa, len, [], 1, false⟩ → Said.Runs (.remoteReadServe n) s (Said.winEnds r.1 n id len r.2)) ∧
    (s.paOk pa len = true → inContextStore pa = true → FMap.get? s.winReads id = some ⟨p, pa, len, [], 1, false⟩ → s.head.production = true →
      Said.Runs (.remoteReadServe n) s (({ s.bump.unsend n with winReads := FMap.erase s.winReads id }).reply (.bytes (List.replicate len 0xFF)))) ∧
    (s.paOk pa len = true → inContextStore pa = true → FMap.get? s.winReads id = some ⟨p, pa, len, [], 1, false⟩ → s.head.production = false →
      (∃ l ∈ s.badLines, pa / 64 ≤ l ∧ l ≤ (pa + len - 1) / 64) →
      Said.Runs (.remoteReadServe n) s (Said.winEnds ((s.logError (pa / 2 ^ 36) 8 true pa 0 0).bump) n id len none))) ∧
  (∀ (s : State) (n id pa len : Nat) (l : List (Nat × Nat)), s.msg? n = some (.winRead id pa len l) → 2 ≤ l.length →
    s.waitsPhys (pa / 64 * 64) 64 = false → s.paOk pa len = true → inContextStore pa = false →
    ∃ x ∈ l, ∀ (u : State) (v : Nat), s.bump.physReadIn x.1 x.2 (decide (l.length < (units pa len).length)) = (u, some v) →
      Said.Runs (.remoteReadServe n) s
        (({ u with msgs := FMap.set u.msgs n (.winRead id pa len (l.erase x)) }).winGot id x.1 (leBytes v x.2) false false)) ∧
  (∀ (s : State) (n p pa len : Nat) (b : List Byte), s.msg? n = some (.winWrite p pa len [(pa, b)]) → s.waitsPhys (pa / 64 * 64) 64 = false →
    (inContextStore pa = true ∨ s.paOk pa len = false → Said.Runs (.postedStorePerform n) s (Said.winLost (s.unsend n) p pa)) ∧
    (inContextStore pa = false → s.paOk pa len = true → len = b.length → pa % 8 + len ≤ 8 → 0 < len →
      let r := s.bump.physWriteIn pa b false
      Said.Runs (.postedStorePerform n) s (if r.2 then r.1.unsend n else (Said.winLost r.1 p pa).unsend n))) ∧
  (∀ (s : State) (p : Nat), (∀ kv ∈ s.msgs, ∀ a n l, kv.2 ≠ .winWrite p a n l) →
    Said.Runs (.winfenceRead p) s (s.reply (.value (if (s.port p).winFail then 1 else 0)))) ∧
  (∀ (s : State) (p : Nat), (∃ kv ∈ s.msgs, ∃ a n l, kv.2 = .winWrite p a n l) → Said.Runs (.winfenceRead p) s s)

/-- Spec/04 R64, spec/02 R39, R40, spec/07 R137: a completion of a host read answers it. A request for a peer leaves in a frame; a peer's frames
answer it, or ask for an access that is checked and served here; its acknowledgement ends a posted store whose frame has left and the timeout
fails it. A frame leaves by a port of the peer's mask that is Up, and waits while there is none. A scale-up port that goes Down or is disabled
leaves every peer mask, and returns to those it left as it comes Up. A frame with a bad CRC is counted and dropped. -/
def Sys2Proof.Said.hostAndPeersAnswer : Prop :=
  (∀ (s : State) (n : Nat) (d : ReadFor) (a : BitVec 12) (va : Word) (len die ap bus item : Nat),
    s.msg? n = some (.read d a va len (.host die ap bus) item) → s.aperServes die ap bus len false = true →
    Said.Runs (.hostReadCompletion n true) s ((s.unsend n).sendFrom (64 + die) (.readDone d va (s.hostMem.read bus len) none item)) ∧
    Said.Runs (.hostReadCompletion n false) s ((s.unsend n).sendFrom (64 + die) (.readDone d va 0 (some (9, 13)) item))) ∧
  (∀ (s : State) (n : Nat) (d : ReadFor) (a : BitVec 12) (va : Word) (len die ix b vp item : Nat),
    s.msg? n = some (.read d a va len (.peer die ix b vp) item) → n ∉ (s.die die).framed →
    (s.peerMask die ix = 0 → Said.Runs (.remoteReadServe n) s (Said.dieSends s (s.unsend n) die (.readDone d va 0 (some (9, 13)) item))) ∧
    let up := fun p => p < 40 ∧ (s.peerMask die ix).getLsbD p = true ∧ (FMap.getD (s.die die).scaleUp p ⟨0, 0, 0⟩).lstate = 2
    (s.peerMask die ix ≠ 0 → (∀ p, ¬ up p) → Said.Runs (.remoteReadServe n) s s) ∧
    ((∃ p, up p) → ∃ u p, Said.Runs (.remoteReadServe n) s u ∧ up p ∧
      .frame die p (s.peerMac die ix) n b vp len [] ∈ u.out ∧ n ∈ (u.die die).framed ∧ u.msgs = s.msgs)) ∧
  (∀ (s : State) (n : Nat) (d : ReadFor) (a : BitVec 12) (va : Word) (len die ix b vp item : Nat) (data : List Byte),
    s.msg? n = some (.read d a va len (.peer die ix b vp) item) → s.dieWorks die = true → die < 4 → n ∈ (s.die die).framed →
    (data.length ≤ 9216 → Said.Runs (.peerFrame die (.readAnswer n data)) s
      ((Said.peerDone s n die).sendFrom (64 + die) (.readDone d va (leValue (data.take len)) none item))) ∧
    Said.Runs (.peerFrame die (.readRefused n)) s ((Said.peerDone s n die).sendFrom (64 + die) (.readDone d va 0 (some (9, 13)) item))) ∧
  (∀ (s : State) (die len x : Nat) (a : BitVec 12) (va : BitVec 64) (b : List Byte), s.dieWorks die = true → die < 4 → b.length ≤ 9216 →
    s.peerTable a = none →
    Said.Runs (.peerFrame die (.readRequest a va len x)) s (s.reply (.status "refused")) ∧
    Said.Runs (.peerFrame die (.writeRequest a va b x)) s (s.reply (.status "refused"))) ∧
  (∀ (s : State) (die len x tile key bed hoff : Nat) (k : BedKind) (sp : Bool) (a : BitVec 12) (va : BitVec 64) (b : List Byte) (tab : BedTable)
    (h : BedHit), s.dieWorks die = true → die < 4 → b.length ≤ 9216 → s.peerTable a = some (tile, tab) → s.targetBed h (tab.spills h.index) tile va = .column key bed hoff k sp →
    s.tileUp (key / 16) = true →
    (tab.check .ldr va 1 = .inr h → s.waitsFor (.column key bed hoff k sp) a len 0 = false →
      let r := s.homeRead key bed hoff k sp a len 0 (busParty 0)
      Said.Runs (.peerFrame die (.readRequest a va len x)) s
        (r.1.reply (match r.2 with | .ok v _ => .bytes (leBytes v len) | .trip _ _ => .status "refused"))) ∧
    (tab.check .stp va 1 = .inr h → s.waitsFor (.column key bed hoff k sp) a b.length 1 = false →
      let r := s.homeWrite key bed hoff k sp a b (busParty 0)
      Said.Runs (.peerFrame die (.writeRequest a va b x)) s
        (r.1.reply (match r.2 with | .ok _ _ => .status "acknowledged" | .trip _ _ => .status "refused")))) ∧
  (∀ (s : State) (n : Nat) (op : PostedOp) (a : BitVec 12) (va : Word) (die ix b vp item : Nat),
    s.msg? n = some (.posted op a va (.peer die ix b vp) item) →
    (n ∉ (s.die die).framed → Said.Runs (.peerAck n) s s) ∧
    (n ∈ (s.die die).framed → Said.Runs (.peerAck n) s (Said.dieSends s (Said.peerDone s n die) die (.postedAck item true))) ∧
    Said.Runs (.peerAckTimeout n) s (Said.dieSends s (Said.peerDone s n die) die (.postedAck item false)) ∧
    (s.dieWorks die = true → die < 4 → n ∈ (s.die die).framed → Said.Runs (.peerFrame die (.writeRefused n)) s ((Said.peerDone s n die).sendFrom (64 + die) (.postedAck item false)))) ∧
  (∀ (s : State) (die p v : Nat), p < 40 → v ≤ 4 → die < 4 → s.dieWorks die = true → ∃ u, Said.Runs (.scaleUpPortLinkChange die p v) s u ∧
    (FMap.getD (u.die die).scaleUp p ⟨0, 0, 0⟩).lstate = v ∧ (∀ ix q, q ≠ p → (u.peerMask die ix).getLsbD q = (s.peerMask die ix).getLsbD q) ∧
    ∀ ix, (u.peerMask die ix).getLsbD p =
      if v = 2 ∨ v = 4 then (s.peerMask die ix).getLsbD p ||
        ((FMap.get? (s.die die).peers ix).isSome && (FMap.getD (s.die die).masked ix 0).getLsbD p)
      else if v = 1 then (s.peerMask die ix).getLsbD p else false) ∧
  (∀ (s : State) (die p v : Nat), die < 4 → 40 ≤ p ∨ 4 < v ∨ s.dieWorks die = false → Said.Runs (.scaleUpPortLinkChange die p v) s s) ∧
  (∀ (s : State) (die p : Nat) (f : Frame), die < 4 → p < 40 → s.dieWorks die = true → let x := FMap.getD (s.die die).scaleUp p ⟨0, 0, 0⟩
    Said.Runs (.peerFrame (4 * (p + 1) + die) f) s
      (s.putDie die { s.die die with scaleUp := FMap.set (s.die die).scaleUp p { x with crcerr := min (x.crcerr + 1) 255 } }))

/-- Spec/04 R53 to R56, R64, spec/02 R39, R40: the host's registers and windows, host memory and peers.
Choices of the model: log 5, 16, 29, 37. -/
def Obligations.HostRegistersWindowsAndPeers : Prop :=
  Sys2Proof.Said.hostReadsAndWritesRegisters ∧ Sys2Proof.Said.windowReachesMemory ∧ Sys2Proof.Said.hostAndPeersAnswer
namespace Sys2Proof.Said

/-- The queue q in Error with a code: it stops, keeps QHEAD, and QueueError is raised with the code, reject code above it (spec/04 R60). -/
def queueFails (s : State) (q errc reject : Nat) : State :=
  (s.putQueue q { s.queue q with state := .error, errc := errc, held := false, skip := false }).raise
    ⟨0x40, q / 16384, 0, q, 0, .ofNat 64 (errc + reject * 256), (s.die (q / 16384)).timer, (s.queue q).evport, (s.queue q).vec⟩
/-- The fields of QCTL that a write stores at any time (spec/04 R57). -/
def ctlStored (x y : Queue) (v : Nat) : Prop :=
  y.evport = v / 2 ^ 48 % 8 ∧ y.weight = max 1 (v / 2 ^ 40 % 256) ∧ y.prio = v / 2 ^ 37 % 8 ∧ y.vec = v % 2048 ∧ y.base = x.base ∧ y.head = x.head ∧
    y.tail = x.tail
/-- A doorbell count's distance ahead of another, modulo 2^32 (spec/04 R59). -/
def ahead (a b : BitVec 32) : Nat := (a - b).toNat
/-- An entry's fields (spec/04 R58). -/
def entryKind (e : Nat) : Nat := e / 2 ^ 360 % 256
def entryLen (e : Nat) : Nat := e / 2 ^ 368 % 65536
/-- The expected phase (spec/04 R59). -/
def expected (i log2n : Nat) : Nat := 1 - i / 2 ^ log2n % 2

end Sys2Proof.Said

/-- Spec/04 R57 to R61: EN to 1 with a bad LOC or LOG2N is error 7, otherwise the queue is Active; CLEAR returns it to Disabled; a doorbell
stores its count unless it is behind (8) or overruns (3). A front end serves the highest level with entries pending, a queue keeping its turn for WEIGHT entries,
and a new round, in which PRIO and WEIGHT take effect, starts with the lowest queue; a fetch that waits at the port of a column changes nothing (spec/09 R173);
it fetches the entry at QHEAD of the queue whose turn it is and judges it in the order of R60; a Nop consumes its slot, a Launch goes to
its lead gardener in a message, its queue waiting for the answer; a Marker writes its word once the earlier jobs of its queue have completed.
Choices of the model: log 17, 18, 37. -/
def Obligations.QueuesFetchOrFail : Prop :=
  (∀ (s : State) (q : Nat) (v : BitVec 64), ∃ u, Said.Runs (.queueEnable q v) s u ∧ (u.queue q).en = true ∧
    ((s.queue q).en = true → Said.ctlStored (s.queue q) (u.queue q) v.toNat ∧ (u.queue q).state = (s.queue q).state ∧
      (u.queue q).curPrio = (s.queue q).curPrio ∧ (u.queue q).curWeight = (s.queue q).curWeight ∧
      (u.queue q).loc = (s.queue q).loc ∧ (u.queue q).log2n = (s.queue q).log2n ∧ (u.queue q).asid = (s.queue q).asid) ∧
    ((s.queue q).en = false → (s.queue q).state ≠ .error → Said.ctlStored (s.queue q) (u.queue q) v.toNat ∧
      let loc := v.toNat / 2 ^ 60 % 4
      let n := v.toNat / 2 ^ 32 % 32
      (u.queue q).loc = loc ∧ (u.queue q).log2n = n ∧ (u.queue q).asid = v.toNat / 2 ^ 20 % 4096 ∧
      (loc = 3 ∨ n < 4 ∨ 16 < n → (u.queue q).state = .error ∧ (u.queue q).errc = 7) ∧
      (loc ≠ 3 → 4 ≤ n → n ≤ 16 → (s.queue q).late = false → Said.ahead (s.queue q).tail (s.queue q).head ≤ 2 ^ n →
        (u.queue q).state = .active) ∧
      (loc ≠ 3 → 4 ≤ n → n ≤ 16 → (s.queue q).late = false → 2 ^ n < Said.ahead (s.queue q).tail (s.queue q).head →
        (u.queue q).state = .error ∧ (u.queue q).errc = 3))) ∧
  (∀ (s : State) (q : Nat), ∃ u, Said.Runs (.queueClear q) s u ∧ (u.queue q).en = false ∧ (u.queue q).head = 0 ∧ (u.queue q).tail = 0 ∧
    (u.queue q).state = .disabled ∧ (u.queue q).errc = 0 ∧ (u.queue q).base = (s.queue q).base ∧ u.mem = s.mem ∧ ∀ k, k ≠ q → u.queue k = s.queue k) ∧
  (∀ (s : State) (q : Nat) (n : BitVec 32), let x := s.queue q
    (x.state = .active → n = x.tail → Said.Runs (.doorbell q n) s s) ∧
    (x.state = .active → 1 ≤ Said.ahead x.tail n → Said.ahead x.tail n ≤ 2 ^ 31 - 1 → Said.Runs (.doorbell q n) s (Said.queueFails s q 8 0)) ∧
    (x.state = .active → n ≠ x.tail → Said.ahead n x.tail ≤ 2 ^ 31 → 2 ^ x.log2n < Said.ahead n x.head →
      Said.Runs (.doorbell q n) s (Said.queueFails s q 3 0)) ∧
    (x.state = .active → n ≠ x.tail → Said.ahead n x.tail ≤ 2 ^ 31 → Said.ahead n x.head ≤ 2 ^ x.log2n →
      Said.Runs (.doorbell q n) s (s.putQueue q { x with tail := n })) ∧
    (x.state ≠ .active → ∃ u, Said.Runs (.doorbell q n) s u ∧ (u.queue q).tail = n ∧ (u.queue q).state = x.state)) ∧
  (∀ (s : State) (die : Nat), die < 4 → s.head.phase = 5 → s.dieWorks die = true → ∀ s0, s.nextQueue die = (s0, none) →
    Said.Runs (.queueFetch die) s s0 ∧ Said.Runs (.queueFetch (die + 4)) s s0) ∧
  (∀ (s s0 : State) (die q n : Nat), die < 4 → s.head.phase = 5 → s.dieWorks die = true → s.nextQueue die = (s0, some (q, n)) →
    let x := s0.queue q
    let at_ := x.base.toNat / 64 * 64 + 64 * (x.head.toNat % 2 ^ x.log2n)
    let e := s0.hostMem.read at_ 64
    let v := s0.putDie die { s0.die die with turns := FMap.set (s0.die die).turns x.curPrio (q, n) }
    let i := Instr.queueFetch die
    (x.held = true → Said.Runs i s s0 ∧ Said.Runs (.queueFetch (die + 4)) s s0) ∧
    (x.held = false → x.loc ≠ 2 → Said.Runs (.queueFetch (die + 4)) s (Said.queueFails v q 6 0)) ∧
    (x.held = false → x.loc = 2 → s0.waitsPhys at_ 64 = true → Said.Runs i s s ∧ Said.Runs (.queueFetch (die + 4)) s s) ∧
    (x.held = false → x.loc = 2 → s0.waitsPhys at_ 64 = false → (v.physRead at_ 64).2 = none → Said.Runs i s (Said.queueFails (v.physRead at_ 64).1 q 6 0)) ∧
    (x.held = false → x.loc = 0 →
    (e % 2 ^ 358 ≠ 0 → Said.Runs i s (Said.queueFails v q 1 0)) ∧
    (e % 2 ^ 358 = 0 → e / 2 ^ 359 % 2 ≠ Said.expected x.head.toNat x.log2n → Said.Runs i s (Said.queueFails v q 2 0)) ∧
    (e % 2 ^ 358 = 0 → e / 2 ^ 359 % 2 = Said.expected x.head.toNat x.log2n →
      (2 < Said.entryKind e ∨ (Said.entryKind e = 1 ∧ Said.entryLen e = 0) → Said.Runs i s (Said.queueFails v q 4 0)) ∧
      (Said.entryKind e = 0 → Said.Runs i s (v.putQueue q { x with head := x.head + 1, held := false, skip := false })) ∧
      (Said.entryKind e = 2 → Said.Runs i s (v.putQueue q { x with head := x.head + 1, held := false, skip := false, markers := x.markers ++
        [⟨.ofNat 64 (e / 2 ^ 448), .ofNat 64 (e / 2 ^ 384), decide (e / 2 ^ 358 % 2 = 1), x.jobs⟩] })) ∧
      (Said.entryKind e = 1 → Said.entryLen e ≠ 0 →
        let us := (List.range (Said.entryLen e)).map (fun k => s0.hostMem.read (e / 2 ^ 448 % 2 ^ 64 + 64 * k) 64)
        let u0 := us.headD 0
        (u0 / 2 ^ 180 % 4096 ≠ x.asid → Said.Runs i s (Said.queueFails v q 5 0)) ∧
        (u0 / 2 ^ 180 % 4096 = x.asid → ∃ r : InboxRec,
          Said.Runs i s ((v.sendFrom (64 + q / 16384) (.launchRec (u0 / 2 ^ 164 % 8 * 8 + u0 / 2 ^ 161 % 8) r)).putQueue q { x with held := true }) ∧
          r.queue = q ∧ r.units = us ∧ r.lrlen = Said.entryLen e ∧ r.prio = x.curPrio ∧ r.die = q / 16384 ∧
          r.usertag = .ofNat 64 (e / 2 ^ 384) ∧ (r.evt = true ↔ e / 2 ^ 358 % 2 = 1)))))) ∧
  (∀ (s : State) (die q n : Nat) (b : Bool), FMap.sorted s.queues = true → s.pickQueue die = some (q, n, b) →
    let x := s.queue q
    let last := FMap.getD (s.die die).turns x.curPrio (65536, 0)
    q / 16384 = die ∧ x.pending = true ∧ x.skip = false ∧
    (∀ k, k / 16384 = die → (s.queue k).pending = true → (s.queue k).skip = false → (s.queue k).curPrio ≤ x.curPrio) ∧
    ((n = last.2 + 1 ∧ q = last.1 ∧ last.2 < x.curWeight) ∨ (n = 1 ∧ (b = false → last.1 < q)))) ∧
  (∀ (s u : State) (die q n k m : Nat), FMap.sorted s.queues = true → (s.markSkips die).pickQueue die = some (k, m, true) →
    s.nextQueue die = (u, some (q, n)) → n = 1 ∧ q / 16384 = die ∧ (u.queue q).pending = true ∧
      (∀ j, (s.queue j).pending = true → j / 16384 = die → (u.queue j).curPrio = (s.queue j).prio ∧ (u.queue j).curWeight = (s.queue j).weight) ∧
      ∀ j, j / 16384 = die → (u.queue j).pending = true → (u.queue j).skip = false →
        (u.queue j).curPrio < (u.queue q).curPrio ∨ ((u.queue j).curPrio = (u.queue q).curPrio ∧ q ≤ j)) ∧
  (∀ (s : State) (q : Nat) (m : Marker) (l : List Marker), (s.queue q).markers = m :: l → (∀ j ∈ m.jobs, j ∉ (s.queue q).jobs) → (s.queue q).loc = 0 →
    let v := { s.putQueue q { s.queue q with markers := l } with hostMem := s.hostMem.putBytes m.addr.toNat (leBytes m.tag.toNat 8) }
    Said.Runs (.markerWrite q) s (if m.evt then v.raiseQueue 0x42 q 0 m.tag 0 else v))
namespace Sys2Proof.Said

/-- A job's completion word, as spec/05 R83 writes it: SEQ above the status. -/
def word (j : Job) (status : Nat) : Nat := j.lrec.seq * 256 + status
/-- The job may complete: it is bound, every record is finished, nothing of it is left, and no port is still to be read (spec/05 R83,
spec/04 R62). -/
def quiet (s : State) (j : Job) : Prop :=
  j.state ≠ .pending ∧ j.orphan = false ∧ s.recordsDone j = true ∧ s.jobQuiet j.handle = true ∧ s.strandsCounted j = true ∧ s.tileLive (j.handle / 1024) = true ∧
    (∀ kv ∈ s.msgs, ∀ p, kv.2 ≠ .hostFlush p j.handle) ∧ s.flushPorts j = []
/-- The order of the arrival queue's classes: the refusal list, strands that migrate, new ones (spec/05 R82). -/
def before (a b : QueueClass) : Prop := (a, b) ∈ [(QueueClass.listed, QueueClass.migrating), (.listed, .fresh), (.migrating, .fresh)]
/-- A slot is granted to a strand: it is Ready there, as it was. -/
def granted (u : State) (st : Strand) (core slot : Nat) : Prop :=
  ∃ v, u.strand? st.handle = some v ∧ v.status = .ready ∧ v.loc = { st.loc with core := core, slot := slot } ∧ v.pc = st.pc ∧ v.g = st.g ∧ v.w = st.w ∧
    v.x = st.x ∧ v.ctl = st.ctl ∧ v.ss = st.ss
/-- The registers of a strand that a record begins (spec/05 R81): four arguments and zeros. -/
def argsOf (r : BindRec) (k : Nat) : Word := (r.args[k]?).getD 0

end Sys2Proof.Said

/-- Spec/05 R72, R73, R75, R78, R80 to R83, spec/18 R375: the lead gardener takes the next record of its inbox, and accepts it, or rejects it with the
lowest-numbered check that fails; a pending job whose predecessor failed completes with status 4; the eligible job whose turn it is is bound, its go
word written, its tables installed and its records Active; a dispatcher creates at most one strand of the next record, with the arguments in its first
registers; a free slot is filled in class order, slot 15 from the urgent queue; a finished job writes its completion word and its handle is free.
Choices of the model: log 17, 20, 21, 37. -/
def Obligations.JobsAreAcceptedBoundAndCompleted : Prop :=
  (∀ (s : State) (t n : Nat) (r : InboxRec), s.msgs = [(n, .launchRec t r)] → s.landed n = true →
    ((s.takeRecords t).tile t).inbox = (s.tile t).inbox ++ [{ r with arrival := s.fresh }] ∧ (s.takeRecords t).msgs = []) ∧
  (∀ (s : State) (t : Nat), let v := s.takeRecords t
    (v.tileUp t = false ∧ v.tileLive t = true) ∨ (v.tile t).nextRecord = none ∨ v.gardenFull t = true ∨
      (∃ r, (v.tile t).nextRecord = some r ∧ v.tablesWait (launchOf r.units) = true) → Said.Runs (.launchRecordDeliver t) s v) ∧
  (∀ (s0 : State) (t i : Nat) (r : InboxRec), let s := s0.takeRecords t
    s.tileUp t = true → (s.tile t).nextRecord = some r → s.freeJob t = some i → (s.pendingJobs t).length < 256 →
    let l := launchOf r.units
    s.tablesWait l = false →
    let v := s.putTile t { s.tile t with inbox := (s.tile t).inbox.filter (fun x => x.queue != r.queue), inboxDie := r.die }
    let b := v.readBeds l
    let c := b.1.readCuts l
    let code := c.1.rejectCode r.units r.lrlen l b.2 c.2
    (code ≠ 0 → Said.Runs (.launchRecordDeliver t) s0 (Said.queueFails c.1 r.queue 9 code)) ∧
    (code = 0 → ∃ u j, Said.Runs (.launchRecordDeliver t) s0 u ∧ u.job? (t * 1024 + i) = some j ∧ j.handle = t * 1024 + i ∧ j.state = .pending ∧ j.lrec = l ∧
      j.queue = some r.queue ∧ j.usertag = r.usertag ∧ j.evt = r.evt ∧ j.status = 0 ∧ (u.queue r.queue).head = (c.1.queue r.queue).head + 1 ∧
      (u.queue r.queue).held = false ∧ j.handle ∈ (u.queue r.queue).jobs)) ∧
  (∀ (s : State) (t : Nat), s.tileLive t = true →
    ((∀ kv ∈ s.jobs, kv.2.handle / 1024 ≠ t) → Said.Runs (.predecessorPoll t) s s) ∧
    (∀ j k, s.jobs = [(k, j)] → j.handle / 1024 = t → j.orphan = false → j.state = .pending →
      (j.lrec.preds = [] → Said.Runs (.predecessorPoll t) s (s.putJob { j with preds := [] })) ∧
      (∀ p, j.lrec.preds = [p] → s.gardenWaits j .ldr p.pcw 0 = false → let g := s.gardenRead j p.pcw
        let fails := fun (u : State) => u.gardenWaits j .stp j.lrec.cwaddr 1 = false → Said.Runs (.predecessorPoll t) s (u.finishJob { j with status := 4 })
        (g.2 = none → fails g.1) ∧
        (∀ v, g.2 = some v → v ≠ p.pseq * 256 → v / 256 = p.pseq → fails g.1) ∧
        (∀ v, g.2 = some v → v = p.pseq * 256 → Said.Runs (.predecessorPoll t) s (g.1.putJob { j with preds := [1] })) ∧
        (∀ v, g.2 = some v → v / 256 ≠ p.pseq → p.gothr = 0 → Said.Runs (.predecessorPoll t) s (g.1.putJob { j with preds := [0] })) ∧
        (∀ v, g.2 = some v → v / 256 ≠ p.pseq → p.gothr ≠ 0 → g.1.gardenWaits j .ldr p.pgo 0 = true →
          Said.Runs (.predecessorPoll t) s (g.1.putJob { j with preds := [0] })) ∧
        (∀ v w, g.2 = some v → v / 256 ≠ p.pseq → p.gothr ≠ 0 → g.1.gardenWaits j .ldr p.pgo 0 = false → (g.1.gardenRead j p.pgo).2 = some w →
          Said.Runs (.predecessorPoll t) s ((g.1.gardenRead j p.pgo).1.putJob
            { j with preds := [if w / 2 ^ 32 = p.pseq % 2 ^ 32 ∧ p.gothr ≤ w % 2 ^ 32 then 2 else 0] })) ∧
        (∀ v, g.2 = some v → v / 256 ≠ p.pseq → p.gothr ≠ 0 → g.1.gardenWaits j .ldr p.pgo 0 = false → (g.1.gardenRead j p.pgo).2 = none → fails (g.1.gardenRead j p.pgo).1)))) ∧
  (∀ (s : State) (h : Nat) (j : Job) (rs : List PlaceRec), s.job? h = some j → j.handle = h → j.state = .pending → j.orphan = false →
    (∀ p ∈ j.preds, p = 1 ∨ p = 2) → s.tileUp (h / 1024) = true → (s.nextBind (h / 1024)).map (·.handle) = some h → s.placementOk j rs = true →
    (j.lrec.goaddr = 0 ∨ s.gardenWaits j .stp j.lrec.goaddr 1 = false) →
    let w := if j.lrec.goaddr = 0 then s else (s.gardenWrite j j.lrec.goaddr (j.lrec.seq % 2 ^ 32 * 2 ^ 32)).1
    ∃ u k, Said.Runs (.bindJob h rs) s u ∧
      u.job? h = some k ∧ k.state = .running ∧ k.lrec = j.lrec ∧ k.status = j.status ∧ (∀ i, i ∈ k.early ↔ j.preds[i]? = some 2) ∧
      u.mem = w.mem ∧ u.hostMem = w.hostMem ∧
      (∀ t ∈ j.lrec.plot, FMap.get? (u.tile t).bedTables j.lrec.asid = some j.beds ∧ FMap.get? (u.tile t).cuts h = some j.cuts ∧
        FMap.get? (u.tile t).levels h = some j.lrec.levels) ∧
      ((∀ t, (w.tile t).recs = (s.tile t).recs) → ∀ r ∈ rs, ∃ i, i < 1024 ∧ FMap.get? (u.tile r.tile).recs i =
        some ⟨h, j.lrec.asid, r.col, r.budget, .active, j.lrec.entry, r.first, r.count, r.cmask, j.lrec.args⟩)) ∧
  (∀ (s : State) (h : Nat) (j : Job) (rs : List PlaceRec), s.job? h = some j → j.state ≠ .pending ∨ (∃ p ∈ j.preds, p ≠ 1 ∧ p ≠ 2) ∨
    s.placementOk j rs = false ∨ (s.nextBind (h / 1024)).map (·.handle) ≠ some h → Said.Runs (.bindJob h rs) s s) ∧
  (∀ (s : State) (n t job : Nat), s.msg? n = some (.releaseNote t job) → ∃ u, Said.Runs (.releaseNotice n) s u ∧ job ∈ (u.tile t).released ∧
    u.msgs = FMap.erase s.msgs n ∧ ∀ j ∈ (s.tile t).released, j ∈ (u.tile t).released) ∧
  (∀ (s : State) (t c i : Nat) (r : BindRec), c < 16 → s.nextRecord t c = some (i, r) → Said.up s t →
    (∀ core, core < 768 → s.coreTakes t core = false) ∨ r.cmask = 0 → Said.Runs (.dispatch t c i) s (s.putCol (colKey t c) { s.col (colKey t c) with visit := i })) ∧
  (∀ (s : State) (t c i core : Nat) (r : BindRec), c < 16 → s.nextRecord t c = some (i, r) → Said.up s t →
    let v := s.putCol (colKey t c) { s.col (colKey t c) with visit := i }
    v.pickCore t c (fun k => r.cmask.getLsbD (k % 48) && decide (v.recordStrands t k i < r.budget)) = some core → core / 48 = c →
    ∃ u st, Said.Runs (.dispatch t c i) s u ∧ u.strand? (s.nextHandle (colKey t c) r.job) = some st ∧ st.handle = s.nextHandle (colKey t c) r.job ∧
      st.pc = .ofNat 56 r.entry ∧ st.job = r.job ∧ st.asid = .ofNat 12 r.asid ∧ st.flat = r.first ∧ st.status = .queued ∧ st.joinw = 0 ∧
      (∀ k, k < 16 → st.gv (.ofNat 4 k) = Said.argsOf r k) ∧ (∀ k, k < 24 → (st.rc k).st = .full) ∧ st.loc.tile = t ∧ st.loc.core = core ∧
      st.handle ∈ (u.core (coreKey t core)).arrival ∧ (u.col (colKey t c)).sidCount = (s.col (colKey t c)).sidCount + 1) ∧
  (∀ (s : State) (t core : Nat), (s.core (coreKey t core)).halted = false → s.strands = [] →
    Said.Runs (.slotGrant t core) s s) ∧
  (∀ (s : State) (t core : Nat) (st : Strand), core < 768 → let c := s.core (coreKey t core)
    let res := (s.col (colKey t (core / 48))).resume
    s.strand? st.handle = some st → c.halted = false → s.imageErr st = none →
    (c.urgent = [st.handle] → (∀ kv ∈ s.strands, kv.2.status = .queued) →
      ∃ u, Said.Runs (.slotGrant t core) s u ∧ Said.granted u st core 15 ∧ (u.core (coreKey t core)).urgent = [] ∧ (u.core (coreKey t core)).arrival = c.arrival) ∧
    (c.urgent = [] → res = [st.handle] → st.status = .evicted → st.urgent = false → st.coreKey = coreKey t core → st.loc.col = core / 48 →
      (∀ kv ∈ s.strands, kv.2.status = .queued ∨ kv.2 = st) → ∃ u, Said.Runs (.slotGrant t core) s u ∧ Said.granted u st core 0 ∧
        (u.core (coreKey t core)).arrival = c.arrival ∧ (u.col (colKey t (core / 48))).resume = []) ∧
    (c.urgent = [] → res = [] → (∀ kv ∈ s.strands, kv.2.status = .queued) →
      (c.arrival = [st.handle] → ∃ u, Said.Runs (.slotGrant t core) s u ∧ Said.granted u st core 0 ∧ (u.core (coreKey t core)).arrival = []) ∧
      (∀ a, s.strand? a.handle = some a → a.handle ≠ st.handle → Said.before st.cls a.cls →
        c.arrival = [a.handle, st.handle] → ∃ u, Said.Runs (.slotGrant t core) s u ∧ Said.granted u st core 0 ∧
          (u.core (coreKey t core)).arrival = [a.handle] ∧ u.strand? a.handle = some a) ∧
      (∀ a, s.strand? a.handle = some a → a.handle ≠ st.handle → a.cls = st.cls →
        c.arrival = [st.handle, a.handle] → ∃ u, Said.Runs (.slotGrant t core) s u ∧ Said.granted u st core 0 ∧
          (u.core (coreKey t core)).arrival = [a.handle]))) ∧
  (∀ (s : State) (h : Nat) (j : Job), s.job? h = some j → j.handle = h → Said.quiet s j →
    let status := if j.status = 0 then j.cancelCause else j.status
    s.gardenWaits j .stp j.lrec.cwaddr 1 = false → ∃ u, Said.Runs (.jobComplete h) s u ∧ u.jobs = FMap.erase s.jobs h ∧
      let w := s.gardenWrite { j with status := status } j.lrec.cwaddr (Said.word j status)
      u.mem = (w.1.dropSlots h).mem ∧ ((∀ t e, t < 64 → e < 4 → w.1.savedFor t e ≠ some h) → u.mem = w.1.mem) ∧ (j.evt = false → w.2 = true → u.out = w.1.out)) ∧
  (∀ (s : State) (h : Nat), s.job? h = none → Said.Runs (.jobComplete h) s s) ∧
  (∀ (s : State) (n reg tag q lrlen : Nat) (h : BitVec 64) (a : BitVec 12) (ut : Word) (e : Bool) (g : Target),
    s.msg? n = some (.launch h reg tag q a ut lrlen e g) →
    let fill := fun (u : State) (c : Nat) => u.sendFrom (64 + q / 16384) (.fill h reg tag c none none)
    let p := (s.unsend n).physOf a g
    let x := p.1.queue q
    (lrlen = 0 → Said.Runs (.launchRequest n) s (fill (s.unsend n) 5)) ∧
    (lrlen ≠ 0 → s.launchWaits q g = true → Said.Runs (.launchRequest n) s s) ∧
    (lrlen ≠ 0 → s.launchWaits q g = false → p.2 = none → Said.Runs (.launchRequest n) s (fill p.1 4)) ∧
    (lrlen ≠ 0 → s.launchWaits q g = false → p.2 ≠ none →
      (x.loc ≠ 2 ∨ x.state ≠ .active → Said.Runs (.launchRequest n) s (fill p.1 1)) ∧
      (x.loc = 2 → x.state = .active → Said.ahead x.tail x.head = 2 ^ x.log2n → Said.Runs (.launchRequest n) s (fill p.1 2)) ∧
      (x.loc = 2 → x.state = .active → Said.ahead x.tail x.head ≠ 2 ^ x.log2n → x.asid ≠ a.toNat → Said.Runs (.launchRequest n) s (fill p.1 3)) ∧
      (∀ pa, p.2 = some pa → x.loc = 2 → x.state = .active → Said.ahead x.tail x.head ≠ 2 ^ x.log2n → x.asid = a.toNat →
        let entry := pa * 2 ^ 448 + ut.toNat * 2 ^ 384 + lrlen * 2 ^ 368 + 2 ^ 360 + Said.expected x.tail.toNat x.log2n * 2 ^ 359 + (if e then 2 ^ 358 else 0)
        let v := (p.1.physWrite (x.base.toNat / 64 * 64 + 64 * (x.tail.toNat % 2 ^ x.log2n)) (leBytes entry 64)).1
        Said.Runs (.launchRequest n) s (fill (v.putQueue q { x with tail := x.tail + 1 }) 0))))
namespace Sys2Proof.Said

/-- The tile after a JOBCMD with this result (spec/05 R86). -/
def commanded (s : State) (t job result : Nat) : State := s.putTile t { s.tile t with jobcmdJob := job, jobcmdResult := result }
/-- The one strand of a state. -/
def only (s : State) (st : Strand) : Prop := s.strands = [(st.handle.toNat, st)]
/-- Every tile that is not lost has been sent a message. -/
def noticed (s u : State) (m : Nat → Msg) : Prop := ∀ t, t < 64 → s.tileLive t = true → ∃ n, FMap.get? u.msgs n = some (m t)
/-- The engine slot whose save record, at offset 0x240000, is valid for a job; a tile without a save area has none (spec/11 R213). -/
def savedIn (s : State) (t e : Nat) : Option Nat :=
  let r := s.mem.read (s.saveSlot t e + 0x240000) 16
  if (s.tile t).esave.toNat / 2 ^ 63 % 2 = 1 ∧ r / 2 ^ 63 % 2 = 1 then some (r % 2 ^ 16) else none
/-- No engine slot of tile t is still saved for a job. -/
def unsaved (s : State) (t job : Nat) : Prop := ∀ e, e < 4 → savedIn s t e ≠ some job

end Sys2Proof.Said

/-- Spec/05 R86, spec/11 R214 to R219, R225: a command for an unknown job has RESULT 1; Suspend of a running job, if no engine forbids it, and Resume of a
suspended one send notices to every live tile, and any other is Refused; Cancel completes a pending job with status 1 and stops a bound
one. A notice makes the job's strands Suspended and its records too; an engine it holds is saved in its slot and released, and
restored on Resume, either waiting while the port of the save area's column is held (spec/11 R226); with the last tile's report the job is suspended, or runs. Docks report counts, and the strands missing after a loss are
reported lost with status 2.
Choices of the model: log 22, 40. -/
def Obligations.PreemptionSuspendsAndResumes : Prop :=
  (∀ (s : State) (t h : Nat) (i : Instr), i = .jobcmdSuspend t h ∨ i = .jobcmdResume t h ∨ i = .jobcmdCancel t h → s.jobAt t h = none →
    Said.Runs i s (Said.commanded s t h 1)) ∧
  (∀ (s : State) (t h : Nat) (j : Job), s.jobAt t h = some j → j.handle = h →
    (j.state = .running → s.suspendBlocked h = false → ∃ u k, Said.Runs (.jobcmdSuspend t h) s u ∧ u.job? h = some k ∧ k.state = .suspending ∧
      k.tilesLeft = (List.range 64).filter s.tileLive ∧ (u.tile t).jobcmdResult = 0 ∧ Said.noticed s u (fun n => .suspendNote n h)) ∧
    (j.state ≠ .running ∨ s.suspendBlocked h = true → Said.Runs (.jobcmdSuspend t h) s (Said.commanded s t h 2)) ∧
    (j.state = .suspended → ∃ u k, Said.Runs (.jobcmdResume t h) s u ∧ u.job? h = some k ∧ k.state = .resuming ∧
      k.tilesLeft = (List.range 64).filter s.tileLive ∧ (u.tile t).jobcmdResult = 0 ∧ Said.noticed s u (fun n => .resumeNote n h)) ∧
    (j.state ≠ .suspended → Said.Runs (.jobcmdResume t h) s (Said.commanded s t h 2)) ∧
    (j.state = .pending → (Said.commanded s t h 0).gardenWaits j .stp j.lrec.cwaddr 1 = false → Said.Runs (.jobcmdCancel t h) s ((Said.commanded s t h 0).finishJob { j with status := 1 })) ∧
    (j.state ≠ .pending → j.state ≠ .completing → ∃ u k, Said.Runs (.jobcmdCancel t h) s u ∧ u.job? h = some k ∧ k.state = .completing ∧
      k.cancelCause = 1 ∧ ∀ n r b, FMap.get? (u.tile n).recs r = some b → b.job = h → b.state ≠ .active)) ∧
  (∀ (s : State) (n t h : Nat), s.msg? n = some (.suspendNote t h) →
    (s.jobSuspended h = false → Said.Runs (.suspendNotice n) s (s.unsend n)) ∧
    (s.jobSuspended h = true → ∀ st, Said.only s st → st.job = h → st.loc.tile = t → st.urgent = false → ∃ u v k, Said.Runs (.suspendNotice n) s u ∧
      u.strand? st.handle = some v ∧ v.pc = st.pc ∧ v.g = st.g ∧
      (st.status ∈ [.queued, .ready, .parked, .evicted, .refused] → v.status = .suspended ∧ v.pcause = 0) ∧
      (st.status ∈ [.trapped, .halted, .inFlight] → v.status = st.status) ∧ FMap.get? u.msgs k = some (.tileReport t h) ∧
      ∀ r b, FMap.get? (u.tile t).recs r = some b → b.job = h → b.state ≠ .active)) ∧
  (∀ (s : State) (t e h : Nat) (j : Job), (s.engine (quadKey t e)).hold = some h → s.job? h = some j → j.handle = h → j.state = .suspending →
    s.saveReady t e h = true →
    (s.waitsPhys (s.saveSlot t e) (2 ^ 23) = true → Said.Runs (.engineSaveDone t e) s s) ∧
    (s.waitsPhys (s.saveSlot t e) (2 ^ 23) = false → let y := s.engine (quadKey t e)
    y.chA.length ≤ 2 ^ 21 → y.chB.length ≤ 2 ^ 21 → ∃ u, Said.Runs (.engineSaveDone t e) s u ∧
      let x := u.engine (quadKey t e)
      let r := u.mem.read (s.saveSlot t e + 0x240000) 16
      x.hold = none ∧ x.chA = [] ∧ x.chB = [] ∧ x.scale = [] ∧
      (s.mem.wf = true → u.mem.bytes (s.saveSlot t e + 0x400000) y.chA.length = y.chA ∧ u.mem.bytes (s.saveSlot t e + 0x600000) y.chB.length = y.chB ∧
        r / 2 ^ 64 % 2 ^ 32 = y.chA.length ∧ r / 2 ^ 96 = y.chB.length ∧ (r / 2 ^ 16 % 2 = 1 ↔ y.bank0.fe = true) ∧ (r / 2 ^ 17 % 2 = 1 ↔ y.bank1.fe = true) ∧
        ((s.tile t).esave.toNat / 2 ^ 63 % 2 = 1 → h < 2 ^ 16 → Said.savedIn u t e = some h)))) ∧
  (∀ (s : State) (n t h : Nat), s.msg? n = some (.resumeNote t h) → ∀ st, Said.only s st → st.job = h → st.loc.tile = t → st.status = .suspended →
    Said.unsaved s t h → ∃ u v k, Said.Runs (.resumeNotice n) s u ∧ u.strand? st.handle = some v ∧ v.status = .evicted ∧ v.cls = .resumed ∧
      v.pc = st.pc ∧ st.handle ∈ (u.col st.colKey).resume ∧ FMap.get? u.msgs k = some (.tileReport t h)) ∧
  (∀ (s : State) (t e h : Nat) (j : Job), let x := s.engine (quadKey t e)
    let r := s.mem.read (s.saveSlot t e + 0x240000) 16
    let na := min (r / 2 ^ 64 % 2 ^ 32) (2 ^ 21)
    let nb := min (r / 2 ^ 96) (2 ^ 21)
    s.mem.wf = true → Said.savedIn s t e = some h → s.job? h = some j → j.handle = h → j.state = .resuming → (∀ kv ∈ s.msgs, kv.2 ≠ .resumeNote t h) →
    x.hold = none → x.run = none → x.drain = none → s.strands = [] →
    (s.waitsPhys (s.saveSlot t e) (2 ^ 23) = true → Said.Runs (.engineRestore t e) s s) ∧
    (s.waitsPhys (s.saveSlot t e) (2 ^ 23) = false → ∃ u, Said.Runs (.engineRestore t e) s u ∧ Said.savedIn u t e = none ∧ (0 < na + nb → (u.engine (quadKey t e)).hold = some h) ∧
      (u.engine (quadKey t e)).chA = s.mem.bytes (s.saveSlot t e + 0x400000) na ∧
      (u.engine (quadKey t e)).chB = s.mem.bytes (s.saveSlot t e + 0x600000) nb ∧
      (u.engine (quadKey t e)).bank0.fe = decide (r / 2 ^ 16 % 2 = 1) ∧ (u.engine (quadKey t e)).bank1.fe = decide (r / 2 ^ 17 % 2 = 1))) ∧
  (∀ (s : State) (n t h : Nat) (j : Job), s.msg? n = some (.tileReport t h) → s.job? h = some j → j.handle = h →
    let l := j.tilesLeft.filter (· != t)
    (j.state = .suspending → s.tileSuspended t h = true → Said.Runs (.preemptionTileReport n) s
      ((s.unsend n).putJob { j with tilesLeft := l, state := if l = [] then .suspended else .suspending })) ∧
    (j.state = .suspending → s.tileSuspended t h = false → Said.Runs (.preemptionTileReport n) s s) ∧
    (j.state = .resuming → Said.unsaved s t h → Said.Runs (.preemptionTileReport n) s
      ((s.unsend n).putJob { j with tilesLeft := l, state := if l = [] then .running else .resuming }))) ∧
  (∀ (s : State) (t c h a b : Nat) (j : Job), FMap.get? (s.col (colKey t c)).counts h = some (a, b) → s.job? h = some j → j.handle = h → ∃ u,
    Said.Runs (.strandCountReport t c h) s u ∧ u.job? h = some { j with created := j.created + a, ended := j.ended + b } ∧
      (u.col (colKey t c)).counts = FMap.erase (s.col (colKey t c)).counts h) ∧
  (∀ (s : State) (t h : Nat) (j : Job), s.jobAt t h = some j → j.handle = h → j.asked = true → (∀ kv ∈ s.cols, FMap.get? kv.2.counts h = none) →
    let held := (s.strands.filter (fun kv => kv.2.job == h)).length
    (j.created = j.ended + held → ∃ u, Said.Runs (.lossCountAnswer t h) s u ∧ u.job? h = some { j with asked := false, lostKnown := [] }) ∧
    (j.ended + held < j.created → j.status = 0 → ∃ u k, Said.Runs (.lossCountAnswer t h) s u ∧ u.job? h = some k ∧ k.asked = false ∧ k.status = 2 ∧
      k.ended + held = k.created))
namespace Sys2Proof.Said

/-- A message is taken out of the mesh and nothing else changes but the strand h. -/
def fills (s : State) (n : Nat) (t : Strand) : State := (s.unsend n).putStrand t
/-- A strand refused for the k-th time (spec/06 R106). -/
def refusedBy (s u : State) (st : Strand) (dest core k : Nat) : Prop :=
  (∃ m img, FMap.get? u.msgs m = some (.refusal st.handle k img)) ∧ (u.col dest).refCount = min ((s.col dest).refCount + 1) 65535 ∧
    ((s.col dest).refusals = [] → (u.col dest).refusals = [⟨st.handle, st.colKey, core, k, false⟩])

/-- A strand whose migration came to nothing: BOUNCE and its registers as they were before it (spec/11 R206). -/
def stayed (st : Strand) : Strand :=
  match st.before with
  | some p => { st with bounce := p.1, ctl := p.2, before := none, refusals := 0 }
  | none => { st with refusals := 0 }
/-- The core that the home dock picks: the owner of the translated offset's bank group, else core 0 of the column (spec/06 R104). -/
def coreAt (s : State) (dest : Nat) (st : Strand) : State × Nat :=
  match st.destCva with
  | none => (s, dest % 16 * 48)
  | some a =>
    match s.translate dest st.asid a 0 with
    | (u, .ok off) => (u, ownerCore dest off)
    | (u, .trip _ _) => (u, dest % 16 * 48)

end Sys2Proof.Said

/-- Spec/06 R93, R97, R98, R102 to R106, spec/07 R119, R121, R130, spec/11 R210: a fill reaches the strand it is addressed to, or is discarded. A
descriptor, a table or an instruction line that a strand waits for arrives in its cache. A parked strand whose cause is clear is Ready; an eligible one gives its
slot to an arrival. A migrating strand is accepted by the home dock's core, or refused with its count, to be sent again when its backoff or a recall
comes, or to trap at its limit; an error response traps it with DataLoss; a handler is created when the urgent queue has room.
Choices of the model: log 11, 13, 30. -/
def Obligations.StrandsMoveBetweenDocks : Prop :=
  (∀ (s : State) (n reg tag v : Nat) (h : BitVec 64) (acq : Option (BitVec 4)) (loss : Option Loss), s.msg? n = some (.fill h reg tag v acq loss) →
    (s.strand? h = none → Said.Runs (.fill n) s (s.unsend n)) ∧
    (∀ st, s.strand? h = some st → st.handle = h → st.status ≠ .evicted → Said.Runs (.fill n) s (Said.fills s n (st.takeFill reg tag v acq loss)))) ∧
  (∀ (s : State) (n reg tag size v item : Nat) (h : BitVec 64) (va : Word) (sg : Bool) (st : Strand) (fail : Option (Nat × Word)),
    s.msg? n = some (.readDone (.reg h reg tag size sg none) va v fail item) → s.strand? h = some st → st.handle = h → st.status ≠ .evicted →
    Said.Runs (.fill n) s ({ s.unsend n with items := FMap.erase s.items item }.putStrand (st.takeFill reg tag (Said.loaded sg size v) none
      (fail.map (fun (f : Nat × Word) => (⟨va, if f.1 = 9 then f.2 else .ofNat 64 (f.1 * 256 + 12)⟩ : Loss)))))) ∧
  (∀ (s : State) (t c sl : Nat) (st : Strand) (va : BitVec 64), s.slotStrand t c sl = some st → st.bedWait = some va →
    (∀ tab h, s.tableFor st = some tab → tab.find va.toNat = some h →
      Said.Runs (.bedCacheFill t c sl) s ((s.putStrand { st with bedWait := none }).touchBed st h)) ∧
    (∀ tab, s.tableFor st = some tab → tab.find va.toNat = none → Said.Runs (.bedCacheFill t c sl) s (s.putStrand { st with bedWait := none }))) ∧
  (∀ (s : State) (n t kind h : Nat), s.msg? n = some (.tableReq t kind h) →
    (s.tileUp (h / 1024) = true → (∀ j, s.job? h = some j → j.orphan = false) →
      Said.Runs (.tableFetchRequest n) s ((s.unsend n).sendFrom (h / 1024) (.tableAns t kind h))) ∧
    (s.tileUp (h / 1024) = false → Said.Runs (.tableFetchRequest n) s s)) ∧
  (∀ (s : State) (n t h : Nat) (j : Job), s.job? h = some j →
    (s.msg? n = some (.tableAns t 0 h) → ∃ u, Said.Runs (.tableFetch n) s u ∧ FMap.get? (u.tile t).bedTables j.lrec.asid = some j.beds) ∧
    (s.msg? n = some (.tableAns t 1 h) → ∃ u, Said.Runs (.tableFetch n) s u ∧ FMap.get? (u.tile t).cuts h = some j.cuts) ∧
    (s.msg? n = some (.tableAns t 2 h) → ∃ u, Said.Runs (.tableFetch n) s u ∧ FMap.get? (u.tile t).levels h = some (j.lrec.levels.take j.lrec.nlev))) ∧
  (∀ (s : State) (n k line : Nat) (a : BitVec 12) (g : Target), s.msg? n = some (.instrLine k a line g) →
    (s.waitsFor g a 64 2 = true → Said.Runs (.instructionLineFill n) s s) ∧ (s.waitsFor g a 64 2 = false → s.strands = [] →
    let r := (s.unsend n).serveRead g a 64 2 (busParty 0)
    (∀ v off, r.2 = .ok v off → ∃ u x, Said.Runs (.instructionLineFill n) s u ∧ x ∈ (u.core k).instrBuf ∧ x.asid = a ∧ x.line = line ∧ x.data = v) ∧
    (∀ c g4, r.2 = .trip c g4 → Said.Runs (.instructionLineFill n) s r.1))) ∧
  (∀ (s : State) (st : Strand), Said.only s st → st.status = .parked → s.mayIssue st = true →
    (s.causeClear st = true → Said.Runs (.parkRecheck st.loc.tile st.loc.core st.loc.slot) s (s.putStrand { st with status := .ready, pcause := 0, wait := st.wait.kept })) ∧
    (s.causeClear st = false → Said.Runs (.parkRecheck st.loc.tile st.loc.core st.loc.slot) s s)) ∧
  (∀ (s : State) (t c : Nat) (v a : Strand), c < 768 → let k := coreKey t c
    (s.core k).halted = false → s.freeSlots t c = [] → s.evictable k = [v] → s.nextArrival k = some a → a.handle ≠ v.handle → v.handle ∉ (s.core k).arrival →
    s.strand? v.handle = some v → s.strand? a.handle = some a → s.imageErr a = none → ∃ u w b, Said.Runs (.evict t c) s u ∧
      u.strand? v.handle = some w ∧ w.status = .evicted ∧ w.pcause = v.pcause ∧ w.pc = v.pc ∧ u.strand? a.handle = some b ∧ b.status = .ready ∧
      b.loc.slot = v.loc.slot ∧ b.loc.core = c ∧ a.handle ∉ (u.core k).arrival) ∧
  (∀ (s : State) (n dest : Nat) (m : List Byte) (h : BitVec 64) (st : Strand), s.msg? n = some (.migrate h dest m) → s.strand? h = some st → st.handle = h →
    st.status = .inFlight → st.urgent = false →
    let q := Said.coreAt (s.unsend n) dest (st.fromMessage m)
    let c := q.1.core (coreKey (dest / 16) q.2)
    let room := c.arrival.length + c.reserved.length < c.corectl.toNat / 65536 % 64 ∧ q.1.imageFree dest = true
    ((s.unsend n).tileUp (dest / 16) = false → Said.Runs (.migrationArrival n) s ((s.unsend n).send (.migError h))) ∧
    ((s.unsend n).tileUp (dest / 16) = true →
      (h ∈ c.reserved ∨ room → q.1.jobSuspended st.job = false → ∃ u v, Said.Runs (.migrationArrival n) s u ∧
        u.strand? h = some v ∧ v.status = .queued ∧ v.loc.tile = dest / 16 ∧ v.loc.col = dest % 16 ∧ v.loc.core = q.2 ∧ v.refusals = 0 ∧
        v.pc = (st.fromMessage m).pc ∧ v.g = (st.fromMessage m).g ∧ v.w = (st.fromMessage m).w ∧ v.x = (st.fromMessage m).x ∧
        v.cls = (if h ∈ c.reserved then .listed else .migrating) ∧ h ∈ (u.core (coreKey (dest / 16) q.2)).arrival ∧
        ∃ k, FMap.get? u.msgs k = some (.accepted h st.colKey st.img)) ∧
      (h ∉ c.reserved → ¬ room → ∃ u, Said.Runs (.migrationArrival n) s u ∧ Said.refusedBy q.1 u st dest q.2 (st.refusals + 1) ∧ u.strands = q.1.strands ∧
        ∃ k, FMap.get? u.msgs k = some (.refusal h (st.refusals + 1) (st.fromMessage m).message)))) ∧
  (∀ (st : Strand) (m : List Byte), let hd := leValue (m.take 64)
    (st.fromMessage m).pc = .ofNat 56 (hd / 2 ^ 457 % 2 ^ 55 * 2) ∧ (st.fromMessage m).ss = .ofNat 64 (hd / 2 ^ 393) ∧
    ∀ r, r < 16 → ((st.fromMessage m).rc r).st = regStateOf (hd / 2 ^ (361 + 2 * r) % 4)) ∧
  (∀ (s : State) (n k i : Nat) (h : BitVec 64), s.msg? n = some (.accepted h k i) → Said.Runs (.migrationAcceptance n) s (s.unsend n)) ∧
  (∀ (s : State) (n k : Nat) (h : BitVec 64) (img : List Byte) (st : Strand), s.msg? n = some (.refusal h k img) → s.strand? h = some st → st.handle = h → st.status = .inFlight →
    s.tileUp st.loc.tile = true →
    let lim := (s.core st.rlim).corectl.toNat / 256 % 256
    (lim = 0 ∨ k < 16 * lim → s.jobSuspended st.job = false → Said.Runs (.migrationRefusal n) s
      ((s.unsend n).putStrand { st with status := .refused, pcause := 3, refusals := k })) ∧
    (lim = 0 ∨ k < 16 * lim → s.jobSuspended st.job = true → st.urgent = false → ∃ v : State, Said.Runs (.migrationRefusal n) s
      (v.putStrand { st with status := .suspended, pcause := 0, refusals := k, before := none }) ∧ v.mem = s.mem ∧ v.strands = s.strands) ∧
    (lim ≠ 0 → 16 * lim ≤ k → ∃ v : State, Said.Runs (.migrationRefusal n) s (v.trap (Said.stayed st) ⟨14, st.destVa, .ofNat 64 k⟩) ∧ v.mem = s.mem ∧
      v.strands = s.strands)) ∧
  (∀ (s : State) (h : BitVec 64) (st : Strand), s.strand? h = some st → st.handle = h → st.status = .refused →
    let v := fun (u : State) => (u.putStrand { st with status := .inFlight, pcause := 0 }).sendFrom st.loc.tile (.migrate h st.dest st.message)
    Said.Runs (.migrationBackoffExpire h) s (v s) ∧ ∀ n k, s.msg? n = some (.recall h k) → Said.Runs (.recall n) s (v (s.unsend n))) ∧
  (∀ (s : State) (n : Nat) (h : BitVec 64) (st : Strand), s.msg? n = some (.migError h) → s.strand? h = some st → st.handle = h →
    st.status = .inFlight → s.tileUp st.loc.tile = true → ∃ v : State, Said.Runs (.migrationErrorResponse n) s (v.trap (Said.stayed st) ⟨9, st.destVa, 13⟩) ∧
      v.mem = s.mem ∧ v.strands = s.strands) ∧
  (∀ (s : State) (st : Strand), Said.only s st → (s.tile st.loc.tile).taskFaults = [] →
    (st.pending = none → ∃ u, Said.Runs (.handlerCreate st.loc.tile st.loc.core) s u ∧ u.strands = s.strands ∧ u.mem = s.mem) ∧
    (∀ p, st.pending = some p → st.status ≠ .trapped → ∃ u, Said.Runs (.handlerCreate st.loc.tile st.loc.core) s u ∧
      u.strands = (s.putStrand { st with pending := none }).strands ∧ u.cores = s.cores ∧ u.mem = s.mem) ∧
    (∀ p j, st.pending = some p → st.status = .trapped → st.hkind = .none → p.cause < 6 → s.job? st.job = some j → j.lrec.handler ≠ 0 →
      (s.core st.coreKey).urgent.length < 4 → ∃ u v hd, Said.Runs (.handlerCreate st.loc.tile st.loc.core) s u ∧
        u.strand? (s.nextHandle st.colKey st.job) = some hd ∧ (s.nextHandle st.colKey st.job ≠ st.handle → u.strand? st.handle = some v ∧ v.pending = none) ∧
        hd.pc = .ofNat 56 j.lrec.handler ∧ hd.gv 0 = .ofNat 64 p.cause ∧ hd.gv 1 = p.g1 ∧ hd.gv 2 = p.g2 ∧ hd.gv 3 = st.handle ∧ hd.gv 4 = p.g4 ∧
        hd.hkind = .job ∧ hd.victim = st.handle))
namespace Sys2Proof.Said

/-- A join word's count one higher, saturating, and one lower (spec/06 R112). -/
def countUp (v : Nat) : Nat := if v % 2 ^ 32 = 2 ^ 32 - 1 then v else v + 1
def countDown (v : Nat) : Nat := if v % 2 ^ 32 = 0 then v else v - 1
/-- An answer leaves from a home: from its tile while that serves, else from the router that met the request (spec/02 R32). -/
def homeSends (u : State) (key : Nat) (m : Msg) : State := if u.tileUp (key / 16) then u.sendFrom (key / 16) m else u.send m
/-- Dirty lines of a column's quadrant from one line to another. -/
def dirtyIn (col lo hi : Nat) (l : CacheLine) : Bool := l.col == col && l.dirty && decide (lo ≤ l.line) && decide (l.line ≤ hi)
/-- A range register's value (spec/07 R133). -/
def range (col base len : Nat) : BitVec 64 := .ofNat 64 (2 ^ 63 + col * 2 ^ 59 + len * 2 ^ 32 + base)
/-- The 32-bit word c of the 1,024 bytes that a VTLD read, by pieces of 32 bytes. -/
def tableWord (pieces : FMap Wide) (piece value c : Nat) : Nat :=
  let w := if c / 8 = piece then value else (FMap.getD pieces (c / 8) 0).toNat
  w / 2 ^ (32 * (c % 8)) % 2 ^ 32

end Sys2Proof.Said

/-- Spec/16 R320, R324, R340 to R343, spec/05 R76, spec/06 R111 to R113, spec/17 R360: the steps by which a home answers. A remote read is served at a home
that is up and refused with cause 9, source 13, at one that is not; a posted store or NXTGO's increment is performed and acknowledged, and its
acknowledgement ends the item or fails it; a join word is raised or lowered as an atomic does, saturating, its waiters filled at zero; a
registration is filled at once, entered, or refused to be sent again; a VTLD's last piece replaces the decode table; CWB cleans the dirty lines of its range
and reports their number, CPIN and CHINT take the lowest free range register, CUNPIN frees one.
Choices of the model: log 14, 15, 33. -/
def Obligations.HomesServeRequests : Prop :=
  (∀ (s : State) (n reg tag size len item key bed hoff : Nat) (h : BitVec 64) (sg spill : Bool) (acq : Option (BitVec 4)) (asid : BitVec 12)
    (va : Word) (kind : BedKind), let d := ReadFor.reg h reg tag size sg acq
    s.msg? n = some (.read d asid va len (.column key bed hoff kind spill) item) →
    let g := Target.column key bed hoff kind spill
    (s.waitsFor g asid len 0 = true → Said.Runs (.remoteReadServe n) s s) ∧
    (s.tileUp (key / 16) = false → Said.Runs (.remoteReadServe n) s ((s.unsend n).send (.readDone d va 0 (some (9, 13)) item))) ∧
    (s.tileUp (key / 16) = true → s.waitsFor g asid len 0 = false → let r := s.homeRead key bed hoff kind spill asid len 0 (busParty h)
      (∀ v off, r.2 = .ok v off → Said.Runs (.remoteReadServe n) s (Said.homeSends (r.1.unsend n) key (.readDone d va v none item))) ∧
      (∀ c g4, r.2 = .trip c g4 → Said.Runs (.remoteReadServe n) s
        (Said.homeSends (r.1.unsend n) key (.readDone d va 0 (some (c, .ofNat 64 g4)) item))))) ∧
  (∀ (s : State) (n item key bed hoff : Nat) (spill : Bool) (op : PostedOp) (asid : BitVec 12) (va : Word) (kind : BedKind) (it : Item),
    s.msg? n = some (.posted op asid va (.column key bed hoff kind spill) item) → FMap.get? s.items item = some it →
    (s.waitsFor (.column key bed hoff kind spill) asid 8 1 = true → Said.Runs (.postedStorePerform n) s s) ∧
    (s.tileUp (key / 16) = false → Said.Runs (.postedStorePerform n) s ((s.unsend n).send (.postedAck item false))) ∧
    (s.tileUp (key / 16) = true → s.waitsFor (.column key bed hoff kind spill) asid 8 1 = false →
      let r := match op with
        | .bytes data => (s.unsend n).homeWrite key bed hoff kind spill asid data (busParty it.handle)
        | .go => (s.unsend n).homeRmw key bed hoff kind spill asid (fun v => some (Said.countUp v)) (busParty it.handle)
      (∀ v off, r.2 = .ok v off → Said.Runs (.postedStorePerform n) s (Said.homeSends r.1 key (.postedAck item true))) ∧
      (∀ c g4, r.2 = .trip c g4 → Said.Runs (.postedStorePerform n) s (Said.homeSends r.1 key (.postedAck item false))))) ∧
  (∀ (s : State) (n item die ap bus : Nat) (data : List Byte) (asid : BitVec 12) (va : Word) (it : Item),
    s.msg? n = some (.posted (.bytes data) asid va (.host die ap bus) item) → FMap.get? s.items item = some it →
    let p := 2 * die + aperPort (FMap.getD (s.die die).apers ap 0)
    (s.aperServes die ap bus data.length true = true → ∃ u m, Said.Runs (.postedStorePerform n) s u ∧
      u.hostMem = s.hostMem.putBytes bus data ∧ FMap.get? u.msgs m = some (.storeFlush p item) ∧
      ∀ j, s.job? it.job = some j → j.handle = it.job → ∃ k, u.job? it.job = some k ∧ p ∈ k.hostPorts) ∧
    (s.aperServes die ap bus data.length true = false → ∃ u m, Said.Runs (.postedStorePerform n) s u ∧ u.mem = s.mem ∧
      FMap.get? u.msgs m = some (.postedAck item false))) ∧
  (∀ (s : State) (n p item : Nat) (ok : Bool), s.msg? n = some (.storeFlush p item) →
    Said.Runs (.hostReadCompletion n ok) s ((s.unsend n).sendFrom (64 + p / 2) (.postedAck item true))) ∧
  (∀ (s : State) (n item : Nat) (it : Item), FMap.get? s.items item = some it →
    (s.msg? n = some (.postedAck item true) →
      Said.Runs (.postedStoreAck n) s ({ s.unsend n with items := FMap.erase s.items item }.rejoin it.handle)) ∧
    (s.msg? n = some (.postedAck item false) → ∃ u, Said.Runs (.postedStoreAck n) s u ∧
      FMap.get? u.items item = some { it with failed := true } ∧
      ∀ j, s.job? it.job = some j → j.handle = it.job → j.status = 0 → u.job? it.job = some { j with status := 5 })) ∧
  (∀ (s : State) (n key bed hoff : Nat) (h : BitVec 64) (spill : Bool) (asid : BitVec 12) (va : Word) (kind : BedKind),
    s.tileUp (key / 16) = true → s.waitsFor (.column key bed hoff kind spill) asid 8 1 = false →
    (s.msg? n = some (.joinIncr h asid va (.column key bed hoff kind spill)) →
      let r := (s.unsend n).homeRmw key bed hoff kind spill asid (fun v => some (Said.countUp v)) (busParty 0)
      (∀ v off, r.2 = .ok v off → Said.Runs (.joinWordChange n) s (Said.homeSends r.1 key (.joinAck h 0 0))) ∧
      (∀ c g4, r.2 = .trip c g4 → Said.Runs (.joinWordChange n) s (Said.homeSends r.1 key (.joinAck h c g4)))) ∧
    (∀ job item, s.msg? n = some (.joinDecr job asid va (.column key bed hoff kind spill) item) →
      let r := (s.unsend n).homeRmw key bed hoff kind spill asid (fun v => some (Said.countDown v)) (busParty 0)
      (∀ v off, r.2 = .ok v off →
        (v % 2 ^ 32 ≠ 1 → Said.Runs (.joinWordChange n) s { r.1 with items := FMap.erase r.1.items item }) ∧
        (v % 2 ^ 32 = 1 → ∀ o, off = some o → ∃ u, Said.Runs (.joinWordChange n) s u ∧
          (u.col key).joins = (r.1.col key).joins.filter (fun w => w.addr != key * 2 ^ 32 + o) ∧
          ∀ w ∈ (r.1.col key).joins, w.addr = key * 2 ^ 32 + o →
            ∃ m, FMap.get? u.msgs m = some (.fill w.handle w.reg w.tag (v - 1) (some 7) none))) ∧
      (∀ c g4, r.2 = .trip c g4 → Said.Runs (.joinWordChange n) s ({ s.unsend n with items := FMap.erase s.items item }.recordStatus job 5)))) ∧
  (∀ (s : State) (n c g4 sid : Nat) (h target joinw : BitVec 64) (home : Option (Nat × Option Nat × BitVec 64)) (st : Strand),
    s.msg? n = some (.joinAck h c g4) → s.strand? h = some st → st.phase = .spawn sid target home joinw .sent →
    Said.Runs (.joinIncrementAck n) s (((s.unsend n).putStrand { st with
      phase := .spawn sid target home joinw (if c = 0 then .acked else .failed c g4) }).rejoin h)) ∧
  (∀ (s : State) (n reg tag key bed hoff : Nat) (h : BitVec 64) (spill : Bool) (asid : BitVec 12) (va : Word) (kind : BedKind),
    let g := Target.column key bed hoff kind spill
    (s.msg? n = some (.joinReg h reg tag asid va g true) →
      ∃ u, Said.Runs (.joinRegistrationRetry n) s u ∧ u.msgs = FMap.set s.msgs n (.joinReg h reg tag asid va g false) ∧
        u.strands = s.strands ∧ (FMap.get? s.transit n = none → u.transit = s.transit) ∧
        ∀ x, FMap.get? s.transit n = some x → FMap.get? u.transit n = some { x with sent := 0, got := 0 }) ∧
    (s.msg? n = some (.joinReg h reg tag asid va g false) → s.tileUp (key / 16) = true → s.waitsFor g asid 8 0 = false →
      let r := s.homeRead key bed hoff kind spill asid 8 0 (busParty h)
      (∀ v o, r.2 = .ok v (some o) →
        (v % 2 ^ 32 = 0 → ∃ u m, Said.Runs (.joinRegistration n) s u ∧ FMap.get? u.msgs m = some (.fill h reg tag v (some 7) none)) ∧
        (v % 2 ^ 32 ≠ 0 → (r.1.col key).joins.length < 256 → ∃ u, Said.Runs (.joinRegistration n) s u ∧
          (u.col key).joins = (r.1.col key).joins ++ [⟨key * 2 ^ 32 + o, h, reg, tag⟩]) ∧
        (v % 2 ^ 32 ≠ 0 → 256 ≤ (r.1.col key).joins.length → ∃ u, Said.Runs (.joinRegistration n) s u ∧
          FMap.get? u.msgs n = some (.joinReg h reg tag asid va g true) ∧ (u.col key).joins = (r.1.col key).joins)) ∧
      (∀ c g4, r.2 = .trip c g4 → ∃ u m, Said.Runs (.joinRegistration n) s u ∧
        FMap.get? u.msgs m = some (.fill h reg tag 0 (some 7) (some ⟨va, if c = 9 then .ofNat 64 g4 else .ofNat 64 (c * 256 + 12)⟩))))) ∧
  (∀ (s : State) (n k id piece value item : Nat) (va : Word) (e : Vtld), piece < 32 → s.msg? n = some (.readDone (.vtld k id piece) va value none item) →
    FMap.get? (s.core k).vtlds id = some e → e.pieces.length = 31 → FMap.get? e.pieces piece = none → value < 2 ^ 256 →
    ∃ u, Said.Runs (.vtldTableReplace n) s u ∧ ∀ c, c < 256 → FMap.get? (u.core k).table c =
      some (.ofNat 19 (e8m10.ofVal 0 (fp32.value (Said.tableWord e.pieces piece value c))).1)) ∧
  (∀ (s : State) (n op reg tag key bed hoff : Nat) (h : BitVec 64) (spill : Bool) (asid : BitVec 12) (x : Word) (kind : BedKind),
    (s.msg? n = some (.cacheCtl op h reg tag asid none x) →
      Said.Runs (.cacheControlRequest n) s ((s.unsend n).send (.fill h reg tag (2 ^ 64 - 1) none none))) ∧
    (s.msg? n = some (.cacheCtl op h reg tag asid (some (.column key bed hoff kind spill)) x) → s.tileUp (key / 16) = true →
      s.waitsFor (.column key bed hoff kind spill) asid 1 0 = false → ∀ e, (s.col key).tlbHit asid (bed * 2 ^ 40 + hoff) = some e →
      let pa := e.off + (bed * 2 ^ 40 + hoff) % e.size
      let base := pa / 65536 * 65536
      let stop := min (pa + x.toNat) (e.off + e.size)
      let len := min ((stop - base + 65535) / 65536) 65535
      let q := s.quad (quadOfCol key)
      let answers := fun (q : Quad) (v : Nat) => Said.Runs (.cacheControlRequest n) s
        (((s.unsend n).putQuad (quadOfCol key) q).sendFrom (key / 16) (.fill h reg tag v none none))
      (op = 3 → x ≠ 0 → let hit := Said.dirtyIn (key % 16) (pa / 64) ((stop - 1) / 64)
        answers { q with lines := q.lines.map (fun l => if hit l then { l with dirty := false } else l),
                         qwbk := q.qwbk + (q.lines.filter hit).length } (q.lines.filter hit).length) ∧
      (op = 0 → x ≠ 0 → ∀ i, i < 8 → (∀ j, j < i → (FMap.getD q.ret j 0).getLsbD 63 = true) →
        (FMap.getD q.ret i 0).getLsbD 63 = false → answers { q with ret := FMap.set q.ret i (Said.range (key % 16) base len) } i) ∧
      (op = 0 → x ≠ 0 → (∀ j, j < 8 → (FMap.getD q.ret j 0).getLsbD 63 = true) → answers q (2 ^ 64 - 1)) ∧
      (op = 2 → x ≠ 0 → ∀ i, i < 4 → (∀ j, j < i → (FMap.getD q.ef j 0).getLsbD 63 = true) →
        (FMap.getD q.ef i 0).getLsbD 63 = false → answers { q with ef := FMap.set q.ef i (Said.range (key % 16) base len) } i) ∧
      (op = 0 ∨ op = 2 → x = 0 → answers q (2 ^ 64 - 1)) ∧
      (op = 2 → x ≠ 0 → (∀ j, j < 4 → (FMap.getD q.ef j 0).getLsbD 63 = true) → answers q (2 ^ 64 - 1)) ∧
      (op = 1 → x.toNat < 8 → ∃ r, answers { q with ret := FMap.set q.ret x.toNat r } 0 ∧ r.getLsbD 63 = false ∧
        ∀ b, b < 63 → r.getLsbD b = (FMap.getD q.ret x.toNat 0).getLsbD b) ∧
      (op = 1 → 8 ≤ x.toNat → x.toNat < 12 → ∃ r, answers { q with ef := FMap.set q.ef (x.toNat - 8) r } 0 ∧ r.getLsbD 63 = false ∧
        ∀ b, b < 63 → r.getLsbD b = (FMap.getD q.ef (x.toNat - 8) 0).getLsbD b) ∧
      (op = 1 → 11 < x.toNat → answers q (2 ^ 64 - 1))))

/-- Spec/10 R201, R202, spec/07 R136: a rake unit takes the next request: with no index elements it is done; with a valid kernel it runs; an
invalid one sets KERR and ends. An element whose index line cannot be used is one skip; the targets its kernel names are fetched, or
prefetched into the tile cache on their home tile; a line that is there or on its way is not fetched again; a line that comes enters the rake
buffer with AG as it then is, and one that fails is a skip.
Choices of the model: log 35. -/
def Obligations.RakeUnitRunsItsRequests : Prop :=
  (∀ (s : State) (t c : Nat) (r : RakeReq) (q : List RakeReq) (it : Item), let key := colKey t c
    (s.col key).rakeRun = none → (s.col key).rakeQ = r :: q → FMap.get? s.items r.item = some it →
    (r.nidx = 0 → ∃ u, Said.Runs (.rakeRequestStart t c) s u ∧ (u.col key).rakeQ = q ∧ (u.col key).rakeRun = none ∧
      u.items = FMap.erase s.items r.item) ∧
    (r.nidx ≠ 0 → (∀ tab, s.taskTable t r.asid = some tab → s.rakeWaits t tab .fetch r.asid r.kaddr 4 = false) →
      let l := (s.putCol key { s.col key with rakeQ := q }).loadKernel t r
      (∀ k, l.2 = .inl k → Said.Runs (.rakeRequestStart t c) s (l.1.putCol key { l.1.col key with rakeRun := some { r with kernel := k } })) ∧
      (∀ code, l.2 = .inr code → FMap.get? l.1.items r.item = some it → ∃ u, Said.Runs (.rakeRequestStart t c) s u ∧ (u.col key).kerr = code ∧
        (u.col key).rakeRun = none ∧ u.items = FMap.erase l.1.items r.item))) ∧
  (∀ (s : State) (t c : Nat) (r : RakeReq), let key := colKey t c
    let va := r.ia + .ofNat 64 ((if r.wide then 8 else 4) * r.next)
    (s.col key).rakeRun = some r → r.todo = [] → r.next + 1 < r.nidx →
    (∀ tab, s.taskTable t r.asid = some tab → s.rakeWaits t tab .rake r.asid (.ofNat 64 (va.toNat / 64 * 64)) 64 = false) →
    (r.line = some (va.toNat / 64, none) → ∃ u, Said.Runs (.rakeElement t c) s u ∧
      (u.col key).rakeRun = some { r with next := r.next + 1 } ∧ (u.col key).skips = min ((s.col key).skips + 1) (2 ^ 32 - 1)) ∧
    (∀ line v, r.line = some (va.toNat / 64, some line) → v = line / 2 ^ (8 * (va.toNat % 64)) % 2 ^ (8 * (if r.wide then 8 else 4)) →
      let l := kernelRun r.kernel 0 (r.regs v) [] 129
      (l = [] → ∃ u, Said.Runs (.rakeElement t c) s u ∧ (u.col key).rakeRun = some { r with next := r.next + 1 } ∧ u.msgs = s.msgs ∧ u.mem = s.mem) ∧
      (∀ a tab b k bed hoff kind spill, l = [a] → (s.col key).rakeOut < 64 → s.taskTable t r.asid = some tab →
        let w : Word := .ofNat 64 (a.toNat / 64 * 64)
        let sent := fun (pf : Bool) => ∃ u m, Said.Runs (.rakeElement t c) s u ∧ (u.col key).rakeOut = (s.col key).rakeOut + 1 ∧
          FMap.get? u.msgs m = some (.rakeFetch key r.item r.asid (a.toNat / 64) (.column k bed hoff kind spill) pf) ∧
          (u.col key).rakeRun = some { r with next := r.next + 1, out := r.out + 1 }
        tab.check .rake w 1 = .inr b → s.targetBed b (tab.spills b.index) t w = .column k bed hoff kind spill →
        (k / 16 = t → sent true) ∧
        (k / 16 ≠ t → (s.col key).rakeBuf = [] → s.fetching key r.asid (a.toNat / 64) = false → sent false) ∧
        (k / 16 ≠ t → (∃ y ∈ (s.col key).rakeBuf, y.asid = r.asid ∧ y.line = a.toNat / 64 ∧ y.bad = false) ∨
          s.fetching key r.asid (a.toNat / 64) = true → ∃ u, Said.Runs (.rakeElement t c) s u ∧ (u.col key).rakeOut = (s.col key).rakeOut ∧
            u.msgs = s.msgs ∧ (u.col key).rakeRun = some { r with next := r.next + 1 })))) ∧
  (∀ (s : State) (n key item line : Nat) (asid : BitVec 12) (g : Target),
    (s.msg? n = some (.rakeFetch key item asid line g false) → s.waitsFor g asid 64 0 = false →
      let r := s.serveRead g asid 64 0 (busParty 0)
      (∀ v off, r.2 = .ok v off → ∃ u, Said.Runs (.rakeFetchFill n) s u ∧ FMap.get? u.msgs n = some (.rakeData key item asid line (some v)) ∧
        u.cols = r.1.cols) ∧
      (∀ c g4, r.2 = .trip c g4 → ∃ u, Said.Runs (.rakeFetchFill n) s u ∧ FMap.get? u.msgs n = some (.rakeData key item asid line none) ∧
        u.cols = r.1.cols)) ∧
    (∀ v, s.msg? n = some (.rakeData key item asid line (some v)) → ∃ u x, Said.Runs (.rakeFetchFill n) s u ∧ x ∈ (u.col key).rakeBuf ∧
      x.asid = asid ∧ x.line = line ∧ x.data = v ∧ x.ag = (s.tile (key / 16)).ag ∧ (u.col key).rakeOut = (s.col key).rakeOut - 1) ∧
    (s.msg? n = some (.rakeData key item asid line none) → ∃ u, Said.Runs (.rakeFetchFill n) s u ∧
      (u.col key).skips = min ((s.col key).skips + 1) (2 ^ 32 - 1) ∧ (u.col key).rakeOut = (s.col key).rakeOut - 1 ∧
      (u.col key).rakeBuf = (s.col key).rakeBuf) ∧
    (s.msg? n = some (.rakeFetch key item asid line g true) → s.waitsFor g asid 1 0 = false →
      let p := (s.unsend n).physOf asid g
      ∀ pa, p.2 = some pa → p.1.errAt pa 1 = none →
        Said.Runs (.rakeFetchFill n) s ((p.1.viaBus (pa / 2 ^ 32) (pa % 2 ^ 32) 1 false).rakeEnd key item true)))
namespace Sys2Proof.Said

/-- An integer reduction in a 64-bit lane (spec/09 R158): signed where the element type is I64; CNT adds counts. -/
def reduce64 (op etype a b : Nat) : Nat :=
  match op with
  | 0 => (a + b) % 2 ^ 64
  | 1 => if etype = 1 then (if (BitVec.ofNat 64 b).slt (.ofNat 64 a) then b else a) else min a b
  | 2 => if etype = 1 then (if (BitVec.ofNat 64 a).slt (.ofNat 64 b) then b else a) else max a b
  | 3 => a &&& b
  | 4 => a ||| b
  | 5 => a ^^^ b
  | _ => (a + b) % 2 ^ 64
/-- The panel address of a location of a quadrant: its key is column * 2^32 + column offset. -/
def locAddr (tile loc : Nat) : Nat := (tile * 16 + loc / 2 ^ 32) * 2 ^ 32 + loc % 2 ^ 32
/-- Lane width and the floating element types (spec/09 R158). -/
def laneBits (etype : Nat) : Nat := match etype with | 0 => 32 | 1 => 64 | 2 => 32 | 3 => 64 | 4 => 32 | _ => 16
def floatLane (etype : Nat) : Bool := etype == 4 || etype == 5
/-- A floating MIN or MAX: a NaN gives the canonical quiet NaN, -0 lies below +0 (spec/09 R160). -/
def pickFloat (F : FFmt) (max : Bool) (a b : Nat) : Nat :=
  let x := F.value a
  let y := F.value b
  let less := fun (p q : FVal) => p.lt q || (p.isZero && q.isZero && p.neg && !q.neg)
  if x.isNan || y.isNan then F.qnan else if (if max then less x y else less y x) then b else a
/-- A lane of memory joined with one partial result of its location (spec/09 R158, R160, R161, R170): a floating ADD's result is an FE96
value, and the exact sum is rounded once to the element type. -/
def joined (op etype m v : Nat) : Nat :=
  let e := laneBits etype
  let F := if etype = 4 then fp32 else fp16
  match op with
  | 0 => if floatLane etype then (F.add 0 (F.value m) (fe96.value v)).1 else (m + v) % 2 ^ e
  | 1 => if floatLane etype then pickFloat F false m v
    else if etype ≤ 1 then (if (BitVec.ofNat e v).slt (.ofNat e m) then v else m) else min m v
  | 2 => if floatLane etype then pickFloat F true m v
    else if etype ≤ 1 then (if (BitVec.ofNat e m).slt (.ofNat e v) then v else m) else max m v
  | 3 => m &&& v
  | 4 => m ||| v
  | 5 => m ^^^ v
  | _ => (m + v) % 2 ^ e
/-- A bin entry is the one that a granule's apply finds: its granule has a directory entry, no other location of it is pending, in the bins
or in a run, its lanes hold values of their width, and neither it nor its line of memory has an error. -/
def sole (s : State) (tile qk loc : Nat) (b : BinEntry) : Prop :=
  let q := s.quad qk
  loc / 4096 ∈ q.dir ∧ FMap.get? q.bins loc = some b ∧ (∀ kv ∈ q.bins, kv.1 / 4096 = loc / 4096 → kv.1 = loc) ∧
  (∀ r ∈ q.runs, ∀ kv ∈ r.entries, kv.1 / 4096 ≠ loc / 4096) ∧ b.bad = false ∧ b.op < 7 ∧ b.etype < 6 ∧
  (∀ i v, FMap.get? b.lanes i = some v → v < 2 ^ (if b.op = 0 ∧ floatLane b.etype = true then 96 else laneBits b.etype)) ∧
  s.errAt (locAddr tile loc) 8 = none
/-- The apply of a location's bin entry: each lane that it touched is joined, the others and every other byte stay (spec/09 R170). -/
def applied (s u : State) (tile loc : Nat) (b : BinEntry) : Prop :=
  let pa := locAddr tile loc
  let e := laneBits b.etype
  (∀ i, i < 64 / e → bits (u.mem.read pa 8) (e * i) e = match FMap.get? b.lanes i with
    | some v => joined b.op b.etype (bits (s.mem.read pa 8) (e * i) e) v
    | none => bits (s.mem.read pa 8) (e * i) e) ∧
  ∀ a, a < pa ∨ pa + 8 ≤ a → u.mem.byte a = s.mem.byte a
/-- A pair's entry in an outbound queue is free, and its item is done or failed. -/
def answered (s u : State) (k tag item : Nat) (ok : Bool) : Prop :=
  (u.core k).outq = FMap.erase (s.core k).outq tag ∧ u.mem = s.mem ∧
  ∀ it, FMap.get? s.items item = some it →
    if ok then u.items = FMap.erase s.items item else FMap.get? u.items item = some { it with failed := true }

end Sys2Proof.Said

/-- Spec/09 R158, R162 to R175: a flit takes one to three waiting pairs that share home, bed, operator and type, from the oldest on. A pair arrives
translated as a write: one on a dead tile or with a fault fails; an empty mask is accepted with no effect; one whose location has a pending entry of another operator or
type is refused and its granule applied by force; one that finds too few slots, 256 of them kept for pairs refused eight times, is refused;
any other joins its location's entry. An accepted or failed pair frees its queue entry; a refused one waits out a backoff. A forced apply and
a flush combine the pending lanes into memory, integer or floating, as one event for a granule; they wait while a run is written or a lane
switches. A spill writes every bin entry into runs, line by line, its slots free as their lines are written; forced applies for one go on until
the run or the slots are free.
Choices of the model: log 31, 39. -/
def Obligations.UpdatesAreCombinedAndApplied : Prop :=
  (∀ (c : Core) (n : Nat) (p : Nat × OutPair) (l : List (Nat × OutPair)), c.nextFlit n = p :: l →
    l.length ≤ 2 ∧ l.length ≤ n - 1 ∧ ∀ q ∈ p :: l, q.2.state = .waiting ∧ q ∈ c.outq ∧ q.2.home = p.2.home ∧ q.2.asid = p.2.asid ∧
      q.2.bed = p.2.bed ∧ q.2.op = p.2.op ∧ q.2.etype = p.2.etype ∧ (q ∈ l → p.2.item ≤ q.2.item)) ∧
  (∀ (s : State) (t core n : Nat), let c := s.core (coreKey t core)
    (c.outq = [] → Said.Runs (.updateSend t core n) s s) ∧
    (∀ k p, c.outq = [(k, p)] → p.state = .waiting → Said.Runs (.updateSend t core n) s
      ((s.putCore (coreKey t core) { c with outq := [(k, { p with state := .sent })] }).sendFrom t (.update p.home (colKey t (core / 48))
        (coreKey t core) p.asid p.bed p.op p.etype [⟨k, p.hoff, p.lmask, p.value, p.refusals⟩])))) ∧
  (∀ (s : State) (n key scol core bed op etype : Nat) (asid : BitVec 12) (p : FlitPair),
    s.msg? n = some (.update key scol core asid bed op etype [p]) →
    let s0 := s.unsend n
    let qk := key / 4
    (s.tileUp (key / 16) = false → Said.Runs (.updateFlitArrival n) s (s0.send (.updateAns core p.tag .failed))) ∧
    (s.tileUp (key / 16) = true → (s.col key).repair ≠ none → Said.Runs (.updateFlitArrival n) s s) ∧
    (s.tileUp (key / 16) = true → (s.col key).repair = none →
      (∀ s1 c g4, s0.translate key asid (bed * 2 ^ 40 + p.hoff) 1 = (s1, .trip c g4) →
        Said.Runs (.updateFlitArrival n) s (s1.sendFrom (key / 16) (.updateAns core p.tag .failed))) ∧
      (∀ s1 off, s0.translate key asid (bed * 2 ^ 40 + p.hoff) 1 = (s1, .ok off) → ∃ sp,
        let r := (s1.quad qk).offer (key % 16 * 2 ^ 32 + off) op etype sp asid bed p.lmask p.value.toNat p.refused
        Said.Runs (.updateFlitArrival n) s ((s1.putQuad qk r.1).sendFrom (key / 16) (.updateAns core p.tag r.2))))) ∧
  (∀ (s : State) (n key scol core bed op etype : Nat) (asid : BitVec 12) (ps : List FlitPair),
    s.msg? n = some (.update key scol core asid bed op etype ps) → s.tileUp (key / 16) = false →
    Said.Runs (.updateFlitArrival n) s (ps.foldl (fun s p => s.send (.updateAns core p.tag .failed)) (s.unsend n))) ∧
  (∀ (q : Quad) (loc op etype sp bed m v k : Nat) (asid : BitVec 12),
    let slots := if op = 0 ∧ (etype = 4 ∨ etype = 5) then 4 else 1
    let r := q.offer loc op etype sp asid bed m v k
    (m = 0 → r = ({ q with svacc := q.svacc + 1 }, .accepted)) ∧
    (m ≠ 0 → ∀ b, q.pendingAt loc = some b → b.op ≠ op ∨ b.etype ≠ etype →
      r.2 = .refused ∧ r.1.bins = q.bins ∧ r.1.svref = q.svref + 1 ∧ loc / 4096 ∈ r.1.forceQ) ∧
    (m ≠ 0 → q.pendingAt loc = none → q.freeSlot < slots + (if 8 ≤ k then 0 else 256) →
      r = ({ q with svref := q.svref + 1 }, .refused)) ∧
    (m ≠ 0 → q.pendingAt loc = none → slots + (if 8 ≤ k then 0 else 256) ≤ q.freeSlot → q.freeDir ≠ 0 →
      ∃ b, r.2 = .accepted ∧ FMap.get? r.1.bins loc = some b ∧ (∀ j, j ≠ loc → FMap.get? r.1.bins j = FMap.get? q.bins j) ∧
        b.op = op ∧ b.etype = etype ∧ (asid, bed) ∈ b.srcs ∧ loc / 4096 ∈ r.1.dir ∧
        (etype = 1 ∨ etype = 3 → op < 6 → m = 1 → v < 2 ^ 64 → FMap.get? b.lanes 0 = some v)) ∧
    (m = 1 → ∀ b w, FMap.get? q.bins loc = some b → b.op = op → b.etype = etype → etype = 1 ∨ etype = 3 → op < 6 → v < 2 ^ 64 → w < 2 ^ 64 →
      FMap.get? b.lanes 0 = some w → loc / 4096 ∈ q.dir →
      ∃ b', r.2 = .accepted ∧ FMap.get? r.1.bins loc = some b' ∧ FMap.get? b'.lanes 0 = some (Said.reduce64 op etype w v))) ∧
  (∀ (s : State) (n k tag : Nat) (p : OutPair), FMap.get? (s.core k).outq tag = some p →
    (s.msg? n = some (.updateAns k tag .refused) → Said.Runs (.updateAnswer n) s ((s.unsend n).putCore k
      { s.core k with outq := FMap.set (s.core k).outq tag { p with state := .backoff, refusals := p.refusals + 1 } })) ∧
    (s.msg? n = some (.updateAns k tag .accepted) → ∃ u, Said.Runs (.updateAnswer n) s u ∧ Said.answered s u k tag p.item true) ∧
    (s.msg? n = some (.updateAns k tag .failed) → ∃ u, Said.Runs (.updateAnswer n) s u ∧ Said.answered s u k tag p.item false)) ∧
  (∀ (s : State) (t core tag : Nat) (p : OutPair), let k := coreKey t core
    FMap.get? (s.core k).outq tag = some p → p.state = .backoff →
    Said.Runs (.updateResend t core tag) s (s.putCore k { s.core k with outq := FMap.set (s.core k).outq tag { p with state := .waiting } })) ∧
  (∀ (s : State) (t qn : Nat), qn < 4 → let qk := quadKey t qn
    let q := s.quad qk
    let held := ∃ i, i < 4 ∧ (s.col (colKey t (4 * qn + i))).repair ≠ none
    (held → Said.Runs (.sieveSpillDone t qn) s s ∧ (q.spilling = true → Said.Runs (.sieveSpill t qn) s s)) ∧
    (¬ held → q.spilling = true →
      ((∀ r ∈ q.runs, r.left = 0) → Said.Runs (.sieveSpill t qn) s s) ∧
      ∀ pre post r, q.runs = pre ++ r :: post → (∀ x ∈ pre, x.left = 0) → r.left ≠ 0 → ∃ u, Said.Runs (.sieveSpill t qn) s u ∧
        (u.quad qk).runs = q.runs.map (fun x => if x.id = r.id then { x with left := x.left - 1 } else x) ∧ (u.quad qk).bins = q.bins ∧
        (u.quad qk).spilling = true ∧ q.freeSlot ≤ (u.quad qk).freeSlot ∧ u.strands = s.strands ∧ u.sram = s.sram ∧
        (s.memOk → ∀ a, a / 64 ∉ r.pas → u.mem.byte a = s.mem.byte a)) ∧
    (¬ held → ∃ u, Said.Runs (.sieveSpillDone t qn) s u ∧ (u.quad qk).spilling = false ∧ (u.quad qk).bins = q.bins ∧
      (u.quad qk).runs = q.runs.map (fun r => { r with writing := false, left := 0 }) ∧ u.strands = s.strands ∧ u.sram = s.sram ∧
      (s.memOk → ∀ a, (∀ r ∈ q.runs, r.writing = true → a / 64 ∉ r.pas) → u.mem.byte a = s.mem.byte a)) ∧
    (16384 ≤ q.freeSlot → q.spilling = false → Said.Runs (.sieveSpill t qn) s s) ∧
    (q.freeSlot < 16384 → q.spilling = false → q.forceQ = [] → q.forcing = .none → s.spillFits qk = true →
      ∃ r, Said.Runs (.sieveSpill t qn) s (s.bump.putQuad qk r) ∧
      r.bins = [] ∧ r.spilling = true ∧ r.dir = q.dir ∧ (∃ l, r.runs = q.runs ++ l ∧ r.svspill = q.svspill + l.length ∧
        ∀ kv ∈ q.bins, ∃ x ∈ l, x.spill = kv.2.spill ∧ x.writing = true ∧ 0 < x.left ∧ kv ∈ x.entries)) ∧
    (s.sieveHeld qk = true → Said.Runs (.forcedApply t qn) s s) ∧
    (∀ g rest, s.sieveHeld qk = false → q.forceQ = g :: rest → g ∈ q.dir → ∃ u, Said.Runs (.forcedApply t qn) s u ∧ (u.quad qk).svforce = q.svforce + 1 ∧
      g ∉ (u.quad qk).dir ∧ g ∉ (u.quad qk).forceQ ∧ (∀ kv ∈ (u.quad qk).bins, kv.1 / 4096 ≠ g) ∧ u.strands = s.strands ∧ u.sram = s.sram) ∧
    (∀ loc b rest, s.memOk → s.sieveHeld qk = false → q.forceQ = loc / 4096 :: rest → Said.sole s t qk loc b →
      ∃ u, Said.Runs (.forcedApply t qn) s u ∧ Said.applied s u t loc b) ∧
    (∀ f, s.sieveHeld qk = false → q.forceQ = [] → q.forcing = f → f ≠ .none →
      (q.forceNext f = none → Said.Runs (.forcedApply t qn) s (s.putQuad qk { q with forcing := .none })) ∧
      (∀ g, q.forceNext f = some g → g ∈ q.dir → ∃ u, Said.Runs (.forcedApply t qn) s u ∧ (u.quad qk).svforce = q.svforce + 1 ∧ g ∉ (u.quad qk).dir ∧
        ((u.quad qk).forcing = f ∨ ((u.quad qk).forcing = .none ∧ (u.quad qk).forceNext f = none))))) ∧
  (∀ (s : State) (n id qk bed : Nat) (h : BitVec 64) (asid : BitVec 12), s.msg? n = some (.flush h id qk asid bed) →
    (s.tileUp (qk / 4) = false → Said.Runs (.flushRequest n) s ((s.unsend n).send (.flushAck h id false))) ∧
    (s.tileUp (qk / 4) = true → s.sieveHeld qk = true → Said.Runs (.flushRequest n) s s) ∧
    (s.tileUp (qk / 4) = true → s.sieveHeld qk = false → ∃ u m, Said.Runs (.flushRequest n) s u ∧
      FMap.get? u.msgs m = some (.flushAck h id true) ∧ (u.quad qk).granulesOf asid bed = [] ∧ u.strands = s.strands ∧
      (∀ loc b, s.memOk → (s.quad qk).granulesOf asid bed = [loc / 4096] → Said.sole s (qk / 4) qk loc b → Said.applied s u (qk / 4) loc b) ∧
      ((s.quad qk).granulesOf asid bed = [] → u.mem = s.mem))) ∧
  (∀ (s : State) (n id k : Nat) (h : BitVec 64) (f ok : Bool) (st : Strand), s.msg? n = some (.flushAck h id ok) → s.strand? h = some st →
    st.phase = .uflush id k f →
    Said.Runs (.flushAck n) s (((s.unsend n).putStrand { st with phase := .uflush id (k - 1) (f || !ok) }).rejoin h))
namespace Sys2Proof.Said

/-- A task's ring entry in a state, with a fault code (spec/10 R204). -/
def ringShows (u : State) (t tseq : Nat) (st : TaskState) (code : Nat) : Prop :=
  ∃ e, FMap.get? (u.tile t).ring (tseq % 256) = some e ∧ e.tseq = tseq ∧ e.state = st ∧ e.fcode = code
/-- The task's area entry on a tile. -/
def taskAt (s : State) (t n : Nat) : Option Task := FMap.get? (s.tile t).tasks n
/-- Every waiter of a task has a fill with this value on its way (spec/18 R364). -/
def waitersFilled (s u : State) (t n v : Nat) : Prop :=
  ∀ w ∈ (s.tile t).taskWaiters, w.tseq = n → ∃ m, FMap.get? u.msgs m = some (.fill w.handle w.reg w.tag v (some 4) none)
/-- The matrix record with MTASK's scales in bits 319 to 256 (spec/18 R363). -/
def scaled (r : Nat) (scales : Word) : Nat := r / 2 ^ 320 * 2 ^ 320 + scales.toNat * 2 ^ 256 + r % 2 ^ 256
/-- The outcome word of a task that is done (spec/10 R188). -/
def outcome (x : Task) : Nat := x.tseq * 2 ^ 32 + x.tag * 2 ^ 16 + (if x.ovf then 512 else 0) + (if x.nan then 256 else 0)

end Sys2Proof.Said

/-- Spec/18 R363, R364, spec/10 R181, R185 to R188, R203, R204: MTASK and CTASK check their record's address as a load of 128 bytes, set d
Awaiting, count one item and send the post; TASKW sets d Awaiting and sends its request. The scheduler accepts a post in arrival order with the next TSEQ:
the record is read, checked (code 1), its tag held against the job's tasks (code 10), and it is Ready when no predecessor is left; with
no entry free the post is sent again after a backoff; the record's sixteen locations are read in any order (spec/08 R138), one of them
perhaps before the rest; a cancelled job's post is done. A Ready task issues to its engine; one that has
finished writes its word, lowers its successors' counts, is retired and fills its waiters.
Choices of the model: log 2, 13, 23. -/
def Obligations.TasksArePostedAndRetired : Prop :=
  (∀ (s : State) (st : Strand) (d : GReg) (a b : GSrc) (h : BedHit) (copy : Bool),
    let i := if copy then Instr.ctask d a else .mtask d a b
    let srcs := if copy then [Said.g a] else [Said.g a, Said.g b]
    let r := s.readSources st srcs
    let s1 := r.1.touchBed r.2 h
    let va := st.gv a.reg
    Said.Issues s st (srcs.map (·.1)) → s.lookup st va = .hit h →
    (va.toNat % 128 ≠ 0 → Sys2Proof.Machine.exec i s = .next ((s.touchBed st h).trap st ⟨3, va, 128⟩)) ∧
    (va.toNat % 128 = 0 → h.bed.rd = true → h.bed.kind ≠ .host → h.bed.kind ≠ .peer → Sys2Proof.Machine.exec i s =
      .next (((s1.putStrand ((r.2.await d.toNat s1.fresh).completed (st.pc + 4))).addItem
        ⟨st.handle, st.job, if copy then .copy else .task, some st.colKey, 0, false, 0⟩).send
          (.taskPost st.loc.tile copy st.handle d.toNat s1.fresh st.job st.flat st.loc.col st.asid va
            (if copy then 0 else st.gv b.reg) s1.fresh false [])))) ∧
  (∀ (s : State) (st : Strand) (d : GReg) (a : GSrc), Said.Issues s st [a.reg.toNat] →
    let r := s.readSources st [Said.g a]
    Sys2Proof.Machine.exec (.taskw d a) s = .next ((r.1.putStrand ((r.2.await d.toNat r.1.fresh).completed (st.pc + 4))).send
      (.taskw st.loc.tile st.handle d.toNat r.1.fresh ((st.gv a.reg).toNat % 2 ^ 32)))) ∧
  (∀ (s : State) (n t reg tag job flat col item : Nat) (copy : Bool) (h : BitVec 64) (asid : BitVec 12) (va scales : Word) (again : Bool) (ahead : FMap Nat),
    s.msg? n = some (.taskPost t copy h reg tag job flat col asid va scales item again ahead) →
    (again = true → ∃ u, Said.Runs (.taskPostRetry n) s u ∧
      u.msgs = FMap.set s.msgs n (.taskPost t copy h reg tag job flat col asid va scales item false []) ∧ u.items = s.items ∧ u.strands = s.strands ∧
      (FMap.get? s.transit n = none → u.transit = s.transit) ∧
      ∀ x, FMap.get? s.transit n = some x → FMap.get? u.transit n = some { x with sent := 0, got := 0 }) ∧
    (again = false → s.tileUp t = true → s.jobCancelled job = false → va.toNat % 128 = 0 → ∀ tab, s.taskTable t asid = some tab →
      ∃ u b, Said.Runs (.taskPostRetry n) s u ∧ FMap.get? u.msgs n = some (.taskPost t copy h reg tag job flat col asid va scales item false b) ∧
        u.items = s.items ∧ u.strands = s.strands ∧ u.mem = s.mem ∧
        (b = ahead ∨ ∃ k v s1, k < 16 ∧ FMap.get? ahead k = none ∧ b = FMap.set ahead k v ∧
          s.bump.taskRead t tab asid (va + .ofNat 64 (8 * k)) 8 8 (s.tile t).tseq false = (s1, .ok v))) ∧
    (again = false → s.tileUp t = true →
      (s.job? job = none → ∀ it, FMap.get? s.items item = some it →
        Said.Runs (.taskPostArrival n) s ({ s.unsend n with items := FMap.erase s.items item }.rejoin it.handle)) ∧
      (∀ j tab, s.job? job = some j → j.cancelCause = 0 → s.taskTable t asid = some tab →
        let N := (s.tile t).tseq
        (s.taskWaits t tab .copyRead asid va 128 0 = true → Said.Runs (.taskPostArrival n) s s) ∧
        ∀ s1 res, s.taskWaits t tab .copyRead asid va 128 0 = false → s.taskRead t tab asid va 128 128 N false = (s1, res) →
        ((s.tile t).tasks.length + (s.tile t).holders.length = 4096 → (s.tile t).holders = [] → Said.Runs (.taskPostArrival n) s
          { s with msgs := FMap.set s.msgs n (.taskPost t copy h reg tag job flat col asid va scales item true []) }) ∧
        ((s.tile t).tasks.length + (s.tile t).holders.length < 4096 →
          (∀ c, res = .fault c → c < 64 → ∃ u, Said.Runs (.taskPostArrival n) s u ∧ Said.ringShows u t N .faulted c) ∧
          (∀ v, res = .ok v →
            let got := recordRead v ahead
            let rec_ := if copy then got else Said.scaled got scales
            (s.recordOk job copy rec_ = false → ∃ u, Said.Runs (.taskPostArrival n) s u ∧ Said.ringShows u t N .faulted 1) ∧
            (s.recordOk job copy rec_ = true → (∃ y ∈ (s.tile t).tasks, y.2.job = job ∧ y.2.tag = rec_ / 2 ^ 228 % 2 ^ 12) →
              ∃ u, Said.Runs (.taskPostArrival n) s u ∧ Said.ringShows u t N .faulted 10) ∧
            (s.recordOk job copy rec_ = true → (∀ y ∈ (s.tile t).tasks, ¬(y.2.job = job ∧ y.2.tag = rec_ / 2 ^ 228 % 2 ^ 12)) →
              (s.tile t).holders = [] → ∃ u x m, Said.Runs (.taskPostArrival n) s u ∧ Said.taskAt u t N = some x ∧ x.tseq = N ∧ x.record = rec_ ∧
                x.job = job ∧ x.poster = h ∧ x.tag = rec_ / 2 ^ 228 % 2 ^ 12 ∧ x.item = item ∧ x.isCopy = copy ∧
                x.state = (if rec_ / 2 ^ 240 % 256 = 0 then .ready else .waiting) ∧ x.count = (rec_ / 2 ^ 240 % 256 : Nat) ∧
                FMap.get? u.msgs m = some (.fill h reg tag N none none) ∧ (u.tile t).tseq = (if N = 0xFFFFFFFE then 1 else N + 1) ∧
                u.mem = s1.mem)))))) ∧
  (∀ (v k : Nat) (ahead : FMap Nat), FMap.sorted ahead = true → (∀ e ∈ ahead, e.1 < 16 ∧ e.2 < 2 ^ 64) → k < 16 →
    recordRead v ahead / 2 ^ (64 * k) % 2 ^ 64 = FMap.getD ahead k (v / 2 ^ (64 * k) % 2 ^ 64)) ∧
  (∀ (s : State) (t n : Nat) (x : Task), Said.taskAt s t n = some x → x.tseq = n →
    (x.state ≠ .ready → Said.Runs (.taskIssue t n) s s) ∧
    (x.state = .ready → s.tileUp t = true →
      (x.isCopy = false → s.matrixFree t x = false → Said.Runs (.taskIssue t n) s s) ∧
      (x.isCopy = false → s.matrixFree t x = true → x.done = 0 →
        let k := quadKey t (recEng x.record)
        let bank := if recBank x.record = 0 then (s.engine k).bank0 else (s.engine k).bank1
        (recBody x.record 651 1 = 1 → ∃ u y, Said.Runs (.taskIssue t n) s u ∧ Said.taskAt u t n = some y ∧ y.state = .running ∧
          (u.engine k).run = some n ∧ (u.engine k).step = 0 ∧
          (if recBank x.record = 0 then (u.engine k).bank0 else (u.engine k).bank1) = ⟨recFe x.record, [], false⟩) ∧
        (recBody x.record 651 1 = 0 → bank.fe = recFe x.record → ∃ u y, Said.Runs (.taskIssue t n) s u ∧ Said.taskAt u t n = some y ∧
          y.state = .running ∧ (u.engine k).run = some n ∧ (u.engine k).bank0 = (s.engine k).bank0 ∧ (u.engine k).bank1 = (s.engine k).bank1)) ∧
      (x.isCopy = true → (s.tile t).tasks = [(n, x)] → x.held = false → x.partner = none → s.copyFree t x = true → ∀ c, s.freeCopyEngine t = some c →
        ∃ u y, Said.Runs (.taskIssue t n) s u ∧ Said.taskAt u t n = some y ∧ y.state = .running ∧ y.eng = c ∧ (u.col (colKey t c)).copy = some n))) ∧
  (∀ (s : State) (t n : Nat) (x : Task), Said.taskAt s t n = some x → x.tseq = n →
    (x.finished = false ∨ s.wordBefore t x = true → Said.Runs (.taskFinish t n) s s) ∧
    (x.finished = true → s.wordBefore t x = false → x.fin = 0 → recNsucc x.record = 0 → (∃ e, FMap.get? (s.tile t).ring (n % 256) = some e ∧ e.tseq = n) →
      ∀ it, FMap.get? s.items x.item = some it →
      (recCw x.record = 0 → ∃ u, Said.Runs (.taskFinish t n) s u ∧ Said.ringShows u t n .done 0 ∧
        Said.waitersFilled s u t n (Said.outcome x) ∧ u.items = FMap.erase s.items x.item ∧ u.mem = s.mem) ∧
      (recCw x.record ≠ 0 → ∀ tab s1 tl, s.taskTable t x.asid = some tab →
        s.taskWaits t tab .copyWrite x.asid (.ofNat 64 (recCw x.record)) 8 1 = false →
        s.taskWrite t tab x.asid x.job (.ofNat 64 (recCw x.record)) (leBytes (Said.outcome x) 8) 8 n = (s1, none, tl) →
        ∃ u, Said.Runs (.taskFinish t n) s u ∧ Said.ringShows u t n .done 0 ∧ Said.waitersFilled s u t n (Said.outcome x) ∧ u.mem = s1.mem)) ∧
    (x.finished = true → s.wordBefore t x = false → x.fin = 0 → recCw x.record ≠ 0 → ∀ tab s1 tl c, s.taskTable t x.asid = some tab →
      (s.taskWaits t tab .copyWrite x.asid (.ofNat 64 (recCw x.record)) 8 1 = true → Said.Runs (.taskFinish t n) s s) ∧
      (s.taskWaits t tab .copyWrite x.asid (.ofNat 64 (recCw x.record)) 8 1 = false →
        s.taskWrite t tab x.asid x.job (.ofNat 64 (recCw x.record)) (leBytes (Said.outcome x) 8) 8 n = (s1, some c, tl) →
        Said.Runs (.taskFinish t n) s ((if x.isCopy then s1.cpUndefined t tab x else s1).faultRunning t x c (.ofNat 64 (recCw x.record))))) ∧
    (x.finished = true → s.wordBefore t x = false → x.fin = 0 → recCw x.record = 0 → ∀ tag y, recSuccs x.record = [tag] → (s.tile t).tasks = [(y.tseq, y), (n, x)] →
      y.tseq < n → y.job = x.job → y.tag = tag → x.tag ≠ tag → y.state = .waiting →
      (1 < y.count → ∃ u z, Said.Runs (.taskFinish t n) s u ∧ Said.taskAt u t y.tseq = some z ∧ z.state = .waiting ∧ z.count = y.count - 1) ∧
      (y.count ≤ 1 → ∃ u z, Said.Runs (.taskFinish t n) s u ∧ Said.taskAt u t y.tseq = some z ∧ z.state = .ready))) ∧
  (∀ (s : State) (n t reg tag k : Nat) (h : BitVec 64), s.msg? n = some (.taskw t h reg tag k) →
    (∀ x, Said.taskAt s t k = some x → Said.Runs (.taskwRequest n) s
      ((s.unsend n).putTile t { s.tile t with taskWaiters := (s.tile t).taskWaiters ++ [⟨k, h, reg, tag⟩] })) ∧
    (Said.taskAt s t k = none → ∀ v,
      ((∀ e, FMap.get? (s.tile t).ring (k % 256) = some e → e.tseq ≠ k) ∧ v = 2 ^ 64 - 1) ∨
      (∃ e, FMap.get? (s.tile t).ring (k % 256) = some e ∧ e.tseq = k ∧
        ((e.state = .done ∧ v = k * 2 ^ 32 + e.tag * 2 ^ 16) ∨ (e.state = .faulted ∧ v = e.tag * 2 ^ 16 + e.fcode) ∨
          (e.state = .cancelled ∧ v = e.tag * 2 ^ 16))) →
      Said.Runs (.taskwRequest n) s ((s.unsend n).sendFrom t (.fill h reg tag v (some 4) none))))
namespace Sys2Proof.Said

/-- Byte n of a list, as a signed number. -/
def int8 (l : List Byte) (n : Nat) : Int := ((l[n]?).getD 0).toInt
/-- The sum of the products of a step of k columns at output (m, n): row m of A and column n of B, bytes with k running fastest
(spec/10 R190). -/
def dot (a b : List Byte) (k m n : Nat) : Int := ((List.range k).map (fun i => int8 a (m * k + i) * int8 b (n * k + i))).sum
/-- A bank of an engine. -/
def bankOf (e : Engine) (b : Nat) : Bank := if b = 0 then e.bank0 else e.bank1
/-- A raw copy from memory to memory of the posting tile, without multicast, scales or hedge (spec/10 R184). -/
def plainCopy (r : Nat) : Prop :=
  cpKind r = 0 ∧ cpMen r = false ∧ cpScgen r = false ∧ cpSfmt r = 0 ∧ cpDfmt r = 0 ∧ recHen r = false ∧ ∀ i, i < 4 → cpN r i ≠ 0
/-- The address of the element at a count of elements already moved: base, and the strides by the four loop indices (spec/10
R196). -/
def elementAt (r base lo n : Nat) : Word :=
  let i := fun k => n / (List.range k).foldl (fun p j => p * cpN r j) 1 % cpN r k
  .ofNat 64 base + .ofNat 64 (i 3) * (BitVec.ofNat 32 (recBody r (lo - 64) 32)).signExtend 64
    + .ofNat 64 (i 2) * (BitVec.ofNat 32 (recBody r (lo - 32) 32)).signExtend 64
    + .ofNat 64 (i 1) * (BitVec.ofNat 32 (recBody r lo 32)).signExtend 64 + .ofNat 64 (i 0 * 2 ^ recBody r 390 2)
/-- A write's message has come to its node. -/
def delivered (s : State) (m : Option Nat) : State := match m with | some i => s.unsend i | none => s
/-- What a copy has on its way is dropped. -/
def dropped (s : State) (x : Task) : State := (x.writes.filterMap (·.msg)).foldl State.unsend s
/-- A drain's element size, the address of element (m, n), and the locations of row m (spec/10 R194). -/
def drainWidth (r : Nat) : Nat := match recBody r 655 3 with | 0 => 4 | 1 => 2 | 2 => 2 | 3 => 1 | 4 => 1 | _ => 4
def drainAt (r m n : Nat) : Nat := recBody r 712 56 + m * recBody r 680 32 + n * drainWidth r
def drainLocs (r m : Nat) : Nat := (drainAt r m 256 - 1) / 8 - drainAt r m 0 / 8 + 1
/-- Location j of row m begins a row whose predecessor ends in it: it is written with that row's elements (spec/08 R138). -/
def drainJoint (r m j : Nat) : Prop := 0 < m ∧ drainAt r m 0 / 8 + j ≤ (drainAt r (m - 1) 256 - 1) / 8
/-- The locations of a drain, each once. -/
def drainEvents (r : Nat) : Nat :=
  ((List.range 256).map (fun m => ((List.range (drainLocs r m)).filter (fun j =>
    m = 0 ∨ (drainAt r (m - 1) 256 - 1) / 8 < drainAt r m 0 / 8 + j)).length)).sum
/-- The elements of row m in its location j are the cnt elements from n0 on. -/
def drainPart (r m j n0 cnt : Nat) : Prop :=
  0 < cnt ∧ n0 + cnt ≤ 256 ∧ ∀ n < 256, drainAt r m n / 8 = drainAt r m 0 / 8 + j ↔ n0 ≤ n ∧ n < n0 + cnt
/-- Their bytes, in order. -/
def drainBytes (r : Nat) (b : Bank) (m n0 cnt : Nat) : List Byte :=
  ((List.range cnt).map (fun i => leBytes (drainElement (recBody r 655 3) b.fe (recBody r 32 32) (recBody r 0 32)
    (FMap.getD b.ents (256 * m + (n0 + i)) Acc.zero)) (drainWidth r))).flatten
/-- Nothing of the engine is waiting to be drained. -/
def stepFits (e : Engine) (r : Nat) : Prop :=
  stepBytesA r (stepK r e.step) ≤ e.chA.length ∧ stepBytesB r (stepK r e.step) ≤ e.chB.length

end Sys2Proof.Said

/-- Spec/10 R189 to R197, R203, spec/12 R245, R247: a copy engine reads its elements in loop order, a location once, and issues their writes; those of different
locations are performed in any order. It faults with the code of the access that fails, after what it has issued, and finishes after the last write; one
without channel room faults with code 8. A step begins when both channels hold its bytes, and pops them;
without them it faults with code 7. The end of an I8 step adds to each FX96 entry the exact sum of its products; a task without a drain
is finished after its last step. A drain to I32 writes 0 for a NaN flag, the end of the range for an overflow, else the value
rounded and saturated; each location of the result is
written by an event of its own, with the elements of two rows where they meet in it, and the task is finished when every one is written.
A write for another node travels there, and one that is lost faults the copy with code 12; a source location may be read ahead of its turn. An engine SRAM with an error faults the task with code 5.
-/
def Sys2Proof.Said.enginesCopyStepAndDrain : Prop :=
  (∀ (s : State) (t eng n : Nat) (x : Task) (tab : BedTable), eng < 16 → s.tileUp t = true → (s.col (colKey t eng)).copy = some n →
    (s.tile t).tasks = [(n, x)] → x.tseq = n → x.isCopy = true → x.partner ≠ some n → x.state = .running → x.finished = false → x.stopping = false →
    s.taskTable t x.asid = some tab → Said.plainCopy x.record →
    let r := x.record
    let total := cpN r 0 * cpN r 1 * cpN r 2 * cpN r 3
    let size := 2 ^ recBody r 390 2
    let src := Said.elementAt r (recBody r 712 56) 560 x.done
    let dst := Said.elementAt r (recBody r 656 56) 464 x.done
    let ix := cpIndex r x.done
    (s.jobCancelled x.job = true → Said.Runs (.copyRun t eng 0) s s) ∧
    (s.jobCancelled x.job = false → x.due = none → x.done < total → s.cpWaits t tab x ix = true → Said.Runs (.copyRun t eng 0) s s) ∧
    (s.jobCancelled x.job = false → x.due = none → x.done < total → s.cpWaits t tab x ix = false → x.got = none → FMap.get? x.ahead x.done = none →
      (∀ tp, tab.check .copyRead src size = .inl tp → x.writes = [] → Said.Runs (.copyRun t eng 0) s (s.faultRunning t x 3 src)) ∧
      (∀ hs key bed hoff kind spill, tab.check .copyRead src size = .inr hs →
        s.targetBed hs (tab.spills hs.index) t src = .column key bed hoff kind spill →
        ∀ s1 res, s.taskRead t tab x.asid (.ofNat 64 (src.toNat / 8 * 8)) 8 8 n (x.lastRd == some (src.toNat / 64)) = (s1, res) →
        (∀ c, res = .fault c → (x.writes = [] → Said.Runs (.copyRun t eng 0) s (s1.faultRunning t x c src)) ∧
          (x.writes ≠ [] → Said.Runs (.copyRun t eng 0) s (s1.putTask t { x with due := some (c, src) }))) ∧
        (∀ v hd s2, res = .ok v → tab.check .copyWrite dst size = .inr hd → let g := s1.targetBed hd (tab.spills hd.index) t dst
          s1.taskLand g x.asid size n (x.lastWr == some (dst.toNat / 64)) = (s2, none) →
          let data := leBytes (v / 2 ^ (8 * (src.toNat % 8)) % 2 ^ (8 * size)) size
          ∃ u y, Said.Runs (.copyRun t eng 0) s u ∧ Said.taskAt u t n = some y ∧ y.done = x.done + 1 ∧ y.state = .running ∧ u.mem = s2.mem ∧
            ((∀ w ∈ x.writes, w.va + w.data.length ≠ dst.toNat) ∨ dst.toNat % 8 = 0 →
              y.writes = x.writes ++ [⟨.mem g, dst.toNat, data, if g.node = t then none else some s2.fresh⟩] ∧
              (g.node ≠ t → FMap.get? u.msgs s2.fresh = some (.copyData g.node))) ∧
            (∀ w, x.writes = [w] → w.dest = .mem g → w.va + w.data.length = dst.toNat → dst.toNat % 8 ≠ 0 →
              y.writes = [{ w with data := w.data ++ data }])))) ∧
    (∀ i, s.jobCancelled x.job = false → x.due = none → x.done ≤ i → i < total → FMap.get? x.ahead i = none →
      let a := Said.elementAt r (recBody r 712 56) 560 i
      let p := Said.elementAt r (recBody r 712 56) 560 (i - 1)
      (i = 0 ∨ (p ≠ a ∧ (p + .ofNat 64 size ≠ a ∨ a.toNat % 8 = 0))) → s.taskWaits t tab .copyRead x.asid a 1 0 = false →
      ∀ hs key bed hoff kind spill, tab.check .copyRead a size = .inr hs → s.targetBed hs (tab.spills hs.index) t a = .column key bed hoff kind spill →
      ∀ s1 v, s.taskRead t tab x.asid (.ofNat 64 (a.toNat / 8 * 8)) 8 8 n (x.lastRd == some (a.toNat / 64)) = (s1, .ok v) →
        Said.Runs (.copyRun t eng (2 ^ 32 + i)) s (s1.putTask t { x with ahead := FMap.set x.ahead i v, lastRd := some (a.toNat / 64) })) ∧
    (∀ v hd s1, s.jobCancelled x.job = false → x.due = none → x.done < total → s.cpWaits t tab x ix = false → x.got = none →
      FMap.get? x.ahead x.done = some v → tab.check .copyWrite dst size = .inr hd → let g := s.targetBed hd (tab.spills hd.index) t dst
      s.taskLand g x.asid size n (x.lastWr == some (dst.toNat / 64)) = (s1, none) → g.node = t → x.writes = [] →
      ∃ u y, Said.Runs (.copyRun t eng 0) s u ∧ Said.taskAt u t n = some y ∧ y.done = x.done + 1 ∧ y.ahead = FMap.erase x.ahead x.done ∧
        y.writes = [⟨.mem g, dst.toNat, leBytes (v / 2 ^ (8 * (src.toNat % 8)) % 2 ^ (8 * size)) size, none⟩] ∧ u.mem = s1.mem) ∧
    (∀ c a, s.jobCancelled x.job = false → x.due = some (c, a) → x.writes = [] → Said.Runs (.copyRun t eng 0) s (s.faultRunning t x c a)) ∧
    (∀ i w g, x.writes[i]? = some w → i < 2 ^ 32 - 1 → w.dest = .mem g → (∀ m, w.msg = some m → s.landed m = true) →
      let s0 := Said.delivered s w.msg
      (∀ v ∈ x.writes.take i, s0.writePlace x.asid v = s0.writePlace x.asid w → Said.Runs (.copyRun t eng (i + 1)) s s) ∧
      ((∀ v ∈ x.writes.take i, s0.writePlace x.asid v ≠ s0.writePlace x.asid w) → (w.va + w.data.length) % 8 = 0 ∨ total ≤ x.done →
        (s0.waitsFor g x.asid w.data.length 1 = true → Said.Runs (.copyRun t eng (i + 1)) s s) ∧
        (s0.waitsFor g x.asid w.data.length 1 = false → ∀ s1 f tl, s0.taskPut g x.asid x.job w.data n true = (s1, f, tl) →
          let x1 := { x with writes := x.writes.eraseIdx i }
          (f = none → s.jobCancelled x.job = false → s1.jobCancelled x.job = false → Said.Runs (.copyRun t eng (i + 1)) s (s1.putTask t x1)) ∧
          (∀ c, f = some c → Said.Runs (.copyRun t eng (i + 1)) s
            ((Said.dropped s1 x).faultRunning t { x with writes := [] } c (.ofNat 64 w.va)))))) ∧
    (∀ i w m, x.writes[i]? = some w → i < 2 ^ 32 - 1 → w.msg = some m →
      (s.isLost m = true → Said.Runs (.copyRun t eng (i + 1)) s ((Said.dropped s x).faultRunning t { x with writes := [] } 12 0)) ∧
      (s.isLost m = false → s.landed m = false → Said.Runs (.copyRun t eng (i + 1)) s s)) ∧
    (s.jobCancelled x.job = false → x.due = none → total ≤ x.done → x.scales = [] → x.writes = [] → ∃ u y, Said.Runs (.copyRun t eng 0) s u ∧
      Said.taskAt u t n = some y ∧ y.finished = true ∧ (u.col (colKey t x.eng)).copy ≠ some n ∧ u.mem = s.mem)) ∧
  (∀ (s : State) (t n code : Nat) (x : Task) (fa : Word), code < 64 → (∃ e, FMap.get? (s.tile t).ring (n % 256) = some e ∧ e.tseq = n) → x.tseq = n →
    Said.ringShows (s.faultTask t x code fa 0) t n .faulted code ∧ Said.waitersFilled s (s.faultTask t x code fa 0) t n (x.tag * 2 ^ 16 + code)) ∧
  (∀ (s : State) (t eng n : Nat) (x : Task), eng < 16 → (s.col (colKey t eng)).copy = some n → s.task? t n = some x →
    (cpKind x.record = 0 ∨ cpKind x.record = 3 → Said.Runs (.channelFullTimeout t eng) s s) ∧
    (cpKind x.record = 1 → x.done < cpTotal x.record → x.partner ≠ some n → cpMen x.record = false → (s.tile t).tasks = [(n, x)] → x.tseq = n → x.writes = [] →
      (2 ^ 21 < (s.engine (quadKey t (cpEng x.record))).chA.length + cpUnitBytes x.record →
        (cpSfmt x.record = 0 → Said.Runs (.channelFullTimeout t eng) s (s.faultRunning t x 8 0)) ∧
        ((∃ e, FMap.get? (s.tile t).ring (n % 256) = some e ∧ e.tseq = n) →
          ∃ u, Said.Runs (.channelFullTimeout t eng) s u ∧ Said.ringShows u t n .faulted 8)) ∧
      ((s.engine (quadKey t (cpEng x.record))).chA.length + cpUnitBytes x.record ≤ 2 ^ 21 → Said.Runs (.channelFullTimeout t eng) s s))) ∧
  (∀ (s : State) (t eng n : Nat) (x : Task), let k := quadKey t eng
    let e := s.engine k
    e.run = some n → s.task? t n = some x → e.cur = none → e.step < stepCount x.record → x.stopping = false → x.held = false →
    (Said.stepFits e x.record → Said.Runs (.channelStarveTimeout t eng) s s) ∧
    (¬ Said.stepFits e x.record → Said.Runs (.channelStarveTimeout t eng) s (s.faultRunning t x 7 0) ∧ (Said.Runs (.matrixStepBegin t eng) s s)) ∧
    (Said.stepFits e x.record → s.tileUp t = true → e.badA = true ∨ e.badB = true →
      Said.Runs (.matrixStepBegin t eng) s ((s.logError t 3 true 0 0 x.tseq).faultRunning t x 5 0)) ∧
    (Said.stepFits e x.record → s.tileUp t = true → e.badA = false → e.badB = false → recBse x.record = true → e.badScale = true →
      Said.Runs (.matrixStepBegin t eng) s ((s.logError t 5 true 0 0 x.tseq).faultRunning t x 5 0)) ∧
    (Said.stepFits e x.record → s.tileUp t = true → e.badA = false → e.badB = false → recBse x.record = false →
      let a := stepBytesA x.record (stepK x.record e.step)
      let b := stepBytesB x.record (stepK x.record e.step)
      Said.Runs (.matrixStepBegin t eng) s (s.putEngine k { e with
        chA := e.chA.drop a, chB := e.chB.drop b, cur := some ⟨stepK x.record e.step, e.chA.take a, e.chB.take b, [], []⟩ }))) ∧
  (∀ (s : State) (t eng n : Nat) (x : Task) (c : EngStep), let k := quadKey t eng
    let e := s.engine k
    e.run = some n → s.task? t n = some x → e.cur = some c → (Said.bankOf e (recBank x.record)).bad = true →
      Said.Runs (.matrixStepEnd t eng) s ((s.logError t 5 true 0 0 x.tseq).faultRunning t x 5 0)) ∧
  (∀ (s : State) (t eng n : Nat) (x : Task) (c : EngStep), let k := quadKey t eng
    let e := s.engine k
    e.run = some n → s.task? t n = some x → e.cur = some c → (Said.bankOf e (recBank x.record)).bad = false → recFmtA x.record = 3 → recFmtB x.record = 3 → recBse x.record = false →
    recSpa x.record = false → c.k % 32 = 0 → c.k ≤ 256 → c.a.length = 256 * c.k → c.b.length = 256 * c.k →
    (∃ j, s.job? x.job = some j ∧ j.cancelCause = 0) →
    (∀ m < 256, ∀ p < 256, (FMap.getD (Said.bankOf e (recBank x.record)).ents (256 * m + p) Acc.zero).fx.natAbs < 2 ^ 94) →
    ∃ u, Said.Runs (.matrixStepEnd t eng) s u ∧
      (∀ m < 256, ∀ p < 256, let old := FMap.getD (Said.bankOf e (recBank x.record)).ents (256 * m + p) Acc.zero
        FMap.getD (Said.bankOf (u.engine k) (recBank x.record)).ents (256 * m + p) Acc.zero =
          { old with fx := old.fx + Said.dot c.a c.b c.k m p * 2 ^ 36 }) ∧
      (u.engine k).cur = none ∧ (u.engine k).step = e.step + 1 ∧ u.mem = s.mem ∧
      (x.tseq = n → stepCount x.record ≤ e.step + 1 → recDrain x.record = false → (u.engine k).run = none ∧
        ∃ y, Said.taskAt u t n = some y ∧ y.finished = true)) ∧
  (∀ (sca scb : Nat) (fe : Bool) (a : Acc),
    (a.nan = true → drainElement 5 fe sca scb a = 0) ∧
    (a.nan = false → a.ovf = true → fe = false → drainElement 5 fe sca scb a = if a.fx < 0 then 2 ^ 31 else 2 ^ 31 - 1) ∧
    (a.nan = false → a.ovf = false → fe = false → ∀ v : Int, a.fx = v * 2 ^ 36 →
      drainElement 5 fe sca scb a = ((max (-2 ^ 31) (min (2 ^ 31 - 1) v)) % 2 ^ 32).toNat)) ∧
  (∀ (s : State) (t eng n loc : Nat) (x : Task) (tab : BedTable), eng < 4 → let k := quadKey t eng
    let e := s.engine k
    let b := Said.bankOf e (recBank x.record)
    let r := x.record
    let m := loc / 129
    let j := loc % 129
    e.drain = some n → s.task? t n = some x → x.tseq = n → s.taskTable t x.asid = some tab →
    (256 ≤ m ∨ Said.drainLocs r m ≤ j ∨ Said.drainJoint r m j ∨ e.drained.testBit loc = true → Said.Runs (.drainDone t (eng + 4 * loc)) s s) ∧
    (m < 256 → j < Said.drainLocs r m → ¬ Said.drainJoint r m j → e.drained.testBit loc = false →
      (b.bad = true → (∃ g, FMap.get? ((s.logError t 5 true 0 0 n).tile t).ring (n % 256) = some g ∧ g.tseq = n) →
        ∃ u, Said.Runs (.drainDone t (eng + 4 * loc)) s u ∧ Said.ringShows u t n .faulted 5) ∧
      (b.bad = false → ∀ n0 cnt, Said.drainPart r m j n0 cnt → let va := Said.drainAt r m n0
        (s.taskWaits t tab .copyWrite x.asid (.ofNat 64 va) 8 1 = true → Said.Runs (.drainDone t (eng + 4 * loc)) s s) ∧
        (s.taskWaits t tab .copyWrite x.asid (.ofNat 64 va) 8 1 = false →
          (∀ n1 h s1 t1 h1 s2 t2, (∀ k, m + 1 < k → k < 256 → Said.drainAt r m 0 / 8 + j < Said.drainAt r k 0 / 8) → m + 1 < 256 →
            Said.drainAt r (m + 1) 0 / 8 ≤ Said.drainAt r m 0 / 8 + j → let j1 := Said.drainAt r m 0 / 8 + j - Said.drainAt r (m + 1) 0 / 8
            Said.drainPart r (m + 1) j1 0 n1 → let va1 := Said.drainAt r (m + 1) 0
            tab.check .copyWrite (.ofNat 64 va) (Said.drainWidth r) = .inr h →
            s.taskPut (s.targetBed h (tab.spills h.index) t (.ofNat 64 va)) x.asid x.job (Said.drainBytes r b m n0 cnt) n (j != 0 && decide (8 ≤ va % 64)) =
              (s1, none, t1) →
            tab.check .copyWrite (.ofNat 64 va1) (Said.drainWidth r) = .inr h1 →
            s1.taskPut (s1.targetBed h1 (tab.spills h1.index) t (.ofNat 64 va1)) x.asid x.job (Said.drainBytes r b (m + 1) 0 n1) n
              (j1 != 0 && decide (8 ≤ va1 % 64)) = (s2, none, t2) →
            e.drainCount + 1 < Said.drainEvents r → Said.Runs (.drainDone t (eng + 4 * loc)) s
              (s2.putEngine k { s2.engine k with drained := e.drained + 2 ^ loc, drainCount := e.drainCount + 1 })) ∧
          ((∀ k, m < k → k < 256 → Said.drainAt r m 0 / 8 + j < Said.drainAt r k 0 / 8) → ∀ h, tab.check .copyWrite (.ofNat 64 va) (Said.drainWidth r) = .inr h → ∀ s1 f tl,
            s.taskPut (s.targetBed h (tab.spills h.index) t (.ofNat 64 va)) x.asid x.job (Said.drainBytes r b m n0 cnt) n (j != 0 && decide (8 ≤ va % 64)) =
              (s1, f, tl) →
            (f = none → e.drainCount + 1 < Said.drainEvents r → Said.Runs (.drainDone t (eng + 4 * loc)) s
              (s1.putEngine k { s1.engine k with drained := e.drained + 2 ^ loc, drainCount := e.drainCount + 1 })) ∧
            (f = none → Said.drainEvents r ≤ e.drainCount + 1 → (s1.engine k).run = none →
              ∃ u y, Said.Runs (.drainDone t (eng + 4 * loc)) s u ∧ Said.taskAt u t n = some y ∧ y.finished = true ∧ (u.engine k).drain = none ∧
                u.mem = s1.mem ∧ (y.nan = true ↔ ∃ kv ∈ b.ents, kv.2.nan = true)) ∧
            (∀ c, f = some c → c < 64 → (∃ g, FMap.get? (s1.tile t).ring (n % 256) = some g ∧ g.tseq = n) →
              ∃ u, Said.Runs (.drainDone t (eng + 4 * loc)) s u ∧ Said.ringShows u t n .faulted c)) ∧
          (∀ tp, tab.check .copyWrite (.ofNat 64 va) (Said.drainWidth r) = .inl tp → (∃ g, FMap.get? (s.tile t).ring (n % 256) = some g ∧ g.tseq = n) →
            ∃ u, Said.Runs (.drainDone t (eng + 4 * loc)) s u ∧ Said.ringShows u t n .faulted 3)))))
namespace Sys2Proof.Said

/-- The value of a copy's source element (spec/10 R184): code 7 is I8, codes 1 to 6 the floating formats. -/
def srcVal (sfmt e : Nat) : FVal :=
  if sfmt = 7 then .fin ⟨decide (128 ≤ e % 256), (if 128 ≤ e % 256 then 256 - e % 256 else e % 256), 0⟩ else (ffmt (sfmt - 1)).value e
/-- Bytes of an element of a format code of a copy, E2M1 apart. -/
def elemBytes (fmt : Nat) : Nat := match fmt with | 1 => 4 | 2 => 2 | 3 => 2 | _ => 1
/-- i is x rounded to an integer by RoundRNE. -/
def nearestInt (x : Rat) (i : Int) : Prop := abs ((i : Rat) - x) ≤ 1 / 2 ∧ (abs ((i : Rat) - x) = 1 / 2 → i % 2 = 0)
/-- A signed encoding beyond the range of a format: its infinity where it has one, else its largest finite value (spec/12 R239). -/
def beyond (F : FFmt) (neg : Bool) : Nat := (if neg then F.signBit else 0) + (if F.ieee then F.inf else F.maxFin)
/-- A copy engine runs this one task, which has nothing on its way and nothing read ahead. -/
def copying (s : State) (t eng n : Nat) (x : Task) (tab : BedTable) : Prop :=
  eng < 16 ∧ s.tileUp t = true ∧ (s.col (colKey t eng)).copy = some n ∧ (s.tile t).tasks = [(n, x)] ∧ x.tseq = n ∧ x.isCopy = true ∧
  x.partner ≠ some n ∧ x.state = .running ∧ x.finished = false ∧ x.stopping = false ∧ s.taskTable t x.asid = some tab ∧
  s.jobCancelled x.job = false ∧ x.due = none ∧ x.writes = [] ∧ x.got = none ∧ x.ahead = [] ∧ recHen x.record = false ∧
  ∀ i, i < 4 → cpN x.record i ≠ 0
/-- The address of element n of a copy whose elements take size bytes (spec/10 R196). -/
def elementBy (r base lo size n : Nat) : Word :=
  let i := fun k => n / (List.range k).foldl (fun p j => p * cpN r j) 1 % cpN r k
  .ofNat 64 base + .ofNat 64 (i 3) * (BitVec.ofNat 32 (recBody r (lo - 64) 32)).signExtend 64
    + .ofNat 64 (i 2) * (BitVec.ofNat 32 (recBody r (lo - 32) 32)).signExtend 64
    + .ofNat 64 (i 1) * (BitVec.ofNat 32 (recBody r lo 32)).signExtend 64 + .ofNat 64 (i 0 * size)
/-- The task's ring entry is there. -/
def ringHas (s : State) (t n : Nat) : Prop := ∃ e, FMap.get? (s.tile t).ring (n % 256) = some e ∧ e.tseq = n
/-- The bodies of two copies differ in the multicast fields alone (spec/10 R184, R199). -/
def bodiesMatch (a b : Nat) : Prop := a / 2 ^ 584 % 2 ^ 440 = b / 2 ^ 584 % 2 ^ 440 ∧ a / 2 ^ 256 % 2 ^ 313 = b / 2 ^ 256 % 2 ^ 313

/-! ### Matrix operands -/

/-- w bits of a number from bit off on. -/
def bitsAt (v off w : Nat) : Nat := v / 2 ^ off % 2 ^ w
/-- The value of an operand of a matrix step, code 8 being I8 and the others floating formats (spec/10 R183, spec/12 R232). -/
def operand (fmt e : Nat) : FVal := if fmt = 8 then srcVal 7 e else (ffmt fmt).value e
def finite (v : FVal) : Prop := ∃ d, v = .fin d
/-- The rational number that a finite value is. -/
def num (v : FVal) : Rat := match v with | .fin d => rat d | _ => 0
/-- B[k][n] of a step (spec/10 R190). -/
def bEl (d : StepData) (n k : Nat) : FVal :=
  let w := fmtWidth (matFmt (recFmtB d.r))
  operand (matFmt (recFmtB d.r)) (bitsAt d.b (n * (d.k * w) + k * w) w)
/-- A[m][k] of a dense step. -/
def aEl (d : StepData) (m k : Nat) : FVal :=
  let w := fmtWidth (matFmt (recFmtA d.r))
  operand (matFmt (recFmtA d.r)) (bitsAt d.a (m * (d.k * w) + k * w) w)
/-- Under SPA: value i of group g of row m, and the lane of the group that it stands in (spec/10 R195). -/
def aKept (d : StepData) (m g i : Nat) : FVal :=
  let w := fmtWidth (matFmt (recFmtA d.r))
  operand (matFmt (recFmtA d.r)) (bitsAt d.a (m * (d.k / 2 * w + d.k) + (2 * g + i) * w) w)
def aLane (d : StepData) (m g i : Nat) : Nat :=
  let w := fmtWidth (matFmt (recFmtA d.r))
  bitsAt d.a (m * (d.k / 2 * w + d.k) + d.k / 2 * w + 4 * g + 2 * i) 2
/-- The sum of the products of group g of four at output (m, n). -/
def groupSum (d : StepData) (m n g : Nat) : Rat :=
  if recSpa d.r then num (aKept d m g 0) * num (bEl d n (4 * g + aLane d m g 0)) + num (aKept d m g 1) * num (bEl d n (4 * g + aLane d m g 1))
  else ((List.range 4).map (fun l => num (aEl d m (4 * g + l)) * num (bEl d n (4 * g + l)))).sum
/-- The bytes of the two block scales of K-block j, and their product, 1 without BSE (spec/10 R191, spec/12 R233). -/
def scaleA (d : StepData) (m j : Nat) : Nat := bitsAt d.sa (8 * (256 * j + m)) 8
def scaleB (d : StepData) (n j : Nat) : Nat := bitsAt d.sb (8 * (256 * j + n)) 8
def blockScales (d : StepData) (m n j : Nat) : Rat :=
  if recBse d.r then num (e4m3.value (scaleA d m j)) * num (e4m3.value (scaleB d n j)) else 1
/-- Every operand of group g is finite, and neither block scale of it is a NaN. -/
def groupFinite (d : StepData) (m n g : Nat) : Prop :=
  (∀ l, l < 4 → finite (bEl d n (4 * g + l))) ∧
  (if recSpa d.r then finite (aKept d m g 0) ∧ finite (aKept d m g 1) else ∀ l, l < 4 → finite (aEl d m (4 * g + l))) ∧
  (recBse d.r = true → scaleA d m (g / 8) < 0x7F ∧ scaleB d n (g / 8) < 0x7F)
/-- Some operand of group g, or a block scale of it, is a NaN. -/
def groupNan (d : StepData) (m n g : Nat) : Prop :=
  (∃ l, l < 4 ∧ (bEl d n (4 * g + l)).isNan = true) ∨
  (if recSpa d.r then (aKept d m g 0).isNan = true ∨ (aKept d m g 1).isNan = true else ∃ l, l < 4 ∧ (aEl d m (4 * g + l)).isNan = true) ∨
  (recBse d.r = true ∧ (0x7F ≤ scaleA d m (g / 8) ∨ 0x7F ≤ scaleB d n (g / 8)))

end Sys2Proof.Said

/-- Spec/10 R197, R198, spec/12 R233, R239: a converting copy rounds each element to nearest even into the destination format, or saturates it there; a NaN
without an encoding faults with code 6. With SCGEN a block's scale is the smallest unsigned E4M3 value for which the largest magnitude
divided by it fits, 1.0 for a block of zeros and the largest where none does, and each element is the exact quotient rounded once. The
scales go out once every value is written. -/
def Sys2Proof.Said.copiesConvert : Prop :=
  (∀ (r e : Nat), cpScgen r = false → 1 ≤ cpSfmt r → cpSfmt r ≤ 7 → 1 ≤ cpDfmt r → cpDfmt r ≤ 7 →
    let F := ffmt (cpDfmt r - 1)
    (∀ q, Said.srcVal (cpSfmt r) e = .nan q → cpConvert r [e] = if 6 ≤ cpDfmt r then none else some ([F.qnan], [])) ∧
    (∀ n, Said.srcVal (cpSfmt r) e = .inf n → cpConvert r [e] =
      some ([if cpDfmt r = 7 then (if n then 128 else 127) else Said.beyond F n], [])) ∧
    (∀ d, Said.srcVal (cpSfmt r) e = .fin d → ∃ o, cpConvert r [e] = some ([o], []) ∧
      (cpDfmt r = 7 → ∃ i, Said.nearestInt (Said.rat d) i ∧ o = ((max (-128) (min 127 i)) % 256).toNat) ∧
      (cpDfmt r ≤ 6 → (Said.abs (Said.rat d) ≤ Said.largest F → ∃ fl, Said.Rounds F 0 (Said.rat d) (o, fl)) ∧
        (2 * Said.largest F ≤ Said.abs (Said.rat d) → o = Said.beyond F d.neg)))) ∧
  (∀ (r : Nat) (l : List Nat) (x : Nat → Dy), cpScgen r = true → 1 ≤ cpSfmt r → cpSfmt r ≤ 7 → 1 ≤ cpDfmt r → cpDfmt r ≤ 6 → l ≠ [] →
    (∀ i, i < l.length → Said.srcVal (cpSfmt r) ((l[i]?).getD 0) = .fin (x i)) →
    let F := ffmt (cpDfmt r - 1)
    ∃ es c, cpConvert r l = some (es, [BitVec.ofNat 8 c]) ∧ es.length = l.length ∧
      (∀ amax : Rat, (∀ i, i < l.length → Said.abs (Said.rat (x i)) ≤ amax) → (∃ i, i < l.length ∧ Said.abs (Said.rat (x i)) = amax) →
        (amax = 0 → c = 0x38) ∧
        (amax ≠ 0 → 1 ≤ c ∧ c ≤ 0x7E ∧ (c < 0x7E → amax ≤ Said.num (e4m3.value c) * Said.largest F) ∧
          ∀ b, 1 ≤ b → b < c → Said.num (e4m3.value b) * Said.largest F < amax)) ∧
      ∀ i, i < l.length → Said.abs (Said.rat (x i) / Said.num (e4m3.value c)) ≤ Said.largest F →
        ∃ fl, Said.Rounds F 0 (Said.rat (x i) / Said.num (e4m3.value c)) ((es[i]?).getD 0, fl)) ∧
  (∀ (s : State) (t eng n : Nat) (x : Task) (tab : BedTable), Said.copying s t eng n x tab →
    let r := x.record
    let total := cpN r 0 * cpN r 1 * cpN r 2 * cpN r 3
    cpKind r = 0 → cpMen r = false →
    (cpScgen r = false → cpSfmt r ∈ [1, 2, 3, 4, 5, 7] → cpDfmt r ∈ [1, 2, 3, 4, 5, 7] → x.done < total → s.cpWaits t tab x (cpIndex r x.done) = false →
      let src := Said.elementBy r (recBody r 712 56) 560 (Said.elemBytes (cpSfmt r)) x.done
      let dst := Said.elementBy r (recBody r 656 56) 464 (Said.elemBytes (cpDfmt r)) x.done
      ∀ hs key bed hoff kind spill, tab.check .copyRead src (Said.elemBytes (cpSfmt r)) = .inr hs →
      s.targetBed hs (tab.spills hs.index) t src = .column key bed hoff kind spill →
      ∀ s1 v, s.taskRead t tab x.asid (.ofNat 64 (src.toNat / 8 * 8)) 8 8 n (x.lastRd == some (src.toNat / 64)) = (s1, .ok v) →
      let e := v / 2 ^ (8 * (src.toNat % 8)) % 2 ^ (8 * Said.elemBytes (cpSfmt r))
      (cpConvert r [e] = none → Said.ringHas s1 t n → ∃ u, Said.Runs (.copyRun t eng 0) s u ∧ Said.ringShows u t n .faulted 6) ∧
      (∀ o hd s2, cpConvert r [e] = some ([o], []) → tab.check .copyWrite dst (Said.elemBytes (cpDfmt r)) = .inr hd →
        let g := s1.targetBed hd (tab.spills hd.index) t dst
        s1.taskLand g x.asid (Said.elemBytes (cpDfmt r)) n (x.lastWr == some (dst.toNat / 64)) = (s2, none) → g.node = t →
        ∃ u y, Said.Runs (.copyRun t eng 0) s u ∧ Said.taskAt u t n = some y ∧ y.done = x.done + 1 ∧ u.mem = s2.mem ∧
          y.writes = [⟨.mem g, dst.toNat, leBytes o (Said.elemBytes (cpDfmt r)), none⟩])) ∧
    (∀ c hd s1, cpTotal r ≤ x.done → x.scales = [c] → x.scaled = false → recCw r = 0 → let va : Word := .ofNat 64 (recBody r 328 56)
      tab.check .copyWrite va 1 = .inr hd → let g := s.targetBed hd (tab.spills hd.index) t va
      s.taskLand g x.asid 1 n false = (s1, none) → g.node = t →
      ∃ u y, Said.Runs (.copyRun t eng 0) s u ∧ Said.taskAt u t n = some y ∧ y.scaled = true ∧ y.finished = false ∧
        y.writes = [⟨.gen g, va.toNat, [c], none⟩])) ∧
  (∀ (s : State) (t eng n : Nat) (x : Task) (tab : BedTable), (s.col (colKey t eng)).copy = some n → s.task? t n = some x → s.tileUp t = true →
    x.state = .running → x.finished = false → s.taskTable t x.asid = some tab → x.due = none → cpTotal x.record ≤ x.done → x.writes ≠ [] →
    Said.Runs (.copyRun t eng 0) s s)

/-- Spec/10 R199, spec/02 R25: a multicast to memory writes the replica of each tile of its rectangle, or faults with code 3 where the bed is not
replicated over all of it; one to a channel puts its bytes into the engine of this tile, and sends them to that of every other.
A Ready copy whose body matches that of a running one past nothing yet may be combined with it (whether it became Ready in time is open:
log 2), and a fault of the two faults both. -/
def Sys2Proof.Said.copiesMulticast : Prop :=
  (∀ (s : State) (t align : Nat) (tab : BedTable) (x : Task) (va : Word) (h : BedHit), cpMen x.record = true → cpRect x.record ≠ [] →
    tab.check .copyWrite va align = .inr h → tab.find va.toNat = some h →
    let fits := h.bed.kind = .replicated ∧ ∀ T ∈ cpRect x.record,
      h.bed.trow0 ≤ T / 8 ∧ T / 8 < h.bed.trow0 + h.bed.trows ∧ h.bed.tcol0 ≤ T % 8 ∧ T % 8 < h.bed.tcol0 + h.bed.tcols
    let at_ := fun T => Target.column (h.bed.replica (va.toNat - h.bed.base) T).1 h.index (h.bed.replica (va.toNat - h.bed.base) T).2
      h.bed.kind (tab.spills h.index)
    (fits → ∃ l, s.cpTargets t tab [x] va align = some l ∧ (∀ T ∈ cpRect x.record, at_ T ∈ l) ∧ ∀ g ∈ l, ∃ T ∈ cpRect x.record, g = at_ T) ∧
    (¬ fits → s.cpTargets t tab [x] va align = none)) ∧
  (∀ (s : State) (t eng n : Nat) (x : Task) (tab : BedTable), Said.copying s t eng n x tab →
    let r := x.record
    let size := 2 ^ recBody r 390 2
    let total := cpN r 0 * cpN r 1 * cpN r 2 * cpN r 3
    let src := Said.elementBy r (recBody r 712 56) 560 size x.done
    cpKind r = 1 → cpMen r = true → cpScgen r = false → cpSfmt r = 0 → cpDfmt r = 0 → x.done < total → s.cpWaits t tab x (cpIndex r x.done) = false →
    (∀ T ∈ cpRect r, (s.engine (quadKey T (cpEng r))).chA.length + size ≤ 2 ^ 21) →
    ∀ hs key bed hoff kind spill, tab.check .copyRead src size = .inr hs → s.targetBed hs (tab.spills hs.index) t src = .column key bed hoff kind spill →
    ∀ s1 v, s.taskRead t tab x.asid (.ofNat 64 (src.toNat / 8 * 8)) 8 8 n (x.lastRd == some (src.toNat / 64)) = (s1, .ok v) →
    (∀ T ∈ cpRect r, s1.tileUp T = true) →
    let data := leBytes (v / 2 ^ (8 * (src.toNat % 8)) % 2 ^ (8 * size)) size
    ∃ u y, Said.Runs (.copyRun t eng 0) s u ∧ Said.taskAt u t n = some y ∧ y.done = x.done + 1 ∧
      (t ∈ cpRect r → (u.engine (quadKey t (cpEng r))).chA = (s1.engine (quadKey t (cpEng r))).chA ++ data) ∧
      ∀ T ∈ cpRect r, T ≠ t → ∃ m, ⟨.chan T, 0, data, some m⟩ ∈ y.writes ∧ FMap.get? u.msgs m = some (.copyData T)) ∧
  (∀ (s : State) (t eng n T m : Nat) (x : Task) (tab : BedTable) (data : List Byte) (l : List CopyWrite), s.tileUp t = true → T ≠ t → s.tileUp T = true →
    (s.col (colKey t eng)).copy = some n → (s.tile t).tasks = [(n, x)] → x.tseq = n → x.partner ≠ some n → x.state = .running → x.finished = false →
    s.taskTable t x.asid = some tab → s.jobCancelled x.job = false → recHen x.record = false → cpKind x.record = 1 →
    x.writes = ⟨.chan T, 0, data, some m⟩ :: l → s.landed m = true →
    ∃ u y, Said.Runs (.copyRun t eng 1) s u ∧ Said.taskAt u t n = some y ∧ y.writes = l ∧ y.done = x.done ∧
      (u.engine (quadKey T (cpEng x.record))).chA = (s.engine (quadKey T (cpEng x.record))).chA ++ data ∧ u.msgs = (s.unsend m).msgs) ∧
  (∀ (s : State) (t n : Nat) (x p : Task), (s.tile t).tasks = [(p.tseq, p), (n, x)] → p.tseq < n → x.tseq = n → x.state = .ready → x.isCopy = true →
    x.held = false → x.partner = none → x.done = 0 → s.tileUp t = true → s.heldFrom t x = false → s.channelTaken t x (some p.tseq) = false →
    p.isCopy = true → p.state = .running → p.done = 0 → p.writes = [] → p.finished = false → p.stopping = false → p.partner = none →
    p.job = x.job → p.asid = x.asid → Said.bodiesMatch p.record x.record →
    s.copyFree t x = true → ∀ c, s.freeCopyEngine t = some c → ∃ u y, Said.Runs (.taskIssue t n) s u ∧ Said.taskAt u t n = some y ∧ y.state = .running ∧
      ((y.partner = some p.tseq ∧ y.eng = p.eng ∧ ∀ c, u.col c = s.col c) ∨
        (y.partner = none ∧ y.eng = c ∧ (u.col (colKey t c)).copy = some n)) ∧
      ((Config.freeWord s.fresh).toNat % 2 ≠ 0 → y.partner = some p.tseq)) ∧
  (∀ (s : State) (t n code : Nat) (x y : Task) (fa : Word), (s.tile t).tasks = [(n, x), (y.tseq, y)] → x.tseq = n → n < y.tseq → y.tseq % 256 ≠ n % 256 →
    y.partner = some n → x.partner = none → y.fin = 0 → x.isCopy = true → code < 64 → Said.ringHas s t n → Said.ringHas s t y.tseq →
    Said.ringShows (s.faultRunning t x code fa) t n .faulted code ∧ Said.ringShows (s.faultRunning t x code fa) t y.tseq .faulted code)

/-- Spec/10 R189 to R195, spec/12 R245, R246: a step reads its block scales as it begins, and its end gives every entry the step's products. An FX96 entry
takes the exact sum of the products, each block's times its two scales; an FE96 entry takes each group of four, summed exactly, rounded once
and added with rounding; under SPA a group has two products, in the lanes that the metadata name. A NaN sets the NaN flag. A task that goes on
with a bank of the other kind faults with code 9. -/
def Sys2Proof.Said.matrixStepsFollowTheFormats : Prop :=
  (∀ (s : State) (t n : Nat) (x : Task), let k := quadKey t (recEng x.record)
    Said.taskAt s t n = some x → x.tseq = n → x.state = .ready → x.isCopy = false → s.tileUp t = true → s.matrixFree t x = true → x.done = 0 →
    recBody x.record 651 1 = 0 → (Said.bankOf (s.engine k) (recBank x.record)).fe ≠ recFe x.record → Said.ringHas s t n →
    ∃ u, Said.Runs (.taskIssue t n) s u ∧ Said.ringShows u t n .faulted 9 ∧ (u.engine k).bank0 = (s.engine k).bank0 ∧
      (u.engine k).bank1 = (s.engine k).bank1) ∧
  (∀ (s : State) (t eng n : Nat) (x : Task), let k := quadKey t eng
    let e := s.engine k
    let K := stepK x.record e.step
    e.run = some n → s.task? t n = some x → e.cur = none → e.step < stepCount x.record → x.stopping = false → x.held = false →
    Said.stepFits e x.record → s.tileUp t = true → e.badA = false → e.badB = false → recBse x.record = true → e.badScale = false →
    ∃ u c, Said.Runs (.matrixStepBegin t eng) s u ∧ (u.engine k).cur = some c ∧ c.k = K ∧
      (∀ i, i < 8 * K → c.sa[i]? = some (e.scale.byte (recBody x.record 630 18 + 2048 * e.step + i))) ∧
      (∀ i, i < 8 * K → c.sb[i]? = some (e.scale.byte (recBody x.record 612 18 + 2048 * e.step + i)))) ∧
  (∀ (s : State) (t eng n : Nat) (x : Task) (c : EngStep), let k := quadKey t eng
    let e := s.engine k
    e.run = some n → s.task? t n = some x → e.cur = some c → (Said.bankOf e (recBank x.record)).bad = false → s.jobCancelled x.job = false →
    ∃ u, Said.Runs (.matrixStepEnd t eng) s u ∧ (Said.bankOf (u.engine k) (recBank x.record)).fe = recFe x.record ∧
      ∀ m < 256, ∀ p < 256, FMap.getD (Said.bankOf (u.engine k) (recBank x.record)).ents (256 * m + p) Acc.zero =
        StepData.entry ⟨x.record, c.k, leValue c.a, leValue c.b, leValue c.sa, leValue c.sb⟩ m p
          (FMap.getD (Said.bankOf e (recBank x.record)).ents (256 * m + p) Acc.zero)) ∧
  (∀ (d : StepData) (m n : Nat) (x : Acc), recFe d.r = false → d.k ≤ 256 → d.k % 32 = 0 → x.fx.natAbs < 2 ^ 94 →
    recFmtA d.r < 6 → recFmtB d.r < 6 → (∀ g, g < d.k / 4 → Said.groupFinite d m n g) → ∃ v : Int, d.entry m n x = { x with fx := v } ∧
      (v : Rat) = (x.fx : Rat) + 2 ^ 36 * ((List.range (d.k / 4)).map (fun g => Said.groupSum d m n g * Said.blockScales d m n (g / 8))).sum) ∧
  (∀ (d : StepData) (m n : Nat) (x : Acc), recFe d.r = true → d.entry m n x = (List.range (d.k / 4)).foldl (fun y g => d.feGroup m n g y) x) ∧
  (∀ (d : StepData) (m n g : Nat) (x : Acc) (old : Dy), Said.groupFinite d m n g → fe96.value x.fe.toNat = .fin old →
    let sum := Said.groupSum d m n g * Said.blockScales d m n (g / 8)
    Said.abs sum ≤ Said.largest fe96 → ∃ b fl, Said.Rounds fe96 0 sum (b, fl) ∧
      let next := Said.rat old + Said.num (fe96.value b)
      (Said.abs next ≤ Said.largest fe96 → let y := d.feGroup m n g x
        y.nan = x.nan ∧ y.ovf = x.ovf ∧ y.fx = x.fx ∧ ∃ fl, Said.Rounds fe96 0 next (y.fe.toNat, fl))) ∧
  (∀ (d : StepData) (m n g : Nat) (x : Acc), d.k % 32 = 0 → g < d.k / 4 → Said.groupNan d m n g → (d.entry m n x).nan = true) ∧
  (∀ (d : StepData) (m n : Nat) (x : Acc), x.nan = true → (d.entry m n x).nan = true)

/-- Spec/10 R189 to R199, R203, spec/12 R233, R239, R245 to R247: a copy engine handles its elements in order, reads a location once, and issues writes, of which those
of different locations are performed in any order; a failing access faults its task with that access's code after what was issued. A converting copy rounds each
element, and SCGEN gives each block the smallest scale that fits. A multicast copy writes the replicas of its rectangle or sends its bytes to every engine of
it; two like copies may be combined, and fault together. A step begins when both channels hold its bytes; its end adds to each entry the exact sum of its
products, or in FE96 each group's sum, rounded once; block scales, sparse lanes and NaN flags follow the formats, and a bank of the other kind is code 9. A drain writes
each element's rounded and saturated value, each location by an event. A starved or full channel faults with 7 or 8, an error of the engine's store with 5.
Choices of the model: log 2, 23, 36, 37. -/
def Obligations.EnginesCopyMultiplyAndDrain : Prop :=
  Sys2Proof.Said.enginesCopyStepAndDrain ∧ Sys2Proof.Said.copiesConvert ∧ Sys2Proof.Said.copiesMulticast ∧ Sys2Proof.Said.matrixStepsFollowTheFormats
namespace Sys2Proof.Said

/-- The fields of a hedge rectangle (spec/18 R366): ROW0, COL0, ROWS, COLS. -/
def row0 (r : BitVec 14) : Nat := (r.extractLsb' 0 3).toNat
def col0 (r : BitVec 14) : Nat := (r.extractLsb' 3 3).toNat
def rows (r : BitVec 14) : Nat := (r.extractLsb' 6 4).toNat
def cols (r : BitVec 14) : Nat := (r.extractLsb' 10 4).toNat
/-- The rectangle lies in the grid, on bound live tiles of the job's plot, and holds the strand's tile (spec/18 R367). -/
def rectFits (s : State) (st : Strand) (r : BitVec 14) : Prop :=
  0 < rows r ∧ 0 < cols r ∧ row0 r + rows r ≤ 8 ∧ col0 r + cols r ≤ 8 ∧
  (∀ t, t < 64 → row0 r ≤ t / 8 → t / 8 < row0 r + rows r → col0 r ≤ t % 8 → t % 8 < col0 r + cols r →
    s.inPlot st.job t = true ∧ s.tileLive t = true) ∧
  row0 r ≤ st.loc.tile / 8 ∧ st.loc.tile / 8 < row0 r + rows r ∧ col0 r ≤ st.loc.tile % 8 ∧ st.loc.tile % 8 < col0 r + cols r
/-- HedgeMisuse (spec/18 R367): g4 holds the register's number times 256 plus the reason. -/
def misuse (h : BitVec 4) (reason : Nat) : Trip := ⟨11, 0, .ofNat 64 (h.toNat * 256 + reason)⟩
/-- A register with value x is released on a tile: Idle, RELGEN = GEN, the waiters of this generation filled with a value, the others kept. -/
def released (x : Hedge) (u : State) (t h v : Nat) : Prop :=
  (u.hedge t h).state = .idle ∧ (u.hedge t h).relgen = x.gen ∧ (u.hedge t h).waiters = x.waiters.filter (fun w => w.gen != x.gen) ∧
  ∀ w ∈ x.waiters, w.gen = x.gen → ∃ m, FMap.get? u.msgs m = some (.fill w.handle w.reg w.tag v (some 4) none)
/-- The release goes on west along the row, and up the last column. -/
def releaseSent (u : State) (t h : Nat) (rect : BitVec 14) : Prop :=
  (col0 rect < t % 8 → ∃ m, FMap.get? u.msgs m = some (.hedgeRel (t - 1) h rect)) ∧
  (t % 8 = col0 rect + cols rect - 1 → row0 rect < t / 8 → ∃ m, FMap.get? u.msgs m = some (.hedgeRel (t - 8) h rect))
/-- A tile whose register x is complete and has its row arrival goes on: a row arrival east; in the last column, with the column arrival or
in the first row, a column arrival down; at the corner, the release. -/
def advanced (u : State) (t h : Nat) (x : Hedge) : Prop :=
  (t % 8 < col0 x.rect + cols x.rect - 1 → (u.hedge t h).state = .arrived ∧ (u.hedge t h).waiters = x.waiters ∧
    ∃ m, FMap.get? u.msgs m = some (.hedgeRow (t + 1) h x.rect)) ∧
  (t % 8 = col0 x.rect + cols x.rect - 1 →
    (t / 8 ≠ row0 x.rect → x.col ≠ some x.rect → (u.hedge t h).state = .arrived ∧ (u.hedge t h).rowDone = true ∧ (u.hedge t h).waiters = x.waiters) ∧
    (t / 8 = row0 x.rect ∨ x.col = some x.rect →
      (t / 8 < row0 x.rect + rows x.rect - 1 → (u.hedge t h).state = .arrived ∧ (u.hedge t h).rowDone = false ∧
        ∃ m, FMap.get? u.msgs m = some (.hedgeCol (t + 8) h x.rect)) ∧
      (row0 x.rect + rows x.rect - 1 ≤ t / 8 → released x u t h x.gen ∧ releaseSent u t h x.rect)))
/-- A tile lies in a hedge rectangle. -/
def inRectangle (r : BitVec 14) (t : Nat) : Prop :=
  row0 r ≤ t / 8 ∧ t / 8 < row0 r + rows r ∧ col0 r ≤ t % 8 ∧ t % 8 < col0 r + cols r
/-- A register is complete and has its row arrival, or needs none. -/
def complete (x : Hedge) (t : Nat) : Prop := x.part = 0 ∧ x.bytes = 0 ∧ (t % 8 = col0 x.rect ∨ x.row = some x.rect)

end Sys2Proof.Said

/-- Spec/18 R371: at a LossNotice a tile releases each register that is not Idle and whose rectangle holds the lost tile, its waiters'
fills with bit 63 and GEN, and leaves the others; the end or the Cancel of a job returns its registers to Idle without a release, the
messages held for them discarded and RELGEN kept, on every tile. -/
def Sys2Proof.Said.hedgesEndByLossOrJob : Prop :=
  (∀ (s : State) (t lost h : Nat), (∃ n, (n, Msg.lossNote t lost) ∈ s.msgs ∧ s.landed n = true) → h < 16 → ∃ u, Said.Runs (.lossNotice t lost) s u ∧
    let x := s.hedge t h
    (x.state ≠ .idle → Said.inRectangle x.rect lost → Said.released x u t h (2 ^ 63 + x.gen)) ∧
    (x.state = .idle ∨ ¬ Said.inRectangle x.rect lost → u.hedge t h = x)) ∧
  (∀ (s : State) (job : Nat) (j : Job), s.job? job = some j → j.handle = job → Said.quiet s j → s.gardenWaits j .stp j.lrec.cwaddr 1 = false →
    ∃ u, Said.Runs (.jobComplete job) s u ∧ ∀ t h x, FMap.get? (s.tile t).hedges h = some x →
      u.hedge t h = if x.job = job then { x with state := .idle, row := none, col := none, rowDone := false } else x) ∧
  (∀ (s : State) (t job : Nat) (j : Job), s.jobAt t job = some j → j.handle = job → j.state ≠ .pending → j.state ≠ .completing →
    ∃ u, Said.Runs (.jobcmdCancel t job) s u ∧ ∀ n h x, FMap.get? (s.tile n).hedges h = some x → x.job = job →
      (u.hedge n h).state = .idle ∧ (u.hedge n h).row = none ∧ (u.hedge n h).col = none ∧ (u.hedge n h).relgen = x.relgen)

/-- Spec/18 R366 to R371, spec/10 R200: HARM arms an Idle register over a rectangle with PART and BYTES and a new generation, or raises HedgeMisuse with
reason 1, 2 or 3; HARR waits for the strand's posted stores and updates homed in the rectangle, lowers PART and gives GEN, or raises reason 4; HWAIT of
a released generation is filled, of the present one waits in the register, of another raises reason 5. A copy's write lowers BYTES, at zero it
stays; a complete tile that holds its row arrival sends it on; the last column sends the column arrival up; the corner's release goes back along column and row, ends
the generation on each tile and fills its waiters. A loss and the end of a job release or clear registers.
Choices of the model: log 13. -/
def Obligations.HedgesArmArriveAndRelease : Prop :=
  Sys2Proof.Said.hedgesEndByLossOrJob ∧
  (∀ (s : State) (st : Strand) (h : BitVec 4) (a b : GSrc), Said.Issues s st [a.reg.toNat, b.reg.toNat] →
    let i := Instr.harm h a b
    let x := s.hedge st.loc.tile h.toNat
    let rect := st.x[0].truncate 14
    (x.state ≠ .idle → Sys2Proof.Machine.exec i s = .next (s.trap st (Said.misuse h 1))) ∧
    (x.state = .idle → st.loc.tile < 64 → ¬ Said.rectFits s st rect → Sys2Proof.Machine.exec i s = .next (s.trap st (Said.misuse h 2))) ∧
    (x.state = .idle → st.loc.tile < 64 → Said.rectFits s st rect →
      (2 ^ 16 ≤ (st.gv a.reg).toNat ∨ 2 ^ 40 ≤ (st.gv b.reg).toNat → Sys2Proof.Machine.exec i s = .next (s.trap st (Said.misuse h 3))) ∧
      ((st.gv a.reg).toNat < 2 ^ 16 → (st.gv b.reg).toNat < 2 ^ 40 → (st.gv a.reg ≠ 0 ∨ st.gv b.reg ≠ 0) → x.rowDone = false →
        let r := s.readSources st [Said.g a, Said.g b]
        Sys2Proof.Machine.exec i s = .next ((r.1.putHedge st.loc.tile h.toNat { x with
          gen := (x.gen + 1) % 65536, part := (st.gv a.reg).toNat, bytes := (st.gv b.reg).toNat, rect := rect, job := st.job,
          state := .armed }).putStrand (r.2.completed (st.pc + 4)))) ∧
      (st.gv a.reg = 0 → st.gv b.reg = 0 → let y := { x with gen := (x.gen + 1) % 65536, part := 0, bytes := 0, rect := rect, job := st.job, state := .armed }
        let r := s.readSources st [Said.g a, Said.g b]
        (Said.complete y st.loc.tile → ∃ u, Sys2Proof.Machine.exec i s = .next u ∧ Said.advanced u st.loc.tile h.toNat y ∧
          u.strand? st.handle = some (r.2.completed (st.pc + 4))) ∧
        (¬ Said.complete y st.loc.tile → x.rowDone = false → Sys2Proof.Machine.exec i s =
          .next ((r.1.putHedge st.loc.tile h.toNat y).putStrand (r.2.completed (st.pc + 4))))))) ∧
  (∀ (s : State) (st : Strand) (d : GReg) (h : BitVec 4), Said.Issues s st [] →
    let i := Instr.harr d h
    let x := s.hedge st.loc.tile h.toNat
    (s.waitOver { st with wait := .rect x.rect } = false → Sys2Proof.Machine.exec i s = .next (s.parkWait st (.rect x.rect))) ∧
    (s.waitOver { st with wait := .rect x.rect } = true →
      (x.state ≠ .armed ∨ x.part = 0 → Sys2Proof.Machine.exec i s = .next (s.trap st (Said.misuse h 4))) ∧
      (x.state = .armed → 1 < x.part ∨ (x.part = 1 ∧ x.bytes ≠ 0) → x.rowDone = false → Sys2Proof.Machine.exec i s =
        .next ((s.putHedge st.loc.tile h.toNat { x with part := x.part - 1 }).putStrand
          ((st.setG d (.ofNat 64 x.gen)).completed (st.pc + 4)))) ∧
      (x.state = .armed → x.part = 1 → x.bytes = 0 → st.loc.tile < 64 → let y := { x with part := 0 }
        (Said.complete y st.loc.tile → ∃ u, Sys2Proof.Machine.exec i s = .next u ∧ Said.advanced u st.loc.tile h.toNat y ∧
          u.strand? st.handle = some ((st.setG d (.ofNat 64 x.gen)).completed (st.pc + 4))) ∧
        (¬ Said.complete y st.loc.tile → x.rowDone = false → Sys2Proof.Machine.exec i s =
          .next ((s.putHedge st.loc.tile h.toNat y).putStrand ((st.setG d (.ofNat 64 x.gen)).completed (st.pc + 4))))))) ∧
  (∀ (s : State) (st : Strand) (d : GReg) (a : GSrc) (h : BitVec 4), Said.Issues s st [a.reg.toNat] →
    let i := Instr.hwait d a h
    let x := s.hedge st.loc.tile h.toNat
    let gen := (st.gv a.reg).toNat % 65536
    let r := s.readSources st [Said.g a]
    ((x.relgen + 65536 - gen) % 65536 < 2 ^ 15 → Sys2Proof.Machine.exec i s =
      .next ((r.1.putStrand ((r.2.await d.toNat r.1.fresh).completed (st.pc + 4))).send (.fill st.handle d.toNat r.1.fresh gen (some 4) none))) ∧
    (2 ^ 15 ≤ (x.relgen + 65536 - gen) % 65536 →
      (gen ≠ x.gen ∨ x.state = .idle → Sys2Proof.Machine.exec i s = .next (s.trap st (Said.misuse h 5))) ∧
      (gen = x.gen → x.state ≠ .idle → 256 ≤ x.waiters.length → Sys2Proof.Machine.exec i s = .next (s.park { st with wait := .hedge h.toNat gen } 9 0)) ∧
      (gen = x.gen → x.state ≠ .idle → x.waiters.length < 256 → Sys2Proof.Machine.exec i s =
        .next ((r.1.bump.putHedge st.loc.tile h.toNat { x with waiters := x.waiters ++ [⟨gen, st.handle, d.toNat, r.1.fresh⟩] }).putStrand
          ((r.2.await d.toNat r.1.fresh).completed (st.pc + 4)))))) ∧
  (∀ (s : State) (n t h k : Nat), s.msg? n = some (.hedgeBytes t h k) →
    let x := s.hedge t h
    (x.state ≠ .armed ∨ s.tileUp t = false → Said.Runs (.hedgeBytes n) s (s.unsend n)) ∧
    (s.tileUp t = true → x.state = .armed → t < 64 → let y := { x with bytes := x.bytes - k }
      (¬ Said.complete y t → x.rowDone = false → Said.Runs (.hedgeBytes n) s ((s.unsend n).putHedge t h y)) ∧
      (Said.complete y t → ∃ u, Said.Runs (.hedgeBytes n) s u ∧ Said.advanced u t h y))) ∧
  (∀ (s : State) (n t h : Nat) (rect : BitVec 14), t < 64 → s.tileUp t = true →
    let x := s.hedge t h
    (s.msg? n = some (.hedgeRow t h rect) →
      (∀ r, x.row = some r → Said.Runs (.hedgeRowArrival n) s (s.unsend n)) ∧
      (x.row = none → let y := { x with row := some rect }
        (x.state ≠ .armed ∨ ¬ Said.complete y t → x.rowDone = false → Said.Runs (.hedgeRowArrival n) s ((s.unsend n).putHedge t h y)) ∧
        (x.state = .armed → Said.complete y t → ∃ u, Said.Runs (.hedgeRowArrival n) s u ∧ Said.advanced u t h y ∧
          (t % 8 ≠ Said.col0 x.rect → (u.hedge t h).row = none)))) ∧
    (s.msg? n = some (.hedgeCol t h rect) →
      (∀ r, x.col = some r → Said.Runs (.hedgeColumnArrival n) s (s.unsend n)) ∧
      (x.col = none → x.state = .arrived → x.rowDone = true → rect = x.rect → t / 8 ≠ Said.row0 rect →
        (t / 8 < Said.row0 rect + Said.rows rect - 1 → ∃ u m, Said.Runs (.hedgeColumnArrival n) s u ∧ FMap.get? u.msgs m = some (.hedgeCol (t + 8) h rect) ∧
          (u.hedge t h).state = .arrived ∧ (u.hedge t h).col = none) ∧
        (Said.row0 rect + Said.rows rect - 1 ≤ t / 8 → ∃ u, Said.Runs (.hedgeColumnArrival n) s u ∧ Said.released x u t h x.gen ∧
          Said.releaseSent u t h rect)) ∧
      (x.col = none → x.state ≠ .armed → x.rowDone = false → Said.Runs (.hedgeColumnArrival n) s ((s.unsend n).putHedge t h { x with col := some rect }))) ∧
    (s.msg? n = some (.hedgeRel t h rect) → ∃ u, Said.Runs (.hedgeRelease n) s u ∧ Said.released x u t h x.gen ∧ Said.releaseSent u t h rect))
namespace Sys2Proof.Said

/-- Does an invalidation take an entry: OP 1 the pages of an address space that cover a cva, 2 an address space, 3 all (spec/07 R128)? -/
def invalidates (op : Nat) (asid : BitVec 12) (cva : Nat) (e : TlbEntry) : Bool :=
  match op with
  | 1 => e.asid == asid && decide (e.cva ≤ cva) && decide (cva < e.cva + e.size)
  | 2 => e.asid == asid
  | _ => true
/-- A translation buffer's entries are aligned to their size (spec/07 R127). -/
def aligned (c : Column) : Prop := ∀ e ∈ c.tlb, 0 < e.size ∧ e.cva % e.size = 0
/-- The invalidations of TLBI to these columns: d Awaiting, one message for each, the answers counted (spec/18 R382). -/
def asked (s u : State) (st : Strand) (t : Strand) (d : GReg) (op : Nat) (asid : BitVec 12) (cva : Nat) (cols : List Nat) : Prop :=
  u.strand? st.handle = some ((t.await d.toNat s.fresh).completed (st.pc + 4)) ∧ FMap.get? u.acks s.fresh = some (cols.length, 0) ∧
  (∀ k ∈ cols, ∃ m, FMap.get? u.msgs m = some (.tlbi st.handle d.toNat s.fresh k op asid cva)) ∧ u.mem = s.mem ∧ u.cols = s.cols
/-- Columns of the bound tiles that are not Vacant. -/
def boundColumns (s : State) : List Nat := ((List.range 64).filter s.tileLive).flatMap (fun t => (List.range 16).map (t * 16 + ·))
/-- A status reaches the register of a strand that is not evicted. -/
def statusIn (s u : State) (h : BitVec 64) (reg tag v : Nat) : Prop :=
  ∀ st, s.strand? h = some st → st.handle = h → st.status ≠ .evicted → u.strand? h = some (st.takeFill reg tag v none none)

/-- An address lies in both beds. -/
def meets (a b : Bed) : Prop := ∃ x, a.base ≤ x ∧ x < a.base + a.len ∧ b.base ≤ x ∧ x < b.base + b.len
/-- A bed names tiles of the grid that are bound and not Vacant, and PRIM lies in its rectangle (spec/18 R383, status 4). -/
def placed (s : State) (b : Bed) : Prop :=
  let inside := fun t => b.trow0 ≤ t / 8 ∧ t / 8 < b.trow0 + b.trows ∧ b.tcol0 ≤ t % 8 ∧ t % 8 < b.tcol0 + b.tcols
  let rect := b.trow0 + b.trows ≤ 8 ∧ b.tcol0 + b.tcols ≤ 8 ∧ ∀ t, t < 64 → inside t → s.tileLive t = true
  match b.kind with
  | .striped => rect
  | .update => rect
  | .replicated => rect ∧ inside b.prim
  | .host => True
  | .peer => True
  | _ => s.tileLive b.ltile = true
/-- An update bed's operator and type form a pair, and its spill bed is striped over the same rectangle, readable, writable and not
immutable (spec/09 R158, spec/07 R118, status 5). -/
def updatable (b : Bed) (spill : Option Bed) : Prop :=
  b.kind = .update → b.op < 7 ∧ b.etype < 6 ∧ (b.op = 0 → b.etype ≠ 2 ∧ b.etype ≠ 3) ∧ (3 ≤ b.op → b.etype = 2 ∨ b.etype = 3) ∧
    ∃ p, spill = some p ∧ p.kind = .striped ∧ p.rd = true ∧ p.wr = true ∧ p.imm = false ∧ p.trow0 = b.trow0 ∧ p.tcol0 = b.tcol0 ∧
      p.trows = b.trows ∧ p.tcols = b.tcols
/-- A host bed's aperture is enabled and as long as the bed, a peer bed's entry has a port (spec/04 R64, status 6). -/
def farFits (s : State) (b : Bed) : Prop :=
  let e := (FMap.getD (s.die b.die).apers b.aper 0).toNat
  (b.kind = .host → e / 2 ^ 63 % 2 = 1 ∧ b.len ≤ e % 2 ^ 32 * 4096) ∧
  (b.kind = .peer → (FMap.getD (s.die b.die).peers b.peer 0).toNat % 2 ^ 40 ≠ 0)

end Sys2Proof.Said

/-- Spec/18 R382, R383, spec/07 R118, R119, R128, R134: TLBI is illegal without SS.SUP, waits for the strand's posted stores, sends its invalidations and is filled
with the columns not reached; .page of an address in no bed, or in a host or peer bed, is filled with all ones. TBINV invalidates at
once and is ignored while BUSY. BEDW reads its image as two reads and sends them; with both halves in the tile's copy takes the descriptor, or
d the status of the first check that fails. QPART lowers scratch at once and raises it, zeroed, at the end of the change.
Choices of the model: log 15, 33. -/
def Obligations.InvalidationsAndDescriptorsTakeEffect : Prop :=
  (∀ (s : State) (st : Strand) (d : GReg) (a b : GSrc),
    (st.sup = false → (Said.IssuesAnyhow s st → ∀ i ∈ [Instr.tlbiPage d a b, .tlbiAsid d b, .tlbiAll d],
      Sys2Proof.Machine.exec i s = .next (s.trap st ⟨1, 0, .ofNat 64 (encode i)⟩))) ∧
    (st.sup = true → Said.Issues s st [a.reg.toNat, b.reg.toNat] →
      let w := Wait.items [.posted] [] 7
      (s.waitOver { st with wait := w } = false → ∀ i ∈ [Instr.tlbiPage d a b, .tlbiAsid d b, .tlbiAll d],
        Sys2Proof.Machine.exec i s = .next (s.parkWait st w)) ∧
      (s.waitOver { st with wait := w } = true → (∀ c ∈ [a, b], (st.rc c.reg.toNat).acq = none) →
        let asid : BitVec 12 := (st.gv b.reg).truncate 12
        let t1 := (s.readSources st [Said.g b]).2
        let t2 := (s.readSources st [Said.g a, Said.g b]).2
        (Said.boundColumns s ≠ [] →
          (∃ u, Said.Runs (.tlbiAll d) s u ∧ Said.asked s u st st d 3 0 0 (Said.boundColumns s)) ∧
          (∃ u, Said.Runs (.tlbiAsid d b) s u ∧ Said.asked s u st t1 d 2 asid 0 (Said.boundColumns s))) ∧
        let full := (s.putStrand ((t2.await d.toNat s.fresh).completed (st.pc + 4))).send (.fill st.handle d.toNat s.fresh (2 ^ 64 - 1) none none)
        (s.tableKnown st.loc.tile asid = none → Said.Runs (.tlbiPage d a b) s full) ∧
        (∀ tab va, s.tableKnown st.loc.tile asid = some tab → va = st.gv a.reg →
          (2 ^ 56 ≤ va.toNat ∨ tab.find va.toNat = none → Said.Runs (.tlbiPage d a b) s full) ∧
          (∀ h, va.toNat < 2 ^ 56 → tab.find va.toNat = some h → h.bed.kind = .host ∨ h.bed.kind = .peer → Said.Runs (.tlbiPage d a b) s full) ∧
          (∀ h key hoff, va.toNat < 2 ^ 56 → tab.find va.toNat = some h → h.bed.home (va.toNat - h.bed.base) st.loc.tile = some (key, hoff) →
            ∃ u, Said.Runs (.tlbiPage d a b) s u ∧ Said.asked s u st t2 d 1 asid (h.index * 2 ^ 40 + hoff) [key]))))) ∧
  (∀ (s : State) (n reg tag key op cva : Nat) (h : BitVec 64) (asid : BitVec 12), s.msg? n = some (.tlbi h reg tag key op asid cva) →
    Said.aligned (s.col key) →
    (s.tileUp (key / 16) = false → Said.Runs (.tlbiInvalidate n) s ((s.unsend n).send (.tlbiAck h reg tag 1))) ∧
    (s.tileUp (key / 16) = true → Said.Runs (.tlbiInvalidate n) s
      (((s.unsend n).putCol key { s.col key with tlb := (s.col key).tlb.filter (fun e => !Said.invalidates op asid cva e) }).sendFrom
        (key / 16) (.tlbiAck h reg tag 0)))) ∧
  (∀ (s : State) (n reg tag bad k b : Nat) (h : BitVec 64), s.msg? n = some (.tlbiAck h reg tag bad) → FMap.get? s.acks tag = some (k, b) →
    (1 < k → Said.Runs (.tlbiAck n) s { s.unsend n with acks := FMap.set s.acks tag (k - 1, b + bad) }) ∧
    (k ≤ 1 → ∃ u, Said.Runs (.tlbiAck n) s u ∧ u.acks = FMap.erase s.acks tag ∧ Said.statusIn s u h reg tag (b + bad))) ∧
  (∀ (s : State) (t c : Nat) (asid : BitVec 12) (pg : BitVec 32), let key := colKey t c
    let x := s.col key
    Said.aligned x →
    (x.tbBusy = true → ∀ i ∈ [Instr.tbinvPage t c asid pg, .tbinvAsid t c asid, .tbinvAll t c], Said.Runs i s s) ∧
    (x.tbBusy = false → ∀ p ∈ [(Instr.tbinvPage t c asid pg, 1), (.tbinvAsid t c asid, 2), (.tbinvAll t c, 3)],
      ∃ u, Said.Runs p.1 s u ∧ u.col key = { x with tbBusy := true, tlb := x.tlb.filter (fun e => !Said.invalidates p.2 asid (pg.toNat * 65536) e) } ∧
        u.mem = s.mem ∧ u.strands = s.strands) ∧
    Said.Runs (.invalidationComplete t c) s (s.putCol key { x with tbBusy := false })) ∧
  (∀ (s : State) (st : Strand) (d : GReg) (a b : GSrc) (h : BedHit), Said.Issues s st [a.reg.toNat, b.reg.toNat] →
    let va := st.gv a.reg
    let w := Wait.items [.posted, .update] [] 7
    s.lookup st va = .hit h →
    (va.toNat % 64 ≠ 0 → Said.Runs (.bedw d a b) s ((s.touchBed st h).trap st ⟨3, va, 64⟩)) ∧
    (va.toNat % 64 = 0 → h.bed.rd = true →
      (s.waitOver { st with wait := w } = false → Said.Runs (.bedw d a b) s (s.parkWait st w)) ∧
      (s.waitOver { st with wait := w } = true → ∃ u id, Said.Runs (.bedw d a b) s u ∧ FMap.get? u.msgs id = some (.bedw st.loc.tile st.handle d.toNat id st.sup
          (if st.sup then ((st.gv b.reg).extractLsb' 8 12) else st.asid) ((st.gv b.reg).toNat % 256) none none) ∧
        u.strand? st.handle = some (((s.readSources st [Said.g a, Said.g b]).2.await d.toNat id).completed (st.pc + 4)) ∧
        ∀ k, k < 2 → ∃ m item, FMap.get? u.msgs m = some (.read (.bedw id k) st.asid (va + .ofNat 64 (32 * k)) 32
          (s.target st h (va + .ofNat 64 (32 * k))) item)))) ∧
  (∀ (s : State) (n id half lo hi item tile reg tag index : Nat) (h : BitVec 64) (sup : Bool) (asid : BitVec 12) (va : Word)
    (fail : Option (Nat × Word)), half < 2 → id ≠ n → s.msg? n = some (.readDone (.bedw id half) va (if half = 0 then lo else hi) fail item) →
    let other : Option (Option Nat) := some (some (if half = 0 then hi else lo))
    (s.msg? id = some (.bedw tile h reg tag sup asid index none none) → fail = none → ∃ u, Said.Runs (.bedwReadDone n) s u ∧
      FMap.get? u.msgs id = some (.bedw tile h reg tag sup asid index (if half = 0 then some (some lo) else none) (if half = 0 then none else some (some hi))) ∧
      u.strands = s.strands ∧ u.tiles = s.tiles) ∧
    (s.msg? id = some (.bedw tile h reg tag sup asid index (if half = 0 then none else other) (if half = 0 then other else none)) →
      let w := lo + hi * 2 ^ 256
      ∃ u, Said.Runs (.bedwReadDone n) s u ∧
        (fail ≠ none → Said.statusIn s u h reg tag 8 ∧ u.tiles = s.tiles) ∧
        (fail = none → FMap.get? (s.tile tile).bedTables asid.toNat = none → Said.statusIn s u h reg tag 7) ∧
        (fail = none → ∀ tab, FMap.get? (s.tile tile).bedTables asid.toNat = some tab →
          (w = 0 → Said.statusIn s u h reg tag 0 ∧ ∃ t, FMap.get? (u.tile tile).bedTables asid.toNat = some t ∧
            t.beds = FMap.erase tab.beds index ∧ t.bedn = max tab.bedn (index + 1)) ∧
          (w ≠ 0 → w / 2 ^ 441 % 8 = 4 ∨ w / 2 ^ 441 % 8 = 5 → sup = false → Said.statusIn s u h reg tag 1 ∧ u.tiles = s.tiles) ∧
          (w ≠ 0 → w / 2 ^ 441 % 8 ≠ 4 → w / 2 ^ 441 % 8 ≠ 5 → bedSelfOk w = false → Said.statusIn s u h reg tag 2 ∧ u.tiles = s.tiles) ∧
          (∀ b, bedOf w = some b → w ≠ 0 → (w / 2 ^ 441 % 8 = 4 ∨ w / 2 ^ 441 % 8 = 5 → sup = true) → bedSelfOk w = true →
            let others := FMap.erase tab.beds index
            let spill := if b.spbed = index then some b else FMap.get? others b.spbed
            ((∃ kv ∈ others, Said.meets b kv.2) → Said.statusIn s u h reg tag 3 ∧ u.tiles = s.tiles) ∧
            ((∀ kv ∈ others, ¬ Said.meets b kv.2) →
              (¬ Said.placed s b → Said.statusIn s u h reg tag 4 ∧ u.tiles = s.tiles) ∧
              (Said.placed s b → ¬ Said.updatable b spill → Said.statusIn s u h reg tag 5 ∧ u.tiles = s.tiles) ∧
              (Said.placed s b → Said.updatable b spill → ¬ Said.farFits s b → Said.statusIn s u h reg tag 6 ∧ u.tiles = s.tiles) ∧
              (Said.placed s b → Said.updatable b spill → Said.farFits s b → Said.statusIn s u h reg tag 0 ∧
            ∃ t, FMap.get? (u.tile tile).bedTables asid.toNat = some t ∧ FMap.get? t.beds index = some b ∧
              (∀ j, j ≠ index → FMap.get? t.beds j = FMap.get? tab.beds j) ∧ t.bedn = max tab.bedn (index + 1) ∧
              ∀ k, k / 768 = tile → (u.core k).lineBuf = [] ∧ (u.core k).instrBuf = [] ∧
                ∀ e ∈ (u.core k).bedCache, ¬ (e.asid = asid ∧ e.index = index))))))) ∧
  (∀ (s : State) (t qn : Nat) (v : BitVec 64), let qk := quadKey t qn
    let q := s.quad qk
    let retw := (v.extractLsb' 0 5).toNat
    let scrw := (v.extractLsb' 8 5).toNat
    (q.busy = true ∨ 16 < scrw + retw → Said.Runs (.qpartWrite t qn v) s s) ∧
    (q.busy = false → scrw + retw ≤ 16 → q.scrw ≤ scrw → (∀ l ∈ q.lines, l.bad = false) → Said.Runs (.qpartWrite t qn v) s (s.putQuad qk { q with
      busy := true, newScrw := scrw, retw := retw, lines := q.lines.filter (fun l => decide (l.way < 16 - scrw)),
      qwbk := q.qwbk + (q.lines.filter (fun l => decide (16 - scrw ≤ l.way) && l.dirty)).length })) ∧
    (q.busy = false → scrw + retw ≤ 16 → scrw < q.scrw → q.scrw ≤ 16 → ∃ u, Said.Runs (.qpartWrite t qn v) s u ∧ (u.quad qk).scrw = scrw ∧
      (u.quad qk).busy = true ∧ u.mem = s.mem ∧ ∀ w o, 16 - q.scrw ≤ w → w < 16 - scrw → o < 2 ^ 20 → u.sram.byte ((qk * 16 + w) * 2 ^ 20 + o) = 0) ∧
    (q.busy = false → Said.Runs (.qpartChangeDone t qn) s s) ∧
    (q.busy = true → q.scrw ≤ q.newScrw → q.newScrw ≤ 16 → ∃ u, Said.Runs (.qpartChangeDone t qn) s u ∧ (u.quad qk).scrw = q.newScrw ∧ (u.quad qk).busy = false ∧
      ∀ w o, 16 - q.newScrw ≤ w → w < 16 - q.scrw → o < 2 ^ 20 → u.sram.byte ((qk * 16 + w) * 2 ^ 20 + o) = 0))
namespace Sys2Proof.Said

/-- SPAWN, or SPAWN with SCP 1 that names a home, with its sources. -/
def spawn (d : GReg) (a : GSrc) (b : Option GSrc) : Instr := match b with | none => .spawn d a | some b => .spawnHome d a b
def spawnSrcs (a : GSrc) (b : Option GSrc) : List (Nat × Bool) := g a :: (b.map g).toList
/-- The number of registers passed, and the register that becomes the child's g k (spec/18 R372). -/
def passed (t : Strand) : Nat := (t.x[0].extractLsb' 16 3).toNat
def passes (t : Strand) (k : Nat) : GReg := (t.x[0] >>> (4 * k)).truncate 4
/-- The registers SPAWN passes are Full, and carry neither DataLoss, acquire nor parity error. -/
def passable (t : Strand) : Prop := ∀ k, k < passed t → let c := t.rc (passes t k).toNat; c.st = .full ∧ c.loss = none ∧ c.acq = none ∧ c.par = false
/-- The home a SPAWN names: none, or a column with the column virtual address there and the address itself. -/
def homeFor (s : State) (st : Strand) (b : Option GSrc) : Option (Option (Nat × Option Nat × Word)) :=
  match b with
  | none => some none
  | some b =>
    match s.lookup st (st.gv b.reg) with
    | .hit h => (s.target st h (st.gv b.reg)).home.map (fun k => some (k, (s.target st h (st.gv b.reg)).cva, st.gv b.reg))
    | _ => none
/-- The state once the bed of a named home has been found: the use of its entry (spec/07 R119). -/
def homeFound (s : State) (st : Strand) (b : Option GSrc) : State :=
  match b with
  | none => s
  | some b => match s.lookup st (st.gv b.reg) with | .hit h => s.touchBed st h | _ => s
/-- The wait for a release at panel scope (spec/08 R150). -/
def releases : Wait := .items [] [.posted, .update] 7
/-- The next child's SID in a strand's column (spec/06 R89). -/
def nextSid (s : State) (st : Strand) : Nat := st.colKey * 2 ^ 38 + (s.col st.colKey).sidCount % 2 ^ 38
/-- The parent has completed with its child's handle in d, and the child exists: its PC, job, ASID, flat index, join word and registers;
in the own column's arrival queue, or on its way to a home (spec/06 R111). -/
def spawned (s u : State) (st : Strand) (d : GReg) (sid : Nat) (target : Word) (home : Option (Nat × Option Nat × Word)) (joinw : Word) :
    Prop :=
  let h : Word := .ofNat 64 (st.job * 2 ^ 48 + sid)
  h ≠ st.handle → ∃ t c, u.strand? st.handle = some t ∧ t.pc = st.pc + 4 ∧ t.gv d = h ∧ t.status = .ready ∧ (∀ r : GReg, r ≠ d → t.gv r = st.gv r) ∧
    u.strand? h = some c ∧ c.pc = target.truncate 56 ∧ c.job = st.job ∧ c.asid = st.asid ∧ c.flat = st.flat ∧ c.joinw = joinw ∧ c.sup = false ∧ c.pp = false ∧
    (∀ k : Nat, k < 16 → c.gv (.ofNat 4 k) = if k < passed st then st.gv (passes st k) else 0) ∧ (∀ r, r < 24 → c.rc r = RegCtl.reset) ∧
    (home = none → c.status = .queued ∧ c.loc.col = st.loc.col ∧ h ∈ (u.core c.coreKey).arrival) ∧
    (∀ dest cva va, home = some (dest, cva, va) → c.status = .inFlight ∧ c.dest = dest ∧ c.destCva = cva ∧ c.destVa = va ∧
      ∃ m, FMap.get? u.msgs m = some (.migrate h dest c.message)) ∧
    u.mem = s.mem

end Sys2Proof.Said

/-- Spec/18 R372, spec/06 R99, R111, R112: SPAWN checks its target, the number of registers, the named home and the join word in that order; it waits for a release
at panel scope and for an image; with a join word it sends the increment once and waits for its answer; then it reads the registers
it passes and releases the child, with d the child's handle. -/
def Sys2Proof.Said.spawnCreatesOneChild : Prop :=
  ∀ (s : State) (st : Strand) (d : GReg) (a : GSrc) (b : Option GSrc), let i := Said.spawn d a b
    Said.Issues s st ((Said.spawnSrcs a b).map (·.1)) → (∀ c ∈ Said.spawnSrcs a b, (st.rc c.1).acq = none ∧ c.2 = false) →
    let target := st.gv a.reg
    (∀ sid t home joinw, st.phase = .spawn sid t home joinw .sent → ∃ u v, Said.Runs i s u ∧ u.strand? st.handle = some v ∧ v.status = .parked ∧
      v.pcause = 5 ∧ v.pc = st.pc ∧ v.phase = st.phase ∧ u.msgs = s.msgs) ∧
    (∀ sid t home joinw c g4, st.phase = .spawn sid t home joinw (.failed c g4) → Said.Runs i s (s.trap st ⟨c, joinw, .ofNat 64 g4⟩)) ∧
    (∀ sid t home joinw, st.phase = .spawn sid t home joinw .acked → Said.passable st → Said.passed st ≤ 4 →
      home.isSome ∨ (s.pickCore st.loc.tile st.loc.col (fun _ => true)).isSome → ∃ u, Said.Runs i s u ∧ Said.spawned s u st d sid t home joinw) ∧
    (∀ sid t home joinw k l, st.phase = .spawn sid t home joinw .acked → Said.passed st ≤ 4 → k < Said.passed st →
      (∀ j, j < Said.passed st → (st.rc (Said.passes st j).toNat).st = .full) → (∀ j, j < k → (st.rc (Said.passes st j).toNat).loss = none) →
      (st.rc (Said.passes st k).toNat).loss = some l → Said.Runs i s (s.trap st ⟨9, l.g2, l.g4⟩) ∧
        (s.imageCacheFull st.colKey = false → s.nextHandle st.colKey st.job ≠ st.handle → ∀ v, (s.trap st ⟨9, l.g2, l.g4⟩).strand? st.handle = some v → v.phase = st.phase)) ∧
    (st.phase = .none →
      (2 ^ 56 ≤ target.toNat → Said.Runs i s (s.trap st ⟨4, target, 0⟩)) ∧
      (target.toNat < 2 ^ 56 → target.toNat % 2 = 1 → Said.Runs i s (s.trap st ⟨3, target, 2⟩)) ∧
      (target.toNat < 2 ^ 56 → target.toNat % 2 = 0 → 4 < Said.passed st → Said.Runs i s (s.trap st ⟨2, 0, .ofNat 64 (encode i)⟩)) ∧
      (target.toNat < 2 ^ 56 → target.toNat % 2 = 0 → Said.passed st ≤ 4 →
        (∀ x, b = some x →
          (s.lookup st (st.gv x.reg) = .miss → Said.Runs i s (s.trap st ⟨4, st.gv x.reg, 0⟩)) ∧
          (∀ h, s.lookup st (st.gv x.reg) = .hit h → (s.target st h (st.gv x.reg)).home = none →
            Said.Runs i s ((s.touchBed st h).trap st ⟨5, st.gv x.reg, .ofNat 64 (h.index * 256 + h.bed.kind.code)⟩))) ∧
        (∀ home, Said.homeFor s st b = some home → let s' := Said.homeFound s st b
          (st.x[1] = 0 →
            (s.waitOver { st with wait := Said.releases } = false → Said.Runs i s (s'.parkWait st Said.releases)) ∧
            (s.waitOver { st with wait := Said.releases } = true →
              (262144 ≤ s.imagesUsed st.colKey → Said.Runs i s (s'.parkWait st .child)) ∧
              (s.imagesUsed st.colKey < 262144 → Said.passable st → home.isSome ∨ (s.pickCore st.loc.tile st.loc.col (fun _ => true)).isSome →
                ∃ u, Said.Runs i s u ∧ Said.spawned s u st d (Said.nextSid s st) target home 0 ∧
                  (u.col st.colKey).sidCount = (s.col st.colKey).sidCount + 1))) ∧
          (st.x[1] ≠ 0 → (s'.lookup st st.x[1] = .miss → Said.Runs i s (s'.trap st ⟨4, st.x[1], 0⟩)) ∧
            (∀ h, s'.lookup st st.x[1] = .hit h → st.x[1].toNat % 8 = 0 → Said.needAtomic h.bed = true → Said.writable h.bed.kind = true →
              s.waitOver { st with wait := Said.releases } = true → s.imagesUsed st.colKey < 262144 → ∃ u v m, Said.Runs i s u ∧
                u.strand? st.handle = some v ∧ v.phase = .spawn (Said.nextSid s st) target home st.x[1] .sent ∧ v.status = .parked ∧ v.pcause = 5 ∧
                v.pc = st.pc ∧ v.g = st.g ∧ (u.col st.colKey).sidCount = (s.col st.colKey).sidCount + 1 ∧
                FMap.get? u.msgs m = some (.joinIncr st.handle st.asid st.x[1] (s.target st h st.x[1])))))))

/-- Spec/18 R373, R374, spec/06 R113, R114, spec/11 R211: JOIN checks its word as an atomic does, sets d Awaiting, sends its registration and parks with cause 9;
it completes when the registration is accepted. EXIT with a join word waits for the strand's posted stores, updates, copies and tasks, and sends the decrement; the strand
ends, and a handler's end is the end of its trapped strand too, with status 3 from a supervisor handler. -/
def Sys2Proof.Said.joinRegistersAndExitEnds : Prop :=
  (∀ (s : State) (st : Strand) (d : GReg) (a : GSrc),
    (st.phase = .none → Said.Issues s st [a.reg.toNat] → let va := st.gv a.reg
      (s.lookup st va = .miss → Said.Runs (.join d a) s (s.trap st ⟨4, va, 0⟩)) ∧
      (∀ h, s.lookup st va = .hit h → va.toNat % 8 = 0 → Said.needAtomic h.bed = true → Said.writable h.bed.kind = true → ∃ u v m tag, Said.Runs (.join d a) s u ∧
        u.strand? st.handle = some v ∧ v.status = .parked ∧ v.pcause = 9 ∧ v.pc = st.pc ∧ v.phase = .join tag false 0 ∧ (v.rc d.toNat).st = .awaiting ∧
        (v.rc d.toNat).tag = tag ∧ FMap.get? u.msgs m = some (.joinReg st.handle d.toNat tag st.asid va (s.target st h va) false))) ∧
    (∀ tag k, Said.Issues s st [] →
      (st.phase = .join tag false k → Said.Runs (.join d a) s (s.park st 9 0)) ∧
      (st.phase = .join tag true k → Said.Runs (.join d a) s (Said.completes s st [] 4 id)))) ∧
  (∀ (s : State) (st : Strand), Said.Issues s st [] → ∀ i ∈ [Instr.exit, .exit16],
    let w := Wait.items [] [.posted, .update, .copy, .task] 7
    let ends := fun (u : State) => u.strands = FMap.erase s.strands st.handle.toNat ∧ u.mem = s.mem ∧ (∀ k, st.handle ∉ (u.core k).arrival) ∧
      FMap.getD (u.col st.colKey).counts st.job (0, 0) =
        ((FMap.getD (s.col st.colKey).counts st.job (0, 0)).1, (FMap.getD (s.col st.colKey).counts st.job (0, 0)).2 + 1)
    (st.joinw = 0 → (st.hkind = .none ∨ st.ofTask = true) → ∃ u, Said.Runs i s u ∧ ends u) ∧
    (st.joinw ≠ 0 → s.waitOver { st with wait := w } = false → Said.Runs i s (s.parkWait st w)) ∧
    (st.joinw ≠ 0 → st.hkind = .none → s.waitOver { st with wait := w } = true → ∀ tab, s.tableFor st = some tab →
      (tab.find st.joinw.toNat = none ∨ (∃ h, tab.find st.joinw.toNat = some h ∧
          (st.joinw.toNat % 8 ≠ 0 ∨ Said.needAtomic h.bed = false ∨ Said.writable h.bed.kind = false)) → ∃ u, Said.Runs i s u ∧ ends u ∧
        ∀ j, s.job? st.job = some j → j.handle = st.job → j.status = 0 → u.job? st.job = some { j with status := 5 }) ∧
      ∀ h, tab.find st.joinw.toNat = some h → st.joinw.toNat % 8 = 0 → Said.needAtomic h.bed = true → Said.writable h.bed.kind = true →
      ∃ u m item, Said.Runs i s u ∧ ends u ∧
        FMap.get? u.msgs m = some (.joinDecr st.job st.asid st.joinw (s.targetBed h (tab.spills h.index) st.loc.tile st.joinw) item)) ∧
    (∀ v, st.joinw = 0 → st.hkind ≠ .none → st.ofTask = false → s.strand? st.victim = some v → v.handle = st.victim → v.status = .trapped → v.joinw = 0 → v.phase = .none → v.handle ≠ st.handle →
      ∃ u, Said.Runs i s u ∧ u.strands = FMap.erase (FMap.erase s.strands v.handle.toNat) st.handle.toNat ∧
        (∀ j, st.hkind = .sup → s.job? v.job = some j → j.handle = v.job → j.status = 0 → u.job? v.job = some { j with status := 3 })))

/-- Spec/18 R372 to R374: SPAWN, JOIN and EXIT.
Choices of the model: log 14. -/
def Obligations.StrandsAreSpawnedJoinedAndEnded : Prop :=
  Sys2Proof.Said.spawnCreatesOneChild ∧ Sys2Proof.Said.joinRegistersAndExitEnds
namespace Sys2Proof.Said

/-- Is every early predecessor entry of the strand's job observed complete (spec/05 R77)? -/
def predecessorsDone (s : State) (st : Strand) : Prop := ∀ j, s.job? st.job = some j → ∀ i ∈ j.early, i ∈ j.earlyDone
/-- The strand with its PC len bytes on, its issue over. -/
def after16 (s : State) (st : Strand) (len : Nat) : State := s.putStrand (st.completed (st.pc + .ofNat 56 len))

end Sys2Proof.Said

/-- Spec/18 R375 to R377, spec/05 R76, R77, spec/08 R149: LAUNCH waits for a release at panel scope, checks its record's address, and sets d Awaiting, to be filled with 1 where the
queue's number is too large, or asks the queue's front end. NXTGO of a job without a go word changes nothing, and of one with a go word sends one posted
increment. PREDWAIT parks with cause 6 while an early predecessor is open, and then acquires at panel scope. YIELD has no effect in the urgent slot or with nothing
waiting; with an arrival waiting and no slot free, the strand goes on the resume list and the arrival takes its slot.
Choices of the model: log 14, 17. -/
def Obligations.JobInstructionsActAsStated : Prop :=
  (∀ (s : State) (st : Strand) (d : GReg) (a b : GSrc), Said.Issues s st [a.reg.toNat, b.reg.toNat] → let i := Instr.launch d a b
    let w := Wait.items [] [.posted, .update] 7
    let q := (st.gv a.reg).toNat
    let va := st.gv b.reg
    let r := s.readSources st [Said.g a, Said.g b]
    (s.waitOver { st with wait := w } = false → Said.Runs i s (s.parkWait st w)) ∧
    (s.waitOver { st with wait := w } = true → ∀ h, s.lookup st va = .hit h →
      (va.toNat % 64 ≠ 0 → Said.Runs i s ((s.touchBed st h).trap st ⟨3, va, 64⟩)) ∧
      (va.toNat % 64 = 0 → h.bed.rd = false → Said.Runs i s ((s.touchBed st h).trap st ⟨7, va, .ofNat 64 (h.index * 256 + 1)⟩)) ∧
      (va.toNat % 64 = 0 → h.bed.rd = true → Said.notIo h.bed.kind = false → Said.Runs i s ((s.touchBed st h).trap st ⟨5, va, .ofNat 64 (h.index * 256 + h.bed.kind.code)⟩)) ∧
      (va.toNat % 64 = 0 → h.bed.rd = true → Said.notIo h.bed.kind = true → let s1 := r.1.touchBed r.2 h
        let s2 := s1.putStrand ((r.2.await d.toNat s1.fresh).completed (st.pc + 4))
        (65536 ≤ q → Said.Runs i s (s2.send (.fill st.handle d.toNat s1.fresh 1 none none))) ∧
        (q < 65536 → Said.Runs i s (s2.sendFrom st.loc.tile (.launch st.handle d.toNat s1.fresh q st.asid st.x[0] (st.x[1].toNat % 65536) (st.x[1].getLsbD 16)
          (s.target st h va))))))) ∧
  (∀ (s : State) (st : Strand), Said.Issues s st [] → ∀ p ∈ [(Instr.nxtgo, 4), (.nxtgo16, 2)],
    (∀ j, s.job? st.job = some j → j.lrec.goaddr = 0 → Said.Runs p.1 s (Said.after16 s st p.2)) ∧
    (∀ j tab h, s.job? st.job = some j → j.lrec.goaddr ≠ 0 → j.lrec.goaddr < 2 ^ 56 → FMap.get? (s.tile st.loc.tile).bedTables j.lrec.asid = some tab →
      tab.find j.lrec.goaddr = some h → ∃ u m, Said.Runs p.1 s u ∧ u.strand? st.handle = some (st.completed (st.pc + .ofNat 56 p.2)) ∧ u.mem = s.mem ∧
        let g := s.targetBed h (tab.spills h.index) st.loc.tile (.ofNat 64 j.lrec.goaddr)
        FMap.get? u.msgs m = some (.posted .go (.ofNat 12 j.lrec.asid) (.ofNat 64 j.lrec.goaddr) g s.fresh) ∧
        FMap.get? u.items s.fresh = some ⟨st.handle, st.job, .posted, g.home, g.far, false, 0⟩)) ∧
  (∀ (s : State) (st : Strand), Said.Issues s st [] → ∀ p ∈ [(Instr.predwait, 4), (.predwait16, 2)],
    (¬ Said.predecessorsDone s st → Said.Runs p.1 s (s.park st 6 0)) ∧
    (Said.predecessorsDone s st → (s.tile st.loc.tile).ag + 1 < 65536 → ∃ u t, Said.Runs p.1 s u ∧ u.strand? st.handle = some t ∧ t.pc = st.pc + .ofNat 56 p.2 ∧
      t.g = st.g ∧ t.sg = (s.tile st.loc.tile).ag + 1 ∧ (u.tile st.loc.tile).ag = (s.tile st.loc.tile).ag + 1 ∧ (u.core st.coreKey).lineBuf = [] ∧
      (u.core st.coreKey).instrBuf = [] ∧ (u.col st.colKey).rakeBuf = [] ∧ u.mem = s.mem)) ∧
  (∀ (s : State) (st : Strand), Said.Issues s st [] → ∀ p ∈ [(Instr.yield, 4), (.yield16, 2)],
    (st.loc.slot = 15 ∨ (s.core st.coreKey).arrival = [] → Said.Runs p.1 s (Said.after16 s st p.2)) ∧
    (∀ v : Strand, st.loc.slot < 15 → st.hkind = .none → st.status = .ready → (s.core st.coreKey).halted = false → (s.core st.coreKey).arrival = [v.handle] →
      s.strand? v.handle = some v → v.handle ≠ st.handle → v.status = .queued → v.hkind = .none → s.imageErr v = none →
      (∀ n, n < 15 → ∃ x, s.slotStrand st.loc.tile st.loc.core n = some x ∧ (n = st.loc.slot → x = st)) → (s.col st.colKey).resume = [] →
      s.imageCacheFull st.colKey = false → st.loc.core < 768 → st.loc.col = st.loc.core / 48 → st.loc.col < 16 →
      ∃ u w x, Said.Runs p.1 s u ∧ u.strand? st.handle = some w ∧ w.status = .evicted ∧ w.pc = st.pc + .ofNat 56 p.2 ∧ w.g = st.g ∧ w.cls = .resumed ∧
        st.handle ∈ (u.col st.colKey).resume ∧ u.strand? v.handle = some x ∧ x.status = .ready ∧ x.loc.slot = st.loc.slot ∧ x.pc = v.pc ∧
        v.handle ∉ (u.core st.coreKey).arrival))
namespace Sys2Proof.Said

/-- The special registers that a tile always holds (spec/13 R257): by number, their contents. -/
def specialOf (s : State) (st : Strand) (n : Nat) : Option Word :=
  let j := s.job? st.job
  match n with
  | 0 => some st.ss
  | 1 => some st.handle
  | 2 => some (.ofNat 64 st.loc.core)
  | 3 => some (.ofNat 64 st.loc.col)
  | 4 => some (.ofNat 64 st.loc.tile)
  | 5 => some (.ofNat 64 st.job)
  | 6 => some (.ofNat 64 (s.tile st.loc.tile).cyc)
  | 7 => j.map (fun j => .ofNat 64 j.lrec.handler)
  | 8 => (s.tableFor st).map (fun t => .ofNat 64 (t.bedn * 2 ^ 42 + t.bedtab))
  | 9 => j.map (fun j => if st.sup then 0 else .ofNat 64 (j.lrec.cutn * 2 ^ 42 + j.lrec.cuttab))
  | 10 => some st.bounce
  | _ => none
/-- Numbers 11 to 15 and 32 to 63 are unassigned. -/
def unassigned (n : BitVec 6) : Prop := (11 ≤ n.toNat ∧ n.toNat ≤ 15) ∨ 32 ≤ n.toNat
/-- What a strand's SWR of SS stores: RM, 5 to 7 as 0, and the flags; every other field as it was (spec/13 R258, R259). -/
def ssWritten (old v : Word) : Word :=
  (old &&& ~~~0xFF) ||| (v &&& 0xF8) ||| (if 5 ≤ v.toNat % 8 then 0 else v &&& 7)
/-- ... and the handle form: PP, PFA and PFB as well. -/
def ssWrittenByHandle (old v : Word) : Word := (ssWritten old v &&& ~~~0x1FF00) ||| (v &&& 0x1FF00)
/-- The trapped strand that a handler may name with this handle (spec/18 R362). -/
def named (s : State) (st v : Strand) (h : Word) : Prop :=
  s.strand? h = some v ∧ v.handle = h ∧ v.status = .trapped ∧
  ((st.hkind = .sup ∧ v.loc.tile = st.loc.tile) ∨ (st.hkind = .job ∧ h = st.victim ∧ st.colKey = st.bornCol))
/-- No strand that it may name has this handle. -/
def unnamed (s : State) (st : Strand) (h : Word) : Prop := ∀ v, s.strand? h = some v → v.handle = h → ¬ named s st v h
/-- Field lo to lo + len - 1 of x put into w. -/
def field (w lo len x : Nat) : Nat := w / 2 ^ (lo + len) * 2 ^ (lo + len) + x * 2 ^ lo + w % 2 ^ lo

end Sys2Proof.Said

/-- Spec/18 R362, R378, R379, spec/13 R257 to R259, spec/11 R230, spec/06 R115: SRD writes the contents of its register into d, LVL and LCNT from the level
descriptors the tile holds; an unassigned number is illegal, and so is SWR of any but SS, which stores RM and the flags alone. The handle forms read and write the parts of
the image of a Trapped strand that the handler may name, a register written having no parity error left (spec/11 R222); any other use raises Protection with g2 the handle.
Choices of the model: log 3. -/
def Obligations.SpecialRegistersReadAndWrite : Prop :=
  (∀ (s : State) (st : Strand) (d : GReg) (n : BitVec 6),
    (Said.IssuesAnyhow s st → Said.unassigned n → Said.Runs (.srd d n) s (s.trap st ⟨1, 0, .ofNat 64 (encode (.srd d n))⟩)) ∧
    (Said.Issues s st [] → ∀ v, Said.specialOf s st n.toNat = some v → Said.Runs (.srd d n) s (Said.completes s st [] 4 (fun t => t.setG d v))) ∧
    (Said.Issues s st [] → ∀ l, FMap.get? (s.tile st.loc.tile).levels st.job = some l → (∀ x ∈ l, 0 < x.count) → ∀ k, k < 8 →
      (n.toNat = 16 + k → Said.Runs (.srd d n) s (Said.completes s st [] 4 (fun t => t.setG d (.ofNat 64
        (match l[k]? with | some x => st.flat / ((l.drop (k + 1)).map (·.count)).foldl (· * ·) 1 % x.count | none => 0))))) ∧
      (n.toNat = 24 + k → Said.Runs (.srd d n) s (Said.completes s st [] 4 (fun t => t.setG d (.ofNat 64
        (match l[k]? with | some x => x.count | none => 1)))))) ∧
    (Said.Issues s st [] → FMap.get? (s.tile st.loc.tile).levels st.job = none → 16 ≤ n.toNat → n.toNat < 32 →
      ∃ u m, Said.Runs (.srd d n) s u ∧ u.strand? st.handle = some ((st.await d.toNat s.fresh).completed (st.pc + 4)) ∧
        FMap.get? u.msgs m = some (.levels st.handle d.toNat s.fresh n.toNat))) ∧
  (∀ (s : State) (st : Strand) (n : BitVec 6) (a : GSrc),
    (n ≠ 0 → Said.IssuesAnyhow s st → Said.Runs (.swr n a) s (s.trap st ⟨1, 0, .ofNat 64 (encode (.swr n a))⟩)) ∧
    (n = 0 → Said.Issues s st [a.reg.toNat] → ∃ u t, Said.Runs (.swr n a) s u ∧ u.strand? st.handle = some t ∧
      t.ss &&& 0xFFFFFFFFFFFE00FF = Said.ssWritten (s.readSources st [Said.g a]).2.ss (st.gv a.reg) &&& 0xFFFFFFFFFFFE00FF ∧
      t.pc = st.pc + 4 ∧ t.g = st.g ∧ u.mem = s.mem)) ∧
  (∀ (s : State) (st v : Strand) (d : GReg) (a : GSrc) (n : BitVec 6), Said.Issues s st [a.reg.toNat] → (st.rc a.reg.toNat).acq = none → a.take = false →
    let h := st.gv a.reg
    let fills := fun (x : Word) => Said.Runs (.srdHandle d a n) s
      ((s.putStrand ((st.await d.toNat s.fresh).completed (st.pc + 4))).send (.fill st.handle d.toNat s.fresh x.toNat none none))
    (28 ≤ n.toNat → n.toNat < 32 → Said.Runs (.srdHandle d a n) s (s.trap st ⟨1, 0, .ofNat 64 (encode (.srdHandle d a n))⟩)) ∧
    (n.toNat < 28 ∨ 32 ≤ n.toNat →
      (Said.unnamed s st h → (∀ x, s.strand? h = some x → x.handle = h) → Said.Runs (.srdHandle d a n) s (s.trap st ⟨7, h, 0⟩)) ∧
      (Said.named s st v h →
        (∀ r : GReg, n.toNat = r.toNat → (v.rc r.toNat).st = .full → fills (v.gv r)) ∧
        (∀ k : Fin 8, n.toNat = 16 + k.val → fills v.x[k]) ∧
        (n.toNat = 24 → fills (v.pc.zeroExtend 64)) ∧ (n.toNat = 25 → fills v.ss) ∧ (n.toNat = 27 → fills v.bounce) ∧
        (n.toNat = 26 → ∃ x : Word, fills x ∧ (∀ r, r < 24 → x.extractLsb' (2 * r) 2 = (Said.stateCode (v.rc r).st).truncate 2) ∧ x.toNat < 2 ^ 48) ∧
        (∀ (k : WReg) (j : Nat), j < 4 → n.toNat = 32 + 4 * k.toNat + j → (v.rc (16 + k.toNat)).st = .full → fills ((v.wv k).extractLsb' (64 * j) 64))))) ∧
  (∀ (s : State) (st v : Strand) (r : GReg) (a : GSrc) (n : BitVec 6), Said.Issues s st [a.reg.toNat, r.toNat] → (st.rc a.reg.toNat).acq = none →
    (st.rc r.toNat).acq = none → a.take = false → let h := st.gv r
    let x := st.gv a.reg
    let stores := fun (w : Strand) => Said.Runs (.swrHandle r n a) s ((s.putStrand w).putStrand (st.completed (st.pc + 4)))
    (27 ≤ n.toNat → n.toNat < 32 → Said.Runs (.swrHandle r n a) s (s.trap st ⟨1, 0, .ofNat 64 (encode (.swrHandle r n a))⟩)) ∧
    (n.toNat < 27 ∨ 32 ≤ n.toNat →
      (Said.unnamed s st h → (∀ y, s.strand? h = some y → y.handle = h) → Said.Runs (.swrHandle r n a) s (s.trap st ⟨7, h, 0⟩)) ∧
      (Said.named s st v h →
        (∀ k : GReg, n.toNat = k.toNat → stores (v.setG k x)) ∧
        (∀ k, k < 8 → n.toNat = 16 + k → stores { v with x := v.x.setIfInBounds k x, xpar := v.xpar &&& ~~~(1#8 <<< k) }) ∧
        (n.toNat = 24 → stores { v with pc := (x.truncate 56) &&& ~~~1 }) ∧
        (n.toNat = 25 → stores { v with ss := Said.ssWrittenByHandle v.ss x }) ∧
        (n.toNat = 26 → ∃ w, stores w ∧ w.g = v.g ∧ w.w = v.w ∧ ∀ k, k < 24 → (w.rc k).st =
          (match x.toNat / 2 ^ (2 * k) % 4 with | 0 => .full | 2 => (if Said.attachedTo v k then .cut else .empty) | _ => .empty)) ∧
        (∀ (k : WReg) (j : Nat), j < 4 → n.toNat = 32 + 4 * k.toNat + j → stores (v.setW k (.ofNat 256 (Said.field
          (if (v.rc (16 + k.toNat)).st = .full then (v.wv k).toNat else 0) (64 * j) 64 x.toNat)))))))
namespace Sys2Proof.Said

/-- Recipe n of the job's cutting table on the tile is attached to r: the lowest entry of CMAP with r's code names it (spec/13 R253). -/
def recipeFor (s : State) (st : Strand) (r : Nat) (e : Recipe) : Prop :=
  ∃ tab n k, FMap.get? (s.tile st.loc.tile).cuts st.job = some tab ∧ k < 8 ∧ st.cmap.toList[k]? = some ⟨r, n⟩ ∧
    (∀ k', k' < k → (st.cmap.toList[k']?).map (·.reg) ≠ some r) ∧ tab.recipes[n.toNat]? = some e
/-- The replay of r stands at instruction i of its recipe, v the value so far, and no load of it is out. -/
def replaysAt (st : Strand) (r i : Nat) (v : Word) : Prop :=
  (i = 0 ∧ v = 0 ∧ st.regrow = none) ∨ st.regrow = some ⟨r, i, some (v.zeroExtend 256), none, none⟩
/-- Instruction i of a recipe. -/
def recipeIs (e : Recipe) (i : Nat) (ins : Instr) : Prop :=
  ∃ w, e.ins[i]? = some w ∧ (if w % 4 = 3 then decode32 w else decode16 w) = .ok ins
/-- After instruction i with the value x: r is Full after the last, and no replay is under way; otherwise the replay stands at the next. -/
def replayed (st : Strand) (r : GReg) (i n : Nat) (x : Word) : Strand :=
  if i + 1 = n then { st.setG r x with regrow := none, status := .ready, pcause := 0 }
  else { st with regrow := some ⟨r.toNat, i + 1, some (x.zeroExtend 256), none, none⟩, status := .ready, pcause := 0 }
/-- The sources of a recipe instruction other than r carry no cutting and can be read. -/
def replayReads (st : Strand) (r : Nat) (l : List Nat) : Prop :=
  ∀ x ∈ l, x ≠ r → attachedTo st x = false ∧ (st.rc x).st = .full ∧ (st.rc x).acq = none ∧ (st.rc x).loss = none ∧ (st.rc x).par = false
/-- CuttingReplay of instruction i of the recipe of r with an inner cause (spec/13 R255, spec/11 R205). -/
def cuttingFault (s : State) (st : Strand) (r i c : Nat) (g2 : Word) : State := s.trap st ⟨10, g2, .ofNat 64 (i * 2 ^ 16 + r * 2 ^ 8 + c)⟩

end Sys2Proof.Said

/-- Spec/13 R254, R255, R257: one turn of the replay of a Cut g register r on a tile that holds the cutting table. An integer instruction
of the recipe puts its result in r, a source that names r reading the value so far; XGET that of the x register; SRD a special register's. After
the last instruction r is Full, and no flag and no other register has changed. The first source other than r that carries a cutting, or is not
Full, ends the turn: CuttingReplay with inner cause 0, or a park with cause 1 and PREG that source, after which the replay starts again. A load
waits or raises CuttingReplay with inner cause 4 for no bed, 5 for a bed with IMM clear, 3 for an address not aligned, and the cause of
a failed read, g2 the address. -/
def Sys2Proof.Said.replayTakesOneStep : Prop :=
  ∀ (s : State) (st : Strand) (r : GReg) (e : Recipe) (i : Nat) (v : Word) (ins : Instr), st.xpar = 0 → Said.recipeFor s st r.toNat e →
    Said.replaysAt st r.toNat i v → Said.recipeIs e i ins →
    let steps := fun (x : Word) => s.replayStep st r.toNat = s.putStrand (Said.replayed st r i e.ins.length x)
    (∀ q, (Said.arith ins (st.setG r v)).or (Said.bitwise ins (st.setG r v)) = some q → q.d = r → (∀ d imm, ins ≠ .auipc d imm) →
      (Said.replayReads st r.toNat (q.srcs.map (·.1)) → steps q.v) ∧
      (∀ a l, (q.srcs.map (·.1)).filter (· ≠ r.toNat) = a :: l →
        (Said.attachedTo st a = true → s.replayStep st r.toNat = Said.cuttingFault s st r.toNat i 0 0) ∧
        (Said.attachedTo st a = false → (st.rc a).st ≠ .full → s.replayStep st r.toNat = s.park { st with regrow := none } 1 a))) ∧
    (∀ d (x : XReg), ins = .xget d x → steps st.x[x.toNat]) ∧
    (∀ d n y, ins = .srd d n → Said.specialOf s st n.toNat = some y → steps y) ∧
    (∀ a, (Said.load ins (st.setG r v)) = some a → Said.replayReads st r.toNat (a.srcs.map (·.1)) → (∀ d b imm, ins ≠ .vld d b imm) →
      (s.lookup st a.va = .wait → s.replayStep st r.toNat = s.putStrand { st with bedWait := some a.va }) ∧
      (s.lookup st a.va = .miss → s.replayStep st r.toNat = Said.cuttingFault s st r.toNat i 4 a.va) ∧
      (∀ h, s.lookup st a.va = .hit h →
        (h.bed.imm = false → s.replayStep st r.toNat = Said.cuttingFault (s.touchBed st h) st r.toNat i 5 a.va) ∧
        (h.bed.imm = true → a.va.toNat % a.align ≠ 0 → s.replayStep st r.toNat = Said.cuttingFault (s.touchBed st h) st r.toNat i 3 a.va) ∧
        (h.bed.imm = true → a.va.toNat % a.align = 0 → h.bed.rd = true → st.ldaq = [] → ∀ hoff, Said.homeOf st a h = some (st.colKey, hoff) →
          let s1 := (s.touchBed st h).scrubLine st a.va.toNat
          (∀ x, s1.lineHit st a.va.toNat a.align = some x → s.replayStep st r.toNat =
            s1.putStrand (Said.replayed st r i e.ins.length (.ofNat 64 (Said.loaded (Said.signed ins) a.align x)))) ∧
          (s1.lineHit st a.va.toNat a.align = none → s1.waitsHome st.colKey h.index hoff h.bed.kind st.asid a.align 0 = false → ∀ s2 res,
            s1.homeRead st.colKey h.index hoff h.bed.kind (Said.spills s st h) st.asid a.align 0 st.party = (s2, res) →
            (∀ x off, res = .ok x off → s.replayStep st r.toNat = (s2.allocLine st st.colKey h.bed.kind a.va.toNat off).putStrand
              (Said.replayed st r i e.ins.length (.ofNat 64 (Said.loaded (Said.signed ins) a.align x)))) ∧
            (∀ c g4, res = .trip c g4 → s.replayStep st r.toNat = Said.cuttingFault s2 st r.toNat i c a.va)))))

/-- Spec/13 R255, R253: while the load of a replay is out its turns change nothing; one that failed raises CuttingReplay with the cause as the inner
cause and g2 the load's address; a tile that lacks the job's cutting table asks the lead gardener for it. -/
def Sys2Proof.Said.replayWaitsForItsLoad : Prop :=
  (∀ (s : State) (st : Strand) (r : Nat) (e : Recipe) (i tag : Nat) (v : Option Wide), Said.recipeFor s st r e →
    (st.regrow = some ⟨r, i, v, some tag, none⟩ → s.replayStep st r = s) ∧
    (∀ c va, st.regrow = some ⟨r, i, v, none, some (c, va)⟩ → s.replayStep st r = Said.cuttingFault s st r i c va)) ∧
  (∀ (s : State) (st : Strand) (r : Nat), FMap.get? (s.tile st.loc.tile).cuts st.job = none →
    s.replayStep st r = s.wantTable st.loc.tile 1 st.job)

/-- Spec/15 R308, R309, R310, R312, R313, spec/13 R255: CLRE, ISF, WAITF, UNCUT and DROP, and the replay of a Cut register. -/
def Obligations.RegisterStateInstructionsActAsStated : Prop :=
  Sys2Proof.Said.clreEmptiesOrCuts ∧ Sys2Proof.Said.isfWritesStateCode ∧ Sys2Proof.Said.waitfWaitsForFull ∧ Sys2Proof.Said.uncutFreesAttachment ∧ Sys2Proof.Said.dropCutsAttachedRegister ∧ Sys2Proof.Said.replayTakesOneStep ∧
  Sys2Proof.Said.replayWaitsForItsLoad

namespace Sys2Proof.Said

/-- The causes that go to the supervisor handler; a CuttingReplay goes by its inner cause (spec/11 R205). -/
def toSup (t : Trip) : Prop := let c := if t.cause = 10 then t.g4.toNat % 256 else t.cause
  c = 6 ∨ c = 7 ∨ c = 9
/-- The trapped strand: Trapped, PCAUSE 7, its PC, its registers as they were (spec/11 R206, R207). -/
def trapped (v st : Strand) (pc : BitVec 56) : Prop :=
  v.status = .trapped ∧ v.pcause = 7 ∧ v.pc = pc ∧ v.g = st.g ∧ v.w = st.w ∧ v.x = st.x ∧ v.ss = st.ss ∧ v.bounce = st.bounce ∧ v.handle = st.handle
/-- The handler that is created for a trap of a strand, in the urgent queue of its core (spec/11 R210). -/
def handles (s u : State) (st : Strand) (t : Trip) (kind : HandlerKind) (pc : Nat) (asid : BitVec 12) : Prop :=
  ∃ h, u.strand? (s.nextHandle st.colKey st.job) = some h ∧ h.pc = .ofNat 56 pc ∧ h.gv 0 = .ofNat 64 t.cause ∧ h.gv 1 = st.pc.zeroExtend 64 ∧
    h.gv 2 = t.g2 ∧ h.gv 3 = st.handle ∧ h.gv 4 = t.g4 ∧ (∀ k : GReg, 4 < k.toNat → h.gv k = 0) ∧ (∀ r, r < 24 → h.rc r = RegCtl.reset) ∧
    h.w = Vector.replicate 8 0 ∧ h.x = Vector.replicate 8 0 ∧ h.sup = (kind == .sup) ∧ h.pp = false ∧ h.job = st.job ∧ h.flat = st.flat ∧
    h.asid = asid ∧ h.bounce = 0 ∧ h.joinw = 0 ∧ (∀ k, k < 24 → attachedTo h k = false) ∧ h.hkind = kind ∧ h.victim = st.handle ∧ h.ofTask = false ∧ h.loc.slot = 15 ∧
    h.handle ∈ (u.core st.coreKey).urgent ∧
    ((s.tile st.loc.tile).ag + 1 < 65536 → h.sg = (s.tile st.loc.tile).ag + 1 ∧ (u.tile st.loc.tile).ag = (s.tile st.loc.tile).ag + 1 ∧
      (u.core st.coreKey).lineBuf = [] ∧ (u.core st.coreKey).instrBuf = [] ∧ (u.col st.colKey).rakeBuf = [])
/-- The supervisor bed table of a tile is invalid: the one it fetched failed its check, or SUPBEDT names none of 1 to 256 beds (spec/11 R209). -/
def badSupTable (tl : Tile) : Prop :=
  (tl.supValid = true ∧ tl.supTable = none) ∨ (tl.supValid = false ∧ (tl.supbedt.toNat / 2 ^ 52 % 2 ^ 9 = 0 ∨ 256 < tl.supbedt.toNat / 2 ^ 52 % 2 ^ 9))
/-- Status 3 is recorded in a job that has none. -/
def status3 (s u : State) (job : Nat) : Prop :=
  ∀ j, s.job? job = some j → j.handle = job → j.status = 0 → u.job? job = some { j with status := 3 }

end Sys2Proof.Said

/-- Spec/11 R205 to R210, spec/06 R96: taking a trap. The strand is Trapped with its PC, registers, status word and BOUNCE as they were; the handler that the cause's route
names starts in the core's urgent queue with the cause, the address, g2, the handle and g4 in its first registers, acquired, its prefix clear. Without a job handler, or without an enabled supervisor entry and a valid supervisor bed table, the strand ends and status 3 is
recorded; a full urgent queue makes it wait. A trap of a job handler goes to the supervisor; one of a supervisor handler ends both.
Choices of the model: log 30. -/
def Obligations.TrapsCreateTheirHandler : Prop :=
  ∀ (s : State) (st : Strand) (t : Trip), s.imageCacheFull st.colKey = false → st.phase = .none → t.cause < 17 →
    let u := s.trap st t
    let room := (s.core st.coreKey).urgent.length < 4
    u.mem = s.mem ∧ u.sram = s.sram ∧
    (s.nextHandle st.colKey st.job ≠ st.handle →
      (st.hkind = .none → ¬ Said.toSup t → ∀ j, s.job? st.job = some j → j.lrec.handler ≠ 0 →
        (room → ∃ v, u.strand? st.handle = some v ∧ Said.trapped v st st.pc ∧ v.pending = none ∧
          Said.handles s u st t .job j.lrec.handler (.ofNat 12 j.lrec.asid)) ∧
        (¬ room → ∃ v, u.strand? st.handle = some v ∧ Said.trapped v st st.pc ∧ v.pending = some ⟨t.cause, st.pc.zeroExtend 64, t.g2, t.g4⟩ ∧ u.jobs = s.jobs)) ∧
      (st.hkind ≠ .sup → (st.hkind = .job ∨ Said.toSup t) → (s.tile st.loc.tile).supValid = true → (s.tile st.loc.tile).supTable.isSome = true →
        (s.tile st.loc.tile).supvec.getLsbD 63 = true → room →
          ∃ v, u.strand? st.handle = some v ∧ Said.trapped v st st.pc ∧ v.pending = none ∧
            Said.handles s u st t .sup ((s.tile st.loc.tile).supvec.toNat / 2 % 2 ^ 55 * 2) (s.tile st.loc.tile).supasid)) ∧
    (st.hkind = .none → ¬ Said.toSup t → ∀ j, s.job? st.job = some j → j.lrec.handler = 0 → st.joinw = 0 →
      Said.status3 s u st.job ∧ u.strands = FMap.erase (FMap.set s.strands st.handle.toNat st) st.handle.toNat) ∧
    (st.hkind ≠ .sup → (st.hkind = .job ∨ Said.toSup t) → (s.tile st.loc.tile).supvec.getLsbD 63 = false ∨ Said.badSupTable (s.tile st.loc.tile) → st.joinw = 0 →
      Said.status3 s u st.job ∧ u.strands = FMap.erase (FMap.set s.strands st.handle.toNat st) st.handle.toNat ∧
      (u.tile st.loc.tile).elogcnt = ((s.tile st.loc.tile).elogcnt + 1) % 2 ^ 32) ∧
    (∀ v, st.hkind = .sup → st.ofTask = false → st.joinw = 0 → FMap.sorted s.strands = true → s.strand? st.victim = some v → v.handle = st.victim →
      v.handle ≠ st.handle → v.status = .trapped → v.joinw = 0 → v.phase = .none → Said.status3 s u st.job ∧
      u.strands = FMap.erase (FMap.erase (FMap.set s.strands st.handle.toNat st) st.handle.toNat) v.handle.toNat ∧
      (u.tile st.loc.tile).elogcnt = ((s.tile st.loc.tile).elogcnt + 1) % 2 ^ 32) ∧
    (st.hkind = .sup → st.joinw = 0 → FMap.sorted s.strands = true → s.strand? st.victim = none → Said.status3 s u st.job ∧
      u.strands = FMap.erase (FMap.set s.strands st.handle.toNat st) st.handle.toNat ∧
      (u.tile st.loc.tile).elogcnt = ((s.tile st.loc.tile).elogcnt + 1) % 2 ^ 32)

/-- Spec/18 R380, R381, spec/11 R205 to R207, R211, R228: TRAP and BKPT take their trap with g4 the immediate and the trapped PC at the following instruction; with HOB set BKPT halts
the core instead. RESUME puts the named strand on its resume list, or, where its job is suspended and it is not urgent (spec/06 R96), makes it
Suspended, and a trap of it that still waited for its handler is forgotten; RESUME with SCP 1 sends it to the home of s2, waiting
while something of it is outstanding; KILL ends it; each ends the handler. A handle that may not be named raises Protection.
Choices of the model: log 12. -/
def Obligations.HandlersTrapResumeAndKill : Prop :=
  (∀ (s : State) (st : Strand) (imm : BitVec 12), Said.Issues s st [] →
    Said.Runs (.trap imm) s (s.trapAt st ⟨16, 0, imm.zeroExtend 64⟩ (st.pc + 4)) ∧
    ((s.core st.coreKey).dbgctl.getLsbD 60 = false → Said.Runs (.bkpt imm) s (s.trapAt st ⟨15, 0, imm.zeroExtend 64⟩ (st.pc + 4))) ∧
    ((s.core st.coreKey).dbgctl.getLsbD 60 = true → (s.core st.coreKey).dbgctl.getLsbD 63 = false → st.inSlot = true → ∃ u v, Said.Runs (.bkpt imm) s u ∧
      u.strand? st.handle = some v ∧ v.status = .halted ∧ v.pc = st.pc + 4 ∧ v.g = st.g ∧ (u.core st.coreKey).halted = true) ∧
    (∀ j, s.imageCacheFull st.colKey = false → st.phase = .none → st.hkind = .none → s.job? st.job = some j → j.lrec.handler ≠ 0 →
      (s.core st.coreKey).urgent.length < 4 → s.nextHandle st.colKey st.job ≠ st.handle → ∃ u v, Said.Runs (.trap imm) s u ∧
        u.strand? st.handle = some v ∧ Said.trapped v st (st.pc + 4) ∧
        Said.handles s u st ⟨16, 0, imm.zeroExtend 64⟩ .job j.lrec.handler (.ofNat 12 j.lrec.asid))) ∧
  (∀ (s : State) (st v : Strand) (a : GSrc), Said.Issues s st [a.reg.toNat] → (st.rc a.reg.toNat).acq = none → a.take = false →
    let h := st.gv a.reg
    let ended := fun (u : State) (m : FMap Strand) => u.strands = FMap.erase m st.handle.toNat ∧ u.mem = s.mem
    (Said.unnamed s st h → (∀ x, s.strand? h = some x → x.handle = h) → Said.Runs (.resume a) s (s.trap st ⟨7, h, 0⟩) ∧ Said.Runs (.kill a) s (s.trap st ⟨7, h, 0⟩)) ∧
    (Said.named s st v h → h ≠ st.handle →
      (s.jobSuspended v.job = false ∨ v.urgent = true → ∃ u, Said.Runs (.resume a) s u ∧
        ended u (FMap.set s.strands h.toNat { v with status := .evicted, pcause := 0, cls := .resumed, pending := none }) ∧ h ∈ (u.col v.colKey).resume) ∧
      (s.jobSuspended v.job = true → v.urgent = false → ∃ u, Said.Runs (.resume a) s u ∧
        ended u (FMap.set s.strands h.toNat { v with status := .suspended, pcause := 0, pending := none })) ∧
      (v.joinw = 0 → v.phase = .none → ∃ u, Said.Runs (.kill a) s u ∧ ended u (FMap.erase s.strands h.toNat) ∧ (st.hkind = .sup → Said.status3 s u v.job) ∧
        (st.hkind = .job → u.jobs = s.jobs)) ∧
      (∀ b : GSrc, Said.Issues s st [a.reg.toNat, b.reg.toNat] → (st.rc b.reg.toNat).acq = none → b.take = false →
        let va := st.gv b.reg
        ∀ tab, s.tableFor v = some tab → va.toNat < 2 ^ 56 →
          (tab.find va.toNat = none → Said.Runs (.resumeMigrate a b) s (s.trap st ⟨4, va, 0⟩)) ∧
          (∀ x, tab.find va.toNat = some x → let g := s.target v x va
            (g.home = none → Said.Runs (.resumeMigrate a b) s (s.trap st ⟨5, va, .ofNat 64 (x.index * 256 + x.bed.kind.code)⟩)) ∧
            (∀ key, g.home = some key →
              (s.mayDepart v = false → Said.Runs (.resumeMigrate a b) s (s.park st 2 0)) ∧
              (s.mayDepart v = true → ∃ u w m, Said.Runs (.resumeMigrate a b) s u ∧ u.strand? h = some w ∧ w.status = .inFlight ∧ w.dest = key ∧
                w.destVa = va ∧ w.pc = v.pc ∧ w.bounce = v.bounce ∧ w.g = v.g ∧ FMap.get? u.msgs m = some (.migrate h key w.message) ∧
                ended u (FMap.set s.strands h.toNat w)))))))
/-- Spec/17 R359: VTLD of a misaligned address raises Misaligned with g4 32, and a piece in no bed BedMiss with that piece's address; with every piece in readable
beds elsewhere its first issue, once no fill of a pinned LDAQ is out (spec/08 R149), sends the 32 reads and parks with cause 5, its PC held; it completes once the table is replaced, and a piece's fault traps
at the VTLD with the table as it was. -/
def Sys2Proof.Said.vtldReadsItsTable : Prop :=
  ∀ (s : State) (st : Strand) (a : GSrc), Said.Issues s st [a.reg.toNat] → let va := st.gv a.reg
    (∀ id ok c g2 g4, st.phase = .vtld id (some (c, g2, g4)) ok → Said.Runs (.vtld a) s (s.trap st ⟨c, g2, g4⟩)) ∧
    (∀ id, st.phase = .vtld id none true → Said.Runs (.vtld a) s (Said.completes s st [Said.g a] 4 (fun t => t))) ∧
    (st.phase = .none →
      (s.lookup st va = .miss → Said.Runs (.vtld a) s (s.trap st ⟨4, va, 0⟩)) ∧
      (∀ h, s.lookup st va = .hit h →
        (va.toNat % 32 ≠ 0 → Said.Runs (.vtld a) s ((s.touchBed st h).trap st ⟨3, va, 32⟩)) ∧
        (va.toNat % 32 = 0 → h.bed.rd = false → Said.Runs (.vtld a) s ((s.touchBed st h).trap st ⟨7, va, .ofNat 64 (h.index * 256 + 1)⟩)) ∧
        (va.toNat % 32 = 0 → h.bed.rd = true → (∀ k, k < 32 → s.lookup st (va + .ofNat 64 (32 * k)) = .hit h) →
          (∀ p l, st.ldaq = p :: l → Said.Runs (.vtld a) s (Said.heldByLdaq s st p)) ∧
          (st.ldaq = [] → (s.col st.colKey).rakeBuf = [] → ∃ u v id, Said.Runs (.vtld a) s u ∧ u.strand? st.handle = some v ∧ v.status = .parked ∧ v.pcause = 5 ∧ v.pc = st.pc ∧ v.g = st.g ∧
            v.phase = .vtld id none false ∧ (u.core st.coreKey).table = (s.core st.coreKey).table ∧
            ∀ k, k < 32 → ∃ m item, FMap.get? u.msgs m = some (.read (.vtld st.coreKey id k) st.asid (va + .ofNat 64 (32 * k)) 32
              (s.target st h (va + .ofNat 64 (32 * k))) item)))))

/-- Spec/16 R320, spec/17 R359: LDR and VTLD.
Choices of the model: log 12. -/
def Obligations.RemoteReadsNeverMoveTheStrand : Prop :=
  Sys2Proof.Said.ldrSendsReadRequest ∧ Sys2Proof.Said.vtldReadsItsTable
namespace Sys2Proof.Said

/-- The strand finds a parcel at an address, and the state that its lookup leaves: its bed is executable and even, the instruction buffer
holds the line without error, no fill of a pinned LDAQ is out, and the lookup is a use of the bed cache's entry (spec/13 R260, spec/07 R119,
R122, R130, spec/08 R149). -/
def parcelAt (s : State) (st : Strand) (va : Word) (p : Nat) (u : State) : Prop :=
  let s0 := s.scrubInstr st va.toNat
  ∃ h, s.lookup st va = .hit h ∧ va.toNat % 2 = 0 ∧ h.bed.ex = true ∧ s0.instrHit st va.toNat = some p ∧ st.ldaq = [] ∧ u = s0.touchBed st h
/-- The instruction at the strand's PC: one parcel, or two when the low two bits of the first are 11 (spec/13 R260). -/
def wordAt (s : State) (st : Strand) (w : Nat) (u : State) : Prop :=
  ∃ p s1, parcelAt s st (st.pc.zeroExtend 64) p s1 ∧
    ((p % 4 ≠ 3 ∧ w = p ∧ u = s1) ∨ (p % 4 = 3 ∧ ∃ q, parcelAt s1 st (st.pc.zeroExtend 64 + 2) q u ∧ w = p + 65536 * q))
/-- The decoding of one or two parcels. -/
def decoded (w : Nat) : Decoded := if w % 4 = 3 then decode32 w else decode16 w

end Sys2Proof.Said

/-- Spec/06 R94, R97, spec/13 R260, R268: when a slot's turn comes, its strand may issue and the parcels at its PC decode to an instruction, the step is that
instruction's meaning in a state whose issuing strand it is, Ready and with its cause cleared; parcels that name no instruction take the trap of an illegal or
reserved encoding, and a PC in no bed that of BedMiss. The move of another agent is the meaning of its step; with an empty agenda the step is a clock edge (log 1).
Choices of the model: log 1. -/
def Obligations.StepRunsDecodedInstruction : Prop :=
  (∀ (s u : State) (t c k w : Nat) (rest : List Move) (st : Strand), s.agenda = .issue t c k :: rest →
    let s1 := { s with agenda := rest, cur := none }
    let v := { st with status := .ready, pcause := 0, wait := st.wait.kept }
    let s2 := s1.putStrand v
    s1.slotStrand t c k = some st → s1.mayIssue st = true → (st.status = .parked → s1.causeClear st = true) →
    (Said.wordAt s2 v w u →
      (∀ i, (Said.decoded w).ins? = some i → step s = Sys2Proof.Machine.exec i { u with cur := some st.handle }) ∧
      (Said.decoded w = .illegal → step s = .next (u.trap v ⟨1, 0, .ofNat 64 w⟩)) ∧
      (Said.decoded w = .reserved → step s = .next (u.trap v ⟨2, 0, .ofNat 64 w⟩))) ∧
    (s2.lookup v (st.pc.zeroExtend 64) = .miss → step s = .next (s2.trap v ⟨4, st.pc.zeroExtend 64, 0⟩))) ∧
  (∀ (s : State) (e : Instr) (rest : List Move), s.agenda = .agent e :: rest →
    step s = Sys2Proof.Machine.exec e { s with agenda := rest, cur := none }) ∧
  (∀ s : State, s.agenda = [] → step s = .next s.clockEdge) ∧
  (∀ (s : State) (t c k : Nat) (rest : List Move), s.agenda = .issue t c k :: rest →
    let s1 := { s with agenda := rest, cur := none }
    (s1.slotStrand t c k = none → step s = .next s1) ∧
    (∀ st, s1.slotStrand t c k = some st → s1.mayIssue st = true → st.status = .parked → s1.causeClear st = false →
      step s = .next (s1.putStrand { st with parkedFor := st.parkedFor + 1 })))

/-- Words the spec writes out, one or more of each family, decode to the instructions they stand for, and its illegal and reserved ones to none: the examples of
spec/13 R265, spec/14 R283, spec/15 R307, R314, R315, spec/16 R343, spec/17 R349, R354, R360, spec/18 R361, R371, R378, R380 and spec/20's program. -/
def Obligations.SpecWordsDecode : Prop :=
  decode16 0x420C = .ok (.addi16 3 8) ∧ decode16 0x88D0 = .ok (.ldD16 4 3 2) ∧ decode16 0x7FDD = .ok (.srli16 7 63) ∧
  decode16 0x3650 = .ok (.mov16 4 9) ∧ decode16 0xA099 = .ok (.stpD16 6 2 0) ∧ decode16 0xE402 = .ok .exit16 ∧
  decode32 0x0006A283 = .ok (.add 5 ⟨4, true⟩ ⟨6, false⟩) ∧ decode32 0x1CCA2207 = .ok (.bfxn 4 ⟨4, false⟩ 12 7) ∧
  decode32 0xFF9D0107 = .ok (.loop 2 0xFF9) ∧ decode32 0x000C7F87 = .ok (.jalr 15 ⟨15, false⟩ 0) ∧ decode32 0x000E0007 = .ok .nop ∧
  decode32 0x00800113 = .ok (.li 2 4096) ∧
  decode32 0x04061B1F = .ok (.ld ⟨6, false⟩ ⟨3, false⟩ 3 8) ∧ decode32 0x01361A27 = .ok (.ldaq ⟨4, false⟩ ⟨3, false⟩ 6 3 2) ∧
  decode32 0x004E0A2F = .ok (.amocas ⟨4, false⟩ ⟨1, false⟩ 0) ∧
  decode32 0x44C521BB = .ok (.ffma 1 3 ⟨4, false⟩ ⟨5, false⟩ ⟨6, false⟩) ∧ decode32 0x5000063F = .ok (.vsum 0 4 ⟨1, false⟩) ∧
  decode32 0x14C00347 = .ok (.harr 6 3) ∧ decode32 0x040044C7 = .ok (.ctask 9 ⟨8, false⟩) ∧
  decode32 0x0004024B = .ok (.srd 4 4) ∧ decode32 0x004002CB = .ok (.srd 5 16) ∧ decode32 0x0800284B = .ok (.trap 5) ∧
  decode32 0x0D20284F = .ok (.cut 5 9) ∧ decode32 0x1800104F = .ok (.xset 0 ⟨2, false⟩) ∧ decode32 0xFFFFEDD3 = .ok (.xli 3 0x3FFFFB) ∧
  decode32 0x1C030043 = .ok (.vtld ⟨6, false⟩) ∧
  decode16 0x0000 = .illegal ∧ decode16 0x6002 = .illegal ∧ decode16 0xFC02 = .illegal ∧ decode16 0xE006 = .reserved ∧ decode32 0xFFFFFFFF = .illegal

/-- Spec/14 R271 to R278, spec/13 R260 to R262: every instruction with an encoding, with every operand at every value the encoding admits,
decodes from its encoded bytes to itself, and its bytes are 2 or 4 in number, the low two bits of the first parcel telling which. -/
def Obligations.DecodeEncodeAgree : Prop :=
  ∀ i : Instr, i.wf = true → (decode (encodeBytes i)).ins? = some i ∧ (encodeBytes i).length = i.len ∧
    (i.len = 4 ∧ encode i % 4 = 3 ∧ encode i < 2 ^ 32 ∨ i.len = 2 ∧ encode i % 4 ≠ 3 ∧ encode i < 2 ^ 16)

/-- Spec/03 R43, R52, spec/07 R138 (the model's memory is the list of bytes written and not zero): every step keeps device memory, SRAM and host memory in their
canonical form, addresses strictly rising and no zero listed.
Choices of the model: log 7. -/
def Obligations.EveryStepKeepsMemoryForm : Prop :=
  ∀ s t : State, s.memOk → step s = .next t → t.memOk

/-- Spec/03 R41, R45, R49, spec/01 R17, R19, spec/06 R100, spec/10 R181, R192, spec/11 R213, spec/18 R366, spec/04 R57: what the machine holds right after
reset: no site powered, no strand, job, task or message, every memory blank and in its form, and the registers at the values their maps give.
Choices of the model: log 4, 7. -/
def Obligations.ResetHoldsTheStatedValues : Prop :=
  let s := State.reset
  s.memOk ∧ s.strands = [] ∧ s.jobs = [] ∧ s.msgs = [] ∧ s.items = [] ∧ s.head.phase = 0 ∧ s.head.production = false ∧ s.head.imposed = false ∧
  (∀ a, s.mem.byte a = 0 ∧ s.sram.byte a = 0 ∧ s.hostMem.byte a = 0) ∧
  (∀ t, (s.tile t).pow.cap = 760 ∧ (s.tile t).tseq = 1 ∧ (s.tile t).esave = 0x8000000FB4000000 ∧ (s.tile t).debug = .closed ∧ (s.tile t).cyc = 0 ∧
    (s.tile t).supvec = 0 ∧ (s.tile t).tasks = [] ∧ s.tileUp t = false) ∧
  (∀ k, let c := s.core k
    c.corectl.toNat / 2 ^ 24 % 256 = 32 ∧ c.corectl.toNat / 2 ^ 16 % 64 = 8 ∧ c.corectl.toNat / 2 ^ 8 % 256 = 0 ∧ c.dbgctl = 0 ∧ c.arrival = [] ∧ c.bedCache = []) ∧
  (∀ t h, (s.hedge t h).state = .idle ∧ (s.hedge t h).gen = 0 ∧ (s.hedge t h).relgen = 0) ∧
  (∀ k, (s.engine k).bank0 = ⟨false, [], false⟩ ∧ (s.engine k).bank1 = ⟨false, [], false⟩ ∧ (s.engine k).chA = [] ∧ (s.engine k).chB = []) ∧
  (∀ q, (s.queue q).en = false ∧ (s.queue q).state = .disabled ∧ (s.queue q).weight = 1 ∧ (s.queue q).log2n = 4 ∧ (s.queue q).head = 0) ∧
  (∀ k, (s.quad k).scrw = 0 ∧ (s.quad k).retw = 0 ∧ (s.quad k).busy = false ∧ (s.quad k).bins = [] ∧ (s.col k).tlb = [] ∧ (s.col k).sidCount = 0)
end

