-- ==== Sys2Proof/Laws/Map.lean ====
section
/-! SUPPORT. Laws of finite maps and of memory: read after write, and that every memory operation keeps the canonical form. -/

namespace Sys2Proof.Machine

theorem FMap.get?_set_self {α : Type} (m : FMap α) (j : Nat) (x : α) : FMap.get? (FMap.set m j x) j = some x := by
  induction m with
  | nil => simp [FMap.set, FMap.get?]
  | cons p m ih =>
    obtain ⟨k, v⟩ := p
    unfold FMap.set
    split
    · simp [FMap.get?, *]
    · split
      · simp [FMap.get?]
      · simp [FMap.get?, *]

theorem FMap.get?_set_ne {α : Type} (m : FMap α) {j i : Nat} (x : α) (h : i ≠ j) :
    FMap.get? (FMap.set m j x) i = FMap.get? m i := by
  induction m with
  | nil => simp [FMap.set, FMap.get?]; omega
  | cons p m ih =>
    obtain ⟨k, v⟩ := p
    unfold FMap.set
    split
    · subst_vars; simp [FMap.get?, h]
    · split
      · simp only [FMap.get?]; split
        · omega
        · split
          · rw [if_neg (by omega), if_pos (by omega)]
          · rfl
      · simp only [FMap.get?, ih]

theorem FMap.getD_set_self {α : Type} (m : FMap α) (j : Nat) (x d : α) : FMap.getD (FMap.set m j x) j d = x := by
  simp [FMap.getD, FMap.get?_set_self]

theorem FMap.getD_set_ne {α : Type} (m : FMap α) {j i : Nat} (x d : α) (h : i ≠ j) :
    FMap.getD (FMap.set m j x) i d = FMap.getD m i d := by
  simp [FMap.getD, FMap.get?_set_ne m x h]

/-- Every key of a map is at least a bound. -/
def FMap.above {α : Type} (n : Nat) (m : FMap α) : Prop := ∀ p ∈ m, n ≤ p.1

theorem FMap.sorted_tail {α : Type} {p : Nat × α} {m : FMap α} (h : FMap.sorted (p :: m) = true) : FMap.sorted m = true := by
  cases m with
  | nil => rfl
  | cons q m => simp [FMap.sorted] at h; exact h.2

theorem FMap.sorted_above {α : Type} {p : Nat × α} {m : FMap α} (h : FMap.sorted (p :: m) = true) :
    FMap.above (p.1 + 1) m := by
  induction m generalizing p with
  | nil => intro q hq; cases hq
  | cons q m ih =>
    simp only [FMap.sorted, Bool.and_eq_true, decide_eq_true_eq] at h
    intro r hr
    cases hr with
    | head => exact h.1
    | tail _ hr => have := ih h.2 r hr; omega

theorem FMap.sorted_cons {α : Type} {p : Nat × α} {m : FMap α} (h : FMap.sorted m = true) (ha : FMap.above (p.1 + 1) m) :
    FMap.sorted (p :: m) = true := by
  cases m with
  | nil => rfl
  | cons q m =>
    have := ha q (by simp)
    simp only [FMap.sorted, Bool.and_eq_true, decide_eq_true_eq]
    exact ⟨by omega, h⟩

theorem FMap.mem_set {α : Type} (m : FMap α) (j : Nat) (x : α) : ∀ p ∈ FMap.set m j x, p = (j, x) ∨ p ∈ m := by
  induction m with
  | nil => simp [FMap.set]
  | cons q m ih =>
    obtain ⟨k, v⟩ := q
    unfold FMap.set
    intro p hp
    split at hp
    · subst_vars
      cases hp with
      | head => exact .inl rfl
      | tail _ hp => exact .inr (.tail _ hp)
    · split at hp
      · cases hp with
        | head => exact .inl rfl
        | tail _ hp => exact .inr hp
      · cases hp with
        | head => exact .inr (.head _)
        | tail _ hp => exact (ih p hp).imp id (.tail _)

theorem FMap.set_sorted {α : Type} {m : FMap α} (j : Nat) (x : α) (h : FMap.sorted m = true) :
    FMap.sorted (FMap.set m j x) = true := by
  induction m with
  | nil => rfl
  | cons q m ih =>
    obtain ⟨k, v⟩ := q
    have hs := FMap.sorted_tail h
    have ha := FMap.sorted_above h
    unfold FMap.set
    split
    · exact FMap.sorted_cons hs ha
    · split
      · exact FMap.sorted_cons h (fun p hp => by
          cases hp with
          | head => simp; omega
          | tail _ hp => have := ha p hp; simp at this ⊢; omega)
      · exact FMap.sorted_cons (ih hs) (fun p hp => by
          cases FMap.mem_set m j x p hp with
          | inl e => subst e; simp; omega
          | inr hp => exact ha p hp)

theorem FMap.mem_erase {α : Type} (m : FMap α) (j : Nat) : ∀ p ∈ FMap.erase m j, p ∈ m := by
  induction m with
  | nil => simp [FMap.erase]
  | cons q m ih =>
    obtain ⟨k, v⟩ := q
    unfold FMap.erase
    intro p hp
    split at hp
    · simp [hp]
    · split at hp
      · exact hp
      · simp only [List.mem_cons] at hp ⊢
        cases hp with
        | inl h => exact .inl h
        | inr h => exact .inr (ih p h)

theorem FMap.erase_sorted {α : Type} {m : FMap α} (j : Nat) (h : FMap.sorted m = true) :
    FMap.sorted (FMap.erase m j) = true := by
  induction m with
  | nil => rfl
  | cons q m ih =>
    obtain ⟨k, v⟩ := q
    have hs := FMap.sorted_tail h
    unfold FMap.erase
    split
    · exact hs
    · split
      · exact h
      · exact FMap.sorted_cons (ih hs) (fun p hp => FMap.sorted_above h p (FMap.mem_erase m j p hp))

theorem FMap.filter_sorted {α : Type} {m : FMap α} (f : Nat × α → Bool) (h : FMap.sorted m = true) :
    FMap.sorted (m.filter f) = true := by
  induction m with
  | nil => rfl
  | cons q m ih =>
    have hs := ih (FMap.sorted_tail h)
    simp only [List.filter_cons]
    split
    · exact FMap.sorted_cons hs (fun p hp => FMap.sorted_above h p (List.mem_filter.mp hp).1)
    · exact hs

theorem FMap.get?_below {α : Type} {m : FMap α} {n : Nat} (h : FMap.above (n + 1) m) : FMap.get? m n = none := by
  cases m with
  | nil => rfl
  | cons q m =>
    obtain ⟨k, v⟩ := q
    have := h (k, v) (by simp)
    simp only [FMap.get?]
    rw [if_neg (by simp at this; omega), if_pos (by simp at this; omega)]

theorem FMap.get?_erase_self {α : Type} {m : FMap α} (j : Nat) (h : FMap.sorted m = true) :
    FMap.get? (FMap.erase m j) j = none := by
  induction m with
  | nil => rfl
  | cons q m ih =>
    obtain ⟨k, v⟩ := q
    unfold FMap.erase
    split
    · subst_vars; exact FMap.get?_below (FMap.sorted_above h)
    · split
      · simp [FMap.get?, *]
      · simp only [FMap.get?]; rw [if_neg (by assumption), if_neg (by assumption)]; exact ih (FMap.sorted_tail h)

theorem FMap.get?_erase_ne {α : Type} {m : FMap α} {j i : Nat} (h : FMap.sorted m = true) (hij : i ≠ j) :
    FMap.get? (FMap.erase m j) i = FMap.get? m i := by
  induction m with
  | nil => rfl
  | cons q m ih =>
    obtain ⟨k, v⟩ := q
    have ha := FMap.sorted_above h
    unfold FMap.erase
    split
    · subst_vars
      simp only [FMap.get?]
      rw [if_neg hij]
      split
      · exact FMap.get?_below (fun p hp => by have := ha p hp; simp at this; omega)
      · rfl
    · split
      · rfl
      · simp only [FMap.get?, ih (FMap.sorted_tail h)]

/-! ### Memory -/

theorem Memory.wf_iff (m : Memory) : Memory.wf m = true ↔ FMap.sorted m = true ∧ ∀ c ∈ m, c.2 ≠ Memory.blank := by
  simp [Memory.wf, List.all_eq_true]

theorem Memory.put_wf {m : Memory} (a : Nat) (b : Byte) (h : Memory.wf m = true) : Memory.wf (Memory.put m a b) = true := by
  rw [Memory.wf_iff] at *
  unfold Memory.put
  split
  · exact ⟨FMap.erase_sorted a h.1, fun c hc => h.2 c (FMap.mem_erase m a c hc)⟩
  · refine ⟨FMap.set_sorted a b h.1, fun c hc => ?_⟩
    cases FMap.mem_set m a b c hc with
    | inl e => subst e; assumption
    | inr hc => exact h.2 c hc

theorem Memory.putBytes_wf {m : Memory} (a : Nat) (l : List Byte) (h : Memory.wf m = true) :
    Memory.wf (Memory.putBytes m a l) = true := by
  induction l generalizing m a with
  | nil => exact h
  | cons b l ih => exact ih _ (Memory.put_wf a b h)

theorem Memory.write_wf {m : Memory} (a n v : Nat) (h : Memory.wf m = true) : Memory.wf (Memory.write m a n v) = true :=
  Memory.putBytes_wf a _ h

theorem Memory.filter_wf {m : Memory} (f : Host.Cell → Bool) (h : Memory.wf m = true) : Memory.wf (m.filter f) = true := by
  rw [Memory.wf_iff] at *
  exact ⟨FMap.filter_sorted f h.1, fun c hc => h.2 c (List.mem_filter.mp hc).1⟩

theorem Memory.clear_wf {m : Memory} (lo hi : Nat) (h : Memory.wf m = true) : Memory.wf (Memory.clear m lo hi) = true :=
  Memory.filter_wf _ h

theorem Memory.nil_wf : Memory.wf [] = true := rfl

theorem Memory.byte_put_self {m : Memory} (a : Nat) (b : Byte) (h : Memory.wf m = true) : (Memory.put m a b).byte a = b := by
  unfold Memory.put Memory.byte
  split
  · rw [FMap.get?_erase_self a ((Memory.wf_iff m).mp h).1]; simp [*]
  · rw [FMap.get?_set_self]; rfl

theorem Memory.byte_put_ne {m : Memory} {a c : Nat} (b : Byte) (h : Memory.wf m = true) (hc : c ≠ a) :
    (Memory.put m a b).byte c = m.byte c := by
  unfold Memory.put Memory.byte
  split
  · rw [FMap.get?_erase_ne ((Memory.wf_iff m).mp h).1 hc]
  · rw [FMap.get?_set_ne m b hc]

/-- Bytes outside a write read as before. -/
theorem Memory.byte_putBytes_out {m : Memory} (a : Nat) (l : List Byte) {c : Nat} (h : Memory.wf m = true)
    (hc : c < a ∨ a + l.length ≤ c) : (Memory.putBytes m a l).byte c = m.byte c := by
  induction l generalizing m a with
  | nil => rfl
  | cons b l ih =>
    simp only [List.length_cons] at hc
    unfold Memory.putBytes
    rw [ih (a + 1) (Memory.put_wf a b h) (by omega), Memory.byte_put_ne b h (by omega)]

/-- A byte inside a write reads as written. -/
theorem Memory.byte_putBytes_in {m : Memory} (a : Nat) (l : List Byte) {i : Nat} (h : Memory.wf m = true) (hi : i < l.length) :
    (Memory.putBytes m a l).byte (a + i) = l[i] := by
  induction l generalizing m a i with
  | nil => cases hi
  | cons b l ih =>
    unfold Memory.putBytes
    cases i with
    | zero => rw [Memory.byte_putBytes_out (a + 1) l (Memory.put_wf a b h) (by omega)]; exact Memory.byte_put_self a b h
    | succ i =>
      have := ih (m := Memory.put m a b) (a + 1) (i := i) (Memory.put_wf a b h) (by simpa using hi)
      rw [show a + (i + 1) = a + 1 + i by omega, this]; rfl

theorem leBytes_length (v n : Nat) : (leBytes v n).length = n := by
  induction n generalizing v with
  | zero => rfl
  | succ n ih => simp [leBytes, ih]

theorem leValue_leBytes (v n : Nat) : leValue (leBytes v n) = v % 256 ^ n := by
  induction n generalizing v with
  | zero => simp [leBytes, leValue, Nat.mod_one]
  | succ n ih =>
    simp only [leBytes, leValue, ih]
    show v % 256 + 256 * (v / 256 % 256 ^ n) = v % 256 ^ (n + 1)
    rw [show 256 ^ (n + 1) = 256 * 256 ^ n by rw [Nat.pow_succ, Nat.mul_comm], Nat.mod_mul]

theorem Memory.bytes_putBytes {m : Memory} (a : Nat) (l : List Byte) (h : Memory.wf m = true) :
    Memory.bytes (Memory.putBytes m a l) a l.length = l := by
  induction l generalizing m a with
  | nil => rfl
  | cons b l ih =>
    simp only [List.length_cons, Memory.bytes]
    rw [show Memory.byte (Memory.putBytes m a (b :: l)) a = b from Memory.byte_putBytes_in a (b :: l) h (by simp) (i := 0)]
    unfold Memory.putBytes
    rw [ih (a + 1) (Memory.put_wf a b h)]

/-- Reading what was written: the value, reduced to the bytes written. -/
theorem Memory.read_write {m : Memory} (a n v : Nat) (h : Memory.wf m = true) :
    Memory.read (Memory.write m a n v) a n = v % 256 ^ n := by
  have := Memory.bytes_putBytes a (leBytes v n) h
  rw [leBytes_length] at this
  simp only [Memory.read, Memory.write, this, leValue_leBytes]

end Sys2Proof.Machine
end

