-- ==== Sys2Proof/Laws/State.lean ====
section
/-! SUPPORT. One lemma per field per update of the state and of a strand: the fields that an update leaves as they were, and
the field that it writes. -/

namespace Sys2Proof.Machine

/-! ### putStrand -/
@[simp] theorem State.putStrand_agenda (s : State) (x : Strand) : (s.putStrand x).agenda = s.agenda := rfl
@[simp] theorem State.putStrand_cur (s : State) (x : Strand) : (s.putStrand x).cur = s.cur := rfl
@[simp] theorem State.putStrand_fresh (s : State) (x : Strand) : (s.putStrand x).fresh = s.fresh := rfl
@[simp] theorem State.putStrand_cores (s : State) (x : Strand) : (s.putStrand x).cores = s.cores := rfl
@[simp] theorem State.putStrand_cols (s : State) (x : Strand) : (s.putStrand x).cols = s.cols := rfl
@[simp] theorem State.putStrand_quads (s : State) (x : Strand) : (s.putStrand x).quads = s.quads := rfl
@[simp] theorem State.putStrand_engines (s : State) (x : Strand) : (s.putStrand x).engines = s.engines := rfl
@[simp] theorem State.putStrand_tiles (s : State) (x : Strand) : (s.putStrand x).tiles = s.tiles := rfl
@[simp] theorem State.putStrand_jobs (s : State) (x : Strand) : (s.putStrand x).jobs = s.jobs := rfl
@[simp] theorem State.putStrand_queues (s : State) (x : Strand) : (s.putStrand x).queues = s.queues := rfl
@[simp] theorem State.putStrand_ports (s : State) (x : Strand) : (s.putStrand x).ports = s.ports := rfl
@[simp] theorem State.putStrand_dies (s : State) (x : Strand) : (s.putStrand x).dies = s.dies := rfl
@[simp] theorem State.putStrand_routers (s : State) (x : Strand) : (s.putStrand x).routers = s.routers := rfl
@[simp] theorem State.putStrand_sites (s : State) (x : Strand) : (s.putStrand x).sites = s.sites := rfl
@[simp] theorem State.putStrand_head (s : State) (x : Strand) : (s.putStrand x).head = s.head := rfl
@[simp] theorem State.putStrand_mem (s : State) (x : Strand) : (s.putStrand x).mem = s.mem := rfl
@[simp] theorem State.putStrand_sram (s : State) (x : Strand) : (s.putStrand x).sram = s.sram := rfl
@[simp] theorem State.putStrand_hostMem (s : State) (x : Strand) : (s.putStrand x).hostMem = s.hostMem := rfl
@[simp] theorem State.putStrand_badLines (s : State) (x : Strand) : (s.putStrand x).badLines = s.badLines := rfl
@[simp] theorem State.putStrand_msgs (s : State) (x : Strand) : (s.putStrand x).msgs = s.msgs := rfl
@[simp] theorem State.putStrand_transit (s : State) (x : Strand) : (s.putStrand x).transit = s.transit := rfl
@[simp] theorem State.putStrand_items (s : State) (x : Strand) : (s.putStrand x).items = s.items := rfl
@[simp] theorem State.putStrand_acks (s : State) (x : Strand) : (s.putStrand x).acks = s.acks := rfl
@[simp] theorem State.putStrand_winReads (s : State) (x : Strand) : (s.putStrand x).winReads = s.winReads := rfl
@[simp] theorem State.putStrand_out (s : State) (x : Strand) : (s.putStrand x).out = s.out := rfl
/-! ### eraseStrand -/
@[simp] theorem State.eraseStrand_agenda (s : State) (x : BitVec 64) : (s.eraseStrand x).agenda = s.agenda := rfl
@[simp] theorem State.eraseStrand_cur (s : State) (x : BitVec 64) : (s.eraseStrand x).cur = s.cur := rfl
@[simp] theorem State.eraseStrand_fresh (s : State) (x : BitVec 64) : (s.eraseStrand x).fresh = s.fresh := rfl
@[simp] theorem State.eraseStrand_cores (s : State) (x : BitVec 64) : (s.eraseStrand x).cores = s.cores := rfl
@[simp] theorem State.eraseStrand_cols (s : State) (x : BitVec 64) : (s.eraseStrand x).cols = s.cols := rfl
@[simp] theorem State.eraseStrand_quads (s : State) (x : BitVec 64) : (s.eraseStrand x).quads = s.quads := rfl
@[simp] theorem State.eraseStrand_engines (s : State) (x : BitVec 64) : (s.eraseStrand x).engines = s.engines := rfl
@[simp] theorem State.eraseStrand_tiles (s : State) (x : BitVec 64) : (s.eraseStrand x).tiles = s.tiles := rfl
@[simp] theorem State.eraseStrand_jobs (s : State) (x : BitVec 64) : (s.eraseStrand x).jobs = s.jobs := rfl
@[simp] theorem State.eraseStrand_queues (s : State) (x : BitVec 64) : (s.eraseStrand x).queues = s.queues := rfl
@[simp] theorem State.eraseStrand_ports (s : State) (x : BitVec 64) : (s.eraseStrand x).ports = s.ports := rfl
@[simp] theorem State.eraseStrand_dies (s : State) (x : BitVec 64) : (s.eraseStrand x).dies = s.dies := rfl
@[simp] theorem State.eraseStrand_routers (s : State) (x : BitVec 64) : (s.eraseStrand x).routers = s.routers := rfl
@[simp] theorem State.eraseStrand_sites (s : State) (x : BitVec 64) : (s.eraseStrand x).sites = s.sites := rfl
@[simp] theorem State.eraseStrand_head (s : State) (x : BitVec 64) : (s.eraseStrand x).head = s.head := rfl
@[simp] theorem State.eraseStrand_mem (s : State) (x : BitVec 64) : (s.eraseStrand x).mem = s.mem := rfl
@[simp] theorem State.eraseStrand_sram (s : State) (x : BitVec 64) : (s.eraseStrand x).sram = s.sram := rfl
@[simp] theorem State.eraseStrand_hostMem (s : State) (x : BitVec 64) : (s.eraseStrand x).hostMem = s.hostMem := rfl
@[simp] theorem State.eraseStrand_badLines (s : State) (x : BitVec 64) : (s.eraseStrand x).badLines = s.badLines := rfl
@[simp] theorem State.eraseStrand_msgs (s : State) (x : BitVec 64) : (s.eraseStrand x).msgs = s.msgs := rfl
@[simp] theorem State.eraseStrand_transit (s : State) (x : BitVec 64) : (s.eraseStrand x).transit = s.transit := rfl
@[simp] theorem State.eraseStrand_items (s : State) (x : BitVec 64) : (s.eraseStrand x).items = s.items := rfl
@[simp] theorem State.eraseStrand_acks (s : State) (x : BitVec 64) : (s.eraseStrand x).acks = s.acks := rfl
@[simp] theorem State.eraseStrand_winReads (s : State) (x : BitVec 64) : (s.eraseStrand x).winReads = s.winReads := rfl
@[simp] theorem State.eraseStrand_out (s : State) (x : BitVec 64) : (s.eraseStrand x).out = s.out := rfl
/-! ### putCore -/
@[simp] theorem State.putCore_agenda (s : State) (k : Nat) (x : Core) : (s.putCore k x).agenda = s.agenda := rfl
@[simp] theorem State.putCore_cur (s : State) (k : Nat) (x : Core) : (s.putCore k x).cur = s.cur := rfl
@[simp] theorem State.putCore_fresh (s : State) (k : Nat) (x : Core) : (s.putCore k x).fresh = s.fresh := rfl
@[simp] theorem State.putCore_strands (s : State) (k : Nat) (x : Core) : (s.putCore k x).strands = s.strands := rfl
@[simp] theorem State.putCore_cols (s : State) (k : Nat) (x : Core) : (s.putCore k x).cols = s.cols := rfl
@[simp] theorem State.putCore_quads (s : State) (k : Nat) (x : Core) : (s.putCore k x).quads = s.quads := rfl
@[simp] theorem State.putCore_engines (s : State) (k : Nat) (x : Core) : (s.putCore k x).engines = s.engines := rfl
@[simp] theorem State.putCore_tiles (s : State) (k : Nat) (x : Core) : (s.putCore k x).tiles = s.tiles := rfl
@[simp] theorem State.putCore_jobs (s : State) (k : Nat) (x : Core) : (s.putCore k x).jobs = s.jobs := rfl
@[simp] theorem State.putCore_queues (s : State) (k : Nat) (x : Core) : (s.putCore k x).queues = s.queues := rfl
@[simp] theorem State.putCore_ports (s : State) (k : Nat) (x : Core) : (s.putCore k x).ports = s.ports := rfl
@[simp] theorem State.putCore_dies (s : State) (k : Nat) (x : Core) : (s.putCore k x).dies = s.dies := rfl
@[simp] theorem State.putCore_routers (s : State) (k : Nat) (x : Core) : (s.putCore k x).routers = s.routers := rfl
@[simp] theorem State.putCore_sites (s : State) (k : Nat) (x : Core) : (s.putCore k x).sites = s.sites := rfl
@[simp] theorem State.putCore_head (s : State) (k : Nat) (x : Core) : (s.putCore k x).head = s.head := rfl
@[simp] theorem State.putCore_mem (s : State) (k : Nat) (x : Core) : (s.putCore k x).mem = s.mem := rfl
@[simp] theorem State.putCore_sram (s : State) (k : Nat) (x : Core) : (s.putCore k x).sram = s.sram := rfl
@[simp] theorem State.putCore_hostMem (s : State) (k : Nat) (x : Core) : (s.putCore k x).hostMem = s.hostMem := rfl
@[simp] theorem State.putCore_badLines (s : State) (k : Nat) (x : Core) : (s.putCore k x).badLines = s.badLines := rfl
@[simp] theorem State.putCore_msgs (s : State) (k : Nat) (x : Core) : (s.putCore k x).msgs = s.msgs := rfl
@[simp] theorem State.putCore_transit (s : State) (k : Nat) (x : Core) : (s.putCore k x).transit = s.transit := rfl
@[simp] theorem State.putCore_items (s : State) (k : Nat) (x : Core) : (s.putCore k x).items = s.items := rfl
@[simp] theorem State.putCore_acks (s : State) (k : Nat) (x : Core) : (s.putCore k x).acks = s.acks := rfl
@[simp] theorem State.putCore_winReads (s : State) (k : Nat) (x : Core) : (s.putCore k x).winReads = s.winReads := rfl
@[simp] theorem State.putCore_out (s : State) (k : Nat) (x : Core) : (s.putCore k x).out = s.out := rfl
/-! ### putCol -/
@[simp] theorem State.putCol_agenda (s : State) (k : Nat) (x : Column) : (s.putCol k x).agenda = s.agenda := rfl
@[simp] theorem State.putCol_cur (s : State) (k : Nat) (x : Column) : (s.putCol k x).cur = s.cur := rfl
@[simp] theorem State.putCol_fresh (s : State) (k : Nat) (x : Column) : (s.putCol k x).fresh = s.fresh := rfl
@[simp] theorem State.putCol_strands (s : State) (k : Nat) (x : Column) : (s.putCol k x).strands = s.strands := rfl
@[simp] theorem State.putCol_cores (s : State) (k : Nat) (x : Column) : (s.putCol k x).cores = s.cores := rfl
@[simp] theorem State.putCol_quads (s : State) (k : Nat) (x : Column) : (s.putCol k x).quads = s.quads := rfl
@[simp] theorem State.putCol_engines (s : State) (k : Nat) (x : Column) : (s.putCol k x).engines = s.engines := rfl
@[simp] theorem State.putCol_tiles (s : State) (k : Nat) (x : Column) : (s.putCol k x).tiles = s.tiles := rfl
@[simp] theorem State.putCol_jobs (s : State) (k : Nat) (x : Column) : (s.putCol k x).jobs = s.jobs := rfl
@[simp] theorem State.putCol_queues (s : State) (k : Nat) (x : Column) : (s.putCol k x).queues = s.queues := rfl
@[simp] theorem State.putCol_ports (s : State) (k : Nat) (x : Column) : (s.putCol k x).ports = s.ports := rfl
@[simp] theorem State.putCol_dies (s : State) (k : Nat) (x : Column) : (s.putCol k x).dies = s.dies := rfl
@[simp] theorem State.putCol_routers (s : State) (k : Nat) (x : Column) : (s.putCol k x).routers = s.routers := rfl
@[simp] theorem State.putCol_sites (s : State) (k : Nat) (x : Column) : (s.putCol k x).sites = s.sites := rfl
@[simp] theorem State.putCol_head (s : State) (k : Nat) (x : Column) : (s.putCol k x).head = s.head := rfl
@[simp] theorem State.putCol_mem (s : State) (k : Nat) (x : Column) : (s.putCol k x).mem = s.mem := rfl
@[simp] theorem State.putCol_sram (s : State) (k : Nat) (x : Column) : (s.putCol k x).sram = s.sram := rfl
@[simp] theorem State.putCol_hostMem (s : State) (k : Nat) (x : Column) : (s.putCol k x).hostMem = s.hostMem := rfl
@[simp] theorem State.putCol_badLines (s : State) (k : Nat) (x : Column) : (s.putCol k x).badLines = s.badLines := rfl
@[simp] theorem State.putCol_msgs (s : State) (k : Nat) (x : Column) : (s.putCol k x).msgs = s.msgs := rfl
@[simp] theorem State.putCol_transit (s : State) (k : Nat) (x : Column) : (s.putCol k x).transit = s.transit := rfl
@[simp] theorem State.putCol_items (s : State) (k : Nat) (x : Column) : (s.putCol k x).items = s.items := rfl
@[simp] theorem State.putCol_acks (s : State) (k : Nat) (x : Column) : (s.putCol k x).acks = s.acks := rfl
@[simp] theorem State.putCol_winReads (s : State) (k : Nat) (x : Column) : (s.putCol k x).winReads = s.winReads := rfl
@[simp] theorem State.putCol_out (s : State) (k : Nat) (x : Column) : (s.putCol k x).out = s.out := rfl
/-! ### putQuad -/
@[simp] theorem State.putQuad_agenda (s : State) (k : Nat) (x : Quad) : (s.putQuad k x).agenda = s.agenda := rfl
@[simp] theorem State.putQuad_cur (s : State) (k : Nat) (x : Quad) : (s.putQuad k x).cur = s.cur := rfl
@[simp] theorem State.putQuad_fresh (s : State) (k : Nat) (x : Quad) : (s.putQuad k x).fresh = s.fresh := rfl
@[simp] theorem State.putQuad_strands (s : State) (k : Nat) (x : Quad) : (s.putQuad k x).strands = s.strands := rfl
@[simp] theorem State.putQuad_cores (s : State) (k : Nat) (x : Quad) : (s.putQuad k x).cores = s.cores := rfl
@[simp] theorem State.putQuad_cols (s : State) (k : Nat) (x : Quad) : (s.putQuad k x).cols = s.cols := rfl
@[simp] theorem State.putQuad_engines (s : State) (k : Nat) (x : Quad) : (s.putQuad k x).engines = s.engines := rfl
@[simp] theorem State.putQuad_tiles (s : State) (k : Nat) (x : Quad) : (s.putQuad k x).tiles = s.tiles := rfl
@[simp] theorem State.putQuad_jobs (s : State) (k : Nat) (x : Quad) : (s.putQuad k x).jobs = s.jobs := rfl
@[simp] theorem State.putQuad_queues (s : State) (k : Nat) (x : Quad) : (s.putQuad k x).queues = s.queues := rfl
@[simp] theorem State.putQuad_ports (s : State) (k : Nat) (x : Quad) : (s.putQuad k x).ports = s.ports := rfl
@[simp] theorem State.putQuad_dies (s : State) (k : Nat) (x : Quad) : (s.putQuad k x).dies = s.dies := rfl
@[simp] theorem State.putQuad_routers (s : State) (k : Nat) (x : Quad) : (s.putQuad k x).routers = s.routers := rfl
@[simp] theorem State.putQuad_sites (s : State) (k : Nat) (x : Quad) : (s.putQuad k x).sites = s.sites := rfl
@[simp] theorem State.putQuad_head (s : State) (k : Nat) (x : Quad) : (s.putQuad k x).head = s.head := rfl
@[simp] theorem State.putQuad_mem (s : State) (k : Nat) (x : Quad) : (s.putQuad k x).mem = s.mem := rfl
@[simp] theorem State.putQuad_sram (s : State) (k : Nat) (x : Quad) : (s.putQuad k x).sram = s.sram := rfl
@[simp] theorem State.putQuad_hostMem (s : State) (k : Nat) (x : Quad) : (s.putQuad k x).hostMem = s.hostMem := rfl
@[simp] theorem State.putQuad_badLines (s : State) (k : Nat) (x : Quad) : (s.putQuad k x).badLines = s.badLines := rfl
@[simp] theorem State.putQuad_msgs (s : State) (k : Nat) (x : Quad) : (s.putQuad k x).msgs = s.msgs := rfl
@[simp] theorem State.putQuad_transit (s : State) (k : Nat) (x : Quad) : (s.putQuad k x).transit = s.transit := rfl
@[simp] theorem State.putQuad_items (s : State) (k : Nat) (x : Quad) : (s.putQuad k x).items = s.items := rfl
@[simp] theorem State.putQuad_acks (s : State) (k : Nat) (x : Quad) : (s.putQuad k x).acks = s.acks := rfl
@[simp] theorem State.putQuad_winReads (s : State) (k : Nat) (x : Quad) : (s.putQuad k x).winReads = s.winReads := rfl
@[simp] theorem State.putQuad_out (s : State) (k : Nat) (x : Quad) : (s.putQuad k x).out = s.out := rfl
/-! ### putEngine -/
@[simp] theorem State.putEngine_agenda (s : State) (k : Nat) (x : Engine) : (s.putEngine k x).agenda = s.agenda := rfl
@[simp] theorem State.putEngine_cur (s : State) (k : Nat) (x : Engine) : (s.putEngine k x).cur = s.cur := rfl
@[simp] theorem State.putEngine_fresh (s : State) (k : Nat) (x : Engine) : (s.putEngine k x).fresh = s.fresh := rfl
@[simp] theorem State.putEngine_strands (s : State) (k : Nat) (x : Engine) : (s.putEngine k x).strands = s.strands := rfl
@[simp] theorem State.putEngine_cores (s : State) (k : Nat) (x : Engine) : (s.putEngine k x).cores = s.cores := rfl
@[simp] theorem State.putEngine_cols (s : State) (k : Nat) (x : Engine) : (s.putEngine k x).cols = s.cols := rfl
@[simp] theorem State.putEngine_quads (s : State) (k : Nat) (x : Engine) : (s.putEngine k x).quads = s.quads := rfl
@[simp] theorem State.putEngine_tiles (s : State) (k : Nat) (x : Engine) : (s.putEngine k x).tiles = s.tiles := rfl
@[simp] theorem State.putEngine_jobs (s : State) (k : Nat) (x : Engine) : (s.putEngine k x).jobs = s.jobs := rfl
@[simp] theorem State.putEngine_queues (s : State) (k : Nat) (x : Engine) : (s.putEngine k x).queues = s.queues := rfl
@[simp] theorem State.putEngine_ports (s : State) (k : Nat) (x : Engine) : (s.putEngine k x).ports = s.ports := rfl
@[simp] theorem State.putEngine_dies (s : State) (k : Nat) (x : Engine) : (s.putEngine k x).dies = s.dies := rfl
@[simp] theorem State.putEngine_routers (s : State) (k : Nat) (x : Engine) : (s.putEngine k x).routers = s.routers := rfl
@[simp] theorem State.putEngine_sites (s : State) (k : Nat) (x : Engine) : (s.putEngine k x).sites = s.sites := rfl
@[simp] theorem State.putEngine_head (s : State) (k : Nat) (x : Engine) : (s.putEngine k x).head = s.head := rfl
@[simp] theorem State.putEngine_mem (s : State) (k : Nat) (x : Engine) : (s.putEngine k x).mem = s.mem := rfl
@[simp] theorem State.putEngine_sram (s : State) (k : Nat) (x : Engine) : (s.putEngine k x).sram = s.sram := rfl
@[simp] theorem State.putEngine_hostMem (s : State) (k : Nat) (x : Engine) : (s.putEngine k x).hostMem = s.hostMem := rfl
@[simp] theorem State.putEngine_badLines (s : State) (k : Nat) (x : Engine) : (s.putEngine k x).badLines = s.badLines := rfl
@[simp] theorem State.putEngine_msgs (s : State) (k : Nat) (x : Engine) : (s.putEngine k x).msgs = s.msgs := rfl
@[simp] theorem State.putEngine_transit (s : State) (k : Nat) (x : Engine) : (s.putEngine k x).transit = s.transit := rfl
@[simp] theorem State.putEngine_items (s : State) (k : Nat) (x : Engine) : (s.putEngine k x).items = s.items := rfl
@[simp] theorem State.putEngine_acks (s : State) (k : Nat) (x : Engine) : (s.putEngine k x).acks = s.acks := rfl
@[simp] theorem State.putEngine_winReads (s : State) (k : Nat) (x : Engine) : (s.putEngine k x).winReads = s.winReads := rfl
@[simp] theorem State.putEngine_out (s : State) (k : Nat) (x : Engine) : (s.putEngine k x).out = s.out := rfl
/-! ### putTile -/
@[simp] theorem State.putTile_agenda (s : State) (k : Nat) (x : Tile) : (s.putTile k x).agenda = s.agenda := rfl
@[simp] theorem State.putTile_cur (s : State) (k : Nat) (x : Tile) : (s.putTile k x).cur = s.cur := rfl
@[simp] theorem State.putTile_fresh (s : State) (k : Nat) (x : Tile) : (s.putTile k x).fresh = s.fresh := rfl
@[simp] theorem State.putTile_strands (s : State) (k : Nat) (x : Tile) : (s.putTile k x).strands = s.strands := rfl
@[simp] theorem State.putTile_cores (s : State) (k : Nat) (x : Tile) : (s.putTile k x).cores = s.cores := rfl
@[simp] theorem State.putTile_cols (s : State) (k : Nat) (x : Tile) : (s.putTile k x).cols = s.cols := rfl
@[simp] theorem State.putTile_quads (s : State) (k : Nat) (x : Tile) : (s.putTile k x).quads = s.quads := rfl
@[simp] theorem State.putTile_engines (s : State) (k : Nat) (x : Tile) : (s.putTile k x).engines = s.engines := rfl
@[simp] theorem State.putTile_jobs (s : State) (k : Nat) (x : Tile) : (s.putTile k x).jobs = s.jobs := rfl
@[simp] theorem State.putTile_queues (s : State) (k : Nat) (x : Tile) : (s.putTile k x).queues = s.queues := rfl
@[simp] theorem State.putTile_ports (s : State) (k : Nat) (x : Tile) : (s.putTile k x).ports = s.ports := rfl
@[simp] theorem State.putTile_dies (s : State) (k : Nat) (x : Tile) : (s.putTile k x).dies = s.dies := rfl
@[simp] theorem State.putTile_routers (s : State) (k : Nat) (x : Tile) : (s.putTile k x).routers = s.routers := rfl
@[simp] theorem State.putTile_sites (s : State) (k : Nat) (x : Tile) : (s.putTile k x).sites = s.sites := rfl
@[simp] theorem State.putTile_head (s : State) (k : Nat) (x : Tile) : (s.putTile k x).head = s.head := rfl
@[simp] theorem State.putTile_mem (s : State) (k : Nat) (x : Tile) : (s.putTile k x).mem = s.mem := rfl
@[simp] theorem State.putTile_sram (s : State) (k : Nat) (x : Tile) : (s.putTile k x).sram = s.sram := rfl
@[simp] theorem State.putTile_hostMem (s : State) (k : Nat) (x : Tile) : (s.putTile k x).hostMem = s.hostMem := rfl
@[simp] theorem State.putTile_badLines (s : State) (k : Nat) (x : Tile) : (s.putTile k x).badLines = s.badLines := rfl
@[simp] theorem State.putTile_msgs (s : State) (k : Nat) (x : Tile) : (s.putTile k x).msgs = s.msgs := rfl
@[simp] theorem State.putTile_transit (s : State) (k : Nat) (x : Tile) : (s.putTile k x).transit = s.transit := rfl
@[simp] theorem State.putTile_items (s : State) (k : Nat) (x : Tile) : (s.putTile k x).items = s.items := rfl
@[simp] theorem State.putTile_acks (s : State) (k : Nat) (x : Tile) : (s.putTile k x).acks = s.acks := rfl
@[simp] theorem State.putTile_winReads (s : State) (k : Nat) (x : Tile) : (s.putTile k x).winReads = s.winReads := rfl
@[simp] theorem State.putTile_out (s : State) (k : Nat) (x : Tile) : (s.putTile k x).out = s.out := rfl
/-! ### putJob -/
@[simp] theorem State.putJob_agenda (s : State) (x : Job) : (s.putJob x).agenda = s.agenda := rfl
@[simp] theorem State.putJob_cur (s : State) (x : Job) : (s.putJob x).cur = s.cur := rfl
@[simp] theorem State.putJob_fresh (s : State) (x : Job) : (s.putJob x).fresh = s.fresh := rfl
@[simp] theorem State.putJob_strands (s : State) (x : Job) : (s.putJob x).strands = s.strands := rfl
@[simp] theorem State.putJob_cores (s : State) (x : Job) : (s.putJob x).cores = s.cores := rfl
@[simp] theorem State.putJob_cols (s : State) (x : Job) : (s.putJob x).cols = s.cols := rfl
@[simp] theorem State.putJob_quads (s : State) (x : Job) : (s.putJob x).quads = s.quads := rfl
@[simp] theorem State.putJob_engines (s : State) (x : Job) : (s.putJob x).engines = s.engines := rfl
@[simp] theorem State.putJob_tiles (s : State) (x : Job) : (s.putJob x).tiles = s.tiles := rfl
@[simp] theorem State.putJob_queues (s : State) (x : Job) : (s.putJob x).queues = s.queues := rfl
@[simp] theorem State.putJob_ports (s : State) (x : Job) : (s.putJob x).ports = s.ports := rfl
@[simp] theorem State.putJob_dies (s : State) (x : Job) : (s.putJob x).dies = s.dies := rfl
@[simp] theorem State.putJob_routers (s : State) (x : Job) : (s.putJob x).routers = s.routers := rfl
@[simp] theorem State.putJob_sites (s : State) (x : Job) : (s.putJob x).sites = s.sites := rfl
@[simp] theorem State.putJob_head (s : State) (x : Job) : (s.putJob x).head = s.head := rfl
@[simp] theorem State.putJob_mem (s : State) (x : Job) : (s.putJob x).mem = s.mem := rfl
@[simp] theorem State.putJob_sram (s : State) (x : Job) : (s.putJob x).sram = s.sram := rfl
@[simp] theorem State.putJob_hostMem (s : State) (x : Job) : (s.putJob x).hostMem = s.hostMem := rfl
@[simp] theorem State.putJob_badLines (s : State) (x : Job) : (s.putJob x).badLines = s.badLines := rfl
@[simp] theorem State.putJob_msgs (s : State) (x : Job) : (s.putJob x).msgs = s.msgs := rfl
@[simp] theorem State.putJob_transit (s : State) (x : Job) : (s.putJob x).transit = s.transit := rfl
@[simp] theorem State.putJob_items (s : State) (x : Job) : (s.putJob x).items = s.items := rfl
@[simp] theorem State.putJob_acks (s : State) (x : Job) : (s.putJob x).acks = s.acks := rfl
@[simp] theorem State.putJob_winReads (s : State) (x : Job) : (s.putJob x).winReads = s.winReads := rfl
@[simp] theorem State.putJob_out (s : State) (x : Job) : (s.putJob x).out = s.out := rfl
/-! ### putQueue -/
@[simp] theorem State.putQueue_agenda (s : State) (k : Nat) (x : Queue) : (s.putQueue k x).agenda = s.agenda := rfl
@[simp] theorem State.putQueue_cur (s : State) (k : Nat) (x : Queue) : (s.putQueue k x).cur = s.cur := rfl
@[simp] theorem State.putQueue_fresh (s : State) (k : Nat) (x : Queue) : (s.putQueue k x).fresh = s.fresh := rfl
@[simp] theorem State.putQueue_strands (s : State) (k : Nat) (x : Queue) : (s.putQueue k x).strands = s.strands := rfl
@[simp] theorem State.putQueue_cores (s : State) (k : Nat) (x : Queue) : (s.putQueue k x).cores = s.cores := rfl
@[simp] theorem State.putQueue_cols (s : State) (k : Nat) (x : Queue) : (s.putQueue k x).cols = s.cols := rfl
@[simp] theorem State.putQueue_quads (s : State) (k : Nat) (x : Queue) : (s.putQueue k x).quads = s.quads := rfl
@[simp] theorem State.putQueue_engines (s : State) (k : Nat) (x : Queue) : (s.putQueue k x).engines = s.engines := rfl
@[simp] theorem State.putQueue_tiles (s : State) (k : Nat) (x : Queue) : (s.putQueue k x).tiles = s.tiles := rfl
@[simp] theorem State.putQueue_jobs (s : State) (k : Nat) (x : Queue) : (s.putQueue k x).jobs = s.jobs := rfl
@[simp] theorem State.putQueue_ports (s : State) (k : Nat) (x : Queue) : (s.putQueue k x).ports = s.ports := rfl
@[simp] theorem State.putQueue_dies (s : State) (k : Nat) (x : Queue) : (s.putQueue k x).dies = s.dies := rfl
@[simp] theorem State.putQueue_routers (s : State) (k : Nat) (x : Queue) : (s.putQueue k x).routers = s.routers := rfl
@[simp] theorem State.putQueue_sites (s : State) (k : Nat) (x : Queue) : (s.putQueue k x).sites = s.sites := rfl
@[simp] theorem State.putQueue_head (s : State) (k : Nat) (x : Queue) : (s.putQueue k x).head = s.head := rfl
@[simp] theorem State.putQueue_mem (s : State) (k : Nat) (x : Queue) : (s.putQueue k x).mem = s.mem := rfl
@[simp] theorem State.putQueue_sram (s : State) (k : Nat) (x : Queue) : (s.putQueue k x).sram = s.sram := rfl
@[simp] theorem State.putQueue_hostMem (s : State) (k : Nat) (x : Queue) : (s.putQueue k x).hostMem = s.hostMem := rfl
@[simp] theorem State.putQueue_badLines (s : State) (k : Nat) (x : Queue) : (s.putQueue k x).badLines = s.badLines := rfl
@[simp] theorem State.putQueue_msgs (s : State) (k : Nat) (x : Queue) : (s.putQueue k x).msgs = s.msgs := rfl
@[simp] theorem State.putQueue_transit (s : State) (k : Nat) (x : Queue) : (s.putQueue k x).transit = s.transit := rfl
@[simp] theorem State.putQueue_items (s : State) (k : Nat) (x : Queue) : (s.putQueue k x).items = s.items := rfl
@[simp] theorem State.putQueue_acks (s : State) (k : Nat) (x : Queue) : (s.putQueue k x).acks = s.acks := rfl
@[simp] theorem State.putQueue_winReads (s : State) (k : Nat) (x : Queue) : (s.putQueue k x).winReads = s.winReads := rfl
@[simp] theorem State.putQueue_out (s : State) (k : Nat) (x : Queue) : (s.putQueue k x).out = s.out := rfl
/-! ### putPort -/
@[simp] theorem State.putPort_agenda (s : State) (k : Nat) (x : Port) : (s.putPort k x).agenda = s.agenda := rfl
@[simp] theorem State.putPort_cur (s : State) (k : Nat) (x : Port) : (s.putPort k x).cur = s.cur := rfl
@[simp] theorem State.putPort_fresh (s : State) (k : Nat) (x : Port) : (s.putPort k x).fresh = s.fresh := rfl
@[simp] theorem State.putPort_strands (s : State) (k : Nat) (x : Port) : (s.putPort k x).strands = s.strands := rfl
@[simp] theorem State.putPort_cores (s : State) (k : Nat) (x : Port) : (s.putPort k x).cores = s.cores := rfl
@[simp] theorem State.putPort_cols (s : State) (k : Nat) (x : Port) : (s.putPort k x).cols = s.cols := rfl
@[simp] theorem State.putPort_quads (s : State) (k : Nat) (x : Port) : (s.putPort k x).quads = s.quads := rfl
@[simp] theorem State.putPort_engines (s : State) (k : Nat) (x : Port) : (s.putPort k x).engines = s.engines := rfl
@[simp] theorem State.putPort_tiles (s : State) (k : Nat) (x : Port) : (s.putPort k x).tiles = s.tiles := rfl
@[simp] theorem State.putPort_jobs (s : State) (k : Nat) (x : Port) : (s.putPort k x).jobs = s.jobs := rfl
@[simp] theorem State.putPort_queues (s : State) (k : Nat) (x : Port) : (s.putPort k x).queues = s.queues := rfl
@[simp] theorem State.putPort_dies (s : State) (k : Nat) (x : Port) : (s.putPort k x).dies = s.dies := rfl
@[simp] theorem State.putPort_routers (s : State) (k : Nat) (x : Port) : (s.putPort k x).routers = s.routers := rfl
@[simp] theorem State.putPort_sites (s : State) (k : Nat) (x : Port) : (s.putPort k x).sites = s.sites := rfl
@[simp] theorem State.putPort_head (s : State) (k : Nat) (x : Port) : (s.putPort k x).head = s.head := rfl
@[simp] theorem State.putPort_mem (s : State) (k : Nat) (x : Port) : (s.putPort k x).mem = s.mem := rfl
@[simp] theorem State.putPort_sram (s : State) (k : Nat) (x : Port) : (s.putPort k x).sram = s.sram := rfl
@[simp] theorem State.putPort_hostMem (s : State) (k : Nat) (x : Port) : (s.putPort k x).hostMem = s.hostMem := rfl
@[simp] theorem State.putPort_badLines (s : State) (k : Nat) (x : Port) : (s.putPort k x).badLines = s.badLines := rfl
@[simp] theorem State.putPort_msgs (s : State) (k : Nat) (x : Port) : (s.putPort k x).msgs = s.msgs := rfl
@[simp] theorem State.putPort_transit (s : State) (k : Nat) (x : Port) : (s.putPort k x).transit = s.transit := rfl
@[simp] theorem State.putPort_items (s : State) (k : Nat) (x : Port) : (s.putPort k x).items = s.items := rfl
@[simp] theorem State.putPort_acks (s : State) (k : Nat) (x : Port) : (s.putPort k x).acks = s.acks := rfl
@[simp] theorem State.putPort_winReads (s : State) (k : Nat) (x : Port) : (s.putPort k x).winReads = s.winReads := rfl
@[simp] theorem State.putPort_out (s : State) (k : Nat) (x : Port) : (s.putPort k x).out = s.out := rfl
/-! ### putDie -/
@[simp] theorem State.putDie_agenda (s : State) (k : Nat) (x : Die) : (s.putDie k x).agenda = s.agenda := rfl
@[simp] theorem State.putDie_cur (s : State) (k : Nat) (x : Die) : (s.putDie k x).cur = s.cur := rfl
@[simp] theorem State.putDie_fresh (s : State) (k : Nat) (x : Die) : (s.putDie k x).fresh = s.fresh := rfl
@[simp] theorem State.putDie_strands (s : State) (k : Nat) (x : Die) : (s.putDie k x).strands = s.strands := rfl
@[simp] theorem State.putDie_cores (s : State) (k : Nat) (x : Die) : (s.putDie k x).cores = s.cores := rfl
@[simp] theorem State.putDie_cols (s : State) (k : Nat) (x : Die) : (s.putDie k x).cols = s.cols := rfl
@[simp] theorem State.putDie_quads (s : State) (k : Nat) (x : Die) : (s.putDie k x).quads = s.quads := rfl
@[simp] theorem State.putDie_engines (s : State) (k : Nat) (x : Die) : (s.putDie k x).engines = s.engines := rfl
@[simp] theorem State.putDie_tiles (s : State) (k : Nat) (x : Die) : (s.putDie k x).tiles = s.tiles := rfl
@[simp] theorem State.putDie_jobs (s : State) (k : Nat) (x : Die) : (s.putDie k x).jobs = s.jobs := rfl
@[simp] theorem State.putDie_queues (s : State) (k : Nat) (x : Die) : (s.putDie k x).queues = s.queues := rfl
@[simp] theorem State.putDie_ports (s : State) (k : Nat) (x : Die) : (s.putDie k x).ports = s.ports := rfl
@[simp] theorem State.putDie_routers (s : State) (k : Nat) (x : Die) : (s.putDie k x).routers = s.routers := rfl
@[simp] theorem State.putDie_sites (s : State) (k : Nat) (x : Die) : (s.putDie k x).sites = s.sites := rfl
@[simp] theorem State.putDie_head (s : State) (k : Nat) (x : Die) : (s.putDie k x).head = s.head := rfl
@[simp] theorem State.putDie_mem (s : State) (k : Nat) (x : Die) : (s.putDie k x).mem = s.mem := rfl
@[simp] theorem State.putDie_sram (s : State) (k : Nat) (x : Die) : (s.putDie k x).sram = s.sram := rfl
@[simp] theorem State.putDie_hostMem (s : State) (k : Nat) (x : Die) : (s.putDie k x).hostMem = s.hostMem := rfl
@[simp] theorem State.putDie_badLines (s : State) (k : Nat) (x : Die) : (s.putDie k x).badLines = s.badLines := rfl
@[simp] theorem State.putDie_msgs (s : State) (k : Nat) (x : Die) : (s.putDie k x).msgs = s.msgs := rfl
@[simp] theorem State.putDie_transit (s : State) (k : Nat) (x : Die) : (s.putDie k x).transit = s.transit := rfl
@[simp] theorem State.putDie_items (s : State) (k : Nat) (x : Die) : (s.putDie k x).items = s.items := rfl
@[simp] theorem State.putDie_acks (s : State) (k : Nat) (x : Die) : (s.putDie k x).acks = s.acks := rfl
@[simp] theorem State.putDie_winReads (s : State) (k : Nat) (x : Die) : (s.putDie k x).winReads = s.winReads := rfl
@[simp] theorem State.putDie_out (s : State) (k : Nat) (x : Die) : (s.putDie k x).out = s.out := rfl
/-! ### putRouter -/
@[simp] theorem State.putRouter_agenda (s : State) (k : Nat) (x : Router) : (s.putRouter k x).agenda = s.agenda := rfl
@[simp] theorem State.putRouter_cur (s : State) (k : Nat) (x : Router) : (s.putRouter k x).cur = s.cur := rfl
@[simp] theorem State.putRouter_fresh (s : State) (k : Nat) (x : Router) : (s.putRouter k x).fresh = s.fresh := rfl
@[simp] theorem State.putRouter_strands (s : State) (k : Nat) (x : Router) : (s.putRouter k x).strands = s.strands := rfl
@[simp] theorem State.putRouter_cores (s : State) (k : Nat) (x : Router) : (s.putRouter k x).cores = s.cores := rfl
@[simp] theorem State.putRouter_cols (s : State) (k : Nat) (x : Router) : (s.putRouter k x).cols = s.cols := rfl
@[simp] theorem State.putRouter_quads (s : State) (k : Nat) (x : Router) : (s.putRouter k x).quads = s.quads := rfl
@[simp] theorem State.putRouter_engines (s : State) (k : Nat) (x : Router) : (s.putRouter k x).engines = s.engines := rfl
@[simp] theorem State.putRouter_tiles (s : State) (k : Nat) (x : Router) : (s.putRouter k x).tiles = s.tiles := rfl
@[simp] theorem State.putRouter_jobs (s : State) (k : Nat) (x : Router) : (s.putRouter k x).jobs = s.jobs := rfl
@[simp] theorem State.putRouter_queues (s : State) (k : Nat) (x : Router) : (s.putRouter k x).queues = s.queues := rfl
@[simp] theorem State.putRouter_ports (s : State) (k : Nat) (x : Router) : (s.putRouter k x).ports = s.ports := rfl
@[simp] theorem State.putRouter_dies (s : State) (k : Nat) (x : Router) : (s.putRouter k x).dies = s.dies := rfl
@[simp] theorem State.putRouter_sites (s : State) (k : Nat) (x : Router) : (s.putRouter k x).sites = s.sites := rfl
@[simp] theorem State.putRouter_head (s : State) (k : Nat) (x : Router) : (s.putRouter k x).head = s.head := rfl
@[simp] theorem State.putRouter_mem (s : State) (k : Nat) (x : Router) : (s.putRouter k x).mem = s.mem := rfl
@[simp] theorem State.putRouter_sram (s : State) (k : Nat) (x : Router) : (s.putRouter k x).sram = s.sram := rfl
@[simp] theorem State.putRouter_hostMem (s : State) (k : Nat) (x : Router) : (s.putRouter k x).hostMem = s.hostMem := rfl
@[simp] theorem State.putRouter_badLines (s : State) (k : Nat) (x : Router) : (s.putRouter k x).badLines = s.badLines := rfl
@[simp] theorem State.putRouter_msgs (s : State) (k : Nat) (x : Router) : (s.putRouter k x).msgs = s.msgs := rfl
@[simp] theorem State.putRouter_transit (s : State) (k : Nat) (x : Router) : (s.putRouter k x).transit = s.transit := rfl
@[simp] theorem State.putRouter_items (s : State) (k : Nat) (x : Router) : (s.putRouter k x).items = s.items := rfl
@[simp] theorem State.putRouter_acks (s : State) (k : Nat) (x : Router) : (s.putRouter k x).acks = s.acks := rfl
@[simp] theorem State.putRouter_winReads (s : State) (k : Nat) (x : Router) : (s.putRouter k x).winReads = s.winReads := rfl
@[simp] theorem State.putRouter_out (s : State) (k : Nat) (x : Router) : (s.putRouter k x).out = s.out := rfl
/-! ### putSite -/
@[simp] theorem State.putSite_agenda (s : State) (k : Nat) (x : Site) : (s.putSite k x).agenda = s.agenda := rfl
@[simp] theorem State.putSite_cur (s : State) (k : Nat) (x : Site) : (s.putSite k x).cur = s.cur := rfl
@[simp] theorem State.putSite_fresh (s : State) (k : Nat) (x : Site) : (s.putSite k x).fresh = s.fresh := rfl
@[simp] theorem State.putSite_strands (s : State) (k : Nat) (x : Site) : (s.putSite k x).strands = s.strands := rfl
@[simp] theorem State.putSite_cores (s : State) (k : Nat) (x : Site) : (s.putSite k x).cores = s.cores := rfl
@[simp] theorem State.putSite_cols (s : State) (k : Nat) (x : Site) : (s.putSite k x).cols = s.cols := rfl
@[simp] theorem State.putSite_quads (s : State) (k : Nat) (x : Site) : (s.putSite k x).quads = s.quads := rfl
@[simp] theorem State.putSite_engines (s : State) (k : Nat) (x : Site) : (s.putSite k x).engines = s.engines := rfl
@[simp] theorem State.putSite_tiles (s : State) (k : Nat) (x : Site) : (s.putSite k x).tiles = s.tiles := rfl
@[simp] theorem State.putSite_jobs (s : State) (k : Nat) (x : Site) : (s.putSite k x).jobs = s.jobs := rfl
@[simp] theorem State.putSite_queues (s : State) (k : Nat) (x : Site) : (s.putSite k x).queues = s.queues := rfl
@[simp] theorem State.putSite_ports (s : State) (k : Nat) (x : Site) : (s.putSite k x).ports = s.ports := rfl
@[simp] theorem State.putSite_dies (s : State) (k : Nat) (x : Site) : (s.putSite k x).dies = s.dies := rfl
@[simp] theorem State.putSite_routers (s : State) (k : Nat) (x : Site) : (s.putSite k x).routers = s.routers := rfl
@[simp] theorem State.putSite_head (s : State) (k : Nat) (x : Site) : (s.putSite k x).head = s.head := rfl
@[simp] theorem State.putSite_mem (s : State) (k : Nat) (x : Site) : (s.putSite k x).mem = s.mem := rfl
@[simp] theorem State.putSite_sram (s : State) (k : Nat) (x : Site) : (s.putSite k x).sram = s.sram := rfl
@[simp] theorem State.putSite_hostMem (s : State) (k : Nat) (x : Site) : (s.putSite k x).hostMem = s.hostMem := rfl
@[simp] theorem State.putSite_badLines (s : State) (k : Nat) (x : Site) : (s.putSite k x).badLines = s.badLines := rfl
@[simp] theorem State.putSite_msgs (s : State) (k : Nat) (x : Site) : (s.putSite k x).msgs = s.msgs := rfl
@[simp] theorem State.putSite_transit (s : State) (k : Nat) (x : Site) : (s.putSite k x).transit = s.transit := rfl
@[simp] theorem State.putSite_items (s : State) (k : Nat) (x : Site) : (s.putSite k x).items = s.items := rfl
@[simp] theorem State.putSite_acks (s : State) (k : Nat) (x : Site) : (s.putSite k x).acks = s.acks := rfl
@[simp] theorem State.putSite_winReads (s : State) (k : Nat) (x : Site) : (s.putSite k x).winReads = s.winReads := rfl
@[simp] theorem State.putSite_out (s : State) (k : Nat) (x : Site) : (s.putSite k x).out = s.out := rfl
/-! ### putHedge -/
@[simp] theorem State.putHedge_agenda (s : State) (t h : Nat) (x : Hedge) : (s.putHedge t h x).agenda = s.agenda := rfl
@[simp] theorem State.putHedge_cur (s : State) (t h : Nat) (x : Hedge) : (s.putHedge t h x).cur = s.cur := rfl
@[simp] theorem State.putHedge_fresh (s : State) (t h : Nat) (x : Hedge) : (s.putHedge t h x).fresh = s.fresh := rfl
@[simp] theorem State.putHedge_strands (s : State) (t h : Nat) (x : Hedge) : (s.putHedge t h x).strands = s.strands := rfl
@[simp] theorem State.putHedge_cores (s : State) (t h : Nat) (x : Hedge) : (s.putHedge t h x).cores = s.cores := rfl
@[simp] theorem State.putHedge_cols (s : State) (t h : Nat) (x : Hedge) : (s.putHedge t h x).cols = s.cols := rfl
@[simp] theorem State.putHedge_quads (s : State) (t h : Nat) (x : Hedge) : (s.putHedge t h x).quads = s.quads := rfl
@[simp] theorem State.putHedge_engines (s : State) (t h : Nat) (x : Hedge) : (s.putHedge t h x).engines = s.engines := rfl
@[simp] theorem State.putHedge_jobs (s : State) (t h : Nat) (x : Hedge) : (s.putHedge t h x).jobs = s.jobs := rfl
@[simp] theorem State.putHedge_queues (s : State) (t h : Nat) (x : Hedge) : (s.putHedge t h x).queues = s.queues := rfl
@[simp] theorem State.putHedge_ports (s : State) (t h : Nat) (x : Hedge) : (s.putHedge t h x).ports = s.ports := rfl
@[simp] theorem State.putHedge_dies (s : State) (t h : Nat) (x : Hedge) : (s.putHedge t h x).dies = s.dies := rfl
@[simp] theorem State.putHedge_routers (s : State) (t h : Nat) (x : Hedge) : (s.putHedge t h x).routers = s.routers := rfl
@[simp] theorem State.putHedge_sites (s : State) (t h : Nat) (x : Hedge) : (s.putHedge t h x).sites = s.sites := rfl
@[simp] theorem State.putHedge_head (s : State) (t h : Nat) (x : Hedge) : (s.putHedge t h x).head = s.head := rfl
@[simp] theorem State.putHedge_mem (s : State) (t h : Nat) (x : Hedge) : (s.putHedge t h x).mem = s.mem := rfl
@[simp] theorem State.putHedge_sram (s : State) (t h : Nat) (x : Hedge) : (s.putHedge t h x).sram = s.sram := rfl
@[simp] theorem State.putHedge_hostMem (s : State) (t h : Nat) (x : Hedge) : (s.putHedge t h x).hostMem = s.hostMem := rfl
@[simp] theorem State.putHedge_badLines (s : State) (t h : Nat) (x : Hedge) : (s.putHedge t h x).badLines = s.badLines := rfl
@[simp] theorem State.putHedge_msgs (s : State) (t h : Nat) (x : Hedge) : (s.putHedge t h x).msgs = s.msgs := rfl
@[simp] theorem State.putHedge_transit (s : State) (t h : Nat) (x : Hedge) : (s.putHedge t h x).transit = s.transit := rfl
@[simp] theorem State.putHedge_items (s : State) (t h : Nat) (x : Hedge) : (s.putHedge t h x).items = s.items := rfl
@[simp] theorem State.putHedge_acks (s : State) (t h : Nat) (x : Hedge) : (s.putHedge t h x).acks = s.acks := rfl
@[simp] theorem State.putHedge_winReads (s : State) (t h : Nat) (x : Hedge) : (s.putHedge t h x).winReads = s.winReads := rfl
@[simp] theorem State.putHedge_out (s : State) (t h : Nat) (x : Hedge) : (s.putHedge t h x).out = s.out := rfl
/-! ### reply -/
@[simp] theorem State.reply_agenda (s : State) (r : Reply) : (s.reply r).agenda = s.agenda := rfl
@[simp] theorem State.reply_cur (s : State) (r : Reply) : (s.reply r).cur = s.cur := rfl
@[simp] theorem State.reply_fresh (s : State) (r : Reply) : (s.reply r).fresh = s.fresh := rfl
@[simp] theorem State.reply_strands (s : State) (r : Reply) : (s.reply r).strands = s.strands := rfl
@[simp] theorem State.reply_cores (s : State) (r : Reply) : (s.reply r).cores = s.cores := rfl
@[simp] theorem State.reply_cols (s : State) (r : Reply) : (s.reply r).cols = s.cols := rfl
@[simp] theorem State.reply_quads (s : State) (r : Reply) : (s.reply r).quads = s.quads := rfl
@[simp] theorem State.reply_engines (s : State) (r : Reply) : (s.reply r).engines = s.engines := rfl
@[simp] theorem State.reply_tiles (s : State) (r : Reply) : (s.reply r).tiles = s.tiles := rfl
@[simp] theorem State.reply_jobs (s : State) (r : Reply) : (s.reply r).jobs = s.jobs := rfl
@[simp] theorem State.reply_queues (s : State) (r : Reply) : (s.reply r).queues = s.queues := rfl
@[simp] theorem State.reply_ports (s : State) (r : Reply) : (s.reply r).ports = s.ports := rfl
@[simp] theorem State.reply_dies (s : State) (r : Reply) : (s.reply r).dies = s.dies := rfl
@[simp] theorem State.reply_routers (s : State) (r : Reply) : (s.reply r).routers = s.routers := rfl
@[simp] theorem State.reply_sites (s : State) (r : Reply) : (s.reply r).sites = s.sites := rfl
@[simp] theorem State.reply_head (s : State) (r : Reply) : (s.reply r).head = s.head := rfl
@[simp] theorem State.reply_mem (s : State) (r : Reply) : (s.reply r).mem = s.mem := rfl
@[simp] theorem State.reply_sram (s : State) (r : Reply) : (s.reply r).sram = s.sram := rfl
@[simp] theorem State.reply_hostMem (s : State) (r : Reply) : (s.reply r).hostMem = s.hostMem := rfl
@[simp] theorem State.reply_badLines (s : State) (r : Reply) : (s.reply r).badLines = s.badLines := rfl
@[simp] theorem State.reply_msgs (s : State) (r : Reply) : (s.reply r).msgs = s.msgs := rfl
@[simp] theorem State.reply_transit (s : State) (r : Reply) : (s.reply r).transit = s.transit := rfl
@[simp] theorem State.reply_items (s : State) (r : Reply) : (s.reply r).items = s.items := rfl
@[simp] theorem State.reply_acks (s : State) (r : Reply) : (s.reply r).acks = s.acks := rfl
@[simp] theorem State.reply_winReads (s : State) (r : Reply) : (s.reply r).winReads = s.winReads := rfl
/-! ### bump -/
@[simp] theorem State.bump_agenda (s : State) : (s.bump).agenda = s.agenda := rfl
@[simp] theorem State.bump_cur (s : State) : (s.bump).cur = s.cur := rfl
@[simp] theorem State.bump_strands (s : State) : (s.bump).strands = s.strands := rfl
@[simp] theorem State.bump_cores (s : State) : (s.bump).cores = s.cores := rfl
@[simp] theorem State.bump_cols (s : State) : (s.bump).cols = s.cols := rfl
@[simp] theorem State.bump_quads (s : State) : (s.bump).quads = s.quads := rfl
@[simp] theorem State.bump_engines (s : State) : (s.bump).engines = s.engines := rfl
@[simp] theorem State.bump_tiles (s : State) : (s.bump).tiles = s.tiles := rfl
@[simp] theorem State.bump_jobs (s : State) : (s.bump).jobs = s.jobs := rfl
@[simp] theorem State.bump_queues (s : State) : (s.bump).queues = s.queues := rfl
@[simp] theorem State.bump_ports (s : State) : (s.bump).ports = s.ports := rfl
@[simp] theorem State.bump_dies (s : State) : (s.bump).dies = s.dies := rfl
@[simp] theorem State.bump_routers (s : State) : (s.bump).routers = s.routers := rfl
@[simp] theorem State.bump_sites (s : State) : (s.bump).sites = s.sites := rfl
@[simp] theorem State.bump_head (s : State) : (s.bump).head = s.head := rfl
@[simp] theorem State.bump_mem (s : State) : (s.bump).mem = s.mem := rfl
@[simp] theorem State.bump_sram (s : State) : (s.bump).sram = s.sram := rfl
@[simp] theorem State.bump_hostMem (s : State) : (s.bump).hostMem = s.hostMem := rfl
@[simp] theorem State.bump_badLines (s : State) : (s.bump).badLines = s.badLines := rfl
@[simp] theorem State.bump_msgs (s : State) : (s.bump).msgs = s.msgs := rfl
@[simp] theorem State.bump_transit (s : State) : (s.bump).transit = s.transit := rfl
@[simp] theorem State.bump_items (s : State) : (s.bump).items = s.items := rfl
@[simp] theorem State.bump_acks (s : State) : (s.bump).acks = s.acks := rfl
@[simp] theorem State.bump_winReads (s : State) : (s.bump).winReads = s.winReads := rfl
@[simp] theorem State.bump_out (s : State) : (s.bump).out = s.out := rfl
/-! ### send -/
@[simp] theorem State.send_agenda (s : State) (m : Msg) : (s.send m).agenda = s.agenda := rfl
@[simp] theorem State.send_cur (s : State) (m : Msg) : (s.send m).cur = s.cur := rfl
@[simp] theorem State.send_strands (s : State) (m : Msg) : (s.send m).strands = s.strands := rfl
@[simp] theorem State.send_cores (s : State) (m : Msg) : (s.send m).cores = s.cores := rfl
@[simp] theorem State.send_cols (s : State) (m : Msg) : (s.send m).cols = s.cols := rfl
@[simp] theorem State.send_quads (s : State) (m : Msg) : (s.send m).quads = s.quads := rfl
@[simp] theorem State.send_engines (s : State) (m : Msg) : (s.send m).engines = s.engines := rfl
@[simp] theorem State.send_tiles (s : State) (m : Msg) : (s.send m).tiles = s.tiles := rfl
@[simp] theorem State.send_jobs (s : State) (m : Msg) : (s.send m).jobs = s.jobs := rfl
@[simp] theorem State.send_queues (s : State) (m : Msg) : (s.send m).queues = s.queues := rfl
@[simp] theorem State.send_ports (s : State) (m : Msg) : (s.send m).ports = s.ports := rfl
@[simp] theorem State.send_dies (s : State) (m : Msg) : (s.send m).dies = s.dies := rfl
@[simp] theorem State.send_routers (s : State) (m : Msg) : (s.send m).routers = s.routers := rfl
@[simp] theorem State.send_sites (s : State) (m : Msg) : (s.send m).sites = s.sites := rfl
@[simp] theorem State.send_head (s : State) (m : Msg) : (s.send m).head = s.head := rfl
@[simp] theorem State.send_mem (s : State) (m : Msg) : (s.send m).mem = s.mem := rfl
@[simp] theorem State.send_sram (s : State) (m : Msg) : (s.send m).sram = s.sram := rfl
@[simp] theorem State.send_hostMem (s : State) (m : Msg) : (s.send m).hostMem = s.hostMem := rfl
@[simp] theorem State.send_badLines (s : State) (m : Msg) : (s.send m).badLines = s.badLines := rfl
@[simp] theorem State.send_transit (s : State) (m : Msg) : (s.send m).transit = s.transit := rfl
@[simp] theorem State.send_items (s : State) (m : Msg) : (s.send m).items = s.items := rfl
@[simp] theorem State.send_acks (s : State) (m : Msg) : (s.send m).acks = s.acks := rfl
@[simp] theorem State.send_winReads (s : State) (m : Msg) : (s.send m).winReads = s.winReads := rfl
@[simp] theorem State.send_out (s : State) (m : Msg) : (s.send m).out = s.out := rfl
/-! ### unsend -/
@[simp] theorem State.unsend_agenda (s : State) (k : Nat) : (s.unsend k).agenda = s.agenda := rfl
@[simp] theorem State.unsend_cur (s : State) (k : Nat) : (s.unsend k).cur = s.cur := rfl
@[simp] theorem State.unsend_fresh (s : State) (k : Nat) : (s.unsend k).fresh = s.fresh := rfl
@[simp] theorem State.unsend_strands (s : State) (k : Nat) : (s.unsend k).strands = s.strands := rfl
@[simp] theorem State.unsend_cores (s : State) (k : Nat) : (s.unsend k).cores = s.cores := rfl
@[simp] theorem State.unsend_cols (s : State) (k : Nat) : (s.unsend k).cols = s.cols := rfl
@[simp] theorem State.unsend_quads (s : State) (k : Nat) : (s.unsend k).quads = s.quads := rfl
@[simp] theorem State.unsend_engines (s : State) (k : Nat) : (s.unsend k).engines = s.engines := rfl
@[simp] theorem State.unsend_tiles (s : State) (k : Nat) : (s.unsend k).tiles = s.tiles := rfl
@[simp] theorem State.unsend_jobs (s : State) (k : Nat) : (s.unsend k).jobs = s.jobs := rfl
@[simp] theorem State.unsend_queues (s : State) (k : Nat) : (s.unsend k).queues = s.queues := rfl
@[simp] theorem State.unsend_ports (s : State) (k : Nat) : (s.unsend k).ports = s.ports := rfl
@[simp] theorem State.unsend_dies (s : State) (k : Nat) : (s.unsend k).dies = s.dies := rfl
@[simp] theorem State.unsend_routers (s : State) (k : Nat) : (s.unsend k).routers = s.routers := rfl
@[simp] theorem State.unsend_sites (s : State) (k : Nat) : (s.unsend k).sites = s.sites := rfl
@[simp] theorem State.unsend_head (s : State) (k : Nat) : (s.unsend k).head = s.head := rfl
@[simp] theorem State.unsend_mem (s : State) (k : Nat) : (s.unsend k).mem = s.mem := rfl
@[simp] theorem State.unsend_sram (s : State) (k : Nat) : (s.unsend k).sram = s.sram := rfl
@[simp] theorem State.unsend_hostMem (s : State) (k : Nat) : (s.unsend k).hostMem = s.hostMem := rfl
@[simp] theorem State.unsend_badLines (s : State) (k : Nat) : (s.unsend k).badLines = s.badLines := rfl
@[simp] theorem State.unsend_items (s : State) (k : Nat) : (s.unsend k).items = s.items := rfl
@[simp] theorem State.unsend_acks (s : State) (k : Nat) : (s.unsend k).acks = s.acks := rfl
@[simp] theorem State.unsend_winReads (s : State) (k : Nat) : (s.unsend k).winReads = s.winReads := rfl
@[simp] theorem State.unsend_out (s : State) (k : Nat) : (s.unsend k).out = s.out := rfl
/-! ### addItem -/
@[simp] theorem State.addItem_agenda (s : State) (it : Item) : (s.addItem it).agenda = s.agenda := rfl
@[simp] theorem State.addItem_cur (s : State) (it : Item) : (s.addItem it).cur = s.cur := rfl
@[simp] theorem State.addItem_strands (s : State) (it : Item) : (s.addItem it).strands = s.strands := rfl
@[simp] theorem State.addItem_cores (s : State) (it : Item) : (s.addItem it).cores = s.cores := rfl
@[simp] theorem State.addItem_cols (s : State) (it : Item) : (s.addItem it).cols = s.cols := rfl
@[simp] theorem State.addItem_quads (s : State) (it : Item) : (s.addItem it).quads = s.quads := rfl
@[simp] theorem State.addItem_engines (s : State) (it : Item) : (s.addItem it).engines = s.engines := rfl
@[simp] theorem State.addItem_tiles (s : State) (it : Item) : (s.addItem it).tiles = s.tiles := rfl
@[simp] theorem State.addItem_jobs (s : State) (it : Item) : (s.addItem it).jobs = s.jobs := rfl
@[simp] theorem State.addItem_queues (s : State) (it : Item) : (s.addItem it).queues = s.queues := rfl
@[simp] theorem State.addItem_ports (s : State) (it : Item) : (s.addItem it).ports = s.ports := rfl
@[simp] theorem State.addItem_dies (s : State) (it : Item) : (s.addItem it).dies = s.dies := rfl
@[simp] theorem State.addItem_routers (s : State) (it : Item) : (s.addItem it).routers = s.routers := rfl
@[simp] theorem State.addItem_sites (s : State) (it : Item) : (s.addItem it).sites = s.sites := rfl
@[simp] theorem State.addItem_head (s : State) (it : Item) : (s.addItem it).head = s.head := rfl
@[simp] theorem State.addItem_mem (s : State) (it : Item) : (s.addItem it).mem = s.mem := rfl
@[simp] theorem State.addItem_sram (s : State) (it : Item) : (s.addItem it).sram = s.sram := rfl
@[simp] theorem State.addItem_hostMem (s : State) (it : Item) : (s.addItem it).hostMem = s.hostMem := rfl
@[simp] theorem State.addItem_badLines (s : State) (it : Item) : (s.addItem it).badLines = s.badLines := rfl
@[simp] theorem State.addItem_msgs (s : State) (it : Item) : (s.addItem it).msgs = s.msgs := rfl
@[simp] theorem State.addItem_transit (s : State) (it : Item) : (s.addItem it).transit = s.transit := rfl
@[simp] theorem State.addItem_acks (s : State) (it : Item) : (s.addItem it).acks = s.acks := rfl
@[simp] theorem State.addItem_winReads (s : State) (it : Item) : (s.addItem it).winReads = s.winReads := rfl
@[simp] theorem State.addItem_out (s : State) (it : Item) : (s.addItem it).out = s.out := rfl
/-! ### itemDone -/
@[simp] theorem State.itemDone_agenda (s : State) (k : Nat) : (s.itemDone k).agenda = s.agenda := rfl
@[simp] theorem State.itemDone_cur (s : State) (k : Nat) : (s.itemDone k).cur = s.cur := rfl
@[simp] theorem State.itemDone_fresh (s : State) (k : Nat) : (s.itemDone k).fresh = s.fresh := rfl
@[simp] theorem State.itemDone_strands (s : State) (k : Nat) : (s.itemDone k).strands = s.strands := rfl
@[simp] theorem State.itemDone_cores (s : State) (k : Nat) : (s.itemDone k).cores = s.cores := rfl
@[simp] theorem State.itemDone_cols (s : State) (k : Nat) : (s.itemDone k).cols = s.cols := rfl
@[simp] theorem State.itemDone_quads (s : State) (k : Nat) : (s.itemDone k).quads = s.quads := rfl
@[simp] theorem State.itemDone_engines (s : State) (k : Nat) : (s.itemDone k).engines = s.engines := rfl
@[simp] theorem State.itemDone_tiles (s : State) (k : Nat) : (s.itemDone k).tiles = s.tiles := rfl
@[simp] theorem State.itemDone_jobs (s : State) (k : Nat) : (s.itemDone k).jobs = s.jobs := rfl
@[simp] theorem State.itemDone_queues (s : State) (k : Nat) : (s.itemDone k).queues = s.queues := rfl
@[simp] theorem State.itemDone_ports (s : State) (k : Nat) : (s.itemDone k).ports = s.ports := rfl
@[simp] theorem State.itemDone_dies (s : State) (k : Nat) : (s.itemDone k).dies = s.dies := rfl
@[simp] theorem State.itemDone_routers (s : State) (k : Nat) : (s.itemDone k).routers = s.routers := rfl
@[simp] theorem State.itemDone_sites (s : State) (k : Nat) : (s.itemDone k).sites = s.sites := rfl
@[simp] theorem State.itemDone_head (s : State) (k : Nat) : (s.itemDone k).head = s.head := rfl
@[simp] theorem State.itemDone_mem (s : State) (k : Nat) : (s.itemDone k).mem = s.mem := rfl
@[simp] theorem State.itemDone_sram (s : State) (k : Nat) : (s.itemDone k).sram = s.sram := rfl
@[simp] theorem State.itemDone_hostMem (s : State) (k : Nat) : (s.itemDone k).hostMem = s.hostMem := rfl
@[simp] theorem State.itemDone_badLines (s : State) (k : Nat) : (s.itemDone k).badLines = s.badLines := rfl
@[simp] theorem State.itemDone_msgs (s : State) (k : Nat) : (s.itemDone k).msgs = s.msgs := rfl
@[simp] theorem State.itemDone_transit (s : State) (k : Nat) : (s.itemDone k).transit = s.transit := rfl
@[simp] theorem State.itemDone_acks (s : State) (k : Nat) : (s.itemDone k).acks = s.acks := rfl
@[simp] theorem State.itemDone_winReads (s : State) (k : Nat) : (s.itemDone k).winReads = s.winReads := rfl
@[simp] theorem State.itemDone_out (s : State) (k : Nat) : (s.itemDone k).out = s.out := rfl
/-! ### dropLines -/
@[simp] theorem State.dropLines_agenda (s : State) (k : Nat) : (s.dropLines k).agenda = s.agenda := rfl
@[simp] theorem State.dropLines_cur (s : State) (k : Nat) : (s.dropLines k).cur = s.cur := rfl
@[simp] theorem State.dropLines_fresh (s : State) (k : Nat) : (s.dropLines k).fresh = s.fresh := rfl
@[simp] theorem State.dropLines_strands (s : State) (k : Nat) : (s.dropLines k).strands = s.strands := rfl
@[simp] theorem State.dropLines_cols (s : State) (k : Nat) : (s.dropLines k).cols = s.cols := rfl
@[simp] theorem State.dropLines_quads (s : State) (k : Nat) : (s.dropLines k).quads = s.quads := rfl
@[simp] theorem State.dropLines_engines (s : State) (k : Nat) : (s.dropLines k).engines = s.engines := rfl
@[simp] theorem State.dropLines_tiles (s : State) (k : Nat) : (s.dropLines k).tiles = s.tiles := rfl
@[simp] theorem State.dropLines_jobs (s : State) (k : Nat) : (s.dropLines k).jobs = s.jobs := rfl
@[simp] theorem State.dropLines_queues (s : State) (k : Nat) : (s.dropLines k).queues = s.queues := rfl
@[simp] theorem State.dropLines_ports (s : State) (k : Nat) : (s.dropLines k).ports = s.ports := rfl
@[simp] theorem State.dropLines_dies (s : State) (k : Nat) : (s.dropLines k).dies = s.dies := rfl
@[simp] theorem State.dropLines_routers (s : State) (k : Nat) : (s.dropLines k).routers = s.routers := rfl
@[simp] theorem State.dropLines_sites (s : State) (k : Nat) : (s.dropLines k).sites = s.sites := rfl
@[simp] theorem State.dropLines_head (s : State) (k : Nat) : (s.dropLines k).head = s.head := rfl
@[simp] theorem State.dropLines_mem (s : State) (k : Nat) : (s.dropLines k).mem = s.mem := rfl
@[simp] theorem State.dropLines_sram (s : State) (k : Nat) : (s.dropLines k).sram = s.sram := rfl
@[simp] theorem State.dropLines_hostMem (s : State) (k : Nat) : (s.dropLines k).hostMem = s.hostMem := rfl
@[simp] theorem State.dropLines_badLines (s : State) (k : Nat) : (s.dropLines k).badLines = s.badLines := rfl
@[simp] theorem State.dropLines_msgs (s : State) (k : Nat) : (s.dropLines k).msgs = s.msgs := rfl
@[simp] theorem State.dropLines_transit (s : State) (k : Nat) : (s.dropLines k).transit = s.transit := rfl
@[simp] theorem State.dropLines_items (s : State) (k : Nat) : (s.dropLines k).items = s.items := rfl
@[simp] theorem State.dropLines_acks (s : State) (k : Nat) : (s.dropLines k).acks = s.acks := rfl
@[simp] theorem State.dropLines_winReads (s : State) (k : Nat) : (s.dropLines k).winReads = s.winReads := rfl
@[simp] theorem State.dropLines_out (s : State) (k : Nat) : (s.dropLines k).out = s.out := rfl
/-! ### dropRake -/
@[simp] theorem State.dropRake_agenda (s : State) (k : Nat) : (s.dropRake k).agenda = s.agenda := rfl
@[simp] theorem State.dropRake_cur (s : State) (k : Nat) : (s.dropRake k).cur = s.cur := rfl
@[simp] theorem State.dropRake_fresh (s : State) (k : Nat) : (s.dropRake k).fresh = s.fresh := rfl
@[simp] theorem State.dropRake_strands (s : State) (k : Nat) : (s.dropRake k).strands = s.strands := rfl
@[simp] theorem State.dropRake_cores (s : State) (k : Nat) : (s.dropRake k).cores = s.cores := rfl
@[simp] theorem State.dropRake_quads (s : State) (k : Nat) : (s.dropRake k).quads = s.quads := rfl
@[simp] theorem State.dropRake_engines (s : State) (k : Nat) : (s.dropRake k).engines = s.engines := rfl
@[simp] theorem State.dropRake_tiles (s : State) (k : Nat) : (s.dropRake k).tiles = s.tiles := rfl
@[simp] theorem State.dropRake_jobs (s : State) (k : Nat) : (s.dropRake k).jobs = s.jobs := rfl
@[simp] theorem State.dropRake_queues (s : State) (k : Nat) : (s.dropRake k).queues = s.queues := rfl
@[simp] theorem State.dropRake_ports (s : State) (k : Nat) : (s.dropRake k).ports = s.ports := rfl
@[simp] theorem State.dropRake_dies (s : State) (k : Nat) : (s.dropRake k).dies = s.dies := rfl
@[simp] theorem State.dropRake_routers (s : State) (k : Nat) : (s.dropRake k).routers = s.routers := rfl
@[simp] theorem State.dropRake_sites (s : State) (k : Nat) : (s.dropRake k).sites = s.sites := rfl
@[simp] theorem State.dropRake_head (s : State) (k : Nat) : (s.dropRake k).head = s.head := rfl
@[simp] theorem State.dropRake_mem (s : State) (k : Nat) : (s.dropRake k).mem = s.mem := rfl
@[simp] theorem State.dropRake_sram (s : State) (k : Nat) : (s.dropRake k).sram = s.sram := rfl
@[simp] theorem State.dropRake_hostMem (s : State) (k : Nat) : (s.dropRake k).hostMem = s.hostMem := rfl
@[simp] theorem State.dropRake_badLines (s : State) (k : Nat) : (s.dropRake k).badLines = s.badLines := rfl
@[simp] theorem State.dropRake_msgs (s : State) (k : Nat) : (s.dropRake k).msgs = s.msgs := rfl
@[simp] theorem State.dropRake_transit (s : State) (k : Nat) : (s.dropRake k).transit = s.transit := rfl
@[simp] theorem State.dropRake_items (s : State) (k : Nat) : (s.dropRake k).items = s.items := rfl
@[simp] theorem State.dropRake_acks (s : State) (k : Nat) : (s.dropRake k).acks = s.acks := rfl
@[simp] theorem State.dropRake_winReads (s : State) (k : Nat) : (s.dropRake k).winReads = s.winReads := rfl
@[simp] theorem State.dropRake_out (s : State) (k : Nat) : (s.dropRake k).out = s.out := rfl
/-! ### takeSid -/
@[simp] theorem State.takeSid_agenda (s : State) (k : Nat) : (s.takeSid k).agenda = s.agenda := rfl
@[simp] theorem State.takeSid_cur (s : State) (k : Nat) : (s.takeSid k).cur = s.cur := rfl
@[simp] theorem State.takeSid_fresh (s : State) (k : Nat) : (s.takeSid k).fresh = s.fresh := rfl
@[simp] theorem State.takeSid_strands (s : State) (k : Nat) : (s.takeSid k).strands = s.strands := rfl
@[simp] theorem State.takeSid_cores (s : State) (k : Nat) : (s.takeSid k).cores = s.cores := rfl
@[simp] theorem State.takeSid_quads (s : State) (k : Nat) : (s.takeSid k).quads = s.quads := rfl
@[simp] theorem State.takeSid_engines (s : State) (k : Nat) : (s.takeSid k).engines = s.engines := rfl
@[simp] theorem State.takeSid_tiles (s : State) (k : Nat) : (s.takeSid k).tiles = s.tiles := rfl
@[simp] theorem State.takeSid_jobs (s : State) (k : Nat) : (s.takeSid k).jobs = s.jobs := rfl
@[simp] theorem State.takeSid_queues (s : State) (k : Nat) : (s.takeSid k).queues = s.queues := rfl
@[simp] theorem State.takeSid_ports (s : State) (k : Nat) : (s.takeSid k).ports = s.ports := rfl
@[simp] theorem State.takeSid_dies (s : State) (k : Nat) : (s.takeSid k).dies = s.dies := rfl
@[simp] theorem State.takeSid_routers (s : State) (k : Nat) : (s.takeSid k).routers = s.routers := rfl
@[simp] theorem State.takeSid_sites (s : State) (k : Nat) : (s.takeSid k).sites = s.sites := rfl
@[simp] theorem State.takeSid_head (s : State) (k : Nat) : (s.takeSid k).head = s.head := rfl
@[simp] theorem State.takeSid_mem (s : State) (k : Nat) : (s.takeSid k).mem = s.mem := rfl
@[simp] theorem State.takeSid_sram (s : State) (k : Nat) : (s.takeSid k).sram = s.sram := rfl
@[simp] theorem State.takeSid_hostMem (s : State) (k : Nat) : (s.takeSid k).hostMem = s.hostMem := rfl
@[simp] theorem State.takeSid_badLines (s : State) (k : Nat) : (s.takeSid k).badLines = s.badLines := rfl
@[simp] theorem State.takeSid_msgs (s : State) (k : Nat) : (s.takeSid k).msgs = s.msgs := rfl
@[simp] theorem State.takeSid_transit (s : State) (k : Nat) : (s.takeSid k).transit = s.transit := rfl
@[simp] theorem State.takeSid_items (s : State) (k : Nat) : (s.takeSid k).items = s.items := rfl
@[simp] theorem State.takeSid_acks (s : State) (k : Nat) : (s.takeSid k).acks = s.acks := rfl
@[simp] theorem State.takeSid_winReads (s : State) (k : Nat) : (s.takeSid k).winReads = s.winReads := rfl
@[simp] theorem State.takeSid_out (s : State) (k : Nat) : (s.takeSid k).out = s.out := rfl
/-! ### countStrand -/
@[simp] theorem State.countStrand_agenda (s : State) (k j c e : Nat) : (s.countStrand k j c e).agenda = s.agenda := rfl
@[simp] theorem State.countStrand_cur (s : State) (k j c e : Nat) : (s.countStrand k j c e).cur = s.cur := rfl
@[simp] theorem State.countStrand_fresh (s : State) (k j c e : Nat) : (s.countStrand k j c e).fresh = s.fresh := rfl
@[simp] theorem State.countStrand_strands (s : State) (k j c e : Nat) : (s.countStrand k j c e).strands = s.strands := rfl
@[simp] theorem State.countStrand_cores (s : State) (k j c e : Nat) : (s.countStrand k j c e).cores = s.cores := rfl
@[simp] theorem State.countStrand_quads (s : State) (k j c e : Nat) : (s.countStrand k j c e).quads = s.quads := rfl
@[simp] theorem State.countStrand_engines (s : State) (k j c e : Nat) : (s.countStrand k j c e).engines = s.engines := rfl
@[simp] theorem State.countStrand_tiles (s : State) (k j c e : Nat) : (s.countStrand k j c e).tiles = s.tiles := rfl
@[simp] theorem State.countStrand_jobs (s : State) (k j c e : Nat) : (s.countStrand k j c e).jobs = s.jobs := rfl
@[simp] theorem State.countStrand_queues (s : State) (k j c e : Nat) : (s.countStrand k j c e).queues = s.queues := rfl
@[simp] theorem State.countStrand_ports (s : State) (k j c e : Nat) : (s.countStrand k j c e).ports = s.ports := rfl
@[simp] theorem State.countStrand_dies (s : State) (k j c e : Nat) : (s.countStrand k j c e).dies = s.dies := rfl
@[simp] theorem State.countStrand_routers (s : State) (k j c e : Nat) : (s.countStrand k j c e).routers = s.routers := rfl
@[simp] theorem State.countStrand_sites (s : State) (k j c e : Nat) : (s.countStrand k j c e).sites = s.sites := rfl
@[simp] theorem State.countStrand_head (s : State) (k j c e : Nat) : (s.countStrand k j c e).head = s.head := rfl
@[simp] theorem State.countStrand_mem (s : State) (k j c e : Nat) : (s.countStrand k j c e).mem = s.mem := rfl
@[simp] theorem State.countStrand_sram (s : State) (k j c e : Nat) : (s.countStrand k j c e).sram = s.sram := rfl
@[simp] theorem State.countStrand_hostMem (s : State) (k j c e : Nat) : (s.countStrand k j c e).hostMem = s.hostMem := rfl
@[simp] theorem State.countStrand_badLines (s : State) (k j c e : Nat) : (s.countStrand k j c e).badLines = s.badLines := rfl
@[simp] theorem State.countStrand_msgs (s : State) (k j c e : Nat) : (s.countStrand k j c e).msgs = s.msgs := rfl
@[simp] theorem State.countStrand_transit (s : State) (k j c e : Nat) : (s.countStrand k j c e).transit = s.transit := rfl
@[simp] theorem State.countStrand_items (s : State) (k j c e : Nat) : (s.countStrand k j c e).items = s.items := rfl
@[simp] theorem State.countStrand_acks (s : State) (k j c e : Nat) : (s.countStrand k j c e).acks = s.acks := rfl
@[simp] theorem State.countStrand_winReads (s : State) (k j c e : Nat) : (s.countStrand k j c e).winReads = s.winReads := rfl
@[simp] theorem State.countStrand_out (s : State) (k j c e : Nat) : (s.countStrand k j c e).out = s.out := rfl
/-! ### enqueue -/
@[simp] theorem State.enqueue_agenda (s : State) (k : Nat) (h : BitVec 64) : (s.enqueue k h).agenda = s.agenda := rfl
@[simp] theorem State.enqueue_cur (s : State) (k : Nat) (h : BitVec 64) : (s.enqueue k h).cur = s.cur := rfl
@[simp] theorem State.enqueue_fresh (s : State) (k : Nat) (h : BitVec 64) : (s.enqueue k h).fresh = s.fresh := rfl
@[simp] theorem State.enqueue_strands (s : State) (k : Nat) (h : BitVec 64) : (s.enqueue k h).strands = s.strands := rfl
@[simp] theorem State.enqueue_cols (s : State) (k : Nat) (h : BitVec 64) : (s.enqueue k h).cols = s.cols := rfl
@[simp] theorem State.enqueue_quads (s : State) (k : Nat) (h : BitVec 64) : (s.enqueue k h).quads = s.quads := rfl
@[simp] theorem State.enqueue_engines (s : State) (k : Nat) (h : BitVec 64) : (s.enqueue k h).engines = s.engines := rfl
@[simp] theorem State.enqueue_tiles (s : State) (k : Nat) (h : BitVec 64) : (s.enqueue k h).tiles = s.tiles := rfl
@[simp] theorem State.enqueue_jobs (s : State) (k : Nat) (h : BitVec 64) : (s.enqueue k h).jobs = s.jobs := rfl
@[simp] theorem State.enqueue_queues (s : State) (k : Nat) (h : BitVec 64) : (s.enqueue k h).queues = s.queues := rfl
@[simp] theorem State.enqueue_ports (s : State) (k : Nat) (h : BitVec 64) : (s.enqueue k h).ports = s.ports := rfl
@[simp] theorem State.enqueue_dies (s : State) (k : Nat) (h : BitVec 64) : (s.enqueue k h).dies = s.dies := rfl
@[simp] theorem State.enqueue_routers (s : State) (k : Nat) (h : BitVec 64) : (s.enqueue k h).routers = s.routers := rfl
@[simp] theorem State.enqueue_sites (s : State) (k : Nat) (h : BitVec 64) : (s.enqueue k h).sites = s.sites := rfl
@[simp] theorem State.enqueue_head (s : State) (k : Nat) (h : BitVec 64) : (s.enqueue k h).head = s.head := rfl
@[simp] theorem State.enqueue_mem (s : State) (k : Nat) (h : BitVec 64) : (s.enqueue k h).mem = s.mem := rfl
@[simp] theorem State.enqueue_sram (s : State) (k : Nat) (h : BitVec 64) : (s.enqueue k h).sram = s.sram := rfl
@[simp] theorem State.enqueue_hostMem (s : State) (k : Nat) (h : BitVec 64) : (s.enqueue k h).hostMem = s.hostMem := rfl
@[simp] theorem State.enqueue_badLines (s : State) (k : Nat) (h : BitVec 64) : (s.enqueue k h).badLines = s.badLines := rfl
@[simp] theorem State.enqueue_msgs (s : State) (k : Nat) (h : BitVec 64) : (s.enqueue k h).msgs = s.msgs := rfl
@[simp] theorem State.enqueue_transit (s : State) (k : Nat) (h : BitVec 64) : (s.enqueue k h).transit = s.transit := rfl
@[simp] theorem State.enqueue_items (s : State) (k : Nat) (h : BitVec 64) : (s.enqueue k h).items = s.items := rfl
@[simp] theorem State.enqueue_acks (s : State) (k : Nat) (h : BitVec 64) : (s.enqueue k h).acks = s.acks := rfl
@[simp] theorem State.enqueue_winReads (s : State) (k : Nat) (h : BitVec 64) : (s.enqueue k h).winReads = s.winReads := rfl
@[simp] theorem State.enqueue_out (s : State) (k : Nat) (h : BitVec 64) : (s.enqueue k h).out = s.out := rfl
/-! ### enqueueUrgent -/
@[simp] theorem State.enqueueUrgent_agenda (s : State) (k : Nat) (h : BitVec 64) : (s.enqueueUrgent k h).agenda = s.agenda := rfl
@[simp] theorem State.enqueueUrgent_cur (s : State) (k : Nat) (h : BitVec 64) : (s.enqueueUrgent k h).cur = s.cur := rfl
@[simp] theorem State.enqueueUrgent_fresh (s : State) (k : Nat) (h : BitVec 64) : (s.enqueueUrgent k h).fresh = s.fresh := rfl
@[simp] theorem State.enqueueUrgent_strands (s : State) (k : Nat) (h : BitVec 64) : (s.enqueueUrgent k h).strands = s.strands := rfl
@[simp] theorem State.enqueueUrgent_cols (s : State) (k : Nat) (h : BitVec 64) : (s.enqueueUrgent k h).cols = s.cols := rfl
@[simp] theorem State.enqueueUrgent_quads (s : State) (k : Nat) (h : BitVec 64) : (s.enqueueUrgent k h).quads = s.quads := rfl
@[simp] theorem State.enqueueUrgent_engines (s : State) (k : Nat) (h : BitVec 64) : (s.enqueueUrgent k h).engines = s.engines := rfl
@[simp] theorem State.enqueueUrgent_tiles (s : State) (k : Nat) (h : BitVec 64) : (s.enqueueUrgent k h).tiles = s.tiles := rfl
@[simp] theorem State.enqueueUrgent_jobs (s : State) (k : Nat) (h : BitVec 64) : (s.enqueueUrgent k h).jobs = s.jobs := rfl
@[simp] theorem State.enqueueUrgent_queues (s : State) (k : Nat) (h : BitVec 64) : (s.enqueueUrgent k h).queues = s.queues := rfl
@[simp] theorem State.enqueueUrgent_ports (s : State) (k : Nat) (h : BitVec 64) : (s.enqueueUrgent k h).ports = s.ports := rfl
@[simp] theorem State.enqueueUrgent_dies (s : State) (k : Nat) (h : BitVec 64) : (s.enqueueUrgent k h).dies = s.dies := rfl
@[simp] theorem State.enqueueUrgent_routers (s : State) (k : Nat) (h : BitVec 64) : (s.enqueueUrgent k h).routers = s.routers := rfl
@[simp] theorem State.enqueueUrgent_sites (s : State) (k : Nat) (h : BitVec 64) : (s.enqueueUrgent k h).sites = s.sites := rfl
@[simp] theorem State.enqueueUrgent_head (s : State) (k : Nat) (h : BitVec 64) : (s.enqueueUrgent k h).head = s.head := rfl
@[simp] theorem State.enqueueUrgent_mem (s : State) (k : Nat) (h : BitVec 64) : (s.enqueueUrgent k h).mem = s.mem := rfl
@[simp] theorem State.enqueueUrgent_sram (s : State) (k : Nat) (h : BitVec 64) : (s.enqueueUrgent k h).sram = s.sram := rfl
@[simp] theorem State.enqueueUrgent_hostMem (s : State) (k : Nat) (h : BitVec 64) : (s.enqueueUrgent k h).hostMem = s.hostMem := rfl
@[simp] theorem State.enqueueUrgent_badLines (s : State) (k : Nat) (h : BitVec 64) : (s.enqueueUrgent k h).badLines = s.badLines := rfl
@[simp] theorem State.enqueueUrgent_msgs (s : State) (k : Nat) (h : BitVec 64) : (s.enqueueUrgent k h).msgs = s.msgs := rfl
@[simp] theorem State.enqueueUrgent_transit (s : State) (k : Nat) (h : BitVec 64) : (s.enqueueUrgent k h).transit = s.transit := rfl
@[simp] theorem State.enqueueUrgent_items (s : State) (k : Nat) (h : BitVec 64) : (s.enqueueUrgent k h).items = s.items := rfl
@[simp] theorem State.enqueueUrgent_acks (s : State) (k : Nat) (h : BitVec 64) : (s.enqueueUrgent k h).acks = s.acks := rfl
@[simp] theorem State.enqueueUrgent_winReads (s : State) (k : Nat) (h : BitVec 64) : (s.enqueueUrgent k h).winReads = s.winReads := rfl
@[simp] theorem State.enqueueUrgent_out (s : State) (k : Nat) (h : BitVec 64) : (s.enqueueUrgent k h).out = s.out := rfl
/-! ### park -/
@[simp] theorem State.park_agenda (s : State) (st : Strand) (c r : Nat) : (s.park st c r).agenda = s.agenda := rfl
@[simp] theorem State.park_cur (s : State) (st : Strand) (c r : Nat) : (s.park st c r).cur = s.cur := rfl
@[simp] theorem State.park_fresh (s : State) (st : Strand) (c r : Nat) : (s.park st c r).fresh = s.fresh := rfl
@[simp] theorem State.park_cores (s : State) (st : Strand) (c r : Nat) : (s.park st c r).cores = s.cores := rfl
@[simp] theorem State.park_cols (s : State) (st : Strand) (c r : Nat) : (s.park st c r).cols = s.cols := rfl
@[simp] theorem State.park_quads (s : State) (st : Strand) (c r : Nat) : (s.park st c r).quads = s.quads := rfl
@[simp] theorem State.park_engines (s : State) (st : Strand) (c r : Nat) : (s.park st c r).engines = s.engines := rfl
@[simp] theorem State.park_tiles (s : State) (st : Strand) (c r : Nat) : (s.park st c r).tiles = s.tiles := rfl
@[simp] theorem State.park_jobs (s : State) (st : Strand) (c r : Nat) : (s.park st c r).jobs = s.jobs := rfl
@[simp] theorem State.park_queues (s : State) (st : Strand) (c r : Nat) : (s.park st c r).queues = s.queues := rfl
@[simp] theorem State.park_ports (s : State) (st : Strand) (c r : Nat) : (s.park st c r).ports = s.ports := rfl
@[simp] theorem State.park_dies (s : State) (st : Strand) (c r : Nat) : (s.park st c r).dies = s.dies := rfl
@[simp] theorem State.park_routers (s : State) (st : Strand) (c r : Nat) : (s.park st c r).routers = s.routers := rfl
@[simp] theorem State.park_sites (s : State) (st : Strand) (c r : Nat) : (s.park st c r).sites = s.sites := rfl
@[simp] theorem State.park_head (s : State) (st : Strand) (c r : Nat) : (s.park st c r).head = s.head := rfl
@[simp] theorem State.park_mem (s : State) (st : Strand) (c r : Nat) : (s.park st c r).mem = s.mem := rfl
@[simp] theorem State.park_sram (s : State) (st : Strand) (c r : Nat) : (s.park st c r).sram = s.sram := rfl
@[simp] theorem State.park_hostMem (s : State) (st : Strand) (c r : Nat) : (s.park st c r).hostMem = s.hostMem := rfl
@[simp] theorem State.park_badLines (s : State) (st : Strand) (c r : Nat) : (s.park st c r).badLines = s.badLines := rfl
@[simp] theorem State.park_msgs (s : State) (st : Strand) (c r : Nat) : (s.park st c r).msgs = s.msgs := rfl
@[simp] theorem State.park_transit (s : State) (st : Strand) (c r : Nat) : (s.park st c r).transit = s.transit := rfl
@[simp] theorem State.park_items (s : State) (st : Strand) (c r : Nat) : (s.park st c r).items = s.items := rfl
@[simp] theorem State.park_acks (s : State) (st : Strand) (c r : Nat) : (s.park st c r).acks = s.acks := rfl
@[simp] theorem State.park_winReads (s : State) (st : Strand) (c r : Nat) : (s.park st c r).winReads = s.winReads := rfl
@[simp] theorem State.park_out (s : State) (st : Strand) (c r : Nat) : (s.park st c r).out = s.out := rfl
/-! ### waitBed -/
@[simp] theorem State.waitBed_agenda (s : State) (st : Strand) (va : Word) : (s.waitBed st va).agenda = s.agenda := rfl
@[simp] theorem State.waitBed_cur (s : State) (st : Strand) (va : Word) : (s.waitBed st va).cur = s.cur := rfl
@[simp] theorem State.waitBed_fresh (s : State) (st : Strand) (va : Word) : (s.waitBed st va).fresh = s.fresh := rfl
@[simp] theorem State.waitBed_cores (s : State) (st : Strand) (va : Word) : (s.waitBed st va).cores = s.cores := rfl
@[simp] theorem State.waitBed_cols (s : State) (st : Strand) (va : Word) : (s.waitBed st va).cols = s.cols := rfl
@[simp] theorem State.waitBed_quads (s : State) (st : Strand) (va : Word) : (s.waitBed st va).quads = s.quads := rfl
@[simp] theorem State.waitBed_engines (s : State) (st : Strand) (va : Word) : (s.waitBed st va).engines = s.engines := rfl
@[simp] theorem State.waitBed_tiles (s : State) (st : Strand) (va : Word) : (s.waitBed st va).tiles = s.tiles := rfl
@[simp] theorem State.waitBed_jobs (s : State) (st : Strand) (va : Word) : (s.waitBed st va).jobs = s.jobs := rfl
@[simp] theorem State.waitBed_queues (s : State) (st : Strand) (va : Word) : (s.waitBed st va).queues = s.queues := rfl
@[simp] theorem State.waitBed_ports (s : State) (st : Strand) (va : Word) : (s.waitBed st va).ports = s.ports := rfl
@[simp] theorem State.waitBed_dies (s : State) (st : Strand) (va : Word) : (s.waitBed st va).dies = s.dies := rfl
@[simp] theorem State.waitBed_routers (s : State) (st : Strand) (va : Word) : (s.waitBed st va).routers = s.routers := rfl
@[simp] theorem State.waitBed_sites (s : State) (st : Strand) (va : Word) : (s.waitBed st va).sites = s.sites := rfl
@[simp] theorem State.waitBed_head (s : State) (st : Strand) (va : Word) : (s.waitBed st va).head = s.head := rfl
@[simp] theorem State.waitBed_mem (s : State) (st : Strand) (va : Word) : (s.waitBed st va).mem = s.mem := rfl
@[simp] theorem State.waitBed_sram (s : State) (st : Strand) (va : Word) : (s.waitBed st va).sram = s.sram := rfl
@[simp] theorem State.waitBed_hostMem (s : State) (st : Strand) (va : Word) : (s.waitBed st va).hostMem = s.hostMem := rfl
@[simp] theorem State.waitBed_badLines (s : State) (st : Strand) (va : Word) : (s.waitBed st va).badLines = s.badLines := rfl
@[simp] theorem State.waitBed_msgs (s : State) (st : Strand) (va : Word) : (s.waitBed st va).msgs = s.msgs := rfl
@[simp] theorem State.waitBed_transit (s : State) (st : Strand) (va : Word) : (s.waitBed st va).transit = s.transit := rfl
@[simp] theorem State.waitBed_items (s : State) (st : Strand) (va : Word) : (s.waitBed st va).items = s.items := rfl
@[simp] theorem State.waitBed_acks (s : State) (st : Strand) (va : Word) : (s.waitBed st va).acks = s.acks := rfl
@[simp] theorem State.waitBed_winReads (s : State) (st : Strand) (va : Word) : (s.waitBed st va).winReads = s.winReads := rfl
@[simp] theorem State.waitBed_out (s : State) (st : Strand) (va : Word) : (s.waitBed st va).out = s.out := rfl
/-! ### A write of SS -/
theorem Strand.withSs_handle (t : Strand) (v : BitVec 64) : Strand.handle { t with ss := v } = t.handle := rfl
theorem Strand.withSs_pc (t : Strand) (v : BitVec 64) : Strand.pc { t with ss := v } = t.pc := rfl
theorem Strand.withSs_g (t : Strand) (v : BitVec 64) : Strand.g { t with ss := v } = t.g := rfl
theorem Strand.withSs_w (t : Strand) (v : BitVec 64) : Strand.w { t with ss := v } = t.w := rfl
theorem Strand.withSs_x (t : Strand) (v : BitVec 64) : Strand.x { t with ss := v } = t.x := rfl
theorem Strand.withSs_ctl (t : Strand) (v : BitVec 64) : Strand.ctl { t with ss := v } = t.ctl := rfl
theorem Strand.withSs_job (t : Strand) (v : BitVec 64) : Strand.job { t with ss := v } = t.job := rfl
theorem Strand.withSs_asid (t : Strand) (v : BitVec 64) : Strand.asid { t with ss := v } = t.asid := rfl
theorem Strand.withSs_flat (t : Strand) (v : BitVec 64) : Strand.flat { t with ss := v } = t.flat := rfl
theorem Strand.withSs_bounce (t : Strand) (v : BitVec 64) : Strand.bounce { t with ss := v } = t.bounce := rfl
theorem Strand.withSs_joinw (t : Strand) (v : BitVec 64) : Strand.joinw { t with ss := v } = t.joinw := rfl
theorem Strand.withSs_cmap (t : Strand) (v : BitVec 64) : Strand.cmap { t with ss := v } = t.cmap := rfl
theorem Strand.withSs_pcause (t : Strand) (v : BitVec 64) : Strand.pcause { t with ss := v } = t.pcause := rfl
theorem Strand.withSs_preg (t : Strand) (v : BitVec 64) : Strand.preg { t with ss := v } = t.preg := rfl
theorem Strand.withSs_dest (t : Strand) (v : BitVec 64) : Strand.dest { t with ss := v } = t.dest := rfl
theorem Strand.withSs_destVa (t : Strand) (v : BitVec 64) : Strand.destVa { t with ss := v } = t.destVa := rfl
theorem Strand.withSs_destCva (t : Strand) (v : BitVec 64) : Strand.destCva { t with ss := v } = t.destCva := rfl
theorem Strand.withSs_status (t : Strand) (v : BitVec 64) : Strand.status { t with ss := v } = t.status := rfl
theorem Strand.withSs_loc (t : Strand) (v : BitVec 64) : Strand.loc { t with ss := v } = t.loc := rfl
theorem Strand.withSs_img (t : Strand) (v : BitVec 64) : Strand.img { t with ss := v } = t.img := rfl
theorem Strand.withSs_cls (t : Strand) (v : BitVec 64) : Strand.cls { t with ss := v } = t.cls := rfl
theorem Strand.withSs_refusals (t : Strand) (v : BitVec 64) : Strand.refusals { t with ss := v } = t.refusals := rfl
theorem Strand.withSs_rlim (t : Strand) (v : BitVec 64) : Strand.rlim { t with ss := v } = t.rlim := rfl
theorem Strand.withSs_parkedFor (t : Strand) (v : BitVec 64) : Strand.parkedFor { t with ss := v } = t.parkedFor := rfl
theorem Strand.withSs_hkind (t : Strand) (v : BitVec 64) : Strand.hkind { t with ss := v } = t.hkind := rfl
theorem Strand.withSs_asUrgent (t : Strand) (v : BitVec 64) : Strand.asUrgent { t with ss := v } = t.asUrgent := rfl
theorem Strand.withSs_victim (t : Strand) (v : BitVec 64) : Strand.victim { t with ss := v } = t.victim := rfl
theorem Strand.withSs_ofTask (t : Strand) (v : BitVec 64) : Strand.ofTask { t with ss := v } = t.ofTask := rfl
theorem Strand.withSs_bornCol (t : Strand) (v : BitVec 64) : Strand.bornCol { t with ss := v } = t.bornCol := rfl
theorem Strand.withSs_phase (t : Strand) (v : BitVec 64) : Strand.phase { t with ss := v } = t.phase := rfl
theorem Strand.withSs_regrow (t : Strand) (v : BitVec 64) : Strand.regrow { t with ss := v } = t.regrow := rfl
theorem Strand.withSs_ldaq (t : Strand) (v : BitVec 64) : Strand.ldaq { t with ss := v } = t.ldaq := rfl
theorem Strand.withSs_bindRec (t : Strand) (v : BitVec 64) : Strand.bindRec { t with ss := v } = t.bindRec := rfl
theorem Strand.withSs_pending (t : Strand) (v : BitVec 64) : Strand.pending { t with ss := v } = t.pending := rfl
theorem Strand.withSs_bedWait (t : Strand) (v : BitVec 64) : Strand.bedWait { t with ss := v } = t.bedWait := rfl
theorem Strand.withSs_wait (t : Strand) (v : BitVec 64) : Strand.wait { t with ss := v } = t.wait := rfl
theorem Strand.withSs_xpar (t : Strand) (v : BitVec 64) : Strand.xpar { t with ss := v } = t.xpar := rfl
theorem Strand.withSs_imgBad (t : Strand) (v : BitVec 64) : Strand.imgBad { t with ss := v } = t.imgBad := rfl
theorem Strand.withSs_before (t : Strand) (v : BitVec 64) : Strand.before { t with ss := v } = t.before := rfl
/-! ### setG -/
@[simp] theorem Strand.setG_handle (t : Strand) (r : GReg) (v : Word) : (t.setG r v).handle = t.handle := rfl
@[simp] theorem Strand.setG_pc (t : Strand) (r : GReg) (v : Word) : (t.setG r v).pc = t.pc := rfl
@[simp] theorem Strand.setG_ss (t : Strand) (r : GReg) (v : Word) : (t.setG r v).ss = t.ss := rfl
@[simp] theorem Strand.setG_w (t : Strand) (r : GReg) (v : Word) : (t.setG r v).w = t.w := rfl
@[simp] theorem Strand.setG_x (t : Strand) (r : GReg) (v : Word) : (t.setG r v).x = t.x := rfl
@[simp] theorem Strand.setG_job (t : Strand) (r : GReg) (v : Word) : (t.setG r v).job = t.job := rfl
@[simp] theorem Strand.setG_asid (t : Strand) (r : GReg) (v : Word) : (t.setG r v).asid = t.asid := rfl
@[simp] theorem Strand.setG_flat (t : Strand) (r : GReg) (v : Word) : (t.setG r v).flat = t.flat := rfl
@[simp] theorem Strand.setG_bounce (t : Strand) (r : GReg) (v : Word) : (t.setG r v).bounce = t.bounce := rfl
@[simp] theorem Strand.setG_joinw (t : Strand) (r : GReg) (v : Word) : (t.setG r v).joinw = t.joinw := rfl
@[simp] theorem Strand.setG_cmap (t : Strand) (r : GReg) (v : Word) : (t.setG r v).cmap = t.cmap := rfl
@[simp] theorem Strand.setG_pcause (t : Strand) (r : GReg) (v : Word) : (t.setG r v).pcause = t.pcause := rfl
@[simp] theorem Strand.setG_preg (t : Strand) (r : GReg) (v : Word) : (t.setG r v).preg = t.preg := rfl
@[simp] theorem Strand.setG_dest (t : Strand) (r : GReg) (v : Word) : (t.setG r v).dest = t.dest := rfl
@[simp] theorem Strand.setG_destVa (t : Strand) (r : GReg) (v : Word) : (t.setG r v).destVa = t.destVa := rfl
@[simp] theorem Strand.setG_destCva (t : Strand) (r : GReg) (v : Word) : (t.setG r v).destCva = t.destCva := rfl
@[simp] theorem Strand.setG_status (t : Strand) (r : GReg) (v : Word) : (t.setG r v).status = t.status := rfl
@[simp] theorem Strand.setG_loc (t : Strand) (r : GReg) (v : Word) : (t.setG r v).loc = t.loc := rfl
@[simp] theorem Strand.setG_img (t : Strand) (r : GReg) (v : Word) : (t.setG r v).img = t.img := rfl
@[simp] theorem Strand.setG_cls (t : Strand) (r : GReg) (v : Word) : (t.setG r v).cls = t.cls := rfl
@[simp] theorem Strand.setG_refusals (t : Strand) (r : GReg) (v : Word) : (t.setG r v).refusals = t.refusals := rfl
@[simp] theorem Strand.setG_rlim (t : Strand) (r : GReg) (v : Word) : (t.setG r v).rlim = t.rlim := rfl
@[simp] theorem Strand.setG_parkedFor (t : Strand) (r : GReg) (v : Word) : (t.setG r v).parkedFor = t.parkedFor := rfl
@[simp] theorem Strand.setG_hkind (t : Strand) (r : GReg) (v : Word) : (t.setG r v).hkind = t.hkind := rfl
@[simp] theorem Strand.setG_asUrgent (t : Strand) (r : GReg) (v : Word) : (t.setG r v).asUrgent = t.asUrgent := rfl
@[simp] theorem Strand.setG_victim (t : Strand) (r : GReg) (v : Word) : (t.setG r v).victim = t.victim := rfl
@[simp] theorem Strand.setG_ofTask (t : Strand) (r : GReg) (v : Word) : (t.setG r v).ofTask = t.ofTask := rfl
@[simp] theorem Strand.setG_bornCol (t : Strand) (r : GReg) (v : Word) : (t.setG r v).bornCol = t.bornCol := rfl
@[simp] theorem Strand.setG_phase (t : Strand) (r : GReg) (v : Word) : (t.setG r v).phase = t.phase := rfl
@[simp] theorem Strand.setG_regrow (t : Strand) (r : GReg) (v : Word) : (t.setG r v).regrow = t.regrow := rfl
@[simp] theorem Strand.setG_ldaq (t : Strand) (r : GReg) (v : Word) : (t.setG r v).ldaq = t.ldaq := rfl
@[simp] theorem Strand.setG_bindRec (t : Strand) (r : GReg) (v : Word) : (t.setG r v).bindRec = t.bindRec := rfl
@[simp] theorem Strand.setG_pending (t : Strand) (r : GReg) (v : Word) : (t.setG r v).pending = t.pending := rfl
@[simp] theorem Strand.setG_bedWait (t : Strand) (r : GReg) (v : Word) : (t.setG r v).bedWait = t.bedWait := rfl
@[simp] theorem Strand.setG_wait (t : Strand) (r : GReg) (v : Word) : (t.setG r v).wait = t.wait := rfl
@[simp] theorem Strand.setG_xpar (t : Strand) (r : GReg) (v : Word) : (t.setG r v).xpar = t.xpar := rfl
@[simp] theorem Strand.setG_imgBad (t : Strand) (r : GReg) (v : Word) : (t.setG r v).imgBad = t.imgBad := rfl
@[simp] theorem Strand.setG_before (t : Strand) (r : GReg) (v : Word) : (t.setG r v).before = t.before := rfl
/-! ### setW -/
@[simp] theorem Strand.setW_handle (t : Strand) (r : WReg) (v : Wide) : (t.setW r v).handle = t.handle := rfl
@[simp] theorem Strand.setW_pc (t : Strand) (r : WReg) (v : Wide) : (t.setW r v).pc = t.pc := rfl
@[simp] theorem Strand.setW_ss (t : Strand) (r : WReg) (v : Wide) : (t.setW r v).ss = t.ss := rfl
@[simp] theorem Strand.setW_g (t : Strand) (r : WReg) (v : Wide) : (t.setW r v).g = t.g := rfl
@[simp] theorem Strand.setW_x (t : Strand) (r : WReg) (v : Wide) : (t.setW r v).x = t.x := rfl
@[simp] theorem Strand.setW_job (t : Strand) (r : WReg) (v : Wide) : (t.setW r v).job = t.job := rfl
@[simp] theorem Strand.setW_asid (t : Strand) (r : WReg) (v : Wide) : (t.setW r v).asid = t.asid := rfl
@[simp] theorem Strand.setW_flat (t : Strand) (r : WReg) (v : Wide) : (t.setW r v).flat = t.flat := rfl
@[simp] theorem Strand.setW_bounce (t : Strand) (r : WReg) (v : Wide) : (t.setW r v).bounce = t.bounce := rfl
@[simp] theorem Strand.setW_joinw (t : Strand) (r : WReg) (v : Wide) : (t.setW r v).joinw = t.joinw := rfl
@[simp] theorem Strand.setW_cmap (t : Strand) (r : WReg) (v : Wide) : (t.setW r v).cmap = t.cmap := rfl
@[simp] theorem Strand.setW_pcause (t : Strand) (r : WReg) (v : Wide) : (t.setW r v).pcause = t.pcause := rfl
@[simp] theorem Strand.setW_preg (t : Strand) (r : WReg) (v : Wide) : (t.setW r v).preg = t.preg := rfl
@[simp] theorem Strand.setW_dest (t : Strand) (r : WReg) (v : Wide) : (t.setW r v).dest = t.dest := rfl
@[simp] theorem Strand.setW_destVa (t : Strand) (r : WReg) (v : Wide) : (t.setW r v).destVa = t.destVa := rfl
@[simp] theorem Strand.setW_destCva (t : Strand) (r : WReg) (v : Wide) : (t.setW r v).destCva = t.destCva := rfl
@[simp] theorem Strand.setW_status (t : Strand) (r : WReg) (v : Wide) : (t.setW r v).status = t.status := rfl
@[simp] theorem Strand.setW_loc (t : Strand) (r : WReg) (v : Wide) : (t.setW r v).loc = t.loc := rfl
@[simp] theorem Strand.setW_img (t : Strand) (r : WReg) (v : Wide) : (t.setW r v).img = t.img := rfl
@[simp] theorem Strand.setW_cls (t : Strand) (r : WReg) (v : Wide) : (t.setW r v).cls = t.cls := rfl
@[simp] theorem Strand.setW_refusals (t : Strand) (r : WReg) (v : Wide) : (t.setW r v).refusals = t.refusals := rfl
@[simp] theorem Strand.setW_rlim (t : Strand) (r : WReg) (v : Wide) : (t.setW r v).rlim = t.rlim := rfl
@[simp] theorem Strand.setW_parkedFor (t : Strand) (r : WReg) (v : Wide) : (t.setW r v).parkedFor = t.parkedFor := rfl
@[simp] theorem Strand.setW_hkind (t : Strand) (r : WReg) (v : Wide) : (t.setW r v).hkind = t.hkind := rfl
@[simp] theorem Strand.setW_asUrgent (t : Strand) (r : WReg) (v : Wide) : (t.setW r v).asUrgent = t.asUrgent := rfl
@[simp] theorem Strand.setW_victim (t : Strand) (r : WReg) (v : Wide) : (t.setW r v).victim = t.victim := rfl
@[simp] theorem Strand.setW_ofTask (t : Strand) (r : WReg) (v : Wide) : (t.setW r v).ofTask = t.ofTask := rfl
@[simp] theorem Strand.setW_bornCol (t : Strand) (r : WReg) (v : Wide) : (t.setW r v).bornCol = t.bornCol := rfl
@[simp] theorem Strand.setW_phase (t : Strand) (r : WReg) (v : Wide) : (t.setW r v).phase = t.phase := rfl
@[simp] theorem Strand.setW_regrow (t : Strand) (r : WReg) (v : Wide) : (t.setW r v).regrow = t.regrow := rfl
@[simp] theorem Strand.setW_ldaq (t : Strand) (r : WReg) (v : Wide) : (t.setW r v).ldaq = t.ldaq := rfl
@[simp] theorem Strand.setW_bindRec (t : Strand) (r : WReg) (v : Wide) : (t.setW r v).bindRec = t.bindRec := rfl
@[simp] theorem Strand.setW_pending (t : Strand) (r : WReg) (v : Wide) : (t.setW r v).pending = t.pending := rfl
@[simp] theorem Strand.setW_bedWait (t : Strand) (r : WReg) (v : Wide) : (t.setW r v).bedWait = t.bedWait := rfl
@[simp] theorem Strand.setW_wait (t : Strand) (r : WReg) (v : Wide) : (t.setW r v).wait = t.wait := rfl
@[simp] theorem Strand.setW_xpar (t : Strand) (r : WReg) (v : Wide) : (t.setW r v).xpar = t.xpar := rfl
@[simp] theorem Strand.setW_imgBad (t : Strand) (r : WReg) (v : Wide) : (t.setW r v).imgBad = t.imgBad := rfl
@[simp] theorem Strand.setW_before (t : Strand) (r : WReg) (v : Wide) : (t.setW r v).before = t.before := rfl
/-! ### setX -/
@[simp] theorem Strand.setX_handle (t : Strand) (r : Nat) (v : Word) : (t.setX r v).handle = t.handle := rfl
@[simp] theorem Strand.setX_pc (t : Strand) (r : Nat) (v : Word) : (t.setX r v).pc = t.pc := rfl
@[simp] theorem Strand.setX_ss (t : Strand) (r : Nat) (v : Word) : (t.setX r v).ss = t.ss := rfl
@[simp] theorem Strand.setX_g (t : Strand) (r : Nat) (v : Word) : (t.setX r v).g = t.g := rfl
@[simp] theorem Strand.setX_w (t : Strand) (r : Nat) (v : Word) : (t.setX r v).w = t.w := rfl
@[simp] theorem Strand.setX_ctl (t : Strand) (r : Nat) (v : Word) : (t.setX r v).ctl = t.ctl := rfl
@[simp] theorem Strand.setX_job (t : Strand) (r : Nat) (v : Word) : (t.setX r v).job = t.job := rfl
@[simp] theorem Strand.setX_asid (t : Strand) (r : Nat) (v : Word) : (t.setX r v).asid = t.asid := rfl
@[simp] theorem Strand.setX_flat (t : Strand) (r : Nat) (v : Word) : (t.setX r v).flat = t.flat := rfl
@[simp] theorem Strand.setX_bounce (t : Strand) (r : Nat) (v : Word) : (t.setX r v).bounce = t.bounce := rfl
@[simp] theorem Strand.setX_joinw (t : Strand) (r : Nat) (v : Word) : (t.setX r v).joinw = t.joinw := rfl
@[simp] theorem Strand.setX_cmap (t : Strand) (r : Nat) (v : Word) : (t.setX r v).cmap = t.cmap := rfl
@[simp] theorem Strand.setX_pcause (t : Strand) (r : Nat) (v : Word) : (t.setX r v).pcause = t.pcause := rfl
@[simp] theorem Strand.setX_preg (t : Strand) (r : Nat) (v : Word) : (t.setX r v).preg = t.preg := rfl
@[simp] theorem Strand.setX_dest (t : Strand) (r : Nat) (v : Word) : (t.setX r v).dest = t.dest := rfl
@[simp] theorem Strand.setX_destVa (t : Strand) (r : Nat) (v : Word) : (t.setX r v).destVa = t.destVa := rfl
@[simp] theorem Strand.setX_destCva (t : Strand) (r : Nat) (v : Word) : (t.setX r v).destCva = t.destCva := rfl
@[simp] theorem Strand.setX_status (t : Strand) (r : Nat) (v : Word) : (t.setX r v).status = t.status := rfl
@[simp] theorem Strand.setX_loc (t : Strand) (r : Nat) (v : Word) : (t.setX r v).loc = t.loc := rfl
@[simp] theorem Strand.setX_img (t : Strand) (r : Nat) (v : Word) : (t.setX r v).img = t.img := rfl
@[simp] theorem Strand.setX_cls (t : Strand) (r : Nat) (v : Word) : (t.setX r v).cls = t.cls := rfl
@[simp] theorem Strand.setX_refusals (t : Strand) (r : Nat) (v : Word) : (t.setX r v).refusals = t.refusals := rfl
@[simp] theorem Strand.setX_rlim (t : Strand) (r : Nat) (v : Word) : (t.setX r v).rlim = t.rlim := rfl
@[simp] theorem Strand.setX_parkedFor (t : Strand) (r : Nat) (v : Word) : (t.setX r v).parkedFor = t.parkedFor := rfl
@[simp] theorem Strand.setX_hkind (t : Strand) (r : Nat) (v : Word) : (t.setX r v).hkind = t.hkind := rfl
@[simp] theorem Strand.setX_asUrgent (t : Strand) (r : Nat) (v : Word) : (t.setX r v).asUrgent = t.asUrgent := rfl
@[simp] theorem Strand.setX_victim (t : Strand) (r : Nat) (v : Word) : (t.setX r v).victim = t.victim := rfl
@[simp] theorem Strand.setX_ofTask (t : Strand) (r : Nat) (v : Word) : (t.setX r v).ofTask = t.ofTask := rfl
@[simp] theorem Strand.setX_bornCol (t : Strand) (r : Nat) (v : Word) : (t.setX r v).bornCol = t.bornCol := rfl
@[simp] theorem Strand.setX_phase (t : Strand) (r : Nat) (v : Word) : (t.setX r v).phase = t.phase := rfl
@[simp] theorem Strand.setX_regrow (t : Strand) (r : Nat) (v : Word) : (t.setX r v).regrow = t.regrow := rfl
@[simp] theorem Strand.setX_ldaq (t : Strand) (r : Nat) (v : Word) : (t.setX r v).ldaq = t.ldaq := rfl
@[simp] theorem Strand.setX_bindRec (t : Strand) (r : Nat) (v : Word) : (t.setX r v).bindRec = t.bindRec := rfl
@[simp] theorem Strand.setX_pending (t : Strand) (r : Nat) (v : Word) : (t.setX r v).pending = t.pending := rfl
@[simp] theorem Strand.setX_bedWait (t : Strand) (r : Nat) (v : Word) : (t.setX r v).bedWait = t.bedWait := rfl
@[simp] theorem Strand.setX_wait (t : Strand) (r : Nat) (v : Word) : (t.setX r v).wait = t.wait := rfl
@[simp] theorem Strand.setX_imgBad (t : Strand) (r : Nat) (v : Word) : (t.setX r v).imgBad = t.imgBad := rfl
@[simp] theorem Strand.setX_before (t : Strand) (r : Nat) (v : Word) : (t.setX r v).before = t.before := rfl
/-! ### setRc -/
@[simp] theorem Strand.setRc_handle (t : Strand) (r : Nat) (c : RegCtl) : (t.setRc r c).handle = t.handle := rfl
@[simp] theorem Strand.setRc_pc (t : Strand) (r : Nat) (c : RegCtl) : (t.setRc r c).pc = t.pc := rfl
@[simp] theorem Strand.setRc_ss (t : Strand) (r : Nat) (c : RegCtl) : (t.setRc r c).ss = t.ss := rfl
@[simp] theorem Strand.setRc_g (t : Strand) (r : Nat) (c : RegCtl) : (t.setRc r c).g = t.g := rfl
@[simp] theorem Strand.setRc_w (t : Strand) (r : Nat) (c : RegCtl) : (t.setRc r c).w = t.w := rfl
@[simp] theorem Strand.setRc_x (t : Strand) (r : Nat) (c : RegCtl) : (t.setRc r c).x = t.x := rfl
@[simp] theorem Strand.setRc_job (t : Strand) (r : Nat) (c : RegCtl) : (t.setRc r c).job = t.job := rfl
@[simp] theorem Strand.setRc_asid (t : Strand) (r : Nat) (c : RegCtl) : (t.setRc r c).asid = t.asid := rfl
@[simp] theorem Strand.setRc_flat (t : Strand) (r : Nat) (c : RegCtl) : (t.setRc r c).flat = t.flat := rfl
@[simp] theorem Strand.setRc_bounce (t : Strand) (r : Nat) (c : RegCtl) : (t.setRc r c).bounce = t.bounce := rfl
@[simp] theorem Strand.setRc_joinw (t : Strand) (r : Nat) (c : RegCtl) : (t.setRc r c).joinw = t.joinw := rfl
@[simp] theorem Strand.setRc_cmap (t : Strand) (r : Nat) (c : RegCtl) : (t.setRc r c).cmap = t.cmap := rfl
@[simp] theorem Strand.setRc_pcause (t : Strand) (r : Nat) (c : RegCtl) : (t.setRc r c).pcause = t.pcause := rfl
@[simp] theorem Strand.setRc_preg (t : Strand) (r : Nat) (c : RegCtl) : (t.setRc r c).preg = t.preg := rfl
@[simp] theorem Strand.setRc_dest (t : Strand) (r : Nat) (c : RegCtl) : (t.setRc r c).dest = t.dest := rfl
@[simp] theorem Strand.setRc_destVa (t : Strand) (r : Nat) (c : RegCtl) : (t.setRc r c).destVa = t.destVa := rfl
@[simp] theorem Strand.setRc_destCva (t : Strand) (r : Nat) (c : RegCtl) : (t.setRc r c).destCva = t.destCva := rfl
@[simp] theorem Strand.setRc_status (t : Strand) (r : Nat) (c : RegCtl) : (t.setRc r c).status = t.status := rfl
@[simp] theorem Strand.setRc_loc (t : Strand) (r : Nat) (c : RegCtl) : (t.setRc r c).loc = t.loc := rfl
@[simp] theorem Strand.setRc_img (t : Strand) (r : Nat) (c : RegCtl) : (t.setRc r c).img = t.img := rfl
@[simp] theorem Strand.setRc_cls (t : Strand) (r : Nat) (c : RegCtl) : (t.setRc r c).cls = t.cls := rfl
@[simp] theorem Strand.setRc_refusals (t : Strand) (r : Nat) (c : RegCtl) : (t.setRc r c).refusals = t.refusals := rfl
@[simp] theorem Strand.setRc_rlim (t : Strand) (r : Nat) (c : RegCtl) : (t.setRc r c).rlim = t.rlim := rfl
@[simp] theorem Strand.setRc_parkedFor (t : Strand) (r : Nat) (c : RegCtl) : (t.setRc r c).parkedFor = t.parkedFor := rfl
@[simp] theorem Strand.setRc_hkind (t : Strand) (r : Nat) (c : RegCtl) : (t.setRc r c).hkind = t.hkind := rfl
@[simp] theorem Strand.setRc_asUrgent (t : Strand) (r : Nat) (c : RegCtl) : (t.setRc r c).asUrgent = t.asUrgent := rfl
@[simp] theorem Strand.setRc_victim (t : Strand) (r : Nat) (c : RegCtl) : (t.setRc r c).victim = t.victim := rfl
@[simp] theorem Strand.setRc_ofTask (t : Strand) (r : Nat) (c : RegCtl) : (t.setRc r c).ofTask = t.ofTask := rfl
@[simp] theorem Strand.setRc_bornCol (t : Strand) (r : Nat) (c : RegCtl) : (t.setRc r c).bornCol = t.bornCol := rfl
@[simp] theorem Strand.setRc_phase (t : Strand) (r : Nat) (c : RegCtl) : (t.setRc r c).phase = t.phase := rfl
@[simp] theorem Strand.setRc_regrow (t : Strand) (r : Nat) (c : RegCtl) : (t.setRc r c).regrow = t.regrow := rfl
@[simp] theorem Strand.setRc_ldaq (t : Strand) (r : Nat) (c : RegCtl) : (t.setRc r c).ldaq = t.ldaq := rfl
@[simp] theorem Strand.setRc_bindRec (t : Strand) (r : Nat) (c : RegCtl) : (t.setRc r c).bindRec = t.bindRec := rfl
@[simp] theorem Strand.setRc_pending (t : Strand) (r : Nat) (c : RegCtl) : (t.setRc r c).pending = t.pending := rfl
@[simp] theorem Strand.setRc_bedWait (t : Strand) (r : Nat) (c : RegCtl) : (t.setRc r c).bedWait = t.bedWait := rfl
@[simp] theorem Strand.setRc_wait (t : Strand) (r : Nat) (c : RegCtl) : (t.setRc r c).wait = t.wait := rfl
@[simp] theorem Strand.setRc_xpar (t : Strand) (r : Nat) (c : RegCtl) : (t.setRc r c).xpar = t.xpar := rfl
@[simp] theorem Strand.setRc_imgBad (t : Strand) (r : Nat) (c : RegCtl) : (t.setRc r c).imgBad = t.imgBad := rfl
@[simp] theorem Strand.setRc_before (t : Strand) (r : Nat) (c : RegCtl) : (t.setRc r c).before = t.before := rfl
/-! ### vacate -/
@[simp] theorem Strand.vacate_handle (t : Strand) (r : Nat) : (t.vacate r).handle = t.handle := rfl
@[simp] theorem Strand.vacate_pc (t : Strand) (r : Nat) : (t.vacate r).pc = t.pc := rfl
@[simp] theorem Strand.vacate_ss (t : Strand) (r : Nat) : (t.vacate r).ss = t.ss := rfl
@[simp] theorem Strand.vacate_g (t : Strand) (r : Nat) : (t.vacate r).g = t.g := rfl
@[simp] theorem Strand.vacate_w (t : Strand) (r : Nat) : (t.vacate r).w = t.w := rfl
@[simp] theorem Strand.vacate_x (t : Strand) (r : Nat) : (t.vacate r).x = t.x := rfl
@[simp] theorem Strand.vacate_job (t : Strand) (r : Nat) : (t.vacate r).job = t.job := rfl
@[simp] theorem Strand.vacate_asid (t : Strand) (r : Nat) : (t.vacate r).asid = t.asid := rfl
@[simp] theorem Strand.vacate_flat (t : Strand) (r : Nat) : (t.vacate r).flat = t.flat := rfl
@[simp] theorem Strand.vacate_bounce (t : Strand) (r : Nat) : (t.vacate r).bounce = t.bounce := rfl
@[simp] theorem Strand.vacate_joinw (t : Strand) (r : Nat) : (t.vacate r).joinw = t.joinw := rfl
@[simp] theorem Strand.vacate_cmap (t : Strand) (r : Nat) : (t.vacate r).cmap = t.cmap := rfl
@[simp] theorem Strand.vacate_pcause (t : Strand) (r : Nat) : (t.vacate r).pcause = t.pcause := rfl
@[simp] theorem Strand.vacate_preg (t : Strand) (r : Nat) : (t.vacate r).preg = t.preg := rfl
@[simp] theorem Strand.vacate_dest (t : Strand) (r : Nat) : (t.vacate r).dest = t.dest := rfl
@[simp] theorem Strand.vacate_destVa (t : Strand) (r : Nat) : (t.vacate r).destVa = t.destVa := rfl
@[simp] theorem Strand.vacate_destCva (t : Strand) (r : Nat) : (t.vacate r).destCva = t.destCva := rfl
@[simp] theorem Strand.vacate_status (t : Strand) (r : Nat) : (t.vacate r).status = t.status := rfl
@[simp] theorem Strand.vacate_loc (t : Strand) (r : Nat) : (t.vacate r).loc = t.loc := rfl
@[simp] theorem Strand.vacate_img (t : Strand) (r : Nat) : (t.vacate r).img = t.img := rfl
@[simp] theorem Strand.vacate_cls (t : Strand) (r : Nat) : (t.vacate r).cls = t.cls := rfl
@[simp] theorem Strand.vacate_refusals (t : Strand) (r : Nat) : (t.vacate r).refusals = t.refusals := rfl
@[simp] theorem Strand.vacate_rlim (t : Strand) (r : Nat) : (t.vacate r).rlim = t.rlim := rfl
@[simp] theorem Strand.vacate_parkedFor (t : Strand) (r : Nat) : (t.vacate r).parkedFor = t.parkedFor := rfl
@[simp] theorem Strand.vacate_hkind (t : Strand) (r : Nat) : (t.vacate r).hkind = t.hkind := rfl
@[simp] theorem Strand.vacate_asUrgent (t : Strand) (r : Nat) : (t.vacate r).asUrgent = t.asUrgent := rfl
@[simp] theorem Strand.vacate_victim (t : Strand) (r : Nat) : (t.vacate r).victim = t.victim := rfl
@[simp] theorem Strand.vacate_ofTask (t : Strand) (r : Nat) : (t.vacate r).ofTask = t.ofTask := rfl
@[simp] theorem Strand.vacate_bornCol (t : Strand) (r : Nat) : (t.vacate r).bornCol = t.bornCol := rfl
@[simp] theorem Strand.vacate_phase (t : Strand) (r : Nat) : (t.vacate r).phase = t.phase := rfl
@[simp] theorem Strand.vacate_regrow (t : Strand) (r : Nat) : (t.vacate r).regrow = t.regrow := rfl
@[simp] theorem Strand.vacate_ldaq (t : Strand) (r : Nat) : (t.vacate r).ldaq = t.ldaq := rfl
@[simp] theorem Strand.vacate_bindRec (t : Strand) (r : Nat) : (t.vacate r).bindRec = t.bindRec := rfl
@[simp] theorem Strand.vacate_pending (t : Strand) (r : Nat) : (t.vacate r).pending = t.pending := rfl
@[simp] theorem Strand.vacate_bedWait (t : Strand) (r : Nat) : (t.vacate r).bedWait = t.bedWait := rfl
@[simp] theorem Strand.vacate_wait (t : Strand) (r : Nat) : (t.vacate r).wait = t.wait := rfl
@[simp] theorem Strand.vacate_xpar (t : Strand) (r : Nat) : (t.vacate r).xpar = t.xpar := rfl
@[simp] theorem Strand.vacate_imgBad (t : Strand) (r : Nat) : (t.vacate r).imgBad = t.imgBad := rfl
@[simp] theorem Strand.vacate_before (t : Strand) (r : Nat) : (t.vacate r).before = t.before := rfl
/-! ### await -/
@[simp] theorem Strand.await_handle (t : Strand) (r n : Nat) : (t.await r n).handle = t.handle := rfl
@[simp] theorem Strand.await_pc (t : Strand) (r n : Nat) : (t.await r n).pc = t.pc := rfl
@[simp] theorem Strand.await_ss (t : Strand) (r n : Nat) : (t.await r n).ss = t.ss := rfl
@[simp] theorem Strand.await_g (t : Strand) (r n : Nat) : (t.await r n).g = t.g := rfl
@[simp] theorem Strand.await_w (t : Strand) (r n : Nat) : (t.await r n).w = t.w := rfl
@[simp] theorem Strand.await_x (t : Strand) (r n : Nat) : (t.await r n).x = t.x := rfl
@[simp] theorem Strand.await_job (t : Strand) (r n : Nat) : (t.await r n).job = t.job := rfl
@[simp] theorem Strand.await_asid (t : Strand) (r n : Nat) : (t.await r n).asid = t.asid := rfl
@[simp] theorem Strand.await_flat (t : Strand) (r n : Nat) : (t.await r n).flat = t.flat := rfl
@[simp] theorem Strand.await_bounce (t : Strand) (r n : Nat) : (t.await r n).bounce = t.bounce := rfl
@[simp] theorem Strand.await_joinw (t : Strand) (r n : Nat) : (t.await r n).joinw = t.joinw := rfl
@[simp] theorem Strand.await_cmap (t : Strand) (r n : Nat) : (t.await r n).cmap = t.cmap := rfl
@[simp] theorem Strand.await_pcause (t : Strand) (r n : Nat) : (t.await r n).pcause = t.pcause := rfl
@[simp] theorem Strand.await_preg (t : Strand) (r n : Nat) : (t.await r n).preg = t.preg := rfl
@[simp] theorem Strand.await_dest (t : Strand) (r n : Nat) : (t.await r n).dest = t.dest := rfl
@[simp] theorem Strand.await_destVa (t : Strand) (r n : Nat) : (t.await r n).destVa = t.destVa := rfl
@[simp] theorem Strand.await_destCva (t : Strand) (r n : Nat) : (t.await r n).destCva = t.destCva := rfl
@[simp] theorem Strand.await_status (t : Strand) (r n : Nat) : (t.await r n).status = t.status := rfl
@[simp] theorem Strand.await_loc (t : Strand) (r n : Nat) : (t.await r n).loc = t.loc := rfl
@[simp] theorem Strand.await_img (t : Strand) (r n : Nat) : (t.await r n).img = t.img := rfl
@[simp] theorem Strand.await_cls (t : Strand) (r n : Nat) : (t.await r n).cls = t.cls := rfl
@[simp] theorem Strand.await_refusals (t : Strand) (r n : Nat) : (t.await r n).refusals = t.refusals := rfl
@[simp] theorem Strand.await_rlim (t : Strand) (r n : Nat) : (t.await r n).rlim = t.rlim := rfl
@[simp] theorem Strand.await_parkedFor (t : Strand) (r n : Nat) : (t.await r n).parkedFor = t.parkedFor := rfl
@[simp] theorem Strand.await_hkind (t : Strand) (r n : Nat) : (t.await r n).hkind = t.hkind := rfl
@[simp] theorem Strand.await_asUrgent (t : Strand) (r n : Nat) : (t.await r n).asUrgent = t.asUrgent := rfl
@[simp] theorem Strand.await_victim (t : Strand) (r n : Nat) : (t.await r n).victim = t.victim := rfl
@[simp] theorem Strand.await_ofTask (t : Strand) (r n : Nat) : (t.await r n).ofTask = t.ofTask := rfl
@[simp] theorem Strand.await_bornCol (t : Strand) (r n : Nat) : (t.await r n).bornCol = t.bornCol := rfl
@[simp] theorem Strand.await_phase (t : Strand) (r n : Nat) : (t.await r n).phase = t.phase := rfl
@[simp] theorem Strand.await_regrow (t : Strand) (r n : Nat) : (t.await r n).regrow = t.regrow := rfl
@[simp] theorem Strand.await_ldaq (t : Strand) (r n : Nat) : (t.await r n).ldaq = t.ldaq := rfl
@[simp] theorem Strand.await_bindRec (t : Strand) (r n : Nat) : (t.await r n).bindRec = t.bindRec := rfl
@[simp] theorem Strand.await_pending (t : Strand) (r n : Nat) : (t.await r n).pending = t.pending := rfl
@[simp] theorem Strand.await_bedWait (t : Strand) (r n : Nat) : (t.await r n).bedWait = t.bedWait := rfl
@[simp] theorem Strand.await_wait (t : Strand) (r n : Nat) : (t.await r n).wait = t.wait := rfl
@[simp] theorem Strand.await_xpar (t : Strand) (r n : Nat) : (t.await r n).xpar = t.xpar := rfl
@[simp] theorem Strand.await_imgBad (t : Strand) (r n : Nat) : (t.await r n).imgBad = t.imgBad := rfl
@[simp] theorem Strand.await_before (t : Strand) (r n : Nat) : (t.await r n).before = t.before := rfl
/-! ### setSg -/
@[simp] theorem Strand.setSg_handle (t : Strand) (v : Nat) : (t.setSg v).handle = t.handle := Strand.withSs_handle t _
@[simp] theorem Strand.setSg_pc (t : Strand) (v : Nat) : (t.setSg v).pc = t.pc := Strand.withSs_pc t _
@[simp] theorem Strand.setSg_g (t : Strand) (v : Nat) : (t.setSg v).g = t.g := Strand.withSs_g t _
@[simp] theorem Strand.setSg_w (t : Strand) (v : Nat) : (t.setSg v).w = t.w := Strand.withSs_w t _
@[simp] theorem Strand.setSg_x (t : Strand) (v : Nat) : (t.setSg v).x = t.x := Strand.withSs_x t _
@[simp] theorem Strand.setSg_ctl (t : Strand) (v : Nat) : (t.setSg v).ctl = t.ctl := Strand.withSs_ctl t _
@[simp] theorem Strand.setSg_job (t : Strand) (v : Nat) : (t.setSg v).job = t.job := Strand.withSs_job t _
@[simp] theorem Strand.setSg_asid (t : Strand) (v : Nat) : (t.setSg v).asid = t.asid := Strand.withSs_asid t _
@[simp] theorem Strand.setSg_flat (t : Strand) (v : Nat) : (t.setSg v).flat = t.flat := Strand.withSs_flat t _
@[simp] theorem Strand.setSg_bounce (t : Strand) (v : Nat) : (t.setSg v).bounce = t.bounce := Strand.withSs_bounce t _
@[simp] theorem Strand.setSg_joinw (t : Strand) (v : Nat) : (t.setSg v).joinw = t.joinw := Strand.withSs_joinw t _
@[simp] theorem Strand.setSg_cmap (t : Strand) (v : Nat) : (t.setSg v).cmap = t.cmap := Strand.withSs_cmap t _
@[simp] theorem Strand.setSg_pcause (t : Strand) (v : Nat) : (t.setSg v).pcause = t.pcause := Strand.withSs_pcause t _
@[simp] theorem Strand.setSg_preg (t : Strand) (v : Nat) : (t.setSg v).preg = t.preg := Strand.withSs_preg t _
@[simp] theorem Strand.setSg_dest (t : Strand) (v : Nat) : (t.setSg v).dest = t.dest := Strand.withSs_dest t _
@[simp] theorem Strand.setSg_destVa (t : Strand) (v : Nat) : (t.setSg v).destVa = t.destVa := Strand.withSs_destVa t _
@[simp] theorem Strand.setSg_destCva (t : Strand) (v : Nat) : (t.setSg v).destCva = t.destCva := Strand.withSs_destCva t _
@[simp] theorem Strand.setSg_status (t : Strand) (v : Nat) : (t.setSg v).status = t.status := Strand.withSs_status t _
@[simp] theorem Strand.setSg_loc (t : Strand) (v : Nat) : (t.setSg v).loc = t.loc := Strand.withSs_loc t _
@[simp] theorem Strand.setSg_img (t : Strand) (v : Nat) : (t.setSg v).img = t.img := Strand.withSs_img t _
@[simp] theorem Strand.setSg_cls (t : Strand) (v : Nat) : (t.setSg v).cls = t.cls := Strand.withSs_cls t _
@[simp] theorem Strand.setSg_refusals (t : Strand) (v : Nat) : (t.setSg v).refusals = t.refusals := Strand.withSs_refusals t _
@[simp] theorem Strand.setSg_rlim (t : Strand) (v : Nat) : (t.setSg v).rlim = t.rlim := Strand.withSs_rlim t _
@[simp] theorem Strand.setSg_parkedFor (t : Strand) (v : Nat) : (t.setSg v).parkedFor = t.parkedFor := Strand.withSs_parkedFor t _
@[simp] theorem Strand.setSg_hkind (t : Strand) (v : Nat) : (t.setSg v).hkind = t.hkind := Strand.withSs_hkind t _
@[simp] theorem Strand.setSg_asUrgent (t : Strand) (v : Nat) : (t.setSg v).asUrgent = t.asUrgent := Strand.withSs_asUrgent t _
@[simp] theorem Strand.setSg_victim (t : Strand) (v : Nat) : (t.setSg v).victim = t.victim := Strand.withSs_victim t _
@[simp] theorem Strand.setSg_ofTask (t : Strand) (v : Nat) : (t.setSg v).ofTask = t.ofTask := Strand.withSs_ofTask t _
@[simp] theorem Strand.setSg_bornCol (t : Strand) (v : Nat) : (t.setSg v).bornCol = t.bornCol := Strand.withSs_bornCol t _
@[simp] theorem Strand.setSg_phase (t : Strand) (v : Nat) : (t.setSg v).phase = t.phase := Strand.withSs_phase t _
@[simp] theorem Strand.setSg_regrow (t : Strand) (v : Nat) : (t.setSg v).regrow = t.regrow := Strand.withSs_regrow t _
@[simp] theorem Strand.setSg_ldaq (t : Strand) (v : Nat) : (t.setSg v).ldaq = t.ldaq := Strand.withSs_ldaq t _
@[simp] theorem Strand.setSg_bindRec (t : Strand) (v : Nat) : (t.setSg v).bindRec = t.bindRec := Strand.withSs_bindRec t _
@[simp] theorem Strand.setSg_pending (t : Strand) (v : Nat) : (t.setSg v).pending = t.pending := Strand.withSs_pending t _
@[simp] theorem Strand.setSg_bedWait (t : Strand) (v : Nat) : (t.setSg v).bedWait = t.bedWait := Strand.withSs_bedWait t _
@[simp] theorem Strand.setSg_wait (t : Strand) (v : Nat) : (t.setSg v).wait = t.wait := Strand.withSs_wait t _
@[simp] theorem Strand.setSg_xpar (t : Strand) (v : Nat) : (t.setSg v).xpar = t.xpar := Strand.withSs_xpar t _
@[simp] theorem Strand.setSg_imgBad (t : Strand) (v : Nat) : (t.setSg v).imgBad = t.imgBad := Strand.withSs_imgBad t _
@[simp] theorem Strand.setSg_before (t : Strand) (v : Nat) : (t.setSg v).before = t.before := Strand.withSs_before t _
/-! ### clearPrefix -/
@[simp] theorem Strand.clearPrefix_handle (t : Strand) : (t.clearPrefix).handle = t.handle := Strand.withSs_handle t _
@[simp] theorem Strand.clearPrefix_pc (t : Strand) : (t.clearPrefix).pc = t.pc := Strand.withSs_pc t _
@[simp] theorem Strand.clearPrefix_g (t : Strand) : (t.clearPrefix).g = t.g := Strand.withSs_g t _
@[simp] theorem Strand.clearPrefix_w (t : Strand) : (t.clearPrefix).w = t.w := Strand.withSs_w t _
@[simp] theorem Strand.clearPrefix_x (t : Strand) : (t.clearPrefix).x = t.x := Strand.withSs_x t _
@[simp] theorem Strand.clearPrefix_ctl (t : Strand) : (t.clearPrefix).ctl = t.ctl := Strand.withSs_ctl t _
@[simp] theorem Strand.clearPrefix_job (t : Strand) : (t.clearPrefix).job = t.job := Strand.withSs_job t _
@[simp] theorem Strand.clearPrefix_asid (t : Strand) : (t.clearPrefix).asid = t.asid := Strand.withSs_asid t _
@[simp] theorem Strand.clearPrefix_flat (t : Strand) : (t.clearPrefix).flat = t.flat := Strand.withSs_flat t _
@[simp] theorem Strand.clearPrefix_bounce (t : Strand) : (t.clearPrefix).bounce = t.bounce := Strand.withSs_bounce t _
@[simp] theorem Strand.clearPrefix_joinw (t : Strand) : (t.clearPrefix).joinw = t.joinw := Strand.withSs_joinw t _
@[simp] theorem Strand.clearPrefix_cmap (t : Strand) : (t.clearPrefix).cmap = t.cmap := Strand.withSs_cmap t _
@[simp] theorem Strand.clearPrefix_pcause (t : Strand) : (t.clearPrefix).pcause = t.pcause := Strand.withSs_pcause t _
@[simp] theorem Strand.clearPrefix_preg (t : Strand) : (t.clearPrefix).preg = t.preg := Strand.withSs_preg t _
@[simp] theorem Strand.clearPrefix_dest (t : Strand) : (t.clearPrefix).dest = t.dest := Strand.withSs_dest t _
@[simp] theorem Strand.clearPrefix_destVa (t : Strand) : (t.clearPrefix).destVa = t.destVa := Strand.withSs_destVa t _
@[simp] theorem Strand.clearPrefix_destCva (t : Strand) : (t.clearPrefix).destCva = t.destCva := Strand.withSs_destCva t _
@[simp] theorem Strand.clearPrefix_status (t : Strand) : (t.clearPrefix).status = t.status := Strand.withSs_status t _
@[simp] theorem Strand.clearPrefix_loc (t : Strand) : (t.clearPrefix).loc = t.loc := Strand.withSs_loc t _
@[simp] theorem Strand.clearPrefix_img (t : Strand) : (t.clearPrefix).img = t.img := Strand.withSs_img t _
@[simp] theorem Strand.clearPrefix_cls (t : Strand) : (t.clearPrefix).cls = t.cls := Strand.withSs_cls t _
@[simp] theorem Strand.clearPrefix_refusals (t : Strand) : (t.clearPrefix).refusals = t.refusals := Strand.withSs_refusals t _
@[simp] theorem Strand.clearPrefix_rlim (t : Strand) : (t.clearPrefix).rlim = t.rlim := Strand.withSs_rlim t _
@[simp] theorem Strand.clearPrefix_parkedFor (t : Strand) : (t.clearPrefix).parkedFor = t.parkedFor := Strand.withSs_parkedFor t _
@[simp] theorem Strand.clearPrefix_hkind (t : Strand) : (t.clearPrefix).hkind = t.hkind := Strand.withSs_hkind t _
@[simp] theorem Strand.clearPrefix_asUrgent (t : Strand) : (t.clearPrefix).asUrgent = t.asUrgent := Strand.withSs_asUrgent t _
@[simp] theorem Strand.clearPrefix_victim (t : Strand) : (t.clearPrefix).victim = t.victim := Strand.withSs_victim t _
@[simp] theorem Strand.clearPrefix_ofTask (t : Strand) : (t.clearPrefix).ofTask = t.ofTask := Strand.withSs_ofTask t _
@[simp] theorem Strand.clearPrefix_bornCol (t : Strand) : (t.clearPrefix).bornCol = t.bornCol := Strand.withSs_bornCol t _
@[simp] theorem Strand.clearPrefix_phase (t : Strand) : (t.clearPrefix).phase = t.phase := Strand.withSs_phase t _
@[simp] theorem Strand.clearPrefix_regrow (t : Strand) : (t.clearPrefix).regrow = t.regrow := Strand.withSs_regrow t _
@[simp] theorem Strand.clearPrefix_ldaq (t : Strand) : (t.clearPrefix).ldaq = t.ldaq := Strand.withSs_ldaq t _
@[simp] theorem Strand.clearPrefix_bindRec (t : Strand) : (t.clearPrefix).bindRec = t.bindRec := Strand.withSs_bindRec t _
@[simp] theorem Strand.clearPrefix_pending (t : Strand) : (t.clearPrefix).pending = t.pending := Strand.withSs_pending t _
@[simp] theorem Strand.clearPrefix_bedWait (t : Strand) : (t.clearPrefix).bedWait = t.bedWait := Strand.withSs_bedWait t _
@[simp] theorem Strand.clearPrefix_wait (t : Strand) : (t.clearPrefix).wait = t.wait := Strand.withSs_wait t _
@[simp] theorem Strand.clearPrefix_xpar (t : Strand) : (t.clearPrefix).xpar = t.xpar := Strand.withSs_xpar t _
@[simp] theorem Strand.clearPrefix_imgBad (t : Strand) : (t.clearPrefix).imgBad = t.imgBad := Strand.withSs_imgBad t _
@[simp] theorem Strand.clearPrefix_before (t : Strand) : (t.clearPrefix).before = t.before := Strand.withSs_before t _
/-! ### orFlags -/
@[simp] theorem Strand.orFlags_handle (t : Strand) (v : Nat) : (t.orFlags v).handle = t.handle := Strand.withSs_handle t _
@[simp] theorem Strand.orFlags_pc (t : Strand) (v : Nat) : (t.orFlags v).pc = t.pc := Strand.withSs_pc t _
@[simp] theorem Strand.orFlags_g (t : Strand) (v : Nat) : (t.orFlags v).g = t.g := Strand.withSs_g t _
@[simp] theorem Strand.orFlags_w (t : Strand) (v : Nat) : (t.orFlags v).w = t.w := Strand.withSs_w t _
@[simp] theorem Strand.orFlags_x (t : Strand) (v : Nat) : (t.orFlags v).x = t.x := Strand.withSs_x t _
@[simp] theorem Strand.orFlags_ctl (t : Strand) (v : Nat) : (t.orFlags v).ctl = t.ctl := Strand.withSs_ctl t _
@[simp] theorem Strand.orFlags_job (t : Strand) (v : Nat) : (t.orFlags v).job = t.job := Strand.withSs_job t _
@[simp] theorem Strand.orFlags_asid (t : Strand) (v : Nat) : (t.orFlags v).asid = t.asid := Strand.withSs_asid t _
@[simp] theorem Strand.orFlags_flat (t : Strand) (v : Nat) : (t.orFlags v).flat = t.flat := Strand.withSs_flat t _
@[simp] theorem Strand.orFlags_bounce (t : Strand) (v : Nat) : (t.orFlags v).bounce = t.bounce := Strand.withSs_bounce t _
@[simp] theorem Strand.orFlags_joinw (t : Strand) (v : Nat) : (t.orFlags v).joinw = t.joinw := Strand.withSs_joinw t _
@[simp] theorem Strand.orFlags_cmap (t : Strand) (v : Nat) : (t.orFlags v).cmap = t.cmap := Strand.withSs_cmap t _
@[simp] theorem Strand.orFlags_pcause (t : Strand) (v : Nat) : (t.orFlags v).pcause = t.pcause := Strand.withSs_pcause t _
@[simp] theorem Strand.orFlags_preg (t : Strand) (v : Nat) : (t.orFlags v).preg = t.preg := Strand.withSs_preg t _
@[simp] theorem Strand.orFlags_dest (t : Strand) (v : Nat) : (t.orFlags v).dest = t.dest := Strand.withSs_dest t _
@[simp] theorem Strand.orFlags_destVa (t : Strand) (v : Nat) : (t.orFlags v).destVa = t.destVa := Strand.withSs_destVa t _
@[simp] theorem Strand.orFlags_destCva (t : Strand) (v : Nat) : (t.orFlags v).destCva = t.destCva := Strand.withSs_destCva t _
@[simp] theorem Strand.orFlags_status (t : Strand) (v : Nat) : (t.orFlags v).status = t.status := Strand.withSs_status t _
@[simp] theorem Strand.orFlags_loc (t : Strand) (v : Nat) : (t.orFlags v).loc = t.loc := Strand.withSs_loc t _
@[simp] theorem Strand.orFlags_img (t : Strand) (v : Nat) : (t.orFlags v).img = t.img := Strand.withSs_img t _
@[simp] theorem Strand.orFlags_cls (t : Strand) (v : Nat) : (t.orFlags v).cls = t.cls := Strand.withSs_cls t _
@[simp] theorem Strand.orFlags_refusals (t : Strand) (v : Nat) : (t.orFlags v).refusals = t.refusals := Strand.withSs_refusals t _
@[simp] theorem Strand.orFlags_rlim (t : Strand) (v : Nat) : (t.orFlags v).rlim = t.rlim := Strand.withSs_rlim t _
@[simp] theorem Strand.orFlags_parkedFor (t : Strand) (v : Nat) : (t.orFlags v).parkedFor = t.parkedFor := Strand.withSs_parkedFor t _
@[simp] theorem Strand.orFlags_hkind (t : Strand) (v : Nat) : (t.orFlags v).hkind = t.hkind := Strand.withSs_hkind t _
@[simp] theorem Strand.orFlags_asUrgent (t : Strand) (v : Nat) : (t.orFlags v).asUrgent = t.asUrgent := Strand.withSs_asUrgent t _
@[simp] theorem Strand.orFlags_victim (t : Strand) (v : Nat) : (t.orFlags v).victim = t.victim := Strand.withSs_victim t _
@[simp] theorem Strand.orFlags_ofTask (t : Strand) (v : Nat) : (t.orFlags v).ofTask = t.ofTask := Strand.withSs_ofTask t _
@[simp] theorem Strand.orFlags_bornCol (t : Strand) (v : Nat) : (t.orFlags v).bornCol = t.bornCol := Strand.withSs_bornCol t _
@[simp] theorem Strand.orFlags_phase (t : Strand) (v : Nat) : (t.orFlags v).phase = t.phase := Strand.withSs_phase t _
@[simp] theorem Strand.orFlags_regrow (t : Strand) (v : Nat) : (t.orFlags v).regrow = t.regrow := Strand.withSs_regrow t _
@[simp] theorem Strand.orFlags_ldaq (t : Strand) (v : Nat) : (t.orFlags v).ldaq = t.ldaq := Strand.withSs_ldaq t _
@[simp] theorem Strand.orFlags_bindRec (t : Strand) (v : Nat) : (t.orFlags v).bindRec = t.bindRec := Strand.withSs_bindRec t _
@[simp] theorem Strand.orFlags_pending (t : Strand) (v : Nat) : (t.orFlags v).pending = t.pending := Strand.withSs_pending t _
@[simp] theorem Strand.orFlags_bedWait (t : Strand) (v : Nat) : (t.orFlags v).bedWait = t.bedWait := Strand.withSs_bedWait t _
@[simp] theorem Strand.orFlags_wait (t : Strand) (v : Nat) : (t.orFlags v).wait = t.wait := Strand.withSs_wait t _
@[simp] theorem Strand.orFlags_xpar (t : Strand) (v : Nat) : (t.orFlags v).xpar = t.xpar := Strand.withSs_xpar t _
@[simp] theorem Strand.orFlags_imgBad (t : Strand) (v : Nat) : (t.orFlags v).imgBad = t.imgBad := Strand.withSs_imgBad t _
@[simp] theorem Strand.orFlags_before (t : Strand) (v : Nat) : (t.orFlags v).before = t.before := Strand.withSs_before t _
/-! ### finished -/
@[simp] theorem Strand.finished_handle (t : Strand) (p : BitVec 56) : (t.finished p).handle = t.handle := rfl
@[simp] theorem Strand.finished_g (t : Strand) (p : BitVec 56) : (t.finished p).g = t.g := rfl
@[simp] theorem Strand.finished_w (t : Strand) (p : BitVec 56) : (t.finished p).w = t.w := rfl
@[simp] theorem Strand.finished_x (t : Strand) (p : BitVec 56) : (t.finished p).x = t.x := rfl
@[simp] theorem Strand.finished_ctl (t : Strand) (p : BitVec 56) : (t.finished p).ctl = t.ctl := rfl
@[simp] theorem Strand.finished_job (t : Strand) (p : BitVec 56) : (t.finished p).job = t.job := rfl
@[simp] theorem Strand.finished_asid (t : Strand) (p : BitVec 56) : (t.finished p).asid = t.asid := rfl
@[simp] theorem Strand.finished_flat (t : Strand) (p : BitVec 56) : (t.finished p).flat = t.flat := rfl
@[simp] theorem Strand.finished_bounce (t : Strand) (p : BitVec 56) : (t.finished p).bounce = t.bounce := rfl
@[simp] theorem Strand.finished_joinw (t : Strand) (p : BitVec 56) : (t.finished p).joinw = t.joinw := rfl
@[simp] theorem Strand.finished_cmap (t : Strand) (p : BitVec 56) : (t.finished p).cmap = t.cmap := rfl
@[simp] theorem Strand.finished_preg (t : Strand) (p : BitVec 56) : (t.finished p).preg = t.preg := rfl
@[simp] theorem Strand.finished_dest (t : Strand) (p : BitVec 56) : (t.finished p).dest = t.dest := rfl
@[simp] theorem Strand.finished_destVa (t : Strand) (p : BitVec 56) : (t.finished p).destVa = t.destVa := rfl
@[simp] theorem Strand.finished_destCva (t : Strand) (p : BitVec 56) : (t.finished p).destCva = t.destCva := rfl
@[simp] theorem Strand.finished_loc (t : Strand) (p : BitVec 56) : (t.finished p).loc = t.loc := rfl
@[simp] theorem Strand.finished_img (t : Strand) (p : BitVec 56) : (t.finished p).img = t.img := rfl
@[simp] theorem Strand.finished_cls (t : Strand) (p : BitVec 56) : (t.finished p).cls = t.cls := rfl
@[simp] theorem Strand.finished_refusals (t : Strand) (p : BitVec 56) : (t.finished p).refusals = t.refusals := rfl
@[simp] theorem Strand.finished_rlim (t : Strand) (p : BitVec 56) : (t.finished p).rlim = t.rlim := rfl
@[simp] theorem Strand.finished_hkind (t : Strand) (p : BitVec 56) : (t.finished p).hkind = t.hkind := rfl
@[simp] theorem Strand.finished_asUrgent (t : Strand) (p : BitVec 56) : (t.finished p).asUrgent = t.asUrgent := rfl
@[simp] theorem Strand.finished_victim (t : Strand) (p : BitVec 56) : (t.finished p).victim = t.victim := rfl
@[simp] theorem Strand.finished_ofTask (t : Strand) (p : BitVec 56) : (t.finished p).ofTask = t.ofTask := rfl
@[simp] theorem Strand.finished_bornCol (t : Strand) (p : BitVec 56) : (t.finished p).bornCol = t.bornCol := rfl
@[simp] theorem Strand.finished_ldaq (t : Strand) (p : BitVec 56) : (t.finished p).ldaq = t.ldaq := rfl
@[simp] theorem Strand.finished_bindRec (t : Strand) (p : BitVec 56) : (t.finished p).bindRec = t.bindRec := rfl
@[simp] theorem Strand.finished_pending (t : Strand) (p : BitVec 56) : (t.finished p).pending = t.pending := rfl
@[simp] theorem Strand.finished_xpar (t : Strand) (p : BitVec 56) : (t.finished p).xpar = t.xpar := rfl
@[simp] theorem Strand.finished_imgBad (t : Strand) (p : BitVec 56) : (t.finished p).imgBad = t.imgBad := rfl
@[simp] theorem Strand.finished_before (t : Strand) (p : BitVec 56) : (t.finished p).before = t.before := rfl
/-! ### The fields that are written -/
@[simp] theorem State.putStrand_strands (s : State) (x : Strand) : (s.putStrand x).strands = FMap.set s.strands x.handle.toNat x := rfl
@[simp] theorem State.putCore_cores (s : State) (k : Nat) (x : Core) : (s.putCore k x).cores = FMap.set s.cores k x := rfl
@[simp] theorem State.putCol_cols (s : State) (k : Nat) (x : Column) : (s.putCol k x).cols = FMap.set s.cols k x := rfl
@[simp] theorem State.putTile_tiles (s : State) (k : Nat) (x : Tile) : (s.putTile k x).tiles = FMap.set s.tiles k x := rfl
@[simp] theorem State.send_msgs (s : State) (m : Msg) : (s.send m).msgs = FMap.set s.msgs s.fresh m := rfl
@[simp] theorem State.send_fresh (s : State) (m : Msg) : (s.send m).fresh = s.fresh + 1 := rfl
@[simp] theorem Strand.finished_pc (t : Strand) (p : BitVec 56) : (t.finished p).pc = p := rfl
@[simp] theorem Strand.finished_status (t : Strand) (p : BitVec 56) : (t.finished p).status = .ready := rfl
@[simp] theorem Strand.finished_pcause (t : Strand) (p : BitVec 56) : (t.finished p).pcause = 0 := rfl
@[simp] theorem Strand.setX_x (t : Strand) (r : Nat) (v : Word) : (t.setX r v).x = t.x.setIfInBounds r v := rfl
@[simp] theorem Strand.setG_g (t : Strand) (r : GReg) (v : Word) : (t.setG r v).g = t.g.setIfInBounds r.toNat v := rfl
@[simp] theorem Strand.setW_w (t : Strand) (r : WReg) (v : Wide) : (t.setW r v).w = t.w.setIfInBounds r.toNat v := rfl

end Sys2Proof.Machine
end

