-- ==== Sys2Proof/Laws/Issue.lean ====
section
/-! SUPPORT. What the issue of an instruction can do: one lemma per way it can end, in the order of spec/13 R268, and one per
shared shape. -/

namespace Sys2Proof.Machine

theorem State.strand?_putStrand_self (s : State) (t : Strand) : (s.putStrand t).strand? t.handle = some t :=
  FMap.get?_set_self s.strands t.handle.toNat t

theorem State.strand?_putStrand_ne (s : State) (t : Strand) {h : BitVec 64} (hh : h ≠ t.handle) :
    (s.putStrand t).strand? h = s.strand? h :=
  FMap.get?_set_ne s.strands t (fun e => hh (BitVec.eq_of_toNat_eq e))

/-- A read of registers that carry no acquire changes nothing outside the strand. -/
theorem State.readAcquire_none (p : State × Strand) (r : Nat) (h : (p.2.rc r).acq = none) : State.readAcquire p r = p := by
  simp only [State.readAcquire, h]

theorem State.readAcquires_none (p : State × Strand) (l : List Nat) (h : ∀ r ∈ l, (p.2.rc r).acq = none) :
    l.foldl State.readAcquire p = p := by
  induction l with
  | nil => rfl
  | cons r l ih =>
    rw [List.foldl_cons, State.readAcquire_none p r (h r (by simp))]
    exact ih (fun x hx => h x (by simp [hx]))

theorem State.readSources_none (s : State) (st : Strand) (srcs : List (Nat × Bool))
    (h : ∀ c ∈ srcs, (st.rc c.1).acq = none) :
    s.readSources st srcs = (s, (srcs.filter (·.2)).foldl (fun t c => t.vacate c.1) st) := by
  unfold State.readSources
  rw [State.readAcquires_none (s, st) (srcs.map (·.1)) (by
    intro r hr
    obtain ⟨c, hc, rfl⟩ := List.mem_map.mp hr
    exact h c hc)]


/-! ### What the reads of an instruction leave of the strand: all but SS.SG and the registers' states -/

/-- A fold whose every step keeps a field keeps it. -/
theorem foldl_keeps {α β γ : Type} (f : α → γ) (g : α → β → α) (h : ∀ a b, f (g a b) = f a) (a : α) (l : List β) :
    f (l.foldl g a) = f a := by
  induction l generalizing a with
  | nil => rfl
  | cons b l ih => rw [List.foldl_cons, ih, h]

theorem State.acquire_handle (s : State) (t : Strand) (n : Nat) : (s.acquire t n).2.handle = t.handle := by
  unfold State.acquire
  by_cases h : n < 2 <;> simp only [h, ↓reduceIte, Strand.setSg_handle]
theorem State.readAcquire_handle (p : State × Strand) (r : Nat) : (State.readAcquire p r).2.handle = p.2.handle := by
  unfold State.readAcquire
  split
  · rfl
  · simp only [Strand.setRc_handle, State.acquire_handle]
theorem State.readSources_handle (s : State) (t : Strand) (srcs : List (Nat × Bool)) : (s.readSources t srcs).2.handle = t.handle := by
  unfold State.readSources
  rw [foldl_keeps Strand.handle _ (fun t (c : Nat × Bool) => Strand.vacate_handle t c.1)]
  exact foldl_keeps (fun p : State × Strand => p.2.handle) _ State.readAcquire_handle _ _

theorem State.acquire_pc (s : State) (t : Strand) (n : Nat) : (s.acquire t n).2.pc = t.pc := by
  unfold State.acquire
  by_cases h : n < 2 <;> simp only [h, ↓reduceIte, Strand.setSg_pc]
theorem State.readAcquire_pc (p : State × Strand) (r : Nat) : (State.readAcquire p r).2.pc = p.2.pc := by
  unfold State.readAcquire
  split
  · rfl
  · simp only [Strand.setRc_pc, State.acquire_pc]
theorem State.readSources_pc (s : State) (t : Strand) (srcs : List (Nat × Bool)) : (s.readSources t srcs).2.pc = t.pc := by
  unfold State.readSources
  rw [foldl_keeps Strand.pc _ (fun t (c : Nat × Bool) => Strand.vacate_pc t c.1)]
  exact foldl_keeps (fun p : State × Strand => p.2.pc) _ State.readAcquire_pc _ _

theorem State.acquire_g (s : State) (t : Strand) (n : Nat) : (s.acquire t n).2.g = t.g := by
  unfold State.acquire
  by_cases h : n < 2 <;> simp only [h, ↓reduceIte, Strand.setSg_g]
theorem State.readAcquire_g (p : State × Strand) (r : Nat) : (State.readAcquire p r).2.g = p.2.g := by
  unfold State.readAcquire
  split
  · rfl
  · simp only [Strand.setRc_g, State.acquire_g]
theorem State.readSources_g (s : State) (t : Strand) (srcs : List (Nat × Bool)) : (s.readSources t srcs).2.g = t.g := by
  unfold State.readSources
  rw [foldl_keeps Strand.g _ (fun t (c : Nat × Bool) => Strand.vacate_g t c.1)]
  exact foldl_keeps (fun p : State × Strand => p.2.g) _ State.readAcquire_g _ _

theorem State.acquire_w (s : State) (t : Strand) (n : Nat) : (s.acquire t n).2.w = t.w := by
  unfold State.acquire
  by_cases h : n < 2 <;> simp only [h, ↓reduceIte, Strand.setSg_w]
theorem State.readAcquire_w (p : State × Strand) (r : Nat) : (State.readAcquire p r).2.w = p.2.w := by
  unfold State.readAcquire
  split
  · rfl
  · simp only [Strand.setRc_w, State.acquire_w]
theorem State.readSources_w (s : State) (t : Strand) (srcs : List (Nat × Bool)) : (s.readSources t srcs).2.w = t.w := by
  unfold State.readSources
  rw [foldl_keeps Strand.w _ (fun t (c : Nat × Bool) => Strand.vacate_w t c.1)]
  exact foldl_keeps (fun p : State × Strand => p.2.w) _ State.readAcquire_w _ _

theorem State.acquire_x (s : State) (t : Strand) (n : Nat) : (s.acquire t n).2.x = t.x := by
  unfold State.acquire
  by_cases h : n < 2 <;> simp only [h, ↓reduceIte, Strand.setSg_x]
theorem State.readAcquire_x (p : State × Strand) (r : Nat) : (State.readAcquire p r).2.x = p.2.x := by
  unfold State.readAcquire
  split
  · rfl
  · simp only [Strand.setRc_x, State.acquire_x]
theorem State.readSources_x (s : State) (t : Strand) (srcs : List (Nat × Bool)) : (s.readSources t srcs).2.x = t.x := by
  unfold State.readSources
  rw [foldl_keeps Strand.x _ (fun t (c : Nat × Bool) => Strand.vacate_x t c.1)]
  exact foldl_keeps (fun p : State × Strand => p.2.x) _ State.readAcquire_x _ _

theorem State.acquire_job (s : State) (t : Strand) (n : Nat) : (s.acquire t n).2.job = t.job := by
  unfold State.acquire
  by_cases h : n < 2 <;> simp only [h, ↓reduceIte, Strand.setSg_job]
theorem State.readAcquire_job (p : State × Strand) (r : Nat) : (State.readAcquire p r).2.job = p.2.job := by
  unfold State.readAcquire
  split
  · rfl
  · simp only [Strand.setRc_job, State.acquire_job]
theorem State.readSources_job (s : State) (t : Strand) (srcs : List (Nat × Bool)) : (s.readSources t srcs).2.job = t.job := by
  unfold State.readSources
  rw [foldl_keeps Strand.job _ (fun t (c : Nat × Bool) => Strand.vacate_job t c.1)]
  exact foldl_keeps (fun p : State × Strand => p.2.job) _ State.readAcquire_job _ _

theorem State.acquire_asid (s : State) (t : Strand) (n : Nat) : (s.acquire t n).2.asid = t.asid := by
  unfold State.acquire
  by_cases h : n < 2 <;> simp only [h, ↓reduceIte, Strand.setSg_asid]
theorem State.readAcquire_asid (p : State × Strand) (r : Nat) : (State.readAcquire p r).2.asid = p.2.asid := by
  unfold State.readAcquire
  split
  · rfl
  · simp only [Strand.setRc_asid, State.acquire_asid]
theorem State.readSources_asid (s : State) (t : Strand) (srcs : List (Nat × Bool)) : (s.readSources t srcs).2.asid = t.asid := by
  unfold State.readSources
  rw [foldl_keeps Strand.asid _ (fun t (c : Nat × Bool) => Strand.vacate_asid t c.1)]
  exact foldl_keeps (fun p : State × Strand => p.2.asid) _ State.readAcquire_asid _ _

theorem State.acquire_flat (s : State) (t : Strand) (n : Nat) : (s.acquire t n).2.flat = t.flat := by
  unfold State.acquire
  by_cases h : n < 2 <;> simp only [h, ↓reduceIte, Strand.setSg_flat]
theorem State.readAcquire_flat (p : State × Strand) (r : Nat) : (State.readAcquire p r).2.flat = p.2.flat := by
  unfold State.readAcquire
  split
  · rfl
  · simp only [Strand.setRc_flat, State.acquire_flat]
theorem State.readSources_flat (s : State) (t : Strand) (srcs : List (Nat × Bool)) : (s.readSources t srcs).2.flat = t.flat := by
  unfold State.readSources
  rw [foldl_keeps Strand.flat _ (fun t (c : Nat × Bool) => Strand.vacate_flat t c.1)]
  exact foldl_keeps (fun p : State × Strand => p.2.flat) _ State.readAcquire_flat _ _

theorem State.acquire_bounce (s : State) (t : Strand) (n : Nat) : (s.acquire t n).2.bounce = t.bounce := by
  unfold State.acquire
  by_cases h : n < 2 <;> simp only [h, ↓reduceIte, Strand.setSg_bounce]
theorem State.readAcquire_bounce (p : State × Strand) (r : Nat) : (State.readAcquire p r).2.bounce = p.2.bounce := by
  unfold State.readAcquire
  split
  · rfl
  · simp only [Strand.setRc_bounce, State.acquire_bounce]
theorem State.readSources_bounce (s : State) (t : Strand) (srcs : List (Nat × Bool)) : (s.readSources t srcs).2.bounce = t.bounce := by
  unfold State.readSources
  rw [foldl_keeps Strand.bounce _ (fun t (c : Nat × Bool) => Strand.vacate_bounce t c.1)]
  exact foldl_keeps (fun p : State × Strand => p.2.bounce) _ State.readAcquire_bounce _ _

theorem State.acquire_joinw (s : State) (t : Strand) (n : Nat) : (s.acquire t n).2.joinw = t.joinw := by
  unfold State.acquire
  by_cases h : n < 2 <;> simp only [h, ↓reduceIte, Strand.setSg_joinw]
theorem State.readAcquire_joinw (p : State × Strand) (r : Nat) : (State.readAcquire p r).2.joinw = p.2.joinw := by
  unfold State.readAcquire
  split
  · rfl
  · simp only [Strand.setRc_joinw, State.acquire_joinw]
theorem State.readSources_joinw (s : State) (t : Strand) (srcs : List (Nat × Bool)) : (s.readSources t srcs).2.joinw = t.joinw := by
  unfold State.readSources
  rw [foldl_keeps Strand.joinw _ (fun t (c : Nat × Bool) => Strand.vacate_joinw t c.1)]
  exact foldl_keeps (fun p : State × Strand => p.2.joinw) _ State.readAcquire_joinw _ _

theorem State.acquire_cmap (s : State) (t : Strand) (n : Nat) : (s.acquire t n).2.cmap = t.cmap := by
  unfold State.acquire
  by_cases h : n < 2 <;> simp only [h, ↓reduceIte, Strand.setSg_cmap]
theorem State.readAcquire_cmap (p : State × Strand) (r : Nat) : (State.readAcquire p r).2.cmap = p.2.cmap := by
  unfold State.readAcquire
  split
  · rfl
  · simp only [Strand.setRc_cmap, State.acquire_cmap]
theorem State.readSources_cmap (s : State) (t : Strand) (srcs : List (Nat × Bool)) : (s.readSources t srcs).2.cmap = t.cmap := by
  unfold State.readSources
  rw [foldl_keeps Strand.cmap _ (fun t (c : Nat × Bool) => Strand.vacate_cmap t c.1)]
  exact foldl_keeps (fun p : State × Strand => p.2.cmap) _ State.readAcquire_cmap _ _

theorem State.acquire_status (s : State) (t : Strand) (n : Nat) : (s.acquire t n).2.status = t.status := by
  unfold State.acquire
  by_cases h : n < 2 <;> simp only [h, ↓reduceIte, Strand.setSg_status]
theorem State.readAcquire_status (p : State × Strand) (r : Nat) : (State.readAcquire p r).2.status = p.2.status := by
  unfold State.readAcquire
  split
  · rfl
  · simp only [Strand.setRc_status, State.acquire_status]
theorem State.readSources_status (s : State) (t : Strand) (srcs : List (Nat × Bool)) : (s.readSources t srcs).2.status = t.status := by
  unfold State.readSources
  rw [foldl_keeps Strand.status _ (fun t (c : Nat × Bool) => Strand.vacate_status t c.1)]
  exact foldl_keeps (fun p : State × Strand => p.2.status) _ State.readAcquire_status _ _

theorem State.acquire_loc (s : State) (t : Strand) (n : Nat) : (s.acquire t n).2.loc = t.loc := by
  unfold State.acquire
  by_cases h : n < 2 <;> simp only [h, ↓reduceIte, Strand.setSg_loc]
theorem State.readAcquire_loc (p : State × Strand) (r : Nat) : (State.readAcquire p r).2.loc = p.2.loc := by
  unfold State.readAcquire
  split
  · rfl
  · simp only [Strand.setRc_loc, State.acquire_loc]
theorem State.readSources_loc (s : State) (t : Strand) (srcs : List (Nat × Bool)) : (s.readSources t srcs).2.loc = t.loc := by
  unfold State.readSources
  rw [foldl_keeps Strand.loc _ (fun t (c : Nat × Bool) => Strand.vacate_loc t c.1)]
  exact foldl_keeps (fun p : State × Strand => p.2.loc) _ State.readAcquire_loc _ _

theorem State.acquire_img (s : State) (t : Strand) (n : Nat) : (s.acquire t n).2.img = t.img := by
  unfold State.acquire
  by_cases h : n < 2 <;> simp only [h, ↓reduceIte, Strand.setSg_img]
theorem State.readAcquire_img (p : State × Strand) (r : Nat) : (State.readAcquire p r).2.img = p.2.img := by
  unfold State.readAcquire
  split
  · rfl
  · simp only [Strand.setRc_img, State.acquire_img]
theorem State.readSources_img (s : State) (t : Strand) (srcs : List (Nat × Bool)) : (s.readSources t srcs).2.img = t.img := by
  unfold State.readSources
  rw [foldl_keeps Strand.img _ (fun t (c : Nat × Bool) => Strand.vacate_img t c.1)]
  exact foldl_keeps (fun p : State × Strand => p.2.img) _ State.readAcquire_img _ _

theorem State.acquire_phase (s : State) (t : Strand) (n : Nat) : (s.acquire t n).2.phase = t.phase := by
  unfold State.acquire
  by_cases h : n < 2 <;> simp only [h, ↓reduceIte, Strand.setSg_phase]
theorem State.readAcquire_phase (p : State × Strand) (r : Nat) : (State.readAcquire p r).2.phase = p.2.phase := by
  unfold State.readAcquire
  split
  · rfl
  · simp only [Strand.setRc_phase, State.acquire_phase]
theorem State.readSources_phase (s : State) (t : Strand) (srcs : List (Nat × Bool)) : (s.readSources t srcs).2.phase = t.phase := by
  unfold State.readSources
  rw [foldl_keeps Strand.phase _ (fun t (c : Nat × Bool) => Strand.vacate_phase t c.1)]
  exact foldl_keeps (fun p : State × Strand => p.2.phase) _ State.readAcquire_phase _ _

theorem State.acquire_regrow (s : State) (t : Strand) (n : Nat) : (s.acquire t n).2.regrow = t.regrow := by
  unfold State.acquire
  by_cases h : n < 2 <;> simp only [h, ↓reduceIte, Strand.setSg_regrow]
theorem State.readAcquire_regrow (p : State × Strand) (r : Nat) : (State.readAcquire p r).2.regrow = p.2.regrow := by
  unfold State.readAcquire
  split
  · rfl
  · simp only [Strand.setRc_regrow, State.acquire_regrow]
theorem State.readSources_regrow (s : State) (t : Strand) (srcs : List (Nat × Bool)) : (s.readSources t srcs).2.regrow = t.regrow := by
  unfold State.readSources
  rw [foldl_keeps Strand.regrow _ (fun t (c : Nat × Bool) => Strand.vacate_regrow t c.1)]
  exact foldl_keeps (fun p : State × Strand => p.2.regrow) _ State.readAcquire_regrow _ _

theorem State.acquire_ldaq (s : State) (t : Strand) (n : Nat) : (s.acquire t n).2.ldaq = t.ldaq := by
  unfold State.acquire
  by_cases h : n < 2 <;> simp only [h, ↓reduceIte, Strand.setSg_ldaq]
theorem State.readAcquire_ldaq (p : State × Strand) (r : Nat) : (State.readAcquire p r).2.ldaq = p.2.ldaq := by
  unfold State.readAcquire
  split
  · rfl
  · simp only [Strand.setRc_ldaq, State.acquire_ldaq]
theorem State.readSources_ldaq (s : State) (t : Strand) (srcs : List (Nat × Bool)) : (s.readSources t srcs).2.ldaq = t.ldaq := by
  unfold State.readSources
  rw [foldl_keeps Strand.ldaq _ (fun t (c : Nat × Bool) => Strand.vacate_ldaq t c.1)]
  exact foldl_keeps (fun p : State × Strand => p.2.ldaq) _ State.readAcquire_ldaq _ _

/-- The strand whose turn it is, its prefix and its deferred load as an instruction without operand limits wants them. -/
theorem State.issue_no_strand {s : State} (h : s.cur.bind s.strand? = none) (word len : Nat) (acc : Accepts)
    (pre : State → Strand → Option Trip) (srcs : Strand → List (Nat × Bool)) (waits : List Nat) (body : Turn → State) :
    s.issue word len acc pre srcs waits body = .next s := by
  simp only [State.issue, h]

theorem State.issue_prefix {s : State} {st : Strand} {word len : Nat} {acc : Accepts}
    {pre : State → Strand → Option Trip} {srcs : Strand → List (Nat × Bool)} {waits : List Nat} {body : Turn → State} {t : Trip}
    (h : s.cur.bind s.strand? = some st) (hp : prefixTrip acc st word = some t) :
    s.issue word len acc pre srcs waits body = .next (s.trap st t) := by
  simp only [State.issue, h, hp]

theorem State.issue_limit {s : State} {st : Strand} {word len : Nat} {acc : Accepts}
    {pre : State → Strand → Option Trip} {srcs : Strand → List (Nat × Bool)} {waits : List Nat} {body : Turn → State} {t : Trip}
    (h : s.cur.bind s.strand? = some st) (hp : prefixTrip acc st word = none) (hl : pre s st = some t) :
    s.issue word len acc pre srcs waits body = .next (s.trap st t) := by
  simp only [State.issue, h, hp, hl]

theorem State.issue_park {s : State} {st : Strand} {word len : Nat} {acc : Accepts}
    {pre : State → Strand → Option Trip} {srcs : Strand → List (Nat × Bool)} {waits : List Nat} {body : Turn → State} {r : Nat}
    (h : s.cur.bind s.strand? = some st) (hp : prefixTrip acc st word = none) (hl : pre s st = none)
    (hn : st.firstNot ((srcs st).map (·.1) ++ waits) = some r) :
    s.issue word len acc pre srcs waits body = .next (s.park st 1 r) := by
  simp only [State.issue, h, hp, hl, hn]

theorem State.issue_cut {s : State} {st : Strand} {word len : Nat} {acc : Accepts}
    {pre : State → Strand → Option Trip} {srcs : Strand → List (Nat × Bool)} {waits : List Nat} {body : Turn → State} {r : Nat}
    (h : s.cur.bind s.strand? = some st) (hp : prefixTrip acc st word = none) (hl : pre s st = none)
    (hn : st.firstNot ((srcs st).map (·.1) ++ waits) = none) (hc : st.firstCut ((srcs st).map (·.1) ++ waits) = some r) :
    s.issue word len acc pre srcs waits body = .next (s.replayStep st r) := by
  simp only [State.issue, h, hp, hl, hn, hc]

theorem State.issue_loss {s : State} {st : Strand} {word len : Nat} {acc : Accepts}
    {pre : State → Strand → Option Trip} {srcs : Strand → List (Nat × Bool)} {waits : List Nat} {body : Turn → State} {l : Loss}
    (h : s.cur.bind s.strand? = some st) (hp : prefixTrip acc st word = none) (hl : pre s st = none)
    (hn : st.firstNot ((srcs st).map (·.1) ++ waits) = none) (hc : st.firstCut ((srcs st).map (·.1) ++ waits) = none)
    (ho : st.firstLoss ((srcs st).map (·.1)) = some l) :
    s.issue word len acc pre srcs waits body = .next (s.trap st ⟨9, l.g2, l.g4⟩) := by
  simp only [State.issue, h, hp, hl, hn, hc, ho]

theorem State.issue_body {s : State} {st : Strand} {word len : Nat} {acc : Accepts}
    {pre : State → Strand → Option Trip} {srcs : Strand → List (Nat × Bool)} {waits : List Nat} {body : Turn → State}
    (h : s.cur.bind s.strand? = some st) (hp : prefixTrip acc st word = none) (hl : pre s st = none)
    (hn : st.firstNot ((srcs st).map (·.1) ++ waits) = none) (hc : st.firstCut ((srcs st).map (·.1) ++ waits) = none)
    (ho : st.firstLoss ((srcs st).map (·.1)) = none)
    (hx : st.parityAt ((srcs st).map (·.1)) (if st.xpar = 0 then [] else xReadsWord word) = false) :
    s.issue word len acc pre srcs waits body =
      .next (body ⟨s, st, (s.readSources st (srcs st)).1, (s.readSources st (srcs st)).2, len⟩) := by
  simp only [State.issue, h, hp, hl, hn, hc, ho, hx, Bool.false_eq_true, ↓reduceIte]

theorem State.issue_parity {s : State} {st : Strand} {word len : Nat} {acc : Accepts}
    {pre : State → Strand → Option Trip} {srcs : Strand → List (Nat × Bool)} {waits : List Nat} {body : Turn → State}
    (h : s.cur.bind s.strand? = some st) (hp : prefixTrip acc st word = none) (hl : pre s st = none)
    (hn : st.firstNot ((srcs st).map (·.1) ++ waits) = none) (hc : st.firstCut ((srcs st).map (·.1) ++ waits) = none)
    (ho : st.firstLoss ((srcs st).map (·.1)) = none)
    (hx : st.parityAt ((srcs st).map (·.1)) (if st.xpar = 0 then [] else xReadsWord word) = true) :
    s.issue word len acc pre srcs waits body = .next (s.parityTrap st) := by
  simp only [State.issue, h, hp, hl, hn, hc, ho, hx, ↓reduceIte]

/-- No parity error stops an issue: no x register has one, and no register of the list. -/
theorem Strand.parityAt_none {st : Strand} {l : List Nat} {word : Nat} (hx : st.xpar = 0) (h : ∀ r ∈ l, (st.rc r).par = false) :
    st.parityAt l (if st.xpar = 0 then [] else xReadsWord word) = false := by
  simp only [hx, ↓reduceIte, Strand.parityAt, List.any_nil, Bool.or_false]
  exact List.any_eq_false.mpr (fun r hr => by rw [h r hr]; decide)

/-- No register of the list stops an issue: each is Full and carries no DataLoss. -/
theorem Strand.first_none {st : Strand} {l : List Nat} (h : ∀ r ∈ l, (st.rc r).st = .full ∧ (st.rc r).loss = none) :
    st.firstNot l = none ∧ st.firstCut l = none ∧ st.firstLoss l = none := by
  refine ⟨?_, ?_, ?_⟩
  · exact List.find?_eq_none.mpr (fun r hr => by rw [(h r hr).1]; decide)
  · exact List.find?_eq_none.mpr (fun r hr => by rw [(h r hr).1]; decide)
  · unfold Strand.firstLoss
    rw [List.filterMap_eq_nil_iff.mpr (fun r hr => (h r hr).2)]
    rfl

/-- An instruction that accepts no prefix and has no limit, with no prefix pending and its sources Full: its body runs. -/
theorem State.plain_body {s : State} {st : Strand} {word len : Nat} {srcs : List (Nat × Bool)} {body : Turn → State}
    (hc : s.cur = some st.handle) (hs : s.strand? st.handle = some st) (hp : st.pp = false) (hx : st.xpar = 0)
    (hr : ∀ r ∈ srcs.map (·.1), (st.rc r).st = .full ∧ (st.rc r).loss = none ∧ (st.rc r).par = false) :
    s.plain word len srcs body =
      .next (body ⟨s, st, (s.readSources st srcs).1, (s.readSources st srcs).2, len⟩) := by
  have hf := Strand.first_none (fun r h => ⟨(hr r h).1, (hr r h).2.1⟩)
  exact State.issue_body (srcs := fun _ => srcs) (waits := []) (by simp [hc, hs]) (by simp [prefixTrip, hp]) rfl
    (by simpa using hf.1) (by simpa using hf.2.1) (by simpa using hf.2.2) (Strand.parityAt_none hx (fun r h => (hr r h).2.2))

end Sys2Proof.Machine
end

