-- ==== Sys2Proof/Tests/Slice0.lean ====
section
/-! SUPPORT. Tests: the smoke test of WellFormed, decodings of words written out in the spec, single steps with results worked out from the spec, and
for each statement with hypotheses states and operands that meet them, clause by clause. -/

namespace Sys2Proof.Tests

open Sys2Proof Sys2Proof.Machine

set_option maxRecDepth 20000
set_option exponentiation.threshold 1100

/-! ### WellFormed: an ill-formed term for each check -/

theorem test_wf_accepts : (Instr.bfx 1 ⟨2, false⟩ 0 63).wf = true ∧ (Instr.vcvt 0 1 ⟨2, false⟩ 3).wf = true ∧
    (Instr.fence 0 11).wf = true ∧ (Instr.ldn ⟨1, false⟩ ⟨2, false⟩ 2 0).wf = true := by decide
/-- A step of another agent has no encoding. -/
theorem test_wf_refuses_event : (Instr.powerMeasure 0 1).wf = false := by decide
theorem test_wf_refuses_ldn_of_a_dword : (Instr.ldn ⟨1, false⟩ ⟨2, false⟩ 3 0).wf = false := by decide
theorem test_wf_refuses_scope_12 : (Instr.fence 0 12).wf = false ∧ (Instr.pfence 0 12).wf = false ∧ (Instr.xfence 0 15).wf = false ∧
    (Instr.ldaq ⟨1, false⟩ ⟨2, false⟩ 12 3 0).wf = false ∧ (Instr.strl ⟨1, false⟩ ⟨2, false⟩ 12 3 0).wf = false := by decide
theorem test_wf_refuses_fs_3 : (Instr.fadd 3 1 ⟨2, false⟩ ⟨3, false⟩).wf = false ∧ (Instr.vexp2 3 1 ⟨2, false⟩).wf = false ∧
    (Instr.vminp 3 1 ⟨2, false⟩ ⟨3, false⟩).wf = false ∧ (Instr.venc 3 1 ⟨2, false⟩).wf = false := by decide
theorem test_wf_refuses_vcvt_4 : (Instr.vcvt 0 1 ⟨2, false⟩ 4).wf = false := by decide

/-! ### Decoding: words of the spec's encoding tables and examples -/

/-- Integer: spec/14 R283, spec/15 R307. -/
theorem test_decode_integer : decode32 0x0006A283 = .ok (.add 5 ⟨4, true⟩ ⟨6, false⟩) ∧ decode32 0x5C041A83 = .ok (.sltn 5 ⟨3, false⟩ ⟨4, false⟩) ∧
    decode32 0x00800113 = .ok (.li 2 4096) ∧ decode32 0x0008830B = .ok (.lui 6 0x110) ∧ decode32 0x00723307 = .ok (.ori 6 ⟨6, false⟩ 7) := by decide
/-- 16-bit forms: spec/14 R283, spec/15 R307, spec/16 R343, spec/18 R371. -/
theorem test_decode_half : decode16 0x4204 = .ok (.addi16 1 8) ∧ decode16 0x5164 = .ok (.li16 9 5) ∧ decode16 0x2140 = .ok (.add16 0 5) ∧
    decode16 0x8294 = .ok (.ldD16 5 10 0) ∧ decode16 0xFE94 = .ok (.bnez16 5 0x7A) ∧ decode16 0xF8C2 = .fmt 3 0 ∧ decode16 0xF906 = .fmt 4 1 := by decide
/-- Control: spec/15 R307. -/
theorem test_decode_control : decode32 0xFF9D0107 = .ok (.loop 2 0xFF9) ∧ decode32 0x000C7F87 = .ok (.jalr 15 ⟨15, false⟩ 0) ∧
    decode32 0x000E0007 = .ok .nop := by decide
/-- Memory: spec/13 R265, spec/14 R283, spec/16 R343, spec/19, spec/20, spec/21, spec/22. -/
theorem test_decode_memory : decode32 0x01361A27 = .ok (.ldaq ⟨4, false⟩ ⟨3, false⟩ 6 3 2) ∧ decode32 0x04061B1F = .ok (.ld ⟨6, false⟩ ⟨3, false⟩ 3 8) ∧
    decode32 0x200A1A1F = .ok (.ldn ⟨4, false⟩ ⟨3, false⟩ 1 64) ∧ decode32 0x20121A23 = .ok (.stp ⟨4, false⟩ ⟨3, false⟩ 1 64) ∧
    decode32 0x003E0A2B = .ok (.strl ⟨4, false⟩ ⟨1, false⟩ 7 3 0) ∧ decode32 0x00062233 = .ok (.upd ⟨4, false⟩ ⟨4, false⟩ 0) ∧
    decode32 0x0018181F = .ok (.vld ⟨0, false⟩ ⟨3, false⟩ 0) ∧ decode32 0x00183833 = .ok (.rake ⟨7, false⟩ 0) ∧
    decode32 0x05800037 = .ok (.pfence 0 6) ∧ decode32 0x004E0A2F = .ok (.amocas ⟨4, false⟩ ⟨1, false⟩ 0) := by decide
/-- Float and wide: spec/17 R349, R354, R357, R360, spec/21. -/
theorem test_decode_float : decode32 0x44C521BB = .ok (.ffma 1 3 ⟨4, false⟩ ⟨5, false⟩ ⟨6, false⟩) ∧ decode32 0x5000063F = .ok (.vsum 0 4 ⟨1, false⟩) ∧
    decode32 0x700009BF = .ok (.vcomp 0 3 ⟨2, false⟩) ∧ decode32 0x0804223B = .ok (.fadd 2 4 ⟨4, false⟩ ⟨4, false⟩) ∧
    decode32 0x7500053F = .ok (.vdec 1 2 ⟨1, false⟩) ∧ decode32 0x1C030043 = .ok (.vtld ⟨6, false⟩) := by decide
/-- Tasks, hedges and system: spec/18 R361, R371, R378, R380, spec/15 R314, R315, spec/20, spec/22. -/
theorem test_decode_system : decode32 0x040044C7 = .ok (.ctask 9 ⟨8, false⟩) ∧ decode32 0x11020847 = .ok (.harm 4 ⟨1, false⟩ ⟨2, false⟩) ∧
    decode32 0x14C00347 = .ok (.harr 6 3) ∧ decode32 0x18C033C7 = .ok (.hwait 7 ⟨6, false⟩ 3) ∧ decode32 0x000D1F47 = .ok (.mtask 14 ⟨3, false⟩ ⟨13, false⟩) ∧
    decode32 0x08002AC7 = .ok (.taskw 5 ⟨5, false⟩) ∧ decode32 0x0004024B = .ok (.srd 4 4) ∧ decode32 0x004002CB = .ok (.srd 5 16) ∧
    decode32 0x0800284B = .ok (.trap 5) ∧ decode32 0x0C00184B = .ok (.resume ⟨3, false⟩) ∧ decode32 0x1000184B = .ok (.kill ⟨3, false⟩) ∧
    decode32 0x0D20284F = .ok (.cut 5 9) ∧ decode32 0x1C0027CF = .ok (.xget 15 4) ∧ decode32 0x00210053 = .ok (.xli 0 0x840) ∧
    decode32 0x0C000047 = .ok (.waitc 0) ∧ decode32 0x24000047 = .ok .exit ∧ decode32 0x0800104F = .ok (.waitf 2) := by decide
/-- Spec/14 R283: parcels and words that name no instruction. -/
theorem test_decode_refuses : decode16 0x0000 = .illegal ∧ decode16 0x6002 = .illegal ∧ decode16 0xFC02 = .illegal ∧
    decode16 0xE006 = .reserved ∧ decode32 0xFFFFFFFF = .illegal := by decide

/-! ### Small states -/

/-- A strand at address 0 in slot 0 of core 0 of column 0 of tile 0, Ready, every register zero and Full. -/
def st0 : Strand := { newStrand 77 0 (gInit []) 3 5 0 0 ⟨0, 0, 0, 0⟩ 0 .fresh with status := .ready }
/-- The same with some g registers. -/
def stG (l : List (GReg × Word)) : Strand := l.foldl (fun t p => t.setG p.1 p.2) st0
/-- The same with some w registers. -/
def stW (l : List (WReg × Wide)) : Strand := l.foldl (fun t p => t.setW p.1 p.2) st0
/-- A strand with register code r in a state. -/
def stR (t : Strand) (r : Nat) (c : RegCtl) : Strand := { t with ctl := t.ctl.setIfInBounds r c }
/-- The machine after reset with one strand, whose instruction issues. -/
def on (t : Strand) : State := ({ State.reset with cur := some t.handle }).putStrand t
/-- The strand after an instruction on it alone. -/
def after (i : Instr) (t : Strand) : Strand :=
  match exec i (on t) with
  | .next s => (s.strand? t.handle).getD t
  | _ => t

/-! ### Single steps: results worked out from the spec -/

/-- Spec/15 R307, the example's third pass: BFXN of bits 19 to 12 of 0x80FFF. -/
theorem test_step_bfxn : (after (.bfxn 5 ⟨4, false⟩ 12 7) (stG [(4, 0x80FFF)])).g.toList[5]? = some 0x80 := by decide
theorem test_step_sltn : (after (.sltn 5 ⟨3, false⟩ ⟨4, false⟩) (stG [(3, 0x40), (4, 0x80)])).g.toList[5]? = some 1 := by decide
/-- LOOP at 1 leaves 0 and does not transfer. -/
theorem test_step_loop_ends : (after (.loop 2 0xFF9) (stG [(2, 1)])).g.toList[2]? = some 0 ∧
    (after (.loop 2 0xFF9) (stG [(2, 1)])).pc = 4 := by decide
/-- LOOP at 0 changes nothing but the PC. -/
theorem test_step_loop_zero : (after (.loop 2 0xFF9) (stG [(2, 0)])).g.toList[2]? = some 0 := by decide
/-- Division by zero gives all ones, and the remainder the dividend (R294). -/
theorem test_step_div_by_zero : (after (.div 5 ⟨3, false⟩ ⟨4, false⟩) (stG [(3, 7)])).g.toList[5]? = some (BitVec.allOnes 64) ∧
    (after (.rem 5 ⟨3, false⟩ ⟨4, false⟩) (stG [(3, 7)])).g.toList[5]? = some 7 := by decide
/-- A taken source that is also the destination is Full again. -/
theorem test_step_take_and_write : (after (.add 3 ⟨3, true⟩ ⟨4, true⟩) (stG [(3, 7), (4, 5)])).g.toList[3]? = some 12 ∧
    ((after (.add 3 ⟨3, true⟩ ⟨4, true⟩) (stG [(3, 7), (4, 5)])).rc 3).st = .full ∧
    ((after (.add 3 ⟨3, true⟩ ⟨4, true⟩) (stG [(3, 7), (4, 5)])).rc 4).st = .empty := by decide
/-- FFMA.f16 of 0x3C01, 0x3C01 and -1 gives 0x1800 with NX (R349). -/
theorem test_step_ffma : (after (.ffma 1 3 ⟨4, false⟩ ⟨5, false⟩ ⟨6, false⟩) (stG [(4, 0x3C01), (5, 0x3C01), (6, 0xBC00)])).g.toList[3]?
      = some 0x1800 ∧
    (after (.ffma 1 3 ⟨4, false⟩ ⟨5, false⟩ ⟨6, false⟩) (stG [(4, 0x3C01), (5, 0x3C01), (6, 0xBC00)])).ss = 8 := by decide
/-- VSUM.f32 of 2^24, 1, 1, -2^24 and four zeros gives 1 with NX (R354, R360). -/
theorem test_step_vsum : (after (.vsum 0 4 ⟨1, false⟩) (stW [(1, 0xCB8000003F8000003F8000004B800000)])).w.toList[4]? = some 0x3F800000 ∧
    (after (.vsum 0 4 ⟨1, false⟩) (stW [(1, 0xCB8000003F8000003F8000004B800000)])).ss = 8 := by decide

/-! ### Witnesses: states and operands that meet the hypotheses of the statements, clause by clause -/

/-- st0 issues with nothing in its way. -/
theorem test_wit_issues : Said.Issues (on st0) st0 [] ∧ Said.Issues (on st0) st0 [3, 4, 16, 23] ∧ Said.IssuesAnyhow (on st0) st0 := by
  unfold Said.Issues Said.IssuesAnyhow; decide
theorem test_wit_IntegerInstructionsWriteTheirResult :
    (∃ r, Said.arith (.add 15 ⟨0, true⟩ ⟨15, false⟩) st0 = some r ∧ Said.Issues (on st0) st0 (r.srcs.map (·.1))) ∧
    (∃ r, Said.arith (.rotl16 0 9) st0 = some r ∧ Said.Issues (on st0) st0 (r.srcs.map (·.1))) ∧
    (∃ r, Said.bitwise (.bfx 5 ⟨4, false⟩ 0 63) st0 = some r ∧ Said.Issues (on st0) st0 (r.srcs.map (·.1))) ∧
    (∃ r, Said.bitwise (.bfi 5 ⟨4, false⟩ 63 0) st0 = some r ∧ Said.Issues (on st0) st0 (r.srcs.map (·.1))) ∧
    (64 ≤ (1 : BitVec 6).toNat + (63 : BitVec 6).toNat ∧ Said.Issues (on st0) st0 []) := by
  refine ⟨⟨_, rfl, ?_⟩, ⟨_, rfl, ?_⟩, ⟨_, rfl, ?_⟩, ⟨_, rfl, ?_⟩, ?_⟩ <;> unfold Said.Issues <;> decide
/-- Clause by clause: no transfer; an even target, 2^56 - 2; an odd one; 2^56. -/
theorem test_wit_TransferGoesToTarget :
    (∃ x, Said.transfer (.beq ⟨3, false⟩ ⟨4, false⟩ 8) (stG [(3, 1)]) = some x ∧ x.target = none ∧
      Said.Issues (on (stG [(3, 1)])) (stG [(3, 1)]) (x.srcs.map (·.1))) ∧
    (∃ x, Said.transfer (.jalr 15 ⟨3, false⟩ 0) (stG [(3, 0xFFFFFFFFFFFFFE)]) = some x ∧ x.target = some 0xFFFFFFFFFFFFFE ∧
      Said.Issues (on (stG [(3, 0xFFFFFFFFFFFFFE)])) (stG [(3, 0xFFFFFFFFFFFFFE)]) (x.srcs.map (·.1))) ∧
    (∃ x, Said.transfer (.jalr 15 ⟨3, false⟩ 1) (stG [(3, 0xFFFFFFFFFFFFFE)]) = some x ∧ x.target = some 0xFFFFFFFFFFFFFF ∧
      Said.Issues (on (stG [(3, 0xFFFFFFFFFFFFFE)])) (stG [(3, 0xFFFFFFFFFFFFFE)]) (x.srcs.map (·.1))) ∧
    (∃ x, Said.transfer (.jalr 15 ⟨3, false⟩ 2) (stG [(3, 0xFFFFFFFFFFFFFE)]) = some x ∧ x.target = some 0x100000000000000 ∧
      Said.Issues (on (stG [(3, 0xFFFFFFFFFFFFFE)])) (stG [(3, 0xFFFFFFFFFFFFFE)]) (x.srcs.map (·.1))) ∧
    (∃ x, Said.transfer (.loop 2 0xFF9) (stG [(2, 1)]) = some x ∧ x.target = none ∧
      Said.Issues (on (stG [(2, 1)])) (stG [(2, 1)]) (x.srcs.map (·.1))) ∧
    (∃ x, Said.transfer (.j 0x80000) st0 = some x ∧ x.target = some 0xFFFFFFFFFFF00000 ∧
      Said.Issues (on st0) st0 (x.srcs.map (·.1))) := by
  refine ⟨⟨_, rfl, ?_, ?_⟩, ⟨_, rfl, ?_, ?_⟩, ⟨_, rfl, ?_, ?_⟩, ⟨_, rfl, ?_, ?_⟩, ⟨_, rfl, ?_, ?_⟩, ⟨_, rfl, ?_, ?_⟩⟩ <;>
    (try unfold Said.Issues) <;> decide
theorem test_wit_NopChangesOnlyPc : (0 < 2 ^ 9 ∧ 1 < 2 ^ 12 ∧ 0 + 1 ≠ 0) ∧ (511 < 2 ^ 9 ∧ 0 < 2 ^ 12 ∧ 511 + 0 ≠ 0) ∧
    (0 < 1 ∧ 255 < 2 ^ 8) ∧ Said.Issues (on st0) st0 [] := by
  unfold Said.Issues; decide
/-- Register 3 Awaiting, register 4 Empty, 5 Cut, 6 Full with a DataLoss. -/
def stHeld : Strand := stR (stR (stR (stR st0 3 { st0.rc 3 with st := .awaiting, owed := 1 }) 4 { st0.rc 4 with st := .empty }) 5
  { st0.rc 5 with st := .cut }) 6 { st0.rc 6 with loss := some ⟨1, 2⟩ }
/-- The first source that holds; a Cut after a Full one; a DataLoss last. -/
theorem test_wit_UnreadySourceHoldsIssue :
    Said.IssuesAnyhow (on stHeld) stHeld ∧
    (Said.sources (.add 1 ⟨5, true⟩ ⟨4, true⟩) stHeld = some ([(5, true)] ++ (4, true) :: []) ∧ (stHeld.rc 5).st = .cut ∧
      (stHeld.rc 4).st = .empty) ∧
    (Said.sources (.madd 1 ⟨3, false⟩ ⟨4, false⟩ ⟨5, false⟩) stHeld = some ([] ++ (3, false) :: [(4, false), (5, false)]) ∧
      (stHeld.rc 3).st = .awaiting) ∧
    (Said.sources (.add 1 ⟨6, true⟩ ⟨5, true⟩) stHeld = some ([(6, true)] ++ (5, true) :: []) ∧ (stHeld.rc 6).st = .full ∧
      (stHeld.rc 5).st = .cut) ∧
    (Said.sources (.add 1 ⟨7, true⟩ ⟨6, true⟩) stHeld = some ([(7, true)] ++ (6, true) :: []) ∧ (stHeld.rc 7).st = .full ∧
      (stHeld.rc 7).loss = none ∧ (stHeld.rc 6).st = .full ∧ (stHeld.rc 6).loss = some ⟨1, 2⟩) := by
  unfold Said.IssuesAnyhow; decide
/-- An acquire of scope code 2 on register 23; AG one below its limit is 65534. -/
theorem test_wit_ReadsTakeAndAcquire :
    ((∀ c ∈ [(3, true), (23, false)], (st0.rc c.1).acq = none) ∧ (∀ c ∈ [(3, true), (23, false)], c.1 < 24)) ∧
    (let t := stR st0 23 { st0.rc 23 with acq := some 2 }
     (t.rc 23).acq = some 2 ∧ 2 ≤ (2 : BitVec 4).toNat ∧ ((on t).tile t.loc.tile).ag + 1 < 65536) ∧
    (let t := stR st0 0 { st0.rc 0 with acq := some 11 }
     let s := (on t).putTile 0 { (on t).tile 0 with ag := 65534 }
     (t.rc 0).acq = some 11 ∧ 4 ≤ (11 : BitVec 4).toNat ∧ (s.tile t.loc.tile).ag + 1 < 65536) := by decide
theorem test_wit_WritesAndFillsMakeFull :
    ((stHeld.rc (3 : GReg).toNat).st = .awaiting ∧ (stHeld.rc (3 : GReg).toNat).tag = 0) ∧
    (3 < 24 ∧ (stHeld.rc 3).tag ≠ 1) ∧ (23 < 24 ∧ (stHeld.rc 23).st ≠ .awaiting) := by decide
/-- A prefix pending for formats 3 and 0. -/
def stFmt (a b : BitVec 4) : Strand := { st0 with ss := 0x100#64 ||| (a.zeroExtend 64 <<< 9) ||| (b.zeroExtend 64 <<< 13) }
theorem test_wit_PrefixesAndFormatLimits :
    ((Instr.add 1 ⟨2, false⟩ ⟨3, false⟩).encoded = true ∧ (on (stFmt 3 0)).cur = some (stFmt 3 0).handle ∧
      (on (stFmt 3 0)).strand? (stFmt 3 0).handle = some (stFmt 3 0) ∧ (stFmt 3 0).pp = true ∧
      Said.prefixTaken (.add 1 ⟨2, false⟩ ⟨3, false⟩) (stFmt 3 0) = false) ∧
    (Said.prefixTaken (.fadd 1 1 ⟨2, false⟩ ⟨3, false⟩) (stFmt 3 0) = false ∧
      Said.prefixTaken (.fadd 0 1 ⟨2, false⟩ ⟨3, false⟩) (stFmt 6 0) = false) ∧
    Said.Issues (on st0) st0 [] ∧ 5 < (6 : BitVec 4).toNat ∧ (7 : BitVec 4).toNat < 8 ∧
    256 / Said.widthOf st0 64 ≤ (4 : BitVec 4).toNat ∧ Said.IssuesFmt (.vins 1 ⟨2, false⟩ ⟨3, false⟩ 4) (on st0) st0 [] ∧
    Said.IssuesFmt (.vext 1 ⟨2, false⟩ 15) (on (stFmt 0 0)) (stFmt 0 0) [] ∧
    256 / Said.widthOf (stFmt 0 0) 64 ≤ (8 : BitVec 4).toNat := by
  unfold Said.Issues Said.IssuesFmt; decide
theorem test_wit_ScalarFloatWritesResult :
    (∃ e, Said.scalar (.fadd 2 1 ⟨2, true⟩ ⟨3, false⟩) st0 = some e ∧ (Instr.fadd 2 1 ⟨2, true⟩ ⟨3, false⟩).fieldsOk = true ∧
      Said.IssuesFmt (.fadd 2 1 ⟨2, true⟩ ⟨3, false⟩) (on st0) st0 (e.srcs.map (·.1))) ∧
    (∃ e, Said.scalar (.fcvti 0 1 ⟨2, false⟩ 0) (stFmt 5 15) = some e ∧ (Instr.fcvti 0 1 ⟨2, false⟩ 0).fieldsOk = true ∧
      Said.IssuesFmt (.fcvti 0 1 ⟨2, false⟩ 0) (on (stFmt 5 15)) (stFmt 5 15) (e.srcs.map (·.1))) := by
  refine ⟨⟨_, rfl, ?_⟩, ⟨_, rfl, ?_⟩⟩ <;> unfold Said.IssuesFmt <;> decide
theorem test_wit_WideInstructionWritesLanes :
    (∃ e, Said.wide (.vext 1 ⟨2, true⟩ 3) ((on st0).core st0.coreKey) st0 = some e ∧ (Instr.vext 1 ⟨2, true⟩ 3).fieldsOk = true ∧
      Said.IssuesFmt (.vext 1 ⟨2, true⟩ 3) (on st0) st0 (e.srcs.map (·.1))) ∧
    (∃ e, Said.wide (.vdot 0 1 ⟨2, false⟩ ⟨7, true⟩) ((on (stFmt 6 0)).core st0.coreKey) (stFmt 6 0) = some e ∧
      (Instr.vdot 0 1 ⟨2, false⟩ ⟨7, true⟩).fieldsOk = true ∧
      Said.IssuesFmt (.vdot 0 1 ⟨2, false⟩ ⟨7, true⟩) (on (stFmt 6 0)) (stFmt 6 0) (e.srcs.map (·.1))) := by
  refine ⟨⟨_, rfl, ?_⟩, ⟨_, rfl, ?_⟩⟩ <;> unfold Said.IssuesFmt <;> decide
/-- The largest finite FP16 value, and twice it. -/
theorem test_wit_RoundingIsCorrect : fp16 ∈ Said.formats ∧ (4 : Nat) < 5 ∧
    Said.abs (Said.rat ⟨true, 65504, 0⟩) ≤ Said.largest fp16 ∧ 2 * Said.largest fp16 ≤ Said.abs (Said.rat ⟨true, 65504, 1⟩) := by
  decide +kernel
/-- The quotient 448 of E4M3 operands is the largest finite value. -/
theorem test_wit_ExactArithmetic : e4m3 ∈ Said.formats ∧ (448 : Nat) ≠ 0 ∧
    Said.abs (Said.rat ⟨false, 448, 0⟩ / Said.rat ⟨true, 1, 0⟩) ≤ Said.largest e4m3 := by decide +kernel
/-- Between the largest finite value and twice it: one that exceeds it, and one that does not; a tiny value. -/
theorem test_wit_RoundingIsCorrect_more :
    (Said.largest fp16 < Said.abs (Said.rat ⟨false, 65520, 0⟩) ∧ Said.exceeds fp16 0 false (Said.rat ⟨false, 65520, 0⟩)) ∧
    (Said.largest fp16 < Said.abs (Said.rat ⟨false, 65519, 0⟩) ∧ ¬ Said.exceeds fp16 0 false (Said.rat ⟨false, 65519, 0⟩)) ∧
    (Said.abs (Said.rat ⟨false, 1, -26⟩) ≤ Said.largest fp16 ∧ Said.tiny fp16 0 false (Said.rat ⟨false, 1, -26⟩)) := by
  unfold Said.exceeds Said.tiny; decide +kernel
/-- A layout and codes of an infinity, of NaNs of both kinds, of a subnormal and of a normal value; a root within range; an integer format. -/
theorem test_wit_ExactArithmetic_more :
    ((fp16, 5, 10, true, true) ∈ Said.layouts ∧ 1 < 2 ∧ 31 < 2 ^ 5 ∧ 1023 < 2 ^ 10 ∧ ¬ (2 ^ 9 ≤ 1) ∧ 2 ^ 9 ≤ 1023) ∧
    (fp16.ieee = true ∧ fp16.nan = true ∧ (⟨false, 9, 0⟩ : Dy).man ≠ 0 ∧ Said.rat ⟨false, 9, 0⟩ ≤ Said.largest fp16 * Said.largest fp16) ∧
    ((fp16.value 0x7C01).isSnan = true ∧ fp16.value 0x7E00 = .nan false ∧ (fp16.value 0).isNan = false) ∧
    (e2m1 ∈ Said.formats ∧ (8 : Nat) ≤ 15 ∧ 15 < 16) ∧
    (Said.intRounds 0 (Said.rat ⟨false, 5, 3⟩) 40 ∧ Said.greatest 8 < 128 ∧ -129 < Said.least 8 ∧ Said.least 8 ≤ 40 ∧ 40 ≤ Said.greatest 8) := by
  unfold Said.intRounds; decide +kernel

/-- A machine on which the strand issues, with bed 0 in its core's bed cache and a translation of its first block at column 0. -/
def withBed (t : Strand) (b : Bed) : State :=
  let s := on t
  let s := s.putCore t.coreKey { s.core t.coreKey with bedCache := [⟨t.asid, 0, b⟩] }
  let s := s.putTile 0 { s.tile 0 with bedTables := [(t.asid.toNat, ⟨1, 0, [(0, b)]⟩)] }
  s.putCol 0 { s.col 0 with tlb := [⟨t.asid, 0, 65536, 0, false, true⟩] }
/-- A local bed of column 0 of tile 0: 64 KiB at address 0, every right. -/
def bedHere : Bed := wordBed
def bedThere : Bed := { wordBed with colm := 5 }
def bedCopies : Bed := { wordBed with kind := .replicated, log2g := 12, trows := 1, tcols := 2 }

/-- A Cut register with an attachment, an unattached one, one Awaiting. -/
def stCmap : Strand :=
  { stR (stR st0 3 { st0.rc 3 with st := .cut }) 4 { st0.rc 4 with st := .awaiting, owed := 1 } with
    cmap := #v[⟨3, 0⟩, ⟨31, 0⟩, ⟨23, 1⟩, ⟨31, 0⟩, ⟨31, 0⟩, ⟨31, 0⟩, ⟨31, 0⟩, ⟨31, 0⟩] }
theorem test_wit_RegisterStateInstructionsActAsStated :
    (3 < 24 ∧ 23 < 24 ∧ 4 < 24 ∧ Said.Issues (on stCmap) stCmap [] ∧ Said.attachedTo stCmap 3 = true ∧ Said.attachedTo stCmap 4 = false) ∧
    (Said.IssuesAnyhow (on stCmap) stCmap ∧ (stCmap.rc 23).loss = none ∧ (stCmap.rc 23).st = .full ∧ (stCmap.rc 4).loss = none ∧
      (stCmap.rc 4).st = .awaiting ∧ (stCmap.rc 3).loss = none ∧ (stCmap.rc 3).st = .cut) ∧
    ((stCmap.rc 4).st ≠ .cut ∧ (stCmap.rc 3).st = .cut) := by
  unfold Said.Issues Said.IssuesAnyhow; decide
theorem test_wit_ExtensionRegistersMove : Said.Issues (on st0) st0 [(⟨4, true⟩ : GSrc).reg.toNat] ∧ Said.Issues (on st0) st0 [] ∧
    (1 < 2 ∧ 0 < 2 ^ 10 ∧ 1 + 0 ≠ 0) ∧ (0 < 2 ∧ 1023 < 2 ^ 10 ∧ 0 + 1023 ≠ 0) ∧ (3 < 4 ∧ 0 < 2 ^ 10 ∧ 3 + 0 ≠ 0) := by
  unfold Said.Issues; decide
/-- A launch record of one task, and a job of it on tile 0, Running. -/
def lrec0 : LaunchRec := ⟨1, 0, 0, 0, 0, 5, 1, 0, 15, 0, 0, 1, 1, 0, 1, 2, 0, [], [⟨0, 0, 1⟩], []⟩
def job0 : Job := ⟨3, lrec0, ⟨1, 0, [(0, wordBed)]⟩, ⟨2, 0, [⟨0, []⟩, ⟨16, []⟩]⟩, some 9, 0, 0, 7, false, .running, [], [], true, 0, 0, 0, [0], 0, [0], 0, [],
  [], [], false, false⟩
/-- A machine with the strand, its job and the job's tables on tile 0. -/
def inJob (t : Strand) (j : Job) : State :=
  let s := withBed t wordBed
  let s := s.putTile 0 { s.tile 0 with cuts := [(t.job, j.cuts)] }
  s.putJob j
/-- Entry 2 of CMAP is register 16's; entry 0 the lowest unused. -/
def stCmap2 : Strand := { st0 with cmap := #v[⟨31, 0⟩, ⟨3, 0⟩, ⟨16, 0⟩, ⟨31, 0⟩, ⟨31, 0⟩, ⟨31, 0⟩, ⟨31, 0⟩, ⟨31, 0⟩] }
/-- Every entry of CMAP is register 3's. -/
def stCmap3 : Strand := { st0 with cmap := Vector.replicate 8 ⟨3, 0⟩ }
theorem test_wit_CutAttachesOrIsIllegal :
    (Said.Issues (inJob stCmap2 job0) stCmap2 [] ∧ stCmap2.sup = false ∧ (inJob stCmap2 job0).job? stCmap2.job = some job0 ∧
      (1 : BitVec 8).toNat < job0.lrec.cutn ∧ FMap.get? ((inJob stCmap2 job0).tile stCmap2.loc.tile).cuts stCmap2.job = some job0.cuts ∧
      job0.cuts.recipes[(1 : BitVec 8).toNat]? = some ⟨16, []⟩ ∧ (stCmap2.cmap.toList[2]?).map (·.reg) = some 16 ∧
      (∀ k, k < 2 → (stCmap2.cmap.toList[k]?).map (·.reg) ≠ some 16)) ∧
    (Said.Issues (inJob st0 job0) st0 [] ∧ job0.cuts.recipes[(0 : BitVec 8).toNat]? = some ⟨0, []⟩ ∧ Said.attachedTo st0 0 = false ∧
      (st0.cmap.toList[0]?).map (·.reg) = some 31) ∧
    (Said.Issues (inJob stCmap3 job0) stCmap3 [] ∧ Said.attachedTo stCmap3 16 = false ∧ Said.attachedTo stCmap3 31 = false) ∧
    ((⟨16, []⟩ : Recipe).treg ≠ 3) ∧ job0.lrec.cutn ≤ (2 : BitVec 8).toNat := by
  unfold Said.Issues; decide

/-! #### Memory -/

def i0 : BitVec 9 := 0
/-- A machine whose bed 0 the strand reaches, and the strand's registers 1 and 2. -/
def stVa (va : Word) : Strand := stG [(1, va), (2, 0x1122334455667788)]
theorem test_wit_AccessChecksComeInOrder :
    (∃ a, Said.accessOf (.ld ⟨2, false⟩ ⟨1, false⟩ 3 0) (stVa 65536) = some a ∧ Said.Armed (withBed (stVa 65536) bedHere) (stVa 65536) a ∧
      (withBed (stVa 65536) bedHere).lookup (stVa 65536) a.va = .miss) ∧
    (∃ a, Said.accessOf (.st ⟨2, false⟩ ⟨1, false⟩ 1 0) (stVa 65535) = some a ∧ Said.Armed (withBed (stVa 65535) bedHere) (stVa 65535) a ∧
      (withBed (stVa 65535) bedHere).lookup (stVa 65535) a.va = .hit ⟨0, bedHere⟩ ∧ a.va.toNat % a.align ≠ 0) ∧
    (∃ a, Said.accessOf (.amoadd ⟨2, false⟩ ⟨1, false⟩ 0) (stVa 0) = some a ∧
      Said.Armed (withBed (stVa 0) { bedHere with imm := true }) (stVa 0) a ∧
      (withBed (stVa 0) { bedHere with imm := true }).lookup (stVa 0) a.va = .hit ⟨0, { bedHere with imm := true }⟩ ∧
      a.va.toNat % a.align = 0 ∧ a.need { bedHere with imm := true } = false) ∧
    (∃ a, Said.accessOf (.upd ⟨2, false⟩ ⟨1, false⟩ 0) (stVa 0) = some a ∧ Said.Armed (withBed (stVa 0) bedHere) (stVa 0) a ∧
      (withBed (stVa 0) bedHere).lookup (stVa 0) a.va = .hit ⟨0, bedHere⟩ ∧ a.va.toNat % a.align = 0 ∧ a.need bedHere = true ∧
      a.kinds bedHere.kind = false) := by
  refine ⟨⟨_, rfl, ?_⟩, ⟨_, rfl, ?_⟩, ⟨_, rfl, ?_⟩, ⟨_, rfl, ?_⟩⟩ <;> unfold Said.Armed Said.IssuesAnyhow <;> decide
/-- A strand with the fill of a pinned LDAQ of register 9 out. -/
def stLdaq : Strand := { stVa 0 with ldaq := [9] }
/-- Column 0 of a machine is under repair. -/
def inRepair (s : State) : State :=
  let s := { s with head := { s.head with phase := 5 } }
  (s.putTile 0 { s.tile 0 with pow := { (s.tile 0).pow with mode := .run } }).putCol 0 { s.col 0 with repair := some 31 }
/-- A load at its home that misses the line buffer and reads, or waits for the column's repair; one whose translation faults; one that hits
the line buffer; one that the fill of a pinned LDAQ holds. -/
theorem test_wit_LoadAtHomeFillsRegister :
    (∃ a, Said.load (.ld ⟨2, true⟩ ⟨1, false⟩ 3 0) (stVa 65528) = some a ∧ Said.Passes (withBed (stVa 65528) bedHere) (stVa 65528) a ⟨0, bedHere⟩ ∧
      Said.homeOf (stVa 65528) a ⟨0, bedHere⟩ = some ((stVa 65528).colKey, 65528) ∧
      (let r := Said.after (withBed (stVa 65528) bedHere) (stVa 65528) a
       let s1 := (r.1.touchBed r.2 ⟨0, bedHere⟩).scrubLine r.2 a.va.toNat
       (stVa 65528).ldaq = [] ∧ s1.lineHit r.2 a.va.toNat a.align = none ∧ s1.waitsHome (stVa 65528).colKey 0 65528 .here 5 a.align 0 = false ∧
       (inRepair s1).waitsHome (stVa 65528).colKey 0 65528 .here 5 a.align 0 = true ∧
       (s1.homeRead (stVa 65528).colKey 0 65528 .here false (stVa 65528).asid a.align 0 (stVa 65528).party).2 = .ok 0 (some 65528))) ∧
    (∃ a, Said.load (.vld ⟨2, true⟩ ⟨1, false⟩ 0) (stVa 0) = some a ∧
      (let s := (withBed (stVa 0) bedHere).putCol 0 Column.reset
       Said.Passes s (stVa 0) a ⟨0, bedHere⟩ ∧ Said.homeOf (stVa 0) a ⟨0, bedHere⟩ = some ((stVa 0).colKey, 0) ∧
       ((s.touchBed (stVa 0) ⟨0, bedHere⟩).homeRead 0 0 0 .here false (stVa 0).asid a.align 0 (stVa 0).party).2 = .trip 6 16)) ∧
    (∃ a, Said.load (.ldn ⟨2, true⟩ ⟨1, false⟩ 0 0) (stVa 0) = some a ∧
      (let s := withBed (stVa 0) bedHere
       let s := s.putCore 0 { s.core 0 with lineBuf := [⟨5, 0, 0, 0x88, false⟩] }
       Said.Passes s (stVa 0) a ⟨0, bedHere⟩ ∧ ((s.touchBed (stVa 0) ⟨0, bedHere⟩).scrubLine (stVa 0) 0).lineHit (stVa 0) 0 1 = some 0x88)) ∧
    (∃ a, Said.load (.ldn ⟨2, true⟩ ⟨1, false⟩ 0 0) stLdaq = some a ∧ Said.Passes (withBed stLdaq bedHere) stLdaq a ⟨0, bedHere⟩ ∧
      Said.homeOf stLdaq a ⟨0, bedHere⟩ = some (stLdaq.colKey, 0) ∧ stLdaq.ldaq = 9 :: []) := by
  refine ⟨⟨_, rfl, ?_⟩, ⟨_, rfl, ?_⟩, ⟨_, rfl, ?_⟩, ⟨_, rfl, ?_⟩⟩ <;> unfold Said.Passes Said.Armed Said.IssuesAnyhow <;> decide
/-- A strand pinned for good, one whose run and window are at their limits, one that owes a fill. -/
def stPin : Strand := { stVa 0 with bounce := bounceOf 256 0 0 0 0 }
def stRun : Strand := { stVa 0 with bounce := bounceOf 0 5 62 0 5 }
def stOwed : Strand := stR (stVa 0) 9 { st0.rc 9 with st := .awaiting, owed := 1 }
theorem test_wit_AccessElsewhereMovesStrand :
    (∃ a, (Said.load (.ld ⟨2, false⟩ ⟨1, false⟩ 3 0) stPin).or (Said.store (.ld ⟨2, false⟩ ⟨1, false⟩ 3 0) stPin) = some a ∧
      Said.Passes (withBed stPin bedThere) stPin a ⟨0, bedThere⟩ ∧ Said.homeOf stPin a ⟨0, bedThere⟩ = some (5, 0) ∧ 5 ≠ stPin.colKey ∧
      (((withBed stPin bedThere).touchBed stPin ⟨0, bedThere⟩).scrubRake stPin a.va.toNat).rakeHit stPin a.va.toNat a.align = none ∧
      stPin.ldaq = [] ∧ stPin.pinned = true) ∧
    (∃ a, Said.load (.ld ⟨2, false⟩ ⟨1, false⟩ 3 0) stLdaq = some a ∧ Said.Passes (withBed stLdaq bedThere) stLdaq a ⟨0, bedThere⟩ ∧
      Said.homeOf stLdaq a ⟨0, bedThere⟩ = some (5, 0) ∧ 5 ≠ stLdaq.colKey ∧ stLdaq.ldaq = 9 :: []) ∧
    (∃ a, (Said.load (.st ⟨2, false⟩ ⟨1, false⟩ 3 0) stRun).or (Said.store (.st ⟨2, false⟩ ⟨1, false⟩ 3 0) stRun) = some a ∧
      Said.Passes (withBed stRun bedThere) stRun a ⟨0, bedThere⟩ ∧ Said.homeOf stRun a ⟨0, bedThere⟩ = some (5, 0) ∧
      (Said.store (.st ⟨2, false⟩ ⟨1, false⟩ 3 0) stRun).isSome = true ∧ stRun.pinned = false ∧
      (stRun.countWin.bounceTo .plain stRun.colKey 5).2 = false) ∧
    (∃ a, (Said.load (.ld ⟨2, false⟩ ⟨1, false⟩ 3 0) (stVa 0)).or (Said.store (.ld ⟨2, false⟩ ⟨1, false⟩ 3 0) (stVa 0)) = some a ∧
      Said.Passes (withBed (stVa 0) bedThere) (stVa 0) a ⟨0, bedThere⟩ ∧ ((stVa 0).countWin.bounceTo .plain (stVa 0).colKey 5).2 = true ∧
      (withBed (stVa 0) bedThere).mayDepart (stVa 0) = true ∧
      (let s := withBed (stVa 0) bedThere
       let s := s.putCol 0 { s.col 0 with rakeBuf := [⟨5, 0, 0, 7, false⟩] }
       Said.Passes s (stVa 0) a ⟨0, bedThere⟩ ∧ ((s.touchBed (stVa 0) ⟨0, bedThere⟩).scrubRake (stVa 0) a.va.toNat).rakeHit (stVa 0) a.va.toNat a.align = some 7)) ∧
    (∃ a, (Said.load (.ld ⟨2, false⟩ ⟨1, false⟩ 3 0) stOwed).or (Said.store (.ld ⟨2, false⟩ ⟨1, false⟩ 3 0) stOwed) = some a ∧
      Said.Passes (withBed stOwed bedThere) stOwed a ⟨0, bedThere⟩ ∧ (withBed stOwed bedThere).mayDepart stOwed = false) := by
  refine ⟨⟨_, rfl, ?_⟩, ⟨_, rfl, ?_⟩, ⟨_, rfl, ?_⟩, ⟨_, rfl, ?_⟩, ⟨_, rfl, ?_⟩⟩ <;> unfold Said.Passes Said.Armed Said.IssuesAnyhow <;> decide
theorem test_wit_PostedStoresSendTheirItems :
    (∃ a, Said.posted (.stp ⟨2, true⟩ ⟨1, false⟩ 3 0) (stVa 0) = some a ∧ Said.Passes (withBed (stVa 0) bedHere) (stVa 0) a ⟨0, bedHere⟩ ∧
      ((withBed (stVa 0) bedHere).target (stVa 0) ⟨0, bedHere⟩ a.va).home = some (stVa 0).colKey ∧
      Said.Passes (withBed (stVa 0) bedThere) (stVa 0) a ⟨0, bedThere⟩ ∧
      ((withBed (stVa 0) bedThere).target (stVa 0) ⟨0, bedThere⟩ a.va).home ≠ some (stVa 0).colKey) ∧
    (∃ a, Said.multi (.stm ⟨2, false⟩ ⟨1, false⟩ 3 0) (stVa 0) = some a ∧
      Said.Passes (withBed (stVa 0) bedCopies) (stVa 0) a ⟨0, bedCopies⟩ ∧ 1 ∈ bedCopies.tiles) := by
  refine ⟨⟨_, rfl, ?_⟩, ⟨_, rfl, ?_⟩⟩ <;> unfold Said.Passes Said.Armed Said.IssuesAnyhow <;> decide
theorem test_wit_LdaqAtHomeAcquires :
    (∃ a, Said.acquiring (.ldaq ⟨2, false⟩ ⟨1, false⟩ 10 3 0) stPin = some a ∧ Said.Passes (withBed stPin bedThere) stPin a ⟨0, bedThere⟩ ∧
      Said.homeOf stPin a ⟨0, bedThere⟩ = some (5, 0) ∧ 5 ≠ stPin.colKey ∧ stPin.pinned = true) ∧
    ∃ a, Said.acquiring (.ldaq ⟨2, false⟩ ⟨1, false⟩ 10 3 0) (stVa 0) = some a ∧ Said.Passes (withBed (stVa 0) bedHere) (stVa 0) a ⟨0, bedHere⟩ ∧
      Said.homeOf (stVa 0) a ⟨0, bedHere⟩ = some ((stVa 0).colKey, 0) ∧
      ((withBed (stVa 0) bedHere).touchBed (stVa 0) ⟨0, bedHere⟩).waitsHome 0 0 0 .here 5 a.align 0 = false ∧
      (inRepair ((withBed (stVa 0) bedHere).touchBed (stVa 0) ⟨0, bedHere⟩)).waitsHome 0 0 0 .here 5 a.align 0 = true ∧
      (((withBed (stVa 0) bedHere).touchBed (stVa 0) ⟨0, bedHere⟩).homeRead (stVa 0).colKey 0 0 .here false (stVa 0).asid a.align 0
        (stVa 0).party).2 = .ok 0 (some 0) := by
  refine ⟨⟨_, rfl, ?_⟩, ⟨_, rfl, ?_⟩⟩ <;> unfold Said.Passes Said.Armed Said.IssuesAnyhow <;> decide
/-- An open posted store of the strand. -/
def withItem (s : State) (t : Strand) (c : ItemClass) (home : Option Nat) : State :=
  { s with items := FMap.set s.items 50 ⟨t.handle, t.job, c, home, 0, false, 0⟩, fresh := 60 }
theorem test_wit_StoreAtHomeIsPerformed :
    (∃ a, Said.store (.vst ⟨2, false⟩ ⟨1, false⟩ 0) (stVa 65504) = some a ∧
      Said.Passes (withBed (stVa 65504) bedHere) (stVa 65504) a ⟨0, bedHere⟩ ∧
      Said.homeOf (stVa 65504) a ⟨0, bedHere⟩ = some ((stVa 65504).colKey, 65504) ∧
      ((withBed (stVa 65504) bedHere).touchBed (stVa 65504) ⟨0, bedHere⟩).waitsHome 0 0 65504 .here 5 32 1 = false ∧
      (inRepair ((withBed (stVa 65504) bedHere).touchBed (stVa 65504) ⟨0, bedHere⟩)).waitsHome 0 0 65504 .here 5 32 1 = true ∧
      (((withBed (stVa 65504) bedHere).touchBed (stVa 65504) ⟨0, bedHere⟩).homeWrite 0 0 65504 .here false 5
        (Said.dataOf (.vst ⟨2, false⟩ ⟨1, false⟩ 0) (stVa 65504)) (stVa 65504).party).2 = .ok 0 (some 65504)) ∧
    ((10 : BitVec 4).toNat < 11 ∧ Said.Issues (withItem (on (stVa 0)) (stVa 0) .posted (some 5)) (stVa 0) [1, 2] ∧
      (withItem (on (stVa 0)) (stVa 0) .posted (some 5)).waitOver { stVa 0 with wait := .items [.posted, .update] [] 10 } = false ∧
      Said.Issues (on (stVa 0)) (stVa 0) [1, 2] ∧
      (on (stVa 0)).waitOver { stVa 0 with wait := .items [.posted, .update] [] 10 } = true) := by
  refine ⟨⟨_, rfl, ?_⟩, ?_⟩ <;> (try unfold Said.Passes Said.Armed Said.IssuesAnyhow) <;> (try unfold Said.Issues) <;> decide
theorem test_wit_AtomicReadsAndWritesAtHome :
    (∃ a f, Said.atomic (.amocas ⟨2, false⟩ ⟨1, false⟩ 0) (stVa 65528) = some (a, 2, f) ∧
      Said.Passes (withBed (stVa 65528) bedHere) (stVa 65528) a ⟨0, bedHere⟩ ∧
      Said.homeOf (stVa 65528) a ⟨0, bedHere⟩ = some ((stVa 65528).colKey, 65528) ∧
      ((withBed (stVa 65528) bedHere).touchBed (stVa 65528) ⟨0, bedHere⟩).waitsHome 0 0 65528 .here 5 8 1 = false ∧
      (inRepair ((withBed (stVa 65528) bedHere).touchBed (stVa 65528) ⟨0, bedHere⟩)).waitsHome 0 0 65528 .here 5 8 1 = true ∧
      (((withBed (stVa 65528) bedHere).touchBed (stVa 65528) ⟨0, bedHere⟩).homeRmw 0 0 65528 .here false 5
        (fun old => (f (.ofNat 64 old)).map BitVec.toNat) (stVa 65528).party).2 = .ok 0 (some 65528)) ∧
    (∃ a f, Said.atomic (.amoadd ⟨2, false⟩ ⟨1, false⟩ 0) stPin = some (a, 2, f) ∧
      Said.Passes (withBed stPin bedThere) stPin a ⟨0, bedThere⟩ ∧ Said.homeOf stPin a ⟨0, bedThere⟩ = some (5, 0) ∧ 5 ≠ stPin.colKey ∧
      (withBed stPin bedThere).mayDepart stPin = true) ∧
    (∃ a f, Said.atomic (.amoadd ⟨2, false⟩ ⟨1, false⟩ 0) stOwed = some (a, 2, f) ∧
      Said.Passes (withBed stOwed bedThere) stOwed a ⟨0, bedThere⟩ ∧ (withBed stOwed bedThere).mayDepart stOwed = false) := by
  refine ⟨⟨_, _, rfl, ?_⟩, ⟨_, _, rfl, ?_⟩, ⟨_, _, rfl, ?_⟩⟩ <;> unfold Said.Passes Said.Armed Said.IssuesAnyhow <;> decide

/-- An answered translation as data: the offset, or the trap. -/
def xlated : Xlate → Nat ⊕ (Nat × Nat)
  | .ok o => .inl o
  | .trip c g => .inr (c, g)
/-- Reads and writes of device memory and of scratch that succeed, at the last bytes of a quadrant's one scratch way, and beyond. -/
def withScratch : State := (withBed st0 wordBed).putQuad 0 { Quad.reset with scrw := 1 }
def core0 : Party := ⟨some 0, 77, 0, false⟩
theorem test_wit_HomeAccessesTouchTheirBytes :
    ((withBed st0 wordBed).homeRead 0 0 65528 .here false 5 8 0 core0).2 = .ok 0 (some 65528) ∧
    (quadOfCol 0 = 0 ∧ (withScratch.quad 0).scrw * 2 ^ 20 ≤ 1048576) ∧
    (1048568 < (withScratch.quad 0).scrw * 2 ^ 20 ∧ (withScratch.homeRead 0 0 1048568 .scratch false 5 8 0 core0).2 = .ok 0 none) ∧
    (withBed st0 wordBed).memOk ∧ withScratch.memOk ∧
    ((withBed st0 wordBed).homeWrite 0 0 65528 .here false 5 [1, 2, 3, 4] core0).2 = .ok 0 (some 65528) ∧
    (withScratch.homeWrite 0 0 1048568 .scratch true 5 [1, 2, 3, 4] core0).2 = .ok 0 none := by
  unfold State.memOk; decide
theorem test_wit_AtomicEventChangesOneLocation : (withBed st0 wordBed).memOk ∧ BedKind.here ≠ .scratch ∧ BedKind.here ≠ .update ∧
    ((withBed st0 wordBed).homeRmw 0 0 65528 .here false 5 (fun v => if v = 0 then some 9 else none) core0).2 = .ok 0 (some 65528) ∧
    ((withBed st0 wordBed).homeRmw 0 0 65528 .here false 5 (fun _ => none) core0).2 = .ok 0 (some 65528) := by
  unfold State.memOk; decide
theorem test_wit_StoreChangesOnlyItsBytes :
    ∃ a, (Said.store (.st ⟨2, true⟩ ⟨1, false⟩ 3 0) (stVa 65528)).or ((Said.atomic (.st ⟨2, true⟩ ⟨1, false⟩ 3 0) (stVa 65528)).map (·.1)) = some a ∧
      (withBed (stVa 65528) bedHere).memOk ∧ Said.Passes (withBed (stVa 65528) bedHere) (stVa 65528) a ⟨0, bedHere⟩ ∧
      Said.homeOf (stVa 65528) a ⟨0, bedHere⟩ = some ((stVa 65528).colKey, 65528) ∧ bedHere.kind ≠ .scratch ∧ bedHere.kind ≠ .update ∧
      Said.spills (withBed (stVa 65528) bedHere) (stVa 65528) ⟨0, bedHere⟩ = false ∧
      ((Said.found (withBed (stVa 65528) bedHere) (stVa 65528) a ⟨0, bedHere⟩).translate (stVa 65528).colKey 5
        (0 * 2 ^ 40 + 65528) 1).2 = .ok 65528 ∧
      Said.HomePerforms (.st ⟨2, true⟩ ⟨1, false⟩ 3 0) (withBed (stVa 65528) bedHere) (stVa 65528) a ⟨0, bedHere⟩ 65528 ∧
      (∃ u, exec (.st ⟨2, true⟩ ⟨1, false⟩ 3 0) (withBed (stVa 65528) bedHere) = .next u) := by
  refine ⟨_, rfl, ?_, ?_, ?_, ?_, ?_, ?_, rfl, ⟨fun p h => by simp [Said.atomic] at h, fun _ => ⟨_, 0, some 65528, Prod.ext rfl ?_⟩⟩, ⟨_, rfl⟩⟩ <;>
    (try unfold State.memOk) <;> (try unfold Said.Passes Said.Armed Said.IssuesAnyhow) <;> decide
/-- One instruction of each part: integer, transfer, wide. -/
theorem test_wit_RegisterInstructionLeavesTheRest :
    Said.RegisterOnly (.add 5 ⟨3, true⟩ ⟨4, true⟩) (on st0) st0 ∧
    Said.RegisterOnly (.jalr 5 ⟨3, true⟩ 0) (on (stG [(3, 0xFFFFFFFFFFFFFE)])) (stG [(3, 0xFFFFFFFFFFFFFE)]) ∧
    Said.RegisterOnly (.vext 1 ⟨2, true⟩ 3) (on st0) st0 := by
  refine ⟨.inl ⟨_, rfl, ?_⟩, .inr (.inl ⟨_, rfl, ?_, ?_⟩), .inr (.inr ⟨_, rfl, rfl, ?_⟩)⟩
  · unfold Said.Issues; decide
  · unfold Said.Issues; decide
  · intro t h; cases h; decide
  · unfold Said.IssuesFmt; decide

/-- An update bed with room for 62 more entries and with 63 queued. -/
def bedUpd : Bed := { wordBed with kind := .update, log2g := 12, trows := 1, tcols := 1, spbed := 1 }
def pair0 : OutPair := ⟨0, 0, 5, 0, 0, 0, 0, 1, 0, 0, .waiting⟩
def withPairs (n : Nat) : State :=
  let s := withBed (stVa 0) bedUpd
  s.putCore 0 { s.core 0 with outq := (List.range n).map (fun i => (i, pair0)) }
def stPhase (p : Phase) : Strand := { stVa 0 with phase := p }
theorem test_wit_UpdatesAreQueuedAndFlushed :
    (∃ a, Said.updating (.vupd ⟨2, true⟩ ⟨1, false⟩ 0) (stVa 0) = some a ∧
      (Said.Passes (withPairs 60) (stVa 0) a ⟨0, bedUpd⟩ ∧
        ((withPairs 60).core 0).outq.length + (Said.pairs (.vupd ⟨2, true⟩ ⟨1, false⟩ 0) (stVa 0)).length ≤ 64) ∧
      (Said.Passes (withPairs 61) (stVa 0) a ⟨0, bedUpd⟩ ∧
        64 < ((withPairs 61).core 0).outq.length + (Said.pairs (.vupd ⟨2, true⟩ ⟨1, false⟩ 0) (stVa 0)).length)) ∧
    (bedUpd.home (0 - 0) 0 = some (0, 0) ∧ ((withPairs 63).core 0).outq.length < 64) ∧
    (Said.Issues (withBed (stVa 0) bedHere) (stVa 0) [1] ∧
      (withBed (stVa 0) bedHere).lookup (stVa 0) (Said.ea (stVa 0) ⟨1, false⟩ 0 8) = .hit ⟨0, bedHere⟩ ∧ bedHere.kind ≠ .update) ∧
    (Said.Issues (withBed (stVa 0) bedUpd) (stVa 0) [1] ∧
      (withBed (stVa 0) bedUpd).lookup (stVa 0) (Said.ea (stVa 0) ⟨1, false⟩ 0 8) = .hit ⟨0, bedUpd⟩ ∧ (stVa 0).phase = .none ∧
      (withBed (stVa 0) bedUpd).waitOver { stVa 0 with wait := .bed 0 } = true ∧
      (withItem (withBed (stVa 0) bedUpd) (stVa 0) .update (some 0)).waitOver { stVa 0 with wait := .bed 0 } = false) ∧
    (Said.Issues (withBed (stPhase (.uflush 9 0 false)) bedUpd) (stPhase (.uflush 9 0 false)) [1] ∧
      (withBed (stPhase (.uflush 9 0 false)) bedUpd).lookup (stPhase (.uflush 9 0 false)) 0 = .hit ⟨0, bedUpd⟩ ∧
      Said.Issues (withBed (stPhase (.uflush 9 0 true)) bedUpd) (stPhase (.uflush 9 0 true)) [1]) := by
  refine ⟨⟨_, rfl, ?_⟩, ?_⟩ <;> (try unfold Said.Passes Said.Armed Said.IssuesAnyhow) <;> (try unfold Said.Issues) <;> decide
theorem test_wit_FenceWaitsThenReports :
    (∃ w d, Said.waiting (.fence 3 10) (on st0) st0 = some (w, d, some 10, 4) ∧ Said.Issues (on st0) st0 [] ∧
      (on st0).waitOver { st0 with wait := w } = true ∧ Said.Issues (withItem (on st0) st0 .copy none) st0 [] ∧
      (withItem (on st0) st0 .copy none).waitOver { st0 with wait := w } = false) ∧
    (∃ w d, Said.waiting (.waitc 0) (on st0) st0 = some (w, d, none, 4) ∧ (on st0).waitOver { st0 with wait := w } = true) := by
  refine ⟨⟨_, _, rfl, ?_⟩, ⟨_, _, rfl, ?_⟩⟩ <;> (try unfold Said.Issues) <;> decide
def bedHost : Bed := { wordBed with kind := .host }
def bedScr : Bed := { wordBed with kind := .scratch }
theorem test_wit_MigrationControl :
    (let s := withBed (stVa 0) bedHere
     Said.Issues s (stVa 0) [1] ∧ s.lookup (stVa 0) ((stVa 0).gv 1) = .hit ⟨0, bedHere⟩ ∧ (stVa 0).colKey = 0 ∧
     s.target (stVa 0) ⟨0, bedHere⟩ 0 = .column 0 0 0 .here false ∧ xlated ((s.touchBed (stVa 0) ⟨0, bedHere⟩).translateFor 0 5 0 0 77 0).2 = .inl 0 ∧
     (s.touchBed (stVa 0) ⟨0, bedHere⟩).waitsHome 0 0 0 .here 5 1 0 = false ∧ (inRepair (s.touchBed (stVa 0) ⟨0, bedHere⟩)).waitsHome 0 0 0 .here 5 1 0 = true ∧
     xlated (((s.putCol 0 Column.reset).touchBed (stVa 0) ⟨0, bedHere⟩).translateFor 0 5 0 0 77 0).2 = .inr (6, 16)) ∧
    (let s := withBed (stVa 0) bedScr
     Said.Issues s (stVa 0) [1] ∧ s.lookup (stVa 0) ((stVa 0).gv 1) = .hit ⟨0, bedScr⟩ ∧
     s.target (stVa 0) ⟨0, bedScr⟩ 0 = .column 0 0 0 .scratch false) ∧
    (let s := withBed (stVa 0) bedThere
     Said.Issues s (stVa 0) [1] ∧ s.lookup (stVa 0) ((stVa 0).gv 1) = .hit ⟨0, bedThere⟩ ∧
     s.target (stVa 0) ⟨0, bedThere⟩ 0 = .column 5 0 0 .here false ∧ s.mayDepart (stVa 0) = true ∧
     (withBed stOwed bedThere).mayDepart stOwed = false ∧ Said.Issues (withBed stOwed bedThere) stOwed [1]) ∧
    (let s := withBed (stVa 0) bedHost
     Said.Issues s (stVa 0) [1] ∧ s.lookup (stVa 0) ((stVa 0).gv 1) = .hit ⟨0, bedHost⟩ ∧ (s.target (stVa 0) ⟨0, bedHost⟩ 0).home = none) ∧
    (Said.Issues (withBed (stVa 65536) bedHere) (stVa 65536) [1] ∧ (withBed (stVa 65536) bedHere).lookup (stVa 65536) 65536 = .miss) ∧
    Said.Issues (on st0) st0 [] := by
  refine ⟨?_, ?_, ?_, ?_, ?_, ?_⟩ <;> unfold Said.Issues <;> decide
def rake0 : RakeReq := ⟨1, 77, 5, 0, 0, false, false, 0, 0, 0, 0, [], 0, [], none⟩
theorem test_wit_RakeAndCacheRequestsGoOut :
    (let s := withBed (stVa 65532) bedHere
     Said.Issues s (stVa 65532) [1] ∧ (stVa 65532).x[1].toNat / 2 ^ 40 % 2 ≠ 1 ∧
     s.lookup (stVa 65532) (Said.ea (stVa 65532) ⟨1, false⟩ 0 8) = .hit ⟨0, bedHere⟩ ∧ (65532 : Nat) % 4 = 0 ∧ bedHere.rd = true ∧
     (s.col 0).rakeQ.length < 8 ∧ (stVa 65532).x[1].toNat % 2 ^ 40 = 0) ∧
    (let t := (stVa 65528).setX 1 0x1000000FFFF
     let s := withBed t bedHere
     Said.Issues s t [1] ∧ s.lookup t (Said.ea t ⟨1, false⟩ 0 8) = .hit ⟨0, bedHere⟩ ∧ t.x[1].toNat / 2 ^ 40 % 2 = 1 ∧ t.x[1].toNat % 2 ^ 40 ≠ 0) ∧
    (let s := withBed (stVa 0) bedHere
     let s := s.putCol 0 { s.col 0 with rakeQ := List.replicate 8 rake0 }
     Said.Issues s (stVa 0) [1] ∧ s.lookup (stVa 0) (Said.ea (stVa 0) ⟨1, false⟩ 0 8) = .hit ⟨0, bedHere⟩ ∧ 8 ≤ (s.col 0).rakeQ.length) ∧
    (Said.Issues (on st0) st0 [] ∧ st0.wait = .none ∧ (on st0).rakeOutBefore st0.colKey (on st0).fresh = false) ∧
    (let s := withItem (withBed st0 bedHere) st0 .rake (some 0)
     let s := { s with msgs := [(1, .rakeFetch 0 0 0 0 (.column 0 0 0 .here false) false)] }
     Said.Issues s st0 [] ∧ s.rakeOutBefore st0.colKey s.fresh = true) ∧
    (Said.cacheRequest (.cwb 3 ⟨1, false⟩ ⟨2, true⟩) = some (3, 3, ⟨1, false⟩, ⟨2, true⟩) ∧
      Said.Issues (withBed (stVa 65536) bedHere) (stVa 65536) [1, 2] ∧ (withBed (stVa 65536) bedHere).lookup (stVa 65536) 65536 = .miss ∧
      Said.Issues (withBed (stVa 0) bedScr) (stVa 0) [1, 2] ∧ (withBed (stVa 0) bedScr).lookup (stVa 0) 0 = .hit ⟨0, bedScr⟩ ∧
      Said.Issues (withBed (stVa 0) bedHere) (stVa 0) [1, 2] ∧ (withBed (stVa 0) bedHere).lookup (stVa 0) 0 = .hit ⟨0, bedHere⟩ ∧
      bedHere.kind ≠ .scratch ∧ bedHere.kind ≠ .host ∧ bedHere.kind ≠ .peer) := by
  refine ⟨?_, ?_, ?_, ?_, ?_, ?_⟩ <;> unfold Said.Issues <;> decide
def stSync (va len : Word) (p : Phase) : Strand := { stG [(1, va), (2, len)] with phase := p }
theorem test_wit_ReplsyncCopiesPrimary :
    (Said.Issues (withBed (stSync 8 12 .none) bedCopies) (stSync 8 12 .none) [1, 2] ∧ (stSync 8 12 .none).gv 2 = 12 ∧ (12 : Word).toNat % 8 ≠ 0) ∧
    (Said.Issues (withBed (stSync 65528 16 .none) bedCopies) (stSync 65528 16 .none) [1, 2] ∧
      (withBed (stSync 65528 16 .none) bedCopies).lookup (stSync 65528 16 .none) 65528 = .hit ⟨0, bedCopies⟩ ∧
      bedCopies.base + bedCopies.len < 65528 + 16) ∧
    (Said.Issues (withBed (stSync 65528 8 .none) bedCopies) (stSync 65528 8 .none) [1, 2] ∧
      (withBed (stSync 65528 8 .none) bedCopies).lookup (stSync 65528 8 .none) 65528 = .hit ⟨0, bedCopies⟩ ∧
      65528 + 8 ≤ bedCopies.base + bedCopies.len ∧ bedCopies.rd = true ∧ bedCopies.wr = true) ∧
    (Said.Issues (withBed (stSync 65528 8 (.replsync 9)) bedCopies) (stSync 65528 8 (.replsync 9)) [1, 2] ∧
      (withBed (stSync 65528 8 (.replsync 9)) bedCopies).waitOver { stSync 65528 8 (.replsync 9) with wait := .answer } = true ∧
      (let s := withBed (stSync 65528 8 (.replsync 9)) bedCopies
       { s with items := [(50, ⟨77, 3, .posted, some 16, 0, false, 9⟩)] }.waitOver { stSync 65528 8 (.replsync 9) with wait := .answer } = false)) ∧
    (let s := withItem (withBed st0 bedCopies) st0 .read none
     let s := { s with msgs := [(1, .readDone (.replsync 9 50 5 65528) 65528 6 none 51)] }
     s.msg? 1 = some (.readDone (.replsync 9 50 5 65528) 65528 6 none 51) ∧ FMap.get? s.items 50 = some ⟨77, 3, .read, none, 0, false, 0⟩ ∧
     s.strand? 77 = some st0 ∧ (s.tableFor st0).bind (fun t => t.find 65528) = some ⟨0, bedCopies⟩ ∧ 1 ∈ bedCopies.tiles ∧ 1 ≠ bedCopies.prim) := by
  unfold Said.Issues; decide

/-! #### The panel -/

/-- A bound panel: tiles 0 and 1 Live in Run on sites 0 and 1. -/
def bound (s : State) : State :=
  let s := { s with head := { s.head with phase := 5, powered := true, live := 72, epoch := 1, remap := [(0, remapEntry 1 0), (1, remapEntry 1 1)] } }
  let s := s.putTile 0 { s.tile 0 with pow := { (s.tile 0).pow with mode := .run } }
  let s := s.putTile 1 { s.tile 1 with pow := { (s.tile 1).pow with mode := .run } }
  let s := s.putSite 0 { Site.reset with status := .live }
  s.putSite 1 { Site.reset with status := .live }
def panel : State := bound State.reset
/-- An image whose header is 256 zero bytes. -/
def img0 : Image := ⟨List.replicate 256 0, [], 0, 0⟩
def withPow (f : Power → Power) : State := panel.putTile 0 { panel.tile 0 with pow := f (panel.tile 0).pow }
/-- Throttling, clause by clause, each at its boundary; the windows at the cap, above it, at nine tenths. -/
theorem test_wit_PowerManagersThrottleByStages :
    Said.up panel 0 ∧
    (let w := fun n f => withPow (fun p => f { p with sum := n, count := 1 })
     let p := fun n f => ((w n f).tile 0).pow
     (0 < (p 761 id).count ∧ Said.cap (w 761 id) 0 * (p 761 id).count < (p 761 id).sum ∧ 4 < (p 761 id).duty) ∧
     (let f := fun q : Power => { q with duty := 4 }; Said.cap (w 761 f) 0 * 1 < 761 ∧ (p 761 f).duty ≤ 4 ∧ (p 761 f).clock = 16) ∧
     (let f := fun q : Power => { q with duty := 4, clock := 9 }; (p 761 f).duty ≤ 4 ∧ 8 < (p 761 f).clock ∧ (p 761 f).clock < 16) ∧
     (let f := fun q : Power => { q with duty := 4, clock := 8 }; (p 761 f).clock = 8 ∧ (p 761 f).dispatchHold = false) ∧
     (let f := fun q : Power => { q with duty := 4, clock := 8, dispatchHold := true }; (p 761 f).dispatchHold = true) ∧
     (684 * 10 ≤ Said.cap (w 684 id) 0 * 9 * 1 ∧ 684 ≤ Said.cap (w 684 id) 0 * 1 ∧ (p 684 id).dispatchHold = false ∧ (p 684 id).clock = 16 ∧
       (p 684 id).clockHeat = 16) ∧
     (let f := fun q : Power => { q with clock := 15, heatBase := true }; (p 684 f).clock < 16 ∧ Said.heated (p 684 f)) ∧
     (let f := fun q : Power => { q with clockHeat := 8 }; (p 684 f).clockHeat < 16 ∧ (p 684 f).clock ≤ 16 ∧ ¬ Said.heated (p 684 f)) ∧
     (760 ≤ Said.cap (w 760 id) 0 * 1 ∧ Said.cap (w 760 id) 0 * 9 * 1 < 760 * 10)) ∧
    (panel.head.phase = 5 ∧ panel.head.inSum + 50000 ≤ 50000 * (panel.head.inCount + 1) ∧ 50000 * (panel.head.inCount + 1) < panel.head.inSum + 50001 ∧
      panel.head.imposed = false ∧ (let h := { panel.head with imposed := true, effCap := 700 }
        h.imposed = true ∧ h.effCap ≤ ({ panel with head := h }).topCap)) ∧
    (let h := { panel.head with imposed := true, effCap := 700, inSum := 49000, inCount := 1 }
     0 < h.inCount ∧ h.imposed = true ∧ h.inSum ≤ 49000 * h.inCount) ∧
    (panel.tileLive 0 = true ∧ (panel.tile 0).pow.mode ≠ .off ∧ 12 ≤ 12) ∧
    (let s := withPow (fun p => { p with temps := [(12, 95)] })
     Said.up s 0 ∧ (12, 95) ∈ (s.tile 0).pow.temps ∧ Said.threshold 12 ≤ 95 ∧ 8 < (s.tile 0).pow.clockHeat) := by
  unfold Said.up Said.heated; decide
theorem test_wit_PowerCommandsFollowTheTable :
    (((panel.putTile 0 { panel.tile 0 with debug := .halting }).tile 0).debug = .halting ∧
      (panel.tile 0).debug ≠ .halting ∧ panel.holdsWork 0 = false ∧ (panel.tile 0).pow.mode = .run ∧ (panel.tile 0).pow.target = none ∧
      (bound (on st0)).tileLive 0 = true ∧ (bound (on st0)).holdsWork 0 = true) ∧
    (let s := withPow (fun p => { p with mode := .off })
     (s.tile 0).pow.target = none ∧ (s.tile 0).pow.mode = .off) ∧
    (let s := withPow (fun p => { p with target := some .retain }); (s.tile 0).pow.target = some .retain ∧ PowerState.retain ≠ .run) ∧
    (let s := withPow (fun p => { p with mode := .retain, target := some .run })
     s.tileLive 0 = true ∧ (s.tile 0).pow.target = some .run ∧ (s.tile 0).pow.mode = .retain ∧ s.siteOf 0 = some 0) ∧
    (let s := withPow (fun p => { p with mode := .off, target := some .run })
     let s := { s with head := { s.head with tileImage := some img0 } }
     s.siteOf 0 = some 0 ∧ (s.site 0).status = .live ∧ s.head.tileImage.isSome = true ∧ (⟨true, []⟩ : SelfTest).pass = true ∧
     ∀ c, c < 16 → laneFits (s.deadLanes 0 c) = true) ∧
    (Said.up panel 0 ∧ (panel.tile 0).pow.mode = .run ∧ panel.tileAtRest 0 = true ∧
      (let s := withPow (fun p => { p with mode := .idle }); Said.up s 0 ∧ (s.tile 0).pow.mode = .idle)) := by
  refine ⟨?_, ?_, ?_, ?_, ?_, ?_⟩ <;> (try unfold Said.up) <;> decide
/-- A spare: site 2, live at boot and without power. -/
def withSpare : State := panel.putSite 2 ⟨.unpowered, some ⟨true, []⟩, 0⟩
def retire0 : Retirement := ⟨1, 1, 2, 10000, false⟩
theorem test_wit_SparesReplaceTilesAndLanes :
    (15 < 16 ∧ 1039 < 1040 ∧ Said.up panel 0 ∧ panel.siteOf 0 = some 0 ∧ (panel.col (colKey 0 15)).repair = none ∧
      Said.spareLeft panel 0 15 1039 ∧ bits (panel.tile 0).repauth 2 1 = 0) ∧
    (let s := panel.putTile 0 { panel.tile 0 with repauth := 7 }; bits (s.tile 0).repauth 0 1 = 1 ∧ bits (s.tile 0).repauth 2 1 = 1) ∧
    (let s := { panel with head := { panel.head with log := ⟨(List.range 16).map (fun n => newEntry n 3 0 15 n 0 0 0), [], 0⟩ } }
     ¬ Said.spareLeft s 0 15 16) ∧
    (let s := panel.putCol 15 { panel.col 15 with repair := some (4096 + 1039) }; (s.col (colKey 0 15)).repair = some (4096 + 1039) ∧
      ¬ ((s.col (colKey 0 15)).repair = none)) ∧
    (let s := panel.putCol 15 { panel.col 15 with repair := some 1039 }; (s.col (colKey 0 15)).repair = some 1039) ∧
    panel.paOk 0xBFFFFFFF 1 = true ∧
    (panel.siteOf 1 = some 1 ∧ Said.up panel 1 ∧ 10000 ≤ 10000 ∧ panel.retireBusy 1 = false ∧ panel.head.retire = none ∧ panel.spares = [] ∧
      nearest 1 withSpare.spares = some 2 ∧ (∀ c, c < 16 → laneFits (withSpare.deadLanes 2 c) = true) ∧
      { withSpare.head with tileImage := some img0 }.tileImage = some img0) ∧
    (let s := panel.putJob { job0 with lrec := { lrec0 with pcols := 2 }, tiles := [0, 1] }; s.retireBusy 1 = true) ∧
    ({ panel.head with retire := some retire0 }.retire = some retire0 ∧ retire0.copied = false ∧ { retire0 with copied := true }.copied = true ∧
      panel.head.update = none) := by
  refine ⟨?_, ?_, ?_, ?_, ?_, ?_, ?_, ?_, ?_⟩ <;> (try unfold Said.up) <;> (try unfold Said.spareLeft Said.columnKept) <;> decide +kernel
/-- Site 0 with a log that retires its column 15. -/
def columnGone : State :=
  { (panel.putCol 15 { panel.col 15 with repair := some 7 }) with head := { panel.head with log := ⟨[newEntry 0 2 0 15 0 0 0 0], [], 0⟩ } }
theorem test_wit_SparesReplaceTilesAndLanes_more :
    ((columnGone.col 15).repair = some 7 ∧ columnGone.siteOf 0 = some 0 ∧ ¬ Said.columnKept columnGone 0 15 ∧ Said.columnKept columnGone 0 14 ∧
      ¬ Said.unretired columnGone 0 ∧ Said.unretired columnGone 1) ∧
    (let s := on st0
     s.strand? st0.handle = some st0 ∧ st0.inSlot = true ∧
     (let t := { st0 with status := .evicted, loc := ⟨0, 0, 0, 99⟩ }
      (on t).strand? t.handle = some t ∧ t.inSlot = false)) ∧
    (let s := panel.putTile 1 { panel.tile 1 with pow := { (panel.tile 1).pow with mode := .off } }
     s.siteOf 1 = some 1 ∧ s.tileLive 1 = true ∧ s.retireBusy 1 = false ∧ s.head.retire = none ∧
     (s.tile retire0.tile).pow.mode = .off) ∧
    (let s := { panel with head := { panel.head with retire := some { retire0 with copied := true } } }
     s.head.update = none ∧ (s.router retire0.oldSite).buf = [] ∧ (∀ kv ∈ (s.router retire0.oldSite).wire, kv.2 = []) ∧
     (∀ kv ∈ (s.router retire0.oldSite).retry, kv.2 = [])) := by
  refine ⟨?_, ?_, ?_, ?_⟩ <;> (try unfold Said.columnKept Said.unretired) <;> decide +kernel
/-- A strand on its way to tile 1, which is not up, and a posted store to it. -/
def withLoss (m : Msg) : State :=
  let s := bound (on { st0 with status := .inFlight })
  let s := s.putJob job0
  { s with head := { s.head with lost := [1], waits := [(0, 1, 60)] }, msgs := [(50, m)], fresh := 60,
           items := [(50, ⟨77, 3, .posted, some 16, 0, false, 0⟩)] }
theorem test_wit_keyed : Said.keyed panel ∧ Said.keyed (withLoss (.lossNote 0 1)) := by
  refine ⟨⟨by decide, by decide, by decide, by decide, by decide, ?_⟩, ⟨by decide, by decide, by decide, by decide, by decide, ?_⟩⟩
  · intro k h d m x v a b; exact absurd (show FMap.get? panel.transit k = none from rfl) (by rw [b]; simp)
  · intro k h d m x v a b; exact absurd (show FMap.get? (withLoss (.lossNote 0 1)).transit k = none from rfl) (by rw [b]; simp)
theorem test_wit_LossIsTotalNoticedAndResolved :
    (panel.mem.wf = true ∧ panel.siteOf 1 = some 1 ∧ panel.tileLive 1 = true ∧ 12 ≤ 12 ∧ FMap.getD (panel.tile 0).pow.temps 12 0 < 115 ∧
      115 ≤ FMap.getD ((withPow (fun p => { p with temps := [(12, 115)] })).tile 0).pow.temps 12 0) ∧
    (∃ n, (n, Msg.lossNote 0 1) ∈ (withLoss (.lossNote 0 1)).msgs ∧ (withLoss (.lossNote 0 1)).landed n = true) ∧
    (let s := withLoss (.migrate 77 16 [])
     s.head.waits = [(colKey 0 0, 1, 60)] ∧ 50 < 60 ∧ s.tileUp 1 = false ∧ s.msgs = [(50, .migrate 77 16 [])] ∧ 16 / 16 = 1 ∧
     (s.strand? 77).map Strand.colKey = some (colKey 0 0) ∧ s.job? 3 = some job0 ∧ job0.handle = 3 ∧
     (s.strand? 77).map (fun st => (s.col st.dest).refusals.length) = some 0) ∧
    (let s := withLoss (.posted (.bytes [1]) 5 0 (.column 16 0 0 .here false) 50)
     FMap.get? s.items 50 = some ⟨77, 3, .posted, some 16, 0, false, 0⟩) ∧
    panel.head.waits = [] := by
  refine ⟨by decide, ⟨50, ?_, by decide⟩, by decide, by decide, by decide⟩
  exact List.mem_singleton.mpr rfl
theorem test_wit_BringUpAndReset :
    State.reset.head.powered = false ∧ State.reset.head.flow = true ∧ { State.reset.head with flow := false }.flow = false ∧
    (let s := { panel with head := { panel.head with phase := 3, tileImage := some img0 } }
     let t := s.putSite 71 { Site.reset with status := .released }
     let u := s.putSite 71 ⟨.tested, some ⟨true, []⟩, 0⟩
     (t.head.phase = 3 ∧ (t.site 71).status = .released ∧ t.head.tileImage = some img0 ∧ Said.reportsOut t ∧ ¬ Said.reportsOut s) ∧
     (71 < 72 ∧ u.head.phase = 3 ∧ (u.site 71).status = .tested ∧ (u.site 71).report = some ⟨true, []⟩ ∧
       ∀ c, c < 16 → laneFits (u.deadLanes 71 c) = true)) ∧
    (State.reset.sitesIn .live).length < 56 ∧
    (let s := { panel with sites := (List.range 56).map (fun k => (k, { Site.reset with status := .live })) }; 56 ≤ (s.sitesIn .live).length) ∧
    (panel.head.powered = true ∧ ((panel.putDie 0 { panel.die 0 with booted := true }).die 0).booted = true) ∧
    (let s := { panel with head := { panel.head with log := ⟨[newEntry 0 0 0 0 0 0 1 0], [], 0⟩ } }
     s.head.powered = true ∧ 3 ≤ s.head.phase ∧ s.head.log.half ≠ [] ∧ s.head.log.half.length < 1024) ∧
    (((panel.putSite 71 { Site.reset with status := .talkative }).site 71).status = .talkative ∧ (panel.site 0).status = .live) ∧
    ((panel.putDie 3 { panel.die 3 with talkative := true }).die 3).talkative = true := by
  refine ⟨?_, ?_, ?_, ?_, ?_, ?_, ?_, ?_⟩ <;> (try unfold Said.reportsOut) <;> decide
theorem test_wit_BringUpAndReset_more :
    (let s := { panel with head := { panel.head with phase := 3 } }.putSite 71 ⟨.tested, some ⟨true, []⟩, 0⟩
     Said.unretired s 71 ∧ ¬ Said.unretired { s with head := { s.head with log := ⟨[newEntry 0 2 71 3 0 0 0 0], [], 0⟩ } } 71) ∧
    (panel.putDie 3 { panel.die 3 with talkative := true }).die 3 = { panel.die 3 with talkative := true } ∧ (panel.die 3).off = false ∧
    ((panel.putSite 71 ⟨.talkative, some ⟨false, []⟩, 0⟩).site 71).report = some ⟨false, []⟩ := by
  unfold Said.unretired; decide
/-- The link from router 0 to its I/O die Up, and no other. -/
def oneLink : State :=
  let s := panel.putRouter 72 { Router.reset with ports := [(8, ⟨2, 0, 0⟩)] }
  s.putRouter 0 { Router.reset with ports := [(5, ⟨2, 0, 0⟩)] }
theorem test_wit_LossIsTotalNoticedAndResolved_more :
    (FMap.sorted [(0, 1), (1, 2), (72, 0)] = true ∧ oneLink.siteOf 1 = some 1 ∧ oneLink.tileLive 1 = true ∧ oneLink.tileLive 0 = true ∧
      FMap.get? [(0, 1), (1, 2), (72, 0)] 1 = some 2 ∧ oneLink.reached = [(0, 1), (72, 0)] ∧ oneLink.mem.wf = true ∧ oneLink.head.retire = none ∧
      (∀ n, n < 64 → n ≠ 1 → (oneLink.siteOf n = none ∨ oneLink.siteOf n = some 0))) ∧
    (let s := { withLoss (.postedAck 50 true) with transit := [(50, ⟨1, 1, 0, 0, false⟩)] }
     s.msgs = [(50, .postedAck 50 true)] ∧ s.landed 50 = false ∧ s.isLost 50 = false ∧ FMap.get? s.items 50 = some ⟨77, 3, .posted, some 16, 0, false, 0⟩ ∧
     s.strand? 77 = some { st0 with status := .inFlight }) ∧
    (let s := panel.send (.lateAns 3); s.msg? panel.fresh = some (.lateAns 3)) ∧
    (let r : Retirement := { retire0 with copied := true, oldSite := 9 }
     let s := { oneLink with head := { oneLink.head with retire := some r, remap := [(0, remapEntry 1 0)] } }
     s.head.retire = some r ∧ FMap.get? [(0, 1), (9, 4), (72, 0)] 9 = some 4 ∧ FMap.get? s.reached 9 = none ∧ s.tileLive 0 = true ∧
     ∀ n, n < 64 → (s.siteOf n = none ∨ s.siteOf n = some 0)) := by
  refine ⟨?_, ?_, ?_, ?_⟩ <;> decide +kernel
def token0 : Token := ⟨0, 9, 3, 31, 86400, 0, 0⟩
/-- An open tile, its core 5 halted, with core 5's strand selected. -/
def opened : State :=
  let s := bound (on { st0 with loc := ⟨0, 0, 5, 0⟩, status := .halted })
  let s := s.putTile 0 { s.tile 0 with debug := .opened, opened := true, dbgsel := 80 }
  s.putCore 5 { s.core 5 with dbgctl := 0 }
theorem test_wit_DebugAccessAndHalts :
    (panel.head.production = false ∧ panel.tileLive 0 = true ∧ { panel.head with production := true }.production = true ∧ panel.head.phase ≠ 0) ∧
    (token0.serial = panel.head.serial ∧ 0 < token0.duration.toNat ∧ token0.duration.toNat ≤ 86400 ∧ token0.perms.toNat < 32) ∧
    (32 ≤ ({ token0 with perms := 32 } : Token).perms.toNat ∧ 86400 < ({ token0 with duration := 86401 } : Token).duration.toNat) ∧
    (let s := { panel with head := { panel.head with token := some token0 } }
     s.head.token = some token0 ∧ s.head.tokenUntil ≤ (s.die 0).timer) ∧
    (767 < 768 ∧ opened.tileUp 0 = true ∧ opened.tileLive 0 = true ∧ (opened.tile 0).debug ≠ .closed ∧ opened.head.production = false ∧
      (opened.core (coreKey 0 767)).halted = false ∧ (opened.core (coreKey 0 767)).group = 0 ∧ (opened.tile 0).pow.mode = .run) ∧
    ((withPow (fun p => { p with mode := .retain })).tileLive 0 = true ∧ (withPow (fun p => { p with mode := .retain })).tileUp 0 = false) ∧
    (let s := opened.send (.halt 767 false)
     s.msg? opened.fresh = some (.halt 767 false) ∧ (s.tile (767 / 768)).debug ≠ .closed ∧ s.tileUp (767 / 768) = true ∧
     (s.core 767).halted = false) ∧
    (opened.debugMay 0 2 = true ∧ opened.debugMay 0 3 = true ∧ opened.debugMay 0 4 = true ∧ panel.debugMay 0 3 = false ∧ panel.debugMay 0 4 = false ∧
      opened.paOk 0xBFFFFFF8 8 = true) ∧
    (opened.waitsPhys 0xBFFFFFF8 8 = false ∧ inContextStore 0xBFFFFFF8 = true ∧ (inRepair opened).waitsPhys 0 8 = true ∧
      inContextStore 0 = false ∧ opened.waitsPhys 0 8 = false) ∧
    (let s := opened.putCore 5 { opened.core 5 with dbgctl := 2 ^ 63 }
     let s := s.putCore 6 { s.core 6 with dbgctl := 2 ^ 63 + 3 * 2 ^ 44 }
     let s := s.putCore 7 { s.core 7 with dbgctl := 3 * 2 ^ 44 }
     (s.core (coreKey 0 6)).halted = true ∧ (s.core (coreKey 0 6)).group = 3 ∧ (s.core 7).group = 3 ∧ (s.core 7).halted = false ∧
     7 ≠ coreKey 0 6 ∧ (s.tile (7 / 768)).debug ≠ .closed ∧ ∀ kv ∈ s.msgs, kv.2 ≠ .halt 7 false) ∧
    (let s := opened.putCore 5 { opened.core 5 with dbgctl := 2 ^ 63 }
     (s.selected 0).isSome = true ∧ 64 + 8 * (15 : GReg).toNat = 184 ∧ 192 + 8 * 7 = 248) := by decide
/-- The panel's routers 0 and 1 with their bank 0 written, the link between them Up, and a flit for tile 1. -/
def router0 (route : FMap (BitVec 16)) (p : Nat) : Router :=
  { Router.reset with ports := [(p, ⟨2, 0, 0⟩)], remap := [(0, remapEntry 1 0), (1, remapEntry 1 1)], route := route }
def meshed : State := (panel.putRouter 0 (router0 [(0, 16), (1, 8)] 3)).putRouter 1 (router0 [(0, 4), (1, 16)] 2)
def flit0 : Flit := ⟨7, 0, 1, 2, false, true, 0, 4⟩
/-- A flit of class 0 for the same way. -/
def flitHost : Flit := { flit0 with id := 8, cls := 0 }
def wired (r : Nat) (f : Router → Router) : State := meshed.putRouter r (f (meshed.router r))
def update0 : TableUpdate := ⟨2, panel.head.remap, [], [0, 1], [0], [], false, []⟩
def updating (u : TableUpdate) : State := { meshed with head := { meshed.head with update := some u } }
/-- Two flits for one way at router 0. -/
def crowded : State := wired 0 (fun x => { x with buf := [flit0, flitHost] })
theorem test_carries : Said.carries meshed 0 3 ∧ Said.carries meshed 1 2 ∧ ¬ Said.cut meshed 0 3 ∧
    (let s := wired 0 (fun x => { x with ports := [(3, ⟨3, 0, 0⟩)] }); ¬ Said.carries s 0 3 ∧ Said.cut s 0 3 ∧ Said.lstate s 0 3 = 3) := by
  refine ⟨⟨1, 2, rfl, by decide, by decide⟩, ⟨0, 3, rfl, by decide, by decide⟩, fun h => ?_, ?_, ?_, by decide⟩
  · exact absurd (h 1 2 rfl) (by decide)
  · rintro ⟨q, k, h, a, -⟩; exact absurd a (by decide)
  · intro q k h; cases h; exact Or.inl (by decide)
/-- An update with a message of it on its way. -/
def updateSent (u : TableUpdate) (m : Msg) : State := { updating u with msgs := [(50, m)] }
theorem test_wit_update_messages :
    (∃ id, (id, Msg.tableUpdate 1) ∈ (updateSent update0 (.tableUpdate 1)).msgs) ∧
    (∀ id, (id, Msg.tableUpdate 1) ∉ (updating update0).msgs) ∧
    (∃ id, (id, Msg.tableAck 0) ∈ (updateSent update0 (.tableAck 0)).msgs) ∧
    (∃ id, (id, Msg.tableCommit 1) ∈ (updateSent update0 (.tableCommit 1)).msgs) ∧
    (let s := updating update0
     let y : Retirement := { retire0 with copied := true }
     ({ s with head := { s.head with retire := some y } }).head.retire = some y ∧ y.oldSite = 1 ∧ y.copied = true ∧ y.tile < 64) := by
  refine ⟨⟨50, List.mem_singleton.mpr rfl⟩, fun id h => ?_, ⟨50, List.mem_singleton.mpr rfl⟩, ⟨50, List.mem_singleton.mpr rfl⟩, by decide⟩
  exact absurd h (by rw [show (updating update0).msgs = [] from rfl]; exact List.not_mem_nil)
theorem test_takes (s : State) (r p : Nat) (f : Flit) (h : s.exits r f = [some p]) (c : 0 < s.credits r p f.channel) : Said.takes s r f (some p) := by
  refine ⟨by rw [h]; simp, by rw [h]; simp, ?_⟩
  rw [h]
  intro q hq
  cases hq
  refine ⟨c, ?_⟩
  intro q hq
  simp only [List.mem_singleton, Option.some.injEq] at hq
  subst hq
  exact ⟨Nat.le_refl _, fun _ => Nat.le_refl _⟩
theorem test_wit_MeshMovesFlitsAndChangesTables :
    (let s := wired 1 (fun x => { x with wire := [(2, [flit0])] })
     let g := Said.taken (s.router 1) { flit0 with inp := 2 }
     2 ≠ 4 ∧ FMap.getD (s.router 1).wire 2 [] = [flit0] ∧ ¬ Said.noTile (s.router 1) g.parity g.dst ∧ linkPeer 1 2 = some (0, 3) ∧ 0 ≠ 1) ∧
    (∀ c, c = 1 ∨ c = 2 → let s := wired 1 (fun x => { x with wire := [(2, [{ flit0 with cls := c, dst := 2 }])] })
     let g := Said.taken (s.router 1) { flit0 with cls := c, dst := 2, inp := 2 }
     Said.noTile (s.router 1) g.parity g.dst ∧ ¬ Said.noTile (s.router 1) (s.router 1).active flit0.src) ∧
    (let s := { meshed with msgs := [(50, .releaseNote 1 3)], transit := [(50, ⟨0, 1, 0, 0, false⟩)] }
     let full := s.putRouter 0 { s.router 0 with slots := 0 }
     s.nodeOf 0 = some 0 ∧ (s.router 0).serves 0 0 = true ∧ s.msgDest (.releaseNote 1 3) = some 1 ∧
       (s.router 0).held 4 (2 * (Msg.releaseNote 1 3).trafficClass) < (s.router 0).slots ∧ ¬ Said.noTile (s.router 0) (s.router 0).active 1 ∧
       (full.router 0).serves 0 0 = true ∧ ¬ (full.router 0).held 4 (2 * (Msg.releaseNote 1 3).trafficClass) < (full.router 0).slots) ∧
    (let s := wired 0 (fun x => { x with retry := [(3, [flit0])] })
     linkPeer 0 3 = some (1, 2) ∧ FMap.getD (s.router 0).retry 3 [] = [flit0] ∧ (FMap.getD (s.router 1).wire 2 []).length ≤ 0 ∧ 1 ≠ 0 ∧
       Said.lstate s 0 3 = 2 ∧ FMap.getD (s.router 0).retry 3 [] ≠ []) ∧
    (let s := wired 0 (fun x => { x with buf := [{ flit0 with escape := true, dst := 2 }], route := [(2, 6 * 512)] })
     (s.router 0).buf[0]? = some { flit0 with escape := true, dst := 2 } ∧ s.misrouted 0 { flit0 with escape := true, dst := 2 } = true) ∧
    ((crowded.router 0).buf[0]? = some flit0 ∧ (crowded.router 0).buf[1]? = some flitHost ∧ crowded.misrouted 0 flit0 = false ∧
      crowded.misrouted 0 flitHost = false ∧ Said.takes crowded 0 flit0 (some 3) ∧ Said.takes crowded 0 flitHost (some 3) ∧
      Said.turn (crowded.router 0) (some 3) flitHost.cls < Said.turn (crowded.router 0) (some 3) flit0.cls ∧
      ∀ g ∈ (crowded.router 0).buf, Said.turn (crowded.router 0) (some 3) flitHost.cls ≤ Said.turn (crowded.router 0) (some 3) g.cls) ∧
    (let s := wired 0 (fun x => { x with buf := [flit0] })
     let t := s.putRouter 1 { s.router 1 with slots := 0 }
     flit0.escape = false ∧ t.exits 0 flit0 = [some 3] ∧ t.credits 0 3 flit0.channel = 0 ∧ s.exits 0 flit0 = [some 3] ∧ 0 < s.credits 0 3 flit0.channel) ∧
    (let s := wired 0 (fun x => { x with ports := [(3, ⟨1, 0, 0⟩)], retry := [(3, [flit0])] })
     Said.lstate s 0 3 = 1 ∧ FMap.sorted (s.router 0).retry = true ∧ FMap.sorted (s.router 1).wire = true) ∧
    ((updating update0).head.update = some update0 ∧ 1 ∈ update0.nodes ∧ 1 ∉ update0.received ∧ 0 ∈ update0.received ∧ 0 ∉ update0.acked ∧
      FMap.sorted (meshed.router 1).remap = true ∧ FMap.sorted (meshed.router 1).route = true ∧ FMap.sorted (meshed.router 1).io = true ∧
      FMap.sorted update0.remap = true ∧ (∀ kv ∈ update0.remap, kv.1 < 64) ∧ (updating update0).head.retire = none ∧
      FMap.get? update0.remap 1 = some (remapEntry 1 1)) ∧
    (let u := { update0 with received := [0, 1], acked := [0, 1], committing := true, committed := [0] }
     u.committing = true ∧ 1 ∈ u.nodes ∧ 1 ∉ u.committed) ∧
    (let u := { update0 with received := [0, 1], acked := [0, 1], committing := true, committed := [0, 1] }
     let s := updating u
     (∀ q ∈ u.nodes, q ∈ u.committed) ∧ (∀ q ∈ u.nodes, ∀ f ∈ (s.router q).buf, f.parity = (s.router q).active) ∧
     (∀ q ∈ u.nodes, ∀ kv ∈ (s.router q).wire, ∀ f ∈ kv.2, f.parity = (s.router q).active) ∧ s.head.stale = false ∧
     { s.head with stale := true }.stale = true ∧
     (let v := s.putRouter 0 { s.router 0 with buf := [{ flit0 with parity := 1 }] }
      { flit0 with parity := 1 } ∈ (v.router 0).buf ∧ (1 : Nat) ≠ (v.router 0).active)) := by
  refine ⟨?_, ?_, ?_, ?_, ?_, ⟨by decide, by decide, by decide, by decide, test_takes _ _ _ _ (by decide) (by decide),
    test_takes _ _ _ _ (by decide) (by decide), by decide, by decide⟩, ?_, ?_, ?_, ?_, ?_⟩
  · unfold Said.noTile; decide
  · rintro c (rfl | rfl) <;> unfold Said.noTile <;> decide
  · unfold Said.noTile; decide
  all_goals decide
def withRead (t : Target) (c : ItemClass) : State :=
  let s := withItem panel st0 c none
  { s with msgs := [(50, .read (.reg 77 2 50 8 false none) 5 0 8 t 50), (51, .posted (.bytes [1]) 5 0 t 50)] }
/-- An I/O die that has booted. -/
def booted (s : State) (d : Nat) : State := s.putDie d { s.die d with booted := true }
/-- Port 0's window is open; a read and a write of 8 bytes at an address are at the address' home. -/
def windowed (pa : Nat) : State :=
  let s := booted panel 0
  { s.putPort 0 { s.port 0 with winEn := true } with
    msgs := [(50, .winRead 49 pa 8 [(pa, 8)]), (51, .winWrite 0 pa 8 [(pa, [1, 2, 3, 4, 5, 6, 7, 8])])], winReads := [(49, ⟨0, pa, 8, [], 1, false⟩)], fresh := 60 }
def tab0 : BedTable := ⟨1, 0, [(0, wordBed)]⟩
/-- A peer's table for address space 5, over the local bed of tile 0. -/
def forPeers : State := booted (bound (withBed st0 wordBed)) 0
/-- Clause by clause; the windows' pieces at the last populated bytes, beyond them, and in the context store. -/
theorem test_wit_HostRegistersWindowsAndPeers :
    (7 < 8 ∧ panel.tileUp 1 = true ∧ 0x1000 + 16 * 7 = 0x1070 ∧ 0x800000 + 32 * 65535 < 0xA00000 ∧ 75 < 76 ∧ 3 < 4 ∧ 39 < 40 ∧
      (booted panel 3).dieWorks 3 = true ∧ panel.unboundTile 1 = false ∧ State.reset.unboundTile 1 = true) ∧
    ((panel.port 0).winEn = false ∧ panel.dieWorks 0 = false) ∧
    (let s := windowed 0
     (s.port 0).winEn = true ∧ s.dieWorks (0 / 2) = true ∧ (s.port 0).winBase = 0 ∧ 56 % 64 + 8 ≤ 64 ∧ 56 % 8 + 8 ≤ 8 ∧ (s.paOk 63 1) = true ∧
       (63 : Nat) / 64 + 1 < (63 + 2 + 63) / 64) ∧
    (let s := windowed 0xC0000000
     s.msg? 50 = some (.winRead 49 0xC0000000 8 [(0xC0000000, 8)]) ∧ 0xC0000000 % 8 + 8 ≤ 8 ∧ s.waitsPhys (0xC0000000 / 64 * 64) 64 = false ∧
     s.paOk 0xC0000000 8 = false ∧ FMap.get? s.winReads 49 = some ⟨0, 0xC0000000, 8, [], 1, false⟩ ∧
     s.msg? 51 = some (.winWrite 0 0xC0000000 8 [(0xC0000000, [1, 2, 3, 4, 5, 6, 7, 8])])) ∧
    (let s := windowed 0xB7FFFFF8
     s.msg? 50 = some (.winRead 49 0xB7FFFFF8 8 [(0xB7FFFFF8, 8)]) ∧ s.waitsPhys (0xB7FFFFF8 / 64 * 64) 64 = false ∧
     s.paOk 0xB7FFFFF8 8 = true ∧ inContextStore 0xB7FFFFF8 = false ∧
     FMap.get? (s.bump.physReadIn 0xB7FFFFF8 8 false).1.winReads 49 = some ⟨0, 0xB7FFFFF8, 8, [], 1, false⟩) ∧
    (let s := windowed 0xB8000000
     let s := { s with head := { s.head with production := true } }
     s.msg? 50 = some (.winRead 49 0xB8000000 8 [(0xB8000000, 8)]) ∧ s.waitsPhys (0xB8000000 / 64 * 64) 64 = false ∧
     s.paOk 0xB8000000 8 = true ∧ inContextStore 0xB8000000 = true ∧ FMap.get? s.winReads 49 = some ⟨0, 0xB8000000, 8, [], 1, false⟩) ∧
    (let s := { windowed 0 with msgs := [(50, .winRead 49 0 16 [(0, 8), (8, 8)])] }
     s.msg? 50 = some (.winRead 49 0 16 [(0, 8), (8, 8)]) ∧ 2 ≤ [((0 : Nat), (8 : Nat)), (8, 8)].length ∧ s.waitsPhys (0 / 64 * 64) 64 = false ∧
       s.paOk 0 16 = true ∧ inContextStore 0 = false ∧ (s.bump.physReadIn 0 8 false).2 = some 0 ∧ (s.bump.physReadIn 8 8 false).2 = some 0) ∧
    (∀ kv ∈ panel.msgs, ∀ a b l, kv.2 ≠ .winWrite 0 a b l) ∧
    (let s := booted ((withRead (.host 0 0 4096) .read).putDie 0 { panel.die 0 with apers := [(0, 2 ^ 63 + 1)] }) 0
     s.msg? 50 = some (.read (.reg 77 2 50 8 false none) 5 0 8 (.host 0 0 4096) 50) ∧ s.aperServes 0 0 4088 8 false = true) ∧
    (let s := withRead (.peer 0 0 0 0) .posted
     let t := booted (s.putDie 0 { s.die 0 with peers := [(0, 2 ^ 39)] }) 0
     s.msg? 50 = some (.read (.reg 77 2 50 8 false none) 5 0 8 (.peer 0 0 0 0) 50) ∧ 50 ∉ (s.die 0).framed ∧ s.peerMask 0 0 = 0 ∧
     t.msg? 50 = some (.read (.reg 77 2 50 8 false none) 5 0 8 (.peer 0 0 0 0) 50) ∧ t.peerMask 0 0 ≠ 0 ∧ t.dieWorks 0 = true ∧
     s.msg? 51 = some (.posted (.bytes [1]) 5 0 (.peer 0 0 0 0) 50) ∧ FMap.get? s.items 50 = some ⟨77, 3, .posted, none, 0, false, 0⟩) ∧
    ((booted panel 0).dieWorks 0 = true ∧ (booted panel 0).peerTable 9 = none) ∧
    (forPeers.dieWorks 0 = true ∧ forPeers.peerTable 5 = some (0, tab0) ∧ tab0.check .ldr 65528 1 = .inr ⟨0, wordBed⟩ ∧
      tab0.check .stp 65528 1 = .inr ⟨0, wordBed⟩ ∧ forPeers.targetBed ⟨0, wordBed⟩ (tab0.spills 0) 0 65528 = .column 0 0 65528 .here false ∧
      forPeers.tileUp (0 / 16) = true ∧ forPeers.waitsFor (.column 0 0 65528 .here false) 5 8 0 = false ∧
      forPeers.waitsFor (.column 0 0 65528 .here false) 5 8 1 = false) := by
  refine ⟨by decide, by decide, by decide, by decide, by decide, by decide, by decide, ?_, by decide, by decide, by decide, by decide⟩
  intro kv h; cases h
/-- Die 0's peer 0 by port 39, which is in a link state. -/
def withPort (n : Nat) : State :=
  let s := booted (withRead (.peer 0 0 0 0) .posted) 0
  s.putDie 0 { s.die 0 with peers := [(0, 2 ^ 39)], scaleUp := [(39, ⟨n, 0, 0⟩)], framed := if n = 2 then [50, 51] else [] }
theorem test_wit_HostRegistersWindowsAndPeers_more :
    (readsWithEffect 0x1010 = false ∧ 0xA00000 ≤ 2 ^ 32 - 1 ∧
      (let s := panel.putTile 1 { panel.tile 1 with pow := { (panel.tile 1).pow with mode := .retain } }; s.tileLive 1 = true ∧ s.tileUp 1 = false)) ∧
    (let s := { windowed 0xB8000000 with badLines := [0xB8000000 / 64] }
     s.msg? 50 = some (.winRead 49 0xB8000000 8 [(0xB8000000, 8)]) ∧ s.waitsPhys (0xB8000000 / 64 * 64) 64 = false ∧ s.paOk 0xB8000000 8 = true ∧
     inContextStore 0xB8000000 = true ∧ FMap.get? s.winReads 49 = some ⟨0, 0xB8000000, 8, [], 1, false⟩ ∧ s.head.production = false ∧
     ∃ l ∈ s.badLines, 0xB8000000 / 64 ≤ l ∧ l ≤ (0xB8000000 + 8 - 1) / 64) ∧
    (let s := withPort 2
     let x := FMap.getD (s.die 0).scaleUp 39 ⟨0, 0, 0⟩
     s.msg? 50 = some (.read (.reg 77 2 50 8 false none) 5 0 8 (.peer 0 0 0 0) 50) ∧ s.peerMask 0 0 ≠ 0 ∧ (s.peerMask 0 0).getLsbD 39 = true ∧ x.lstate = 2 ∧
     s.dieWorks 0 = true ∧ 50 ∈ (s.die 0).framed ∧ [(1 : Byte)].length ≤ 9216 ∧
     s.msg? 51 = some (.posted (.bytes [1]) 5 0 (.peer 0 0 0 0) 50) ∧ 51 ∈ (s.die 0).framed) ∧
    (let s := withPort 1
     s.peerMask 0 0 ≠ 0 ∧ (∀ p, p < 40 → (FMap.getD (s.die 0).scaleUp p ⟨0, 0, 0⟩).lstate ≠ 2) ∧ 51 ∉ (s.die 0).framed ∧ s.dieWorks 0 = true) := by
  refine ⟨by decide, ⟨by decide, by decide, by decide, by decide, by decide, by decide, 0xB8000000 / 64, List.mem_singleton.mpr rfl, by decide⟩, by decide, by decide⟩
/-- Queue 9 Active with one entry at slot 0 of its ring in host memory. -/
def queue0 : Queue := { Queue.reset with en := true, state := .active, tail := 1, asid := 5 }
def withQueue (q : Queue) (e : Nat) : State := { panel.putQueue 9 q with hostMem := (panel.hostMem).write 0 64 e }
theorem test_wit_QueuesFetchOrFail :
    (queue0.en = true ∧ Queue.reset.en = false ∧ Queue.reset.state ≠ .error ∧ Queue.reset.late = false) ∧
    (let n4 : BitVec 64 := 4 * 2 ^ 32; let n16 : BitVec 64 := 16 * 2 ^ 32; let n17 : BitVec 64 := 17 * 2 ^ 32
     n4.toNat / 2 ^ 60 % 4 ≠ 3 ∧ 4 ≤ n4.toNat / 2 ^ 32 % 32 ∧ n16.toNat / 2 ^ 32 % 32 ≤ 16 ∧ 16 < n17.toNat / 2 ^ 32 % 32 ∧
     Said.ahead (16 : BitVec 32) 0 ≤ 2 ^ 4 ∧ 2 ^ 4 < Said.ahead (17 : BitVec 32) 0) ∧
    (queue0.state = .active ∧ Said.ahead queue0.tail 0 = 1 ∧ Said.ahead queue0.tail 0x80000002 = 2 ^ 31 - 1 ∧ Said.ahead 0x80000001 queue0.tail = 2 ^ 31 ∧
      Said.ahead 16 queue0.head ≤ 2 ^ queue0.log2n ∧ 2 ^ queue0.log2n < Said.ahead 17 queue0.head ∧ Queue.reset.state ≠ .active) ∧
    (let s := booted (withQueue queue0 (2 ^ 359)) 0
     let idle := booted panel 0
     s.head.phase = 5 ∧ s.dieWorks 0 = true ∧ s.nextQueue 0 = (s.newRound 0, some (9, 1)) ∧ (((s.newRound 0).queue 9).held = false) ∧
       ((s.newRound 0).queue 9).loc = 0 ∧ idle.nextQueue 0 = (idle, none) ∧ FMap.sorted s.queues = true ∧ s.pickQueue 0 = some (9, 1, true)) ∧
    (let s := booted (withQueue { queue0 with loc := 2, base := 0xC0000000 } 0) 0
     s.nextQueue 0 = (s.newRound 0, some (9, 1)) ∧ ((s.newRound 0).queue 9).loc = 2 ∧
       (((s.newRound 0).putDie 0 { (s.newRound 0).die 0 with turns := [(0, 9, 1)] }).physRead 0xC0000000 64).2 = none) ∧
    (let s := booted (withQueue { queue0 with held := true } 0) 0
     s.nextQueue 0 = (s.newRound 0, some (9, 1)) ∧ ((s.newRound 0).queue 9).held = true) ∧
    ((2 ^ 359 + 1) % 2 ^ 358 ≠ 0 ∧ 2 ^ 359 % 2 ^ 358 = 0 ∧ 2 ^ 359 / 2 ^ 359 % 2 = Said.expected 0 4 ∧ 0 / 2 ^ 359 % 2 ≠ Said.expected 0 4 ∧
      Said.expected 16 4 = 0 ∧ 2 < Said.entryKind (3 * 2 ^ 360) ∧ Said.entryKind (2 * 2 ^ 360) = 2 ∧ Said.entryKind (2 ^ 360) = 1 ∧
      Said.entryLen (2 ^ 360) = 0 ∧ Said.entryLen (2 ^ 368) ≠ 0) ∧
    (let s := inRepair (booted (withQueue { queue0 with loc := 2, base := 0 } 0) 0)
     s.nextQueue 0 = (s.newRound 0, some (9, 1)) ∧ ((s.newRound 0).queue 9).loc = 2 ∧ ((s.newRound 0).queue 9).held = false ∧
       (s.newRound 0).waitsPhys 0 64 = true) ∧
    (let q := { queue0 with markers := [⟨8, 1, false, [3]⟩] }; q.markers = [⟨8, 1, false, [3]⟩] ∧ (∀ j ∈ [3], j ∉ q.jobs) ∧ q.loc = 0) := by
  refine ⟨?_, ?_, ?_, ?_, ?_, ?_, ?_, ?_, ?_⟩ <;> decide
def pendJob : Job := { job0 with state := .pending, released := false, tilesLeft := [], tiles := [] }
def inbox0 : InboxRec := ⟨9, 0, 0, [0, 0, 0], 3, 0, false, 0⟩
/-- An Active record of one task for column 0. -/
def rec0 : BindRec := ⟨3, 5, 0, 15, .active, 0, 0, 1, 1, [7]⟩
def withRec (m : BitVec 48) : State := panel.putTile 0 { panel.tile 0 with recs := [(0, { rec0 with cmask := m })] }
def launchMsg (n : Nat) : Msg := .launch 77 2 50 9 5 0 n false (.column 0 0 0 .here false)
def withLaunch (q : Queue) : State :=
  let s := withBed st0 wordBed
  { (bound s).putQueue 9 q with msgs := [(50, launchMsg 0), (51, launchMsg 3)], fresh := 60 }
theorem test_wit_JobsAreAcceptedBoundAndCompleted :
    (let s := panel.putTile 0 { panel.tile 0 with inbox := [inbox0] }
     s.tileUp 0 = true ∧ (s.tile 0).nextRecord = some inbox0 ∧ s.freeJob 0 = some 0 ∧ (s.pendingJobs 0).length < 256) ∧
    (panel.tileLive 0 = true ∧ (∀ kv ∈ panel.jobs, kv.2.handle / 1024 ≠ 0) ∧ pendJob.handle / 1024 = 0 ∧ pendJob.orphan = false ∧
      pendJob.state = .pending ∧ pendJob.lrec.preds = []) ∧
    (let j := { pendJob with lrec := { lrec0 with preds := [⟨0, 1, 0, 0⟩] } }
     let s := bound ((withBed st0 wordBed).putJob j)
     s.jobs = [(3, j)] ∧ j.lrec.preds = [⟨0, 1, 0, 0⟩] ∧ (s.gardenRead j 0).2 = some 0 ∧ (s.gardenRead j 0x10000).2 = none) ∧
    (let s := panel.putJob pendJob
     s.job? 3 = some pendJob ∧ (∀ p ∈ pendJob.preds, p = 1 ∨ p = 2) ∧ s.tileUp (3 / 1024) = true ∧
     s.placementOk pendJob [⟨0, 0, 0, 1, 15, 1⟩] = true) ∧
    ((panel.send (.releaseNote 0 3)).msg? panel.fresh = some (.releaseNote 0 3)) ∧
    ((withRec 0).nextRecord 0 0 = some (0, { rec0 with cmask := 0 }) ∧ Said.up (withRec 0) 0) ∧
    ((withRec 1).nextRecord 0 0 = some (0, rec0) ∧
      ((withRec 1).putCol 0 { (withRec 1).col 0 with visit := 0 }).pickCore 0 0
        (fun k => rec0.cmask.getLsbD (k % 48) && decide (((withRec 1).putCol 0 { (withRec 1).col 0 with visit := 0 }).recordStrands 0 k 0 < rec0.budget))
        = some 0) ∧
    ((panel.core (coreKey 0 767)).halted = false ∧ panel.strands = []) ∧
    (let t := { st0 with status := .queued, loc := ⟨0, 15, 767, 0⟩ }
     let s := (bound (on t)).putCore 767 { (panel.core 767) with arrival := [77] }
     s.strands = [(t.handle.toNat, t)] ∧ (s.core (coreKey 0 767)).arrival = [t.handle] ∧ (s.core (coreKey 0 767)).urgent = [] ∧
     (s.col (colKey 0 (767 / 48))).resume = []) ∧
    (Said.quiet (panel.putJob job0) job0 ∧ (panel.putJob job0).job? 3 = some job0 ∧ panel.job? 3 = none) ∧
    (let q := { queue0 with loc := 2 }
     let s := withLaunch q
     s.msg? 50 = some (launchMsg 0) ∧ s.msg? 51 = some (launchMsg 3) ∧ ((s.unsend 51).physOf 5 (.column 0 0 0 .here false)).2 ≠ none ∧
     (s.queue 9).loc = 2 ∧ (s.queue 9).state = .active ∧ Said.ahead (s.queue 9).tail (s.queue 9).head ≠ 2 ^ (s.queue 9).log2n ∧ (s.queue 9).asid = 5 ∧
     Said.ahead ({ q with tail := 16 }).tail q.head = 2 ^ q.log2n ∧
     ((({ s with cols := [] }).unsend 51).physOf 5 (.column 0 0 0 .here false)).2 = none) := by
  refine ⟨?_, ?_, ?_, ?_, ?_, ?_, ?_, ?_, ?_, ⟨⟨by decide, rfl, by decide, by decide, by decide, by decide, fun kv h => ?_, by decide⟩, by decide, rfl⟩, ?_⟩ <;>
    (try unfold Said.up) <;> first | decide | cases h
/-- The rest of its clauses: a record that lands, the job whose turn it is to be bound, and the grant of a slot. -/
theorem test_wit_JobsAreAcceptedBoundAndCompleted_more :
    (let s := { panel with msgs := [(50, .launchRec 0 inbox0)] }
     s.msgs = [(50, .launchRec 0 inbox0)] ∧ s.landed 50 = true) ∧
    (let s := panel.putJob { pendJob with lrec := { lrec0 with preds := [] } }
     let j := { pendJob with lrec := { lrec0 with preds := [] } }
     s.tileUp (3 / 1024) = true ∧ (s.nextBind (3 / 1024)).map (·.handle) = some 3 ∧ j.lrec.goaddr = 0 ∧ (∀ p ∈ j.preds, p = 1 ∨ p = 2) ∧
     s.gardenWaits j .stp j.lrec.cwaddr 1 = false) ∧
    (let t := { st0 with status := .queued, loc := ⟨0, 15, 767, 0⟩ }
     let a := { t with handle := 78, cls := .migrating }
     let s := ((bound (on t)).putStrand a).putCore 767 { (panel.core 767) with arrival := [77, 78] }
     let v := ((bound (on t)).putStrand a).putCore 767 { (panel.core 767) with urgent := [77] }
     let u := ((bound (on t)).putStrand { a with cls := .fresh }).putCore 767 { (panel.core 767) with arrival := [77, 78] }
     t.imgBad = false ∧ (s.core (coreKey 0 767)).halted = false ∧ (s.core (coreKey 0 767)).urgent = [] ∧ (s.col (colKey 0 (767 / 48))).resume = [] ∧
     (∀ kv ∈ s.strands, kv.2.status = .queued) ∧ s.strand? 77 = some t ∧ s.strand? 78 = some a ∧ (s.core (coreKey 0 767)).arrival = [t.handle, a.handle] ∧
     (a.cls, t.cls) = (QueueClass.migrating, QueueClass.fresh) ∧ Said.before a.cls t.cls ∧ (v.core (coreKey 0 767)).urgent = [t.handle] ∧
     (u.core (coreKey 0 767)).arrival = [t.handle, 78]) ∧
    (let t := { st0 with status := .evicted, loc := ⟨0, 15, 767, 0⟩ }
     let s := ((bound (on t)).putCore 767 (panel.core 767)).putCol 15 { panel.col 15 with resume := [77] }
     (s.core (coreKey 0 767)).urgent = [] ∧ (s.col (colKey 0 (767 / 48))).resume = [t.handle] ∧ t.urgent = false ∧ t.coreKey = coreKey 0 767 ∧
     t.loc.col = 767 / 48 ∧ (∀ kv ∈ s.strands, kv.2.status = .queued ∨ kv.2 = t) ∧ s.strand? t.handle = some t) := by
  refine ⟨?_, ?_, ?_, ?_⟩ <;> (try unfold Said.before) <;> decide
/-- Job 0's table wanted by a launch, a word polled, and a launch record read, each where its column is under repair. -/
theorem test_wit_JobsAreAcceptedBoundAndCompleted_waits :
    (panel.tablesWait lrec0 = false ∧ st0.imgBad = false ∧ panel.imageErr st0 = none) ∧
    (let j := { pendJob with lrec := { lrec0 with preds := [⟨0, 1, 0, 1⟩] } }
     let s := inRepair (bound ((withBed st0 wordBed).putJob j))
     s.jobs = [(3, j)] ∧ s.gardenWaits j .ldr 0 0 = true ∧ (bound ((withBed st0 wordBed).putJob j)).gardenWaits j .ldr 0 0 = false) ∧
    (let q := { queue0 with loc := 2 }
     let g := Target.column 0 0 0 .here false
     (inRepair (withLaunch q)).launchWaits 9 g = true ∧ (withLaunch q).launchWaits 9 g = false) := by
  refine ⟨?_, ?_, ?_⟩ <;> decide
/-- A panel on which one strand of job 3, in a given state, is all there is, with one message. -/
def oneStrand (t : Strand) (m : Msg) (j : Job) : State :=
  let s := bound ((withBed t wordBed).putJob j)
  { s with msgs := [(50, m)], fresh := 60 }
def withEngine (e : Engine) (s : State) : State := s.putEngine 0 e
/-- Engine 0 of tile 0 is saved for job 3, with two bytes of channel A. -/
def saved (j : Job) : State :=
  let s := panel.putJob j
  { s.putTile 0 { s.tile 0 with esave := 2 ^ 63 } with mem := Memory.putBytes [] 0x240000 (leBytes (saveRecord 3 true false 2 0) 16) }
theorem test_wit_PreemptionSuspendsAndResumes :
    panel.jobAt 0 3 = none ∧ pendJob.state = .pending ∧ (panel.putJob pendJob).gardenWaits pendJob .stp pendJob.lrec.cwaddr 1 = false ∧
    (let s := panel.putJob job0
     s.jobAt 0 3 = some job0 ∧ job0.state = .running ∧ s.suspendBlocked 3 = false ∧
     (let v := withEngine { Engine.reset with hold := some 3 } s
      (v.putTile 0 { v.tile 0 with esave := 0 }).suspendBlocked 3 = true)) ∧
    ((panel.putJob { job0 with state := .suspended }).jobAt 0 3 = some { job0 with state := .suspended } ∧
     (panel.putJob pendJob).jobAt 0 3 = some pendJob ∧ pendJob.state ≠ .running) ∧
    (let s := oneStrand st0 (.suspendNote 0 3) { job0 with state := .suspending }
     s.msg? 50 = some (.suspendNote 0 3) ∧ s.jobSuspended 3 = true ∧ s.strands = [(st0.handle.toNat, st0)] ∧ st0.job = 3 ∧ st0.loc.tile = 0 ∧
     st0.urgent = false ∧ st0.status ∈ [.queued, .ready, .parked, .evicted, .refused] ∧
     (oneStrand st0 (.suspendNote 0 3) job0).jobSuspended 3 = false) ∧
    (let s := withEngine { Engine.reset with hold := some 3, chA := [1, 2] } (panel.putJob { job0 with state := .suspending })
     (s.engine (quadKey 0 0)).hold = some 3 ∧ s.job? 3 = some { job0 with state := .suspending } ∧ s.saveReady 0 0 3 = true ∧
     (s.engine (quadKey 0 0)).chA.length ≤ 2 ^ 21) ∧
    (let t := { st0 with status := .suspended }
     let s := oneStrand t (.resumeNote 0 3) { job0 with state := .resuming }
     s.msg? 50 = some (.resumeNote 0 3) ∧ s.strands = [(t.handle.toNat, t)] ∧ t.status = .suspended ∧ ∀ e, e < 4 → Said.savedIn s 0 e ≠ some 3) ∧
    (let s := saved { job0 with state := .resuming }
     s.mem.wf = true ∧ Said.savedIn s 0 0 = some 3 ∧ s.job? 3 = some { job0 with state := .resuming } ∧ s.msgs = [] ∧ (s.engine 0).hold = none ∧
     (s.engine 0).run = none ∧ (s.engine 0).drain = none ∧ s.strands = [] ∧
     0 < min (s.mem.read (s.saveSlot 0 0 + 0x240000) 16 / 2 ^ 64 % 2 ^ 32) (2 ^ 21)) ∧
    (let f := fun j : Job => { panel.putJob j with msgs := [(50, .tileReport 0 3)] }
     let j := { job0 with state := .suspending, tilesLeft := [0] }
     (f j).msg? 50 = some (.tileReport 0 3) ∧ (f j).job? 3 = some j ∧ (f j).tileSuspended 0 3 = true ∧
     (withEngine { Engine.reset with hold := some 3 } (f j)).tileSuspended 0 3 = false ∧ { j with state := .resuming }.state = .resuming) ∧
    (let s := (panel.putJob job0).putCol 0 { panel.col 0 with counts := [(3, (2, 1))] }
     FMap.get? (s.col (colKey 0 0)).counts 3 = some (2, 1) ∧ s.job? 3 = some job0) ∧
    (let f := fun a b => (bound (on st0)).putJob { job0 with asked := true, created := a, ended := b }
     (f 2 1).jobAt 0 3 = some { job0 with asked := true, created := 2, ended := 1 } ∧ (∀ kv ∈ (f 2 1).cols, FMap.get? kv.2.counts 3 = none) ∧
     2 = 1 + ((f 2 1).strands.filter (fun kv => kv.2.job == 3)).length ∧ 1 + ((f 3 1).strands.filter (fun kv => kv.2.job == 3)).length < 3) := by
  refine ⟨?_, ?_, ?_, ?_, ?_, ?_, ?_, ?_, ?_, ?_, ?_, ?_⟩ <;> decide +kernel

/-- Core 0 with all its slots taken, slot 0's strand parked long enough, and one arrival. -/
def stSlot (n : Nat) : Strand := { st0 with handle := .ofNat 64 (100 + n), loc := ⟨0, 0, 0, n⟩, status := if n = 0 then .parked else .ready, pcause := 0, parkedFor := 32 }
def stArr : Strand := { st0 with handle := 120, status := .queued }
def fullCore : State :=
  let s := bound State.reset
  let s := (List.range 15).foldl (fun s n => s.putStrand (stSlot n)) s
  let s := s.putStrand stArr
  s.putCore 0 { s.core 0 with arrival := [120] }
def stFly : Strand := { st0 with status := .inFlight, loc := ⟨1, 2, 96, 0⟩ }
/-- A strand in flight to column 0 of tile 0, and messages to its docks. -/
def flying (m : Msg) : State := oneStrand stFly m job0
theorem test_wit_StrandsMoveBetweenDocks :
    ((oneStrand st0 (.fill 77 3 1 9 none none) job0).msg? 50 = some (.fill 77 3 1 9 none none) ∧
      (oneStrand st0 (.fill 77 3 1 9 none none) job0).strand? 77 = some st0 ∧ st0.status ≠ .evicted ∧
      (oneStrand st0 (.fill 78 3 1 9 none none) job0).strand? 78 = none) ∧
    ((oneStrand st0 (.readDone (.reg 77 3 1 8 true none) 0 9 (some (9, 5)) 40) job0).msg? 50
      = some (.readDone (.reg 77 3 1 8 true none) 0 9 (some (9, 5)) 40)) ∧
    (let t := { st0 with bedWait := some 0 }
     let s := oneStrand t (.lossNote 0 1) job0
     s.slotStrand 0 0 0 = some t ∧ t.bedWait = some 0 ∧ s.tableFor t = some ⟨1, 0, [(0, wordBed)]⟩ ∧
     (⟨1, 0, [(0, wordBed)]⟩ : BedTable).find 0 = some ⟨0, wordBed⟩ ∧ (⟨1, 0, [(0, wordBed)]⟩ : BedTable).find 65536 = none) ∧
    (let s := { panel with msgs := [(50, .tableReq 1 2 3)] }
     s.msg? 50 = some (.tableReq 1 2 3) ∧ s.tileUp (3 / 1024) = true ∧ s.job? 3 = none ∧ (s.putJob job0).job? 3 = some job0 ∧ job0.orphan = false) ∧
    ((oneStrand st0 (.tableAns 1 0 3) job0).job? 3 = some job0 ∧ (oneStrand st0 (.tableAns 1 0 3) job0).msg? 50 = some (.tableAns 1 0 3)) ∧
    (let g := Target.column 0 0 0 .here false
     let s := { bound (withBed st0 wordBed) with strands := [], msgs := [(50, .instrLine 0 5 0 g)] }
     s.msg? 50 = some (.instrLine 0 5 0 g) ∧ s.strands = [] ∧ s.waitsFor g 5 64 2 = false ∧ (inRepair s).waitsFor g 5 64 2 = true) ∧
    (let t := { st0 with status := .parked, pcause := 1, preg := 9 }
     let u := stR t 9 { t.rc 9 with st := .awaiting }
     (oneStrand t (.lossNote 0 1) job0).strands = [(t.handle.toNat, t)] ∧ (oneStrand t (.lossNote 0 1) job0).mayIssue t = true ∧
     (oneStrand t (.lossNote 0 1) job0).causeClear t = true ∧ (oneStrand u (.lossNote 0 1) job0).causeClear u = false) ∧
    ((fullCore.core (coreKey 0 0)).halted = false ∧ fullCore.freeSlots 0 0 = [] ∧ fullCore.evictable 0 = [stSlot 0] ∧
      fullCore.nextArrival 0 = some stArr ∧ stArr.handle ≠ (stSlot 0).handle ∧ (stSlot 0).handle ∉ (fullCore.core 0).arrival ∧
      fullCore.strand? (stSlot 0).handle = some (stSlot 0) ∧ fullCore.strand? 120 = some stArr) ∧
    (let s := flying (.migrate 77 0 stFly.message)
     let q := Said.coreAt (s.unsend 50) 0 (stFly.fromMessage stFly.message)
     s.msg? 50 = some (.migrate 77 0 stFly.message) ∧ s.strand? 77 = some stFly ∧ stFly.status = .inFlight ∧ stFly.urgent = false ∧
     (s.unsend 50).tileUp (0 / 16) = true ∧ q.1.imageFree 0 = true ∧ 77 ∉ (q.1.core (coreKey 0 q.2)).reserved ∧
     (q.1.core 0).arrival.length + (q.1.core 0).reserved.length < (q.1.core 0).corectl.toNat / 65536 % 64 ∧ q.1.jobSuspended 3 = false ∧
     (let v := s.putCore 0 { s.core 0 with corectl := 0x20010000, arrival := [99] }
      (v.core 0).corectl.toNat / 65536 % 64 ≤ (v.core 0).arrival.length + (v.core 0).reserved.length) ∧
     ((s.putCore 0 { s.core 0 with reserved := [77] }).core 0).reserved = [77]) ∧
    (let t := { stFly with destCva := some 65528 }
     let s := oneStrand t (.migrate 77 0 t.message) job0
     (t.fromMessage t.message).destCva = some 65528 ∧ xlated (s.translate 0 t.asid 65528 0).2 = .inl 65528 ∧
       (Said.coreAt (s.unsend 50) 0 (t.fromMessage t.message)).2 = ownerCore 0 65528) ∧
    (let s := flying (.migrate 77 16 []); ({ s with head := { s.head with lost := [1] } }).tileUp (16 / 16) = false) ∧
    ((flying (.accepted 77 34 0)).msg? 50 = some (.accepted 77 34 0) ∧ (flying (.refusal 77 16 [])).msg? 50 = some (.refusal 77 16 []) ∧
      (flying (.refusal 77 16 [])).tileUp 1 = true ∧ ((flying (.refusal 77 16 [])).core stFly.rlim).corectl.toNat / 256 % 256 = 0 ∧
      (let s := (flying (.refusal 77 16 [])).putCore 0 { Core.reset with corectl := 0x20080100 }
       (s.core stFly.rlim).corectl.toNat / 256 % 256 = 1 ∧ 16 * 1 ≤ 16)) ∧
    (let t := { stFly with status := .refused }
     (oneStrand t (.recall 77 0) job0).strand? 77 = some t ∧ (oneStrand t (.recall 77 0) job0).msg? 50 = some (.recall 77 0)) ∧
    ((flying (.migError 77)).msg? 50 = some (.migError 77) ∧ (flying (.migError 77)).tileUp stFly.loc.tile = true) ∧
    (let j := { job0 with lrec := { lrec0 with handler := 64 } }
     let t := { st0 with status := .trapped, pending := some ⟨5, 0, 0, 0⟩ }
     (oneStrand t (.lossNote 0 1) j).strands = [(t.handle.toNat, t)] ∧ ((oneStrand t (.lossNote 0 1) j).tile 0).taskFaults = [] ∧
     (oneStrand t (.lossNote 0 1) j).job? 3 = some j ∧ ((oneStrand t (.lossNote 0 1) j).core t.coreKey).urgent.length < 4 ∧ st0.pending = none) := by
  refine ⟨?_, ?_, ?_, ?_, ?_, ?_, ?_, ?_, ?_, ?_, ?_, ?_, ?_, ?_, ?_⟩ <;> decide +kernel
/-- A message to a home: bed 0 of column 0 of tile 0, its block translated; a sender with an open item. -/
def gHome : Target := .column 0 0 0 .here false
def homing (m : Msg) : State :=
  let s := oneStrand st0 m job0
  { s with items := [(50, ⟨77, 3, .posted, some 0, 0, false, 0⟩)] }
/-- A tile that is not up. -/
def downTile (s : State) : State := s.putTile 0 { s.tile 0 with pow := { (s.tile 0).pow with mode := .off } }
/-- The join word of the strands of these tests holds v. -/
def joining (v : Nat) (m : Msg) : State := { homing m with mem := (State.reset.mem).write 0 8 v }
def vtld0 : Vtld := ⟨77, (List.range 31).map (fun n => (n, 0))⟩
theorem test_wit_HomesServeRequests :
    (let d := ReadFor.reg 77 2 50 8 false none
     let s := homing (.read d 5 65528 8 (.column 0 0 65528 .here false) 50)
     s.msg? 50 = some (.read d 5 65528 8 (.column 0 0 65528 .here false) 50) ∧ s.tileUp (0 / 16) = true ∧
     (s.homeRead 0 0 65528 .here false 5 8 0 (busParty 77)).2 = .ok 0 (some 65528) ∧
     (s.homeRead 0 0 65536 .here false 5 8 0 (busParty 77)).2 = .trip 6 65552 ∧ (downTile s).tileUp (0 / 16) = false) ∧
    (let s := homing (.posted (.bytes [1, 2]) 5 0 gHome 50)
     s.msg? 50 = some (.posted (.bytes [1, 2]) 5 0 gHome 50) ∧ FMap.get? s.items 50 = some ⟨77, 3, .posted, some 0, 0, false, 0⟩ ∧
     ((s.unsend 50).homeWrite 0 0 0 .here false 5 [1, 2] (busParty 77)).2 = .ok 0 (some 0) ∧
     ((homing (.posted .go 5 0 gHome 50)).unsend 50 |>.homeRmw 0 0 0 .here false 5 (fun v => some (Said.countUp v)) (busParty 77)).2 = .ok 0 (some 0)) ∧
    ((homing (.postedAck 50 true)).msg? 50 = some (.postedAck 50 true) ∧ (homing (.postedAck 50 false)).job? 3 = some job0 ∧ job0.status = 0) ∧
    (let s := joining (2 ^ 32 - 1) (.joinIncr 77 5 0 gHome)
     s.msg? 50 = some (.joinIncr 77 5 0 gHome) ∧ s.tileUp (0 / 16) = true ∧
     ((s.unsend 50).homeRmw 0 0 0 .here false 5 (fun v => some (Said.countUp v)) (busParty 0)).2 = .ok (2 ^ 32 - 1) (some 0)) ∧
    (let s := joining 1 (.joinDecr 3 5 0 gHome 50)
     let t := s.putCol 0 { s.col 0 with joins := [⟨0, 77, 2, 50⟩] }
     t.msg? 50 = some (.joinDecr 3 5 0 gHome 50) ∧
     ((t.unsend 50).homeRmw 0 0 0 .here false 5 (fun v => some (Said.countDown v)) (busParty 0)).2 = .ok 1 (some 0) ∧
     (⟨0, 77, 2, 50⟩ : JoinWaiter) ∈ ((((t.unsend 50).homeRmw 0 0 0 .here false 5 (fun v => some (Said.countDown v)) (busParty 0)).1).col 0).joins) ∧
    (let t := { st0 with phase := .spawn 1 0 none 0 .sent }
     let s := oneStrand t (.joinAck 77 0 0) job0
     s.msg? 50 = some (.joinAck 77 0 0) ∧ s.strand? 77 = some t ∧ t.phase = .spawn 1 0 none 0 .sent) ∧
    ((joining 1 (.joinReg 77 2 50 5 0 gHome true)).msg? 50 = some (.joinReg 77 2 50 5 0 gHome true)) ∧
    (let s := joining 1 (.joinReg 77 2 50 5 0 gHome false)
     s.msg? 50 = some (.joinReg 77 2 50 5 0 gHome false) ∧ (s.homeRead 0 0 0 .here false 5 8 0 (busParty 77)).2 = .ok 1 (some 0) ∧
     1 % 2 ^ 32 ≠ 0 ∧ (((s.homeRead 0 0 0 .here false 5 8 0 (busParty 77)).1).col 0).joins.length < 256 ∧
     (let t := s.putCol 0 { s.col 0 with joins := List.replicate 256 ⟨8, 9, 2, 50⟩ }
      256 ≤ (((t.homeRead 0 0 0 .here false 5 8 0 (busParty 77)).1).col 0).joins.length)) ∧
    (let s := (homing (.readDone (.vtld 0 9 31) 0 5 none 50)).putCore 0 { Core.reset with vtlds := [(9, vtld0)] }
     31 < 32 ∧ s.msg? 50 = some (.readDone (.vtld 0 9 31) 0 5 none 50) ∧ FMap.get? (s.core 0).vtlds 9 = some vtld0 ∧ vtld0.pieces.length = 31 ∧
     FMap.get? vtld0.pieces 31 = none ∧ 5 < 2 ^ 256) ∧
    ((homing (.cacheCtl 3 77 2 50 5 none 64)).msg? 50 = some (.cacheCtl 3 77 2 50 5 none 64)) ∧
    (let s := homing (.cacheCtl 3 77 2 50 5 (some gHome) 64)
     s.msg? 50 = some (.cacheCtl 3 77 2 50 5 (some gHome) 64) ∧ (s.col 0).tlbHit 5 (0 * 2 ^ 40 + 0) = some ⟨5, 0, 65536, 0, false, true⟩ ∧
     (64 : Word) ≠ 0 ∧ (FMap.getD (s.quad (quadOfCol 0)).ret 0 0).getLsbD 63 = false ∧
     (let q := { Quad.reset with ef := (List.range 4).map (fun n => (n, 2 ^ 63)) }; ∀ j, j < 4 → (FMap.getD q.ef j 0).getLsbD 63 = true) ∧
     (7 : Word).toNat < 8 ∧ 11 < (12 : Word).toNat) := by
  refine ⟨?_, ?_, ?_, ?_, ?_, ?_, ?_, ?_, ?_, ?_, ?_⟩ <;> decide
/-- Column 0's rake unit with requests, and its open item; the code of a kernel of one EXIT parcel is in the bed. -/
def raking (q : List RakeReq) (r : Option RakeReq) : State :=
  let s := homing (.lossNote 0 1)
  { s.putCol 0 { s.col 0 with rakeQ := q, rakeRun := r } with items := [(1, ⟨77, 3, .rake, some 0, 0, false, 0⟩)] }
def rakeAt (line : Option (Nat × Option Nat)) (k : List Nat) : RakeReq := ⟨1, 77, 5, 0, 16, false, false, 0, 0, 0, 0, k, 0, [], line⟩
theorem test_wit_RakeUnitRunsItsRequests :
    (let s := raking [rake0] none
     (s.col (colKey 0 0)).rakeRun = none ∧ (s.col 0).rakeQ = [rake0] ∧ FMap.get? s.items rake0.item = some ⟨77, 3, .rake, some 0, 0, false, 0⟩ ∧
     rake0.nidx = 0 ∧ (rakeAt none []).nidx ≠ 0) ∧
    (let r := rakeAt (some (0, none)) []
     let s := raking [] (some r)
     (s.col 0).rakeRun = some r ∧ r.todo = [] ∧ r.next + 1 < r.nidx ∧ r.line = some ((0 : Word).toNat / 64, none)) ∧
    (let r := rakeAt (some (0, some 0)) []
     r.line = some ((r.ia + .ofNat 64 (4 * r.next)).toNat / 64, some 0) ∧ kernelRun r.kernel 0 (r.regs 0) [] 129 = []) ∧
    (let s := (raking [] none)
     let t := { s with msgs := [(50, .rakeFetch 0 1 5 0 gHome false)] }
     t.msg? 50 = some (.rakeFetch 0 1 5 0 gHome false) ∧ (t.serveRead gHome 5 64 0 (busParty 0)).2 = .ok 0 (some 0) ∧
     (t.serveRead (.column 0 0 65536 .here false) 5 64 0 (busParty 0)).2 = .trip 6 65552) := by
  refine ⟨?_, ?_, ?_, ?_⟩ <;> decide
/-- The rest of their clauses: a home that a repair holds, host memory, a VTLD's piece, and the target of a kernel at home, elsewhere, and already there. -/
theorem test_wit_HomesServeRequests_more :
    (let s := homing (.read (.reg 77 2 50 8 false none) 5 65528 8 (.column 0 0 65528 .here false) 50)
     s.waitsFor (.column 0 0 65528 .here false) 5 8 0 = false ∧ (inRepair s).waitsFor (.column 0 0 65528 .here false) 5 8 0 = true) ∧
    (let s := homing (.posted (.bytes [1, 2]) 5 0 gHome 50)
     s.waitsFor gHome 5 8 1 = false ∧ (inRepair s).waitsFor gHome 5 8 1 = true ∧
     ((s.unsend 50).homeWrite 0 0 65536 .here false 5 [1, 2] (busParty 77)).2 = .trip 6 65552) ∧
    (let s := homing (.posted (.bytes [1, 2]) 5 0 (.host 0 0 0) 50)
     let t := booted (s.putDie 0 { s.die 0 with apers := [(0, 2 ^ 63 + 2 ^ 62 + 1)] }) 0
     s.msg? 50 = some (.posted (.bytes [1, 2]) 5 0 (.host 0 0 0) 50) ∧ FMap.get? s.items 50 = some ⟨77, 3, .posted, some 0, 0, false, 0⟩ ∧
     s.aperServes 0 0 0 2 true = false ∧ t.aperServes 0 0 0 2 true = true) ∧
    ((homing (.storeFlush 0 50)).msg? 50 = some (.storeFlush 0 50)) ∧
    (let s := homing (.rakeFetch 0 1 5 0 gHome true)
     s.waitsFor gHome 5 1 0 = false ∧ ((s.unsend 50).physOf 5 gHome).2 = some 0 ∧ (((s.unsend 50).physOf 5 gHome).1.errAt 0 1 = none)) ∧
    ((homing (.rakeData 0 1 5 0 (some 9))).msg? 50 = some (.rakeData 0 1 5 0 (some 9)) ∧
      (homing (.rakeData 0 1 5 0 none)).msg? 50 = some (.rakeData 0 1 5 0 none)) := by
  refine ⟨?_, ?_, ?_, ?_, ?_, ?_⟩ <;> decide
/-- A kernel that names the element itself as its target. -/
def rakeNames (b : Bed) : State :=
  let s := raking [] (some { rakeAt (some (0, some 0)) [] with nidx := 4, todo := [] })
  s.putTile 0 { s.tile 0 with bedTables := [(5, ⟨1, 0, [(0, b)]⟩)] }
theorem test_wit_RakeUnitRunsItsRequests_more :
    (let s := rakeNames wordBed
     s.taskTable 0 5 = some ⟨1, 0, [(0, wordBed)]⟩ ∧ s.rakeWaits 0 ⟨1, 0, [(0, wordBed)]⟩ .rake 5 0 64 = false ∧
     s.rakeWaits 0 ⟨1, 0, [(0, wordBed)]⟩ .fetch 5 0 4 = false ∧ (s.col 0).rakeOut < 64 ∧ (s.col 0).rakeBuf = [] ∧ s.fetching 0 5 1 = false ∧
     (⟨1, 0, [(0, wordBed)]⟩ : BedTable).check .rake 64 1 = .inr ⟨0, wordBed⟩ ∧
     s.targetBed ⟨0, wordBed⟩ false 0 64 = .column 0 0 64 .here false ∧ 0 / 16 = 0) ∧
    (let b := { wordBed with colm := 16 }
     let s := rakeNames b
     s.targetBed ⟨0, b⟩ false 0 64 = .column 16 0 64 .here false ∧ 16 / 16 ≠ 0 ∧
     ((s.putCol 0 { s.col 0 with rakeBuf := [⟨5, 1, 9, 0, false⟩] }).col 0).rakeBuf = [⟨5, 1, 9, 0, false⟩] ∧
     ({ s with msgs := [(50, .rakeFetch 0 1 5 1 gHome false)] }).fetching 0 5 1 = true) := by
  refine ⟨?_, ?_⟩ <;> decide
/-- A kernel of one PREF of g2, whose address lies on tile 1; kernels in memory with a header of 0 and of 1 parcel. -/
def prefK : List Nat := [encode (.pref ⟨2, false⟩) % 65536, encode (.pref ⟨2, false⟩) / 65536]
def tabFar : BedTable := ⟨1, 0, [(0, { wordBed with ltile := 1 })]⟩
theorem test_wit_RakeTargets :
    (let r := { rakeAt (some (0, some 0)) prefK with p0 := 128 }
     let s := raking [] (some r)
     let s := s.putTile 0 { s.tile 0 with bedTables := [(5, tabFar)] }
     (s.col 0).rakeRun = some r ∧ kernelRun r.kernel 0 (r.regs 0) [] 129 = [128] ∧ (s.col 0).rakeOut < 64 ∧ s.taskTable 0 5 = some tabFar ∧
     (tabFar.check .rake 128 1).getRight? = some ⟨0, { wordBed with ltile := 1 }⟩ ∧
     s.targetBed ⟨0, { wordBed with ltile := 1 }⟩ (tabFar.spills 0) 0 128 = .column 16 0 128 .here false ∧ 16 / 16 ≠ 0 ∧ (s.col 0).rakeBuf = []) ∧
    (let r := rakeAt none []
     let l := fun s : State => ((s.putCol (colKey 0 0) { s.col (colKey 0 0) with rakeQ := [] }).loadKernel 0 r).2
     (l (raking [r] none)).getRight? = some 1 ∧
     (l { raking [r] none with mem := ((State.reset.mem).write 0 4 1).write 4 2 0xE002 }).getLeft? = some [0xE002]) := by
  refine ⟨?_, ?_⟩ <;> decide

def fp0 : FlitPair := ⟨3, 0, 1, 7, 0⟩
def bin0 : BinEntry := ⟨0, 1, 5 * 256 + 1, [(5, 0)], [(0, 4)], false⟩
/-- A sieve with one entry, whose granule it holds, and one as full as its reserve allows: 28,608 entries of four slots. -/
def quad1 : Quad := { Quad.reset with bins := [(8, bin0)], dir := [0] }
def binF : BinEntry := { bin0 with etype := 4 }
def quadF (n : Nat) : Quad := { Quad.reset with bins := List.replicate n (8, binF), dir := [0] }
theorem quadF_free (n : Nat) : (quadF n).freeSlot = 114688 - n * 4 := by
  simp [quadF, Quad.freeSlot, binF, bin0, BinEntry.slots, isFloatAdd, laneFloat, show Quad.reset.runs = [] from rfl]
theorem quadF_beds (n : Nat) : (quadF (n + 1)).spillBeds = [5 * 256 + 1] := by
  have h : ∀ m, (List.replicate m (8, binF)).foldl (fun (a : FMap Unit) kv => FMap.set a kv.2.spill ()) [(5 * 256 + 1, ())] = [(5 * 256 + 1, ())] := by
    intro m
    induction m with
    | zero => rfl
    | succ k ih => rw [List.replicate_succ, List.foldl_cons]; exact ih
  simp only [Quad.spillBeds, quadF, List.replicate_succ, List.foldl_cons]
  exact congrArg (List.map (·.1)) (h n)
/-- A spill bed large enough. -/
def bedSpill : Bed := { wordBed with kind := .striped, log2g := 20, trows := 1, tcols := 1, len := 2 ^ 24 }
def withSieve (q : Quad) : State :=
  let s := panel.putQuad 0 q
  s.putTile 0 { s.tile 0 with bedTables := [(5, ⟨2, 0, [(0, bedUpd), (1, bedSpill)]⟩)] }
def msgUpd (p : FlitPair) : Msg := .update 0 16 5 5 0 0 1 [p]
theorem test_wit_UpdatesAreCombinedAndApplied :
    (let c := { Core.reset with outq := [(0, pair0), (1, { pair0 with item := 1 }), (2, { pair0 with item := 2, home := 1 })] }
     c.nextFlit 3 = (0, pair0) :: [(1, { pair0 with item := 1 })]) ∧
    (let s := panel.putCore 0 { Core.reset with outq := [(3, pair0)] }
     (s.core (coreKey 0 0)).outq = [(3, pair0)] ∧ pair0.state = .waiting ∧ (panel.core 0).outq = []) ∧
    (let s := homing (msgUpd fp0)
     s.msg? 50 = some (msgUpd fp0) ∧ s.tileUp (0 / 16) = true ∧ (downTile s).tileUp (0 / 16) = false ∧
     (s.col 0).repair = none ∧ xlated ((s.unsend 50).translate 0 5 (0 * 2 ^ 40 + 0) 1).2 = .inl 0 ∧ xlated ((s.unsend 50).translate 0 5 (0 * 2 ^ 40 + 65536) 1).2 = .inr (6, 65552)) ∧
    (quad1.pendingAt 8 = some bin0 ∧ bin0.op ≠ 1 ∧ quad1.pendingAt 16 = none ∧ 1 + 256 ≤ quad1.freeSlot ∧ quad1.freeDir ≠ 0 ∧
      FMap.get? quad1.bins 8 = some bin0 ∧ FMap.get? bin0.lanes 0 = some 4 ∧ 8 / 4096 ∈ quad1.dir) ∧
    (let s := (panel.putCore 0 { Core.reset with outq := [(3, pair0)] })
     let t := { s with msgs := [(50, .updateAns 0 3 .refused), (51, .updateAns 0 3 .accepted), (52, .updateAns 0 3 .failed)] }
     FMap.get? (t.core 0).outq 3 = some pair0 ∧ t.msg? 50 = some (.updateAns 0 3 .refused) ∧ t.msg? 51 = some (.updateAns 0 3 .accepted) ∧
     t.msg? 52 = some (.updateAns 0 3 .failed)) ∧
    (let p := { pair0 with state := .backoff }
     FMap.get? ((panel.putCore 0 { Core.reset with outq := [(3, p)] }).core (coreKey 0 0)).outq 3 = some p) ∧
    (3 < 4 ∧ 16384 ≤ quad1.freeSlot) ∧
    (let q := { quad1 with forceQ := [0] }
     let s := withSieve q
     (s.quad (quadKey 0 0)).forceQ = 8 / 4096 :: [] ∧ 8 / 4096 ∈ (s.quad 0).dir ∧ (s.quad 0).bins = [(8, bin0)] ∧ (s.quad 0).runs = [] ∧ bin0.op < 7 ∧
     bin0.etype = 1 ∧ bin0.lanes = [(0, 4)] ∧ s.errAt (Said.locAddr 0 8) 8 = none ∧ s.sieveHeld 0 = false ∧
     (inRepair s).sieveHeld 0 = true ∧ (s.mem.wf = true ∧ s.sram.wf = true ∧ s.hostMem.wf = true)) ∧
    (let q := { quad1 with forcing := .slots }
     (withSieve q).sieveHeld 0 = false ∧ ((withSieve q).quad 0).forceQ = [] ∧ q.forceNext .slots = none ∧
     { quad1 with runs := [⟨4, 1281, [(8, bin0)], false, [], 0⟩], forcing := .run 4 }.forceNext (.run 4) = some 0) ∧
    (let s := homing (.flush 77 9 0 5 0)
     s.msg? 50 = some (.flush 77 9 0 5 0) ∧ s.tileUp (0 / 4) = true ∧ (downTile s).tileUp (0 / 4) = false) ∧
    (let t := stPhase (.uflush 9 4 false)
     let s := oneStrand t (.flushAck 77 9 true) job0
     s.msg? 50 = some (.flushAck 77 9 true) ∧ s.strand? 77 = some t ∧ t.phase = .uflush 9 4 false) := by
  refine ⟨?_, ?_, ?_, ?_, ?_, ?_, ?_, ?_, ?_, ?_, ?_⟩ <;> decide
/-- A run with a line to write and one without; the quadrant's column under repair. -/
def spillQuad : Quad := { quad1 with bins := [], spilling := true, runs := [⟨4, 1281, [(8, bin0)], true, [0x100, 0x101], 0⟩, ⟨5, 1281, [], true, [0x102], 1⟩] }
theorem test_wit_UpdatesAreCombinedAndApplied_spill :
    (let s := withSieve spillQuad
     s.quad 0 = spillQuad ∧ (∀ i, i < 4 → (s.col (colKey 0 (4 * 0 + i))).repair = none) ∧ spillQuad.spilling = true ∧
     spillQuad.runs = [⟨4, 1281, [(8, bin0)], true, [0x100, 0x101], 0⟩] ++ ⟨5, 1281, [], true, [0x102], 1⟩ :: [] ∧
     (∀ r ∈ { spillQuad with runs := [⟨4, 1281, [(8, bin0)], true, [0x100, 0x101], 0⟩] }.runs, r.left = 0) ∧ s.memOk) ∧
    (∃ i, i < 4 ∧ ((inRepair (withSieve spillQuad)).col (colKey 0 (4 * 0 + i))).repair ≠ none) ∧
    (16384 ≤ quad1.freeSlot ∧ quad1.spilling = false) := by
  refine ⟨⟨by decide, by decide, by decide, by decide, by decide, ?_⟩, ⟨0, by decide, by decide⟩, by decide⟩
  unfold State.memOk; decide
/-- The granule of one bin entry: an integer lane of 64 bits, and a floating ADD of two FP32 lanes. -/
theorem test_wit_sole : Said.sole (withSieve { quad1 with forceQ := [0] }) 0 0 8 bin0 ∧
    (let b : BinEntry := { bin0 with etype := 4, lanes := [(0, 1), (1, 2 ^ 95)] }
     Said.sole (withSieve { quad1 with bins := [(8, b)], forceQ := [0] }) 0 0 8 b) := by
  refine ⟨⟨by decide, by decide, by decide, by decide, by decide, by decide, by decide, ?_, by decide⟩,
    ⟨by decide, by decide, by decide, by decide, by decide, by decide, by decide, ?_, by decide⟩⟩
  · intro i v h
    have : v = 4 := by
      simp only [bin0, FMap.get?] at h
      split at h
      · exact (Option.some.inj h).symm
      · split at h <;> cases h
    subst this; decide
  · intro i v h
    have : v = 1 ∨ v = 2 ^ 95 := by
      simp only [FMap.get?] at h
      split at h
      · exact .inl (Option.some.inj h).symm
      · split at h
        · cases h
        · split at h
          · exact .inr (Option.some.inj h).symm
          · split at h <;> cases h
    rcases this with rfl | rfl <;> decide
theorem quadF_pending (n : Nat) : (quadF n).pendingAt 0 = none := by cases n <;> rfl
theorem quadF_fits (n : Nat) (h : n < 65536) : (withSieve (quadF (n + 1))).spillFits 0 = true := by
  have q : (withSieve (quadF (n + 1))).quad 0 = quadF (n + 1) := rfl
  have r : (withSieve (quadF (n + 1))).areaRoom 0 (5 * 256 + 1) = 65536 := rfl
  have m : linesFor ((quadF (n + 1)).nextRun (5 * 256 + 1)) = n + 1 := by
    simp [linesFor, Quad.nextRun, quadF, binF, bin0, BinEntry.slots, isFloatAdd, laneFloat]; omega
  have z : (quadF (n + 1)).runLines (5 * 256 + 1) = 0 := rfl
  have l : (quadF (n + 1)).runs = [] := rfl
  simp only [State.spillFits, State.areaFits, q, quadF_beds, List.all_cons, List.all_nil, m, r, z, l]
  simp; omega
/-- No slot but the reserve, and a pair refused seven times; a spill that is due and fits. -/
theorem test_wit_FullSieve :
    (∃ n, (1 : Nat) ≠ 0 ∧ (quadF n).pendingAt 0 = none ∧ (quadF n).freeSlot < 4 + 256) ∧
    (∃ n, (quadF (n + 1)).freeSlot < 16384 ∧ (quadF (n + 1)).spilling = false ∧ (quadF (n + 1)).forceQ = [] ∧ (quadF (n + 1)).forcing = .none ∧
      (withSieve (quadF (n + 1))).spillFits 0 = true) := by
  refine ⟨⟨28608, by decide, quadF_pending _, ?_⟩, ⟨24576, ?_, rfl, rfl, rfl, quadF_fits _ (by decide)⟩⟩
  · exact (quadF_free _).symm ▸ (by decide : 114688 - 28608 * 4 < 4 + 256)
  · exact (quadF_free _).symm ▸ (by decide : 114688 - (24576 + 1) * 4 < 16384)
/-! #### Tasks and engines -/

/-- A matrix record of one 32-column step in I8, without a drain, and a raw copy of N0 bytes, each with a tag. -/
def matRec (tag npred drain : Nat) : Nat :=
  1 * 2 ^ 248 + npred * 2 ^ 240 + tag * 2 ^ 228 + 3 * 2 ^ (256 + 661) + 3 * 2 ^ (256 + 658) + 1 * 2 ^ (256 + 664) + 1 * 2 ^ (256 + 651)
    + 5 * 2 ^ (256 + 655) + 1024 * 2 ^ (256 + 680) + drain * 2 ^ (256 + 650)
def copyRec (tag kind n0 : Nat) : Nat :=
  2 * 2 ^ 248 + tag * 2 ^ 228 + n0 * 2 ^ (256 + 640) + 2 ^ (256 + 624) + 2 ^ (256 + 608) + 2 ^ (256 + 592) + kind * 2 ^ (256 + 388)
def task0 (n : Nat) (copy : Bool) (r : Nat) : Task :=
  ⟨n, 3, recTag r, copy, r, 0, 77, 0, 0, 5, 0, .ready, 0, false, 0, 0, false, false, 50, false, none, false, [], 0, [], [], none, none, none, false, none⟩
def ring0 (n : Nat) (r : Nat) : RingEntry := ⟨n, 77, 0, recTag r, .ready, 0, 0, 1, 0⟩
/-- A tile with tasks, their ring entries, and the poster's job, bed table and item. -/
def tasking (l : List Task) (m : Msg) : State :=
  let s := oneStrand st0 m job0
  let s := { s with items := [(50, ⟨77, 3, .task, some 0, 0, false, 0⟩)] }
  s.putTile 0 { s.tile 0 with tasks := l.map (fun x => (x.tseq, x)), ring := l.map (fun x => (x.tseq % 256, ring0 x.tseq x.record)) }
def post0 (copy again : Bool) : Msg := .taskPost 0 copy 77 2 50 3 0 0 5 0 0 50 again []
/-- The same tile with a record in memory at address 0. -/
def posting (l : List Task) (copy : Bool) (r : Nat) : State := { tasking l (post0 copy false) with mem := (State.reset.mem).write 0 128 r }
def readAt0 (s : State) : TaskRes := (s.taskRead 0 ⟨1, 0, [(0, wordBed)]⟩ 5 0 128 128 1 false).2
theorem test_wit_TasksArePostedAndRetired :
    (Said.Issues (withBed (stVa 64) bedHere) (stVa 64) [1, 2] ∧ (withBed (stVa 64) bedHere).lookup (stVa 64) 64 = .hit ⟨0, bedHere⟩ ∧ 64 % 128 ≠ 0 ∧
      Said.Issues (withBed (stVa 65408) bedHere) (stVa 65408) [1, 2] ∧
      (withBed (stVa 65408) bedHere).lookup (stVa 65408) 65408 = .hit ⟨0, bedHere⟩ ∧ 65408 % 128 = 0 ∧ bedHere.rd = true ∧ bedHere.kind ≠ .host ∧
      bedHere.kind ≠ .peer ∧ Said.Issues (on st0) st0 [1]) ∧
    ((tasking [] (post0 true true)).msg? 50 = some (post0 true true) ∧ (posting [] true 0).msg? 50 = some (post0 true false) ∧
      (posting [] true 0).tileUp 0 = true ∧ (({ posting [] true 0 with jobs := [] }).job? 3 = none) ∧
      FMap.get? (posting [] true 0).items 50 = some ⟨77, 3, .task, some 0, 0, false, 0⟩) ∧
    ((posting [] false (matRec 7 0 0)).job? 3 = some job0 ∧ job0.cancelCause = 0 ∧ (posting [] true 0).taskTable 0 5 = some ⟨1, 0, [(0, wordBed)]⟩ ∧
      ((posting [] true 0).tile 0).tseq = 1 ∧ ((posting [] true 0).tile 0).tasks.length + ((posting [] true 0).tile 0).holders.length < 4096 ∧
      ((posting [] true 0).tile 0).holders = [] ∧ (posting [] true 0).taskWaits 0 tab0 .copyRead 5 0 128 0 = false ∧
      (inRepair (posting [] true 0)).taskWaits 0 tab0 .copyRead 5 0 128 0 = true) ∧
    (readAt0 (posting [] false (matRec 7 0 0)) = .ok (matRec 7 0 0) ∧
      readAt0 ({ posting [] false 0 with cols := [] }) = .fault 2 ∧ (posting [] true 0).recordOk 3 true 0 = false ∧
      (posting [] false 0).recordOk 3 false (Said.scaled (matRec 7 1 0) 0) = true ∧
      (posting [] true 0).recordOk 3 true (copyRec 8 0 4) = true ∧ matRec 7 1 0 / 2 ^ 240 % 256 = 1) ∧
    ((∃ y ∈ ((posting [task0 1 true (copyRec 8 0 4)] true 0).tile 0).tasks, y.2.job = 3 ∧ y.2.tag = copyRec 8 0 4 / 2 ^ 228 % 2 ^ 12) ∧
      (∀ y ∈ ((posting [task0 1 true (copyRec 8 0 4)] true 0).tile 0).tasks, ¬(y.2.job = 3 ∧ y.2.tag = copyRec 9 0 4 / 2 ^ 228 % 2 ^ 12))) ∧
    (let x := task0 1 false (matRec 7 0 0)
     let s := tasking [x] (.taskw 0 77 2 50 1)
     Said.taskAt s 0 1 = some x ∧ x.state = .ready ∧ s.tileUp 0 = true ∧ x.isCopy = false ∧ s.matrixFree 0 x = true ∧ x.done = 0 ∧
     recBody x.record 651 1 = 1 ∧ { x with state := .waiting }.state ≠ .ready ∧
     (withEngine { Engine.reset with run := some 9 } s).matrixFree 0 x = false ∧
     recBody (matRec 7 0 0 - 2 ^ (256 + 651)) 651 1 = 0 ∧ (s.engine 0).bank0.fe = recFe (matRec 7 0 0 - 2 ^ (256 + 651))) ∧
    (let x := task0 1 true (copyRec 8 0 4)
     let s := tasking [x] (.taskw 0 77 2 50 1)
     (s.tile 0).tasks = [(1, x)] ∧ x.held = false ∧ x.partner = none ∧ s.copyFree 0 x = true ∧ s.freeCopyEngine 0 = some 0) ∧
    (let x := { task0 1 false (matRec 7 0 0) with finished := true }
     let s := tasking [x] (.taskw 0 77 2 50 1)
     Said.taskAt s 0 1 = some x ∧ x.fin = 0 ∧ s.wordBefore 0 x = false ∧ s.taskWaits 0 tab0 .copyWrite 5 8 8 1 = false ∧
     (s.taskWrite 0 tab0 5 3 8 (leBytes (Said.outcome x) 8) 8 1).2.1 = none ∧ (s.taskWrite 0 tab0 5 3 65536 (leBytes (Said.outcome x) 8) 8 1).2.1 = some 3 ∧
     (let y := { task0 2 true (copyRec 9 0 4) with finished := true, partner := some 1 }
      let v := tasking [{ task0 1 true (copyRec 8 0 4) with finished := true }, y] (.taskw 0 77 2 50 1)
      v.wordBefore 0 y = true) ∧ recNsucc x.record = 0 ∧ (∃ e, FMap.get? (s.tile 0).ring (1 % 256) = some e ∧ e.tseq = 1) ∧
     FMap.get? s.items x.item = some ⟨77, 3, .task, some 0, 0, false, 0⟩ ∧ recCw x.record = 0 ∧ recCw (x.record + 2 ^ 123) = 8) := by
  refine ⟨?_, ?_, ?_, ?_, ⟨⟨_, List.mem_singleton.mpr rfl, by decide⟩, by decide⟩, ?_, ?_, ⟨by decide, by decide, by decide, by decide +kernel, by decide +kernel, by decide +kernel, by decide +kernel, by decide, ⟨_, rfl, rfl⟩, by decide⟩⟩ <;>
    (try unfold Said.Issues) <;> decide +kernel
theorem test_wit_TaskSuccessorsAndWaiters :
    (let y := { task0 1 true (copyRec 8 0 4) with state := .waiting, count := 1 }
     let r := matRec 7 0 0 + 2 ^ 225 + 8 * 2 ^ 176
     let x := { task0 2 false r with finished := true }
     let s := tasking [y, x] (.taskw 0 77 2 50 2)
     recCw x.record = 0 ∧ recSuccs x.record = [8] ∧ (s.tile 0).tasks = [(1, y), (2, x)] ∧ y.tseq < 2 ∧ y.job = x.job ∧ y.tag = 8 ∧ x.tag ≠ 8 ∧
     y.state = .waiting ∧ y.count ≤ 1 ∧ (1 : Int) < { y with count := 2 }.count ∧ s.msg? 50 = some (.taskw 0 77 2 50 2) ∧
     Said.taskAt s 0 2 = some x ∧ Said.taskAt s 0 3 = none ∧ (∀ e, FMap.get? (s.tile 0).ring (3 % 256) = some e → e.tseq ≠ 3)) ∧
    (let s := tasking [] (.taskw 0 77 2 50 1)
     let t := s.putTile 0 { s.tile 0 with ring := [(1, { ring0 1 (copyRec 8 0 4) with state := .faulted, fcode := 5 })] }
     Said.taskAt t 0 1 = none ∧ (∃ e, FMap.get? (t.tile 0).ring (1 % 256) = some e ∧ e.tseq = 1 ∧ e.state = .faulted)) := by
  refine ⟨⟨by decide, by decide, by decide, by decide, by decide, by decide, by decide, by decide, by decide, by decide, by decide, by decide, by decide, ?_⟩,
    by decide, ⟨_, rfl, by decide⟩⟩
  intro e h; cases h
/-- A location of a post's record is read ahead; a record with location 1 read ahead. -/
theorem test_wit_TasksArePostedAndRetired_more :
    (let s := posting [] true 0
     s.tileUp 0 = true ∧ s.jobCancelled 3 = false ∧ (0 : Word).toNat % 128 = 0 ∧ (s.taskTable 0 5).isSome = true ∧
     (FMap.get? s.transit 50 = none ∨ ∃ x, FMap.get? s.transit 50 = some x)) ∧
    (FMap.sorted [(1, 5)] = true ∧ (∀ e ∈ ([(1, 5)] : FMap Nat), e.1 < 16 ∧ e.2 < 2 ^ 64) ∧ 1 < 16 ∧
      recordRead (matRec 7 0 0) [(1, 5)] / 2 ^ 64 % 2 ^ 64 = 5 ∧ recordRead (matRec 7 0 0) [(1, 5)] % 2 ^ 64 = matRec 7 0 0 % 2 ^ 64) := by
  refine ⟨⟨by decide +kernel, by decide +kernel, by decide, by decide +kernel, ?_⟩, by decide⟩
  cases h : FMap.get? (posting [] true 0).transit 50 with
  | none => exact .inl rfl
  | some x => exact .inr ⟨x, rfl⟩
/-- A running copy on the copy engine of column 0. -/
def copying (x : Task) : State := let s := tasking [x] (.lossNote 0 1); s.putCol 0 { s.col 0 with copy := some 1 }
def running1 (x : Task) (done : Nat) : Task := { x with state := .running, done := done }
/-- A matrix task that runs on engine 0 with these channels. -/
def stepping (r : Nat) (a : Nat) (c : Option EngStep) : State :=
  withEngine { Engine.reset with run := some 1, chA := List.replicate a 1, chB := List.replicate 8192 1, cur := c } (tasking [running1 (task0 1 false r) 0] (.lossNote 0 1))
/-- A matrix task whose drain, to E4M3 with rows of 256 bytes from an address, is under way. -/
def drainRec (base : Nat) : Nat := matRec 7 0 1 - 5 * 2 ^ (256 + 655) + 3 * 2 ^ (256 + 655) - 1024 * 2 ^ (256 + 680) + 256 * 2 ^ (256 + 680) + base * 2 ^ (256 + 712)
def drainTask (base : Nat) : Task := running1 (task0 1 false (drainRec base)) 0
def draining (base : Nat) (f : Engine → Engine) : State := withEngine (f { Engine.reset with drain := some 1 }) (tasking [drainTask base] (.lossNote 0 1))
/-- A copy with one write issued, of the location at address 0, and a second one, of the next location. -/
def write0 : CopyWrite := ⟨.mem (.column 0 0 0 .here false), 0, [1, 2, 3, 4, 5, 6, 7, 8], none⟩
def write1 : CopyWrite := ⟨.mem (.column 0 0 8 .here false), 8, [1, 2, 3, 4, 5, 6, 7, 8], none⟩
theorem test_wit_EnginesCopyMultiplyAndDrain :
    (let x := running1 (task0 1 true (copyRec 8 0 4)) 3
     let s := copying x
     15 < 16 ∧ s.tileUp 0 = true ∧ (s.col (colKey 0 0)).copy = some 1 ∧ (s.tile 0).tasks = [(1, x)] ∧ x.partner ≠ some 1 ∧ x.state = .running ∧
     x.finished = false ∧ x.stopping = false ∧ s.taskTable 0 x.asid = some tab0 ∧
     (cpKind x.record = 0 ∧ cpMen x.record = false ∧ cpScgen x.record = false ∧ cpSfmt x.record = 0 ∧ cpDfmt x.record = 0 ∧ recHen x.record = false ∧
       ∀ i, i < 4 → cpN x.record i ≠ 0) ∧
     x.done < cpN x.record 0 * cpN x.record 1 * cpN x.record 2 * cpN x.record 3 ∧ s.jobCancelled 3 = false ∧ x.due = none ∧ x.got = none ∧ x.writes = [] ∧
     s.cpWaits 0 tab0 x (cpIndex x.record x.done) = false ∧ (inRepair s).cpWaits 0 tab0 x (cpIndex x.record x.done) = true ∧
     (Said.elementAt x.record (recBody x.record 712 56) 560 x.done = 3 ∧ tab0.check .copyRead 3 1 = .inr ⟨0, wordBed⟩ ∧
       s.targetBed ⟨0, wordBed⟩ (tab0.spills 0) 0 3 = .column 0 0 3 .here false ∧ (s.taskRead 0 tab0 5 0 8 8 1 false).2 = .ok 0 ∧
       tab0.check .copyWrite 3 1 = .inr ⟨0, wordBed⟩ ∧ (s.taskLand (.column 0 0 3 .here false) 5 1 1 false).2 = none) ∧
     (tab0.check .copyRead 65536 1).isLeft = true ∧ (({ s with badLines := [0] }).taskRead 0 tab0 5 0 8 8 1 false).2 = .fault 5 ∧
     { x with done := 4 }.scales = [] ∧ cpN x.record 0 * 1 ≤ 4 ∧ { x with due := some (3, 0) }.due = some (3, 0) ∧
     ((s.putJob { job0 with cancelCause := 1, state := .completing }).jobCancelled 3 = true)) ∧
    (let x := { running1 (task0 1 true (copyRec 8 0 16)) 16 with writes := [write0, write1] }
     let s := copying x
     x.writes[1]? = some write1 ∧ (∀ v ∈ x.writes.take 1, s.writePlace 5 v ≠ s.writePlace 5 write1) ∧ (write1.va + write1.data.length) % 8 = 0 ∧
     s.waitsFor (.column 0 0 8 .here false) 5 8 1 = false ∧ (inRepair s).waitsFor (.column 0 0 8 .here false) 5 8 1 = true ∧
     (s.taskPut (.column 0 0 8 .here false) 5 3 write1.data 1 true).2.1 = none ∧
     (s.taskPut (.column 0 0 65536 .here false) 5 3 write1.data 1 true).2.1 = some 2 ∧
     ((s.taskPut (.column 0 0 8 .here false) 5 3 write1.data 1 true).1.jobCancelled 3 = false)) ∧
    (let x := { running1 (task0 1 true (copyRec 8 0 16)) 16 with writes := [write0, write0] }
     x.writes[1]? = some write0 ∧ ∀ v ∈ x.writes.take 1, (copying x).writePlace 5 v = (copying x).writePlace 5 write0) ∧
    (let x := running1 (task0 1 true (copyRec 8 1 4)) 0
     let s := copying x
     s.task? 0 1 = some x ∧ cpKind x.record = 1 ∧ (s.tile 0).tasks = [(1, x)] ∧ x.partner ≠ some 1 ∧ cpSfmt x.record = 0 ∧ cpKind (copyRec 8 3 4) = 3 ∧ x.done < cpTotal x.record ∧ cpMen x.record = false ∧
     (s.engine (quadKey 0 (cpEng x.record))).chA.length + cpUnitBytes x.record ≤ 2 ^ 21 ∧
     FMap.get? (s.tile 0).ring (1 % 256) = some (ring0 1 (copyRec 8 1 4)) ∧ (ring0 1 (copyRec 8 1 4)).tseq = 1) ∧
    (let r := matRec 7 0 0
     let x := running1 (task0 1 false r) 0
     let s := stepping r 8192 none
     (s.engine (quadKey 0 0)).run = some 1 ∧ s.task? 0 1 = some x ∧ (s.engine 0).cur = none ∧ (s.engine 0).step < stepCount r ∧ x.stopping = false ∧
     x.held = false ∧ stepBytesA r (stepK r 0) = 8192 ∧ stepBytesB r (stepK r 0) = 8192 ∧ s.tileUp 0 = true ∧ recBse r = false) ∧
    (let r := matRec 7 0 0
     let s := stepping r 8192 none
     let bad := fun (f : Engine → Engine) => (withEngine (f (s.engine 0)) s).engine (quadKey 0 0)
     (bad (fun e => { e with badA := true })).badA = true ∧ (bad (fun e => { e with badScale := true })).badScale = true ∧
     recBse (r + 2 ^ (256 + 654)) = true ∧ (Said.bankOf (bad (fun e => { e with bank0 := ⟨false, [], true⟩ })) (recBank r)).bad = true ∧
     recFmtA r = 3 ∧ recFmtB r = 3 ∧ recBse r = false ∧ recSpa r = false ∧ 32 % 32 = 0 ∧ stepCount r ≤ 0 + 1 ∧ recDrain r = false ∧ recDrain (drainRec 0) = true ∧
     (∃ j, s.job? 3 = some j ∧ j.cancelCause = 0)) := by
  refine ⟨?_, ?_, ?_, ?_, ?_, ⟨by decide +kernel, by decide +kernel, by decide +kernel, by decide +kernel, by decide +kernel, by decide +kernel,
    by decide +kernel, by decide +kernel, by decide, by decide +kernel, by decide +kernel, by decide +kernel, ⟨job0, by decide +kernel, rfl⟩⟩⟩ <;> decide +kernel
/-- A drain's first location, of eight elements: to be written, held by a repair, the last to be written, outside the task's beds, out of a bad bank. -/
theorem test_wit_DrainWrites :
    (let s := draining 0 id
     let r := (drainTask 0).record
     (s.engine (quadKey 0 0)).drain = some 1 ∧ s.task? 0 1 = some (drainTask 0) ∧ (drainTask 0).tseq = 1 ∧ s.taskTable 0 5 = some tab0 ∧
     Said.drainLocs r 0 = 32 ∧ (s.engine 0).drained.testBit 0 = false ∧ ((draining 0 (fun e => { e with drained := 1 })).engine 0).drained.testBit 0 = true ∧
     Said.drainPart r 0 0 0 8 ∧ Said.drainAt r 0 0 = 0 ∧ Said.drainWidth r = 1 ∧
     s.taskWaits 0 tab0 .copyWrite 5 0 8 1 = false ∧ (inRepair s).taskWaits 0 tab0 .copyWrite 5 0 8 1 = true ∧
     tab0.check .copyWrite 0 1 = .inr ⟨0, wordBed⟩ ∧ s.targetBed ⟨0, wordBed⟩ (tab0.spills 0) 0 0 = .column 0 0 0 .here false ∧
     (s.taskPut (.column 0 0 0 .here false) 5 3 (Said.drainBytes r Bank.reset 0 0 8) 1 false).2.1 = none ∧
     (s.taskPut (.column 0 0 65536 .here false) 5 3 (Said.drainBytes r Bank.reset 0 0 8) 1 false).2.1 = some 2) ∧
    (((List.range 256).map (Said.drainLocs (drainTask 0).record)).sum = 8192 ∧
      ((draining 0 (fun e => { e with drainCount := 8190 })).engine 0).drainCount + 1 < 8192 ∧
      8192 ≤ ((draining 0 (fun e => { e with drainCount := 8191 })).engine 0).drainCount + 1 ∧
      (((draining 0 id).taskPut (.column 0 0 0 .here false) 5 3 (Said.drainBytes (drainTask 0).record Bank.reset 0 0 8) 1 false).1.engine 0).run = none) ∧
    (let s := draining 65536 id
     let r := (drainTask 65536).record
     Said.drainPart r 0 0 0 8 ∧ Said.drainAt r 0 0 = 65536 ∧ s.taskWaits 0 tab0 .copyWrite 5 65536 8 1 = false ∧
       (tab0.check .copyWrite 65536 1).isLeft = true ∧ FMap.get? (s.tile 0).ring (1 % 256) = some (ring0 1 r)) ∧
    (let s := draining 0 (fun e => { e with bank0 := ⟨false, [], true⟩ })
     (Said.bankOf (s.engine 0) (recBank (drainTask 0).record)).bad = true ∧
       FMap.get? ((s.logError 0 5 true 0 0 1).tile 0).ring (1 % 256) = some (ring0 1 (drainTask 0).record)) := by
  refine ⟨?_, ?_, ?_, ?_⟩ <;> (try unfold Said.drainPart) <;> decide +kernel
/-- The channels hold a step's bytes, or one too few; a channel too full for a unit; a bank whose entries are zero. -/
theorem test_wit_EngineChannels :
    (Said.stepFits ((stepping (matRec 7 0 0) 8192 none).engine 0) (matRec 7 0 0)) ∧
    (¬ Said.stepFits ((stepping (matRec 7 0 0) 8191 none).engine 0) (matRec 7 0 0)) ∧
    (∃ e : Engine, e.chA.length + 4 > 2 ^ 21) ∧
    ((List.replicate (256 * 32) (1 : Byte)).length = 256 * 32) ∧
    (∀ m < 256, ∀ p < 256, (FMap.getD (Said.bankOf Engine.reset 0).ents (256 * m + p) Acc.zero).fx.natAbs < 2 ^ 94) := by
  have ha : ∀ n, ((stepping (matRec 7 0 0) n none).engine 0).chA = List.replicate n 1 := fun n => rfl
  have hb : ∀ n, ((stepping (matRec 7 0 0) n none).engine 0).chB = List.replicate 8192 1 := fun n => rfl
  have hs : ∀ n, ((stepping (matRec 7 0 0) n none).engine 0).step = 0 := fun n => rfl
  have ka : stepBytesA (matRec 7 0 0) (stepK (matRec 7 0 0) 0) = 8192 := by decide +kernel
  have kb : stepBytesB (matRec 7 0 0) (stepK (matRec 7 0 0) 0) = 8192 := by decide +kernel
  refine ⟨?_, ?_, ⟨{ Engine.reset with chA := List.replicate (2 ^ 21) 0 }, ?_⟩, List.length_replicate, ?_⟩
  · simp only [Said.stepFits, ha, hb, hs, ka, kb, List.length_replicate]; decide
  · simp only [Said.stepFits, ha, hb, hs, ka, kb, List.length_replicate]; decide
  · simp only [List.length_replicate]; decide
  · intro m _ p _; exact (by decide : (0 : Int).natAbs < 2 ^ 94)
/-- Reads ahead of their turn, and elements taken from what was read. -/
theorem test_wit_CopyReadsAhead :
    (let x := running1 (task0 1 true (copyRec 8 0 16)) 3
     let s := copying x
     FMap.get? x.ahead x.done = none ∧ x.done ≤ 8 ∧ 8 < 16 ∧ FMap.get? x.ahead 8 = none ∧
     Said.elementAt x.record (recBody x.record 712 56) 560 8 = 8 ∧ Said.elementAt x.record (recBody x.record 712 56) 560 7 = 7 ∧
     s.taskWaits 0 tab0 .copyRead 5 8 1 0 = false ∧ tab0.check .copyRead 8 1 = .inr ⟨0, wordBed⟩ ∧
     s.targetBed ⟨0, wordBed⟩ (tab0.spills 0) 0 8 = .column 0 0 8 .here false ∧ (s.taskRead 0 tab0 5 8 8 8 1 false).2 = .ok 0) ∧
    (let x := { running1 (task0 1 true (copyRec 8 0 16)) 8 with ahead := [(8, 7)] }
     let s := copying x
     FMap.get? x.ahead x.done = some 7 ∧ Said.elementAt x.record (recBody x.record 656 56) 464 8 = 8 ∧
     s.cpWaits 0 tab0 x (cpIndex x.record x.done) = false ∧ tab0.check .copyWrite 8 1 = .inr ⟨0, wordBed⟩ ∧
     (s.targetBed ⟨0, wordBed⟩ (tab0.spills 0) 0 8).node = 0 ∧ (s.taskLand (.column 0 0 8 .here false) 5 1 1 false).2 = none) := by
  constructor <;> decide +kernel
/-- A write whose message has landed, is on its way, is lost. -/
theorem test_wit_CopyWriteTravels :
    (let w : CopyWrite := ⟨.mem (.column 16 0 8 .here false), 8, [1, 2, 3, 4, 5, 6, 7, 8], some 60⟩
     let x := { running1 (task0 1 true (copyRec 8 0 16)) 16 with writes := [w] }
     let s := copying x
     let far := fun l got => { s with transit := [(60, ⟨0, 1, 1, got, l⟩)] }
     x.writes[0]? = some w ∧ (0 : Nat) < 2 ^ 32 - 1 ∧ s.landed 60 = true ∧ (far true 0).isLost 60 = true ∧
     (far false 0).isLost 60 = false ∧ (far false 0).landed 60 = false) := by decide +kernel
/-- Rows of 256 bytes from address 4: locations 0 and 32 of row 0, location 0 of row 1 written with the latter. -/
theorem test_wit_DrainJoins :
    (let s := draining 4 id
     let r := (drainTask 4).record
     Said.drainLocs r 0 = 33 ∧ ¬ Said.drainJoint r 0 32 ∧ Said.drainJoint r 1 0 ∧ Said.drainPart r 0 32 252 4 ∧ Said.drainPart r 1 0 0 4 ∧
     Said.drainAt r 0 252 = 256 ∧ Said.drainAt r 1 0 = 260 ∧ (∀ k < 256, 1 < k → Said.drainAt r 0 0 / 8 + 32 < Said.drainAt r k 0 / 8) ∧
     Said.drainAt r 1 0 / 8 ≤ Said.drainAt r 0 0 / 8 + 32 ∧ tab0.check .copyWrite 256 1 = .inr ⟨0, wordBed⟩ ∧
     tab0.check .copyWrite 260 1 = .inr ⟨0, wordBed⟩ ∧
     (s.taskPut (.column 0 0 256 .here false) 5 3 (Said.drainBytes r Bank.reset 0 252 4) 1 false).2.1 = none ∧
     ((s.taskPut (.column 0 0 256 .here false) 5 3 (Said.drainBytes r Bank.reset 0 252 4) 1 false).1.taskPut (.column 0 0 260 .here false) 5 3
       (Said.drainBytes r Bank.reset 1 0 4) 1 false).2.1 = none) ∧
    Said.drainEvents (drainTask 0).record = 8192 ∧ (∀ k < 256, 0 < k → Said.drainAt (drainTask 0).record 0 0 / 8 + 0 < Said.drainAt (drainTask 0).record k 0 / 8) := by
  refine ⟨⟨?_, ?_, ?_, ?_, ?_, ?_, ?_, ?_, ?_, ?_, ?_, ?_, ?_⟩, ?_, ?_⟩ <;> (try unfold Said.drainJoint) <;> (try unfold Said.drainPart) <;> decide +kernel
/-- A copy from one format to another; the same over the rectangle of tiles 0 and 1. -/
def convRec (kind n0 sf df : Nat) : Nat := copyRec 8 kind n0 + sf * 2 ^ (256 + 396) + df * 2 ^ (256 + 392)
def multi (r : Nat) : Nat := r + 2 ^ (256 + 327) + 2 ^ (256 + 317) + 2 * 2 ^ (256 + 313)
theorem test_wit_CopiesConvert :
    (let r := convRec 0 4 1 2
     cpScgen r = false ∧ cpSfmt r = 1 ∧ cpDfmt r = 2 ∧ cpDfmt (convRec 0 4 1 7) = 7 ∧ Said.srcVal 1 0x7FC00000 = .nan false ∧
     Said.srcVal 1 0x7F800000 = .inf false ∧ Said.srcVal 1 0x3F800000 = .fin ⟨false, 2 ^ 23, -23⟩ ∧
     Said.abs (Said.rat ⟨false, 2 ^ 23, -23⟩) ≤ Said.largest fp16 ∧ 2 * Said.largest fp16 ≤ Said.abs (Said.rat ⟨false, 2 ^ 23, 0⟩)) ∧
    (let r := convRec 0 4 1 4 + 2 ^ (256 + 385)
     let x : Nat → Dy := fun i => if i = 0 then ⟨false, 2 ^ 23, -23⟩ else ⟨false, 0, -149⟩
     cpScgen r = true ∧ cpSfmt r = 1 ∧ cpDfmt r = 4 ∧ ([0x3F800000, 0] : List Nat) ≠ [] ∧
     (∀ i, i < 2 → Said.srcVal 1 ((([0x3F800000, 0] : List Nat)[i]?).getD 0) = .fin (x i)) ∧
     (∀ i, i < 2 → Said.abs (Said.rat (x i)) ≤ 1) ∧ Said.abs (Said.rat (x 0)) = 1 ∧ Said.abs (Said.rat (x 1)) = 0 ∧
     Said.abs (Said.rat (x 0) / Said.num (e4m3.value 0x38)) ≤ Said.largest e4m3) := by decide +kernel
theorem test_wit_ConvertingCopyRuns :
    (let x := running1 (task0 1 true (convRec 0 4 1 2)) 0
     let s := copying x
     (0 < 16 ∧ s.tileUp 0 = true ∧ (s.col (colKey 0 0)).copy = some 1 ∧ (s.tile 0).tasks = [(1, x)] ∧ x.partner ≠ some 1 ∧ x.state = .running ∧
       x.finished = false ∧ x.stopping = false ∧ s.taskTable 0 x.asid = some tab0 ∧ s.jobCancelled x.job = false ∧ x.due = none ∧ x.writes = [] ∧
       x.got = none ∧ x.ahead = [] ∧ recHen x.record = false ∧ ∀ i, i < 4 → cpN x.record i ≠ 0) ∧
     cpMen x.record = false ∧ x.done < cpTotal x.record ∧ s.cpWaits 0 tab0 x (cpIndex x.record x.done) = false ∧
     tab0.check .copyRead 0 4 = .inr ⟨0, wordBed⟩ ∧ s.targetBed ⟨0, wordBed⟩ (tab0.spills 0) 0 0 = .column 0 0 0 .here false ∧
     (s.taskRead 0 tab0 5 0 8 8 1 false).2 = .ok 0 ∧ cpConvert x.record [0] = some ([0], []) ∧
     tab0.check .copyWrite 0 2 = .inr ⟨0, wordBed⟩ ∧ (Target.column 0 0 0 .here false).node = 0 ∧
     (s.taskLand (.column 0 0 0 .here false) 5 2 1 false).2 = none) ∧
    (cpConvert (convRec 0 4 1 7) [0x7FC00000] = none ∧
      FMap.get? ((copying (running1 (task0 1 true (convRec 0 4 1 7)) 0)).tile 0).ring (1 % 256) = some (ring0 1 (convRec 0 4 1 7)) ∧
      (let s := copying (running1 (task0 1 true (convRec 0 4 1 7)) 0)
       ({ s with mem := s.mem.write 0 8 0x7FC00000 }.taskRead 0 tab0 5 0 8 8 1 false).2 = .ok 0x7FC00000)) ∧
    (let x := { running1 (task0 1 true (convRec 0 32 1 4 + 2 ^ (256 + 385))) 1 with scales := [0x38] }
     let s := copying x
     cpTotal x.record ≤ x.done ∧ x.scaled = false ∧ recCw x.record = 0 ∧ recBody x.record 328 56 = 0 ∧ tab0.check .copyWrite 0 1 = .inr ⟨0, wordBed⟩ ∧
     s.targetBed ⟨0, wordBed⟩ (tab0.spills 0) 0 0 = .column 0 0 0 .here false ∧ (s.taskLand (.column 0 0 0 .here false) 5 1 1 false).2 = none ∧
     { x with writes := [write0] }.writes ≠ []) := by decide +kernel
theorem test_wit_CopiesMulticast :
    (let tab : BedTable := ⟨1, 0, [(0, bedCopies)]⟩
     let r := multi (copyRec 8 0 4)
     cpMen r = true ∧ cpRect r = [0, 1] ∧ tab.check .copyWrite 0 1 = .inr ⟨0, bedCopies⟩ ∧ tab.find 0 = some ⟨0, bedCopies⟩ ∧
     (bedCopies.kind = .replicated ∧ ∀ T ∈ cpRect r, bedCopies.trow0 ≤ T / 8 ∧ T / 8 < bedCopies.trow0 + bedCopies.trows ∧ bedCopies.tcol0 ≤ T % 8 ∧
       T % 8 < bedCopies.tcol0 + bedCopies.tcols) ∧
     tab0.check .copyWrite 0 1 = .inr ⟨0, wordBed⟩ ∧ tab0.find 0 = some ⟨0, wordBed⟩ ∧ wordBed.kind ≠ .replicated) ∧
    (let x := running1 (task0 1 true (multi (copyRec 8 1 4))) 0
     let s := bound (copying x)
     s.tileUp 0 = true ∧ (s.col (colKey 0 0)).copy = some 1 ∧ (s.tile 0).tasks = [(1, x)] ∧ s.taskTable 0 x.asid = some tab0 ∧ s.jobCancelled x.job = false ∧
     x.ahead = [] ∧ recHen x.record = false ∧ (∀ i, i < 4 → cpN x.record i ≠ 0) ∧ cpKind x.record = 1 ∧ cpMen x.record = true ∧ cpScgen x.record = false ∧
     cpSfmt x.record = 0 ∧ cpDfmt x.record = 0 ∧ s.cpWaits 0 tab0 x (cpIndex x.record 0) = false ∧
     (∀ T ∈ cpRect x.record, (s.engine (quadKey T (cpEng x.record))).chA.length + 1 ≤ 2 ^ 21) ∧
     tab0.check .copyRead 0 1 = .inr ⟨0, wordBed⟩ ∧ s.targetBed ⟨0, wordBed⟩ (tab0.spills 0) 0 0 = .column 0 0 0 .here false ∧
     (s.taskRead 0 tab0 5 0 8 8 1 false).2 = .ok 0 ∧ (∀ T ∈ cpRect x.record, (s.taskRead 0 tab0 5 0 8 8 1 false).1.tileUp T = true) ∧
     0 ∈ cpRect x.record ∧ 1 ∈ cpRect x.record ∧
     (let y := { x with writes := [⟨.chan 1, 0, [1], some 60⟩] }
      (bound (copying y)).landed 60 = true ∧ (bound (copying y)).tileUp 1 = true)) ∧
    (let p := running1 (task0 1 true (copyRec 8 0 4)) 0
     let x := task0 2 true (copyRec 8 0 4 + 2 ^ 228)
     let s0 := tasking [p, x] (.lossNote 0 1)
     let s := s0.putCol 0 { s0.col 0 with copy := some 1 }
     (s.tile 0).tasks = [(1, p), (2, x)] ∧ x.state = .ready ∧ x.isCopy = true ∧ x.held = false ∧ x.partner = none ∧ x.done = 0 ∧ s.tileUp 0 = true ∧
     s.heldFrom 0 x = false ∧ s.channelTaken 0 x (some 1) = false ∧ p.state = .running ∧ p.writes = [] ∧ p.finished = false ∧ p.stopping = false ∧
     p.job = x.job ∧ p.asid = x.asid ∧ Said.bodiesMatch p.record x.record ∧ s.copyFree 0 x = true ∧ s.freeCopyEngine 0 = some 1) ∧
    (let x := running1 (task0 1 true (copyRec 8 0 4)) 0
     let y := { running1 (task0 2 true (copyRec 9 0 4)) 0 with partner := some 1 }
     let s := tasking [x, y] (.lossNote 0 1)
     (s.tile 0).tasks = [(1, x), (2, y)] ∧ 2 % 256 ≠ 1 % 256 ∧ y.partner = some 1 ∧ x.partner = none ∧ y.fin = 0 ∧
     FMap.get? (s.tile 0).ring (1 % 256) = some (ring0 1 x.record) ∧ FMap.get? (s.tile 0).ring (2 % 256) = some (ring0 2 y.record)) := by
  refine ⟨?_, ?_, ?_, ?_⟩ <;> (try unfold Said.bodiesMatch) <;> decide +kernel
theorem test_wit_MatrixStepsFollowTheFormats :
    (let r := matRec 7 0 0 - 2 ^ (256 + 651) - 3 * 2 ^ (256 + 661) + 2 ^ (256 + 661)
     let x := task0 1 false r
     let s := tasking [x] (.taskw 0 77 2 50 1)
     Said.taskAt s 0 1 = some x ∧ x.state = .ready ∧ s.tileUp 0 = true ∧ s.matrixFree 0 x = true ∧ x.done = 0 ∧ recBody r 651 1 = 0 ∧
     (Said.bankOf (s.engine 0) (recBank r)).fe ≠ recFe r ∧ FMap.get? (s.tile 0).ring (1 % 256) = some (ring0 1 r)) ∧
    (let r := matRec 7 0 0 + 2 ^ (256 + 654)
     let s := stepping r 8192 none
     s.task? 0 1 = some (running1 (task0 1 false r) 0) ∧ (s.engine 0).step < stepCount r ∧ recBse r = true ∧ (s.engine 0).badScale = false ∧
     (s.engine 0).badA = false ∧ (s.engine 0).badB = false ∧ s.tileUp 0 = true) ∧
    (let r := matRec 7 0 0
     let c : EngStep := ⟨32, [], [], [], []⟩
     let s := stepping r 0 (some c)
     (s.engine 0).run = some 1 ∧ (s.engine 0).cur = some c ∧ s.task? 0 1 = some (running1 (task0 1 false r) 0) ∧
     (Said.bankOf (s.engine 0) (recBank r)).bad = false ∧ s.jobCancelled 3 = false) ∧
    (let r := matRec 7 0 0
     recFe r = false ∧ (32 : Nat) ≤ 256 ∧ 32 % 32 = 0 ∧ Acc.zero.fx.natAbs < 2 ^ 94 ∧ recFmtA r < 6 ∧ recFmtB r < 6) ∧
    { Acc.zero with nan := true }.nan = true := by decide +kernel
/-- Operands that are zero: a dense step of bytes, a sparse one and one with block scales, and with an FE96 entry. -/
theorem test_wit_GroupsAreFinite (g : Nat) :
    Said.groupFinite ⟨matRec 7 0 0, 32, 0, 0, 0, 0⟩ 0 0 g ∧ Said.groupFinite ⟨matRec 7 0 0 + 2 ^ (256 + 653), 32, 0, 0, 0, 0⟩ 0 0 g ∧
    Said.groupFinite ⟨matRec 7 0 0 + 2 ^ (256 + 654), 32, 0, 0, 0, 0⟩ 0 0 g := by
  have h0 : ∀ off w, Said.bitsAt 0 off w = 0 := by intro off w; simp [Said.bitsAt]
  have h8 : Said.operand 8 0 = .fin ⟨false, 0, 0⟩ := by decide
  have fb : ∀ r, matFmt (recFmtB r) = 8 → ∀ k, Said.finite (Said.bEl ⟨r, 32, 0, 0, 0, 0⟩ 0 k) := by
    intro r hr k; exact ⟨⟨false, 0, 0⟩, by simp only [Said.bEl, hr, h0, h8]⟩
  have fa : ∀ r, matFmt (recFmtA r) = 8 → ∀ k, Said.finite (Said.aEl ⟨r, 32, 0, 0, 0, 0⟩ 0 k) := by
    intro r hr k; exact ⟨⟨false, 0, 0⟩, by simp only [Said.aEl, hr, h0, h8]⟩
  have fk : ∀ r, matFmt (recFmtA r) = 8 → ∀ i, Said.finite (Said.aKept ⟨r, 32, 0, 0, 0, 0⟩ 0 g i) := by
    intro r hr i; exact ⟨⟨false, 0, 0⟩, by simp only [Said.aKept, hr, h0, h8]⟩
  have all : ∀ r, matFmt (recFmtA r) = 8 → matFmt (recFmtB r) = 8 → Said.groupFinite ⟨r, 32, 0, 0, 0, 0⟩ 0 0 g := by
    intro r ha hb
    refine ⟨fun l _ => fb r hb _, ?_, fun _ => by simp [Said.scaleA, Said.scaleB, h0]⟩
    split
    · exact ⟨fk r ha 0, fk r ha 1⟩
    · exact fun l _ => fa r ha _
  exact ⟨all _ (by decide +kernel) (by decide +kernel), all _ (by decide +kernel) (by decide +kernel), all _ (by decide +kernel) (by decide +kernel)⟩
/-- The FE96 entry +0 and sums within range; an E4M3 operand that is a NaN; a block scale that is one. -/
theorem test_wit_GroupValues :
    (fe96.value (0 : BitVec 96).toNat = .fin ⟨false, 0, -16462⟩ ∧
      Said.abs (Said.groupSum ⟨matRec 7 0 0, 32, 0, 0, 0, 0⟩ 0 0 0 * Said.blockScales ⟨matRec 7 0 0, 32, 0, 0, 0, 0⟩ 0 0 0) ≤ Said.largest fe96 ∧
      Said.abs (Said.rat ⟨false, 0, -16462⟩ + Said.num (fe96.value 0)) ≤ Said.largest fe96) ∧
    ((Said.aEl ⟨matRec 7 0 0 - 3 * 2 ^ (256 + 661), 32, 0x7F, 0, 0, 0⟩ 0 0).isNan = true ∧ recSpa (matRec 7 0 0 - 3 * 2 ^ (256 + 661)) = false) ∧
    (recBse (matRec 7 0 0 + 2 ^ (256 + 654)) = true ∧ 0x7F ≤ Said.scaleA ⟨matRec 7 0 0 + 2 ^ (256 + 654), 32, 0, 0, 0x7F, 0⟩ 0 (0 / 8)) := by
  decide +kernel

/-! #### Hedges, tables, spawning -/

/-- A hedge register armed over tiles 0, 1, 8 and 9: rectangle at row 0, column 0, of 2 rows and 2 columns. -/
def rect22 : BitVec 14 := 0#14 ||| (2#14 <<< 6) ||| (2#14 <<< 10)
def hedge0 : Hedge := ⟨0, 1, 1, 0, .armed, rect22, 3, [], none, none, false⟩
/-- A strand with that rectangle in x0 and its hedge operands in g1 and g2; its job's plot is tiles 0, 1, 8 and 9, all Live. -/
def stHedge (a b : Word) : Strand := (stG [(1, a), (2, b)]).setX 0 (rect22.zeroExtend 64)
def jobBig : Job := { job0 with lrec := { lrec0 with prows := 2, pcols := 2 } }
def hedging (t : Strand) (m : Msg) (tile : Nat) (x : Hedge) : State :=
  let s := oneStrand t m jobBig
  let s := s.putTile 8 { s.tile 8 with pow := { (s.tile 8).pow with mode := .run } }
  s.putHedge tile 4 x
def rowMsg (t : Nat) : Msg := .hedgeRow t 4 rect22
/-- The rectangle's rule with its tiles' bounds as one premise, which is decidable. -/
theorem rectFits_of (s : State) (st : Strand) (r : BitVec 14)
    (h : (0 < Said.rows r ∧ 0 < Said.cols r ∧ Said.row0 r + Said.rows r ≤ 8 ∧ Said.col0 r + Said.cols r ≤ 8) ∧
      (∀ t, t < 64 → (Said.row0 r ≤ t / 8 ∧ t / 8 < Said.row0 r + Said.rows r ∧ Said.col0 r ≤ t % 8 ∧ t % 8 < Said.col0 r + Said.cols r) →
        s.inPlot st.job t = true ∧ s.tileLive t = true) ∧
      Said.row0 r ≤ st.loc.tile / 8 ∧ st.loc.tile / 8 < Said.row0 r + Said.rows r ∧ Said.col0 r ≤ st.loc.tile % 8 ∧
      st.loc.tile % 8 < Said.col0 r + Said.cols r) : Said.rectFits s st r :=
  ⟨h.1.1, h.1.2.1, h.1.2.2.1, h.1.2.2.2, fun t ht a b c d => h.2.1 t ht ⟨a, b, c, d⟩, h.2.2⟩
theorem test_wit_HedgesArmArriveAndRelease :
    (let f := fun t : Strand => hedging t (.hedgeBytes 0 4 1) 0 Hedge.reset
     Said.Issues (f (stHedge 65535 0)) (stHedge 65535 0) [1, 2] ∧ ((f (stHedge 65535 0)).hedge 0 4).state = .idle ∧ Said.rectFits (f (stHedge 65535 0)) (stHedge 65535 0) rect22 ∧
     ((stHedge 65535 0).x[0]).truncate 14 = rect22 ∧ (stHedge 65535 0).gv 1 ≠ 0 ∧ 2 ^ 16 ≤ ((stHedge 65536 0).gv 1).toNat ∧
     2 ^ 40 ≤ ((stHedge 0 0x10000000000).gv 2).toNat ∧ ¬ Said.rectFits (f (stHedge 1 0)) (stHedge 1 0) 0 ∧ Hedge.reset.rowDone = false) ∧
    (let f := fun x : Hedge => hedging (stHedge 1 0) (.hedgeBytes 0 4 1) 0 x
     Said.Issues (f hedge0) (stHedge 1 0) [] ∧ (f hedge0).waitOver { stHedge 1 0 with wait := .rect rect22 } = true ∧
     (withItem (f hedge0) (stHedge 1 0) .posted (some 16)).waitOver { stHedge 1 0 with wait := .rect rect22 } = false ∧
     hedge0.state ≠ .idle ∧ { hedge0 with part := 0 }.part = 0 ∧ 1 < { hedge0 with part := 2 }.part ∧ hedge0.part = 1 ∧ { hedge0 with bytes := 1 }.bytes ≠ 0) ∧
    (Said.Issues (hedging (stHedge 1 0) (.hedgeBytes 0 4 1) 0 hedge0) (stHedge 1 0) [1] ∧ (hedge0.relgen + 65536 - 0) % 65536 < 2 ^ 15 ∧
      2 ^ 15 ≤ (hedge0.relgen + 65536 - 1) % 65536 ∧ 2 ^ 15 ≤ (hedge0.relgen + 65536 - 32768) % 65536 ∧ (32768 : Nat) ≠ hedge0.gen ∧
      hedge0.waiters.length < 256 ∧ 256 ≤ (List.replicate 256 (⟨1, 77, 2, 50⟩ : HedgeWaiter)).length) ∧
    (let s := hedging st0 (.hedgeBytes 0 4 1) 0 { hedge0 with bytes := 2 }
     s.msg? 50 = some (.hedgeBytes 0 4 1) ∧ s.tileUp 0 = true ∧ (s.hedge 0 4).state = .armed ∧ 1 < (s.hedge 0 4).bytes ∧ Hedge.reset.state ≠ .armed) ∧
    (let s := hedging st0 (rowMsg 0) 0 hedge0
     s.msg? 50 = some (rowMsg 0) ∧ s.tileUp 0 = true ∧ (s.hedge 0 4).row = none ∧ (s.hedge 0 4).rowDone = false ∧ (s.hedge 0 4).part ≠ 0 ∧
     { hedge0 with row := some rect22 }.row = some rect22) ∧
    (let r : BitVec 14 := 0#14 ||| (1#14 <<< 6) ||| (3#14 <<< 10)
     let s := hedging st0 (.hedgeRow 1 4 r) 1 { hedge0 with part := 0, rect := r }
     s.msg? 50 = some (.hedgeRow 1 4 r) ∧ 1 < 64 ∧ s.tileUp 1 = true ∧ (s.hedge 1 4).part = 0 ∧ (s.hedge 1 4).bytes = 0 ∧ r = (s.hedge 1 4).rect ∧ 1 % 8 ≠ Said.col0 r ∧
     1 % 8 < Said.col0 r + Said.cols r - 1) ∧
    (let s := hedging st0 (.hedgeCol 8 4 rect22) 8 { hedge0 with part := 0, state := .arrived, rowDone := true }
     s.msg? 50 = some (.hedgeCol 8 4 rect22) ∧ s.tileUp 8 = true ∧ (s.hedge 8 4).col = none ∧ (s.hedge 8 4).state = .arrived ∧ 8 / 8 ≠ Said.row0 rect22 ∧
     Said.row0 rect22 + Said.rows rect22 - 1 ≤ 8 / 8 ∧
     (let r : BitVec 14 := 0#14 ||| (3#14 <<< 6) ||| (1#14 <<< 10); 8 / 8 < Said.row0 r + Said.rows r - 1)) ∧
    (let s := hedging st0 (.hedgeRel 1 4 rect22) 1 hedge0
     s.msg? 50 = some (.hedgeRel 1 4 rect22) ∧ Said.col0 rect22 < 1 % 8 ∧ 1 % 8 = Said.col0 rect22 + Said.cols rect22 - 1 ∧
     8 % 8 + 1 ≠ Said.col0 rect22 + Said.cols rect22 - 1 + 8 ∧ Said.row0 rect22 < 9 / 8) := by
  refine ⟨⟨?_, ?_, rectFits_of _ _ _ ?_, ?_, ?_, ?_, ?_, fun h => absurd h.1 (by decide), ?_⟩, ?_, ?_, ?_, ?_, ?_, ?_, ?_⟩ <;> (try unfold Said.Issues) <;> decide +kernel

/-- The rest of their clauses: a register that an arming, an arrival, a copy's bytes or a row arrival completes, and one that each leaves incomplete. -/
theorem test_wit_HedgesComplete :
    (let y := fun p b : Nat => ({ hedge0 with part := p, bytes := b } : Hedge)
     Said.complete (y 0 0) 0 ∧ ¬ Said.complete (y 0 0) 1 ∧ ¬ Said.complete (y 0 1) 0 ∧ Said.complete { y 0 0 with row := some rect22 } 1 ∧
     (stHedge 0 0).gv 1 = 0 ∧ (stHedge 0 0).gv 2 = 0) ∧
    (let s := hedging st0 (.hedgeBytes 0 4 1) 0 { hedge0 with part := 0, bytes := 1 }
     s.msg? 50 = some (.hedgeBytes 0 4 1) ∧ s.tileUp 0 = true ∧ (s.hedge 0 4).state = .armed ∧ Said.complete { s.hedge 0 4 with bytes := (s.hedge 0 4).bytes - 1 } 0) ∧
    (let s := hedging st0 (.hedgeRow 1 4 rect22) 1 { hedge0 with part := 0 }
     s.msg? 50 = some (.hedgeRow 1 4 rect22) ∧ s.tileUp 1 = true ∧ (s.hedge 1 4).row = none ∧ (s.hedge 1 4).state = .armed ∧
     Said.complete { s.hedge 1 4 with row := some rect22 } 1 ∧ 1 % 8 ≠ Said.col0 rect22) ∧
    (let s := hedging st0 (.hedgeCol 8 4 rect22) 8 hedge0
     (s.hedge 8 4).col = none ∧ hedge0.rowDone = false ∧ ({ hedge0 with state := .idle }).state ≠ .armed ∧ { hedge0 with col := some rect22 }.col = some rect22) := by
  refine ⟨?_, ?_, ?_, ?_⟩ <;> (try unfold Said.complete) <;> decide
/-- A supervisor strand's state with two bound tiles. -/
def stSup : Strand := { stVa 0 with ss := 0x40000 }
def dWord : Nat := 1 * 2 ^ 444 + 2 ^ 439
theorem test_wit_InvalidationsAndDescriptorsTakeEffect :
    (Said.IssuesAnyhow (on st0) st0 ∧ st0.sup = false) ∧
    (let s := bound (withBed stSup wordBed)
     stSup.sup = true ∧ Said.Issues s stSup [1, 2] ∧ s.waitOver { stSup with wait := .items [.posted] [] 7 } = true ∧
     (withItem s stSup .posted (some 0)).waitOver { stSup with wait := .items [.posted] [] 7 } = false ∧ (∀ c ∈ [(1 : Nat), 2], (stSup.rc c).acq = none) ∧
     Said.boundColumns s ≠ [] ∧ FMap.get? (s.tile 0).bedTables 5 = some tab0 ∧ tab0.find 65535 = some ⟨0, wordBed⟩ ∧
     wordBed.home (65535 - 0) 0 = some (0, 65535) ∧ tab0.find 65536 = none) ∧
    (let s := homing (.tlbi 77 2 50 0 2 5 0)
     s.msg? 50 = some (.tlbi 77 2 50 0 2 5 0) ∧ (∀ e ∈ (s.col 0).tlb, 0 < e.size ∧ e.cva % e.size = 0) ∧ s.tileUp (0 / 16) = true ∧
     (downTile s).tileUp (0 / 16) = false) ∧
    (let s := { homing (.tlbiAck 77 2 50 1) with acks := [(50, (2, 0)), (51, (1, 0))] }
     s.msg? 50 = some (.tlbiAck 77 2 50 1) ∧ FMap.get? s.acks 50 = some (2, 0) ∧ FMap.get? s.acks 51 = some (1, 0) ∧ s.strand? 77 = some st0 ∧
     st0.status ≠ .evicted) ∧
    ((panel.col (colKey 0 15)).tbBusy = false ∧ (∀ e ∈ (panel.col (colKey 0 15)).tlb, 0 < e.size ∧ e.cva % e.size = 0) ∧
      { Column.reset with tbBusy := true }.tbBusy = true) ∧
    (let s := withBed (stVa 65472) bedHere
     Said.Issues s (stVa 65472) [1, 2] ∧ s.lookup (stVa 65472) 65472 = .hit ⟨0, bedHere⟩ ∧ 65472 % 64 = 0 ∧ 65480 % 64 ≠ 0 ∧
     s.waitOver { stVa 65472 with wait := .items [.posted, .update] [] 7 } = true ∧
     (withItem s (stVa 65472) .update (some 0)).waitOver { stVa 65472 with wait := .items [.posted, .update] [] 7 } = false) ∧
    (let s := { homing (.readDone (.bedw 40 0) 0 0 none 50) with msgs := [(40, .bedw 0 77 2 50 false 5 0 none (some (some 0))), (50, .readDone (.bedw 40 0) 0 0 none 50)] }
     s.msg? 50 = some (.readDone (.bedw 40 0) 0 0 none 50) ∧ s.msg? 40 = some (.bedw 0 77 2 50 false 5 0 none (some (some 0))) ∧
     FMap.get? (s.tile 0).bedTables 5 = some tab0 ∧ FMap.get? (s.tile 0).bedTables 6 = none ∧ bedOf dWord ≠ none ∧ dWord ≠ 0 ∧ dWord / 2 ^ 441 % 8 ≠ 4 ∧
     s.bedwCheck tab0 0 dWord false = 0 ∧ bedSelfOk (dWord + 2 ^ 128) = false ∧ (dWord + 4 * 2 ^ 441) / 2 ^ 441 % 8 = 4) ∧
    (Quad.reset.busy = false ∧ (16 : BitVec 64).toNat / 256 % 32 + 16 ≤ 16 ∧ Quad.reset.scrw ≤ 16 ∧
      (let v : BitVec 64 := 0x0F01; (v.extractLsb' 8 5).toNat = 15 ∧ (v.extractLsb' 0 5).toNat = 1 ∧ 15 + 1 ≤ 16) ∧
      (let v : BitVec 64 := 0x1001; 16 < (v.extractLsb' 8 5).toNat + (v.extractLsb' 0 5).toNat) ∧
      { Quad.reset with scrw := 16 }.scrw ≤ 16 ∧ { Quad.reset with busy := true, newScrw := 16 }.newScrw ≤ 16) := by
  refine ⟨?_, ?_, ?_, ?_, ?_, ?_, ?_, ?_⟩ <;> (try unfold Said.IssuesAnyhow) <;> (try unfold Said.Issues) <;> decide +kernel

/-- The rest of its clauses: TLBI.page of a host bed, a descriptor's first half, and one descriptor for each status. -/
theorem test_wit_InvalidationsAndDescriptorsTakeEffect_more :
    (let s := bound (withBed stSup bedHost)
     s.tableKnown 0 5 = some ⟨1, 0, [(0, bedHost)]⟩ ∧ (⟨1, 0, [(0, bedHost)]⟩ : BedTable).find 0 = some ⟨0, bedHost⟩ ∧ bedHost.kind = .host ∧
       s.tableKnown 0 6 = none) ∧
    (let s := { homing (.readDone (.bedw 40 0) 0 7 none 50) with msgs := [(40, .bedw 0 77 2 50 false 5 0 none none), (50, .readDone (.bedw 40 0) 0 7 none 50)] }
     s.msg? 50 = some (.readDone (.bedw 40 0) 0 7 none 50) ∧ s.msg? 40 = some (.bedw 0 77 2 50 false 5 0 none none)) ∧
    (bedOf dWord ≠ none ∧ bedSelfOk dWord = true ∧ (bedOf dWord).map (·.kind) = some .here ∧ (bedOf dWord).map (·.base) = some 0) := by
  refine ⟨?_, ?_, ?_⟩ <;> decide
theorem test_wit_BedwStatuses (b : Bed) (h : bedOf dWord = some b) :
    Said.meets b wordBed ∧ Said.placed panel b ∧ ¬ Said.placed State.reset b ∧ Said.updatable b none ∧ ¬ Said.updatable bedUpd none ∧ Said.farFits panel b ∧
    ¬ Said.farFits panel bedHost ∧ ¬ Said.farFits panel { bedHost with kind := .peer } := by
  have e : b = (bedOf dWord).getD wordBed := by rw [h]; rfl
  subst e
  refine ⟨⟨0, by decide, by decide, by decide, by decide⟩, ?_, ?_, ?_, ?_, ?_, ?_, ?_⟩
  · exact (by decide : panel.tileLive 0 = true)
  · exact (by decide : ¬ State.reset.tileLive 0 = true)
  · intro k; exact absurd k (by decide)
  · intro k; exact absurd (k rfl).2.2.2.2 (by rintro ⟨p, hp, -⟩; cases hp)
  · exact ⟨fun k => absurd k (by decide), fun k => absurd k (by decide)⟩
  · intro k; exact absurd (k.1 rfl).1 (by decide)
  · intro k; exact absurd (k.2 rfl) (by decide)
/-- The parent of a SPAWN: its target in g1, a home in g2, one register passed, a join word's address in x1. -/
def stPar (target x1 : Word) (n : Nat) (p : Phase) : Strand :=
  { ((stG [(1, target), (2, 0)]).setX 0 (.ofNat 64 (n * 2 ^ 16))).setX 1 x1 with phase := p }
theorem test_wit_StrandsAreSpawnedJoinedAndEnded :
    (let t := stPar 64 0 1 .none
     let s := withBed t bedHere
     Said.Issues s t [1, 2] ∧ (∀ c ∈ [(1 : Nat), 2], (t.rc c).acq = none) ∧ t.phase = .none ∧ (t.gv 1).toNat < 2 ^ 56 ∧ (t.gv 1).toNat % 2 = 0 ∧ Said.passed t ≤ 4 ∧
     t.x[1] = 0 ∧ s.waitOver { t with wait := Said.releases } = true ∧ (withItem s t .posted (some 5)).waitOver { t with wait := Said.releases } = false ∧
     s.imagesUsed t.colKey < 262144 ∧ (s.pickCore 0 0 (fun _ => true)).isSome = true ∧ Said.homeFor s t none = some none ∧
     Said.homeFor s t (some ⟨2, false⟩) = some (some (0, some 0, 0)) ∧ (withBed t bedHost).lookup t 0 = .hit ⟨0, bedHost⟩ ∧
     ((withBed t bedHost).target t ⟨0, bedHost⟩ 0).home = none ∧ (4 < Said.passed (stPar 64 0 5 .none)) ∧
     2 ^ 56 ≤ ((stPar 0x100000000000000 0 0 .none).gv 1).toNat ∧ ((stPar 0xFFFFFFFFFFFFFF 0 0 .none).gv 1).toNat % 2 = 1) ∧
    (let t := stPar 64 0 1 .none
     ∀ k, k < Said.passed t → let c := t.rc (Said.passes t k).toNat; c.st = .full ∧ c.loss = none ∧ c.acq = none ∧ c.par = false) ∧
    (let t := stPar 64 65528 1 .none
     (withBed t bedHere).lookup t t.x[1] = .hit ⟨0, bedHere⟩ ∧ t.x[1] ≠ 0 ∧ t.x[1].toNat % 8 = 0 ∧ Said.needAtomic bedHere = true ∧
     Said.writable bedHere.kind = true ∧ (withBed (stPar 64 65536 1 .none) bedHere).lookup (stPar 64 65536 1 .none) 65536 = .miss) ∧
    (let t := stPar 64 8 1 (.spawn 9 64 none 8 .acked)
     Said.Issues (withBed t bedHere) t [1] ∧ t.phase = .spawn 9 64 none 8 .acked ∧ Said.Issues (withBed (stPar 64 8 1 (.spawn 9 64 none 8 .sent)) bedHere) (stPar 64 8 1 (.spawn 9 64 none 8 .sent)) [1]) ∧
    (Said.Issues (withBed (stVa 65536) bedHere) (stVa 65536) [1] ∧ (withBed (stVa 65536) bedHere).lookup (stVa 65536) 65536 = .miss ∧
      Said.Issues (withBed (stVa 65528) bedHere) (stVa 65528) [1] ∧ (withBed (stVa 65528) bedHere).lookup (stVa 65528) 65528 = .hit ⟨0, bedHere⟩ ∧
      (let t := stPhase (.join 9 true 0); Said.Issues (on t) t [] ∧ t.phase = .join 9 true 0)) ∧
    (st0.joinw = 0 ∧ st0.hkind = .none ∧ Said.Issues (on st0) st0 [] ∧
      (let t := { st0 with joinw := 8 }
       let s := withBed t bedHere
       Said.Issues s t [] ∧ t.joinw ≠ 0 ∧ s.tableFor t = some tab0 ∧ tab0.find t.joinw.toNat = some ⟨0, wordBed⟩ ∧
       s.waitOver { t with wait := .items [] [.posted, .update, .copy, .task] 7 } = true ∧
       (withItem s t .copy none).waitOver { t with wait := .items [] [.posted, .update, .copy, .task] 7 } = false)) ∧
    (let v := { st0 with handle := 78, status := .trapped }
     let t := { st0 with hkind := .sup, victim := 78 }
     let s := (on t).putStrand v
     Said.Issues s t [] ∧ t.ofTask = false ∧ s.strand? t.victim = some v ∧ v.status = .trapped ∧ v.joinw = 0 ∧ v.phase = .none ∧ v.handle ≠ t.handle) := by
  refine ⟨?_, ?_, ?_, ?_, ?_, ?_, ?_⟩ <;> (try unfold Said.Issues) <;> decide +kernel
/-- The rest of its clauses: a passed register with DataLoss when SPAWN completes; an EXIT whose join word lies in no bed, or in one without atomics. -/
theorem test_wit_StrandsAreSpawnedJoinedAndEnded_more :
    (let t := { stR (stPar 64 8 1 (.spawn 9 64 none 8 .acked)) 0 { st0.rc 0 with loss := some ⟨1, 2⟩ } with x := (stPar 64 8 1 .none).x }
     let s := withBed t bedHere
     Said.Issues s t [1] ∧ t.phase = .spawn 9 64 none 8 .acked ∧ 0 < Said.passed t ∧ Said.passes t 0 = 0 ∧ (t.rc 0).st = .full ∧ (t.rc 0).loss = some ⟨1, 2⟩ ∧
     s.imageCacheFull t.colKey = false ∧ s.nextHandle t.colKey t.job ≠ t.handle) ∧
    (let t := { st0 with joinw := 65536 }
     let s := withBed t bedHere
     s.tableFor t = some tab0 ∧ tab0.find t.joinw.toNat = none ∧ s.waitOver { t with wait := .items [] [.posted, .update, .copy, .task] 7 } = true) ∧
    (let b := { bedHere with atm := false }
     let t := { st0 with joinw := 8 }
     (withBed t b).tableFor t = some ⟨1, 0, [(0, b)]⟩ ∧ (⟨1, 0, [(0, b)]⟩ : BedTable).find 8 = some ⟨0, b⟩ ∧ Said.needAtomic b = false) := by
  refine ⟨?_, ?_, ?_⟩ <;> (try unfold Said.Issues) <;> decide +kernel
/-- A column's images can all be in use: the strands that hold them stand in its dock. -/
theorem imagesUsed_replicate (k : Nat) : k ≤ State.imagesUsed { State.reset with strands := List.replicate k (77, st0) } st0.colKey := by
  have h : (((List.replicate k ((77 : Nat), st0)).map Prod.snd).filter (fun st => st.colKey == st0.colKey)).length = k := by
    rw [List.map_replicate, List.filter_replicate, if_pos (by decide), List.length_replicate]
  exact Nat.le_trans (Nat.le_of_eq h.symm) (Nat.le_trans (Nat.le_add_right _ _) (Nat.le_add_right _ _))
theorem test_wit_NoImageFree : ∃ s : State, 262144 ≤ s.imagesUsed st0.colKey := ⟨_, imagesUsed_replicate 262144⟩

/-! #### Jobs, special registers and handlers -/

def jobGo (a : Nat) : Job := { job0 with lrec := { lrec0 with goaddr := a } }
def jobEarly : Job := { job0 with early := [0, 1], earlyDone := [1] }
/-- LAUNCH to queue 65536 or 65535 of the record at g2. -/
def stLaunch (q va : Word) : Strand := stG [(1, q), (2, va)]
/-- Core 0 full, the strand of slot 1 issuing. -/
def yielding : State := { fullCore with cur := some (stSlot 1).handle }
theorem test_wit_JobInstructionsActAsStated :
    (let t := stLaunch 65535 0
     let s := withBed t wordBed
     let w := Wait.items [] [.posted, .update] 7
     Said.Issues s t [1, 2] ∧ s.waitOver { t with wait := w } = true ∧ (withItem s t .update (some 0)).waitOver { t with wait := w } = false ∧
     s.lookup t 0 = .hit ⟨0, wordBed⟩ ∧ (0 : Word).toNat % 64 = 0 ∧ wordBed.rd = true ∧ Said.notIo wordBed.kind = true ∧ (65535 : Word).toNat < 65536 ∧
     (withBed (stLaunch 65536 8) wordBed).lookup (stLaunch 65536 8) 8 = .hit ⟨0, wordBed⟩ ∧ 65536 ≤ (65536 : Word).toNat ∧ (8 : Word).toNat % 64 ≠ 0 ∧
     (withBed t { wordBed with rd := false }).lookup t 0 = .hit ⟨0, { wordBed with rd := false }⟩ ∧ Said.notIo bedHost.kind = false ∧ bedHost.rd = true ∧
     (withBed t bedHost).lookup t 0 = .hit ⟨0, bedHost⟩) ∧
    (Said.Issues (inJob st0 job0) st0 [] ∧ (inJob st0 job0).job? st0.job = some job0 ∧ job0.lrec.goaddr = 0 ∧
      (let s := inJob st0 (jobGo 65528)
       s.job? st0.job = some (jobGo 65528) ∧ (jobGo 65528).lrec.goaddr ≠ 0 ∧ (jobGo 65528).lrec.goaddr < 2 ^ 56 ∧
       FMap.get? (s.tile st0.loc.tile).bedTables (jobGo 65528).lrec.asid = some tab0 ∧ tab0.find 65528 = some ⟨0, wordBed⟩)) ∧
    ((∃ j i, (inJob st0 jobEarly).job? st0.job = some j ∧ i ∈ j.early ∧ i ∉ j.earlyDone) ∧
      (∀ i ∈ job0.early, i ∈ job0.earlyDone) ∧ ((inJob st0 job0).tile st0.loc.tile).ag + 1 < 65536) ∧
    (let t := stSlot 1
     ((on st0).core st0.coreKey).arrival = [] ∧ { st0 with loc := { st0.loc with slot := 15 } }.loc.slot = 15 ∧
     Said.Issues yielding t [] ∧ t.loc.slot < 15 ∧ t.hkind = .none ∧ t.status = .ready ∧ (yielding.core t.coreKey).halted = false ∧
     (yielding.core t.coreKey).arrival = [stArr.handle] ∧ yielding.strand? stArr.handle = some stArr ∧ stArr.handle ≠ t.handle ∧
     stArr.status = .queued ∧ stArr.hkind = .none ∧
     (∀ n, n < 15 → yielding.slotStrand t.loc.tile t.loc.core n = some (stSlot n)) ∧ (yielding.col t.colKey).resume = [] ∧
     yielding.imageCacheFull t.colKey = false ∧ t.loc.core < 768 ∧ t.loc.col = t.loc.core / 48 ∧ t.loc.col < 16) := by
  refine ⟨?_, ?_, ⟨⟨jobEarly, 0, ?_⟩, ?_, ?_⟩, ?_⟩ <;> (try unfold Said.Issues) <;> decide +kernel

/-- A handler, and a trapped strand of another tile's core that it may name. -/
def stHandler (v : BitVec 64) : Strand := { stG [(1, v), (2, 9)] with handle := 90, hkind := .job, victim := 78, loc := ⟨0, 0, 0, 15⟩ }
def stTrapped : Strand := { st0 with handle := 78, status := .trapped, pcause := 7 }
def handling (t v : Strand) : State := (withBed t wordBed).putStrand v
theorem test_wit_SpecialRegistersReadAndWrite :
    (Said.IssuesAnyhow (on st0) st0 ∧ (11 ≤ (15 : BitVec 6).toNat ∧ (15 : BitVec 6).toNat ≤ 15) ∧ 32 ≤ (32 : BitVec 6).toNat ∧
     Said.Issues (inJob st0 job0) st0 [] ∧ (∀ n ≤ 10, (Said.specialOf (inJob st0 job0) st0 n).isSome = true) ∧
     (let s := inJob st0 job0
      let s := s.putTile 0 { s.tile 0 with levels := [(3, [⟨1, 0, 4⟩, ⟨0, 0, 2⟩])] }
      FMap.get? (s.tile st0.loc.tile).levels st0.job = some [⟨1, 0, 4⟩, ⟨0, 0, 2⟩] ∧ (∀ x ∈ [(⟨1, 0, 4⟩ : Level), ⟨0, 0, 2⟩], 0 < x.count) ∧
      (16 : BitVec 6).toNat = 16 + 0 ∧ (31 : BitVec 6).toNat = 24 + 7) ∧
     FMap.get? ((inJob st0 job0).tile st0.loc.tile).levels st0.job = none ∧ 16 ≤ (16 : BitVec 6).toNat ∧ (31 : BitVec 6).toNat < 32) ∧
    ((63 : BitVec 6) ≠ 0 ∧ Said.Issues (on st0) st0 [(⟨4, true⟩ : GSrc).reg.toNat]) ∧
    (let t := stHandler 78
     let s := handling t stTrapped
     Said.Issues s t [1] ∧ Said.Issues s t [2, 1] ∧ (t.rc 1).acq = none ∧ (t.rc 2).acq = none ∧ Said.named s t stTrapped (t.gv 1) ∧
     (28 ≤ (31 : BitVec 6).toNat ∧ (31 : BitVec 6).toNat < 32) ∧ (27 ≤ (27 : BitVec 6).toNat ∧ (27 : BitVec 6).toNat < 32) ∧
     (∀ r, r < 24 → (stTrapped.rc r).st = .full) ∧
     (63 : BitVec 6).toNat = 32 + 4 * (7 : WReg).toNat + 3 ∧ (23 : BitVec 6).toNat = 16 + 7 ∧ (15 : BitVec 6).toNat = (15 : GReg).toNat) ∧
    (let t := stHandler 79
     let s := handling t stTrapped
     Said.Issues s t [1] ∧ s.strand? (t.gv 1) = none) := by
  refine ⟨?_, ?_, ?_, ?_⟩ <;> (try unfold Said.Issues) <;> (try unfold Said.IssuesAnyhow) <;> (try unfold Said.named) <;> decide +kernel

/-- A job with a handler, and a tile with a supervisor entry. -/
def jobH : Job := { job0 with lrec := { lrec0 with handler := 256 } }
def withSup (s : State) : State := s.putTile 0 { s.tile 0 with supvec := 0x8000000000000100, supasid := 1, supValid := true, supTable := some tab0 }
theorem test_wit_TrapsCreateTheirHandler :
    (let s := inJob st0 jobH
     s.imageCacheFull st0.colKey = false ∧ st0.phase = .none ∧ s.nextHandle st0.colKey st0.job ≠ st0.handle ∧ st0.hkind = .none ∧ ¬ Said.toSup ⟨16, 0, 5⟩ ∧
     s.job? st0.job = some jobH ∧ jobH.lrec.handler ≠ 0 ∧ (s.core st0.coreKey).urgent.length < 4 ∧
     ¬ ((s.putCore st0.coreKey { s.core st0.coreKey with urgent := [1, 2, 3, 4] }).core st0.coreKey).urgent.length < 4) ∧
    (let s := withSup (inJob st0 job0)
     s.imageCacheFull st0.colKey = false ∧ s.nextHandle st0.colKey st0.job ≠ st0.handle ∧ Said.toSup ⟨7, 0, 5⟩ ∧ Said.toSup ⟨10, 0, 6⟩ ∧ (s.tile st0.loc.tile).supValid = true ∧
     (s.tile st0.loc.tile).supTable.isSome = true ∧ (s.tile st0.loc.tile).supvec.getLsbD 63 = true ∧ (s.core st0.coreKey).urgent.length < 4 ∧
     (stHandler 78).hkind ≠ .sup) ∧
    (let s := inJob st0 job0
     s.job? st0.job = some job0 ∧ job0.lrec.handler = 0 ∧ st0.joinw = 0 ∧ (s.tile st0.loc.tile).supvec.getLsbD 63 = false ∧ st0.hkind ≠ .sup) ∧
    (let t := { stHandler 78 with hkind := .sup }
     let s := on t
     t.hkind = .sup ∧ t.joinw = 0 ∧ s.imageCacheFull t.colKey = false ∧ t.phase = .none ∧ FMap.sorted s.strands = true ∧ s.strand? t.victim = none ∧
     (let u := handling t stTrapped
      t.ofTask = false ∧ FMap.sorted u.strands = true ∧ u.strand? t.victim = some stTrapped ∧ stTrapped.handle = t.victim ∧ stTrapped.handle ≠ t.handle ∧
      stTrapped.status = .trapped ∧ stTrapped.joinw = 0 ∧ stTrapped.phase = .none ∧ u.imageCacheFull t.colKey = false)) := by
  refine ⟨?_, ?_, ?_, ?_⟩ <;> (try unfold Said.toSup) <;> decide +kernel
theorem test_wit_HandlersTrapResumeAndKill :
    (let s := inJob st0 jobH
     let u := s.putCore 0 { s.core 0 with dbgctl := 0x1000000000000000 }
     Said.Issues s st0 [] ∧ (s.core st0.coreKey).dbgctl.getLsbD 60 = false ∧ (u.core st0.coreKey).dbgctl.getLsbD 60 = true ∧
     (u.core st0.coreKey).dbgctl.getLsbD 63 = false ∧ st0.inSlot = true ∧ Said.Issues u st0 [] ∧ s.imageCacheFull st0.colKey = false ∧ st0.phase = .none ∧
     st0.hkind = .none ∧ s.job? st0.job = some jobH ∧ jobH.lrec.handler ≠ 0 ∧ (s.core st0.coreKey).urgent.length < 4 ∧
     s.nextHandle st0.colKey st0.job ≠ st0.handle) ∧
    (let t := stHandler 78
     let s := (handling t stTrapped).putJob job0
     let a : GSrc := ⟨1, false⟩
     Said.Issues s t [1] ∧ (t.rc 1).acq = none ∧ a.take = false ∧ Said.named s t stTrapped (t.gv 1) ∧ t.gv 1 ≠ t.handle ∧ s.jobSuspended stTrapped.job = false ∧
     (s.putJob { job0 with state := .suspended }).jobSuspended stTrapped.job = true ∧ stTrapped.joinw = 0 ∧ stTrapped.phase = .none ∧
     (t.rc 2).st = .full ∧ (t.rc 2).loss = none ∧ (t.rc 2).acq = none ∧ s.tableFor stTrapped = some tab0 ∧ (t.gv 2).toNat < 2 ^ 56 ∧
     tab0.find (t.gv 2).toNat = some ⟨0, wordBed⟩ ∧ tab0.find 65536 = none ∧ (s.target stTrapped ⟨0, wordBed⟩ (t.gv 2)).home = some 0 ∧
     (s.target stTrapped ⟨0, bedHost⟩ (t.gv 2)).home = none ∧ s.mayDepart stTrapped = true ∧ (withItem s stTrapped .posted (some 0)).mayDepart stTrapped = false) ∧
    (let t := { stHandler 78 with hkind := .sup }
     let s := handling t stTrapped
     Said.Issues s t [1] ∧ Said.named s t stTrapped (t.gv 1) ∧ t.hkind = .sup) ∧
    (let t := stHandler 79
     let s := handling t stTrapped
     Said.Issues s t [1] ∧ s.strand? (t.gv 1) = none) := by
  refine ⟨?_, ?_, ?_, ?_⟩ <;> (try unfold Said.Issues) <;> (try unfold Said.named) <;> decide +kernel

/-! #### Remote reads -/

def bedFar : Bed := { wordBed with colm := 5, log2g := 20 }
theorem test_wit_RemoteReadsNeverMoveTheStrand :
    (∃ a, Said.remote (.ldr ⟨2, false⟩ ⟨1, false⟩ 3 0) (stVa 65528) = some a ∧ Said.Passes (withBed (stVa 65528) bedThere) (stVa 65528) a ⟨0, bedThere⟩ ∧
      ((withBed (stVa 65528) bedThere).target (stVa 65528) ⟨0, bedThere⟩ a.va).home ≠ some (stVa 65528).colKey ∧
      ((Said.after (withBed (stVa 65528) bedThere) (stVa 65528) a).1.rakeHit (Said.after (withBed (stVa 65528) bedThere) (stVa 65528) a).2 a.va.toNat a.align) = none) ∧
    (let s := withBed (stVa 0) bedHere
     s.lookup (stVa 0) 0 = .hit ⟨0, bedHere⟩ ∧ (s.target (stVa 0) ⟨0, bedHere⟩ 0).home = some (stVa 0).colKey) ∧
    (let s := withBed (stVa 64512) bedThere
     let t := stVa 64512
     Said.Issues s t [1] ∧ t.phase = .none ∧ s.lookup t 64512 = .hit ⟨0, bedThere⟩ ∧ (64512 : Word).toNat % 32 = 0 ∧ bedThere.rd = true ∧
     (∀ k, k < 32 → s.lookup t (64512 + .ofNat 64 (32 * k)) = .hit ⟨0, bedThere⟩) ∧ (s.col t.colKey).rakeBuf = [] ∧
     (withBed (stVa 65536) bedThere).lookup (stVa 65536) 65536 = .miss ∧ (65520 : Word).toNat % 32 ≠ 0 ∧
     (withBed (stVa 65520) bedThere).lookup (stVa 65520) 65520 = .hit ⟨0, bedThere⟩ ∧
     (withBed t { bedThere with rd := false }).lookup t 64512 = .hit ⟨0, { bedThere with rd := false }⟩) ∧
    ((stPhase (.vtld 1 (some (4, 0, 0)) false)).phase = .vtld 1 (some (4, 0, 0)) false ∧
      Said.Issues (withBed (stPhase (.vtld 1 none true)) bedThere) (stPhase (.vtld 1 none true)) [1]) := by
  refine ⟨⟨_, rfl, ?_⟩, ?_, ?_, ?_⟩ <;> (try unfold Said.Passes Said.Armed Said.IssuesAnyhow) <;> (try unfold Said.Issues) <;> decide +kernel


/-! #### Steps, decoding and the memory's form -/

/-- A line of instruction bytes at address 0 in the buffer of core 0, and the turn of its slot 0. -/
noncomputable def atParcel (line : Nat) (t : Strand) : State :=
  let s := bound (withBed t wordBed)
  let s := s.putCore 0 { s.core 0 with instrBuf := [⟨5, 0, 0, line, false⟩] }
  { s with agenda := [.issue 0 0 0, .agent (.powerMeasure 0 0)], cur := none }
theorem wordAt_half (s : State) (st : Strand) (h : BedHit) (p : Nat)
    (hp : s.lookup st (st.pc.zeroExtend 64) = .hit h ∧ (st.pc.zeroExtend 64 : Word).toNat % 2 = 0 ∧ h.bed.ex = true ∧
      (s.scrubInstr st (st.pc.zeroExtend 64 : Word).toNat).instrHit st (st.pc.zeroExtend 64 : Word).toNat = some p ∧ p % 4 ≠ 3 ∧ st.ldaq = []) :
    ∃ u, Said.wordAt s st p u :=
  ⟨_, p, _, ⟨h, hp.1, hp.2.1, hp.2.2.1, hp.2.2.2.1, hp.2.2.2.2.2, rfl⟩, .inl ⟨hp.2.2.2.2.1, rfl, rfl⟩⟩
theorem wordAt_of (s : State) (st : Strand) (h : BedHit) (p q : Nat)
    (hp : s.lookup st (st.pc.zeroExtend 64) = .hit h ∧ (st.pc.zeroExtend 64 : Word).toNat % 2 = 0 ∧ h.bed.ex = true ∧
      (s.scrubInstr st (st.pc.zeroExtend 64 : Word).toNat).instrHit st (st.pc.zeroExtend 64 : Word).toNat = some p ∧ p % 4 = 3 ∧ st.ldaq = [])
    (hq : let s1 := (s.scrubInstr st (st.pc.zeroExtend 64 : Word).toNat).touchBed st h
      s1.lookup st (st.pc.zeroExtend 64 + 2) = .hit h ∧ (st.pc.zeroExtend 64 + 2 : Word).toNat % 2 = 0 ∧
      (s1.scrubInstr st (st.pc.zeroExtend 64 + 2 : Word).toNat).instrHit st (st.pc.zeroExtend 64 + 2 : Word).toNat = some q) :
    ∃ u, Said.wordAt s st (p + 65536 * q) u :=
  ⟨_, p, _, ⟨h, hp.1, hp.2.1, hp.2.2.1, hp.2.2.2.1, hp.2.2.2.2.2, rfl⟩, .inr ⟨hp.2.2.2.2.1, q, ⟨h, hq.1, hq.2.1, hp.2.2.1, hq.2.2, hp.2.2.2.2.2, rfl⟩, rfl⟩⟩
theorem test_wit_StepRunsDecodedInstruction :
    (let s1 := (fun l => { atParcel l st0 with agenda := [.agent (.powerMeasure 0 0)], cur := none })
     let s2 := (fun l => (s1 l).putStrand st0)
     (atParcel 0xE0007 st0).agenda = .issue 0 0 0 :: [.agent (.powerMeasure 0 0)] ∧ (s1 0xE0007).slotStrand 0 0 0 = some st0 ∧ (s1 0xE0007).mayIssue st0 = true ∧
     st0.status ≠ .parked ∧ (∃ u, Said.wordAt (s2 0xE0007) st0 (0x0007 + 65536 * 0xE) u) ∧ (Said.decoded (0x0007 + 65536 * 0xE)).ins? = some .nop ∧
     (∃ u, Said.wordAt (s2 0xE402) st0 0xE402 u) ∧ (Said.decoded 0xE402).ins? = some .exit16 ∧
     (∃ u, Said.wordAt (s2 0) st0 0 u) ∧ Said.decoded 0 = .illegal ∧ (∃ u, Said.wordAt (s2 0xE006) st0 0xE006 u) ∧ Said.decoded 0xE006 = .reserved) ∧
    (let s := atParcel 0 { stHeld with status := .parked, pcause := 1, preg := 3 }
     let s1 := { s with agenda := [.agent (.powerMeasure 0 0)], cur := none }
     let t := { stHeld with status := .parked, pcause := 1, preg := 3 }
     s1.slotStrand 0 0 0 = some t ∧ s1.mayIssue t = true ∧ t.status = .parked ∧ s1.causeClear t = false) ∧
    { atParcel 0 st0 with agenda := [.agent (.powerMeasure 0 0)] }.agenda = .agent (.powerMeasure 0 0) :: [] ∧ State.reset.agenda = [] ∧
    State.reset.slotStrand 0 0 0 = none := by
  refine ⟨⟨?_, ?_, ?_, ?_, wordAt_of _ _ ⟨0, wordBed⟩ _ _ ?_ ?_, ?_, wordAt_half _ _ ⟨0, wordBed⟩ _ ?_, ?_, wordAt_half _ _ ⟨0, wordBed⟩ _ ?_, ?_,
    wordAt_half _ _ ⟨0, wordBed⟩ _ ?_, ?_⟩, ?_, ?_, ?_, ?_⟩ <;> decide +kernel
theorem test_wit_DecodeEncodeAgree : (Instr.ldaq ⟨4, false⟩ ⟨3, false⟩ 6 3 2).wf = true ∧ Instr.exit16.wf = true := by decide
theorem test_wit_EveryStepKeepsMemoryForm : State.reset.memOk ∧ (∃ t, step State.reset = .next t) ∧
    (let s := { atParcel 0xE402 st0 with mem := (State.reset.mem).write 8 8 0x100 }
     s.memOk ∧ s.mem.byte 9 = 1 ∧ ∃ t, step s = .next t) := by
  refine ⟨by unfold State.memOk; decide, ⟨_, rfl⟩, by unfold State.memOk; decide +kernel, by decide +kernel, _, rfl⟩
/-- A PC in no bed. -/
theorem test_wit_fetch_misses : (withBed { st0 with pc := 65536 } wordBed).lookup { st0 with pc := 65536 } (65536 : Word) = .miss := by decide

/-! #### Further clauses of the later statements -/

theorem test_wit_HedgesEnd :
    (let s := hedging st0 (.lossNote 0 9) 0 hedge0
     (50, Msg.lossNote 0 9) ∈ s.msgs ∧ s.landed 50 = true ∧ (s.hedge 0 4).state ≠ .idle ∧ Said.inRectangle (s.hedge 0 4).rect 9 ∧
     ¬ Said.inRectangle (s.hedge 0 4).rect 20 ∧ (s.hedge 0 5).state = .idle) ∧
    (let s := (panel.putJob job0).putHedge 0 4 hedge0
     s.job? 3 = some job0 ∧ Said.quiet s job0 ∧ s.gardenWaits job0 .stp job0.lrec.cwaddr 1 = false ∧ FMap.get? (s.tile 0).hedges 4 = some hedge0 ∧
     hedge0.job = job0.handle ∧ { hedge0 with job := 4 }.job ≠ job0.handle) ∧
    (let s := (panel.putJob job0).putHedge 0 4 hedge0
     s.jobAt 0 3 = some job0 ∧ job0.handle = 3 ∧ job0.state ≠ .pending ∧ job0.state ≠ .completing) := by
  refine ⟨?_, ⟨rfl, ⟨by decide, rfl, by decide, by decide, by decide, by decide, fun kv h => (by cases h), by decide⟩, by decide, by decide, by decide, by decide⟩, ?_⟩ <;>
    (try unfold Said.inRectangle) <;> decide
/-- A quadrant without bad lines; an image without error; WAITF of a register with a parity error; a supervisor table that failed its check, or
that names no bed; a suspended job's urgent strand; both sources of RESUME with SCP 1. -/
theorem test_wit_LaterPremises :
    (∀ l ∈ Quad.reset.lines, l.bad = false) ∧ yielding.imageErr stArr = none ∧
    (let t := stR st0 3 { st0.rc 3 with par := true }
     Said.IssuesAnyhow (on t) t ∧ (t.rc 3).loss = none ∧ (t.rc 3).st = .full ∧ (t.rc 3).par = true) ∧ Said.Ready st0 [3] ∧
    Said.badSupTable { (on st0).tile 0 with supValid := true, supTable := none } ∧ Said.badSupTable { (on st0).tile 0 with supValid := false } ∧
    (let v := { stTrapped with hkind := .job }
     let t := { stHandler 78 with hkind := .sup }
     let s := (handling t v).putJob { job0 with state := .suspended }
     Said.named s t v (t.gv 1) ∧ s.jobSuspended v.job = true ∧ v.urgent = true ∧ stTrapped.urgent = false ∧ Said.Issues s t [1, 2] ∧ (t.rc 2).acq = none ∧
     (t.rc 1).acq = none) := by
  refine ⟨?_, ?_, ?_, ?_, ?_, ?_, ?_⟩ <;> (try unfold Said.IssuesAnyhow) <;> (try unfold Said.Issues) <;> (try unfold Said.named) <;>
    (try unfold Said.badSupTable) <;> (try unfold Said.Ready) <;> decide
/-- Register 3 Cut with recipe 0 attached, register 5 Cut, register 6 Awaiting; its job's table, whose recipe is these instructions, and an
immutable bed. -/
def stReplay (l : List (GReg × Word)) : Strand :=
  let t := l.foldl (fun t p => t.setG p.1 p.2) { st0 with cmap := #v[⟨3, 0⟩, ⟨5, 0⟩, ⟨31, 0⟩, ⟨31, 0⟩, ⟨31, 0⟩, ⟨31, 0⟩, ⟨31, 0⟩, ⟨31, 0⟩] }
  stR (stR (stR t 3 { st0.rc 3 with st := .cut }) 5 { st0.rc 5 with st := .cut }) 6 { st0.rc 6 with st := .awaiting, owed := 1 }
def replayBed : Bed := { wordBed with imm := true }
def replaying (t : Strand) (b : Bed) (l : List Instr) : State :=
  let s := withBed t b
  s.putTile 0 { s.tile 0 with cuts := [(3, ⟨1, 0, [⟨3, l.map encode⟩]⟩)] }
theorem recipeFor_of (t : Strand) (b : Bed) (l : List Instr) (h1 : t.loc.tile = 0) (h2 : t.job = 3) (h3 : t.cmap.toList[0]? = some ⟨3, 0⟩) :
    Said.recipeFor (replaying t b l) t 3 ⟨3, l.map encode⟩ :=
  ⟨⟨1, 0, [⟨3, l.map encode⟩]⟩, 0, 0, by rw [h1, h2]; rfl, by decide, h3, fun k hk => absurd hk (Nat.not_lt_zero k), rfl⟩
theorem recipeIs_of (l : List Instr) (i : Nat) (ins : Instr) (h : (l.map encode)[i]? = some (encode ins))
    (d : (if encode ins % 4 = 3 then decode32 (encode ins) else decode16 (encode ins)) = .ok ins) : Said.recipeIs ⟨3, l.map encode⟩ i ins :=
  ⟨_, h, d⟩
/-- A recipe's first instruction and its second, of each kind that a replay runs; what holds its turn. -/
theorem test_wit_ReplayTakesOneStep :
    (let t := stReplay [(4, 7)]
     let l := [Instr.li 3 8, .add 3 ⟨3, false⟩ ⟨4, false⟩]
     t.xpar = 0 ∧ Said.recipeFor (replaying t replayBed l) t 3 ⟨3, l.map encode⟩ ∧ Said.replaysAt t 3 0 0 ∧ Said.recipeIs ⟨3, l.map encode⟩ 0 (.li 3 8) ∧
     (∃ q, (Said.arith (.li 3 8) (t.setG 3 0)).or (Said.bitwise (.li 3 8) (t.setG 3 0)) = some q ∧ q.d = 3 ∧ Said.replayReads t 3 (q.srcs.map (·.1))) ∧
     (let u := { t with regrow := some ⟨3, 1, some ((8 : Word).zeroExtend 256), none, none⟩ }
      Said.recipeFor (replaying u replayBed l) u 3 ⟨3, l.map encode⟩ ∧ Said.replaysAt u 3 1 8 ∧
      Said.recipeIs ⟨3, l.map encode⟩ 1 (.add 3 ⟨3, false⟩ ⟨4, false⟩) ∧
      (∃ q, (Said.arith (.add 3 ⟨3, false⟩ ⟨4, false⟩) (u.setG 3 8)).or (Said.bitwise (.add 3 ⟨3, false⟩ ⟨4, false⟩) (u.setG 3 8)) = some q ∧ q.d = 3 ∧
        Said.replayReads u 3 (q.srcs.map (·.1))))) ∧
    (let t := stReplay []
     (∃ q, (Said.arith (.add 3 ⟨5, false⟩ ⟨6, false⟩) (t.setG 3 0)).or none = some q ∧ (q.srcs.map (·.1)).filter (· ≠ 3) = 5 :: [6]) ∧
     Said.attachedTo t 5 = true ∧ Said.attachedTo t 6 = false ∧ (t.rc 6).st ≠ .full ∧ (Said.specialOf (on t) t 4).isSome = true ∧
     Said.recipeIs ⟨3, [Instr.xget 3 1, .srd 3 4, .add 3 ⟨5, false⟩ ⟨6, false⟩].map encode⟩ 0 (.xget 3 1) ∧
     Said.recipeIs ⟨3, [Instr.xget 3 1, .srd 3 4, .add 3 ⟨5, false⟩ ⟨6, false⟩].map encode⟩ 1 (.srd 3 4) ∧
     Said.recipeIs ⟨3, [Instr.xget 3 1, .srd 3 4, .add 3 ⟨5, false⟩ ⟨6, false⟩].map encode⟩ 2 (.add 3 ⟨5, false⟩ ⟨6, false⟩)) ∧
    (FMap.get? ((on st0).tile 0).cuts 3 = none ∧
      (let u := { stReplay [] with regrow := some ⟨3, 0, none, some 9, none⟩ }
       Said.recipeFor (replaying u replayBed [.nop]) u 3 ⟨3, [Instr.nop].map encode⟩) ∧
      (let u := { stReplay [] with regrow := some ⟨3, 0, none, none, some (5, 64)⟩ }
       Said.recipeFor (replaying u replayBed [.nop]) u 3 ⟨3, [Instr.nop].map encode⟩)) := by
  refine ⟨⟨by decide, recipeFor_of _ _ _ (by decide) (by decide) (by decide), .inl (by decide), recipeIs_of _ _ _ (by decide) (by decide), ⟨_, rfl, by decide, ?_⟩,
    recipeFor_of _ _ _ (by decide) (by decide) (by decide), .inr (by decide), recipeIs_of _ _ _ (by decide) (by decide), ⟨_, rfl, by decide, ?_⟩⟩,
    ⟨⟨_, rfl, by decide⟩, by decide, by decide, by decide, by decide, recipeIs_of _ _ _ (by decide) (by decide), recipeIs_of _ _ _ (by decide) (by decide),
      recipeIs_of _ _ _ (by decide) (by decide)⟩,
    by decide, recipeFor_of _ _ _ (by decide) (by decide) (by decide), recipeFor_of _ _ _ (by decide) (by decide) (by decide)⟩ <;>
  (unfold Said.replayReads; decide)
/-- A load of a recipe: its bed missing, being fetched, not immutable, its address not aligned, at home elsewhere than here and here. -/
theorem test_wit_ReplayLoads :
    (let t := stReplay [(4, 64)]
     let ins := Instr.ld ⟨3, false⟩ ⟨4, false⟩ 3 0
     let s := replaying t replayBed [ins]
     Said.recipeFor s t 3 ⟨3, [ins].map encode⟩ ∧ Said.recipeIs ⟨3, [ins].map encode⟩ 0 ins ∧ (∀ d b imm, ins ≠ .vld d b imm) ∧
     (∃ a, Said.load ins (t.setG 3 0) = some a ∧ Said.replayReads t 3 (a.srcs.map (·.1)) ∧ a.va = 64 ∧ a.align = 8 ∧
       s.lookup t a.va = .hit ⟨0, replayBed⟩ ∧ replayBed.imm = true ∧ replayBed.rd = true ∧ t.ldaq = [] ∧ wordBed.imm = false ∧
       Said.homeOf t a ⟨0, replayBed⟩ = some (t.colKey, 64) ∧
       (let s1 := (s.touchBed t ⟨0, replayBed⟩).scrubLine t a.va.toNat
        s1.lineHit t a.va.toNat a.align = none ∧ s1.waitsHome t.colKey 0 64 replayBed.kind t.asid a.align 0 = false ∧
        (s1.homeRead t.colKey 0 64 replayBed.kind (Said.spills s t ⟨0, replayBed⟩) t.asid a.align 0 t.party).2 = .ok 0 (some 64) ∧
        (({ s1 with badLines := [1] }).homeRead t.colKey 0 64 replayBed.kind (Said.spills s t ⟨0, replayBed⟩) t.asid a.align 0 t.party).2 ≠ .ok 0 (some 64)) ∧
       (({ s with cur := s.cur }.putCore t.coreKey { s.core t.coreKey with lineBuf := [⟨5, 1, 0, 0, false⟩] }).lineHit t 64 8).isSome = true)) ∧
    ((replaying (stReplay []) wordBed []).lookup (stReplay []) 65536 = .miss ∧ (61 : Word).toNat % 8 ≠ 0 ∧
      ((on (stReplay []))).lookup (stReplay []) 64 = .wait) := by
  refine ⟨⟨recipeFor_of _ _ _ (by decide) (by decide) (by decide), recipeIs_of _ _ _ (by decide) (by decide), (by intros; intro h; cases h), ⟨_, rfl, ?_, ?_⟩⟩, ?_⟩ <;>
  (try unfold Said.replayReads) <;> decide +kernel

end Sys2Proof.Tests
end

section
/-! SUPPORT. The home of an address, and what an access at a home leaves as it was (spec/07 R120 to R138). -/

namespace Sys2Proof.Machine

/-! ### The home of an address (spec/07 R120) -/

/-- The position of row i and column j, counted row by row, is below the number of positions. -/
theorem mul_add_lt_mul {i j rows cols : Nat} (hi : i < rows) (hj : j < cols) : i * cols + j < rows * cols := by
  rw [Nat.mul_comm i]
  exact Nat.mul_add_lt_mul_of_lt_of_lt hi hj

theorem mul_add_div_of_lt {n r : Nat} (a : Nat) (h : r < n) : (a * n + r) / n = a := by
  rw [Nat.mul_comm, Nat.mul_add_div (by omega), Nat.div_eq_of_lt h, Nat.add_zero]

/-- A tile lies in a rectangle exactly when it is the tile of one of its rows and columns, none past the last column of the panel. -/
theorem inRect_iff (t row0 col0 rows cols : Nat) : inRect t row0 col0 rows cols = true ↔
    ∃ i j, i < rows ∧ j < cols ∧ col0 + j < 8 ∧ t = (row0 + i) * 8 + col0 + j := by
  simp only [inRect, Bool.and_eq_true, decide_eq_true_eq]
  constructor
  · intro h
    exact ⟨t / 8 - row0, t % 8 - col0, by omega, by omega, by omega, by omega⟩
  · rintro ⟨i, j, hi, hj, h8, rfl⟩
    omega

/-- The granule's number divided by the number of places leaves the place, and the place gives tile and column in either order. -/
theorem Bed.homeRect_granule (b : Bed) (q p : Nat) {i j c place : Nat} (hi : i < b.trows) (hj : j < b.tcols) (hc : c < 16)
    (hp : p < 2 ^ b.log2g)
    (hplace : place = if b.order then c * (b.trows * b.tcols) + (i * b.tcols + j) else (i * b.tcols + j) * 16 + c) :
    b.homeRect ((q * (16 * (b.trows * b.tcols)) + place) * 2 ^ b.log2g + p) =
      (((b.trow0 + i) * 8 + b.tcol0 + j) * 16 + c, q * 2 ^ b.log2g + p) := by
  have ht : i * b.tcols + j < b.trows * b.tcols := mul_add_lt_mul hi hj
  have hk := mul_add_div_of_lt (q * (16 * (b.trows * b.tcols)) + place) hp
  have hrow := mul_add_div_of_lt i hj
  have hcol := Nat.mul_add_mod_of_lt (a := i) hj
  unfold Bed.homeRect
  cases ho : b.order with
  | true =>
    have hlt : place < 16 * (b.trows * b.tcols) := by rw [hplace, ho]; exact mul_add_lt_mul hc ht
    simp only [hk, Nat.mul_add_mod_of_lt hp, mul_add_div_of_lt q hlt, Nat.mul_add_mod_of_lt hlt, if_true]
    simp only [hplace, ho, if_true, Nat.mul_add_mod_of_lt ht, mul_add_div_of_lt c ht, hrow, hcol, colKey]
  | false =>
    have hlt : place < 16 * (b.trows * b.tcols) := by
      rw [hplace, ho, Nat.mul_comm 16]; exact mul_add_lt_mul ht hc
    simp only [hk, Nat.mul_add_mod_of_lt hp, mul_add_div_of_lt q hlt, Nat.mul_add_mod_of_lt hlt]
    simp [hplace, ho, Nat.mul_add_mod_of_lt hc, mul_add_div_of_lt _ hc, hrow, hcol, colKey]

/-- A replica's granules go round the 16 columns of its tile. -/
theorem Bed.replica_granule (b : Bed) (q p t : Nat) {c : Nat} (hc : c < 16) (hp : p < 2 ^ b.log2g) :
    b.replica ((q * 16 + c) * 2 ^ b.log2g + p) t = (t * 16 + c, q * 2 ^ b.log2g + p) := by
  simp only [Bed.replica, colKey, mul_add_div_of_lt _ hp, Nat.mul_add_mod_of_lt hp, mul_add_div_of_lt q hc,
    Nat.mul_add_mod_of_lt hc]

theorem Bed.home_rect {b : Bed} (h : b.kind = .striped ∨ b.kind = .update) (off cur : Nat) :
    b.home off cur = some (b.homeRect off) := by
  obtain h | h := h <;> simp only [Bed.home, h]

theorem Bed.home_replicated_inside {b : Bed} (h : b.kind = .replicated) (off : Nat) {cur : Nat}
    (hin : inRect cur b.trow0 b.tcol0 b.trows b.tcols = true) : b.home off cur = some (b.replica off cur) := by
  simp only [Bed.home, h, hin, if_true]

theorem Bed.home_replicated_outside {b : Bed} (h : b.kind = .replicated) (off : Nat) {cur : Nat}
    (hout : ¬ inRect cur b.trow0 b.tcol0 b.trows b.tcols = true) : b.home off cur = some (b.replica off b.prim) := by
  simp only [Bed.home, h, hout]; rfl

/-- A scratch bed's pages of 4 KiB go round the four columns of its quadrant. -/
theorem Bed.home_scratch_page {b : Bed} (h : b.kind = .scratch) (q cur : Nat) {c p : Nat} (hc : c < 4) (hp : p < 4096) :
    b.home ((q * 4 + c) * 4096 + p) cur = some (b.ltile * 16 + 4 * b.quad + c, (q * 4 + c) * 4096 + p) := by
  simp only [Bed.home, h, colKey, mul_add_div_of_lt _ hp, Nat.mul_add_mod_of_lt hc, Nat.add_assoc]

/-! ### What an access at a home leaves as it was -/

/-- Every byte of device memory, SRAM and host memory, and every strand, is as it was. -/
structure State.SameStore (s t : State) : Prop where
  mem : t.mem = s.mem
  sram : t.sram = s.sram
  hostMem : t.hostMem = s.hostMem
  strands : t.strands = s.strands

theorem State.SameStore.refl (s : State) : s.SameStore s := ⟨rfl, rfl, rfl, rfl⟩

theorem State.SameStore.trans {s t u : State} (h : s.SameStore t) (h' : t.SameStore u) : s.SameStore u :=
  ⟨h'.mem.trans h.mem, h'.sram.trans h.sram, h'.hostMem.trans h.hostMem, h'.strands.trans h.strands⟩

/-- The tile cache holds tags alone (spec/07 R131). -/
theorem State.viaBus_sameStore (s : State) (key off len : Nat) (write : Bool) : s.SameStore (s.viaBus key off len write) :=
  ⟨rfl, rfl, rfl, rfl⟩

theorem State.dirty_sameStore (s : State) (key off : Nat) : s.SameStore (s.dirty key off) := ⟨rfl, rfl, rfl, rfl⟩

theorem State.fromCore_sameStore (s : State) (key off len core : Nat) (write : Bool) :
    s.SameStore (s.fromCore key off len core write) := by
  unfold State.fromCore
  split
  · exact .refl s
  · exact s.viaBus_sameStore key off len write

theorem State.throughCache_sameStore (s : State) (key off len : Nat) (write : Bool) (w : Party) :
    s.SameStore (s.throughCache key off len write w) := by
  unfold State.throughCache
  split
  · exact s.fromCore_sameStore key off len _ write
  · split
    · split
      · exact s.dirty_sameStore key off
      · exact .refl s
    · exact s.viaBus_sameStore key off len write

theorem State.heal_sameStore (s : State) (pa len : Nat) : s.SameStore (s.heal pa len) := by
  simp only [State.heal]
  split <;> exact ⟨rfl, rfl, rfl, rfl⟩

theorem State.overRuns_sameStore (s : State) (pa len : Nat) : s.SameStore (s.overRuns pa len) := by
  simp only [State.overRuns]
  split
  · exact ⟨rfl, rfl, rfl, rfl⟩
  · exact .refl s

theorem State.fillTlb_sameStore (s : State) (key : Nat) (e : TlbEntry) : s.SameStore (s.fillTlb key e) := by
  simp only [State.fillTlb]
  split <;> exact ⟨rfl, rfl, rfl, rfl⟩

theorem State.tableEntry_sameStore (s : State) (key off : Nat) : s.SameStore (s.tableEntry key off).1 := by
  simp only [State.tableEntry]
  split <;> exact s.viaBus_sameStore key off 8 false

theorem State.walkFrom_sameStore (key : Nat) (asid : BitVec 12) (cva n l base : Nat) (s : State) :
    s.SameStore (s.walkFrom key asid cva n l base).1 := by
  induction n generalizing s l base with
  | zero => exact .refl s
  | succ n ih =>
    have hread := s.tableEntry_sameStore key (base + 8 * levelIndex l cva)
    unfold State.walkFrom
    split
    next s1 heq => rw [heq] at hread; exact hread
    next s1 e heq =>
      rw [heq] at hread
      dsimp only
      split -- an entry that is not valid
      · exact hread
      split -- reserved bits
      · exact hread
      split
      · split -- a leaf: aligned, and below the tables' end, or a fault
        · exact hread
        · split <;> exact hread
      split -- a table: aligned, and below the tables' end, or a fault
      · exact hread
      split
      · exact hread
      · exact hread.trans (ih (l + 1) _ s1)

theorem State.walk_sameStore (s : State) (key : Nat) (asid : BitVec 12) (cva : Nat) : s.SameStore (s.walk key asid cva).1 := by
  have hread := s.tableEntry_sameStore key (0xB7FF8000 + 8 * asid.toNat)
  unfold State.walk
  dsimp only
  split
  next s1 heq => rw [heq] at hread; exact hread
  next s1 e heq =>
    rw [heq] at hread
    split -- a root that is not valid
    · exact hread
    split -- reserved bits
    · exact hread
    · exact hread.trans (State.walkFrom_sameStore key asid cva 4 1 _ s1)

/-- Who asks goes into the error log alone. -/
theorem State.translate_eq_translateFor (s : State) (key : Nat) (asid : BitVec 12) (cva acc : Nat) (h : BitVec 64) (tseq : Nat) :
    (s.translate key asid cva acc).2 = (s.translateFor key asid cva acc h tseq).2 := by
  unfold State.translate State.translateFor
  split
  · rfl
  · split <;> rfl

/-- A translation that gives an offset writes cache tags and the translation buffer alone. -/
theorem State.translateFor_ok_sameStore {s s1 : State} {key : Nat} {asid : BitVec 12} {cva acc : Nat} {h : BitVec 64} {tseq o : Nat}
    (ht : s.translateFor key asid cva acc h tseq = (s1, .ok o)) : s.SameStore s1 := by
  unfold State.translateFor at ht
  split at ht
  · obtain ⟨rfl, -⟩ := Prod.mk.inj ht
    exact .refl s
  · have hwalk := s.walk_sameStore key asid cva
    split at ht
    next s2 e heq =>
      rw [heq] at hwalk
      obtain ⟨rfl, -⟩ := Prod.mk.inj ht
      exact hwalk.trans (s2.fillTlb_sameStore key e)
    · cases ht
    · cases ht

/-! ### Accesses at a home that succeed (spec/07 R122, R135) -/

/-- What a successful read of a column is, outside update beds and spill areas. -/
theorem State.homeRead_column_ok {s s1 : State} {key bed hoff : Nat} {kind : BedKind} {asid : BitVec 12} {len acc : Nat} {w : Party}
    {v : Nat} {off : Option Nat} (hscr : kind ≠ .scratch) (hupd : kind ≠ .update)
    (h : s.homeRead key bed hoff kind false asid len acc w = (s1, .ok v off)) :
    ∃ o, off = some o ∧ (s.translate key asid (cvaOf bed hoff) acc).2 = .ok o ∧ v = s.mem.read (panelAddr key o) len ∧
      s.SameStore s1 := by
  simp only [State.homeRead, beq_iff_eq, hscr, hupd, if_false] at h
  split at h
  · cases h
  next s2 o heq =>
    have hsame := (State.translateFor_ok_sameStore heq).trans (s2.throughCache_sameStore key o len false w)
    split at h
    · cases h
    · cases h
    · obtain ⟨rfl, hres⟩ := Prod.mk.inj h
      obtain ⟨rfl, rfl⟩ := HomeRes.ok.inj hres
      refine ⟨o, rfl, ?_, by rw [hsame.mem], hsame⟩
      rw [s.translate_eq_translateFor key asid _ acc w.handle w.tseq, heq]

/-- What a successful write of a column is, outside update beds: the state with the bytes stored, but for tags, runs and bad lines. -/
theorem State.homeWrite_column_ok {s s1 : State} {key bed hoff : Nat} {kind : BedKind} {spill : Bool} {asid : BitVec 12}
    {data : List Byte} {w : Party} {v : Nat} {off : Option Nat} (hscr : kind ≠ .scratch) (hupd : kind ≠ .update)
    (h : s.homeWrite key bed hoff kind spill asid data w = (s1, .ok v off)) :
    ∃ o, off = some o ∧ (s.translate key asid (cvaOf bed hoff) 1).2 = .ok o ∧
      State.SameStore { s with mem := s.mem.putBytes (panelAddr key o) data } s1 := by
  simp only [State.homeWrite, beq_iff_eq, hscr, hupd, if_false] at h
  split at h
  · cases h
  next s2 o heq =>
    have hsame := ((State.translateFor_ok_sameStore heq).trans (s2.throughCache_sameStore key o data.length true w)).trans
      (State.overRuns_sameStore _ (panelAddr key o) data.length)
    split at h
    · cases h
    · obtain ⟨rfl, hres⟩ := Prod.mk.inj h
      obtain ⟨rfl, rfl⟩ := HomeRes.ok.inj hres
      refine ⟨o, rfl, ?_, .trans ?_ (State.heal_sameStore _ _ _)⟩
      · rw [s.translate_eq_translateFor key asid _ 1 w.handle w.tseq, heq]
      · exact ⟨by simp only [hsame.mem], hsame.sram, hsame.hostMem, hsame.strands⟩

theorem State.homeRead_scratch_beyond {s : State} {key hoff : Nat} (bed : Nat) (spill : Bool) (asid : BitVec 12) (len acc : Nat)
    (w : Party) (h : (s.quad (quadOfCol key)).scrw * 2 ^ 20 ≤ hoff) :
    s.homeRead key bed hoff .scratch spill asid len acc w = (s, .trip 8 hoff) := by
  simp only [State.homeRead, beq_self_eq_true, if_true, h]

theorem State.homeRead_scratch_ok {s s1 : State} {key bed hoff : Nat} {spill : Bool} {asid : BitVec 12} {len acc : Nat} {w : Party}
    {v : Nat} {off : Option Nat} (h : s.homeRead key bed hoff .scratch spill asid len acc w = (s1, .ok v off)) :
    s1 = s ∧ v = s.sram.read ((s.quad (quadOfCol key)).scratchKey (quadOfCol key) hoff) len := by
  simp only [State.homeRead, beq_self_eq_true, if_true] at h
  split at h
  · cases h
  · split at h
    · cases h
    · obtain ⟨rfl, hres⟩ := Prod.mk.inj h
      exact ⟨rfl, (HomeRes.ok.inj hres).1.symm⟩

theorem State.homeWrite_scratch_ok {s s1 : State} {key bed hoff : Nat} {spill : Bool} {asid : BitVec 12} {data : List Byte} {w : Party}
    {v : Nat} {off : Option Nat} (h : s.homeWrite key bed hoff .scratch spill asid data w = (s1, .ok v off)) :
    State.SameStore
      { s with sram := s.sram.putBytes ((s.quad (quadOfCol key)).scratchKey (quadOfCol key) hoff) data } s1 := by
  simp only [State.homeWrite, beq_self_eq_true, if_true] at h
  split at h
  · cases h
  · obtain ⟨rfl, -⟩ := Prod.mk.inj h
    exact ⟨rfl, rfl, rfl, rfl⟩

/-! ### The statement's parts -/

theorem homeIsWhereTheBedPutsIt : Said.homeIsWhereTheBedPutsIt := by
  intro b cur G
  refine ⟨fun h off => ?_, fun h i j c q p hi hj hc hp => ?_, fun h c q p hc hp => ⟨fun hin => ?_, fun hout => ?_⟩,
    fun h q c p hc hp => Bed.home_scratch_page h q cur hc hp, fun h off => ?_⟩
  · simp only [Bed.home, h, colKey]
  · exact (Bed.home_rect h _ cur).trans (congrArg some (b.homeRect_granule q p hi hj hc hp rfl))
  · rw [Bed.home_replicated_inside h _ ((inRect_iff ..).mpr hin), b.replica_granule q p cur hc hp]
  · rw [Bed.home_replicated_outside h, b.replica_granule q p b.prim hc hp]
    exact fun hin => let ⟨i, j, hij⟩ := (inRect_iff ..).mp hin; hout i j hij
  · obtain h | h := h <;> simp only [Bed.home, h]

theorem homeReadReturnsItsBytes : Said.homeReadReturnsItsBytes := by
  refine ⟨fun s s1 key bed hoff kind asid len acc w v off hscr hupd h => ?_, fun s s1 key bed hoff spill asid len acc w =>
    ⟨State.homeRead_scratch_beyond bed spill asid len acc w, fun v off _ h => State.homeRead_scratch_ok h⟩⟩
  obtain ⟨o, hoff, htr, hv, hsame⟩ := State.homeRead_column_ok hscr hupd h
  exact ⟨o, hoff, htr, hv, hsame.mem, hsame.sram, hsame.hostMem, hsame.strands⟩

theorem homeWriteWritesExactlyItsBytes : Said.homeWriteWritesExactlyItsBytes := by
  constructor
  · intro s s1 key bed hoff kind spill asid data w v off hok hscr hupd h
    obtain ⟨o, hoff, htr, hsame⟩ := State.homeWrite_column_ok hscr hupd h
    refine ⟨o, hoff, htr, fun a ha => ?_, fun i hi => ?_, hsame.sram, hsame.hostMem, hsame.strands⟩ <;> rw [hsame.mem]
    · exact Memory.byte_putBytes_out _ data hok.1 ha
    · exact Memory.byte_putBytes_in _ data hok.1 hi
  · intro s s1 key bed hoff spill asid data w v off hok h
    have hsame := State.homeWrite_scratch_ok h
    refine ⟨fun a ha => ?_, fun i hi => ?_, hsame.mem, hsame.hostMem, hsame.strands⟩ <;> rw [hsame.sram]
    · exact Memory.byte_putBytes_out _ data hok.2.1 ha
    · exact Memory.byte_putBytes_in _ data hok.2.1 hi

/-- Settles O25: Home() by the arithmetic of its granules, and accesses at a home by what each step of theirs leaves as it was. -/
theorem homeAccessesTouchTheirBytes : Obligations.HomeAccessesTouchTheirBytes :=
  ⟨homeIsWhereTheBedPutsIt, homeReadReturnsItsBytes, homeWriteWritesExactlyItsBytes⟩

end Sys2Proof.Machine
end

section
/-! SUPPORT. The registers right after reset (spec/03 R41, R45). -/

namespace Sys2Proof.Machine

/-- Only in phase Ready is a tile up. -/
theorem State.tileUp_of_phase_ne {s : State} (t : Nat) (h : s.head.phase ≠ 5) : s.tileUp t = false := by
  simp [State.tileUp, State.tileLive, h]

/-- Settles O60: no unit is listed at reset, so each reads as its reset value. -/
theorem resetHoldsTheStatedValues : Obligations.ResetHoldsTheStatedValues := by
  refine ⟨⟨rfl, rfl, rfl⟩, rfl, rfl, rfl, rfl, rfl, rfl, rfl, fun a => ⟨rfl, rfl, rfl⟩, fun t => ?_,
    fun k => ?_, fun t h => ⟨rfl, rfl, rfl⟩, fun k => ⟨rfl, rfl, rfl, rfl⟩,
    fun q => ⟨rfl, rfl, rfl, rfl, rfl⟩, fun k => ⟨rfl, rfl, rfl, rfl, rfl, rfl⟩⟩
  · exact ⟨rfl, rfl, rfl, rfl, rfl, rfl, rfl, State.tileUp_of_phase_ne t (by decide)⟩
  · rw [show State.reset.core k = Core.reset from rfl]
    decide

end Sys2Proof.Machine
end

section
/-! SUPPORT. Power windows, the panel budget and the sensors (spec/01 R17 to R20). -/

namespace Sys2Proof.Machine

/-! ### One step of throttling or of recovery (spec/01 R18) -/

theorem Power.throttle_duty {p : Power} (h : 4 < p.duty) : p.throttle = { p with duty := p.duty - 1 } := by
  simp only [Power.throttle, h, if_true]

theorem Power.throttle_clock {p : Power} (hd : p.duty ≤ 4) (h : 8 < p.clock) :
    p.throttle = { p with clock := p.clock - 1 } := by
  simp only [Power.throttle, Nat.not_lt.mpr hd, h, if_true, if_false]

theorem Power.throttle_hold {p : Power} (hd : p.duty ≤ 4) (hc : p.clock ≤ 8) :
    p.throttle = { p with dispatchHold := true } := by
  simp only [Power.throttle, Nat.not_lt.mpr hd, Nat.not_lt.mpr hc, if_false]

theorem Power.heatHeld_iff (p : Power) : p.heatHeld = true ↔ Said.heated p := by
  simp [Power.heatHeld, Said.heated]

theorem Power.recover_hold {p : Power} (h : p.dispatchHold = true) : p.recover = { p with dispatchHold := false } := by
  simp only [Power.recover, h, if_true]

theorem Power.recover_clock_heated {p : Power} (hh : p.dispatchHold = false) (hc : p.clock < 16) (hot : Said.heated p) :
    p.recover = { p with clock := p.clock + 1 } := by
  have hheat := p.heatHeld_iff.mpr hot
  simp only [Power.recover, hh, hheat, hc, decide_true, Bool.true_or, if_true, Bool.false_eq_true, if_false,
    Nat.min_eq_right (show p.clock + 1 ≤ 16 from hc)]

theorem Power.recover_clock {p : Power} (hh : p.dispatchHold = false) (hc : p.clock < 16 ∨ p.clockHeat < 16)
    (hcold : ¬ Said.heated p) :
    p.recover = { p with clock := min 16 (p.clock + 1), clockHeat := min 16 (p.clockHeat + 1) } := by
  have hheat : p.heatHeld = false := Bool.eq_false_iff.mpr (mt p.heatHeld_iff.mp hcold)
  have hstep : (decide (p.clock < 16) || decide (p.clockHeat < min 16 (p.clockHeat + 1))) = true := by
    rw [Bool.or_eq_true, decide_eq_true_eq, decide_eq_true_eq]; omega
  simp only [Power.recover, hh, hheat, hstep, if_true, Bool.false_eq_true, if_false]

theorem Power.recover_duty {p : Power} (hh : p.dispatchHold = false) (hc : p.clock = 16) (hheat : p.clockHeat = 16) :
    p.recover = { p with duty := min 16 (p.duty + 1) } := by
  simp [Power.recover, hh, hc, hheat]

/-! ### The end of a power window (spec/01 R17, R18) -/

/-- A power manager whose window starts anew. -/
def Power.afresh (p : Power) : Power := { p with sum := 0, count := 0 }

section
variable {s : State} {t : Nat} (hup : s.tileUp t = true) (hcount : 0 < (s.tile t).pow.count)
include hup hcount

/-- A window over the cap: one step of throttling, and the event of stage 2 or 3 where that is entered. -/
theorem execPowerWindowEnd_over (hover : s.capOf t * (s.tile t).pow.count < (s.tile t).pow.sum) :
    execPowerWindowEnd t s = .next (
      if 4 < (s.tile t).pow.duty then s.setPow t (s.tile t).pow.afresh.throttle
      else if (s.tile t).pow.clock = 16 then (s.setPow t (s.tile t).pow.afresh.throttle).raiseMain 0x10 t 2
      else if (s.tile t).pow.clock = 8 && !(s.tile t).pow.dispatchHold then
        (s.setPow t (s.tile t).pow.afresh.throttle).raiseMain 0x10 t 3
      else s.setPow t (s.tile t).pow.afresh.throttle) := by
  simp only [execPowerWindowEnd, hup, hover, Nat.ne_of_gt hcount, decide_false, Bool.not_true, Bool.or_self,
    Bool.false_eq_true, if_false, if_true, Power.afresh]

theorem execPowerWindowEnd_recover (hin : (s.tile t).pow.sum ≤ s.capOf t * (s.tile t).pow.count)
    (hlow : (s.tile t).pow.sum * 10 ≤ s.capOf t * 9 * (s.tile t).pow.count) :
    execPowerWindowEnd t s = .next (s.setPow t (s.tile t).pow.afresh.recover) := by
  simp only [execPowerWindowEnd, hup, Nat.not_lt.mpr hin, hlow, Nat.ne_of_gt hcount, decide_false, Bool.not_true,
    Bool.or_self, Bool.false_eq_true, if_false, if_true, Power.afresh]

theorem execPowerWindowEnd_between (hin : (s.tile t).pow.sum ≤ s.capOf t * (s.tile t).pow.count)
    (hhigh : s.capOf t * 9 * (s.tile t).pow.count < (s.tile t).pow.sum * 10) :
    execPowerWindowEnd t s = .next (s.setPow t (s.tile t).pow.afresh) := by
  simp only [execPowerWindowEnd, hup, Nat.not_lt.mpr hin, Nat.not_le.mpr hhigh, Nat.ne_of_gt hcount, decide_false,
    Bool.not_true, Bool.or_self, Bool.false_eq_true, if_false, Power.afresh]

section
variable (hover : s.capOf t * (s.tile t).pow.count < (s.tile t).pow.sum)
include hover

theorem windowEnd_lowers_duty (hd : 4 < (s.tile t).pow.duty) :
    execPowerWindowEnd t s = .next (Said.power s t fun p => { p.afresh with duty := p.duty - 1 }) := by
  rw [execPowerWindowEnd_over hup hcount hover, if_pos hd, Power.throttle_duty (p := Power.afresh _) hd]; rfl

variable (hd : (s.tile t).pow.duty ≤ 4)
include hd

theorem windowEnd_enters_clock_stage (hc : (s.tile t).pow.clock = 16) :
    execPowerWindowEnd t s = .next ((Said.power s t fun p => { p.afresh with clock := 15 }).raiseMain 0x10 t 2) := by
  rw [execPowerWindowEnd_over hup hcount hover, if_neg (Nat.not_lt.mpr hd), if_pos hc,
    Power.throttle_clock (p := Power.afresh _) hd (by exact hc ▸ (by decide))]
  simp only [Power.afresh, hc]; rfl

theorem windowEnd_lowers_clock (hc : 8 < (s.tile t).pow.clock) (hc' : (s.tile t).pow.clock < 16) :
    execPowerWindowEnd t s = .next (Said.power s t fun p => { p.afresh with clock := p.clock - 1 }) := by
  rw [execPowerWindowEnd_over hup hcount hover, if_neg (Nat.not_lt.mpr hd), if_neg (by omega), if_neg (by simp; omega),
    Power.throttle_clock (p := Power.afresh _) hd hc]; rfl

variable (hc : (s.tile t).pow.clock = 8)
include hc

theorem windowEnd_enters_hold (hh : (s.tile t).pow.dispatchHold = false) :
    execPowerWindowEnd t s =
      .next ((Said.power s t fun p => { p.afresh with dispatchHold := true }).raiseMain 0x10 t 3) := by
  rw [execPowerWindowEnd_over hup hcount hover, if_neg (Nat.not_lt.mpr hd), if_neg (by omega), if_pos (by simp [hc, hh]),
    Power.throttle_hold (p := Power.afresh _) hd (Nat.le_of_eq hc)]; rfl

theorem windowEnd_holds_on (hh : (s.tile t).pow.dispatchHold = true) :
    execPowerWindowEnd t s = .next (Said.power s t Power.afresh) := by
  rw [execPowerWindowEnd_over hup hcount hover, if_neg (Nat.not_lt.mpr hd), if_neg (by omega), if_neg (by simp [hh]),
    Power.throttle_hold (p := Power.afresh _) hd (Nat.le_of_eq hc), ← hh]; rfl

end

end

/-! ### The panel budget (spec/01 R19) -/

theorem execPanelBudgetMeasure_within {s : State} {n : Nat} (hphase : s.head.phase = 5)
    (h : s.head.inSum + n ≤ 50000 * (s.head.inCount + 1)) :
    execPanelBudgetMeasure n s =
      .next { s with head := { s.head with inSum := s.head.inSum + n, inCount := s.head.inCount + 1 } } := by
  simp only [execPanelBudgetMeasure, hphase, h, ne_eq, not_true_eq_false, if_false, if_true]

theorem execPanelBudgetMeasure_lower {s : State} {n : Nat} (hphase : s.head.phase = 5)
    (h : 50000 * (s.head.inCount + 1) < s.head.inSum + n) (himp : s.head.imposed = true) :
    execPanelBudgetMeasure n s = .next { s with head := { s.head with
      inSum := s.head.inSum + n, inCount := s.head.inCount + 1, effCap := min s.head.effCap s.topCap - 1 } } := by
  simp only [execPanelBudgetMeasure, hphase, Nat.not_le.mpr h, himp, ne_eq, not_true_eq_false, if_false, if_true]

theorem execPanelBudgetMeasure_impose {s : State} {n : Nat} (hphase : s.head.phase = 5)
    (h : 50000 * (s.head.inCount + 1) < s.head.inSum + n) (himp : s.head.imposed = false) :
    execPanelBudgetMeasure n s = .next (State.raiseMain { s with head := { s.head with
      inSum := s.head.inSum + n, inCount := s.head.inCount + 1, effCap := s.topCap - 1, imposed := true } } 0x10 0 4) := by
  simp only [execPanelBudgetMeasure, hphase, Nat.not_le.mpr h, himp, ne_eq, not_true_eq_false, if_false,
    Bool.false_eq_true]

theorem execPanelBudgetWindowEnd_raise {s : State} (hcount : 0 < s.head.inCount) (himp : s.head.imposed = true)
    (h : s.head.inSum ≤ 49000 * s.head.inCount) :
    execPanelBudgetWindowEnd s = .next { s with head := { s.head with
      inSum := 0, inCount := 0, effCap := s.head.effCap + 1, imposed := decide (s.head.effCap + 1 < s.topCap) } } := by
  simp only [execPanelBudgetWindowEnd, Nat.ne_of_gt hcount, himp, h, decide_true, Bool.and_self, if_false, if_true]

theorem execPanelBudgetWindowEnd_keep {s : State} (hcount : 0 < s.head.inCount)
    (h : s.head.imposed = false ∨ 49000 * s.head.inCount < s.head.inSum) :
    execPanelBudgetWindowEnd s = .next { s with head := { s.head with inSum := 0, inCount := 0 } } := by
  have hnot : (s.head.imposed && decide (s.head.inSum ≤ 49000 * s.head.inCount)) = false := by
    rw [Bool.and_eq_false_iff, decide_eq_false_iff_not, Nat.not_le]; exact h
  simp only [execPanelBudgetWindowEnd, Nat.ne_of_gt hcount, hnot, Bool.false_eq_true, if_false]

/-! ### The sensors (spec/01 R20) -/

/-- A power manager whose sensor reads a temperature, the refresh rate with it. -/
def Power.read (p : Power) (sensor temp : Nat) : Power :=
  { p with
    temps := FMap.set p.temps sensor temp
    refresh2 := (FMap.set p.temps sensor temp).any (fun kv => decide (1 ≤ kv.1) && decide (85 ≤ kv.2)) }

section
variable {s : State} {t : Nat} (hlive : s.tileLive t = true) (hmode : (s.tile t).pow.mode ≠ .off)
include hlive hmode

theorem execThermalThreshold_base (temp : Nat) :
    execThermalThreshold t 0 temp s = .next (s.setPow t { (s.tile t).pow.read 0 temp with
      heatBase := if 105 ≤ temp then true else if temp < 100 then false else (s.tile t).pow.heatBase }) := by
  simp [execThermalThreshold, hlive, hmode, Power.read]

theorem execThermalThreshold_dram {sensor : Nat} (h0 : 0 < sensor) (h12 : sensor ≤ 12) (temp : Nat) :
    execThermalThreshold t sensor temp s = .next (s.setPow t { (s.tile t).pow.read sensor temp with
      heatDram := if 95 ≤ temp then (s.tile t).pow.heatDram.filter (· != sensor) ++ [sensor]
        else if temp < 90 then (s.tile t).pow.heatDram.filter (· != sensor) else (s.tile t).pow.heatDram }) := by
  simp [execThermalThreshold, hlive, hmode, Power.read, Nat.not_lt.mpr h12, Nat.ne_of_gt h0]

end

/-- With a sensor at its threshold and the clock above its floor the clock falls, the first time with the event of stage 2. -/
theorem execThermalClockStep_hot {s : State} {t k temp : Nat} (hup : s.tileUp t = true)
    (hmem : (k, temp) ∈ (s.tile t).pow.temps) (hhot : Said.threshold k ≤ temp) (hclock : 8 < (s.tile t).pow.clockHeat) :
    execThermalClockStep t s = .next (
      if (s.tile t).pow.clockHeat = 16 then
        (s.setPow t { (s.tile t).pow with clockHeat := (s.tile t).pow.clockHeat - 1 }).raiseMain 0x10 t 2
      else s.setPow t { (s.tile t).pow with clockHeat := (s.tile t).pow.clockHeat - 1 }) := by
  have hany : (s.tile t).pow.temps.any (fun kv => decide ((if kv.1 = 0 then 105 else 95) ≤ kv.2)) = true :=
    List.any_eq_true.mpr ⟨(k, temp), hmem, decide_eq_true hhot⟩
  simp [execThermalClockStep, hup, hany, Nat.not_le.mpr hclock]

/-- Which sensors of the DRAM hold stage 2 after one of them reads a temperature. -/
theorem sensorsHoldBetweenThresholds (l : List Nat) (sensor temp : Nat) :
    let d := if 95 ≤ temp then l.filter (· != sensor) ++ [sensor] else if temp < 90 then l.filter (· != sensor) else l
    (95 ≤ temp → sensor ∈ d) ∧ (temp < 90 → sensor ∉ d) ∧ (90 ≤ temp → temp < 95 → d = l) ∧
      ∀ k, k ≠ sensor → (k ∈ d ↔ k ∈ l) := by
  dsimp only
  split
  next h => exact ⟨by simp, fun _ => by omega, fun _ _ => by omega, fun k hk => by simp [hk]⟩
  next h =>
    split
    next h' => exact ⟨fun _ => by omega, by simp, fun _ _ => by omega, fun k hk => by simp [hk]⟩
    next h' => exact ⟨fun _ => by omega, fun _ => by omega, fun _ _ => rfl, fun k _ => Iff.rfl⟩

/-- Settles O31: each stage's step is the branch of its step function that its conditions select. -/
theorem powerManagersThrottleByStages : Obligations.PowerManagersThrottleByStages := by
  refine ⟨fun s t n hup => ?_, fun s t hup hcount => ⟨?_, ?_, ?_⟩, fun s n hphase => ⟨?_, ?_, ?_⟩,
    fun s hcount => ⟨fun himp h => ?_, execPanelBudgetWindowEnd_keep hcount⟩,
    fun s t sensor temp hlive hmode h12 => ?_, fun s t k temp hup hmem hhot hclock => ?_⟩
  · show execPowerMeasure t n s = _
    simp only [execPowerMeasure, show s.tileUp t = true from hup, if_true]; rfl
  · exact fun hover => ⟨windowEnd_lowers_duty hup hcount hover, windowEnd_enters_clock_stage hup hcount hover,
      windowEnd_lowers_clock hup hcount hover, windowEnd_enters_hold hup hcount hover,
      windowEnd_holds_on hup hcount hover⟩
  · intro hlow hin
    have hrun := execPowerWindowEnd_recover hup hcount hin hlow
    refine ⟨fun hh => hrun.trans ?_, fun hh hc hot => hrun.trans ?_, fun hh hc _ hcold => hrun.trans ?_,
      fun hh hc hheat => hrun.trans ?_⟩
    · rw [Power.recover_hold (p := Power.afresh _) hh]; rfl
    · rw [Power.recover_clock_heated (p := Power.afresh _) hh hc hot]; rfl
    · rw [Power.recover_clock (p := Power.afresh _) hh hc hcold]; rfl
    · rw [Power.recover_duty (p := Power.afresh _) hh hc hheat]; rfl
  · exact execPowerWindowEnd_between hup hcount
  · exact execPanelBudgetMeasure_within hphase
  · exact execPanelBudgetMeasure_lower hphase
  · exact execPanelBudgetMeasure_impose hphase
  · exact ⟨_, execPanelBudgetWindowEnd_raise hcount himp h, rfl, decide_eq_true_iff, rfl, rfl⟩
  · rcases Nat.eq_zero_or_pos sensor with rfl | h0
    · refine ⟨_, execThermalThreshold_base hlive hmode temp, rfl, rfl, rfl, rfl, rfl, fun _ => ⟨rfl, ?_, ?_, ?_⟩,
        fun h => absurd h (Nat.lt_irrefl 0)⟩
      · exact fun h => if_pos h
      · exact fun h => (if_neg (by omega)).trans (if_pos h)
      · exact fun h h' => (if_neg (by omega)).trans (if_neg (by omega))
    · exact ⟨_, execThermalThreshold_dram hlive hmode h0 h12 temp, rfl, rfl, rfl, rfl, rfl,
        fun h => absurd h (Nat.ne_of_gt h0), fun _ => ⟨rfl, sensorsHoldBetweenThresholds _ sensor temp⟩⟩
  · refine (execThermalClockStep_hot hup hmem hhot hclock).trans ?_
    split <;> rfl

end Sys2Proof.Machine
end

section
/-! SUPPORT. What the panel's shared operations leave as it was: events, messages, the mesh, table updates, and the docks' lists. -/

namespace Sys2Proof.Machine

/-! ### Finite maps -/

theorem FMap.mem_of_get? {α : Type} {m : FMap α} {k : Nat} {v : α} (h : FMap.get? m k = some v) : (k, v) ∈ m := by
  induction m with
  | nil => cases h
  | cons q m ih =>
    obtain ⟨j, w⟩ := q
    simp only [FMap.get?] at h
    split at h
    next e => subst e; cases h; exact .head _
    next =>
      split at h
      · cases h
      · exact .tail _ (ih h)

theorem FMap.get?_of_mem {α : Type} {m : FMap α} {k : Nat} {v : α} (hs : FMap.sorted m = true) (h : (k, v) ∈ m) :
    FMap.get? m k = some v := by
  induction m with
  | nil => cases h
  | cons q m ih =>
    cases h with
    | head => simp [FMap.get?]
    | tail _ h =>
      have hlt := FMap.sorted_above hs (k, v) h
      simp only [FMap.get?]
      rw [if_neg (by simp at hlt; omega), if_neg (by simp at hlt; omega)]
      exact ih (FMap.sorted_tail hs) h

theorem FMap.get?_mapVals {α : Type} (m : FMap α) (f : Nat → α → α) (j : Nat) :
    FMap.get? (FMap.mapVals m f) j = (FMap.get? m j).map (f j) := by
  induction m with
  | nil => rfl
  | cons q m ih =>
    obtain ⟨k, v⟩ := q
    show FMap.get? ((k, f k v) :: FMap.mapVals m f) j = _
    simp only [FMap.get?, ih]
    split
    next e => subst e; rfl
    next => split <;> rfl

theorem FMap.mem_mapVals {α : Type} {m : FMap α} {f : Nat → α → α} {p : Nat × α} (h : p ∈ FMap.mapVals m f) :
    ∃ q ∈ m, p = (q.1, f q.1 q.2) := by
  obtain ⟨q, hq, rfl⟩ := List.mem_map.mp h
  exact ⟨q, hq, rfl⟩

/-- Leaving out keys by a test leaves out those keys alone. -/
theorem FMap.get?_filter_key {α : Type} {m : FMap α} (hs : FMap.sorted m = true) (p : Nat → Bool) (j : Nat) :
    FMap.get? (m.filter fun kv => p kv.1) j = if p j = true then FMap.get? m j else none := by
  split
  next hp =>
    cases hv : FMap.get? m j with
    | some v => exact FMap.get?_of_mem (FMap.filter_sorted _ hs) (List.mem_filter.mpr ⟨FMap.mem_of_get? hv, hp⟩)
    | none =>
      refine Option.eq_none_iff_forall_ne_some.mpr fun v hv' => ?_
      rw [FMap.get?_of_mem hs (List.mem_filter.mp (FMap.mem_of_get? hv')).1] at hv
      cases hv
  next hp =>
    exact Option.eq_none_iff_forall_ne_some.mpr fun v hv' => hp (List.mem_filter.mp (FMap.mem_of_get? hv')).2

theorem Memory.byte_clear_in {m : Memory} {lo hi a : Nat} (hm : Memory.wf m = true) (h : lo ≤ a ∧ a < hi) :
    (Memory.clear m lo hi).byte a = 0 := by
  have hs := ((Memory.wf_iff m).mp hm).1
  unfold Memory.clear Memory.byte
  rw [FMap.get?_filter_key hs (fun k => decide (k < lo) || decide (hi ≤ k)) a, if_neg (by simp; omega)]
  rfl

theorem Memory.byte_clear_out {m : Memory} {lo hi a : Nat} (hm : Memory.wf m = true) (h : ¬ (lo ≤ a ∧ a < hi)) :
    (Memory.clear m lo hi).byte a = m.byte a := by
  have hs := ((Memory.wf_iff m).mp hm).1
  unfold Memory.clear Memory.byte
  rw [FMap.get?_filter_key hs (fun k => decide (k < lo) || decide (hi ≤ k)) a, if_pos (by simp; omega)]

/-! ### Two frames -/

/-- DRAM, engines, quadrants, tiles' registers and sites are as they were, and of the head gardener all but a table update and a
retirement under way. -/
structure State.SameHeld (s u : State) : Prop where
  mem : u.mem = s.mem
  engines : u.engines = s.engines
  quads : u.quads = s.quads
  tiles : u.tiles = s.tiles
  sites : u.sites = s.sites
  head : ∃ x b r, u.head = { s.head with update := x, stale := b, retire := r }

/-- ... and so are strands, cores, columns, jobs and items: only messages, mesh and events have moved on. -/
structure State.SameUnits (s u : State) : Prop extends s.SameHeld u where
  strands : u.strands = s.strands
  cores : u.cores = s.cores
  cols : u.cols = s.cols
  jobs : u.jobs = s.jobs
  items : u.items = s.items

theorem State.SameHeld.refl (s : State) : s.SameHeld s := ⟨rfl, rfl, rfl, rfl, rfl, _, _, _, rfl⟩

theorem State.SameHeld.trans {s t u : State} (h : s.SameHeld t) (h' : t.SameHeld u) : s.SameHeld u := by
  obtain ⟨_, _, _, hh⟩ := h.head
  obtain ⟨x, b, r, hh'⟩ := h'.head
  exact ⟨h'.mem.trans h.mem, h'.engines.trans h.engines, h'.quads.trans h.quads, h'.tiles.trans h.tiles,
    h'.sites.trans h.sites, x, b, r, by rw [hh', hh]⟩

theorem State.SameUnits.refl (s : State) : s.SameUnits s := ⟨.refl s, rfl, rfl, rfl, rfl, rfl⟩

/-- Messages, the mesh, host memory, ports, dies and what the outside receives are outside the frame. -/
theorem State.sameUnits_outside (s : State) (ms tr f r hm p d o) : s.SameUnits { s with
    msgs := ms, transit := tr, fresh := f, routers := r, hostMem := hm, ports := p, dies := d, out := o } :=
  ⟨⟨rfl, rfl, rfl, rfl, rfl, _, _, _, rfl⟩, rfl, rfl, rfl, rfl, rfl⟩

theorem State.SameUnits.trans {s t u : State} (h : s.SameUnits t) (h' : t.SameUnits u) : s.SameUnits u :=
  ⟨h.toSameHeld.trans h'.toSameHeld, h'.strands.trans h.strands, h'.cores.trans h.cores, h'.cols.trans h.cols,
    h'.jobs.trans h.jobs, h'.items.trans h.items⟩

section
variable {s u : State} (h : ∃ x b r, u.head = { s.head with update := x, stale := b, retire := r }) (t : Nat)
include h

theorem State.tileLive_of_head : u.tileLive t = s.tileLive t := by
  obtain ⟨x, b, r, hh⟩ := h
  simp only [State.tileLive, hh]

theorem State.siteOf_of_head : u.siteOf t = s.siteOf t := by
  obtain ⟨x, b, r, hh⟩ := h
  simp only [State.siteOf, hh]

end

theorem State.SameHeld.tileLive {s u : State} (h : s.SameHeld u) (t : Nat) : u.tileLive t = s.tileLive t :=
  State.tileLive_of_head h.head t

theorem State.SameHeld.tile {s u : State} (h : s.SameHeld u) (t : Nat) : u.tile t = s.tile t := by
  simp only [State.tile, h.tiles]

theorem State.SameHeld.site {s u : State} (h : s.SameHeld u) (k : Nat) : u.site k = s.site k := by
  simp only [State.site, h.sites]

/-- A repeated step that keeps a frame keeps it however often it is done. -/
theorem State.SameUnits.foldl {α : Type} {f : State → α → State} (hf : ∀ (s : State) a, s.SameUnits (f s a)) (l : List α) (s : State) :
    s.SameUnits (l.foldl f s) :=
  l.foldlRecOn f (motive := s.SameUnits) (.refl s) fun b hb a _ => hb.trans (hf b a)

/-! ### Events (spec/04 R63) -/

/-- An event changes the ring in host memory, its port and its die, and what the outside receives. -/
theorem State.raise_eq (s : State) (e : Event) :
    ∃ hm p d o, s.raise e = { s with hostMem := hm, ports := p, dies := d, out := o } := by
  unfold State.raise
  dsimp only
  split
  next s1 h =>
    split at h
    · cases h
    · unfold State.ringWrite at h
      dsimp only at h
      split at h
      · cases h; exact ⟨_, _, _, _, rfl⟩
      · cases h
  next =>
    split
    · exact ⟨_, _, _, _, rfl⟩
    · exact ⟨_, _, _, _, rfl⟩

theorem State.raise_sameUnits (s : State) (e : Event) : s.SameUnits (s.raise e) := by
  obtain ⟨_, _, _, _, h⟩ := s.raise_eq e
  rw [h]
  exact s.sameUnits_outside ..

theorem State.raiseMain_sameUnits (s : State) (code t d : Nat) : s.SameUnits (s.raiseMain code t d) := s.raise_sameUnits _

theorem State.raiseJob_sameUnits (s : State) (code : Nat) (j : Job) (d : Nat) : s.SameUnits (s.raiseJob code j d) := by
  unfold State.raiseJob
  split <;> exact s.raise_sameUnits _

theorem State.raise_head (s : State) (e : Event) : (s.raise e).head = s.head := by
  obtain ⟨_, _, _, _, h⟩ := s.raise_eq e
  rw [h]

@[simp] theorem State.raiseMain_head (s : State) (code t d : Nat) : (s.raiseMain code t d).head = s.head := s.raise_head _

/-! ### Messages (spec/02 R23) -/

theorem State.send_sameUnits (s : State) (m : Msg) : s.SameUnits (s.send m) := s.sameUnits_outside ..

theorem State.unsend_sameUnits (s : State) (id : Nat) : s.SameUnits (s.unsend id) := s.sameUnits_outside ..

/-- Sending takes the next number, and puts at most an entry of the mesh beside the message. -/
theorem State.sendFrom_eq (s : State) (src : Nat) (m : Msg) : ∃ tr, s.sendFrom src m = { s.send m with transit := tr } := by
  unfold State.sendFrom
  split
  · split <;> exact ⟨_, rfl⟩
  · exact ⟨_, rfl⟩

theorem State.sendFrom_sameUnits (s : State) (src : Nat) (m : Msg) : s.SameUnits (s.sendFrom src m) := by
  obtain ⟨_, h⟩ := s.sendFrom_eq src m
  rw [h]
  exact s.sameUnits_outside ..

@[simp] theorem State.sendFrom_head (s : State) (src : Nat) (m : Msg) : (s.sendFrom src m).head = s.head := by
  obtain ⟨_, h⟩ := s.sendFrom_eq src m
  rw [h]; rfl

@[simp] theorem State.sendFrom_routers (s : State) (src : Nat) (m : Msg) : (s.sendFrom src m).routers = s.routers := by
  obtain ⟨_, h⟩ := s.sendFrom_eq src m
  rw [h]; rfl

@[simp] theorem State.sendFrom_msgs (s : State) (src : Nat) (m : Msg) :
    (s.sendFrom src m).msgs = FMap.set s.msgs s.fresh m := by
  obtain ⟨_, h⟩ := s.sendFrom_eq src m
  rw [h]; rfl

@[simp] theorem State.sendFrom_fresh (s : State) (src : Nat) (m : Msg) : (s.sendFrom src m).fresh = s.fresh + 1 := by
  obtain ⟨_, h⟩ := s.sendFrom_eq src m
  rw [h]; rfl

/-- What is sent later does not touch a message with an earlier number. -/
theorem State.get?_msgs_sendAll {α : Type} (src : Nat) (m : α → Msg) (l : List α) {s : State} {i : Nat} (hi : i < s.fresh) :
    FMap.get? (l.foldl (fun s a => s.sendFrom src (m a)) s).msgs i = FMap.get? s.msgs i := by
  induction l generalizing s with
  | nil => rfl
  | cons a l ih =>
    rw [List.foldl_cons, ih (by rw [State.sendFrom_fresh]; omega), State.sendFrom_msgs, FMap.get?_set_ne _ _ (by omega)]

/-- Of several messages sent one after another each is on its way. -/
theorem State.sendAll_sent {α : Type} (src : Nat) (m : α → Msg) {l : List α} {a : α} (ha : a ∈ l) (s : State) :
    ∃ i, FMap.get? (l.foldl (fun s a => s.sendFrom src (m a)) s).msgs i = some (m a) := by
  induction l generalizing s with
  | nil => cases ha
  | cons b l ih =>
    cases ha with
    | head =>
      refine ⟨s.fresh, ?_⟩
      rw [List.foldl_cons, State.get?_msgs_sendAll src m l (by rw [State.sendFrom_fresh]; omega), State.sendFrom_msgs,
        FMap.get?_set_self]
    | tail _ ha => exact ih ha _

theorem State.sendAll_head {α : Type} (src : Nat) (m : α → Msg) (l : List α) (s : State) :
    (l.foldl (fun s a => s.sendFrom src (m a)) s).head = s.head :=
  l.foldlRecOn _ (motive := fun u : State => u.head = s.head) rfl fun b hb a _ => (b.sendFrom_head src (m a)).trans hb

theorem State.sendAll_routers {α : Type} (src : Nat) (m : α → Msg) (l : List α) (s : State) :
    (l.foldl (fun s a => s.sendFrom src (m a)) s).routers = s.routers :=
  l.foldlRecOn _ (motive := fun u : State => u.routers = s.routers) rfl fun b hb a _ => (b.sendFrom_routers src (m a)).trans hb

theorem State.sendEach_eq (s : State) (nodes : List Nat) (m : Nat → Msg) :
    ∃ ms f, s.sendEach nodes m = { s with msgs := ms, fresh := f } :=
  nodes.foldlRecOn _ (motive := fun u : State => ∃ ms f, u = { s with msgs := ms, fresh := f }) ⟨_, _, rfl⟩
    fun b hb r _ => by obtain ⟨_, _, rfl⟩ := hb; exact ⟨_, _, rfl⟩

/-! ### The mesh (spec/02 R23 to R35) -/

/-- Only routers and the messages' ways through the mesh have changed; the node that sent a message stays the same. -/
structure State.SameWays (s u : State) : Prop extends s.SameUnits u where
  msgs : u.msgs = s.msgs
  transit : FMap.sorted s.transit = true → FMap.sorted u.transit = true
  src : ∀ k x, FMap.get? u.transit k = some x → ∃ y, FMap.get? s.transit k = some y ∧ y.src = x.src

theorem State.SameWays.refl (s : State) : s.SameWays s := ⟨.refl s, rfl, id, fun _ x h => ⟨x, h, rfl⟩⟩

theorem State.SameWays.trans {s t u : State} (h : s.SameWays t) (h' : t.SameWays u) : s.SameWays u :=
  ⟨h.toSameUnits.trans h'.toSameUnits, h'.msgs.trans h.msgs, h'.transit ∘ h.transit, fun k x hx => by
    obtain ⟨y, hy, hyx⟩ := h'.src k x hx
    obtain ⟨z, hz, hzy⟩ := h.src k y hy
    exact ⟨z, hz, hzy.trans hyx⟩⟩

theorem State.SameWays.foldl {α : Type} {f : State → α → State} (hf : ∀ (s : State) a, s.SameWays (f s a)) (l : List α) (s : State) :
    s.SameWays (l.foldl f s) :=
  l.foldlRecOn f (motive := s.SameWays) (.refl s) fun b hb a _ => hb.trans (hf b a)

theorem State.putRouter_sameWays (s : State) (r : Nat) (x : Router) : s.SameWays (s.putRouter r x) :=
  ⟨s.sameUnits_outside .., rfl, id, fun _ y h => ⟨y, h, rfl⟩⟩

/-- The way of a message is rewritten, its sender kept. -/
theorem State.setTransit_sameWays {s : State} {id : Nat} {x y : Transit} (hx : FMap.get? s.transit id = some x) (hy : y.src = x.src) :
    s.SameWays { s with transit := FMap.set s.transit id y } := by
  refine ⟨s.sameUnits_outside .., rfl, FMap.set_sorted id y, fun k z hz => ?_⟩
  by_cases hk : k = id
  · subst hk
    rw [FMap.get?_set_self] at hz
    cases hz
    exact ⟨x, hx, hy.symm⟩
  · rw [FMap.get?_set_ne _ _ hk] at hz
    exact ⟨z, hz, rfl⟩

theorem State.flitLost_sameWays (s : State) (id : Nat) : s.SameWays (s.flitLost id) := by
  unfold State.flitLost
  split
  next h => exact State.setTransit_sameWays h rfl
  next => exact .refl s

theorem State.flitGone_sameWays (s : State) (tile id : Nat) : s.SameWays (s.flitGone tile id) := by
  unfold State.flitGone
  split
  next h _ =>
    split
    · exact State.setTransit_sameWays h rfl
    · exact s.flitLost_sameWays id
  next => exact .refl s

theorem State.flitGone_routers (s : State) (tile id : Nat) : (s.flitGone tile id).routers = s.routers := by
  unfold State.flitGone State.flitLost
  split
  · split
    · rfl
    · split <;> rfl
  · rfl

theorem State.holdFlit_sameWays (s : State) (r : Nat) (f : Flit) : s.SameWays (s.holdFlit r f) := by
  unfold State.holdFlit
  dsimp only
  split
  · exact s.putRouter_sameWays _ _
  · split
    · exact (s.putRouter_sameWays _ _).trans (State.flitLost_sameWays _ _)
    · exact s.putRouter_sameWays _ _

theorem State.rehold_sameWays (s : State) (r : Nat) : s.SameWays (s.rehold r) :=
  (s.putRouter_sameWays _ _).trans (.foldl (fun s f => s.holdFlit_sameWays r f) _ _)

theorem State.setLink_sameWays (s : State) (r p v : Nat) : s.SameWays (s.setLink r p v) := by
  unfold State.setLink
  dsimp only
  split
  · exact (s.putRouter_sameWays _ _).trans (State.putRouter_sameWays _ _ _)
  · exact s.putRouter_sameWays _ _

theorem State.unsent_sameWays (s : State) (r p : Nat) : s.SameWays (s.unsent r p) := by
  unfold State.unsent
  split
  · exact .refl s
  · exact (s.putRouter_sameWays _ _).trans (State.putRouter_sameWays _ _ _)

theorem State.clearPort_sameWays (s : State) (r p : Nat) : s.SameWays (s.clearPort r p) := by
  unfold State.clearPort
  dsimp only
  split <;> exact s.putRouter_sameWays _ _

theorem State.linkStop_sameWays (s : State) (r p v : Nat) : s.SameWays (s.linkStop r p v) := by
  have h := ((s.setLink_sameWays r p v).trans (State.unsent_sameWays _ r p)).trans (State.clearPort_sameWays _ r p)
  unfold State.linkStop
  dsimp only
  split
  · exact (((h.trans (State.unsent_sameWays _ _ _)).trans (State.clearPort_sameWays _ _ _)).trans
      (State.rehold_sameWays _ _)).trans (State.rehold_sameWays _ _)
  · exact h

theorem State.siteDown_sameWays (s : State) (site : Nat) : s.SameWays (s.siteDown site) :=
  .foldl (fun s p => s.linkStop_sameWays site p 0) _ s

/-- A lost router gives up its wires. -/
theorem State.dropWire_sameWays (s : State) (e : Nat × Nat) :
    s.SameWays (s.putRouter e.1 { s.router e.1 with wire := FMap.erase (s.router e.1).wire e.2 }) :=
  s.putRouter_sameWays _ _

theorem State.routerLost_sameWays (s : State) (site tile : Nat) : s.SameWays (s.routerLost site tile) :=
  ((s.putRouter_sameWays _ _).trans (.foldl State.dropWire_sameWays _ _)).trans
    (.foldl (fun s (f : Flit) => s.flitGone_sameWays tile f.id) _ _)

/-! ### Table updates (spec/02 R34, R35) -/

theorem State.sendEach_sameUnits (s : State) (nodes : List Nat) (m : Nat → Msg) : s.SameUnits (s.sendEach nodes m) :=
  .foldl (fun s r => s.send_sameUnits (m r)) nodes s

/-- A table update is another, or one begins or ends. -/
theorem State.setUpdate_sameUnits (s : State) (x : Option TableUpdate) (b : Bool) :
    s.SameUnits { s with head := { s.head with update := x, stale := b } } :=
  ⟨⟨rfl, rfl, rfl, rfl, rfl, _, _, _, rfl⟩, rfl, rfl, rfl, rfl, rfl⟩

theorem State.commitWhenAll_sameUnits (s : State) (u : TableUpdate) : s.SameUnits (s.commitWhenAll u) := by
  unfold State.commitWhenAll
  dsimp only
  split
  · exact (s.setUpdate_sameUnits _ _).trans (State.sendEach_sameUnits _ _ _)
  · exact s.setUpdate_sameUnits _ _

theorem State.updateWithout_sameUnits (s : State) (r : Nat) : s.SameUnits (s.updateWithout r) := by
  unfold State.updateWithout
  split
  · exact s.commitWhenAll_sameUnits _
  · exact .refl s

theorem State.inStep_sameUnits (s : State) (r : Nat) : s.SameUnits (s.inStep r) := by
  unfold State.inStep
  dsimp only
  split
  · exact .refl s
  · exact (s.putRouter_sameWays _ _).toSameUnits

theorem State.startUpdate_sameUnits (s : State) : s.SameUnits s.startUpdate := by
  unfold State.startUpdate
  split
  · exact s.setUpdate_sameUnits _ _
  · exact ((State.SameUnits.foldl State.inStep_sameUnits _ s).trans (State.setUpdate_sameUnits _ _ _)).trans
      (State.sendEach_sameUnits _ _ _)

/-- After it an update is under way. -/
theorem State.startUpdate_isSome (s : State) : s.startUpdate.head.update.isSome = true := by
  unfold State.startUpdate
  split
  next h => exact h
  next =>
    dsimp only
    obtain ⟨_, _, h⟩ := State.sendEach_eq { (s.meshNodes s.head.remap).foldl State.inStep s with head := _ } _ Msg.tableUpdate
    rw [h]; rfl

end Sys2Proof.Machine
end

section
/-! SUPPORT. The loss of a tile (spec/11 R224, R225, spec/02 R35, R38): what is left of strands and units. -/

namespace Sys2Proof.Machine

/-! ### Strands and the docks' lists -/

/-- The strand in another queue. -/
def Strand.inClass (st : Strand) (c : QueueClass) : Strand := { st with cls := c }

theorem exists_inClass (o : Option Strand) : ∃ c, o = o.map (·.inClass c) := by
  cases o with
  | none => exact ⟨.resumed, rfl⟩
  | some v => exact ⟨v.cls, rfl⟩

/-- Refusal lists name cores of a column. -/
def State.listsCores (s : State) : Prop := ∀ kv ∈ s.cols, ∀ e ∈ kv.2.refusals, e.core < 768

/-- Strands stand under their handles, in order, and refusal lists name cores of a column. -/
structure State.Indexed (s : State) : Prop where
  sorted : FMap.sorted s.strands = true
  handle : ∀ kv ∈ s.strands, kv.2.handle.toNat = kv.1
  lists : s.listsCores

theorem State.Indexed.handle_eq {s : State} (hs : s.Indexed) {h : BitVec 64} {v : Strand} (hv : s.strand? h = some v) :
    v.handle = h :=
  BitVec.eq_of_toNat_eq (hs.handle _ (FMap.mem_of_get? hv))

theorem State.listsCores.col {s : State} (hs : s.listsCores) (k : Nat) : ∀ e ∈ (s.col k).refusals, e.core < 768 := by
  unfold State.col FMap.getD
  cases h : FMap.get? s.cols k with
  | none => intro e he; cases he
  | some c => exact hs (k, c) (FMap.mem_of_get? h)

theorem State.listsCores.putCol {s : State} (hs : s.listsCores) {k : Nat} {c : Column} (hc : ∀ e ∈ c.refusals, e.core < 768) :
    (s.putCol k c).listsCores := by
  intro kv hkv
  rcases FMap.mem_set s.cols k c kv hkv with rfl | hkv
  · exact hc
  · exact hs kv hkv

theorem State.listsCores.mapVals {s u : State} {f : Nat → Column → Column} (hs : s.listsCores)
    (hu : u.cols = FMap.mapVals s.cols f) (hf : ∀ k c, ∀ e ∈ (f k c).refusals, e ∈ c.refusals) : u.listsCores := by
  intro kv hkv
  rw [hu] at hkv
  obtain ⟨q, hq, rfl⟩ := FMap.mem_mapVals hkv
  exact fun e he => hs q hq e (hf _ _ e he)

/-- Strands of a set may be gone, every other strand stands as it did but for its queue; what a tile holds besides is the same. -/
structure State.Thinned (gone : BitVec 64 → Prop) (s u : State) : Prop extends s.SameHeld u where
  indexed : s.Indexed → u.Indexed
  strand : s.Indexed → ∀ h, (gone h ∧ u.strand? h = none) ∨ ∃ c, u.strand? h = (s.strand? h).map (·.inClass c)

section
variable {gone : BitVec 64 → Prop} {s t u : State}

theorem State.Thinned.refl (s : State) : State.Thinned gone s s := ⟨.refl s, id, fun _ _ => .inr (exists_inClass _)⟩

theorem State.Thinned.trans (h : State.Thinned gone s t) (h' : State.Thinned gone t u) : State.Thinned gone s u := by
  refine ⟨h.toSameHeld.trans h'.toSameHeld, h'.indexed ∘ h.indexed, fun hs x => ?_⟩
  rcases h'.strand (h.indexed hs) x with hgone | ⟨c', hc'⟩
  · exact .inl hgone
  rcases h.strand hs x with ⟨hx, hnone⟩ | ⟨c, hc⟩
  · exact .inl ⟨hx, by rw [hc', hnone]; rfl⟩
  · exact .inr ⟨c', by rw [hc', hc, Option.map_map]; rfl⟩

theorem State.Thinned.mono {gone' : BitVec 64 → Prop} (h : State.Thinned gone s u) (hle : ∀ x, gone x → gone' x) :
    State.Thinned gone' s u :=
  ⟨h.toSameHeld, h.indexed, fun hs x => (h.strand hs x).imp_left (And.imp_left (hle x))⟩

theorem State.Thinned.foldl {α : Type} {f : State → α → State} (l : List α) (s : State)
    (hf : ∀ (s : State), ∀ a ∈ l, State.Thinned gone s (f s a)) : State.Thinned gone s (l.foldl f s) :=
  l.foldlRecOn f (motive := State.Thinned gone s) (.refl s) fun b hb a ha => hb.trans (hf b a ha)

/-- Strands untouched. -/
theorem State.Thinned.of_strands (hheld : s.SameHeld u) (hs : u.strands = s.strands) (hl : s.listsCores → u.listsCores) :
    State.Thinned gone s u := by
  refine ⟨hheld, fun hi => ⟨hs ▸ hi.sorted, hs ▸ hi.handle, hl hi.lists⟩, fun _ h => .inr ?_⟩
  rw [State.strand?, hs]
  exact exists_inClass _

theorem State.SameUnits.thinned (h : s.SameUnits u) : State.Thinned gone s u :=
  .of_strands h.toSameHeld h.strands fun hl => by rw [State.listsCores, h.cols]; exact hl

theorem State.Thinned.kept (h : State.Thinned gone s u) (hs : s.Indexed) {x : BitVec 64} {v : Strand} (hv : s.strand? x = some v)
    (hx : ¬ gone x) : ∃ c, u.strand? x = some (v.inClass c) := by
  rcases h.strand hs x with ⟨hg, -⟩ | ⟨c, hc⟩
  · exact absurd hg hx
  · exact ⟨c, by rw [hc, hv]; rfl⟩

theorem State.Thinned.none (h : State.Thinned gone s u) (hs : s.Indexed) {x : BitVec 64} (hx : s.strand? x = none) :
    u.strand? x = none := by
  rcases h.strand hs x with ⟨-, hn⟩ | ⟨c, hc⟩
  · exact hn
  · rw [hc, hx]; rfl

end

theorem State.eraseStrand_thinned (s : State) (h : BitVec 64) : State.Thinned (· = h) s (s.eraseStrand h) := by
  refine ⟨⟨rfl, rfl, rfl, rfl, rfl, _, _, _, rfl⟩, fun hi => ⟨FMap.erase_sorted _ hi.sorted, fun kv hkv => ?_, hi.lists⟩,
    fun hi x => ?_⟩
  · exact hi.handle kv (FMap.mem_erase _ _ kv hkv)
  · by_cases hx : x = h
    · exact .inl ⟨hx, hx ▸ FMap.get?_erase_self _ hi.sorted⟩
    · refine .inr ?_
      rw [show (s.eraseStrand h).strand? x = s.strand? x from
        FMap.get?_erase_ne hi.sorted fun hn => hx (BitVec.eq_of_toNat_eq hn)]
      exact exists_inClass _

theorem State.eraseStrand_strand? (s : State) (hs : s.Indexed) (h : BitVec 64) : (s.eraseStrand h).strand? h = none :=
  FMap.get?_erase_self _ hs.sorted

theorem State.unqueue_thinned {gone : BitVec 64 → Prop} (s : State) (h : BitVec 64) : State.Thinned gone s (s.unqueue h) :=
  .of_strands ⟨rfl, rfl, rfl, rfl, rfl, _, _, _, rfl⟩ rfl fun hl => by
    have hcols : (s.unqueue h).cols = FMap.mapVals s.cols fun _ c =>
      { c with resume := c.resume.filter (· != h), refusals := c.refusals.filter (fun e => e.handle != h) } := rfl
    exact hl.mapVals hcols fun _ _ _ he => (List.mem_filter.mp he).1

/-- A strand that can go on moves to its dock's resume list. -/
theorem State.rejoin_eq (s : State) (h : BitVec 64) : ∃ ss cs, s.rejoin h = { s with strands := ss, cols := cs } := by
  unfold State.rejoin
  split
  · exact ⟨_, _, rfl⟩
  · dsimp only
    split <;> exact ⟨_, _, rfl⟩

theorem State.rejoin_thinned {gone : BitVec 64 → Prop} (s : State) (h : BitVec 64) : State.Thinned gone s (s.rejoin h) := by
  unfold State.rejoin
  split
  next => exact .refl s
  next st hst =>
    dsimp only
    split
    next =>
      refine ⟨⟨rfl, rfl, rfl, rfl, rfl, _, _, _, rfl⟩, fun hi => ⟨FMap.set_sorted _ _ hi.sorted, fun kv hkv => ?_, ?_⟩,
        fun hi x => .inr ?_⟩
      · rcases FMap.mem_set _ _ _ kv hkv with rfl | hkv
        · rfl
        · exact hi.handle kv hkv
      · exact State.listsCores.putCol (s := s.putStrand _) hi.lists (hi.lists.col _)
      · have hkey : st.handle.toNat = h.toNat := congrArg _ (hi.handle_eq hst)
        show ∃ c, FMap.get? (FMap.set s.strands st.handle.toNat (st.inClass .resumed)) x.toNat = _
        by_cases hx : x = h
        · exact ⟨.resumed, by rw [hx, hst, hkey, FMap.get?_set_self]; rfl⟩
        · rw [FMap.get?_set_ne _ _ fun hn => hx (BitVec.eq_of_toNat_eq (hn.trans hkey))]
          exact exists_inClass _
    next => exact .refl s

theorem State.recordStatus_eq (s : State) (job code : Nat) : ∃ js, s.recordStatus job code = { s with jobs := js } := by
  unfold State.recordStatus
  split
  · split <;> exact ⟨_, rfl⟩
  · exact ⟨_, rfl⟩

/-- A failed item may set its job's status. -/
theorem State.itemFailed_eq (s : State) (id : Nat) (status5 : Bool) :
    ∃ is js, s.itemFailed id status5 = { s with items := is, jobs := js } := by
  unfold State.itemFailed
  split
  next it _ =>
    dsimp only
    split
    · obtain ⟨js, h⟩ := State.recordStatus_eq { s with items := FMap.set s.items id { it with failed := true } } it.job 5
      exact ⟨_, js, h⟩
    · exact ⟨_, _, rfl⟩
  next => exact ⟨_, _, rfl⟩

theorem State.itemFailed_thinned {gone : BitVec 64 → Prop} (s : State) (id : Nat) (b : Bool) :
    State.Thinned gone s (s.itemFailed id b) := by
  obtain ⟨_, _, h⟩ := s.itemFailed_eq id b
  rw [h]
  exact .of_strands ⟨rfl, rfl, rfl, rfl, rfl, _, _, _, rfl⟩ rfl fun hl => hl

/-! ### Reserved arrival entries (spec/06 R106) -/

/-- Cores of some tiles reserve entries for listed strands and recall them. -/
structure State.Reserves (place : Nat → Prop) (s u : State) : Prop extends s.SameHeld u where
  strands : u.strands = s.strands
  lists : s.listsCores → u.listsCores
  cores : ∀ kv ∈ u.cores, kv ∈ s.cores ∨ place (kv.1 / 768)

section
variable {place : Nat → Prop}

theorem State.Reserves.refl (s : State) : State.Reserves place s s := ⟨.refl s, rfl, id, fun _ => .inl⟩

theorem State.Reserves.trans {s t u : State} (h : State.Reserves place s t) (h' : State.Reserves place t u) :
    State.Reserves place s u :=
  ⟨h.toSameHeld.trans h'.toSameHeld, h'.strands.trans h.strands, h'.lists ∘ h.lists,
    fun kv hkv => (h'.cores kv hkv).elim (h.cores kv) .inr⟩

theorem State.SameUnits.reserves {s u : State} (h : s.SameUnits u) : State.Reserves place s u :=
  ⟨h.toSameHeld, h.strands, fun hl => by rw [State.listsCores, h.cols]; exact hl, fun kv hkv => .inl (h.cores ▸ hkv)⟩

theorem State.Reserves.thinned {gone : BitVec 64 → Prop} {s u : State} (h : State.Reserves place s u) :
    State.Thinned gone s u :=
  .of_strands h.toSameHeld h.strands h.lists

theorem State.putCol_reserves {s : State} {k : Nat} {c : Column} (hc : s.listsCores → ∀ e ∈ c.refusals, e.core < 768) :
    State.Reserves place s (s.putCol k c) :=
  ⟨⟨rfl, rfl, rfl, rfl, rfl, _, _, _, rfl⟩, rfl, fun hl => hl.putCol (hc hl), fun _ => .inl⟩

theorem State.putJob_reserves (s : State) (j : Job) : State.Reserves place s (s.putJob j) :=
  ⟨⟨rfl, rfl, rfl, rfl, rfl, _, _, _, rfl⟩, rfl, fun hl => hl, fun _ => .inl⟩

theorem State.putCore_reserves (s : State) {k : Nat} (hk : place (k / 768)) (c : Core) :
    State.Reserves place s (s.putCore k c) :=
  ⟨⟨rfl, rfl, rfl, rfl, rfl, _, _, _, rfl⟩, rfl, fun hl => hl,
    fun kv hkv => (FMap.mem_set _ _ _ kv hkv).elim (fun h => .inr (h ▸ hk)) .inl⟩

theorem State.reserveOne_reserves (s : State) {k : Nat} (hk : place (k / 768)) : State.Reserves place s (s.reserveOne k) := by
  unfold State.reserveOne
  dsimp only
  split
  · split
    next => exact .refl s
    next e _ =>
      refine ((State.putCol_reserves fun hl x hx => ?_).trans (State.putCore_reserves _ hk _)).trans
        (State.sendFrom_sameUnits _ _ _).reserves
      obtain ⟨y, hy, rfl⟩ := List.mem_map.mp hx
      have := hl.col _ y hy
      split <;> exact this
  · exact .refl s

theorem State.reserve_reserves (s : State) {k : Nat} (hk : place (k / 768)) : State.Reserves place s (s.reserve k) :=
  (List.range 8).foldlRecOn _ (motive := State.Reserves place s) (.refl s) fun b hb _ _ => hb.trans (b.reserveOne_reserves hk)

theorem State.reserveCol_reserves {s : State} (hl : s.listsCores) {key : Nat} (hkey : place (key / 16)) :
    State.Reserves place s (s.reserveCol key) := by
  refine List.foldlRecOn _ _ (motive := State.Reserves place s) (.refl s) fun b hb e he => hb.trans (b.reserve_reserves ?_)
  rwa [coreKey, mul_add_div_of_lt _ (hl.col key e he)]

end

theorem State.reserveCol_thinned {gone : BitVec 64 → Prop} (s : State) (key : Nat) : State.Thinned gone s (s.reserveCol key) :=
  .foldl _ s fun _ e _ =>
    (State.reserve_reserves (place := fun _ => True) _ (k := coreKey (key / 16) e.core) trivial).thinned

/-! ### Strands lost on their way (spec/11 R224, R225) -/

theorem State.withdraw_thinned {gone : BitVec 64 → Prop} (s : State) (st : Strand) : State.Thinned gone s (s.withdraw st) := by
  unfold State.withdraw
  split
  · exact (s.unqueue_thinned _).trans (State.reserveCol_thinned _ _)
  · exact s.unqueue_thinned _

theorem State.loseStrand_thinned (s : State) (h : BitVec 64) (known : Bool) :
    State.Thinned (· = h) s (s.loseStrand h known) := by
  unfold State.loseStrand
  split
  next => exact .refl s
  next st _ =>
    have hend := (s.withdraw_thinned st).trans (State.eraseStrand_thinned _ h)
    dsimp only
    split
    · exact hend.trans (State.putJob_reserves (place := fun _ => True) _ _).thinned
    · exact hend

/-- The strands that a tile loses are among its own. -/
def State.ownedBy (s : State) (t : Nat) (h : BitVec 64) : Prop := ∀ v, s.strand? h = some v → v.loc.tile = t

theorem indexed_of_keyed {s : State} (hk : Said.keyed s) : s.Indexed := by
  obtain ⟨hsorted, hhandle, hlists, -⟩ := hk
  exact ⟨hsorted, hhandle, hlists⟩

/-- What only the mesh has changed keeps strands under their handles and migrations at their senders. -/
theorem keyed_sameWays {s u : State} (hk : Said.keyed s) (h : s.SameWays u) : Said.keyed u := by
  obtain ⟨hsorted, hhandle, hlists, hmsgs, htransit, hsrc⟩ := hk
  refine ⟨h.strands ▸ hsorted, h.strands ▸ hhandle, h.cols ▸ hlists, h.msgs ▸ hmsgs, h.transit htransit,
    fun k x d m w v hm hw hv => ?_⟩
  obtain ⟨y, hy, hyw⟩ := h.src k w hw
  rw [← hyw]
  exact hsrc k x d m y v (h.msgs ▸ hm) hy (by rw [State.strand?, ← h.strands]; exact hv)

/-- Delivered messages leave the rest, each with its way, in place. -/
theorem State.unsendAll_msgs (l : List Nat) (s : State) (hm : FMap.sorted s.msgs = true) (ht : FMap.sorted s.transit = true) :
    let u := l.foldl State.unsend s
    FMap.sorted u.msgs = true ∧ FMap.sorted u.transit = true ∧ (∀ p ∈ u.msgs, p ∈ s.msgs) ∧ ∀ p ∈ u.transit, p ∈ s.transit :=
  l.foldlRecOn State.unsend (motive := fun u : State =>
    FMap.sorted u.msgs = true ∧ FMap.sorted u.transit = true ∧ (∀ p ∈ u.msgs, p ∈ s.msgs) ∧ ∀ p ∈ u.transit, p ∈ s.transit)
    ⟨hm, ht, fun _ => id, fun _ => id⟩ fun _ ⟨hbm, hbt, hms, hts⟩ id _ =>
      ⟨FMap.erase_sorted id hbm, FMap.erase_sorted id hbt, fun p hp => hms p (FMap.mem_erase _ _ p hp),
        fun p hp => hts p (FMap.mem_erase _ _ p hp)⟩

/-- Of the strands only those may be lost with the traffic of a tile that were on their way from it. -/
theorem State.trafficLost_thinned (s : State) (t : Nat) :
    State.Thinned (fun x => Said.keyed s → s.ownedBy t x) s (s.trafficLost t) := by
  unfold State.trafficLost
  dsimp only
  generalize hown : List.map Prod.fst (s.msgs.filter _) = own
  have hunsend : s.SameUnits (own.foldl State.unsend s) := .foldl State.unsend_sameUnits own s
  refine (hunsend.thinned.trans (State.sameUnits_outside _ ..).thinned).trans (.foldl _ _ fun b kv hkv => ?_)
  split
  next h d m w hmsg hway =>
    split
    next hcond =>
      refine (b.unsend_sameUnits _).thinned.trans ((State.loseStrand_thinned _ h false).mono ?_)
      intro y hy hk v hv
      obtain ⟨-, -, -, hmsgs, htransit, hsrc⟩ := hk
      obtain ⟨hsm, hst, hmem, hmemt⟩ := State.unsendAll_msgs own s hmsgs htransit
      rw [Bool.and_eq_true, decide_eq_true_eq] at hcond
      rw [FMap.get?_mapVals] at hway
      obtain ⟨x, hx, hxw⟩ := Option.map_eq_some_iff.mp hway
      have hxsrc : x.src = w.src := by rw [← hxw, apply_ite Transit.src, ite_self]
      have hin : (kv.1, kv.2) ∈ s.msgs := hmem _ hkv
      rw [hmsg] at hin
      rw [hy] at hv
      have hfrom := hsrc kv.1 h d m x v (FMap.get?_of_mem hmsgs hin)
        (FMap.get?_of_mem htransit (hmemt _ (FMap.mem_of_get? hx))) hv
      rw [← hfrom, hxsrc, hcond.1]
    next => exact .refl b
  next => exact .refl b

/-- Nor does the loss of its router cost other strands. -/
theorem State.routerTrafficLost_thinned (s : State) (site t : Nat) :
    State.Thinned (fun x => Said.keyed s → s.ownedBy t x) s ((s.routerLost site t).trafficLost t) := by
  have hways := s.routerLost_sameWays site t
  refine hways.toSameUnits.thinned.trans ((State.trafficLost_thinned _ t).mono fun x hx hk v hv => ?_)
  exact hx (keyed_sameWays hk hways) v (by rw [State.strand?, hways.strands]; exact hv)

end Sys2Proof.Machine
end

section
/-! SUPPORT. What a tile loses with its power (spec/11 R224). -/

namespace Sys2Proof.Machine

/-! ### The stages of the loss -/

/-- The strands that a tile loses: all but those in flight. -/
def State.lostWith (s : State) (t : Nat) : List Strand :=
  (s.strands.map (·.2)).filter fun st => st.loc.tile == t && st.status != .inFlight

/-- Who waits at the tile is answered, its items and tasks end, and its strands are gone. -/
def State.wipeStrands (s : State) (t : Nat) : State :=
  let s1 := (s.waitersAt t).foldl (fun s w => s.send (.fill w.1 w.2.1 w.2.2 0 none (some ⟨0, 13⟩))) s
  let s2 := (s.itemsAt t).foldl State.itemDone s1
  let s3 := (s.tasksOf t).foldl (fun s x => (s.itemFailed x.item true).rejoin x.poster) s2
  (s.lostWith t).foldl (fun s st => (s.unqueue st.handle).eraseStrand st.handle) s3

/-- Its units and memory are at reset. -/
def State.wipeUnits (s : State) (t : Nat) (gone : List Strand) : State :=
  let s1 := { s with
    items := s.items.filter (fun kv => !(kv.2.failed && gone.any (fun st => st.handle == kv.2.handle)))
    cores := s.cores.filter (fun kv => kv.1 / 768 != t)
    cols := FMap.mapVals s.cols (fun k (c : Column) => if k / 16 = t then Column.wiped c else c)
    quads := s.quads.filter (fun kv => kv.1 / 4 != t)
    engines := s.engines.filter (fun kv => kv.1 / 4 != t)
    mem := s.mem.clear (t * 2 ^ 36) ((t + 1) * 2 ^ 36)
    sram := s.sram.clear (sramKey (4 * t) 0 0) (sramKey (4 * t + 4) 0 0)
    badLines := s.badLines.filter (fun l =>
      !((decide (t * 2 ^ 30 ≤ l) && decide (l < (t + 1) * 2 ^ 30))
        || (decide (sramLine (sramKey (4 * t) 0 0) ≤ l) && decide (l < sramLine (sramKey (4 * t + 4) 0 0))))) }
  s1.putTile t (s1.tile t).wiped

/-- A retirement of the tile that has not copied it yet ends. -/
def State.wipeRetire (s : State) (t : Nat) : State :=
  match s.head.retire with
  | some r => if r.tile = t && !r.copied then { s with head := { s.head with retire := none } } else s
  | none => s

/-- Entries that lost strands had reserved go to others. -/
def State.reserveOthers (s : State) (t : Nat) : State :=
  s.cols.foldl (fun s kv => if kv.1 / 16 = t then s else s.reserveCol kv.1) s

theorem State.wipeTile_eq (s : State) (t : Nat) : s.wipeTile t =
    ((((s.wipeStrands t).wipeUnits t (s.lostWith t)).orphanJobs t).wipeRetire t).reserveOthers t := rfl

/-! ### Strands -/

theorem State.mem_lostWith {s : State} {t : Nat} {st : Strand} (hs : s.Indexed) :
    st ∈ s.lostWith t ↔ s.strand? st.handle = some st ∧ st.loc.tile = t ∧ st.status ≠ .inFlight := by
  simp only [State.lostWith, List.mem_filter, List.mem_map, Bool.and_eq_true, beq_iff_eq, bne_iff_ne]
  refine and_congr_left fun _ => ⟨?_, fun h => ⟨_, FMap.mem_of_get? h, rfl⟩⟩
  rintro ⟨kv, hkv, rfl⟩
  rw [State.strand?, hs.handle kv hkv]
  exact FMap.get?_of_mem hs.sorted hkv

/-- One strand leaves the queues and the panel. -/
theorem State.dropStrand_thinned (s : State) (h : BitVec 64) :
    State.Thinned (· = h) s ((s.unqueue h).eraseStrand h) :=
  (s.unqueue_thinned h).trans (State.eraseStrand_thinned _ h)

/-- Strands that leave one after another are gone. -/
theorem State.dropAll_strand? (l : List Strand) {st : Strand} (hst : st ∈ l) {s : State} (hs : s.Indexed) :
    (l.foldl (fun s st => (s.unqueue st.handle).eraseStrand st.handle) s).strand? st.handle = none := by
  induction l generalizing s with
  | nil => cases hst
  | cons x l ih =>
    have hs' := (s.dropStrand_thinned x.handle).indexed hs
    rcases List.mem_cons.mp hst with rfl | hst
    · have hrest : State.Thinned (fun _ => True) _ (l.foldl (fun s st => (s.unqueue st.handle).eraseStrand st.handle) _) :=
        .foldl l ((s.unqueue st.handle).eraseStrand st.handle) fun b y _ => (b.dropStrand_thinned y.handle).mono fun _ _ => trivial
      exact hrest.none hs' (State.eraseStrand_strand? _ ((s.unqueue_thinned (gone := fun _ => True) _).indexed hs) _)
    · exact ih hst hs'

theorem State.itemDone_thinned {gone : BitVec 64 → Prop} (s : State) (id : Nat) : State.Thinned gone s (s.itemDone id) :=
  .of_strands ⟨rfl, rfl, rfl, rfl, rfl, _, _, _, rfl⟩ rfl fun hl => hl

/-- Before a tile's strands are gone, no strand is. -/
theorem State.wipeAnswers_thinned {gone : BitVec 64 → Prop} (s : State) (t : Nat) : State.Thinned gone s
    ((s.tasksOf t).foldl (fun s x => (s.itemFailed x.item true).rejoin x.poster)
      ((s.itemsAt t).foldl State.itemDone
        ((s.waitersAt t).foldl (fun s w => s.send (.fill w.1 w.2.1 w.2.2 0 none (some ⟨0, 13⟩))) s))) := by
  refine (State.Thinned.trans ?_ (.foldl _ _ fun b id _ => b.itemDone_thinned id)).trans
    (.foldl _ _ fun b x _ => (b.itemFailed_thinned x.item true).trans (State.rejoin_thinned _ x.poster))
  exact (State.SameUnits.foldl (fun s w => s.send_sameUnits _) _ s).thinned

theorem State.wipeStrands_thinned (s : State) (t : Nat) :
    State.Thinned (fun x => s.Indexed → s.ownedBy t x) s (s.wipeStrands t) := by
  refine (s.wipeAnswers_thinned t).trans (.foldl _ _ fun b st hst => (b.dropStrand_thinned st.handle).mono ?_)
  rintro _ rfl hs v hv
  obtain ⟨hat, htile, -⟩ := (State.mem_lostWith hs).mp hst
  rw [hat] at hv
  cases hv
  exact htile

theorem State.wipeStrands_strand? {s : State} (hs : s.Indexed) {t : Nat} {h : BitVec 64} {v : Strand} (hv : s.strand? h = some v)
    (ht : v.loc.tile = t) (hfly : v.status ≠ .inFlight) : (s.wipeStrands t).strand? h = none := by
  have hh := hs.handle_eq hv
  have hmem : v ∈ s.lostWith t := (State.mem_lostWith hs).mpr ⟨by rw [hh]; exact hv, ht, hfly⟩
  rw [← hh]
  exact State.dropAll_strand? _ hmem ((s.wipeAnswers_thinned (gone := fun _ => True) t).indexed hs)

/-! ### Units -/

theorem State.wipeUnits_listsCores {s : State} (hl : s.listsCores) (t : Nat) (gone : List Strand) :
    (s.wipeUnits t gone).listsCores := by
  refine hl.mapVals (f := fun k c => if k / 16 = t then Column.wiped c else c) rfl fun k c e he => ?_
  split at he
  · cases he
  · exact he

theorem State.orphanJobs_reserves {place : Nat → Prop} (s : State) (t : Nat) : State.Reserves place s (s.orphanJobs t) :=
  List.foldlRecOn _ _ (motive := State.Reserves place s) (.refl s) fun b hb j _ =>
    (hb.trans (b.putJob_reserves _)).trans (State.raiseJob_sameUnits _ _ j _).reserves

theorem State.wipeRetire_reserves {place : Nat → Prop} (s : State) (t : Nat) : State.Reserves place s (s.wipeRetire t) := by
  unfold State.wipeRetire
  split
  · split
    · exact ⟨⟨rfl, rfl, rfl, rfl, rfl, _, _, _, rfl⟩, rfl, fun hl => hl, fun _ => .inl⟩
    · exact .refl s
  · exact .refl s

theorem State.reserveOthers_reserves {s : State} (hl : s.listsCores) (t : Nat) :
    State.Reserves (· ≠ t) s (s.reserveOthers t) := by
  refine List.foldlRecOn _ _ (motive := State.Reserves (· ≠ t) s) (.refl s) fun b hb kv _ => ?_
  split
  next => exact hb
  next hne => exact hb.trans (State.reserveCol_reserves (hb.lists hl) hne)

theorem State.reserveOthers_sameHeld (s : State) (t : Nat) : s.SameHeld (s.reserveOthers t) := by
  refine List.foldlRecOn _ _ (motive := s.SameHeld) (.refl s) fun b hb kv _ => ?_
  split
  · exact hb
  · exact hb.trans (b.reserveCol_thinned (gone := fun _ => True) kv.1).toSameHeld

/-- After its units are at reset, only other tiles' cores take part. -/
theorem State.wipeTile_reserves {s : State} (hs : s.Indexed) (t : Nat) :
    State.Reserves (· ≠ t) ((s.wipeStrands t).wipeUnits t (s.lostWith t)) (s.wipeTile t) := by
  rw [s.wipeTile_eq t]
  have hl := State.wipeUnits_listsCores ((State.wipeStrands_thinned s t).indexed hs).lists t (s.lostWith t)
  have hends := (State.orphanJobs_reserves (place := (· ≠ t)) ((s.wipeStrands t).wipeUnits t (s.lostWith t)) t).trans
    (State.wipeRetire_reserves _ t)
  exact hends.trans (State.reserveOthers_reserves (hends.lists hl) t)

theorem State.wipeTile_sameHeld (s : State) (t : Nat) :
    State.SameHeld ((s.wipeStrands t).wipeUnits t (s.lostWith t)) (s.wipeTile t) := by
  rw [s.wipeTile_eq t]
  exact ((State.orphanJobs_reserves (place := fun _ => True) _ t).toSameHeld.trans
    (State.wipeRetire_reserves (place := fun _ => True) _ t).toSameHeld).trans (State.reserveOthers_sameHeld _ t)

theorem State.wipeUnits_tile (s : State) (t : Nat) (gone : List Strand) : (s.wipeUnits t gone).tile t = (s.tile t).wiped :=
  FMap.getD_set_self _ _ _ _

/-! ### All of it together -/

theorem State.wipeTile_tile (s : State) (t : Nat) : (s.wipeTile t).tile t = (s.tile t).wiped := by
  rw [(s.wipeTile_sameHeld t).tile, State.wipeUnits_tile, (s.wipeStrands_thinned t).tile]

/-- A strand that may be lost with its way may be lost from the beginning. -/
theorem State.ownedBy_of_thinned {s u : State} {t : Nat} {x : BitVec 64} (h : State.Thinned (s.ownedBy t) s u) (hs : s.Indexed)
    (hx : u.ownedBy t x) : s.ownedBy t x := by
  rcases h.strand hs x with ⟨hown, -⟩ | ⟨c, hc⟩
  · exact hown
  · intro v hv
    exact hx (v.inClass c) (by rw [hc, hv]; rfl)

/-- A tile that loses its power holds nothing any more, whatever strands of its own were lost before. -/
theorem State.wipeTile_lostAll {s u : State} {t : Nat} (hs : s.Indexed) (hmem : s.mem.wf = true)
    (h : State.Thinned (s.ownedBy t) s u) : Said.lostAll s (u.wipeTile t) t := by
  have hu := h.indexed hs
  have hstrands := (u.wipeStrands_thinned t).mono (gone' := u.ownedBy t) fun _ hx => hx hu
  have hend := State.wipeTile_reserves hu t
  have hall := h.trans (hstrands.mono fun _ => State.ownedBy_of_thinned h hs)
  have hst (x : BitVec 64) : (u.wipeTile t).strand? x = (u.wipeStrands t).strand? x := by
    rw [State.strand?, hend.strands]; rfl
  have hclear : (u.wipeTile t).mem = s.mem.clear (t * 2 ^ 36) ((t + 1) * 2 ^ 36) := by
    rw [hend.mem, ← hall.mem]; rfl
  refine ⟨fun x v hv ht hfly => ?_, fun x v hv ht => ?_, fun kv hkv => ?_, fun kv hkv => ?_, fun kv hkv => ?_, fun a ha => ?_,
    fun a ha => ?_, ?_⟩
  · rw [hst]
    rcases h.strand hs x with ⟨-, hnone⟩ | ⟨c, hc⟩
    · exact hstrands.none hu hnone
    · exact State.wipeStrands_strand? hu (v := v.inClass c) (by rw [hc, hv]; rfl) ht hfly
  · rw [hst]
    exact hall.kept hs hv fun hown => ht (hown v hv)
  · rcases hend.cores kv hkv with hin | hne
    · simpa using (List.mem_filter.mp hin).2
    · exact hne
  · rw [hend.engines] at hkv
    simpa using (List.mem_filter.mp hkv).2
  · rw [hend.quads] at hkv
    simpa using (List.mem_filter.mp hkv).2
  · rw [hclear, Memory.byte_clear_in hmem ha]
  · rw [hclear, Memory.byte_clear_out hmem ha]
  · rw [u.wipeTile_tile t]
    exact ⟨rfl, rfl, rfl, rfl, rfl, rfl⟩

theorem State.wipeTile_head (s : State) (t : Nat) :
    ∃ x b r, (s.wipeTile t).head = { s.head with update := x, stale := b, retire := r } := by
  obtain ⟨_, _, _, h⟩ := (s.wipeStrands_thinned t).head
  obtain ⟨x, b, r, h'⟩ := (s.wipeTile_sameHeld t).head
  refine ⟨x, b, r, h'.trans ?_⟩
  rw [show ((s.wipeStrands t).wipeUnits t (s.lostWith t)).head = _ from h]

theorem State.wipeTile_sites (s : State) (t : Nat) : (s.wipeTile t).sites = s.sites :=
  (s.wipeTile_sameHeld t).sites.trans (s.wipeStrands_thinned t).sites

/-- What a tile has lost stays lost while its units stay as they are. -/
theorem lostAll_sameUnits {s u v : State} {t : Nat} (h : Said.lostAll s u t) (hv : u.SameUnits v) : Said.lostAll s v t := by
  simpa only [Said.lostAll, State.strand?, State.tile, hv.strands, hv.cores, hv.engines, hv.quads, hv.mem, hv.tiles] using h

/-! ### Notices (spec/02 R38) -/

theorem State.mem_liveTiles {s : State} {n : Nat} : n ∈ s.liveTiles ↔ n < 64 ∧ s.tileLive n = true := by
  simp [State.liveTiles]

theorem State.noticeLoss_sameUnits (s : State) (t : Nat) : s.SameUnits (s.noticeLoss t) :=
  (s.raiseMain_sameUnits _ _ _).trans (.foldl (fun s n => s.sendFrom_sameUnits 64 (.lossNote n t)) _ _)

theorem State.noticeLoss_head (s : State) (t : Nat) : (s.noticeLoss t).head = s.head :=
  (State.sendAll_head _ _ _ _).trans (s.raiseMain_head _ _ _)

theorem State.noticeLoss_sent {s : State} {t n : Nat} (hn : n < 64) (hne : n ≠ t) (hlive : s.tileLive n = true) :
    ∃ i, FMap.get? (s.noticeLoss t).msgs i = some (.lossNote n t) := by
  refine State.sendAll_sent 64 (fun n => .lossNote n t) (List.mem_filter.mpr ⟨State.mem_liveTiles.mpr ⟨hn, ?_⟩, by simpa using hne⟩) _
  rw [(s.raiseMain_sameUnits _ _ _).tileLive]
  exact hlive

theorem State.noticeSite_sameUnits (s : State) : s.SameUnits s.noticeSite :=
  .foldl (fun s n => s.sendFrom_sameUnits 64 (.lossNote n 64)) _ s

theorem State.noticeSite_routers (s : State) : s.noticeSite.routers = s.routers := State.sendAll_routers _ _ _ _

theorem State.noticeSite_sent {s : State} {n : Nat} (hn : n < 64) (hlive : s.tileLive n = true) :
    ∃ i, FMap.get? s.noticeSite.msgs i = some (.lossNote n 64) :=
  State.sendAll_sent 64 (fun n => .lossNote n 64) (State.mem_liveTiles.mpr ⟨hn, hlive⟩) s

end Sys2Proof.Machine
end

section
/-! SUPPORT. A lost tile's place in the binding, and tiles without a path (spec/02 R35, R37, R38). -/

namespace Sys2Proof.Machine

/-! ### A tile is marked Vacant -/

/-- What is lost of a tile's traffic with its router. -/
def State.loseWays (s : State) (t site : Nat) : State :=
  if site < 72 then ((s.routerLost site t).trafficLost t).siteDown site else s

/-- The tile is known as lost, and no suspension waits for it. -/
def State.markVacant (s : State) (t site : Nat) : State :=
  { s with
    jobs := FMap.mapVals s.jobs (fun _ (j : Job) => { j with tilesLeft := j.tilesLeft.filter (· != t) })
    head := { s.head with lost := s.head.lost ++ [t], remap := FMap.set s.head.remap t (remapEntry 3 site) } }

theorem State.loseTile_eq {s : State} {t site : Nat} (hsite : s.siteOf t = some site) : s.loseTile t =
    (((((s.loseWays t site).wipeTile t).markVacant t site).updateWithout site).startUpdate).noticeLoss t := by
  unfold State.loseTile
  rw [hsite]; rfl

theorem State.loseWays_thinned (s : State) (t site : Nat) :
    State.Thinned (fun x => Said.keyed s → s.ownedBy t x) s (s.loseWays t site) := by
  unfold State.loseWays
  split
  · exact (s.routerTrafficLost_thinned site t).trans (State.siteDown_sameWays _ site).toSameUnits.thinned
  · exact .refl s

/-- The tables change without the site and every tile is told. -/
theorem State.tellLoss_sameUnits (s : State) (t site : Nat) : s.SameUnits ((s.updateWithout site).startUpdate.noticeLoss t) :=
  ((s.updateWithout_sameUnits site).trans (State.startUpdate_sameUnits _)).trans (State.noticeLoss_sameUnits _ t)

section
variable {s : State} {t site : Nat} (hsite : s.siteOf t = some site)
include hsite

theorem State.loseTile_lostAll (hmem : s.mem.wf = true) (hk : Said.keyed s) : Said.lostAll s (s.loseTile t) t := by
  have hwipe := State.wipeTile_lostAll (indexed_of_keyed hk) hmem ((s.loseWays_thinned t site).mono fun _ h => h hk)
  rw [State.loseTile_eq hsite]
  exact lostAll_sameUnits (u := ((s.loseWays t site).wipeTile t).markVacant t site) hwipe (State.tellLoss_sameUnits _ t site)

theorem State.loseTile_sites : (s.loseTile t).sites = s.sites := by
  rw [State.loseTile_eq hsite, (State.tellLoss_sameUnits _ t site).sites]
  exact (State.wipeTile_sites _ t).trans (s.loseWays_thinned t site).sites

theorem State.loseTile_head : ∃ x b r, (s.loseTile t).head = { s.head with
    update := x, stale := b, retire := r, lost := s.head.lost ++ [t]
    remap := FMap.set s.head.remap t (remapEntry 3 site) } := by
  obtain ⟨x, b, r, h⟩ := (State.tellLoss_sameUnits (((s.loseWays t site).wipeTile t).markVacant t site) t site).head
  obtain ⟨_, _, _, hwipe⟩ := State.wipeTile_head (s.loseWays t site) t
  obtain ⟨_, _, _, hways⟩ := (s.loseWays_thinned t site).head
  refine ⟨x, b, r, ?_⟩
  rw [State.loseTile_eq hsite, h]
  simp only [State.markVacant, hwipe, hways]

theorem State.loseTile_update : (s.loseTile t).head.update.isSome = true := by
  rw [State.loseTile_eq hsite, State.noticeLoss_head]
  exact State.startUpdate_isSome _

theorem State.loseTile_siteOf {n : Nat} (hn : n ≠ t) : (s.loseTile t).siteOf n = s.siteOf n := by
  obtain ⟨_, _, _, h⟩ := State.loseTile_head hsite
  simp only [State.siteOf, h, FMap.getD_set_ne _ _ _ hn]

theorem State.loseTile_tileLive {n : Nat} (hn : n ≠ t) : (s.loseTile t).tileLive n = s.tileLive n := by
  obtain ⟨_, _, _, h⟩ := State.loseTile_head hsite
  simp [State.tileLive, h, hn]

theorem State.loseTile_sent {n : Nat} (hn : n < 64) (hne : n ≠ t) (hlive : s.tileLive n = true) :
    ∃ i, FMap.get? (s.loseTile t).msgs i = some (.lossNote n t) := by
  rw [← State.loseTile_tileLive hsite hne, State.loseTile_eq hsite, (State.noticeLoss_sameUnits _ t).tileLive] at hlive
  rw [State.loseTile_eq hsite]
  exact State.noticeLoss_sent hn hne hlive

end

/-! ### A site's status -/

@[simp] theorem State.setSite_head (s : State) (k : Nat) (v : SiteStatus) : (s.setSite k v).head = s.head := rfl
@[simp] theorem State.setSite_msgs (s : State) (k : Nat) (v : SiteStatus) : (s.setSite k v).msgs = s.msgs := rfl
@[simp] theorem State.setSite_routers (s : State) (k : Nat) (v : SiteStatus) : (s.setSite k v).routers = s.routers := rfl
@[simp] theorem State.setSite_siteOf (s : State) (k : Nat) (v : SiteStatus) (t : Nat) : (s.setSite k v).siteOf t = s.siteOf t := rfl
@[simp] theorem State.setSite_tileLive (s : State) (k : Nat) (v : SiteStatus) (t : Nat) :
    (s.setSite k v).tileLive t = s.tileLive t := rfl

theorem State.setSite_site_self (s : State) (k : Nat) (v : SiteStatus) : (s.setSite k v).site k = { s.site k with status := v } :=
  FMap.getD_set_self _ _ _ _

theorem State.setSite_site_ne (s : State) {k j : Nat} (v : SiteStatus) (h : j ≠ k) : (s.setSite k v).site j = s.site j :=
  FMap.getD_set_ne _ _ _ h

theorem lostAll_setSite {s u : State} {t : Nat} (k : Nat) (v : SiteStatus) (h : Said.lostAll s u t) :
    Said.lostAll s (u.setSite k v) t := h

/-! ### Tiles without a path to the head gardener -/

/-- The routers that it reached before and reaches no longer. -/
def State.unreached (s : State) (before : FMap Nat) : FMap Nat := before.filter fun kv => (FMap.get? s.reached kv.1).isNone

/-- A tile on such a site is lost. -/
def State.loseIfGone (gone : FMap Nat) (s : State) (t : Nat) : State :=
  match s.siteOf t with
  | some k => if s.tileLive t && (FMap.get? gone k).isSome then (s.loseTile t).setSite k .failed else s
  | none => s

/-- The old site of a copied retirement, where it is such a one, is lost with its flits. -/
def State.loseOldSite (s : State) (gone : FMap Nat) : State :=
  match s.head.retire with
  | some r => if (FMap.get? gone r.oldSite).isSome && r.copied then
      (((s.routerLost r.oldSite 64).updateWithout r.oldSite).setSite r.oldSite .failed).noticeSite
    else s
  | none => s

theorem State.cutOff_eq (s : State) (before : FMap Nat) :
    s.cutOff before = (List.range 64).foldl (State.loseIfGone (s.unreached before)) (s.loseOldSite (s.unreached before)) := rfl

theorem State.unreached_isSome {s : State} {before : FMap Nat} {k : Nat} (hs : FMap.sorted before = true)
    (hb : (FMap.get? before k).isSome = true) (hk : FMap.get? s.reached k = none) :
    (FMap.get? (s.unreached before) k).isSome = true := by
  rw [State.unreached, FMap.get?_filter_key hs fun j => (FMap.get? s.reached j).isNone, hk]
  exact hb

theorem State.unreached_eq_none {s : State} (before : FMap Nat) {k : Nat} (hk : (FMap.get? s.reached k).isSome = true) :
    FMap.get? (s.unreached before) k = none := by
  refine Option.eq_none_iff_forall_ne_some.mpr fun v hv => ?_
  have hnone := (List.mem_filter.mp (FMap.mem_of_get? hv)).2
  rw [Option.isNone_iff_eq_none] at hnone
  rw [hnone] at hk
  cases hk

theorem State.loseIfGone_lost {gone : FMap Nat} {s : State} {t k : Nat} (hsite : s.siteOf t = some k) (hlive : s.tileLive t = true)
    (hgone : (FMap.get? gone k).isSome = true) : s.loseIfGone gone t = (s.loseTile t).setSite k .failed := by
  simp only [State.loseIfGone, hsite, hlive, hgone, Bool.and_self, if_true]

/-- One step either leaves the state or loses the tile on its site. -/
theorem State.loseIfGone_cases (gone : FMap Nat) (s : State) (t : Nat) :
    s.loseIfGone gone t = s ∨ ∃ k, s.siteOf t = some k ∧ s.tileLive t = true ∧ (FMap.get? gone k).isSome = true ∧
      s.loseIfGone gone t = (s.loseTile t).setSite k .failed := by
  unfold State.loseIfGone
  split
  next k hk =>
    split
    next h =>
      rw [Bool.and_eq_true] at h
      exact .inr ⟨k, hk, h.1, h.2, rfl⟩
    next => exact .inl rfl
  next => exact .inl rfl

theorem State.loseIfGone_kept {gone : FMap Nat} {s : State} {t : Nat}
    (h : ∀ k, s.siteOf t = some k → s.tileLive t = true → FMap.get? gone k = none) : s.loseIfGone gone t = s := by
  rcases s.loseIfGone_cases gone t with hs | ⟨k, hk, hlive, hgone, -⟩
  · exact hs
  · rw [h k hk hlive] at hgone
    cases hgone

theorem State.loseIfGone_siteOf {gone : FMap Nat} {s : State} {n t : Nat} (hn : n ≠ t) :
    (s.loseIfGone gone t).siteOf n = s.siteOf n := by
  rcases s.loseIfGone_cases gone t with hs | ⟨k, hk, -, -, hs⟩
  · rw [hs]
  · rw [hs, State.setSite_siteOf, State.loseTile_siteOf hk hn]

theorem State.loseIfGone_tileLive {gone : FMap Nat} {s : State} {n t : Nat} (hn : n ≠ t) :
    (s.loseIfGone gone t).tileLive n = s.tileLive n := by
  rcases s.loseIfGone_cases gone t with hs | ⟨k, hk, -, -, hs⟩
  · rw [hs]
  · rw [hs, State.setSite_tileLive, State.loseTile_tileLive hk hn]

/-- The head gardener knows a tile as lost with its site. -/
structure State.KnowsLost (t k : Nat) (s : State) : Prop where
  vacant : FMap.get? s.head.remap t = some (remapEntry 3 k)
  lost : t ∈ s.head.lost
  failed : (s.site k).status = .failed
  update : s.head.update.isSome = true

theorem State.loseTile_knowsLost {s : State} {t k : Nat} (hsite : s.siteOf t = some k) :
    ((s.loseTile t).setSite k .failed).KnowsLost t k := by
  obtain ⟨_, _, _, h⟩ := State.loseTile_head hsite
  refine ⟨?_, ?_, by rw [State.setSite_site_self], by rw [State.setSite_head, State.loseTile_update hsite]⟩
  · rw [State.setSite_head, h]; exact FMap.get?_set_self _ _ _
  · rw [State.setSite_head, h]; exact List.mem_append_right _ (.head _)

/-- A further loss takes nothing of that back. -/
theorem State.KnowsLost.loseIfGone {s : State} {t k n : Nat} (h : s.KnowsLost t k) (gone : FMap Nat) (hn : n ≠ t) :
    (s.loseIfGone gone n).KnowsLost t k := by
  rcases s.loseIfGone_cases gone n with hs | ⟨j, hj, -, -, hs⟩
  · rwa [hs]
  · have hlost := State.loseTile_knowsLost hj
    obtain ⟨_, _, _, hhead⟩ := State.loseTile_head hj
    rw [hs]
    refine ⟨?_, ?_, ?_, hlost.update⟩
    · rw [State.setSite_head, hhead]
      exact (FMap.get?_set_ne _ _ hn.symm).trans h.vacant
    · rw [State.setSite_head, hhead]
      exact List.mem_append_left _ h.lost
    · by_cases hkj : k = j
      · rw [hkj]
        exact hlost.failed
      · rw [State.setSite_site_ne _ _ hkj, State.site, State.loseTile_sites hj]
        exact h.failed

/-- Each tile of a list that is on a site without a path is known as lost after the list. -/
theorem State.loseAll_knowsLost {gone : FMap Nat} {s : State} {t k : Nat} {l : List Nat} (hl : l.Nodup) (ht : t ∈ l)
    (hsite : s.siteOf t = some k) (hlive : s.tileLive t = true) (hgone : (FMap.get? gone k).isSome = true) :
    (l.foldl (State.loseIfGone gone) s).KnowsLost t k := by
  obtain ⟨l₁, l₂, rfl⟩ := List.append_of_mem ht
  have hne₁ : ∀ n ∈ l₁, n ≠ t := fun n hn => (List.nodup_append.mp hl).2.2 n hn t (.head _)
  have hne₂ : ∀ n ∈ l₂, n ≠ t := fun n hn e => (List.nodup_cons.mp (List.nodup_append.mp hl).2.1).1 (e ▸ hn)
  have hbefore : (l₁.foldl (State.loseIfGone gone) s).siteOf t = some k ∧ (l₁.foldl (State.loseIfGone gone) s).tileLive t = true :=
    l₁.foldlRecOn _ (motive := fun u : State => u.siteOf t = some k ∧ u.tileLive t = true) ⟨hsite, hlive⟩ fun b hb n hn =>
      ⟨(State.loseIfGone_siteOf (hne₁ n hn).symm).trans hb.1, (State.loseIfGone_tileLive (hne₁ n hn).symm).trans hb.2⟩
  rw [List.foldl_append, List.foldl_cons, State.loseIfGone_lost hbefore.1 hbefore.2 hgone]
  exact l₂.foldlRecOn _ (motive := State.KnowsLost t k) (State.loseTile_knowsLost hbefore.1)
    fun b hb n hn => hb.loseIfGone gone (hne₂ n hn)

/-- Where every tile of a list has a path, nothing happens. -/
theorem State.loseAll_kept {gone : FMap Nat} {s : State} {l : List Nat}
    (h : ∀ n ∈ l, ∀ k, s.siteOf n = some k → s.tileLive n = true → FMap.get? gone k = none) :
    l.foldl (State.loseIfGone gone) s = s :=
  l.foldlRecOn _ (motive := (· = s)) rfl fun b hb n hn => by rw [hb]; exact State.loseIfGone_kept (h n hn)

/-- Where it is the only tile of a list without a path, it alone is lost. -/
theorem State.loseAll_single {gone : FMap Nat} {s : State} {t k : Nat} {l : List Nat} (hl : l.Nodup) (ht : t ∈ l)
    (hsite : s.siteOf t = some k) (hlive : s.tileLive t = true) (hgone : (FMap.get? gone k).isSome = true)
    (hothers : ∀ n ∈ l, n ≠ t → ∀ j, s.siteOf n = some j → FMap.get? gone j = none) :
    l.foldl (State.loseIfGone gone) s = (s.loseTile t).setSite k .failed := by
  obtain ⟨l₁, l₂, rfl⟩ := List.append_of_mem ht
  have hne₁ : ∀ n ∈ l₁, n ≠ t := fun n hn => (List.nodup_append.mp hl).2.2 n hn t (.head _)
  have hne₂ : ∀ n ∈ l₂, n ≠ t := fun n hn e => (List.nodup_cons.mp (List.nodup_append.mp hl).2.1).1 (e ▸ hn)
  have hbefore : l₁.foldl (State.loseIfGone gone) s = s :=
    State.loseAll_kept fun n hn j hj _ => hothers n (List.mem_append_left _ hn) (hne₁ n hn) j hj
  rw [List.foldl_append, hbefore, List.foldl_cons, State.loseIfGone_lost hsite hlive hgone]
  refine State.loseAll_kept fun n hn j hj _ => ?_
  rw [State.setSite_siteOf, State.loseTile_siteOf hsite (hne₂ n hn)] at hj
  exact hothers n (List.mem_append_right _ (.tail _ hn)) (hne₂ n hn) j hj

theorem State.loseOldSite_of_none {s : State} (gone : FMap Nat) (h : s.head.retire = none) : s.loseOldSite gone = s := by
  simp only [State.loseOldSite, h]

theorem State.loseOldSite_head (s : State) (gone : FMap Nat) :
    ∃ x b r, (s.loseOldSite gone).head = { s.head with update := x, stale := b, retire := r } := by
  unfold State.loseOldSite
  split
  next r _ =>
    split
    · obtain ⟨x, b, y, h⟩ := ((s.routerLost_sameWays r.oldSite 64).toSameUnits.trans
        (State.updateWithout_sameUnits _ r.oldSite)).head
      exact ⟨x, b, y, (State.sendAll_head _ _ _ _).trans h⟩
    · exact ⟨_, _, _, rfl⟩
  next => exact ⟨_, _, _, rfl⟩

theorem State.cutOff_eq_self {s : State} (before : FMap Nat) (hretire : s.head.retire = none)
    (h : ∀ n j, n < 64 → s.siteOf n = some j → s.tileLive n = true → (FMap.get? s.reached j).isSome = true) :
    s.cutOff before = s := by
  rw [State.cutOff_eq, State.loseOldSite_of_none _ hretire]
  exact State.loseAll_kept fun n hn j hj hlive => State.unreached_eq_none before (h n j (List.mem_range.mp hn) hj hlive)

/-! ### The old site of a retirement -/

theorem State.routerLost_buf (s : State) (site t : Nat) : ((s.routerLost site t).router site).buf = [] := by
  unfold State.routerLost
  dsimp only
  refine List.foldlRecOn _ _ (motive := fun u : State => (u.router site).buf = []) ?_ fun b hb f _ => ?_
  · refine List.foldlRecOn _ _ (motive := fun u : State => (u.router site).buf = []) ?_ fun b hb e _ => ?_
    · exact congrArg Router.buf (FMap.getD_set_self _ _ _ _)
    · obtain ⟨q, p⟩ := e
      by_cases h : site = q
      · subst h
        exact (congrArg Router.buf (FMap.getD_set_self _ _ _ _)).trans hb
      · exact (congrArg Router.buf (FMap.getD_set_ne _ _ _ h)).trans hb
  · rw [State.router, (b.flitGone_routers t f.id)]
    exact hb

theorem State.updateWithout_routers (s : State) (r : Nat) : (s.updateWithout r).routers = s.routers := by
  unfold State.updateWithout State.commitWhenAll
  split
  · dsimp only
    split
    · obtain ⟨_, _, h⟩ := State.sendEach_eq { s with head := _ } _ Msg.tableCommit
      rw [h]
    · rfl
  · rfl

theorem State.loseOldSite_copied {s : State} {gone : FMap Nat} {r : Retirement} (hr : s.head.retire = some r)
    (hcopied : r.copied = true) (hgone : (FMap.get? gone r.oldSite).isSome = true) :
    ((s.loseOldSite gone).site r.oldSite).status = .failed ∧ ((s.loseOldSite gone).router r.oldSite).buf = [] ∧
    ∀ n, n < 64 → s.tileLive n = true → ∃ i, FMap.get? (s.loseOldSite gone).msgs i = some (.lossNote n 64) := by
  have heq : s.loseOldSite gone =
      (((s.routerLost r.oldSite 64).updateWithout r.oldSite).setSite r.oldSite .failed).noticeSite := by
    simp only [State.loseOldSite, hr, hcopied, hgone, Bool.and_self, if_true]
  have hlost := (s.routerLost_sameWays r.oldSite 64).toSameUnits.trans (State.updateWithout_sameUnits _ r.oldSite)
  rw [heq]
  refine ⟨?_, ?_, fun n hn hlive => ?_⟩
  · rw [(State.noticeSite_sameUnits _).site, State.setSite_site_self]
  · rw [State.router, State.noticeSite_routers, State.setSite_routers, State.updateWithout_routers]
    exact s.routerLost_buf r.oldSite 64
  · exact State.noticeSite_sent hn (by rw [State.setSite_tileLive, hlost.tileLive, hlive])

/-- The head gardener loses the tiles that it no longer reaches (spec/02 R35, R37, R38). -/
theorem unreachedTilesAreLost : Said.unreachedTilesAreLost := by
  refine ⟨fun s before t k hsorted ht hsite hlive hbefore hreached => ?_, fun s before => State.cutOff_eq_self before,
    fun s before r hsorted hr hcopied _ hbefore hreached hothers => ?_⟩
  · have hgone := State.unreached_isSome hsorted hbefore hreached
    have hmem : t ∈ List.range 64 := List.mem_range.mpr ht
    rw [State.cutOff_eq]
    have hold := s.loseOldSite_head (s.unreached before)
    have hknows := State.loseAll_knowsLost (s := s.loseOldSite (s.unreached before)) List.nodup_range hmem
      ((State.siteOf_of_head hold t).trans hsite) ((State.tileLive_of_head hold t).trans hlive) hgone
    refine ⟨hknows.vacant, hknows.lost, hknows.failed, hknows.update, fun hwf hk hretire hothers => ?_⟩
    rw [State.loseOldSite_of_none _ hretire, State.loseAll_single List.nodup_range hmem hsite hlive hgone
      fun n hn hne j hj => State.unreached_eq_none before (hothers n j (List.mem_range.mp hn) hne hj)]
    exact ⟨lostAll_setSite k .failed (State.loseTile_lostAll hsite hwf hk), fun n hn hne hn' => by
      rw [State.setSite_msgs]
      exact State.loseTile_sent hsite hn hne hn'⟩
  · rw [State.cutOff_eq, State.loseAll_kept fun n hn j hj _ => ?_]
    · exact State.loseOldSite_copied hr hcopied (State.unreached_isSome hsorted hbefore hreached)
    · rw [State.siteOf_of_head (s.loseOldSite_head _)] at hj
      exact State.unreached_eq_none before (hothers n j (List.mem_range.mp hn) hj)

end Sys2Proof.Machine
end

section
/-! SUPPORT. The steps of a loss: a failed regulator, a thermal trip, the notice and the end of the wait for it (spec/01 R20, spec/02 R38,
spec/11 R224, R225). -/

namespace Sys2Proof.Machine

/-! ### A regulator fails, a tile trips -/

theorem regulatorFail_loses {s : State} {t site : Nat} (hmem : s.mem.wf = true) (hk : Said.keyed s) (hsite : s.siteOf t = some site)
    (hlive : s.tileLive t = true) :
    ∃ u, execRegulatorFail t s = .next u ∧ Said.lostAll s u t ∧ (u.site site).status = .failed := by
  have hdown := State.siteDown_sameWays
    (((((s.routerLost site t).trafficLost t).wipeTile t).setSite site .failed)) site
  refine ⟨_, by simp only [execRegulatorFail, hsite, hlive, if_true], lostAll_sameUnits (lostAll_setSite _ _ ?_) hdown.toSameUnits, ?_⟩
  · exact State.wipeTile_lostAll (indexed_of_keyed hk) hmem ((s.routerTrafficLost_thinned site t).mono fun _ h => h hk)
  · rw [hdown.site, State.setSite_site_self]

theorem execThermalTrip_below {s : State} {t sensor : Nat} (h : FMap.getD (s.tile t).pow.temps sensor 0 < 115) :
    execThermalTrip t sensor s = .next s := by
  simp only [execThermalTrip, h, decide_true, Bool.or_true, if_true]

/-- The tile stands in Off and Closed, whatever it was about to do. -/
def Tile.tripped (x : Tile) : Tile := { x with debug := .closed, pow := { x.pow with target := none } }

theorem execThermalTrip_above {s : State} {t sensor : Nat} (hlive : s.tileLive t = true) (hsensor : sensor ≤ 12)
    (h : 115 ≤ FMap.getD (s.tile t).pow.temps sensor 0) : execThermalTrip t sensor s =
      .next ((((s.wipeTile t).putTile t ((s.wipeTile t).tile t).tripped).raiseMain 0x11 t sensor).noticeLoss t) := by
  simp only [execThermalTrip, hlive, Nat.not_lt.mpr hsensor, Nat.not_lt.mpr h, decide_false, Bool.not_true, Bool.or_self,
    Bool.false_eq_true, if_false, Tile.tripped]

/-- Registers that read as after the loss may change in what the loss does not speak of. -/
theorem lostAll_putTile {s u : State} {t : Nat} {x : Tile} (h : Said.lostAll s u t) (hrecs : x.recs = (u.tile t).recs)
    (htasks : x.tasks = (u.tile t).tasks) (hhedges : x.hedges = (u.tile t).hedges) (hcap : x.pow.cap = (u.tile t).pow.cap)
    (hag : x.ag = (u.tile t).ag) (hsupvec : x.supvec = (u.tile t).supvec) : Said.lostAll s (u.putTile t x) t := by
  have hx : (u.putTile t x).tile t = x := FMap.getD_set_self _ _ _ _
  obtain ⟨h1, h2, h3, h4, h5, h6, h7, h8⟩ := h
  refine ⟨h1, h2, h3, h4, h5, h6, h7, ?_⟩
  rwa [hx, hrecs, htasks, hhedges, hcap, hag, hsupvec]

theorem thermalTrip_loses {s : State} {t sensor : Nat} (hmem : s.mem.wf = true) (hk : Said.keyed s) (hlive : s.tileLive t = true)
    (hsensor : sensor ≤ 12) (h : 115 ≤ FMap.getD (s.tile t).pow.temps sensor 0) :
    ∃ u, execThermalTrip t sensor s = .next u ∧ Said.lostAll s u t ∧ (u.tile t).pow.mode = .off ∧ (u.tile t).pow.target = none ∧
      (u.tile t).debug = .closed := by
  have hwipe := State.wipeTile_lostAll (indexed_of_keyed hk) hmem (.refl s (gone := s.ownedBy t))
  have htold := (State.raiseMain_sameUnits ((s.wipeTile t).putTile t ((s.wipeTile t).tile t).tripped) 0x11 t sensor).trans
    (State.noticeLoss_sameUnits _ t)
  refine ⟨_, execThermalTrip_above hlive hsensor h, 
    lostAll_sameUnits (lostAll_putTile (x := Tile.tripped _) hwipe rfl rfl rfl rfl rfl rfl) htold, ?_⟩
  rw [htold.tile, State.tile, State.putTile, FMap.getD_set_self, s.wipeTile_tile t]
  exact ⟨rfl, rfl, rfl⟩

theorem tileLossTakesEverything : Said.tileLossTakesEverything :=
  ⟨fun _ _ _ hmem hk hsite hlive => regulatorFail_loses hmem hk hsite hlive, fun _ _ _ hmem hk hlive hsensor =>
    ⟨execThermalTrip_below, thermalTrip_loses hmem hk hlive hsensor⟩⟩

/-! ### The notice (spec/02 R38) -/

theorem execTileLoss_live {s : State} {t site : Nat} (hsite : s.siteOf t = some site) (hlive : s.tileLive t = true) :
    execTileLoss t s = .next (((s.loseTile t).setSite site .failed).cutOff s.reached) := by
  simp only [execTileLoss, hsite, hlive, if_true]

theorem State.hedgeLoss_jobs (s : State) (t lost : Nat) : (s.hedgeLoss t lost).jobs = s.jobs := by
  refine List.foldlRecOn _ _ (motive := fun u : State => u.jobs = s.jobs) rfl fun b hb h _ => ?_
  dsimp only
  split
  · exact (State.SameUnits.foldl (fun s (w : HedgeWaiter) => s.sendFrom_sameUnits t _) _ _).jobs.trans hb
  · exact hb

/-- The lead gardener's part at a notice: it asks for the counts of a job that it leads and that has begun. -/
def Job.askedAt (t : Nat) (j : Job) : Job := if j.handle / 1024 = t && j.state != .pending then { j with asked := true } else j

theorem Job.askedAt_eq (t : Nat) (j : Job) :
    j.askedAt t = { j with asked := j.asked || (j.handle / 1024 == t && j.state != .pending) } := by
  unfold Job.askedAt
  by_cases h : (j.handle / 1024 = t && j.state != .pending) = true
  · rw [if_pos h]
    have hb : (j.handle / 1024 == t && j.state != .pending) = true := h
    rw [hb, Bool.or_true]
  · rw [if_neg h]
    have hb : (j.handle / 1024 == t && j.state != .pending) = false := Bool.eq_false_iff.mpr h
    rw [hb, Bool.or_false]

theorem lossNotice_starts_waits {s : State} {t lost : Nat} (h : ∃ n, (n, Msg.lossNote t lost) ∈ s.msgs ∧ s.landed n = true) :
    ∃ u, execLossNotice t lost s = .next u ∧ (∀ c, c < 16 → ∃ n, (colKey t c, lost, n) ∈ u.head.waits) ∧
    ∀ k j, s.job? k = some j → u.job? k = some { j with asked := j.asked || (j.handle / 1024 == t && j.state != .pending) } := by
  obtain ⟨n, hn, hlanded⟩ := h
  unfold execLossNotice
  split
  next hnone =>
    have := List.find?_eq_none.mp hnone _ hn
    simp [hlanded] at this
  next id _ _ =>
    refine ⟨_, rfl, fun c hc => ⟨_, List.mem_append_right _ (List.mem_map.mpr ⟨c, List.mem_range.mpr hc, rfl⟩)⟩, fun k j hj => ?_⟩
    have hasked := j.askedAt_eq t
    unfold Job.askedAt at hasked
    simp only [State.job?] at hj ⊢
    rw [FMap.get?_mapVals, State.hedgeLoss_jobs, State.unsend_jobs, hj, Option.map_some, hasked]

/-! ### The end of the wait (spec/02 R38) -/

/-- No dock waits any more. -/
def State.endWaits (s : State) : State := { s with head := { s.head with waits := [] } }

/-- A request that is resolved as a dock's wait ends: its own, or one that no dock has sent. -/
def State.endsWith (s : State) (key lost : Nat) (kv : Nat × Msg) : Bool :=
  match s.senderOf kv.2 with
  | some k => k == key
  | none => (s.msgDest kv.2 == some lost || s.isLost kv.1) && (s.answerDock kv.2).isNone &&
      (match kv.2 with | .lossNote _ _ => false | _ => true)

/-- An answer that comes too late for the dock. -/
def State.lateFor (s : State) (key : Nat) (kv : Nat × Msg) : Bool := s.answerDock kv.2 == some key && !s.landed kv.1

theorem filter_request_under {n id : Nat} {m : Msg} (hid : id < n) :
    [(id, m)].filter (fun kv => decide (kv.1 < n)) = [(id, m)] := by
  simp [hid]

section
variable {s : State} {t c lost n id : Nat} {m : Msg} (hwaits : s.head.waits = [(colKey t c, lost, n)])
include hwaits

theorem execLossWaitExpire_eq : execLossWaitExpire t c lost s = .next (
    ((s.msgs.filter fun kv => decide (kv.1 < n)).filter (s.endWaits.lateFor (colKey t c))).foldl
      (fun s kv => s.lateAnswer (colKey t c) kv.1 kv.2)
      (((s.msgs.filter fun kv => decide (kv.1 < n)).filter (s.endWaits.endsWith (colKey t c) lost)).foldl
        (fun s kv => s.resolve kv.1 kv.2) s.endWaits)) := by
  unfold execLossWaitExpire
  simp only [hwaits, List.find?, beq_self_eq_true, Bool.and_self, List.erase_cons_head]
  rfl

variable (hid : id < n) (hmsgs : s.msgs = [(id, m)])
include hid hmsgs

/-- The one request under way, which the dock has sent, is resolved. -/
theorem execLossWaitExpire_request (hsender : s.senderOf m = some (colKey t c)) (hans : s.answerDock m = none) :
    execLossWaitExpire t c lost s = .next (s.endWaits.resolve id m) := by
  have hends : s.endWaits.endsWith (colKey t c) lost (id, m) = true := by
    simp only [State.endsWith, show s.endWaits.senderOf m = _ from hsender, beq_self_eq_true]
  have hlate : s.endWaits.lateFor (colKey t c) (id, m) = false := by
    simp only [State.lateFor, show s.endWaits.answerDock m = _ from hans]; rfl
  rw [execLossWaitExpire_eq hwaits, hmsgs, filter_request_under hid,
    List.filter_cons_of_pos hends, List.filter_cons_of_neg (by rw [hlate]; exact Bool.false_ne_true)]
  rfl

/-- The one answer under way to the dock comes too late. -/
theorem execLossWaitExpire_answer (hsender : s.senderOf m = none) (hans : s.answerDock m = some (colKey t c))
    (hlanded : s.landed id = false) :
    execLossWaitExpire t c lost s = .next (s.endWaits.lateAnswer (colKey t c) id m) := by
  have hends : s.endWaits.endsWith (colKey t c) lost (id, m) = false := by
    simp only [State.endsWith, show s.endWaits.senderOf m = _ from hsender, show s.endWaits.answerDock m = _ from hans,
      Option.isNone_some, Bool.and_false, Bool.false_and]
  have hlate : s.endWaits.lateFor (colKey t c) (id, m) = true := by
    simp only [State.lateFor, show s.endWaits.answerDock m = _ from hans, show s.endWaits.landed id = _ from hlanded,
      beq_self_eq_true, Bool.not_false, Bool.and_self]
  rw [execLossWaitExpire_eq hwaits, hmsgs, filter_request_under hid,
    List.filter_cons_of_neg (by rw [hends]; exact Bool.false_ne_true), List.filter_cons_of_pos hlate]
  rfl

end

theorem execLossWaitExpire_none {s : State} (t c lost : Nat) (h : s.head.waits = []) : execLossWaitExpire t c lost s = .next s := by
  simp only [execLossWaitExpire, h, List.find?]

/-- A strand that no list names is lost: its lead gardener knows its handle. -/
theorem State.loseStrand_known {s : State} {h : BitVec 64} {st : Strand} {j : Job} (hst : s.strand? h = some st)
    (hfree : (s.col st.dest).refusals = []) (hj : s.job? st.job = some j) (hjob : j.handle = st.job) :
    ∃ cs co, s.loseStrand h true = { s with
      cores := cs, cols := co, strands := FMap.erase s.strands h.toNat
      jobs := FMap.set s.jobs st.job { j with lostKnown := j.lostKnown ++ [h], asked := true } } := by
  have hj' : ((s.unqueue st.handle).eraseStrand h).job? st.job = some j := hj
  simp only [State.loseStrand, hst, State.withdraw, hfree, List.any_nil, Bool.false_eq_true, if_false, hj', if_true,
    State.putJob, hjob]
  exact ⟨_, _, rfl⟩

/-- A failed item stays to be reported. -/
theorem State.settle_failed {s : State} {item : Nat} {it : Item} (hit : FMap.get? s.items item = some it) :
    FMap.get? (s.settle item false).items item = some { it with failed := true } ∧ (s.settle item false).mem = s.mem ∧
    (s.settle item false).msgs = s.msgs := by
  have hitems : (s.itemFailed item true).items = FMap.set s.items item { it with failed := true } ∧
      (s.itemFailed item true).mem = s.mem ∧ (s.itemFailed item true).msgs = s.msgs := by
    unfold State.itemFailed
    rw [hit]
    obtain ⟨_, h⟩ := State.recordStatus_eq { s with items := FMap.set s.items item { it with failed := true } } it.job 5
    simp only [if_true, h, and_self]
  have hrejoin : s.settle item false = (s.itemFailed item true).rejoin it.handle := by
    simp only [State.settle, hit, Bool.false_eq_true, if_false]
  obtain ⟨ss, cs, h⟩ := (s.itemFailed item true).rejoin_eq it.handle
  rw [hrejoin, h]
  exact ⟨by rw [hitems.1, FMap.get?_set_self], hitems.2⟩

theorem execPostedStoreAck_late {s : State} {id key : Nat} (h : s.msg? id = some (.lateAns key)) :
    execPostedStoreAck id s = .next ((s.unsend id).putCol key { s.col key with late := (s.col key).late + 1 }) := by
  simp only [execPostedStoreAck, h]

section
variable {s : State} {t c lost n id : Nat} (hwaits : s.head.waits = [(colKey t c, lost, n)]) (hid : id < n)
include hwaits hid

theorem lossWaitExpire_migration {h : BitVec 64} {dest : Nat} {p : List Byte} {st : Strand} {j : Job}
    (hmsgs : s.msgs = [(id, .migrate h dest p)]) (hst : s.strand? h = some st) (hcol : st.colKey = colKey t c)
    (hfree : (s.col st.dest).refusals = []) (hj : s.job? st.job = some j) (hjob : j.handle = st.job) :
    ∃ u, execLossWaitExpire t c lost s = .next u ∧ u.head.waits = [] ∧ u.msgs = [] ∧
      u.strands = FMap.erase s.strands h.toNat ∧ u.job? st.job = some { j with lostKnown := j.lostKnown ++ [h], asked := true } := by
  have hsender : s.senderOf (.migrate h dest p) = some (colKey t c) := by simp only [State.senderOf, hst, Option.map_some, hcol]
  obtain ⟨_, _, hlost⟩ := State.loseStrand_known
    (s := State.unsend { s.endWaits with transit := FMap.erase s.endWaits.transit id } id) hst hfree hj hjob
  refine ⟨_, execLossWaitExpire_request hwaits hid hmsgs hsender rfl, ?_⟩
  simp only [State.resolve, hlost, State.job?, FMap.get?_set_self]
  refine ⟨rfl, ?_, rfl, trivial⟩
  simp [State.unsend, State.endWaits, hmsgs, FMap.erase]

theorem lossWaitExpire_store {op : PostedOp} {a : BitVec 12} {va : Word} {g : Target} {item : Nat} {it : Item} {st : Strand}
    (hmsgs : s.msgs = [(id, .posted op a va g item)]) (hit : FMap.get? s.items item = some it)
    (hst : s.strand? it.handle = some st) (hcol : st.colKey = colKey t c) :
    ∃ u, execLossWaitExpire t c lost s = .next u ∧ u.msgs = [] ∧ FMap.get? u.items item = some { it with failed := true } ∧
      u.mem = s.mem := by
  have hsender : s.senderOf (.posted op a va g item) = some (colKey t c) := by
    simp only [State.senderOf, hit, Option.bind_some, hst, Option.map_some, hcol]
  obtain ⟨hitem, hmem, hm⟩ := State.settle_failed
    (s := State.unsend { s.endWaits with transit := FMap.erase s.endWaits.transit id } id) hit
  refine ⟨_, execLossWaitExpire_request hwaits hid hmsgs hsender rfl, ?_, hitem, hmem⟩
  refine hm.trans ?_
  simp [State.unsend, State.endWaits, hmsgs, FMap.erase]

theorem lossWaitExpire_lateAck {item : Nat} {ok : Bool} {it : Item} {st : Strand}
    (hmsgs : s.msgs = [(id, .postedAck item ok)]) (hlanded : s.landed id = false) (hlost : s.isLost id = false)
    (hit : FMap.get? s.items item = some it) (hst : s.strand? it.handle = some st) (hcol : st.colKey = colKey t c) :
    ∃ u, execLossWaitExpire t c lost s = .next u ∧ u.msgs = [(id, .lateAns (colKey t c))] ∧
      FMap.get? u.items item = some { it with failed := true } := by
  have hans : s.answerDock (.postedAck item ok) = some (colKey t c) := by
    simp only [State.answerDock, hit, Option.bind_some, hst, Option.map_some, hcol]
  obtain ⟨hitem, -, hm⟩ := State.settle_failed
    (s := { s.endWaits with msgs := FMap.set s.endWaits.msgs id (.lateAns (colKey t c)) }) hit
  have hlate : s.endWaits.lateAnswer (colKey t c) id (.postedAck item ok) =
      State.settle { s.endWaits with msgs := FMap.set s.endWaits.msgs id (.lateAns (colKey t c)) } item false := by
    have hlost' : s.endWaits.isLost id = false := hlost
    unfold State.isLost at hlost'
    simp only [State.lateAnswer, hlost', Bool.false_eq_true, if_false, State.unanswered]
  refine ⟨_, execLossWaitExpire_answer hwaits hid hmsgs rfl hans hlanded, ?_, ?_⟩
  · rw [hlate, hm]
    simp [State.endWaits, hmsgs, FMap.set]
  · rw [hlate, hitem]

end

/-- A loss is told to every live tile, and its waits end (spec/02 R38, spec/11 R224, R225). -/
theorem lossIsNoticedAndResolved : Said.lossIsNoticedAndResolved := by
  refine ⟨fun s t site hmem hk hsite hlive => ⟨(s.loseTile t).setSite site .failed, execTileLoss_live hsite hlive, ?_⟩,
    fun s t lost => lossNotice_starts_waits, fun s t c lost n id hwaits hid => ⟨?_, ?_, ?_⟩,
    fun s id key h => ⟨_, execPostedStoreAck_late h, rfl, ?_, rfl⟩, fun s t c lost => execLossWaitExpire_none t c lost⟩
  · have hknows := State.loseTile_knowsLost hsite
    refine ⟨lostAll_setSite _ _ (State.loseTile_lostAll hsite hmem hk), hknows.failed, hknows.lost, hknows.vacant, hknows.update,
      fun k hk64 hne hk' => ?_, fun hretire hreach => ?_⟩
    · rw [State.setSite_msgs]
      exact State.loseTile_sent hsite hk64 hne hk'
    · exact State.cutOff_eq_self _ hretire fun n j hn hj _ => hreach n j hn hj
  · exact fun h dest p st j hmsgs hst hcol _ hfree hj hjob => lossWaitExpire_migration hwaits hid hmsgs hst hcol hfree hj hjob
  · exact fun b a va key bed off kind sp item it st hmsgs hit hst hcol => lossWaitExpire_store hwaits hid hmsgs hit hst hcol
  · exact fun item ok it st hmsgs hlanded hlost hit hst hcol => lossWaitExpire_lateAck hwaits hid hmsgs hlanded hlost hit hst hcol
  · rw [State.col, State.putCol, FMap.getD_set_self]

/-- Settles O37: what a tile holds is filtered out with its power, and the notice and the end of its wait by the one message in question. -/
theorem lossIsTotalNoticedAndResolved : Obligations.LossIsTotalNoticedAndResolved :=
  ⟨tileLossTakesEverything, lossIsNoticedAndResolved, unreachedTilesAreLost⟩

end Sys2Proof.Machine
end

section
/-! SUPPORT. Bring-up (spec/03 R41 to R43): the boot of the I/O dies, the release of the sites, self-tests and their reports. -/

namespace Sys2Proof.Machine

/-! ### The boot of the I/O dies (spec/03 R41) -/

/-- A die held talkative is noted in DIEFAIL. -/
def State.holdDie (s : State) (d : Nat) : State :=
  { s.putDie d { s.die d with booted := false, talkative := true, off := false } with
    head := { s.head with diefail := s.head.diefail ||| .ofNat 4 (2 ^ d) } }

/-- A slot's image, where it is accepted. -/
def State.accepted (s : State) : Option Image → Option Image
  | some i => if s.imageOk i then some i else none
  | none => none

theorem State.bootImage_eq (s : State) (d : Nat) :
    Said.bootImage s d = (s.accepted (s.die d).slotA).or (s.accepted (s.die d).slotB) := by
  unfold Said.bootImage State.accepted
  rcases (s.die d).slotA with _ | a <;> rcases (s.die d).slotB with _ | b <;> dsimp only
  · rfl
  · rfl
  · cases s.imageOk a <;> rfl
  · cases s.imageOk a <;> rfl

theorem State.bootDie_eq (s : State) (d : Nat) : s.bootDie d = (Said.bootImage s d).elim (s.holdDie d) fun i =>
    s.putDie d { s.die d with booted := true, talkative := false, off := false, measure := i.hash } := by
  have h : s.bootDie d = match (s.accepted (s.die d).slotA).or (s.accepted (s.die d).slotB) with
      | some i => s.putDie d { s.die d with booted := true, talkative := false, off := false, measure := i.hash }
      | none => s.holdDie d := rfl
  rw [h, s.bootImage_eq]
  cases (s.accepted (s.die d).slotA).or (s.accepted (s.die d).slotB) <;> rfl

/-- How a die stands after its boot from an image, or without one. -/
def Die.Booted (x : Die) (failed : Bool) : Option Image → Prop
  | some i => x.booted = true ∧ x.talkative = false ∧ x.measure = i.hash ∧ failed = false
  | none => x.booted = false ∧ x.talkative = true ∧ failed = true

/-- The dies below n have booted, with the images and keys of a state s; the others stand as they did. -/
structure State.DiesBooted (s : State) (n : Nat) (u : State) : Prop where
  head : ∃ f, u.head = { s.head with diefail := f }
  done : ∀ d, d < n → (u.die d).Booted (u.head.diefail.getLsbD d) (Said.bootImage s d)
  rest : ∀ d, n ≤ d → u.die d = s.die d ∧ u.head.diefail.getLsbD d = s.head.diefail.getLsbD d

theorem getLsbD_or_twoPow {x : BitVec 4} {d : Nat} (hd : d < 4) (j : Nat) :
    (x ||| .ofNat 4 (2 ^ d)).getLsbD j = (x.getLsbD j || decide (j = d)) := by
  rw [BitVec.getLsbD_or, BitVec.getLsbD_ofNat, Nat.testBit_two_pow]
  congr 1
  by_cases h : j = d
  · subst h; simp [hd]
  · simp [h, Ne.symm h]

theorem State.holdDie_diefail (s : State) {d : Nat} (hd : d < 4) (j : Nat) :
    (s.holdDie d).head.diefail.getLsbD j = (s.head.diefail.getLsbD j || decide (j = d)) :=
  getLsbD_or_twoPow hd j

theorem State.bootImage_congr {s u : State} {d : Nat} (hh : ∃ f, u.head = { s.head with diefail := f }) (hd : u.die d = s.die d) :
    Said.bootImage u d = Said.bootImage s d := by
  obtain ⟨f, hf⟩ := hh
  have hok : u.imageOk = s.imageOk := by funext i; simp only [State.imageOk, hf]
  simp only [Said.bootImage, hd, hok]

theorem State.die_putDie_ne (s : State) {d j : Nat} (x : Die) (h : j ≠ d) : (s.putDie d x).die j = s.die j :=
  FMap.getD_set_ne _ _ _ h

theorem State.die_putDie_self (s : State) (d : Nat) (x : Die) : (s.putDie d x).die d = x := FMap.getD_set_self _ _ _ _

theorem State.DiesBooted.bootDie {s u : State} {n : Nat} (h : s.DiesBooted n u) (hn : n < 4) (hs : s.head.diefail = 0) :
    s.DiesBooted (n + 1) (u.bootDie n) := by
  obtain ⟨hhead, hdone, hrest⟩ := h
  obtain ⟨hdie, hbit⟩ := hrest n (Nat.le_refl n)
  have himage := State.bootImage_congr hhead hdie
  rw [State.bootDie_eq, himage]
  obtain ⟨f, hf⟩ := hhead
  cases hi : Said.bootImage s n with
  | some i =>
    refine ⟨⟨f, hf⟩, fun d hd => ?_, fun d hd => ?_⟩
    · rcases Nat.lt_succ_iff_lt_or_eq.mp hd with hlt | rfl
      · rw [Option.elim_some, State.die_putDie_ne _ _ (Nat.ne_of_lt hlt)]
        exact hdone d hlt
      · rw [Option.elim_some, State.die_putDie_self, hi]
        exact ⟨rfl, rfl, rfl, hbit.trans (by rw [hs]; exact BitVec.getLsbD_zero)⟩
    · rw [Option.elim_some, State.die_putDie_ne _ _ (by omega)]
      exact hrest d (by omega)
  | none =>
    refine ⟨⟨_, congrArg (fun h : Head => { h with diefail := u.head.diefail ||| BitVec.ofNat 4 (2 ^ n) }) hf⟩, fun d hd => ?_, fun d hd => ?_⟩
    · rcases Nat.lt_succ_iff_lt_or_eq.mp hd with hlt | rfl
      · have hkeep : (u.holdDie n).die d = u.die d := State.die_putDie_ne _ _ (Nat.ne_of_lt hlt)
        rw [Option.elim_none, hkeep, State.holdDie_diefail u hn, decide_eq_false (Nat.ne_of_lt hlt), Bool.or_false]
        exact hdone d hlt
      · have hheld : (u.holdDie d).die d = { u.die d with booted := false, talkative := true, off := false } :=
          State.die_putDie_self _ _ _
        rw [Option.elim_none, hheld, State.holdDie_diefail u hn, hi, decide_eq_true rfl, Bool.or_true]
        exact ⟨rfl, rfl, rfl⟩
    · have hkeep : (u.holdDie n).die d = u.die d := State.die_putDie_ne _ _ (by omega)
      rw [Option.elim_none, hkeep, State.holdDie_diefail u hn, decide_eq_false (by omega), Bool.or_false]
      exact hrest d (by omega)

theorem State.diesBooted {s : State} (hs : s.head.diefail = 0) {n : Nat} (hn : n ≤ 4) :
    s.DiesBooted n ((List.range n).foldl State.bootDie s) := by
  induction n with
  | zero => exact ⟨⟨_, rfl⟩, fun d hd => absurd hd (Nat.not_lt_zero d), fun d _ => ⟨rfl, rfl⟩⟩
  | succ n ih =>
    rw [List.range_succ, List.foldl_append]
    exact (ih (by omega)).bootDie hn hs

/-! ### The sites' states -/

theorem State.site_setSite (s : State) (k : Nat) (v : SiteStatus) (j : Nat) :
    ((s.setSite k v).site j).status = if j = k then v else (s.site j).status := by
  split
  next h => rw [h, State.setSite_site_self]
  next h => rw [State.setSite_site_ne _ _ h]

/-- Sites take their states one after another, between steps that leave all sites as they are. -/
theorem State.status_setSites {g : State → Nat → State} (hg : ∀ s k, (g s k).sites = s.sites) (f : Nat → SiteStatus) (l : List Nat)
    (s : State) (j : Nat) :
    ((l.foldl (fun s k => (g s k).setSite k (f k)) s).site j).status = if j ∈ l then f j else (s.site j).status := by
  induction l generalizing s with
  | nil => rfl
  | cons k l ih =>
    have hsite : (g s k).site j = s.site j := by simp only [State.site, hg]
    rw [List.foldl_cons, ih, State.site_setSite, hsite]
    by_cases hj : j ∈ l <;> by_cases hk : j = k <;> simp [hj, hk]

theorem State.setSites_head (f : Nat → SiteStatus) (l : List Nat) (s : State) :
    (l.foldl (fun s k => s.setSite k (f k)) s).head = s.head ∧ (l.foldl (fun s k => s.setSite k (f k)) s).dies = s.dies :=
  l.foldlRecOn _ (motive := fun u : State => u.head = s.head ∧ u.dies = s.dies) ⟨rfl, rfl⟩ fun _ h _ _ => h

/-! ### Power on (spec/03 R41) -/

theorem execPowerOn_noFlow {s : State} (h : s.head.flow = false) : execPowerOn s = .next s := by
  simp only [execPowerOn, h, Bool.not_false, Bool.or_true, if_true]

/-- The panel once its dies have booted. -/
def State.powered (s : State) : State :=
  (List.range 4).foldl State.bootDie
    { s with head := { s.head with powered := true, phase := 1, bootno := s.head.bootno + 1, diefail := 0 } }

/-- The sites start by the retirements in force. -/
def State.release (s : State) (g : RetireLog) : State :=
  (List.range 72).foldl (fun s k => s.setSite k (Said.firstStatus g.inForce k)) { s with head := { s.head with log := g, phase := 3 } }

theorem firstStatus_eq (l : List LogEntry) (k : Nat) :
    (if (l.filter (fun e => e.site == k)).any (fun e => e.kind == 1) then SiteStatus.retired
      else if (l.filter (fun e => e.site == k)).any (fun e => e.kind == 2) then .talkative else .released) = Said.firstStatus l k := by
  simp only [List.any_filter, Said.firstStatus]

section
variable {s : State} (hp : s.head.powered = false) (hf : s.head.flow = true)
include hp hf

theorem execPowerOn_boot : execPowerOn s = .next (
    if !(s.powered.die 0).booted then { s.powered with head := { s.powered.head with err := 1, phase := 6 } }
    else match s.powered.head.log.recover s.powered.head.bootno with
      | none => { s.powered with head := { s.powered.head with err := 2, phase := 6 } }
      | some g => s.powered.release g) := by
  unfold execPowerOn
  rw [if_neg (by simp [hp, hf])]
  simp only [State.release, ← firstStatus_eq]
  rfl

theorem execPowerOn_noNorth (hb : (s.powered.die 0).booted = false) :
    execPowerOn s = .next { s.powered with head := { s.powered.head with err := 1, phase := 6 } } := by
  rw [execPowerOn_boot hp hf, hb, Bool.not_false, if_pos rfl]

variable (hb : (s.powered.die 0).booted = true)
include hb

theorem execPowerOn_noLog (hlog : s.powered.head.log.recover s.powered.head.bootno = none) :
    execPowerOn s = .next { s.powered with head := { s.powered.head with err := 2, phase := 6 } } := by
  rw [execPowerOn_boot hp hf, hb, Bool.not_true, if_neg Bool.false_ne_true, hlog]

theorem execPowerOn_release {g : RetireLog} (hlog : s.powered.head.log.recover s.powered.head.bootno = some g) :
    execPowerOn s = .next (s.powered.release g) := by
  rw [execPowerOn_boot hp hf, hb, Bool.not_true, if_neg Bool.false_ne_true, hlog]

end

/-- The boot of the dies as power comes, by the images and keys that the panel held before. -/
theorem State.powered_diesBooted (s : State) : ∃ f, s.powered.head =
      { s.head with powered := true, phase := 1, bootno := s.head.bootno + 1, diefail := f } ∧
    ∀ d, d < 4 → (s.powered.die d).Booted (f.getLsbD d) (Said.bootImage s d) := by
  obtain ⟨⟨f, hf⟩, hdone, -⟩ := State.diesBooted (n := 4)
    (s := { s with head := { s.head with powered := true, phase := 1, bootno := s.head.bootno + 1, diefail := 0 } }) rfl (Nat.le_refl 4)
  refine ⟨f, hf, fun d hd => ?_⟩
  have h := hdone d hd
  rw [hf] at h
  exact h

/-- What POWER_ON has done to the dies, whatever state u it ends in. -/
theorem diesBooted_of_head {s u : State} (hdies : u.dies = s.powered.dies) (hfail : u.head.diefail = s.powered.head.diefail) :
    ∀ d, d < 4 → match Said.bootImage s d with
      | some i => (u.die d).booted = true ∧ (u.die d).talkative = false ∧ (u.die d).measure = i.hash ∧ u.head.diefail.getLsbD d = false
      | none => (u.die d).booted = false ∧ (u.die d).talkative = true ∧ u.head.diefail.getLsbD d = true := by
  intro d hd
  obtain ⟨f, hhead, hdone⟩ := s.powered_diesBooted
  have h := hdone d hd
  rw [hfail, hhead, show u.die d = s.powered.die d by simp only [State.die, hdies]]
  cases hi : Said.bootImage s d <;> rw [hi] at h <;> exact h

end Sys2Proof.Machine
end

section
/-! SUPPORT. Self-tests, their reports, and what the binder does besides binding (spec/03 R41 to R43, spec/02 R31). -/

namespace Sys2Proof.Machine

/-! ### Reports (spec/03 R41) -/

theorem execTileBoot_eq {s : State} {k : Nat} {r : SelfTest} {i : Image} (hphase : s.head.phase = 3)
    (hsite : (s.site k).status = .released) (himage : s.head.tileImage = some i) :
    execTileBoot k r s = .next (if s.imageOk i then s.putSite k ⟨.tested, some r, i.hash⟩ else s) := by
  simp only [execTileBoot, himage, hphase, hsite, decide_true, beq_self_eq_true, Bool.true_and]

/-- A self-test that finds no failing lane, at a site whose columns have their spares, retires no lane and no column. -/
theorem State.judge_noLanes {s : State} {k : Nat} {r : SelfTest} (hlanes : r.lanes = [])
    (hfits : ∀ c, c < 16 → laneFits (s.deadLanes k c) = true) :
    s.judge k r = if r.pass then (s, !s.siteRetired k) else (s.logSelfTest 1 k 0 0, false) := by
  have hnew : s.newLanes k r = [] := by simp only [State.newLanes, hlanes, List.filter_nil, List.eraseDups_nil]
  have hbad : (List.range 16).filter (fun c => !laneFits (s.deadLanes k c)) = [] :=
    List.filter_eq_nil_iff.mpr fun c hc => by simp [hfits c (List.mem_range.mp hc)]
  simp only [State.judge, hnew, List.filter_nil, List.map_nil, List.append_nil, hbad, List.foldl_nil]
  cases r.pass <;> rfl

theorem siteRetired_eq_false_iff (s : State) (k : Nat) : s.siteRetired k = false ↔ Said.unretired s k := by
  simp only [State.siteRetired, Said.unretired, List.any_eq_false, Bool.and_eq_true, Bool.or_eq_true, beq_iff_eq, not_and]

/-- The head gardener's count of live sites is brought up to date. -/
def State.countLive (s : State) : State := { s with head := { s.head with live := (s.sitesIn .live).length } }

theorem execSelfTestReport_eq {s : State} {k : Nat} {r : SelfTest} (hphase : s.head.phase = 3) (hsite : (s.site k).status = .tested)
    (hreport : (s.site k).report = some r) :
    execSelfTestReport k s =
      .next ((s.judge k r).1.setSite k (if (s.judge k r).2 then .live else .failed)).countLive.bindWhenAll := by
  simp only [execSelfTestReport, hsite, hreport, hphase, ne_eq, not_true_eq_false, if_false]
  rfl

theorem mem_sitesIn {s : State} {v : SiteStatus} {k : Nat} : k ∈ s.sitesIn v ↔ k < 72 ∧ (s.site k).status = v := by
  simp [State.sitesIn]

theorem reportsOut_iff (s : State) : Said.reportsOut s ↔ s.sitesIn .released ++ s.sitesIn .tested ≠ [] := by
  rw [← List.isEmpty_eq_false_iff, List.isEmpty_eq_false_iff_exists_mem]
  simp only [List.mem_append, mem_sitesIn, Said.reportsOut, and_or_left]

theorem State.bindWhenAll_eq (s : State) : (Said.reportsOut s → s.bindWhenAll = s) ∧ (¬ Said.reportsOut s → s.bindWhenAll = s.bindGrid) := by
  rw [reportsOut_iff]
  unfold State.bindWhenAll
  rcases s.sitesIn .released with _ | _ <;> rcases s.sitesIn .tested with _ | _ <;> simp

/-- A report without failing lanes makes its site live, or failed. -/
theorem execSelfTestReport_noLanes {s : State} {k : Nat} {r : SelfTest} {x : SiteStatus} (hphase : s.head.phase = 3)
    (hsite : (s.site k).status = .tested) (hreport : (s.site k).report = some r) (hlanes : r.lanes = [])
    (hfits : ∀ c, c < 16 → laneFits (s.deadLanes k c) = true)
    (hx : (Said.unretired s k ∧ x = .live) ∨ (¬ Said.unretired s k ∧ x = .failed)) :
    execSelfTestReport k s =
      .next (if r.pass then s.setSite k x else (s.logSelfTest 1 k 0 0).setSite k .failed).countLive.bindWhenAll := by
  rw [execSelfTestReport_eq hphase hsite hreport, State.judge_noLanes hlanes hfits]
  cases r.pass with
  | false => rfl
  | true =>
    have hlive : (if (!s.siteRetired k) = true then SiteStatus.live else .failed) = x := by
      rw [← siteRetired_eq_false_iff] at hx
      rcases hx with ⟨h, rfl⟩ | ⟨h, rfl⟩
      · rw [h]; rfl
      · rw [Bool.not_eq_false _ |>.mp h]; rfl
    simp only [if_true, hlive]

/-! ### The timeout (spec/03 R41) -/

theorem State.logAppend_sites (s : State) (kind site col lane cause : Nat) : (s.logAppend kind site col lane cause).sites = s.sites := by
  unfold State.logAppend
  dsimp only
  split
  · exact (State.SameUnits.foldl (fun s p => s.raiseMain_sameUnits _ _ _) _ _).sites
  · rfl

theorem State.logSelfTest_sites (s : State) (kind site col lane : Nat) : (s.logSelfTest kind site col lane).sites = s.sites :=
  s.bump.logAppend_sites ..

/-- The sites that have not reported fail. -/
def State.failUnreported (s : State) : State :=
  (s.sitesIn .released ++ s.sitesIn .tested).foldl (fun s k => (s.logSelfTest 1 k 0 0).setSite k .failed) s

theorem execBindTimeout_eq {s : State} (hphase : s.head.phase = 3) : execBindTimeout s = .next s.failUnreported.bindGrid := by
  simp only [execBindTimeout, hphase, ne_eq, not_true_eq_false, if_false]
  rfl

theorem State.failUnreported_eq_self {s : State} (h : ¬ Said.reportsOut s) : s.failUnreported = s := by
  rw [reportsOut_iff, not_not] at h
  rw [State.failUnreported, h, List.foldl_nil]

theorem State.failUnreported_status {s : State} {k : Nat} (hk : k < 72) : (s.failUnreported.site k).status =
    if (s.site k).status = .released ∨ (s.site k).status = .tested then .failed else (s.site k).status := by
  rw [State.failUnreported, State.status_setSites (fun s k => s.logSelfTest_sites 1 k 0 0) (fun _ => .failed)]
  simp only [List.mem_append, mem_sitesIn, hk, true_and]

/-! ### The grid enters service (spec/02 R31, spec/03 R41) -/

/-- The sites and the head gardener's registers are as they were. -/
structure State.SamePanel (s u : State) : Prop where
  sites : u.sites = s.sites
  head : u.head = s.head

theorem State.SamePanel.trans {s t u : State} (h : s.SamePanel t) (h' : t.SamePanel u) : s.SamePanel u :=
  ⟨h'.sites.trans h.sites, h'.head.trans h.head⟩

theorem State.SamePanel.foldl {α : Type} {f : State → α → State} (hf : ∀ (s : State) a, s.SamePanel (f s a)) (l : List α) (s : State) :
    s.SamePanel (l.foldl f s) :=
  l.foldlRecOn f (motive := s.SamePanel) ⟨rfl, rfl⟩ fun b hb a _ => hb.trans (hf b a)

theorem State.putCol_samePanel (s : State) (k : Nat) (x : Column) : s.SamePanel (s.putCol k x) := ⟨rfl, rfl⟩

theorem State.startTile_samePanel (s : State) (t site : Nat) : s.SamePanel (s.startTile t site) := by
  unfold State.startTile
  dsimp only
  refine .trans ?_ (.foldl (fun s c => s.putCol_samePanel _ _) _ _)
  exact ⟨rfl, rfl⟩

theorem State.setPort_samePanel (s : State) (r p : Nat) (f : PortStat → PortStat) : s.SamePanel (s.setPort r p f) := ⟨rfl, rfl⟩

theorem State.trainLinks_samePanel (s : State) (nodes : List Nat) : s.SamePanel (s.trainLinks nodes) := by
  refine .foldl (fun s r => .foldl (fun s p => ?_) _ s) nodes s
  split
  · split
    · exact s.setPort_samePanel ..
    · exact ⟨rfl, rfl⟩
  · exact ⟨rfl, rfl⟩

theorem State.writeBank_samePanel (s : State) (r bank : Nat) (remap : FMap (BitVec 16)) (routes : Routes) :
    s.SamePanel (s.writeBank r bank remap routes) := ⟨rfl, rfl⟩

theorem State.flip_samePanel (s : State) (r epoch : Nat) : s.SamePanel (s.flip r epoch) := ⟨rfl, rfl⟩

theorem State.raiseMain_samePanel (s : State) (code t d : Nat) : s.SamePanel (s.raiseMain code t d) :=
  ⟨(s.raiseMain_sameUnits code t d).sites, s.raiseMain_head code t d⟩

/-- Every router takes the first tables. -/
def State.fillBanks (s : State) (remap : FMap (BitVec 16)) (links : FMap (List (Nat × Nat))) (nodes : List Nat) : State :=
  nodes.foldl (fun s r => (s.writeBank r (1 - (s.router r).active) remap (routesOf links remap nodes r)).flip r 1) s

theorem State.fillBanks_samePanel (s : State) (remap : FMap (BitVec 16)) (links : FMap (List (Nat × Nat))) (nodes : List Nat) :
    s.SamePanel (s.fillBanks remap links nodes) :=
  .foldl (fun s r => (s.writeBank_samePanel r _ _ _).trans (State.flip_samePanel _ r 1)) _ _

theorem State.firstTables_panel (s : State) : s.firstTables.sites = s.sites ∧ s.firstTables.head = { s.head with epoch := 1 } := by
  obtain ⟨hsites, hhead⟩ := (s.trainLinks_samePanel (s.meshNodes s.head.remap)).trans (State.fillBanks_samePanel _ _
    ((s.trainLinks (s.meshNodes s.head.remap)).linksOf (s.meshNodes s.head.remap)) (s.meshNodes s.head.remap))
  exact ⟨hsites, congrArg (fun h : Head => { h with epoch := 1 }) hhead⟩

/-! ### The binder's result -/

/-- The binder has counted the live sites. -/
def State.binding (s : State) : State := { s with head := { s.head with live := (s.sitesIn .live).length, phase := 4 } }

/-- The rows of the grid for a number of live sites (spec/02 R31). -/
def rowsFor (n : Nat) : Nat := if 64 ≤ n then 8 else 7

/-- The logical tiles with their sites. -/
def gridOf (live : List Nat) : FMap Nat := bindRest (rowsFor live.length) live (bindColumns live (rowsFor live.length))

/-- The live sites that take no tile. -/
def sparesOf (live : List Nat) : List Nat := live.filter (fun k => !(gridOf live).any (fun kv => kv.2 == k))

/-- The binding is entered, and the spares lose their power. -/
def State.bound (s : State) (live : List Nat) : State :=
  (sparesOf live).foldl (fun s k => s.setSite k .unpowered) { s.binding with head := { s.binding.head with
    remap := (gridOf live).map (fun kv => (kv.1, remapEntry 1 kv.2)), grid7 := rowsFor live.length == 7 } }

theorem State.bindGrid_few {s : State} (h : (s.sitesIn .live).length < 56) :
    s.bindGrid = { s.binding with head := { s.binding.head with err := 3, phase := 6 } } := by
  unfold State.bindGrid
  exact if_pos h

/-- The tiles of a binding enter service under the first tables. -/
def State.enter (s : State) (m : FMap Nat) : State := (m.foldl (fun s kv => s.startTile kv.1 kv.2) s).firstTables

theorem State.enter_panel (s : State) (m : FMap Nat) : (s.enter m).sites = s.sites ∧ (s.enter m).head = { s.head with epoch := 1 } := by
  obtain ⟨hsites, hhead⟩ := State.SamePanel.foldl (fun s (kv : Nat × Nat) => s.startTile_samePanel kv.1 kv.2) m s
  obtain ⟨hsites', hhead'⟩ := (m.foldl (fun s kv => s.startTile kv.1 kv.2) s).firstTables_panel
  exact ⟨hsites'.trans hsites, by rw [State.enter, hhead', hhead]⟩

/-- The bound grid is reported ready, a grid of 7 rows with an event of its own. -/
def State.reportReady (s : State) (rows : Nat) : State :=
  let s4 := if rows = 7 then s.raiseMain 2 0 7 else s
  ({ s4 with head := { s4.head with phase := 5 } }).raiseMain 1 0 rows

theorem State.reportReady_panel (s : State) (rows : Nat) :
    (s.reportReady rows).sites = s.sites ∧ (s.reportReady rows).head = { s.head with phase := 5 } := by
  have h : s.SamePanel (if rows = 7 then s.raiseMain 2 0 7 else s) := by
    split
    · exact s.raiseMain_samePanel 2 0 7
    · exact ⟨rfl, rfl⟩
  obtain ⟨hsites, hhead⟩ := State.raiseMain_samePanel _ 1 0 rows
  exact ⟨hsites.trans h.sites, hhead.trans (congrArg (fun h : Head => { h with phase := 5 }) h.head)⟩

theorem State.bindGrid_enough {s : State} (h : 56 ≤ (s.sitesIn .live).length) :
    s.bindGrid = ((s.bound (s.sitesIn .live)).enter (gridOf (s.sitesIn .live))).reportReady (rowsFor (s.sitesIn .live).length) := by
  unfold State.bindGrid
  exact if_neg (Nat.not_lt.mpr h)

/-- With enough live sites the grid is bound as `State.bound` says; what follows changes of the head gardener only epoch and phase. -/
theorem State.bindGrid_panel {s : State} (h : 56 ≤ (s.sitesIn .live).length) :
    s.bindGrid.sites = (s.bound (s.sitesIn .live)).sites ∧
    s.bindGrid.head = { (s.bound (s.sitesIn .live)).head with epoch := 1, phase := 5 } := by
  obtain ⟨hsites, hhead⟩ := State.enter_panel (s.bound (s.sitesIn .live)) (gridOf (s.sitesIn .live))
  obtain ⟨hsites', hhead'⟩ := State.reportReady_panel ((s.bound (s.sitesIn .live)).enter (gridOf (s.sitesIn .live)))
    (rowsFor (s.sitesIn .live).length)
  rw [State.bindGrid_enough h]
  exact ⟨hsites'.trans hsites, by rw [hhead', hhead]⟩

theorem State.bound_head (s : State) (live : List Nat) : (s.bound live).head = { s.binding.head with
    remap := (gridOf live).map (fun kv => (kv.1, remapEntry 1 kv.2)), grid7 := rowsFor live.length == 7 } :=
  (State.setSites_head (fun _ => .unpowered) _ _).1

theorem bindGrid_reachesReadyOrFails (s : State) :
    let n := (s.sitesIn .live).length
    (n < 56 → s.bindGrid.head.err = 3 ∧ s.bindGrid.head.phase = 6 ∧ s.bindGrid.head.live = n) ∧
    (56 ≤ n → s.bindGrid.head.phase = 5 ∧ s.bindGrid.head.epoch = 1 ∧ s.bindGrid.head.live = n ∧ (s.bindGrid.head.grid7 = true ↔ n < 64)) := by
  refine ⟨fun h => ?_, fun h => ?_⟩
  · rw [State.bindGrid_few h]
    exact ⟨rfl, rfl, rfl⟩
  · rw [(State.bindGrid_panel h).2, State.bound_head]
    refine ⟨rfl, rfl, rfl, ?_⟩
    simp only [rowsFor, beq_iff_eq]
    split <;> omega

/-! ### From power to Ready (spec/03 R41) -/

theorem powerOn_boots {s : State} (hp : s.head.powered = false) (hf : s.head.flow = true) :
    ∃ u, execPowerOn s = .next u ∧ u.head.powered = true ∧ u.head.bootno = s.head.bootno + 1 ∧
      u.dies = s.powered.dies ∧ u.head.diefail = s.powered.head.diefail ∧
      ((s.powered.die 0).booted = false → u.head.err = 1 ∧ u.head.phase = 6) ∧
      ((s.powered.die 0).booted = true → s.head.log.recover (s.head.bootno + 1) = none → u.head.err = 2 ∧ u.head.phase = 6) ∧
      ∀ g, (s.powered.die 0).booted = true → s.head.log.recover (s.head.bootno + 1) = some g →
        u.head.phase = 3 ∧ u.head.log = g ∧ ∀ k, k < 72 → (u.site k).status = Said.firstStatus g.inForce k := by
  obtain ⟨f, hhead, -⟩ := s.powered_diesBooted
  have hlog : s.powered.head.log.recover s.powered.head.bootno = s.head.log.recover (s.head.bootno + 1) := by rw [hhead]
  cases hb : (s.powered.die 0).booted with
  | false =>
    refine ⟨_, execPowerOn_noNorth hp hf hb, ?_, ?_, rfl, rfl, fun _ => ⟨rfl, rfl⟩, nofun, nofun⟩ <;> simp only [hhead]
  | true =>
    cases hr : s.head.log.recover (s.head.bootno + 1) with
    | none =>
      refine ⟨_, execPowerOn_noLog hp hf hb (hlog.trans hr), ?_, ?_, rfl, rfl, nofun, fun _ _ => ⟨rfl, rfl⟩, nofun⟩ <;> simp only [hhead]
    | some g =>
      obtain ⟨hh, hd⟩ := State.setSites_head (Said.firstStatus g.inForce) (List.range 72)
        { s.powered with head := { s.powered.head with log := g, phase := 3 } }
      refine ⟨_, execPowerOn_release hp hf hb (hlog.trans hr), ?_, ?_, hd, ?_, nofun, nofun, ?_⟩
      · rw [State.release, hh, hhead]
      · rw [State.release, hh, hhead]
      · rw [State.release, hh]
      · rintro _ - ⟨⟩
        refine ⟨by rw [State.release, hh], by rw [State.release, hh], fun k hk => ?_⟩
        rw [State.release, State.status_setSites (g := fun s _ => s) (fun _ _ => rfl), if_pos (List.mem_range.mpr hk)]

theorem bringUpReachesReadyOrFails : Said.bringUpReachesReadyOrFails := by
  refine ⟨fun s => execPowerOn_noFlow, fun s hp hf => ?_, fun s k r i hphase hsite himage => execTileBoot_eq hphase hsite himage,
    fun s k r _ hphase hsite hreport hlanes hfits x hx => ?_, fun s hphase => ?_, bindGrid_reachesReadyOrFails⟩
  · obtain ⟨u, hrun, hpow, hbootno, hdies, hfail, hnorth, hlog, hready⟩ := powerOn_boots hp hf
    refine ⟨u, hrun, hpow, hbootno, diesBooted_of_head hdies hfail, ?_⟩
    obtain ⟨f, -, hdone⟩ := s.powered_diesBooted
    have h0 := hdone 0 (by decide)
    cases hi : Said.bootImage s 0 with
    | none =>
      rw [hi] at h0
      exact hnorth h0.1
    | some i =>
      rw [hi] at h0
      cases hr : s.head.log.recover (s.head.bootno + 1) with
      | none => exact hlog h0.1 hr
      | some g => exact hready g h0.1 hr
  · have hrun := execSelfTestReport_noLanes hphase hsite hreport hlanes hfits hx
    exact ⟨fun h => hrun.trans (congrArg Host.Outcome.next ((State.bindWhenAll_eq _).1 h)),
      fun h => hrun.trans (congrArg Host.Outcome.next ((State.bindWhenAll_eq _).2 h))⟩
  · exact ⟨_, execBindTimeout_eq hphase, State.failUnreported_eq_self, fun k hk => State.failUnreported_status hk⟩

end Sys2Proof.Machine
end

section
/-! SUPPORT. The binder (spec/02 R31): the tiles of each column take its live sites, and the tiles left over the nearest spares. -/

namespace Sys2Proof.Machine

/-! ### Maps built entry by entry -/

theorem FMap.get?_set {α : Type} (m : FMap α) (j : Nat) (x : α) (i : Nat) :
    FMap.get? (FMap.set m j x) i = if i = j then some x else FMap.get? m i := by
  split
  next h => rw [h, FMap.get?_set_self]
  next h => exact FMap.get?_set_ne m x h

theorem FMap.keys_pairwise {α : Type} {m : FMap α} (h : FMap.sorted m = true) : (m.map (·.1)).Pairwise (· < ·) := by
  induction m with
  | nil => exact .nil
  | cons p m ih =>
    refine List.pairwise_cons.mpr ⟨fun k hk => ?_, ih (FMap.sorted_tail h)⟩
    obtain ⟨q, hq, rfl⟩ := List.mem_map.mp hk
    exact FMap.sorted_above h q hq

/-- A map whose entries are set one after another. -/
def FMap.setAll {α : Type} (m : FMap α) (l : List (Nat × α)) : FMap α := l.foldl (fun m p => FMap.set m p.1 p.2) m

theorem FMap.setAll_sorted {α : Type} {m : FMap α} (l : List (Nat × α)) (h : FMap.sorted m = true) : FMap.sorted (m.setAll l) = true :=
  l.foldlRecOn _ (motive := fun m : FMap α => FMap.sorted m = true) h fun _ h _ _ => FMap.set_sorted _ _ h

/-- Entries that agree on each key stand in the map as they were set. -/
theorem FMap.get?_setAll_iff {α : Type} {l : List (Nat × α)} (hl : ∀ p ∈ l, ∀ q ∈ l, p.1 = q.1 → p.2 = q.2) (k : Nat) (v : α) :
    FMap.get? (FMap.setAll [] l) k = some v ↔ (k, v) ∈ l := by
  induction l using List.reverseRecOn with
  | nil => simp [FMap.setAll, FMap.get?]
  | append_singleton l p ih =>
    have ih := ih fun a ha b hb => hl a (List.mem_append_left _ ha) b (List.mem_append_left _ hb)
    have hset : FMap.setAll [] (l ++ [p]) = FMap.set (FMap.setAll [] l) p.1 p.2 := by simp [FMap.setAll]
    rw [hset, FMap.get?_set, List.mem_append, List.mem_singleton]
    split
    next h =>
      subst h
      refine ⟨fun h => .inr (by cases h; rfl), ?_⟩
      rintro (h | h)
      · exact congrArg some (hl p (by simp) _ (List.mem_append_left _ h) rfl)
      · rw [← h]
    next h =>
      rw [ih]
      exact ⟨.inl, fun h' => h'.resolve_right fun e => h (congrArg Prod.fst e)⟩

/-- An element of a rising list stands at the place that the number of lesser ones gives. -/
theorem getElem?_eq_some_iff_of_pairwise {l : List Nat} (hl : l.Pairwise (· < ·)) (i k : Nat) :
    l[i]? = some k ↔ k ∈ l ∧ (l.filter (fun j => decide (j < k))).length = i := by
  induction l generalizing i with
  | nil => simp
  | cons a l ih =>
    obtain ⟨ha, hl⟩ := List.pairwise_cons.mp hl
    have hnone : l.filter (fun j => decide (j < a)) = [] :=
      List.filter_eq_nil_iff.mpr fun j hj => by simpa using Nat.le_of_lt (ha j hj)
    cases i with
    | zero =>
      rw [List.getElem?_cons_zero, Option.some_inj, List.mem_cons]
      constructor
      · rintro rfl
        exact ⟨.inl rfl, by rw [List.filter_cons_of_neg (by simp), hnone]; rfl⟩
      · rintro ⟨rfl | hk, h⟩
        · rfl
        · rw [List.filter_cons_of_pos (by simpa using ha k hk)] at h
          cases h
    | succ i =>
      rw [List.getElem?_cons_succ, ih hl, List.mem_cons]
      constructor
      · rintro ⟨hk, h⟩
        exact ⟨.inr hk, by rw [List.filter_cons_of_pos (by simpa using ha k hk), List.length_cons, h]⟩
      · rintro ⟨rfl | hk, h⟩
        · rw [List.filter_cons_of_neg (by simp), hnone] at h
          cases h
        · rw [List.filter_cons_of_pos (by simpa using ha k hk), List.length_cons] at h
          exact ⟨hk, Nat.succ.inj h⟩

/-! ### Step 1: the columns -/

/-- The tiles of the columns with their sites. -/
def columnPairs (live : List Nat) (rows : Nat) : List (Nat × Nat) :=
  (List.range 8).flatMap fun c => ((List.range rows).zip (live.filter (fun k => k % 8 == c))).map fun p => (p.1 * 8 + c, p.2)

theorem bindColumns_eq (live : List Nat) (rows : Nat) : bindColumns live rows = FMap.setAll [] (columnPairs live rows) := by
  simp only [bindColumns, FMap.setAll, columnPairs, List.foldl_flatMap, List.foldl_map]

/-- The number of sites before one in its physical column. -/
def placeOf (live : List Nat) (k : Nat) : Nat := ((live.filter (fun j => j % 8 == k % 8)).filter (fun j => decide (j < k))).length

theorem mem_zip_range {l : List Nat} {n r k : Nat} : (r, k) ∈ (List.range n).zip l ↔ r < n ∧ l[r]? = some k := by
  rw [List.mem_iff_getElem?]
  simp only [List.getElem?_zip_eq_some]
  constructor
  · rintro ⟨i, hi, hk⟩
    obtain ⟨hlt, rfl⟩ := List.getElem?_eq_some_iff.mp hi
    rw [List.getElem_range]
    exact ⟨by rwa [List.length_range] at hlt, hk⟩
  · exact fun ⟨hr, hk⟩ => ⟨r, List.getElem?_range hr, hk⟩

theorem mem_columnPairs {live : List Nat} (hl : live.Pairwise (· < ·)) (rows t k : Nat) :
    (t, k) ∈ columnPairs live rows ↔ k ∈ live ∧ placeOf live k < rows ∧ t = placeOf live k * 8 + k % 8 := by
  have hcol : ∀ c r k, (live.filter (fun j => j % 8 == c))[r]? = some k ↔ (k ∈ live ∧ k % 8 = c) ∧ placeOf live k = r := by
    intro c r k
    rw [getElem?_eq_some_iff_of_pairwise (hl.filter _), List.mem_filter, beq_iff_eq]
    exact and_congr_right fun ⟨_, h⟩ => by rw [placeOf, h]
  simp only [columnPairs, List.mem_flatMap, List.mem_map, List.mem_range, Prod.exists, mem_zip_range, hcol, Prod.mk.injEq]
  constructor
  · rintro ⟨c, _, r, _, ⟨hr, ⟨hk, rfl⟩, rfl⟩, rfl, rfl⟩
    exact ⟨hk, hr, rfl⟩
  · rintro ⟨hk, hr, rfl⟩
    exact ⟨k % 8, Nat.mod_lt _ (by decide), _, k, ⟨hr, ⟨hk, rfl⟩, rfl⟩, rfl, rfl⟩

theorem get?_bindColumns {live : List Nat} (hl : live.Pairwise (· < ·)) (rows t k : Nat) :
    FMap.get? (bindColumns live rows) t = some k ↔ k ∈ live ∧ placeOf live k < rows ∧ t = placeOf live k * 8 + k % 8 := by
  rw [bindColumns_eq, FMap.get?_setAll_iff, mem_columnPairs hl]
  rintro ⟨t, k⟩ hp ⟨t', k'⟩ hq (rfl : t = t')
  obtain ⟨hk, -, ht⟩ := (mem_columnPairs hl _ _ _).mp hp
  obtain ⟨hk', -, ht'⟩ := (mem_columnPairs hl _ _ _).mp hq
  have hmod : k % 8 = k' % 8 := by omega
  have hplace : placeOf live k = placeOf live k' := by omega
  have hat := (getElem?_eq_some_iff_of_pairwise (hl.filter (fun j => j % 8 == k % 8)) (placeOf live k) k).mpr
    ⟨List.mem_filter.mpr ⟨hk, beq_self_eq_true _⟩, rfl⟩
  have hat' := (getElem?_eq_some_iff_of_pairwise (hl.filter (fun j => j % 8 == k % 8)) (placeOf live k) k').mpr
    ⟨List.mem_filter.mpr ⟨hk', by rw [hmod]; exact beq_self_eq_true _⟩, by rw [hplace, hmod]; rfl⟩
  exact Option.some.inj (hat.symm.trans hat')

/-! ### Step 3: the tiles left over -/

/-- A site is no farther from a place than another, and no higher in number where both are as far. -/
def Nearer (place k x : Nat) : Prop := hops place k < hops place x ∨ (hops place k = hops place x ∧ k ≤ x)

theorem Nearer.trans {p a b c : Nat} (h : Nearer p a b) (h' : Nearer p b c) : Nearer p a c := by
  unfold Nearer at *; omega

/-- The nearer of a site and the nearest so far. -/
def nearerOf (place : Nat) (b : Option Nat) (k : Nat) : Option Nat :=
  match b with
  | none => some k
  | some x => if hops place k < hops place x || (hops place k == hops place x && decide (k < x)) then some k else b

/-- The nearer of two is one of them, and no farther than either. -/
theorem nearerOf_some (place x k : Nat) : ∃ y, nearerOf place (some x) k = some y ∧ (y = x ∨ y = k) ∧ Nearer place y x ∧ Nearer place y k := by
  unfold nearerOf Nearer
  dsimp only
  split
  next h => simp at h; exact ⟨k, rfl, .inr rfl, by omega, by omega⟩
  next h => simp at h; exact ⟨x, rfl, .inl rfl, by omega, by omega⟩

theorem foldl_nearerOf (place : Nat) (l : List Nat) (x : Nat) :
    ∃ y, l.foldl (nearerOf place) (some x) = some y ∧ (y = x ∨ y ∈ l) ∧ Nearer place y x ∧ ∀ k ∈ l, Nearer place y k := by
  induction l generalizing x with
  | nil => exact ⟨x, rfl, .inl rfl, .inr ⟨rfl, Nat.le_refl x⟩, nofun⟩
  | cons a l ih =>
    obtain ⟨z, hz, hmem, hzx, hza⟩ := nearerOf_some place x a
    obtain ⟨y, hy, hmem', hyz, hyl⟩ := ih z
    refine ⟨y, by rw [List.foldl_cons, hz, hy], ?_, hyz.trans hzx, ?_⟩
    · rcases hmem' with rfl | h
      · exact hmem.imp id fun h => List.mem_cons.mpr (.inl h)
      · exact .inr (.tail _ h)
    · intro k hk
      cases hk with
      | head => exact hyz.trans hza
      | tail _ hk => exact hyl k hk

theorem nearest_of_mem {place : Nat} {l : List Nat} {k : Nat} (hk : k ∈ l) :
    ∃ y, nearest place l = some y ∧ y ∈ l ∧ ∀ k ∈ l, Nearer place y k := by
  cases l with
  | nil => cases hk
  | cons a l =>
    obtain ⟨y, hy, hmem, hya, hyl⟩ := foldl_nearerOf place l a
    refine ⟨y, hy, List.mem_cons.mpr hmem, fun k hk => ?_⟩
    cases hk with
    | head => exact hya
    | tail _ hk => exact hyl k hk

/-- A site is taken by some tile of a map. -/
def FMap.Takes (m : FMap Nat) (k : Nat) : Prop := ∃ t, FMap.get? m t = some k

theorem any_site_iff {m : FMap Nat} (hs : FMap.sorted m = true) (k : Nat) : m.any (fun kv => kv.2 == k) = true ↔ FMap.Takes m k := by
  simp only [List.any_eq_true, beq_iff_eq, Prod.exists, FMap.Takes]
  constructor
  · rintro ⟨t, _, h, rfl⟩
    exact ⟨t, FMap.get?_of_mem hs h⟩
  · rintro ⟨t, h⟩
    exact ⟨t, k, FMap.mem_of_get? h, rfl⟩

/-- The sites of a list that no tile takes. -/
def freeSites (live : List Nat) (m : FMap Nat) : List Nat := live.filter (fun k => !m.any (fun kv => kv.2 == k))

theorem mem_freeSites {live : List Nat} {m : FMap Nat} (hs : FMap.sorted m = true) {k : Nat} :
    k ∈ freeSites live m ↔ k ∈ live ∧ ¬ FMap.Takes m k := by
  rw [freeSites, List.mem_filter, Bool.not_eq_true', ← Bool.not_eq_true, any_site_iff hs]

/-- While a tile below n is unbound, one of n or more sites is free. -/
theorem exists_free {live : List Nat} {m : FMap Nat} {n t : Nat} (hs : FMap.sorted m = true) (hl : live.Nodup) (hn : n ≤ live.length)
    (hkeys : ∀ j k, FMap.get? m j = some k → j < n) (ht : t < n) (hnone : FMap.get? m t = none) :
    ∃ k, k ∈ live ∧ ¬ FMap.Takes m k := by
  by_contra hall
  simp only [not_exists, not_and, not_not] at hall
  have hsites : live.length ≤ (m.map (·.2)).length := by
    refine (List.subperm_of_subset hl fun k hk => ?_).length_le
    obtain ⟨j, hj⟩ := hall k hk
    exact List.mem_map.mpr ⟨(j, k), FMap.mem_of_get? hj, rfl⟩
  have hroom : (t :: m.map (·.1)).length ≤ (List.range n).length := by
    refine (List.subperm_of_subset (List.nodup_cons.mpr ⟨fun h => ?_, (FMap.keys_pairwise hs).imp Nat.ne_of_lt⟩) fun j hj => ?_).length_le
    · obtain ⟨⟨j, k⟩, hmem, rfl⟩ := List.mem_map.mp h
      rw [FMap.get?_of_mem hs hmem] at hnone
      cases hnone
    · rcases List.mem_cons.mp hj with rfl | h
      · exact List.mem_range.mpr ht
      · obtain ⟨⟨j, k⟩, hmem, rfl⟩ := List.mem_map.mp h
        exact List.mem_range.mpr (hkeys j k (FMap.get?_of_mem hs hmem))
  rw [List.length_cons, List.length_map, List.length_range] at hroom
  rw [List.length_map] at hsites
  omega

/-- A tile left over takes the nearest site that is free. -/
def bindOne (live : List Nat) (m : FMap Nat) (t : Nat) : FMap Nat :=
  if (FMap.get? m t).isSome then m
  else
    match nearest t (freeSites live m) with
    | some k => FMap.set m t k
    | none => m

theorem bindRest_eq (rows : Nat) (live : List Nat) (m : FMap Nat) : bindRest rows live m = (List.range (rows * 8)).foldl (bindOne live) m := rfl

theorem bindOne_bound {live : List Nat} {m : FMap Nat} {t k : Nat} (h : FMap.get? m t = some k) : bindOne live m t = m := by
  simp only [bindOne, h, Option.isSome_some, if_true]

theorem bindOne_free {live : List Nat} {m : FMap Nat} {t k : Nat} (hs : FMap.sorted m = true) (h : FMap.get? m t = none) (hk : k ∈ live)
    (hfree : ¬ FMap.Takes m k) : ∃ y, bindOne live m t = FMap.set m t y ∧ y ∈ live ∧ ¬ FMap.Takes m y ∧
      ∀ x ∈ live, ¬ FMap.Takes m x → Nearer t y x := by
  obtain ⟨y, hy, hmem, hnear⟩ := nearest_of_mem (place := t) ((mem_freeSites hs).mpr ⟨hk, hfree⟩)
  obtain ⟨hlive, htaken⟩ := (mem_freeSites hs).mp hmem
  refine ⟨y, ?_, hlive, htaken, fun x hx hx' => hnear x ((mem_freeSites hs).mpr ⟨hx, hx'⟩)⟩
  simp only [bindOne, h, hy, Option.isSome_none, Bool.false_eq_true, if_false]

/-- A binding m that extends the columns' binding m0, in which the tiles below n are bound, each left over to the nearest site that no
column's tile and no earlier tile takes. -/
structure BoundBelow (live : List Nat) (size : Nat) (m0 : FMap Nat) (n : Nat) (m : FMap Nat) : Prop where
  sorted : FMap.sorted m = true
  keys : ∀ t k, FMap.get? m t = some k → t < size
  sites : ∀ t k, FMap.get? m t = some k → k ∈ live
  once : ∀ t t' k, FMap.get? m t = some k → FMap.get? m t' = some k → t = t'
  keeps : ∀ t k, FMap.get? m0 t = some k → FMap.get? m t = some k
  later : ∀ t k, n ≤ t → FMap.get? m t = some k → FMap.get? m0 t = some k
  near : ∀ t, t < n → FMap.get? m0 t = none → ∃ k, FMap.get? m t = some k ∧
    ∀ x ∈ live, (∀ t', FMap.get? m t' = some x → t ≤ t' ∧ FMap.get? m0 t' = none) → Nearer t k x

theorem BoundBelow.bindOne {live : List Nat} {size n : Nat} {m0 m : FMap Nat} (h : BoundBelow live size m0 n m) (hl : live.Nodup)
    (hsize : size ≤ live.length) (hn : n < size) : BoundBelow live size m0 (n + 1) (bindOne live m n) := by
  cases hk : FMap.get? m n with
  | some k =>
    rw [bindOne_bound hk]
    refine { h with later := fun t k ht => h.later t k (by omega), near := fun t ht h0 => ?_ }
    rcases Nat.lt_succ_iff_lt_or_eq.mp ht with hlt | rfl
    · exact h.near t hlt h0
    · rw [h.later t k (Nat.le_refl t) hk] at h0
      cases h0
  | none =>
    obtain ⟨x, hx, hfree⟩ := exists_free h.sorted hl hsize h.keys hn hk
    obtain ⟨y, hset, hy, hyfree, hnear⟩ := bindOne_free h.sorted hk hx hfree
    have hget : ∀ t, FMap.get? (Machine.bindOne live m n) t = if t = n then some y else FMap.get? m t := fun t => by
      rw [hset, FMap.get?_set]
    have hold : ∀ t k, FMap.get? m t = some k → FMap.get? (Machine.bindOne live m n) t = some k := fun t k ht => by
      rw [hget, if_neg (by rintro rfl; rw [hk] at ht; cases ht), ht]
    refine ⟨by rw [hset]; exact FMap.set_sorted _ _ h.sorted, fun t k ht => ?_, fun t k ht => ?_, fun t t' k ht ht' => ?_,
      fun t k ht => hold t k (h.keeps t k ht), fun t k hle ht => ?_, fun t ht h0 => ?_⟩
    · rw [hget] at ht
      split at ht
      next e => exact e ▸ hn
      next => exact h.keys t k ht
    · rw [hget] at ht
      split at ht
      next => cases ht; exact hy
      next => exact h.sites t k ht
    · rw [hget] at ht ht'
      split at ht <;> split at ht'
      next e e' => exact e.trans e'.symm
      next => cases ht; exact absurd ⟨t', ht'⟩ hyfree
      next => cases ht'; exact absurd ⟨t, ht⟩ hyfree
      next => exact h.once t t' k ht ht'
    · rw [hget, if_neg (by omega)] at ht
      exact h.later t k (by omega) ht
    · rcases Nat.lt_succ_iff_lt_or_eq.mp ht with hlt | rfl
      · obtain ⟨k, htk, hbest⟩ := h.near t hlt h0
        exact ⟨k, hold t k htk, fun x hx hx' => hbest x hx fun t' ht' => hx' t' (hold t' x ht')⟩
      · refine ⟨y, by rw [hget, if_pos rfl], fun x hx hx' => hnear x hx ?_⟩
        rintro ⟨t', ht'⟩
        obtain ⟨hle, hnone⟩ := hx' t' (hold t' x ht')
        rw [h.later t' x hle ht'] at hnone
        cases hnone

theorem boundBelow_bindColumns {live : List Nat} (hl : live.Pairwise (· < ·)) (rows : Nat) :
    BoundBelow live (rows * 8) (bindColumns live rows) 0 (bindColumns live rows) where
  sorted := by rw [bindColumns_eq]; exact FMap.setAll_sorted _ rfl
  keys t k h := by
    obtain ⟨-, hlt, rfl⟩ := (get?_bindColumns hl rows t k).mp h
    omega
  sites t k h := ((get?_bindColumns hl rows t k).mp h).1
  once t t' k h h' := ((get?_bindColumns hl rows t k).mp h).2.2.trans ((get?_bindColumns hl rows t' k).mp h').2.2.symm
  keeps _ _ := id
  later _ _ _ := id
  near t ht := absurd ht (Nat.not_lt_zero t)

/-- The whole grid is bound so. -/
theorem boundBelow_bindRest {live : List Nat} (hl : live.Pairwise (· < ·)) {rows : Nat} (hsize : rows * 8 ≤ live.length) {n : Nat}
    (hn : n ≤ rows * 8) :
    BoundBelow live (rows * 8) (bindColumns live rows) n ((List.range n).foldl (bindOne live) (bindColumns live rows)) := by
  induction n with
  | zero => exact boundBelow_bindColumns hl rows
  | succ n ih =>
    rw [List.range_succ, List.foldl_append]
    exact (ih (by omega)).bindOne (hl.imp Nat.ne_of_lt) hsize hn

/-! ### The remap table (spec/02 R31, R32) -/

theorem FMap.get?_map {α β : Type} (m : FMap α) (f : α → β) (j : Nat) :
    FMap.get? (m.map fun kv => (kv.1, f kv.2)) j = (FMap.get? m j).map f := by
  induction m with
  | nil => rfl
  | cons p m ih =>
    rw [List.map_cons]
    simp only [FMap.get?, ih]
    split
    · rfl
    · split <;> rfl

theorem remapEntry_live (k : Nat) : remapEntry 1 k = .ofNat 16 (2 ^ 14 + k) := by
  rw [remapEntry, show 1 * 2 ^ 14 + k / 8 * 8 + k % 8 = 2 ^ 14 + k by omega]

theorem remapEntry_live_inj {k x : Nat} (hk : k < 72) (hx : x < 72) (h : BitVec.ofNat 16 (2 ^ 14 + k) = .ofNat 16 (2 ^ 14 + x)) : k = x := by
  have := congrArg BitVec.toNat h
  simp only [BitVec.toNat_ofNat] at this
  omega

theorem sitesIn_pairwise (s : State) (v : SiteStatus) : (s.sitesIn v).Pairwise (· < ·) := List.pairwise_lt_range.filter _

theorem placeOf_sitesIn (s : State) (k : Nat) : placeOf (s.sitesIn .live) k = Said.liveAbove s k := by
  rw [placeOf, State.sitesIn, Said.liveAbove, List.filter_filter, List.filter_filter]
  congr 2
  funext j
  rw [Bool.and_comm (decide (j < k)), Bool.and_assoc]

theorem rowsFor_le {n : Nat} (h : 56 ≤ n) : rowsFor n * 8 ≤ n := by
  unfold rowsFor; split <;> omega

theorem boundBelow_gridOf {live : List Nat} (hl : live.Pairwise (· < ·)) (h : 56 ≤ live.length) :
    BoundBelow live (rowsFor live.length * 8) (bindColumns live (rowsFor live.length)) (rowsFor live.length * 8) (gridOf live) := by
  rw [gridOf, bindRest_eq]
  exact boundBelow_bindRest hl (rowsFor_le h) (Nat.le_refl _)

theorem nearer_iff (t k x : Nat) : Nearer t k x ↔
    Said.hopsFrom t k < Said.hopsFrom t x ∨ (Said.hopsFrom t k = Said.hopsFrom t x ∧ k ≤ x) := by
  have h : ∀ k, hops t k = Said.hopsFrom t k := fun k => by unfold hops Said.hopsFrom; omega
  rw [Nearer, h, h]

section
variable {s : State} (h : 56 ≤ (s.sitesIn .live).length)
include h

theorem get?_bindGrid_remap (t : Nat) : FMap.get? s.bindGrid.head.remap t =
    (FMap.get? (gridOf (s.sitesIn .live)) t).map fun k => .ofNat 16 (2 ^ 14 + k) := by
  rw [(State.bindGrid_panel h).2, State.bound_head, FMap.get?_map, funext remapEntry_live]

/-- The tile of a site of the panel is the one that the binding gives it. -/
theorem boundTo_bindGrid_iff (t : Nat) {k : Nat} (hk : k < 72) :
    Said.boundTo s.bindGrid t k ↔ FMap.get? (gridOf (s.sitesIn .live)) t = some k := by
  rw [Said.boundTo, get?_bindGrid_remap h, Option.map_eq_some_iff]
  constructor
  · rintro ⟨x, hx, he⟩
    have hmem := (boundBelow_gridOf (sitesIn_pairwise s .live) h).sites t x hx
    rwa [remapEntry_live_inj (mem_sitesIn.mp hmem).1 hk he] at hx
  · exact fun hx => ⟨k, hx, rfl⟩

theorem boundTo_bindGrid_once {t t' k : Nat} (ht : Said.boundTo s.bindGrid t k) (ht' : Said.boundTo s.bindGrid t' k) : t = t' := by
  have hgrid := boundBelow_gridOf (sitesIn_pairwise s .live) h
  rw [Said.boundTo, get?_bindGrid_remap h, Option.map_eq_some_iff] at ht ht'
  obtain ⟨x, hx, he⟩ := ht
  obtain ⟨y, hy, he'⟩ := ht'
  have hxy : x = y := remapEntry_live_inj (mem_sitesIn.mp (hgrid.sites t x hx)).1 (mem_sitesIn.mp (hgrid.sites t' y hy)).1 (he.trans he'.symm)
  subst hxy
  exact hgrid.once t t' x hx hy

theorem bindGrid_spare_unpowered {k : Nat} (hk : k ∈ s.sitesIn .live) (hfree : ∀ t, ¬ Said.boundTo s.bindGrid t k) :
    (s.bindGrid.site k).status = .unpowered := by
  have hspare : k ∈ sparesOf (s.sitesIn .live) :=
    (mem_freeSites (boundBelow_gridOf (sitesIn_pairwise s .live) h).sorted).mpr
      ⟨hk, fun ⟨t, ht⟩ => hfree t ((boundTo_bindGrid_iff h t (mem_sitesIn.mp hk).1).mpr ht)⟩
  have hsite : s.bindGrid.site k = (s.bound (s.sitesIn .live)).site k := by simp only [State.site, (State.bindGrid_panel h).1]
  rw [hsite, State.bound, State.status_setSites (g := fun s _ => s) (fun _ _ => rfl) (fun _ => .unpowered), if_pos hspare]

end

theorem binderBindsInOrder : Said.binderBindsInOrder := by
  intro s h
  have hlive : ∀ k, k ∈ s.sitesIn .live ↔ k < 72 ∧ (s.site k).status = .live := fun k => mem_sitesIn
  have hgrid := boundBelow_gridOf (sitesIn_pairwise s .live) h
  have hfirst : ∀ t k, FMap.get? (bindColumns (s.sitesIn .live) (rowsFor (s.sitesIn .live).length)) t = some k ↔
      (k < 72 ∧ (s.site k).status = .live) ∧ Said.liveAbove s k < rowsFor (s.sitesIn .live).length ∧ t = Said.liveAbove s k * 8 + k % 8 :=
    fun t k => by rw [get?_bindColumns (sitesIn_pairwise s .live), placeOf_sitesIn, hlive]
  refine ⟨fun t k hf => ?_, fun t ht hnone => ?_, fun t t' k => boundTo_bindGrid_once h, fun t ht => ?_,
    fun k hk => bindGrid_spare_unpowered h ((hlive k).mpr hk)⟩
  · exact (boundTo_bindGrid_iff h t hf.1.1).mpr (hgrid.keeps t k ((hfirst t k).mpr hf))
  · have h0 : FMap.get? (bindColumns (s.sitesIn .live) (rowsFor (s.sitesIn .live).length)) t = none :=
      Option.eq_none_iff_forall_ne_some.mpr fun k hk => hnone k ((hfirst t k).mp hk)
    obtain ⟨k, hk, hnear⟩ := hgrid.near t ht h0
    have hmem := (hlive k).mp (hgrid.sites t k hk)
    refine ⟨k, (boundTo_bindGrid_iff h t hmem.1).mpr hk, hmem, fun x hx hlater => (nearer_iff t k x).mp (hnear x ((hlive x).mpr hx) ?_)⟩
    intro t' ht'
    obtain ⟨hle, hnot⟩ := hlater t' ((boundTo_bindGrid_iff h t' hx.1).mpr ht')
    exact ⟨hle, Option.eq_none_iff_forall_ne_some.mpr fun y hy => hnot y ((hfirst t' y).mp hy)⟩
  · have hnone : FMap.get? (gridOf (s.sitesIn .live)) t = none :=
      Option.eq_none_iff_forall_ne_some.mpr fun k hk => absurd (hgrid.keys t k hk) (Nat.not_lt.mpr ht)
    rw [get?_bindGrid_remap h, hnone]
    rfl

end Sys2Proof.Machine
end

section
/-! SUPPORT. Attestation, fuses, reset and loss of power, and the safe talkative state (spec/03 R42, R44, R46, R47, R50). -/

namespace Sys2Proof.Machine

/-! ### Slices of a list of bytes -/

theorem take_drop_append {α : Type} {n m : Nat} (a x b : List α) (hn : a.length = n) (hm : x.length = m) :
    ((a ++ (x ++ b)).drop n).take m = x := by
  rw [List.drop_left' hn, List.take_left' hm]

theorem length_flatten_map {α β : Type} {w : Nat} {f : α → List β} (hf : ∀ a, (f a).length = w) (l : List α) :
    (l.map f).flatten.length = w * l.length := by
  induction l with
  | nil => rfl
  | cons a l ih => rw [List.map_cons, List.flatten_cons, List.length_append, ih, hf, List.length_cons, Nat.mul_succ, Nat.add_comm]

/-- The items of one width stand one after another. -/
theorem take_drop_flatten {β : Type} {w d n : Nat} {f : Nat → List β} (hf : ∀ i, (f i).length = w) (hd : d < n) (b : List β) :
    ((((List.range n).map f).flatten ++ b).drop (w * d)).take w = f d := by
  obtain ⟨k, rfl⟩ := Nat.exists_eq_add_of_lt hd
  have hsplit : ((List.range (d + k + 1)).map f).flatten ++ b = ((List.range d).map f).flatten ++
      (f d ++ ((((List.range k).map Nat.succ).map (d + ·)).map f).flatten ++ b) := by
    rw [Nat.add_assoc, List.range_add, List.range_succ_eq_map]
    simp
  rw [hsplit, List.append_assoc (f d)]
  exact take_drop_append _ _ _ (by rw [length_flatten_map hf, List.length_range]) (hf d)

/-! ### Attestation (spec/03 R46) -/

/-- The bytes before the dies' measurements. -/
def State.attestHead (s : State) (nonce : BitVec 256) : List Byte :=
  leBytes nonce.toNat 32 ++ ([if s.head.production then 1 else 0, if s.head.grid7 then 7 else 8] ++ List.replicate 14 0)

def State.dieMeasures (s : State) : List Byte := ((List.range 4).map fun d => leBytes (s.die d).measure.toNat 48).flatten

/-- The tiles' measurements and their debug states. -/
def State.attestTiles (s : State) : List Byte :=
  ((List.range 64).map (fun t => leBytes (s.tileMeasure t).toNat 48)).flatten
  ++ (packBits 2 16 (fun t => if remapState (FMap.getD s.head.remap t 0) != 0 then (DebugState.code (s.tile t).debug) else 0)
  ++ packBits 1 8 (fun t => if remapState (FMap.getD s.head.remap t 0) != 0 && (s.tile t).opened then 1 else 0))

def State.logHash (s : State) : List Byte :=
  leBytes (Config.sha384 (((s.head.log.half.filter LogEntry.ok).map (fun e => leBytes e.word 64)).flatten)).toNat 48

theorem State.attestBody_eq (s : State) (nonce : BitVec 256) : s.attestBody nonce =
    s.attestHead nonce ++ (s.dieMeasures ++ (s.attestTiles ++ (leBytes s.head.log.lastSeq 8 ++ s.logHash))) := by
  simp only [State.attestBody, State.attestHead, State.dieMeasures, State.attestTiles, State.logHash, List.append_assoc]

theorem State.attestHead_length (s : State) (nonce : BitVec 256) : (s.attestHead nonce).length = 48 := by
  simp [State.attestHead, leBytes_length]

theorem State.dieMeasures_length (s : State) : s.dieMeasures.length = 192 :=
  length_flatten_map (fun _ => leBytes_length _ _) _

theorem State.attestTiles_length (s : State) : s.attestTiles.length = 3096 := by
  have h := length_flatten_map (fun t => leBytes_length (s.tileMeasure t).toNat 48) (List.range 64)
  rw [State.attestTiles, List.length_append, h]
  simp only [List.length_append, packBits, leBytes_length, List.length_range]

theorem execAttestationRequest_booted {s : State} (nonce : BitVec 256) (hp : s.head.powered = true) (hb : (s.die 0).booted = true) :
    execAttestationRequest nonce s = .next (s.reply (.bytes (s.attestBody nonce ++ leBytes (Config.ed25519Sign (s.attestBody nonce)) 64 ++
      leBytes (Config.mldsaSign (s.attestBody nonce)) 3309))) := by
  simp only [execAttestationRequest, hp, hb, Bool.and_self, if_true]

theorem attestation_reports {s : State} (nonce : BitVec 256) (hp : s.head.powered = true) (hb : (s.die 0).booted = true) :
    ∃ b, b.length = 0xD40 ∧
      execAttestationRequest nonce s = .next (s.reply (.bytes (b ++ leBytes (Config.ed25519Sign b) 64 ++ leBytes (Config.mldsaSign b) 3309))) ∧
      b.take 32 = leBytes nonce.toNat 32 ∧ (b.drop 32).take 2 = [if s.head.production then 1 else 0, if s.head.grid7 then 7 else 8] ∧
      (b.drop 34).take 14 = List.replicate 14 0 ∧
      (∀ d, d < 4 → (b.drop (0x30 + 48 * d)).take 48 = leBytes (s.die d).measure.toNat 48) ∧
      (b.drop 0xD08).take 8 = leBytes s.head.log.lastSeq 8 := by
  refine ⟨s.attestBody nonce, ?_, execAttestationRequest_booted nonce hp hb, ?_, ?_, ?_, fun d hd => ?_, ?_⟩ <;> rw [s.attestBody_eq]
  · simp only [List.length_append, s.attestHead_length, s.dieMeasures_length, s.attestTiles_length, leBytes_length, State.logHash]
  · rw [State.attestHead, List.append_assoc]
    exact List.take_left' (leBytes_length _ _)
  · rw [State.attestHead, List.append_assoc, List.append_assoc]
    exact take_drop_append _ _ _ (leBytes_length _ _) rfl
  · rw [State.attestHead, ← List.append_assoc (leBytes _ _), List.append_assoc]
    exact take_drop_append _ _ _ (by rw [List.length_append, leBytes_length]; rfl) List.length_replicate
  · rw [← List.drop_drop, List.drop_left' (s.attestHead_length nonce)]
    exact take_drop_flatten (fun _ => leBytes_length _ _) hd _
  · rw [← List.append_assoc, ← List.append_assoc]
    refine take_drop_append _ _ _ ?_ (leBytes_length _ _)
    rw [List.length_append, List.length_append, s.attestHead_length, s.dieMeasures_length, s.attestTiles_length]

/-! ### Fuses (spec/03 R42, R49) -/

theorem leBytes_add {v n : Nat} (hv : v < 256 ^ n) (c m : Nat) : leBytes (v + 256 ^ n * c) (n + m) = leBytes v n ++ leBytes c m := by
  induction n generalizing v with
  | zero =>
    have : v = 0 := by simpa using hv
    simp [this, leBytes]
  | succ n ih =>
    have hsplit : v + 256 ^ (n + 1) * c = v + 256 * (256 ^ n * c) := by rw [Nat.pow_succ, Nat.mul_comm (256 ^ n), Nat.mul_assoc]
    have hbyte : BitVec.ofNat 8 (v + 256 ^ (n + 1) * c) = BitVec.ofNat 8 v := by
      rw [hsplit]
      exact BitVec.eq_of_toNat_eq (by simp only [BitVec.toNat_ofNat]; omega)
    have hdiv : (v + 256 ^ (n + 1) * c) / 256 = v / 256 + 256 ^ n * c := by rw [hsplit]; omega
    rw [Nat.succ_add, leBytes, leBytes, hbyte, hdiv, ih (by rw [Nat.pow_succ] at hv; omega)]
    rfl

/-- A fuse command's eight bytes. -/
theorem fuseBody_eq (cmd : Nat) {v : Nat} (hv : v < 2 ^ 32) : fuseBody (cmd * 2 ^ 32 + v) = leBytes v 4 ++ leBytes cmd 4 := by
  rw [fuseBody, Nat.add_comm, Nat.mul_comm]
  exact leBytes_add (n := 4) hv cmd 4

/-- Some key that is not revoked has signed the body. -/
def State.fuseOk (s : State) (ver sig : Nat) : Bool :=
  (List.range 8).any fun i => !s.head.revoked.getLsbD i && Config.ed25519Ok (FMap.getD s.head.edKeys i 0) (fuseBody ver) sig

theorem fuseOk_iff (s : State) (cmd : Nat) {v : Nat} (sig : Nat) (hv : v < 2 ^ 32) :
    s.fuseOk (cmd * 2 ^ 32 + v) sig = true ↔ Said.fuseSigned s cmd v sig := by
  simp only [State.fuseOk, fuseBody_eq cmd hv, Said.fuseSigned, List.any_eq_true, List.mem_range, Bool.and_eq_true, Bool.not_eq_true']

section
variable {s : State} {cmd v : Nat} (sig : Nat) (hp : s.head.powered = true) (hb : (s.die 0).booted = true)
  (hcmd : cmd < 2 ^ 32) (hv : v < 2 ^ 32)
include hp hb hcmd hv

theorem execFuseCommand_eq : execFuseCommand (cmd * 2 ^ 32 + v) sig s = .next (
    if s.fuseOk (cmd * 2 ^ 32 + v) sig && cmd == 0 then
      ({ s with head := { s.head with secver := max s.head.secver v } }).reply (.status "Accepted")
    else if s.fuseOk (cmd * 2 ^ 32 + v) sig && cmd == 1 then
      ({ s with head := { s.head with production := true } }).reply (.status "Accepted")
    else s.reply (.status "Refused")) := by
  have hbits : bits (cmd * 2 ^ 32 + v) 32 32 = cmd := by unfold bits; omega
  have hlow : (cmd * 2 ^ 32 + v) % 2 ^ 32 = v := by omega
  simp only [execFuseCommand, hp, hb, Bool.and_self, Bool.not_true, Bool.false_eq_true, if_false, hbits, hlow]
  rfl

theorem fuseCommand_obeys :
    let run := execFuseCommand (cmd * 2 ^ 32 + v) sig s
    (Said.fuseSigned s cmd v sig → cmd = 0 → run = .next
      ({ s with head := { s.head with secver := max s.head.secver v } }.reply (.status "Accepted"))) ∧
    (Said.fuseSigned s cmd v sig → cmd = 1 → run = .next ({ s with head := { s.head with production := true } }.reply (.status "Accepted"))) ∧
    (¬ Said.fuseSigned s cmd v sig ∨ 1 < cmd → run = .next (s.reply (.status "Refused"))) := by
  dsimp only
  rw [← fuseOk_iff s cmd sig hv, execFuseCommand_eq sig hp hb hcmd hv]
  refine ⟨fun hok h0 => ?_, fun hok h1 => ?_, fun h => ?_⟩
  · rw [if_pos (by rw [hok, h0]; rfl)]
  · rw [if_neg (by rw [hok, h1]; decide), if_pos (by rw [hok, h1]; rfl)]
  · have hnot : ∀ c, c ≤ 1 → ¬ (s.fuseOk (cmd * 2 ^ 32 + v) sig && cmd == c) = true := fun c hc h' => by
      rw [Bool.and_eq_true, beq_iff_eq] at h'
      obtain ⟨hok, rfl⟩ := h'
      exact h.elim (absurd hok) (Nat.not_lt.mpr hc)
    rw [if_neg (hnot 0 (by decide)), if_neg (hnot 1 (by decide))]

end

/-! ### Reset and loss of power (spec/03 R47, R50) -/

theorem State.die_cold (s : State) (d : Nat) : s.cold.die d = (s.die d).cold := by
  have h : s.cold.die d = (FMap.get? (FMap.mapVals s.dies fun _ => Die.cold) d).getD Die.reset := rfl
  rw [h, FMap.get?_mapVals, State.die, FMap.getD]
  cases FMap.get? s.dies d <;> rfl

/-- After power has come and gone, whatever the log then holds. -/
theorem cold_withLog (s : State) (f : Nat) (g : RetireLog) :
    Said.cold s { s.cold with fresh := f, head := { s.cold.head with log := g } } := by
  refine ⟨rfl, rfl, rfl, rfl, rfl, rfl, rfl, rfl, rfl, rfl, rfl, rfl, rfl, rfl, rfl, rfl, rfl, rfl, rfl, rfl, rfl, rfl, rfl, rfl, rfl, rfl,
    rfl, fun d => ?_⟩
  rw [show State.die { s.cold with fresh := f, head := { s.cold.head with log := g } } d = (s.die d).cold from s.die_cold d]
  exact ⟨rfl, rfl, rfl, rfl⟩

theorem State.cold_cold (s : State) : Said.cold s s.cold := cold_withLog s s.fresh s.head.log

theorem execPowerLoss_whole (s : State) : execPowerLoss false s = .next s.cold := by
  simp only [execPowerLoss, Bool.false_and, Bool.false_eq_true, if_false]

/-- The loss may have torn the first Seal of a blank log. -/
def State.tornSeal (s : State) : Bool := s.head.sealing && (Config.freeWord s.fresh).toNat % 2 == 1

theorem execPowerLoss_torn {s : State} (hp : s.head.powered = true) (hphase : 3 ≤ s.head.phase) (hhalf : s.head.log.half ≠ []) :
    execPowerLoss true s =
      .next { s.cold with fresh := s.cold.fresh + 1, head := { s.cold.head with log := s.head.log.tear s.tornSeal } } := by
  simp only [execPowerLoss, hp, hphase, List.isEmpty_eq_false_iff.mpr hhalf, decide_true, Bool.not_false, Bool.and_self, if_true]
  rfl

theorem tornEntry_voided (seq kind : Nat) : (tornEntry seq kind).ok = false ∧ (voidTorn [tornEntry seq kind]).map (·.commit) = [0] :=
  ⟨rfl, rfl⟩

theorem RetireLog.setHalf_half (g : RetireLog) (l : List LogEntry) : (g.setHalf l).half = l := by
  unfold RetireLog.setHalf
  split
  next h => simp only [RetireLog.half, h, if_true]
  next h => simp only [RetireLog.half, h, if_false]

/-- An append torn by the loss adds one entry that is not committed. -/
theorem RetireLog.tear_append {g : RetireLog} (h : g.half.length < 1024) :
    (g.tear false).half = g.half ++ [tornEntry (g.lastSeq + 1) 1] := by
  simp only [RetireLog.tear, Bool.false_eq_true, if_false, h, if_true, RetireLog.setHalf_half]

theorem powerLoss_tears {s : State} (hlen : s.head.log.half.length < 1024) :
    ∃ e : LogEntry, e.ok = false ∧ (voidTorn [e]).map (·.commit) = [0] ∧
      ((s.head.log.tear s.tornSeal).half = s.head.log.half ++ [e] ∨ s.head.sealing = true ∧ s.head.log.tear s.tornSeal = ⟨[e], [], 0⟩) ∧
      ∀ x ∈ (s.head.log.tear s.tornSeal).inForce, x ∈ s.head.log.inForce := by
  cases hfirst : s.tornSeal with
  | true =>
    refine ⟨tornEntry 0 0, (tornEntry_voided 0 0).1, (tornEntry_voided 0 0).2, .inr ⟨(Bool.and_eq_true_iff.mp hfirst).1, rfl⟩, ?_⟩
    rw [show (s.head.log.tear true).inForce = [] from rfl]
    exact nofun
  | false =>
    obtain ⟨hok, hvoid⟩ := tornEntry_voided (s.head.log.lastSeq + 1) 1
    refine ⟨_, hok, hvoid, .inl (RetireLog.tear_append hlen), fun x hx => ?_⟩
    rw [RetireLog.inForce, RetireLog.tear_append hlen, List.filter_append, List.filter_cons_of_neg (by rw [hok]; exact Bool.false_ne_true),
      List.filter_nil, List.append_nil] at hx
    exact hx

/-! ### The safe talkative state (spec/03 R44) -/

theorem State.talks_site {s : State} {k : Nat} (hk : k < 72) :
    s.talks k = true ↔ (s.site k).status = .talkative ∨ (s.site k).status = .failed := by
  simp only [State.talks, hk, if_true, Bool.or_eq_true, beq_iff_eq]

theorem State.talks_die {s : State} {d : Nat} (hd : d < 4) (ht : (s.die d).talkative = true) (hoff : (s.die d).off = false) :
    s.talks (72 + d) = true := by
  have hlt : 72 + d < 76 := by omega
  simp only [State.talks, show ¬ 72 + d < 72 by omega, if_false, Nat.add_sub_cancel_left, ht, hoff, hlt, Bool.not_false, Bool.and_self,
    decide_true]

theorem execSafeTalkativePowerOff_silent {s : State} {n : Nat} (h : s.talks (n % 76) = false) :
    execSafeTalkativePowerOff n s = .next s := by
  simp only [execSafeTalkativePowerOff, h, Bool.not_false, if_true]

theorem execSafeTalkativePowerOff_site {s : State} {k : Nat} (hk : k < 72) (h : s.talks k = true) :
    execSafeTalkativePowerOff k s = .next (s.putSite k Site.reset) := by
  simp only [execSafeTalkativePowerOff, Nat.mod_eq_of_lt (show k < 76 by omega), h, hk, Bool.not_true, Bool.false_eq_true, if_false, if_true]

theorem execSafeTalkativePowerOff_die {s : State} {d : Nat} (hd : d < 4) (h : s.talks (72 + d) = true) :
    execSafeTalkativePowerOff (72 + d) s = .next (s.putDie d { s.die d with off := true }) := by
  simp only [execSafeTalkativePowerOff, Nat.mod_eq_of_lt (show 72 + d < 76 by omega), h, Bool.not_true, Bool.false_eq_true, if_false,
    show ¬ 72 + d < 72 by omega, show 72 + d < 76 by omega, if_true, Nat.add_sub_cancel_left]

/-- A query of a site or a die in that state is answered. -/
theorem execSafeTalkativePowerOff_query {s : State} {n q : Nat} (hn : n < 76) (hq : 1 ≤ q) (hq' : q < 4) (h : s.talks n = true) :
    execSafeTalkativePowerOff (76 * q + n) s = .next (s.reply (s.talk n q)) := by
  have hmod : (76 * q + n) % 76 = n := by omega
  have hdiv : (76 * q + n) / 76 = q := by omega
  simp only [execSafeTalkativePowerOff, hmod, hdiv, h, Bool.not_true, Bool.false_eq_true, if_false, show ¬ 76 * q + n < 72 by omega,
    show ¬ 76 * q + n < 76 by omega, show 76 * q + n < 4 * 76 by omega, if_true]

theorem State.talk_test {s : State} {k : Nat} {r : SelfTest} (hk : k < 72) (hr : (s.site k).report = some r) :
    s.talk k 2 = .status (if r.pass then "Pass" else "Fail") := by
  simp only [State.talk, hk, if_true, hr]

theorem State.talk_site {s : State} {k : Nat} (hk : k < 72) : s.talk k 3 = .bytes (leBytes (s.site k).measure.toNat 48) := by
  simp only [State.talk, hk, if_true]

theorem State.talk_die (s : State) (d : Nat) : s.talk (72 + d) 3 = .bytes (leBytes (s.die d).measure.toNat 48) := by
  simp only [State.talk, show ¬ 72 + d < 72 by omega, if_false, Nat.add_sub_cancel_left]

theorem resetKeepsFusesAndLog : Said.resetKeepsFusesAndLog := by
  refine ⟨fun s n hp hb => attestation_reports n hp hb, fun s cmd v sig hcmd hv hp hb => fuseCommand_obeys sig hp hb hcmd hv,
    fun s => ⟨_, rfl, s.cold_cold, rfl⟩, fun s => ⟨_, execPowerLoss_whole s, s.cold_cold, rfl⟩, fun s hp hphase hhalf hlen => ?_,
    fun s k hk => ⟨fun h => execSafeTalkativePowerOff_site hk ((State.talks_site hk).mpr h), fun h => ?_⟩, fun s d hd ht hoff => ?_,
    fun s k hk h => ?_⟩
  · obtain ⟨e, hok, hvoid, hlog, hforce⟩ := powerLoss_tears hlen
    exact ⟨_, e, execPowerLoss_torn hp hphase hhalf, cold_withLog s _ _, hok, hvoid, hlog, hforce⟩
  · refine execSafeTalkativePowerOff_silent ?_
    rw [Nat.mod_eq_of_lt (by omega), ← Bool.not_eq_true, State.talks_site hk, h]
    exact nofun
  · have htalks := State.talks_die hd ht hoff
    refine ⟨execSafeTalkativePowerOff_die hd htalks, ?_⟩
    rw [Nat.add_assoc, ← s.talk_die d]
    exact execSafeTalkativePowerOff_query (by omega) (by decide) (by decide) htalks
  · have htalks := (State.talks_site hk).mpr h
    refine ⟨execSafeTalkativePowerOff_query (q := 1) (by omega) (by decide) (by decide) htalks, fun r hr => ?_, ?_⟩
    · rw [← State.talk_test hk hr]
      exact execSafeTalkativePowerOff_query (by omega) (by decide) (by decide) htalks
    · rw [← State.talk_site hk]
      exact execSafeTalkativePowerOff_query (by omega) (by decide) (by decide) htalks

/-- Settles O33: bring-up by the branches of its steps, the binder by its loop's invariant, and what outlives a loss of power. -/
theorem bringUpAndReset : Obligations.BringUpAndReset := ⟨bringUpReachesReadyOrFails, binderBindsInOrder, resetKeepsFusesAndLog⟩

end Sys2Proof.Machine
end

section
/-! SUPPORT. A lane's repair, and what the scrubber finds (spec/03 R48, spec/11 R220, R221, R226). -/

namespace Sys2Proof.Machine

/-! ### The repair of a lane (spec/03 R48) -/

theorem State.colRetired_eq_false_iff (s : State) (site col : Nat) : s.colRetired site col = false ↔ Said.columnKept s site col := by
  simp only [State.colRetired, Said.columnKept, List.any_eq_false, Bool.and_eq_true, beq_iff_eq, not_and, and_imp, ne_eq]

theorem State.repairable_iff (s : State) (site col lane : Nat) : s.repairable site col lane = true ↔ Said.spareLeft s site col lane := by
  simp only [State.repairable, Said.spareLeft, Bool.and_eq_true, Bool.not_eq_true', State.colRetired_eq_false_iff]

theorem State.startRepair_free {s : State} {t col : Nat} (n : Nat) (h : (s.col (colKey t col)).repair = none) :
    s.startRepair t col n = Said.repairing s t col n := by
  simp only [State.startRepair, h, Option.isSome_none, Bool.false_eq_true, if_false, Said.repairing]

theorem State.startRepair_busy {s : State} {t col : Nat} (n : Nat) (h : (s.col (colKey t col)).repair ≠ none) :
    s.startRepair t col n = s.reply (.status "Busy") := by
  simp only [State.startRepair, Option.isSome_iff_ne_none.mpr h, if_true]

section
variable {s : State} {t site col lane : Nat} (hup : s.tileUp t = true) (hsite : s.siteOf t = some site) (hcol : col < 16) (hlane : lane < 1040)
include hup hsite hcol hlane

theorem execRepairCommand_eq : execRepairCommand t col lane s =
    .next (if s.repairable site col lane then s.startRepair t col lane else s.reply (.noSpare t col)) := by
  simp [execRepairCommand, hsite, hup, Nat.not_le.mpr hcol, Nat.not_le.mpr hlane]

omit hup hcol hlane in
theorem execRepairAuto_disabled {cls : Nat} (hbit : bits (s.tile t).repauth cls 1 = 0) : execRepairAuto t col lane cls s = .next s := by
  simp [execRepairAuto, hsite, hbit]

theorem execRepairAuto_eq {cls : Nat} (hcls : cls ≤ 2) (hbit : bits (s.tile t).repauth cls 1 = 1) : execRepairAuto t col lane cls s =
    .next (if cls = 0 then s.startRepair t col (4096 + lane)
      else if s.repairable site col lane then s.startRepair t col lane else s.reply (.noSpare t col)) := by
  simp [execRepairAuto, hsite, hup, hbit, Nat.not_le.mpr hcol, Nat.not_le.mpr hlane, Nat.not_lt.mpr hcls]

/-- A repair is begun, refused while another is under way, or reported where no spare is left. -/
theorem repair_begins :
    (Said.spareLeft s site col lane → (s.col (colKey t col)).repair = none → execRepairCommand t col lane s = .next (Said.repairing s t col lane)) ∧
    (Said.spareLeft s site col lane → (s.col (colKey t col)).repair ≠ none → execRepairCommand t col lane s = .next (s.reply (.status "Busy"))) ∧
    (¬ Said.spareLeft s site col lane → execRepairCommand t col lane s = .next (s.reply (.noSpare t col))) := by
  simp only [← State.repairable_iff, execRepairCommand_eq hup hsite hcol hlane]
  refine ⟨fun h hfree => ?_, fun h hbusy => ?_, fun h => ?_⟩
  · rw [if_pos h, State.startRepair_free _ hfree]
  · rw [if_pos h, State.startRepair_busy _ hbusy]
  · rw [if_neg h]

end

section
variable {s : State} {t site col lane : Nat} (hsite : s.siteOf t = some site)
include hsite

theorem execRepairSwitch_retrain (hr : (s.col (colKey t col)).repair = some (4096 + lane)) : execRepairSwitch t col s =
    .next ((s.putCol (colKey t col) { s.col (colKey t col) with repair := none }).raiseMain 0x23 t (2 ^ 63 + col * 65536 + lane)) := by
  simp only [execRepairSwitch, hr, hsite, Nat.le_add_right, if_true, Nat.add_sub_cancel_left]

theorem execRepairSwitch_lane (hlane : lane < 1040) (hr : (s.col (colKey t col)).repair = some lane) : execRepairSwitch t col s =
    .next (let v := s.putCol (colKey t col) { s.col (colKey t col) with repair := none }
      if s.colRetired site col then v.reply (.noSpare t col)
      else
        let a := v.logAppend 3 site col lane 0x23
        (a.putCol (colKey t col) { a.col (colKey t col) with
          busBad := false, lanes := laneMap (s.deadLanes site col ++ [lane]) }).raiseMain 0x23 t (col * 65536 + lane)) := by
  simp only [execRepairSwitch, hr, hsite, if_neg (show ¬ 4096 ≤ lane by omega)]
  rfl

end

/-! ### The error log (spec/11 R221) -/

/-- Has a corrected error of a source raised MemoryError within the last second? -/
def Tile.raisedLately (x : Tile) (src : Nat) : Bool :=
  match FMap.get? x.corrAt src with | some c => decide (x.cyc < c + 1350000000) | none => false

/-- A tile's error log with one more entry. -/
def Tile.logged (x : Tile) (src : Nat) (unc : Bool) (pa : Nat) (h : BitVec 64) (tseq : Nat) : Tile :=
  { x with
    elogcnt := (x.elogcnt + 1) % 2 ^ 32, elog := FMap.set x.elog (x.elogcnt % 64) ⟨src, unc, pa, h, tseq, x.cyc⟩
    corrAt := if unc || x.raisedLately src || src = 15 then x.corrAt else FMap.set x.corrAt src x.cyc }

theorem State.logError_cases (s : State) (t src : Nat) (unc : Bool) (pa : Nat) (h : BitVec 64) (tseq : Nat) :
    s.logError t src unc pa h tseq =
      let s1 := s.putTile t ((s.tile t).logged src unc pa h tseq)
      if src = 15 then s1
      else if unc then s1.raiseMain 0x31 t (pa * 2)
      else if (s.tile t).raisedLately src then s1 else s1.raiseMain 0x31 t (pa * 2 + 1) := rfl

/-- The log changes its tile, and what an event changes. -/
theorem State.logError_eq (s : State) (t src : Nat) (unc : Bool) (pa : Nat) (h : BitVec 64) (tseq : Nat) :
    ∃ hm p d o, s.logError t src unc pa h tseq =
      { s.putTile t ((s.tile t).logged src unc pa h tseq) with hostMem := hm, ports := p, dies := d, out := o } := by
  rw [State.logError_cases]
  dsimp only
  split
  · exact ⟨_, _, _, _, rfl⟩
  · split
    · exact State.raise_eq _ _
    · split
      · exact ⟨_, _, _, _, rfl⟩
      · exact State.raise_eq _ _

theorem State.logError_tile (s : State) (t src : Nat) (unc : Bool) (pa : Nat) (h : BitVec 64) (tseq : Nat) :
    (s.logError t src unc pa h tseq).tile t = (s.tile t).logged src unc pa h tseq := by
  obtain ⟨_, _, _, _, e⟩ := s.logError_eq t src unc pa h tseq
  rw [e]
  exact FMap.getD_set_self _ _ _ _

/-! ### The scrubber (spec/11 R220, R221) -/

/-- The scrubber finds a corrected error or one that is not. -/
theorem execPatrolScrub_uncorrectable {s : State} {pa k : Nat} (hpa : s.paOk pa 1 = true) (h2 : 2 ≤ k) (h16 : k < 16) :
    execPatrolScrub pa k s = .next ({ s with badLines := if s.badLines.contains (pa / 64) then s.badLines else s.badLines ++ [pa / 64] }.logError
      (pa / 2 ^ 36) 1 true pa 0 0) := by
  simp [execPatrolScrub, hpa, Nat.not_le.mpr h16, show k ≠ 0 by omega, show k ≠ 1 by omega]

theorem mem_addLine (l : List Nat) (a : Nat) : a ∈ (if l.contains a then l else l ++ [a]) ∧ ∀ x ∈ l, x ∈ (if l.contains a then l else l ++ [a]) := by
  split
  next h => exact ⟨List.contains_iff_mem.mp h, fun _ hx => hx⟩
  next => exact ⟨List.mem_append_right _ (List.mem_singleton.mpr rfl), fun _ hx => List.mem_append_left _ hx⟩

theorem patrolScrub_logs (s : State) (pa : Nat) (hpa : s.paOk pa 1 = true) :
    Said.Runs (.patrolScrub pa 0) s s ∧ Said.Runs (.patrolScrub pa 1) s (s.logError (pa / 2 ^ 36) 1 false pa 0 0) ∧
    ∀ k, 2 ≤ k → k < 16 → ∃ u, Said.Runs (.patrolScrub pa k) s u ∧ pa / 64 ∈ u.badLines ∧ (∀ l ∈ s.badLines, l ∈ u.badLines) ∧
      u.mem = s.mem ∧ (u.tile (pa / 2 ^ 36)).elogcnt = ((s.tile (pa / 2 ^ 36)).elogcnt + 1) % 2 ^ 32 := by
  refine ⟨?_, ?_, fun k h2 h16 => ?_⟩
  · change execPatrolScrub pa 0 s = _
    simp [execPatrolScrub]
  · change execPatrolScrub pa 1 s = _
    simp [execPatrolScrub, hpa]
  · refine ⟨_, execPatrolScrub_uncorrectable hpa h2 h16, ?_⟩
    have htile := State.logError_tile { s with badLines := if s.badLines.contains (pa / 64) then s.badLines else s.badLines ++ [pa / 64] }
      (pa / 2 ^ 36) 1 true pa 0 0
    obtain ⟨_, _, _, _, e⟩ := State.logError_eq { s with badLines := if s.badLines.contains (pa / 64) then s.badLines else s.badLines ++ [pa / 64] }
      (pa / 2 ^ 36) 1 true pa 0 0
    rw [htile, e]
    exact ⟨(mem_addLine _ _).1, (mem_addLine _ _).2, rfl, rfl⟩

/-- An error in a register of a strand in a slot, in a stored image, and in a column's path marks it (log 36). -/
theorem patrolScrub_marks (s : State) (st : Strand) (r col : Nat) (hst : s.strand? st.handle = some st) (hr : r < 128) :
    (st.inSlot = true → Said.Runs (.patrolScrub (st.handle.toNat * 256 + r) 22) s (s.putStrand (st.setRc r { st.rc r with par := true }))) ∧
    (st.inSlot = false → Said.Runs (.patrolScrub st.handle.toNat 24) s (s.putStrand { st with imgBad := true })) ∧
    Said.Runs (.patrolScrub col 25) s (s.putCol col { s.col col with busBad := true }) := by
  have hdiv : (st.handle.toNat * 256 + r) / 256 = st.handle.toNat := by omega
  have hmod : (st.handle.toNat * 256 + r) % 256 = r := by omega
  refine ⟨fun hin => ?_, fun hout => ?_, ?_⟩
  · change execPatrolScrub _ 22 s = _
    simp [execPatrolScrub, State.strike, hdiv, hmod, hst, hin, Nat.not_le.mpr hr]
  · change execPatrolScrub _ 24 s = _
    simp [execPatrolScrub, State.strike, hst, hout]
  · change execPatrolScrub _ 25 s = _
    simp [execPatrolScrub, State.strike]

theorem repairMapsALane : Said.repairMapsALane := by
  refine ⟨fun s t site col lane hup hsite hcol hlane => ?_, fun s t site col lane hsite hlane => ?_, patrolScrub_logs, patrolScrub_marks⟩
  · obtain ⟨hbegin, hbusy, hreport⟩ := repair_begins hup hsite hcol hlane
    refine ⟨hbegin, hbusy, hreport, fun cls _ => execRepairAuto_disabled hsite, fun hbit hfree => ?_, fun cls hcls hbit => ?_⟩
    · exact (execRepairAuto_eq hup hsite hcol hlane (by decide) hbit).trans (congrArg _ (State.startRepair_free _ hfree))
    · have hrun := (execRepairAuto_eq hup hsite hcol hlane (by omega) hbit).trans (congrArg _ (if_neg (by omega)))
      rw [← execRepairCommand_eq hup hsite hcol hlane] at hrun
      exact ⟨fun hspare hfree => hrun.trans (hbegin hspare hfree), fun hspare => hrun.trans (hreport hspare)⟩
  · refine ⟨execRepairSwitch_retrain hsite, fun hr hgone => ?_, fun hr hkept => ?_⟩
    · rw [← State.colRetired_eq_false_iff, Bool.not_eq_false] at hgone
      exact (execRepairSwitch_lane hsite hlane hr).trans (congrArg _ (if_pos hgone))
    · rw [← State.colRetired_eq_false_iff] at hkept
      exact (execRepairSwitch_lane hsite hlane hr).trans (congrArg _ (if_neg (by rw [hkept]; exact Bool.false_ne_true)))

end Sys2Proof.Machine
end

section
/-! SUPPORT. Planned retirement of a tile (spec/02 R31, R37, spec/03 R47). -/

namespace Sys2Proof.Machine

/-! ### What a new update leaves of the head gardener (spec/02 R34) -/

theorem State.inStep_head (s : State) (r : Nat) : (s.inStep r).head = s.head := by
  unfold State.inStep
  dsimp only
  split <;> rfl

/-- Of the head gardener a new update changes nothing else. -/
theorem State.startUpdate_head (s : State) : ∃ x b, s.startUpdate.head = { s.head with update := x, stale := b } := by
  unfold State.startUpdate
  split
  · exact ⟨_, _, rfl⟩
  · dsimp only
    have hstep : ((s.meshNodes s.head.remap).foldl State.inStep s).head = s.head :=
      List.foldlRecOn _ _ (motive := fun u : State => u.head = s.head) rfl fun b hb r _ => (b.inStep_head r).trans hb
    obtain ⟨_, _, h⟩ := State.sendEach_eq { (s.meshNodes s.head.remap).foldl State.inStep s with head := _ } _ Msg.tableUpdate
    rw [h]
    dsimp only
    rw [hstep]
    exact ⟨_, _, rfl⟩

/-! ### A tile's sieves apply what is pending (spec/09 R180) -/

/-- The head gardener, the sites and the tiles' power managers are as they were. -/
structure State.SamePlaces (s u : State) : Prop where
  head : u.head = s.head
  sites : u.sites = s.sites
  pow : ∀ t, (u.tile t).pow = (s.tile t).pow

theorem State.SamePlaces.refl (s : State) : s.SamePlaces s := ⟨rfl, rfl, fun _ => rfl⟩

theorem State.SamePlaces.trans {s t u : State} (h : s.SamePlaces t) (h' : t.SamePlaces u) : s.SamePlaces u :=
  ⟨h'.head.trans h.head, h'.sites.trans h.sites, fun k => (h'.pow k).trans (h.pow k)⟩

theorem State.SamePlaces.foldl {α : Type} {f : State → α → State} (hf : ∀ (s : State) a, s.SamePlaces (f s a)) (l : List α) (s : State) :
    s.SamePlaces (l.foldl f s) :=
  l.foldlRecOn f (motive := s.SamePlaces) (.refl s) fun b hb a _ => hb.trans (hf b a)

theorem State.putTile_pow (s : State) (t : Nat) (x : Tile) (hx : x.pow = (s.tile t).pow) (k : Nat) :
    ((s.putTile t x).tile k).pow = (s.tile k).pow := by
  by_cases hk : k = t
  · subst hk
    rw [State.tile, State.putTile_tiles, FMap.getD_set_self, hx]
  · rw [State.tile, State.putTile_tiles, FMap.getD_set_ne _ _ _ hk]; rfl

theorem State.logError_samePlaces (s : State) (t src : Nat) (unc : Bool) (pa : Nat) (h : BitVec 64) (tseq : Nat) :
    s.SamePlaces (s.logError t src unc pa h tseq) := by
  obtain ⟨_, _, _, _, e⟩ := s.logError_eq t src unc pa h tseq
  rw [e]
  exact ⟨rfl, rfl, s.putTile_pow t _ rfl⟩

theorem State.applyLoc_samePlaces (s : State) (qk loc : Nat) : s.SamePlaces (s.applyLoc qk loc) := by
  unfold State.applyLoc
  dsimp only
  split
  · exact s.logError_samePlaces ..
  · exact ⟨rfl, rfl, fun _ => rfl⟩

theorem State.viaBus_samePlaces (s : State) (key off len : Nat) (write : Bool) : s.SamePlaces (s.viaBus key off len write) :=
  ⟨rfl, rfl, fun _ => rfl⟩

theorem State.applyGranule_samePlaces (s : State) (qk g : Nat) (why : ApplyFor) : s.SamePlaces (s.applyGranule qk g why) := by
  have hloc := State.SamePlaces.foldl (fun s l => s.applyLoc_samePlaces qk l) ((s.quad qk).locsOf g) s
  have hback := State.SamePlaces.foldl (f := fun s l => s.lineByBus l false) (fun s l => s.viaBus_samePlaces _ _ 64 false) ((s.quad qk).backLines g)
    (((s.quad qk).locsOf g).foldl (fun s l => s.applyLoc qk l) s)
  unfold State.applyGranule
  dsimp only
  split
  · exact .refl s
  · exact ((hloc.trans hback).trans (.foldl (fun s l => s.viaBus_samePlaces _ _ 64 true) _ _)).trans ⟨rfl, rfl, fun _ => rfl⟩

theorem State.applyTile_samePlaces (s : State) (t : Nat) : s.SamePlaces (s.applyTile t) :=
  .foldl (fun s _ => .foldl (fun s g => s.applyGranule_samePlaces _ g .retire) _ s) _ s

theorem State.retainTile_samePlaces (s : State) (t : Nat) : s.SamePlaces (s.retainTile t) := by
  have h := s.applyTile_samePlaces t
  unfold State.retainTile
  generalize s.applyTile t = u at h ⊢
  exact h.trans ⟨rfl, rfl, fun _ => rfl⟩

/-! ### Retire (spec/02 R37) -/

/-- A tile that was Off runs at its new site (log 27). -/
def Power.moved (p : Power) : Power := if p.mode == .off then { p with mode := .run, target := none } else p

theorem Power.moved_mode (p : Power) : p.moved.mode = if p.mode = .off then .run else p.mode := by
  unfold Power.moved
  by_cases h : p.mode = .off
  · simp only [h, beq_self_eq_true, if_true]
  · simp only [beq_iff_eq, h, if_false]

theorem State.moveTile_head (s : State) (t site : Nat) : (s.moveTile t site).head = s.head := by
  have h := (s.retainTile_samePlaces t).head
  unfold State.moveTile
  generalize s.retainTile t = u at h ⊢
  exact List.foldlRecOn _ _ (motive := fun u : State => u.head = s.head) h fun _ hb _ _ => hb

theorem State.moveTile_pow (s : State) (t site : Nat) : ((s.moveTile t site).tile t).pow = (s.tile t).pow.moved := by
  rw [← (s.retainTile_samePlaces t).pow t]
  unfold State.moveTile
  generalize s.retainTile t = u
  exact List.foldlRecOn _ _ (motive := fun v : State => (v.tile t).pow = (u.tile t).pow.moved)
    (congrArg Tile.pow (FMap.getD_set_self _ _ _ _)) fun _ hb _ _ => hb

theorem State.joinSite_sameWays (s : State) (site : Nat) (nodes : List Nat) : s.SameWays (s.joinSite site nodes) := by
  refine .foldl (fun s p => ?_) _ s
  split
  · split
    · exact s.setLink_sameWays ..
    · exact .refl s
  · exact .refl s

theorem nearest_isNearest {place k : Nat} {l : List Nat} (h : nearest place l = some k) : k ∈ l ∧ ∀ j ∈ l, hops place k ≤ hops place j := by
  cases l with
  | nil => cases h
  | cons a l =>
    obtain ⟨y, hy, hmem, hmin⟩ := nearest_of_mem (place := place) (List.mem_cons_self (a := a) (l := l))
    rw [hy] at h
    cases h
    exact ⟨hmem, fun j hj => (hmin j hj).elim Nat.le_of_lt fun h => Nat.le_of_eq h.1⟩

theorem not_siteRetired_of_spare {s : State} {k : Nat} (h : k ∈ s.spares) : s.siteRetired k = false := by
  have h' := (List.mem_filter.mp h).2
  rw [Bool.and_eq_true, Bool.not_eq_true'] at h'
  exact h'.1

section
variable {s : State} {t old grace : Nat} (res : SelfTest) (hsite : s.siteOf t = some old) (hlive : s.tileLive t = true) (hgrace : grace ≤ 10000)
include hsite hlive hgrace

theorem execRetire_busy (h : s.retireBusy t = true) : execRetire t grace res s = .next (s.reply (.status "Busy")) := by
  simp [execRetire, hsite, hlive, h, Nat.not_lt.mpr hgrace]

theorem execRetire_noSpare (hbusy : s.retireBusy t = false) (hnone : s.head.retire = none) (h : s.spares = []) :
    execRetire t grace res s = .next (s.reply (.status "NoSpare")) := by
  simp [execRetire, hsite, hlive, hbusy, hnone, Nat.not_lt.mpr hgrace, h, nearest]

/-- The spare is powered, tested and joined to the mesh. -/
def State.powerSpare (s : State) (t k : Nat) (i : Image) (res : SelfTest) : State :=
  let s1 := (s.putSite k ⟨.live, some res, i.hash⟩).applyTile t
  s1.joinSite k (s1.meshNodes s1.head.remap)

theorem execRetire_begins {k : Nat} {i : Image} (hbusy : s.retireBusy t = false) (hnone : s.head.retire = none)
    (hk : nearest old s.spares = some k) (hi : s.head.tileImage = some i) (hpass : res.pass = true) (hlanes : res.lanes = [])
    (hfits : ∀ c, c < 16 → laneFits (s.deadLanes k c) = true) (hok : s.imageOk i = true) :
    execRetire t grace res s =
      .next (let u := s.powerSpare t k i res; { u with head := { u.head with retire := some ⟨t, old, k, grace, false⟩ } }) := by
  have hjudge := State.judge_noLanes (s := s) (r := { res with pass := true }) hlanes hfits
  simp only [if_true, not_siteRetired_of_spare (nearest_isNearest hk).1, Bool.not_false] at hjudge
  simp [execRetire, hsite, hlive, hbusy, hnone, Nat.not_lt.mpr hgrace, hk, hi, hok, hpass, hjudge, State.powerSpare]

end

theorem State.powerSpare_site (s : State) (t k : Nat) (i : Image) (res : SelfTest) : ((s.powerSpare t k i res).site k).status = .live := by
  have h := (s.putSite k ⟨.live, some res, i.hash⟩).applyTile_samePlaces t
  rw [State.site, State.powerSpare, (State.joinSite_sameWays _ _ _).sites, h.sites]
  exact congrArg Site.status (FMap.getD_set_self _ _ _ _)

theorem State.powerSpare_remap (s : State) (t k : Nat) (i : Image) (res : SelfTest) : (s.powerSpare t k i res).head.remap = s.head.remap := by
  have h := (s.putSite k ⟨.live, some res, i.hash⟩).applyTile_samePlaces t
  obtain ⟨_, _, _, hj⟩ := (State.joinSite_sameWays ((s.putSite k ⟨.live, some res, i.hash⟩).applyTile t) k
    (State.meshNodes _ ((s.putSite k ⟨.live, some res, i.hash⟩).applyTile t).head.remap)).head
  rw [State.powerSpare, hj, h.head]
  rfl

theorem retire_beginsOrFails (s : State) (t old grace : Nat) (res : SelfTest) (hsite : s.siteOf t = some old) (hlive : s.tileLive t = true)
    (hgrace : grace ≤ 10000) :
    (s.retireBusy t = true → Said.Runs (.retire t grace res) s (s.reply (.status "Busy"))) ∧
    (s.retireBusy t = false → s.head.retire = none →
      (s.spares = [] → Said.Runs (.retire t grace res) s (s.reply (.status "NoSpare"))) ∧
      (∀ k i, nearest old s.spares = some k → s.head.tileImage = some i → res.pass = true → res.lanes = [] →
        (∀ c, c < 16 → laneFits (s.deadLanes k c) = true) → ∃ u, Said.Runs (.retire t grace res) s u ∧
          (s.imageOk i = true → u.head.retire = some ⟨t, old, k, grace, false⟩ ∧ (u.site k).status = .live ∧ u.head.remap = s.head.remap))) := by
  refine ⟨execRetire_busy res hsite hlive hgrace, fun hbusy hnone => ⟨execRetire_noSpare res hsite hlive hgrace hbusy hnone,
    fun k i hk hi hpass hlanes hfits => ?_⟩⟩
  by_cases hok : s.imageOk i = true
  · exact ⟨_, execRetire_begins res hsite hlive hgrace hbusy hnone hk hi hpass hlanes hfits hok,
      fun _ => ⟨rfl, s.powerSpare_site t k i res, s.powerSpare_remap t k i res⟩⟩
  · exact ⟨_, rfl, fun h => absurd h hok⟩

theorem retireCopyDone_movesTile (s : State) (r : Retirement) (hr : s.head.retire = some r) (hc : r.copied = false) :
    ∃ u, Said.Runs .retireCopyDone s u ∧
    u.head.retire = some { r with copied := true } ∧ u.head.remap = FMap.set s.head.remap r.tile (remapEntry 1 r.newSite) ∧
    u.head.update.isSome = true ∧
    (u.tile r.tile).pow.mode = (if (s.tile r.tile).pow.mode = .off then .run else (s.tile r.tile).pow.mode) := by
  let s1 : State := { s with head := { s.head with
    retire := some { r with copied := true }, remap := FMap.set s.head.remap r.tile (remapEntry 1 r.newSite) } }
  have hrun : execRetireCopyDone s = .next (s1.moveTile r.tile r.newSite).startUpdate := by
    simp [execRetireCopyDone, hr, hc, s1]
  obtain ⟨x, b, hhead⟩ := (s1.moveTile r.tile r.newSite).startUpdate_head
  refine ⟨_, hrun, ?_, ?_, State.startUpdate_isSome _, ?_⟩
  · rw [hhead, State.moveTile_head]
  · rw [hhead, State.moveTile_head]
  · rw [(State.startUpdate_sameUnits _).tile, State.moveTile_pow, Power.moved_mode]; rfl

/-! ### The end of the grace period (spec/02 R37, spec/03 R47) -/

theorem newEntry_ok {kind : Nat} (hk : kind ≤ 3) (seq site col lane cause bootno count : Nat) :
    (newEntry seq kind site col lane cause bootno count).ok = true := by
  simp only [newEntry, LogEntry.ok, LogEntry.goodCrc, LogEntry.low, beq_self_eq_true, Bool.true_and, decide_eq_true_eq, hk]

theorem mem_mergeLanes {e : LogEntry} (he : e.kind ≠ 3) (bootno n : Nat) {l : List LogEntry} (h : e ∈ l) (gone : List (Nat × Nat)) :
    e ∈ (mergeLanes bootno l gone n).1 := by
  induction n generalizing l gone with
  | zero => exact h
  | succ n ih =>
    unfold mergeLanes
    split
    · exact h
    · split
      · exact h
      · refine ih (List.mem_append_left _ (List.mem_append_left _ ?_)) _
        simp [h, he]

theorem exists_mem_renumber {e : LogEntry} {l : List LogEntry} (h : e ∈ l) (seq : Nat) :
    ∃ n, newEntry n e.kind e.site e.col e.lane e.cause e.bootno e.count ∈ renumber seq l := by
  induction l generalizing seq with
  | nil => cases h
  | cons a l ih =>
    cases h with
    | head => exact ⟨seq, .head _⟩
    | tail _ h =>
      obtain ⟨n, hn⟩ := ih h (seq + 1)
      exact ⟨n, .tail _ hn⟩

/-- A retirement of a site outlives the compaction that it causes. -/
theorem RetireLog.mem_compact (g : RetireLog) (bootno : Nat) {e : LogEntry} (he : e.kind = 1) :
    ∃ x ∈ (g.compact bootno [e]).1.half, x.kind = 1 ∧ x.site = e.site ∧ x.ok = true := by
  have hkept : e ∈ ((g.inForce ++ [e]).filter fun x => !covered (g.inForce ++ [e]) x).filter fun x => x.kind == 1 := by
    simp [covered, he]
  unfold RetireLog.compact
  simp only [RetireLog.setHalf_half]
  obtain ⟨n, hn⟩ := exists_mem_renumber (mem_mergeLanes (by omega) bootno 1200
    (List.mem_append_left _ (List.mem_append_left _ hkept)) []) (g.lastSeq + 1 + 1)
  exact ⟨_, .tail _ hn, he, rfl, newEntry_ok (by omega) ..⟩

theorem State.logAppend_head (s : State) (kind site col lane cause : Nat) :
    ∃ g, (s.logAppend kind site col lane cause).head = { s.head with log := g } := by
  unfold State.logAppend
  dsimp only
  split
  · exact ⟨_, List.foldlRecOn _ _ (motive := fun u : State => u.head = _) rfl fun b hb p _ => (b.raiseMain_head ..).trans hb⟩
  · exact ⟨_, rfl⟩

/-- The log then holds an entry of the site's retirement. -/
theorem State.logAppend_retires (s : State) (site col lane cause : Nat) :
    ∃ e ∈ (s.logAppend 1 site col lane cause).head.log.half, e.kind = 1 ∧ e.site = site ∧ e.ok = true := by
  unfold State.logAppend
  dsimp only
  split
  · obtain ⟨x, hx, hkind, hsite, hok⟩ :=
      s.head.log.mem_compact s.head.bootno (e := newEntry (s.head.log.lastSeq + 1) 1 site col lane cause s.head.bootno 0) rfl
    refine ⟨x, ?_, hkind, hsite, hok⟩
    rw [List.foldlRecOn _ _ (motive := fun u : State => u.head.log = (s.head.log.compact _ _).1) rfl
      fun b hb p _ => (congrArg Head.log (b.raiseMain_head ..)).trans hb]
    exact hx
  · rw [RetireLog.setHalf_half]
    exact ⟨_, List.mem_append_right _ (List.mem_singleton.mpr rfl), rfl, rfl, newEntry_ok (by decide) ..⟩

theorem State.routerEmpty_iff (s : State) (r : Nat) : s.routerEmpty r = true ↔
    (s.router r).buf = [] ∧ (∀ kv ∈ (s.router r).wire, kv.2 = []) ∧ ∀ kv ∈ (s.router r).retry, kv.2 = [] := by
  simp [State.routerEmpty, and_assoc]

theorem execRetireGraceEnd_early {s : State} {r : Retirement} (hr : s.head.retire = some r)
    (h : s.head.update ≠ none ∨ (s.router r.oldSite).buf ≠ []) : execRetireGraceEnd s = .next s := by
  have hcond : (!r.copied || s.head.update.isSome || !s.routerEmpty r.oldSite) = true := by
    rcases h with h | h
    · simp [Option.isSome_iff_ne_none.mpr h]
    · simp [State.routerEmpty, h]
  simp only [execRetireGraceEnd, hr, hcond, if_true]

/-- The old site without its links and its router's state. -/
def State.siteGone (s : State) (site : Nat) : State :=
  let s1 := ((s.siteDown site).setSite site .retired).putRouter site Router.reset
  { s1 with head := { s1.head with retire := none } }

theorem execRetireGraceEnd_retires {s : State} {r : Retirement} (hr : s.head.retire = some r) (hc : r.copied = true)
    (hup : s.head.update = none) (hempty : s.routerEmpty r.oldSite = true) : execRetireGraceEnd s =
      .next ((((s.siteGone r.oldSite).logAppend 1 r.oldSite 0 0 0x22).startUpdate).raiseMain 0x22 r.tile r.newSite) := by
  simp only [execRetireGraceEnd, hr, hc, hup, hempty, Bool.not_true, Option.isSome_none, Bool.or_self, Bool.false_eq_true, if_false]
  rfl

theorem retireGraceEnd_retiresOldSite (s : State) (r : Retirement) (hr : s.head.retire = some r) (hc : r.copied = true)
    (hup : s.head.update = none) (hbuf : (s.router r.oldSite).buf = []) (hwire : ∀ kv ∈ (s.router r.oldSite).wire, kv.2 = [])
    (hretry : ∀ kv ∈ (s.router r.oldSite).retry, kv.2 = []) : ∃ (u : State) (e : LogEntry),
    Said.Runs .retireGraceEnd s (u.raiseMain 0x22 r.tile r.newSite) ∧ u.head.retire = none ∧
    (u.site r.oldSite).status = .retired ∧ e ∈ u.head.log.half ∧ e.kind = 1 ∧ e.site = r.oldSite ∧ e.ok = true ∧
    u.head.update.isSome = true := by
  obtain ⟨e, he, hkind, hsite, hok⟩ := (s.siteGone r.oldSite).logAppend_retires r.oldSite 0 0 0x22
  obtain ⟨x, b, hhead⟩ := ((s.siteGone r.oldSite).logAppend 1 r.oldSite 0 0 0x22).startUpdate_head
  obtain ⟨g, hlog⟩ := (s.siteGone r.oldSite).logAppend_head 1 r.oldSite 0 0 0x22
  refine ⟨_, e, execRetireGraceEnd_retires hr hc hup ((s.routerEmpty_iff _).mpr ⟨hbuf, hwire, hretry⟩), ?_, ?_, ?_, hkind, hsite, hok,
    State.startUpdate_isSome _⟩
  · rw [hhead, hlog]; rfl
  · rw [(State.startUpdate_sameUnits _).site, State.site, State.logAppend_sites]
    exact congrArg Site.status (FMap.getD_set_self _ _ _ _)
  · rw [hhead]
    exact he

theorem retireMovesATile : Said.retireMovesATile :=
  ⟨retire_beginsOrFails, fun _ _ _ => nearest_isNearest, retireCopyDone_movesTile, fun _ _ => execRetireGraceEnd_early,
    retireGraceEnd_retiresOldSite⟩

/-- Settles O36: a repair by the branches of its steps; a retirement by what a tile's last applies and a new update leave of the head
gardener, and by the log's compaction, which keeps a site's entry. -/
theorem sparesReplaceTilesAndLanes : Obligations.SparesReplaceTilesAndLanes := ⟨repairMapsALane, retireMovesATile⟩

end Sys2Proof.Machine
end

section
/-! SUPPORT. A table update while a retirement under way names no tile (spec/02 R34, R37). -/

namespace Sys2Proof.Machine

/-- An update without bindings that router 0 has yet to receive. -/
def emptyUpdate : TableUpdate := ⟨1, [], [], [0], [], [], false, []⟩

/-- Router 0, with bank 1 active and blank tables, is the old site of a copied retirement that names tile 64, which there is not. The update's
message is on its way. -/
def strayRetirement : State :=
  { State.reset with
    head := { Head.reset with update := some emptyUpdate, retire := some ⟨64, 0, 1, 0, true⟩ }
    routers := [(0, { Router.reset with active := 1 })]
    msgs := [(0, .tableUpdate 0)] }

/-- Before the update the active bank of router 0 has tile 0 Unbound. -/
theorem strayRetirement_before : (strayRetirement.router 0).remapAt 1 0 = 0 := by decide

/-- Tile 64 in bank 0 is the entry of tile 0 in bank 1: the gardener, writing the inactive bank, makes tile 0 Forwarding in the active one. -/
theorem strayRetirement_after {v : State} (h : execTableUpdateReceive 0 strayRetirement = .next v) : (v.router 0).remapAt 1 0 = 0x8000#16 := by
  cases h
  rfl

/-- Refutes O35: its third part says that a gardener that receives an update leaves the active bank as it was, and bounds the numbers of
the update's tiles by 64 but not that of the tile being retired. In `strayRetirement` that tile is 64, and its Forwarding entry, written at
64 in bank 0, is tile 0's entry in the active bank 1. No run reaches such a state, since Retire takes only a live tile; the
statement wants the premise that the retired tile is below 64 for all of its claims. -/
theorem not_meshMovesFlitsAndChangesTables : ¬ Obligations.MeshMovesFlitsAndChangesTables := by
  rintro ⟨-, -, ⟨hreceive, -, -⟩, -⟩
  obtain ⟨v, hrun, -, -, -, -, -, -, -, -, -, -, hactive, -, -⟩ := hreceive strayRetirement 0 emptyUpdate rfl (List.mem_singleton.mpr rfl) nofun
    ⟨0, List.mem_singleton.mpr rfl⟩ rfl rfl rfl rfl nofun
  have hbefore := (hactive 0 (by decide)).trans strayRetirement_before
  rw [show (strayRetirement.router 0).active = 1 from rfl, strayRetirement_after hrun] at hbefore
  exact absurd hbefore (by decide)

end Sys2Proof.Machine
end

section
/-! SUPPORT. RKSTS of an Unbound tile (spec/04 R54, spec/10 R202). -/

namespace Sys2Proof.Machine

/-- An Unbound tile answers a read of RKSTS with all-ones, and nothing is cleared (spec/04 R54). -/
theorem execRkstsRead_unbound {s : State} {t : Nat} (c : Nat) (h : s.unboundTile t = true) :
    execRkstsRead t c s = .next (s.reply (.value (2 ^ 64 - 1))) := by
  simp only [execRkstsRead, State.replyReg, h, if_true]

/-- Refutes O38: its clause on RKSTS has the read of every tile answer the register and clear it, where its clause on DOCKSTS, the other
register of a column, says so of bound tiles alone. In the state right after reset every tile is Unbound: RKSTS of column 0 of tile
0 answers all-ones, as spec/04 R54 asks, and the clause claims 0. -/
theorem not_hostRegistersWindowsAndPeers : ¬ Obligations.HostRegistersWindowsAndPeers := by
  rintro ⟨⟨-, -, -, -, hcolumn, -⟩, -, -⟩
  have hsaid := (hcolumn State.reset 0 0).2
  have hruns := (execRkstsRead_unbound (s := State.reset) (t := 0) 0 rfl).symm.trans hsaid
  have hout : [Reply.value (2 ^ 64 - 1)] = [Reply.value 0] := congrArg State.out (Host.Outcome.next.inj hruns)
  exact absurd hout (by decide)

end Sys2Proof.Machine
end

section
/-! SUPPORT. Work queues and their front ends (spec/04 R57 to R61): the enabling of a queue, doorbells, fetches and Markers. -/

namespace Sys2Proof.Machine

/-! ### The queues of a state -/

theorem FMap.set_set {α : Type} (m : FMap α) (j : Nat) (x y : α) : FMap.set (FMap.set m j x) j y = FMap.set m j y := by
  induction m with
  | nil => simp [FMap.set]
  | cons p m ih =>
    obtain ⟨k, v⟩ := p
    by_cases heq : j = k
    · simp [FMap.set, heq]
    · by_cases hlt : j < k
      · simp [FMap.set, heq, hlt]
      · simp [FMap.set, heq, hlt, ih]

@[simp] theorem State.putQueue_queue_self (s : State) (q : Nat) (x : Queue) : (s.putQueue q x).queue q = x :=
  FMap.getD_set_self ..

theorem State.putQueue_queue_ne (s : State) (x : Queue) {q k : Nat} (h : k ≠ q) : (s.putQueue q x).queue k = s.queue k :=
  FMap.getD_set_ne _ _ _ h

theorem State.putQueue_putQueue (s : State) (q : Nat) (x y : Queue) : (s.putQueue q x).putQueue q y = s.putQueue q y := by
  simp only [State.putQueue, FMap.set_set]

theorem State.queue_of_queues {s u : State} (h : u.queues = s.queues) (q : Nat) : u.queue q = s.queue q := by
  simp only [State.queue, h]

@[simp] theorem State.raise_queues (s : State) (e : Event) : (s.raise e).queues = s.queues := by
  obtain ⟨_, _, _, _, h⟩ := s.raise_eq e
  rw [h]

/-- A queue that has entered Error with a code (spec/04 R60). -/
def Queue.failed (x : Queue) (errc : Nat) : Queue := { x with state := .error, errc := errc, held := false, skip := false }

theorem State.queueError_eq (s : State) (q errc code : Nat) : s.queueError q errc code = Said.queueFails s q errc code := by
  simp only [State.queueError, Said.queueFails, State.raiseQueue, State.putQueue_queue_self]
  rfl

theorem State.queueError_queue (s : State) (q errc code : Nat) : (s.queueError q errc code).queue q = (s.queue q).failed errc :=
  (State.queue_of_queues (State.raise_queues ..) q).trans (State.putQueue_queue_self ..)

/-- Withdrawing a record leaves messages and inboxes changed, and nothing else. -/
theorem State.dropHeld_eq (s : State) (q : Nat) : ∃ ms tr ts, s.dropHeld q = { s with msgs := ms, transit := tr, tiles := ts } := by
  unfold State.dropHeld
  dsimp only
  generalize (s.msgs.filter _).map _ = gone
  obtain ⟨ms, tr, h⟩ : ∃ ms tr, gone.foldl State.unsend s = { s with msgs := ms, transit := tr } :=
    gone.foldlRecOn _ (motive := fun u => ∃ ms tr, u = { s with msgs := ms, transit := tr }) ⟨_, _, rfl⟩
      fun _ ⟨_, _, hb⟩ _ _ => ⟨_, _, by rw [hb]; rfl⟩
  exact ⟨ms, tr, _, by rw [h]⟩

/-! ### QCTL (spec/04 R57) -/

/-- What QUEUE_ENABLE writes to QCTL: the word given, with EN at 1 and CLEAR at 0. -/
def enableWord (v : BitVec 64) : Nat := (setBits (setBits v 63 1 1) 62 1 0).toNat

theorem enableWord_eq (v : BitVec 64) : enableWord v = v.toNat % 2 ^ 62 + 2 ^ 63 := by
  have hv := v.isLt
  simp only [enableWord, setBits, bits, BitVec.toNat_ofNat]
  omega

theorem bits_enableWord (v : BitVec 64) {lo len : Nat} (h : lo + len ≤ 62) : bits (enableWord v) lo len = v.toNat / 2 ^ lo % 2 ^ len := by
  have hsplit (x : Nat) : x / 2 ^ lo % 2 ^ len = x % 2 ^ 62 / 2 ^ lo % 2 ^ len := by
    rw [← Nat.mod_mul_right_div_self, ← Nat.mod_mul_right_div_self, ← pow_add, Nat.mod_mod_of_dvd _ (pow_dvd_pow 2 h)]
  have hmod : enableWord v % 2 ^ 62 = v.toNat % 2 ^ 62 := by rw [enableWord_eq]; omega
  rw [bits, hsplit, hmod, ← hsplit]

theorem enableWord_en (v : BitVec 64) : bits (enableWord v) 63 1 = 1 := by
  rw [enableWord_eq, bits]; omega

theorem enableWord_clear (v : BitVec 64) : bits (enableWord v) 62 1 = 0 := by
  rw [enableWord_eq, bits]; omega

/-- A queue's descriptor after the fields of QCTL have been stored. -/
def Queue.written (x : Queue) (v : BitVec 64) : Queue := (x.setCtl (enableWord v)).setCfg (enableWord v)

theorem Queue.written_on {x : Queue} (v : BitVec 64) (h : x.en = true) : x.written v = { x with
    evport := v.toNat / 2 ^ 48 % 8, weight := max 1 (v.toNat / 2 ^ 40 % 256), prio := v.toNat / 2 ^ 37 % 8, vec := v.toNat % 2048 } := by
  simp [Queue.written, Queue.setCfg, Queue.setCtl, h, bits_enableWord]

theorem Queue.written_off {x : Queue} (v : BitVec 64) (h : x.en = false) : x.written v = { x with
    evport := v.toNat / 2 ^ 48 % 8, weight := max 1 (v.toNat / 2 ^ 40 % 256), prio := v.toNat / 2 ^ 37 % 8, vec := v.toNat % 2048
    curPrio := v.toNat / 2 ^ 37 % 8, curWeight := max 1 (v.toNat / 2 ^ 40 % 256)
    loc := v.toNat / 2 ^ 60 % 4, log2n := v.toNat / 2 ^ 32 % 32, asid := v.toNat / 2 ^ 20 % 4096 } := by
  simp [Queue.written, Queue.setCfg, Queue.setCtl, h, bits_enableWord]

/-- A queue's descriptor after EN has been set: the configuration is judged, then the doorbell stored before. -/
def Queue.enabled (x : Queue) : Queue :=
  let y := { x with en := true }
  if x.state = .error then y
  else if x.loc = 3 ∨ x.log2n < 4 ∨ 16 < x.log2n then y.failed 7
  else if x.late = true then y.failed 8
  else if x.overrun x.tail = true then y.failed 3
  else { y with state := .active }

theorem Queue.overrun_iff (x : Queue) (tail : BitVec 32) : x.overrun tail = true ↔ 2 ^ x.log2n < Said.ahead tail x.head := by
  simp only [Queue.overrun, Said.ahead, decide_eq_true_eq]

/-- Setting EN keeps what QCTL and QBASE hold, and the counts. -/
theorem Queue.enabled_eq (x : Queue) : ∃ st e b c, x.enabled = { x with en := true, state := st, errc := e, held := b, skip := c } := by
  unfold Queue.enabled
  split_ifs <;> exact ⟨_, _, _, _, rfl⟩

section
variable {x : Queue} (hstate : x.state ≠ .error)
include hstate

theorem Queue.enabled_invalid (h : x.loc = 3 ∨ x.log2n < 4 ∨ 16 < x.log2n) :
    x.enabled.state = .error ∧ x.enabled.errc = 7 := by
  simp [Queue.enabled, hstate, h, Queue.failed]

variable (hvalid : ¬ (x.loc = 3 ∨ x.log2n < 4 ∨ 16 < x.log2n)) (hlate : x.late = false)
include hvalid hlate

theorem Queue.enabled_fits (h : Said.ahead x.tail x.head ≤ 2 ^ x.log2n) : x.enabled.state = .active := by
  simp [Queue.enabled, hstate, hvalid, hlate, x.overrun_iff, Nat.not_lt.mpr h]

theorem Queue.enabled_overruns (h : 2 ^ x.log2n < Said.ahead x.tail x.head) : x.enabled.state = .error ∧ x.enabled.errc = 3 := by
  simp [Queue.enabled, hstate, hvalid, hlate, x.overrun_iff, h, Queue.failed]

end

theorem State.enableQueue_queue (s : State) (q : Nat) (x : Queue) : (s.enableQueue q x).queue q = x.enabled := by
  unfold State.enableQueue Queue.enabled
  simp only [beq_iff_eq, Bool.or_eq_true, decide_eq_true_eq, or_assoc]
  split_ifs <;> simp only [State.queueError_queue, State.putQueue_queue_self]

theorem State.writeQctl_on (s : State) (q : Nat) (v : BitVec 64) (h : (s.queue q).en = true) :
    s.writeQctl q (enableWord v) = s.putQueue q ((s.queue q).written v) := by
  simp [State.writeQctl, enableWord_clear, enableWord_en, h, Queue.written]

theorem State.writeQctl_off (s : State) (q : Nat) (v : BitVec 64) (h : (s.queue q).en = false) :
    s.writeQctl q (enableWord v) = s.enableQueue q ((s.queue q).written v) := by
  simp [State.writeQctl, enableWord_clear, enableWord_en, h, Queue.written]

theorem queueEnable_stores (s : State) (q : Nat) (v : BitVec 64) : ∃ u, Said.Runs (.queueEnable q v) s u ∧ (u.queue q).en = true ∧
    ((s.queue q).en = true → Said.ctlStored (s.queue q) (u.queue q) v.toNat ∧ (u.queue q).state = (s.queue q).state ∧
      (u.queue q).curPrio = (s.queue q).curPrio ∧ (u.queue q).curWeight = (s.queue q).curWeight ∧
      (u.queue q).loc = (s.queue q).loc ∧ (u.queue q).log2n = (s.queue q).log2n ∧ (u.queue q).asid = (s.queue q).asid) ∧
    ((s.queue q).en = false → (s.queue q).state ≠ .error → Said.ctlStored (s.queue q) (u.queue q) v.toNat ∧
      let loc := v.toNat / 2 ^ 60 % 4
      let n := v.toNat / 2 ^ 32 % 32
      (u.queue q).loc = loc ∧ (u.queue q).log2n = n ∧ (u.queue q).asid = v.toNat / 2 ^ 20 % 4096 ∧
      (loc = 3 ∨ n < 4 ∨ 16 < n → (u.queue q).state = .error ∧ (u.queue q).errc = 7) ∧
      (loc ≠ 3 → 4 ≤ n → n ≤ 16 → (s.queue q).late = false → Said.ahead (s.queue q).tail (s.queue q).head ≤ 2 ^ n →
        (u.queue q).state = .active) ∧
      (loc ≠ 3 → 4 ≤ n → n ≤ 16 → (s.queue q).late = false → 2 ^ n < Said.ahead (s.queue q).tail (s.queue q).head →
        (u.queue q).state = .error ∧ (u.queue q).errc = 3)) := by
  refine ⟨s.writeQctl q (enableWord v), rfl, ?_⟩
  cases hen : (s.queue q).en with
  | true =>
    rw [s.writeQctl_on q v hen, State.putQueue_queue_self, Queue.written_on v hen]
    exact ⟨hen, fun _ => ⟨⟨rfl, rfl, rfl, rfl, rfl, rfl, rfl⟩, rfl, rfl, rfl, rfl, rfl, rfl⟩, nofun⟩
  | false =>
    obtain ⟨st, e, b, c, heq⟩ := Queue.enabled_eq ((s.queue q).written v)
    rw [s.writeQctl_off q v hen, State.enableQueue_queue]
    rw [Queue.written_off v hen] at heq ⊢
    refine ⟨by rw [heq], nofun, fun _ hst => ⟨?_, by rw [heq], by rw [heq], by rw [heq], ?_, ?_, ?_⟩⟩
    · rw [heq]; exact ⟨rfl, rfl, rfl, rfl, rfl, rfl, rfl⟩
    · exact fun hbad => Queue.enabled_invalid hst hbad
    · exact fun hloc hlo hhi hlate hfits => Queue.enabled_fits hst (by dsimp only; omega) hlate hfits
    · exact fun hloc hlo hhi hlate hover => Queue.enabled_overruns hst (by dsimp only; omega) hlate hover

theorem queueClear_disables (s : State) (q : Nat) : ∃ u, Said.Runs (.queueClear q) s u ∧ (u.queue q).en = false ∧ (u.queue q).head = 0 ∧
    (u.queue q).tail = 0 ∧ (u.queue q).state = .disabled ∧ (u.queue q).errc = 0 ∧ (u.queue q).base = (s.queue q).base ∧ u.mem = s.mem ∧
    ∀ k, k ≠ q → u.queue k = s.queue k := by
  obtain ⟨ms, tr, ts, hdrop⟩ := s.dropHeld_eq q
  refine ⟨_, rfl, ?_⟩
  rw [State.putQueue_queue_self]
  refine ⟨rfl, rfl, rfl, rfl, rfl, rfl, ?_, fun k hk => ?_⟩
  · rw [State.putQueue_mem, hdrop]
  · rw [State.putQueue_queue_ne _ _ hk, hdrop]; rfl

/-! ### Doorbells (spec/04 R59, R60) -/

/-- Two counts that differ lie a whole turn of the counter apart, counted both ways. -/
theorem ahead_add_ahead {a b : BitVec 32} (h : a ≠ b) : Said.ahead a b + Said.ahead b a = 2 ^ 32 := by
  have hne : a.toNat ≠ b.toNat := fun e => h (BitVec.eq_of_toNat_eq e)
  simp only [Said.ahead, BitVec.toNat_sub]
  omega

theorem Queue.behind_iff (x : Queue) (tail : BitVec 32) :
    x.behind tail = true ↔ 1 ≤ Said.ahead x.tail tail ∧ Said.ahead x.tail tail ≤ 2 ^ 31 - 1 := by
  simp only [Queue.behind, Said.ahead, Bool.and_eq_true, decide_eq_true_eq]

/-- A count that is new and not behind is less than half a turn of the counter ahead, or just half. -/
theorem Queue.behind_eq_false {x : Queue} {tail : BitVec 32} (hne : tail ≠ x.tail) (h : Said.ahead tail x.tail ≤ 2 ^ 31) :
    x.behind tail = false := by
  have hsum := ahead_add_ahead hne
  refine Bool.eq_false_iff.mpr fun hb => ?_
  have hback := ((x.behind_iff tail).mp hb).2
  omega

theorem execDoorbell_active {s : State} {q : Nat} (n : BitVec 32) (h : (s.queue q).state = .active) : execDoorbell q n s = .next
    (if n = (s.queue q).tail then s
     else if (s.queue q).behind n = true then Said.queueFails s q 8 0
     else if (s.queue q).overrun n = true then Said.queueFails s q 3 0
     else s.putQueue q { s.queue q with tail := n }) := by
  simp only [execDoorbell, h, beq_self_eq_true, if_true, beq_iff_eq, State.queueError_eq]

theorem doorbell_storesOrFails (s : State) (q : Nat) (n : BitVec 32) : let x := s.queue q
    (x.state = .active → n = x.tail → Said.Runs (.doorbell q n) s s) ∧
    (x.state = .active → 1 ≤ Said.ahead x.tail n → Said.ahead x.tail n ≤ 2 ^ 31 - 1 → Said.Runs (.doorbell q n) s (Said.queueFails s q 8 0)) ∧
    (x.state = .active → n ≠ x.tail → Said.ahead n x.tail ≤ 2 ^ 31 → 2 ^ x.log2n < Said.ahead n x.head →
      Said.Runs (.doorbell q n) s (Said.queueFails s q 3 0)) ∧
    (x.state = .active → n ≠ x.tail → Said.ahead n x.tail ≤ 2 ^ 31 → Said.ahead n x.head ≤ 2 ^ x.log2n →
      Said.Runs (.doorbell q n) s (s.putQueue q { x with tail := n })) ∧
    (x.state ≠ .active → ∃ u, Said.Runs (.doorbell q n) s u ∧ (u.queue q).tail = n ∧ (u.queue q).state = x.state) := by
  dsimp only
  refine ⟨fun hx hn => ?_, fun hx h1 hhalf => ?_, fun hx hn hhalf hover => ?_, fun hx hn hhalf hfits => ?_, fun hx => ?_⟩
  · exact (execDoorbell_active n hx).trans (by rw [if_pos hn])
  · have hn : n ≠ (s.queue q).tail := fun e => by simp [Said.ahead, e] at h1
    exact (execDoorbell_active n hx).trans (by rw [if_neg hn, if_pos ((Queue.behind_iff _ _).mpr ⟨h1, hhalf⟩)])
  · exact (execDoorbell_active n hx).trans
      (by simp [hn, Queue.behind_eq_false hn hhalf, (Queue.overrun_iff _ _).mpr hover])
  · exact (execDoorbell_active n hx).trans
      (by simp [hn, Queue.behind_eq_false hn hhalf, Queue.overrun_iff, Nat.not_lt.mpr hfits])
  · refine ⟨_, congrArg Host.Outcome.next (if_neg (by simpa using hx)), ?_⟩
    rw [State.putQueue_queue_self]
    exact ⟨rfl, rfl⟩

/-! ### The fetch of an entry (spec/04 R58, R60, R61) -/

theorem execQueueFetch_answered {s u : State} {die : Nat} (hdie : die < 4) (h : s.queueFetch die true = u) :
    Said.Runs (.queueFetch die) s u := by
  show execQueueFetch die s = .next u
  simp only [execQueueFetch, hdie, if_true, decide_true, h]

theorem execQueueFetch_unanswered {s u : State} {die : Nat} (h : s.queueFetch die false = u) : Said.Runs (.queueFetch (die + 4)) s u := by
  show execQueueFetch (die + 4) s = .next u
  have hge : ¬ die + 4 < 4 := by omega
  simp only [execQueueFetch, hge, if_false, decide_false, Nat.add_sub_cancel, h]

/-- The turn that a front end counts when it fetches. -/
def State.countTurn (s : State) (die q n : Nat) : State :=
  s.putDie die { s.die die with turns := FMap.set (s.die die).turns (s.queue q).curPrio (q, n) }

section
variable {s s0 : State} {die : Nat} (hphase : s.head.phase = 5) (hworks : s.dieWorks die = true)
include hphase hworks

theorem State.queueFetch_idle (hnext : s.nextQueue die = (s0, none)) (ok : Bool) : s.queueFetch die ok = s0 := by
  simp [State.queueFetch, hphase, hworks, hnext]

variable {q n : Nat} (hnext : s.nextQueue die = (s0, some (q, n)))
include hnext

theorem State.queueFetch_held (h : (s0.queue q).held = true) (ok : Bool) : s.queueFetch die ok = s0 := by
  simp [State.queueFetch, hphase, hworks, hnext, h]

variable (hheld : (s0.queue q).held = false)
include hheld

theorem State.queueFetch_unanswered (hloc : (s0.queue q).loc ≠ 2) :
    s.queueFetch die false = (s0.countTurn die q n).queueError q 6 0 := by
  simp [State.queueFetch, hphase, hworks, hnext, hheld, State.locWaits, hloc, State.countTurn]

theorem State.queueFetch_host (hloc : (s0.queue q).loc ≠ 2) : s.queueFetch die true =
    (s0.countTurn die q n).entry q (s0.hostMem.read ((s0.queue q).slotAddr (s0.queue q).head.toNat) 64) := by
  simp [State.queueFetch, hphase, hworks, hnext, hheld, State.locWaits, State.recordWaits, State.locRead, hloc, State.countTurn]

variable (hloc : (s0.queue q).loc = 2)
include hloc

theorem State.queueFetch_waits (h : s0.waitsPhys ((s0.queue q).slotAddr (s0.queue q).head.toNat) 64 = true) (ok : Bool) :
    s.queueFetch die ok = s := by
  simp [State.queueFetch, hphase, hworks, hnext, hheld, State.locWaits, hloc, h]

theorem State.queueFetch_unreadable (h : s0.waitsPhys ((s0.queue q).slotAddr (s0.queue q).head.toNat) 64 = false)
    (hread : ((s0.countTurn die q n).physRead ((s0.queue q).slotAddr (s0.queue q).head.toNat) 64).2 = none) : s.queueFetch die true =
      ((s0.countTurn die q n).physRead ((s0.queue q).slotAddr (s0.queue q).head.toNat) 64).1.queueError q 6 0 := by
  unfold State.queueFetch
  simp only [hphase, hworks, hnext, hheld, hloc, State.locWaits, h, State.locRead]
  simp only [State.countTurn] at hread ⊢
  generalize State.physRead _ _ _ = r at hread ⊢
  obtain ⟨u, v⟩ := r
  cases hread
  rfl

end

/-! ### A ring entry in host memory (spec/04 R58, R60) -/

/-- Host memory is read as it stands, unit after unit. -/
theorem State.readUnits_host (s : State) {loc : Nat} (hloc : loc ≠ 2) (a n : Nat) :
    s.readUnits loc a n = (s, some ((List.range n).map fun k => s.hostMem.read (a + 64 * k) 64)) := by
  induction n with
  | zero => rfl
  | succ n ih => simp [State.readUnits, ih, State.locRead, hloc, List.range_succ]

/-- The Marker that an entry of kind 2 leaves (spec/04 R58). -/
def Queue.marker (x : Queue) (e : Nat) : Marker :=
  ⟨.ofNat 64 (e / 2 ^ 448), .ofNat 64 (e / 2 ^ 384), decide (e / 2 ^ 358 % 2 = 1), x.jobs⟩

/-- The inbox record that an entry of kind 1 of queue q becomes (spec/04 R58); arrival is the message's own number. -/
def Queue.launchRecord (x : Queue) (q e : Nat) (us : List Nat) (arrival : Nat) : InboxRec :=
  ⟨q, x.curPrio, q / 16384, us, Said.entryLen e, .ofNat 64 (e / 2 ^ 384), decide (e / 2 ^ 358 % 2 = 1), arrival⟩

theorem bits_low (e len : Nat) : bits e 0 len = e % 2 ^ len := by
  rw [bits, pow_zero, Nat.div_one]

theorem ofNat_bits (e lo : Nat) : BitVec.ofNat 64 (bits e lo 64) = .ofNat 64 (e / 2 ^ lo) :=
  BitVec.eq_of_toNat_eq (by simp [bits])

theorem bit_beq_one (e lo : Nat) : (bits e lo 1 == 1) = decide (e / 2 ^ lo % 2 = 1) := by
  rw [Bool.beq_eq_decide_eq, bits, pow_one]

section
variable {s : State} {q e : Nat}

theorem State.entry_reservedBits (h : e % 2 ^ 358 ≠ 0) : s.entry q e = Said.queueFails s q 1 0 := by
  simp only [State.entry, bits_low, h, ne_eq, not_false_eq_true, if_true, State.queueError_eq]

variable (hreserved : e % 2 ^ 358 = 0)
include hreserved

theorem State.entry_wrongPhase (h : e / 2 ^ 359 % 2 ≠ Said.expected (s.queue q).head.toNat (s.queue q).log2n) :
    s.entry q e = Said.queueFails s q 2 0 := by
  have hphase : bits e 359 1 ≠ phaseOf (s.queue q).head.toNat (s.queue q).log2n := h
  simp only [State.entry, bits_low, hreserved, ne_eq, not_true_eq_false, if_false, if_pos hphase, State.queueError_eq]

variable (hphase : e / 2 ^ 359 % 2 = Said.expected (s.queue q).head.toNat (s.queue q).log2n)
include hphase

/-- An entry in the expected phase is judged by its kind. -/
theorem State.entry_kind : s.entry q e =
    if 2 < Said.entryKind e ∨ (Said.entryKind e = 1 ∧ Said.entryLen e = 0) then Said.queueFails s q 4 0
    else if Said.entryKind e = 1 then s.launchEntry q e
    else if Said.entryKind e = 0 then s.advanceHead q
    else if (s.queue q).loc = 2 ∧ s.readable (bits e 448 64) 8 = false then Said.queueFails s q 6 0
    else (s.putQueue q { s.queue q with markers := (s.queue q).markers ++ [(s.queue q).marker e] }).advanceHead q := by
  have hp : bits e 359 1 = phaseOf (s.queue q).head.toNat (s.queue q).log2n := hphase
  have hkind : bits e 360 8 = Said.entryKind e := rfl
  have hlen : bits e 368 16 = Said.entryLen e := rfl
  simp only [State.entry, bits_low, hreserved, hp, hkind, hlen, ne_eq, not_true_eq_false, if_false, Bool.or_eq_true, Bool.and_eq_true, decide_eq_true_eq,
    State.queueError_eq, ofNat_bits, bit_beq_one, Bool.not_eq_true', Queue.marker]

theorem State.entry_badKind (h : 2 < Said.entryKind e ∨ (Said.entryKind e = 1 ∧ Said.entryLen e = 0)) :
    s.entry q e = Said.queueFails s q 4 0 := by
  rw [State.entry_kind hreserved hphase, if_pos h]

theorem State.entry_nop (h : Said.entryKind e = 0) : s.entry q e = s.advanceHead q := by
  simp [State.entry_kind hreserved hphase, h]

theorem State.entry_marker (hloc : (s.queue q).loc = 0) (h : Said.entryKind e = 2) : s.entry q e =
    s.putQueue q { s.queue q with
      head := (s.queue q).head + 1, held := false, skip := false, markers := (s.queue q).markers ++ [(s.queue q).marker e] } := by
  simp [State.entry_kind hreserved hphase, h, hloc, State.advanceHead, State.putQueue_putQueue]

theorem State.entry_launch (h : Said.entryKind e = 1) (hlen : Said.entryLen e ≠ 0) : s.entry q e = s.launchEntry q e := by
  simp [State.entry_kind hreserved hphase, h, hlen]

end

/-- The units of the launch record that an entry names, in host memory. -/
def Memory.recordUnits (m : Memory) (e : Nat) : List Nat :=
  (List.range (Said.entryLen e)).map fun k => m.read (e / 2 ^ 448 % 2 ^ 64 + 64 * k) 64

section
variable {s : State} {q : Nat} (e : Nat) (hloc : (s.queue q).loc = 0)
include hloc

theorem State.readUnits_record : s.readUnits (s.queue q).loc (bits e 448 64) (bits e 368 16) = (s, some (s.hostMem.recordUnits e)) :=
  s.readUnits_host (by omega) ..

theorem State.launchEntry_wrongAsid (h : (s.hostMem.recordUnits e).headD 0 / 2 ^ 180 % 4096 ≠ (s.queue q).asid) :
    s.launchEntry q e = Said.queueFails s q 5 0 := by
  have hasid : bits ((s.hostMem.recordUnits e).headD 0) 180 12 ≠ (s.queue q).asid := h
  simp only [State.launchEntry, State.readUnits_record e hloc, if_pos hasid, State.queueError_eq]

theorem State.launchEntry_sends (h : (s.hostMem.recordUnits e).headD 0 / 2 ^ 180 % 4096 = (s.queue q).asid) :
    s.launchEntry q e = (s.sendFrom (64 + q / 16384)
      (.launchRec ((s.hostMem.recordUnits e).headD 0 / 2 ^ 164 % 8 * 8 + (s.hostMem.recordUnits e).headD 0 / 2 ^ 161 % 8)
        ((s.queue q).launchRecord q e (s.hostMem.recordUnits e) s.fresh))).putQueue q { s.queue q with held := true } := by
  have hasid : ¬ bits ((s.hostMem.recordUnits e).headD 0) 180 12 ≠ (s.queue q).asid := not_not.mpr h
  simp only [State.launchEntry, State.readUnits_record e hloc, if_neg hasid, ofNat_bits, bit_beq_one]
  rfl

end

/-! ### Arbitration (spec/04 R57, R61) -/

/-- A queue of a die that has entries pending and is not skipped. -/
def State.Ready (s : State) (die k : Nat) : Prop := k / 16384 = die ∧ (s.queue k).pending = true ∧ (s.queue k).skip = false

/-- A queue without a descriptor of its own is at reset, and Disabled. -/
theorem State.mem_queues_of_pending {s : State} {k : Nat} (h : (s.queue k).pending = true) : (k, s.queue k) ∈ s.queues := by
  unfold State.queue FMap.getD at *
  cases hk : FMap.get? s.queues k with
  | none => rw [hk] at h; cases h
  | some x => exact FMap.mem_of_get? hk

theorem State.queue_of_mem {s : State} (hs : FMap.sorted s.queues = true) {k : Nat} {x : Queue} (h : (k, x) ∈ s.queues) : s.queue k = x := by
  rw [State.queue, FMap.getD, FMap.get?_of_mem hs h, Option.getD_some]

theorem foldl_max_le_iff {α : Type} (f : α → Nat) (l : List α) (m b : Nat) :
    l.foldl (fun m a => max m (f a)) m ≤ b ↔ m ≤ b ∧ ∀ a ∈ l, f a ≤ b := by
  induction l generalizing m with
  | nil => simp
  | cons a l ih => simp [ih, and_assoc]

theorem FMap.mapVals_sorted {α : Type} (m : FMap α) (f : Nat → α → α) (h : FMap.sorted m = true) :
    FMap.sorted (FMap.mapVals m f) = true := by
  induction m with
  | nil => rfl
  | cons p m ih =>
    refine FMap.sorted_cons (p := (p.1, f p.1 p.2)) (ih (FMap.sorted_tail h)) fun r hr => ?_
    obtain ⟨r', hr', rfl⟩ := FMap.mem_mapVals hr
    exact FMap.sorted_above h r' hr'

section
variable {s : State} (hs : FMap.sorted s.queues = true)
include hs

/-- The queues that a front end chooses among are those ready at the highest level that has any. -/
theorem State.mem_readyQueues_iff (die k : Nat) :
    k ∈ s.readyQueues die ↔ s.Ready die k ∧ ∀ j, s.Ready die j → (s.queue j).curPrio ≤ (s.queue k).curPrio := by
  have hready (j : Nat) (x : Queue) :
      (j, x) ∈ s.queues.filter (fun kv => kv.1 / 16384 == die && kv.2.pending && !kv.2.skip) ↔ s.Ready die j ∧ x = s.queue j := by
    simp only [List.mem_filter, Bool.and_eq_true, beq_iff_eq, Bool.not_eq_true', State.Ready]
    constructor
    · rintro ⟨hmem, hj⟩
      rw [s.queue_of_mem hs hmem]
      exact ⟨⟨hj.1.1, hj.1.2, hj.2⟩, rfl⟩
    · rintro ⟨⟨hdie, hpend, hskip⟩, rfl⟩
      exact ⟨State.mem_queues_of_pending hpend, ⟨hdie, hpend⟩, hskip⟩
  unfold State.readyQueues
  dsimp only
  generalize hl : s.queues.filter _ = l at hready ⊢
  have hall (b : Nat) : l.foldl (fun m kv => max m kv.2.curPrio) 0 ≤ b ↔ ∀ j, s.Ready die j → (s.queue j).curPrio ≤ b := by
    rw [foldl_max_le_iff (fun kv : Nat × Queue => kv.2.curPrio)]
    refine ⟨fun h j hj => h.2 _ ((hready j _).mpr ⟨hj, rfl⟩), fun h => ⟨Nat.zero_le _, fun kv hkv => ?_⟩⟩
    obtain ⟨hj, hx⟩ := (hready kv.1 kv.2).mp hkv
    exact hx ▸ h _ hj
  simp only [List.mem_map, List.mem_filter, beq_iff_eq]
  constructor
  · rintro ⟨⟨j, x⟩, ⟨hmem, htop⟩, rfl⟩
    obtain ⟨hj, rfl⟩ := (hready j x).mp hmem
    exact ⟨hj, (hall _).mp htop.ge⟩
  · rintro ⟨hk, hmax⟩
    exact ⟨(k, s.queue k), ⟨(hready k _).mpr ⟨hk, rfl⟩, Nat.le_antisymm ((hall _).mp le_rfl k hk) ((hall _).mpr hmax)⟩, rfl⟩

/-- The lowest of them comes first. -/
theorem State.readyQueues_head_le {die k j : Nat} (hk : (s.readyQueues die).head? = some k) (hj : j ∈ s.readyQueues die) : k ≤ j := by
  have hsub : (s.readyQueues die).Sublist (s.queues.map (·.1)) := (List.filter_sublist.trans List.filter_sublist).map _
  have hrise := (FMap.keys_pairwise hs).sublist hsub
  cases hl : s.readyQueues die with
  | nil => rw [hl] at hk; cases hk
  | cons a l =>
    rw [hl] at hk hj hrise
    cases hk
    cases hj with
    | head => exact le_rfl
    | tail _ hj => exact (List.rel_of_pairwise_cons hrise hj).le

end

/-- The queue whose turn it is goes on with its turn, or a queue begins one: the next in ascending order, or again the lowest. -/
theorem State.pickQueue_cases {s : State} {die q n : Nat} {b : Bool} (h : s.pickQueue die = some (q, n, b)) :
    q ∈ s.readyQueues die ∧ ∃ lowest ∈ s.readyQueues die,
      let last := FMap.getD (s.die die).turns (s.queue lowest).curPrio (65536, 0)
      (n = last.2 + 1 ∧ q = last.1 ∧ last.2 < (s.queue q).curWeight) ∨ (n = 1 ∧ (b = false → last.1 < q)) := by
  unfold State.pickQueue at h
  dsimp only at h ⊢
  split at h
  next => cases h
  next lowest hlow =>
    have hmem := List.mem_of_head? hlow
    split at h
    next hturn =>
      cases h
      simp only [Bool.and_eq_true, List.contains_iff_mem, decide_eq_true_eq] at hturn
      exact ⟨hturn.1, lowest, hmem, .inl ⟨rfl, rfl, hturn.2⟩⟩
    next =>
      split at h
      next k hk =>
        cases h
        exact ⟨List.mem_of_find?_eq_some hk, lowest, hmem, .inr ⟨rfl, fun _ => of_decide_eq_true (List.find?_some hk :)⟩⟩
      next =>
        cases h
        exact ⟨hmem, _, hmem, .inr ⟨rfl, nofun⟩⟩

theorem pickQueue_servesHighestLevel (s : State) (die q n : Nat) (b : Bool) (hs : FMap.sorted s.queues = true)
    (h : s.pickQueue die = some (q, n, b)) :
    let x := s.queue q
    let last := FMap.getD (s.die die).turns x.curPrio (65536, 0)
    q / 16384 = die ∧ x.pending = true ∧ x.skip = false ∧
    (∀ k, k / 16384 = die → (s.queue k).pending = true → (s.queue k).skip = false → (s.queue k).curPrio ≤ x.curPrio) ∧
    ((n = last.2 + 1 ∧ q = last.1 ∧ last.2 < x.curWeight) ∨ (n = 1 ∧ (b = false → last.1 < q))) := by
  obtain ⟨hq, lowest, hlow, hturn⟩ := State.pickQueue_cases h
  obtain ⟨hready, htop⟩ := (State.mem_readyQueues_iff hs die q).mp hq
  obtain ⟨hready', htop'⟩ := (State.mem_readyQueues_iff hs die lowest).mp hlow
  rw [Nat.le_antisymm (htop _ hready') (htop' _ hready)] at hturn
  obtain ⟨hdie, hpend, hskip⟩ := hready
  exact ⟨hdie, hpend, hskip, fun k hk hp hsk => htop k ⟨hk, hp, hsk⟩, hturn⟩

theorem State.queue_mapVals (s : State) (f : Nat → Queue → Queue) (k : Nat) (hreset : f k Queue.reset = Queue.reset) :
    ({ s with queues := FMap.mapVals s.queues f } : State).queue k = f k (s.queue k) := by
  simp only [State.queue, FMap.getD, FMap.get?_mapVals]
  cases FMap.get? s.queues k with
  | none => exact hreset.symm
  | some x => rfl

theorem State.newRound_queue (s : State) {die k : Nat} (h : k / 16384 = die) :
    (s.newRound die).queue k = { s.queue k with curPrio := (s.queue k).prio, curWeight := (s.queue k).weight } := by
  rw [State.newRound, State.queue_mapVals _ _ _ (by simp [Queue.reset]), if_pos h]

/-- A queue that is skipped from now on is otherwise as it was. -/
theorem State.markSkips_queue (s : State) (die k : Nat) : ∃ b, (s.markSkips die).queue k = { s.queue k with skip := b } := by
  simp only [State.markSkips, State.queue, FMap.getD, FMap.get?_mapVals]
  cases FMap.get? s.queues k with
  | none => exact ⟨false, rfl⟩
  | some x =>
    simp only [Option.map_some, Option.getD_some]
    split
    · exact ⟨true, rfl⟩
    · exact ⟨x.skip, rfl⟩

theorem State.newRound_sorted {s : State} (die : Nat) (hs : FMap.sorted s.queues = true) : FMap.sorted (s.newRound die).queues = true := by
  unfold State.newRound
  dsimp only
  exact FMap.mapVals_sorted _ _ hs

theorem State.markSkips_sorted {s : State} (die : Nat) (hs : FMap.sorted s.queues = true) : FMap.sorted (s.markSkips die).queues = true := by
  unfold State.markSkips
  dsimp only
  exact FMap.mapVals_sorted _ _ hs

theorem State.nextQueue_newRound {s : State} {die k m : Nat} (h : (s.markSkips die).pickQueue die = some (k, m, true)) :
    s.nextQueue die = ((s.markSkips die).newRound die, (((s.markSkips die).newRound die).readyQueues die).head?.map fun q => (q, 1)) := by
  simp only [State.nextQueue, h]

theorem nextQueue_startsRound (s u : State) (die q n k m : Nat) (hs : FMap.sorted s.queues = true)
    (hpick : (s.markSkips die).pickQueue die = some (k, m, true)) (hnext : s.nextQueue die = (u, some (q, n))) :
    n = 1 ∧ q / 16384 = die ∧ (u.queue q).pending = true ∧
      (∀ j, (s.queue j).pending = true → j / 16384 = die → (u.queue j).curPrio = (s.queue j).prio ∧ (u.queue j).curWeight = (s.queue j).weight) ∧
      ∀ j, j / 16384 = die → (u.queue j).pending = true → (u.queue j).skip = false →
        (u.queue j).curPrio < (u.queue q).curPrio ∨ ((u.queue j).curPrio = (u.queue q).curPrio ∧ q ≤ j) := by
  obtain ⟨rfl, hhead⟩ := Prod.mk.inj ((State.nextQueue_newRound hpick).symm.trans hnext)
  obtain ⟨q', hq, heq⟩ := Option.map_eq_some_iff.mp hhead
  cases heq
  have hsorted := State.newRound_sorted die (State.markSkips_sorted die hs)
  obtain ⟨⟨hdie, hpend, _⟩, htop⟩ := (State.mem_readyQueues_iff hsorted die q).mp (List.mem_of_head? hq)
  refine ⟨rfl, hdie, hpend, fun j _ hj => ?_, fun j hj hp hskip => ?_⟩
  · obtain ⟨b, hb⟩ := s.markSkips_queue die j
    rw [State.newRound_queue _ hj, hb]
    exact ⟨rfl, rfl⟩
  · have hle := htop j ⟨hj, hp, hskip⟩
    refine hle.lt_or_eq.imp id fun heq => ⟨heq, State.readyQueues_head_le hsorted hq ?_⟩
    exact (State.mem_readyQueues_iff hsorted die j).mpr ⟨⟨hj, hp, hskip⟩, heq ▸ htop⟩

/-! ### Markers (spec/04 R58) -/

theorem markerWrite_writes (s : State) (q : Nat) (m : Marker) (l : List Marker) (hm : (s.queue q).markers = m :: l)
    (hjobs : ∀ j ∈ m.jobs, j ∉ (s.queue q).jobs) (hloc : (s.queue q).loc = 0) :
    let v := { s.putQueue q { s.queue q with markers := l } with hostMem := s.hostMem.putBytes m.addr.toNat (leBytes m.tag.toNat 8) }
    Said.Runs (.markerWrite q) s (if m.evt then v.raiseQueue 0x42 q 0 m.tag 0 else v) := by
  have hdone : m.jobs.all (fun j => !(s.queue q).jobs.contains j) = true := by simpa using hjobs
  show execMarkerWrite q s = _
  simp only [execMarkerWrite, hm, List.find?_cons_of_pos (p := fun m : Marker => m.jobs.all _) hdone, State.locWaits, hloc, State.locWrite]
  simp

/-- Settles O39: a queue's registers by what their writes leave of its descriptor; a fetch by the branches of a front end's turn and of an
entry's judgment; arbitration by what it means to stand in the list of ready queues, which is in ascending order. -/
theorem queuesFetchOrFail : Obligations.QueuesFetchOrFail := by
  refine ⟨queueEnable_stores, queueClear_disables, doorbell_storesOrFails, fun s die hdie hphase hworks s0 hnext =>
    ⟨execQueueFetch_answered hdie (State.queueFetch_idle hphase hworks hnext _), execQueueFetch_unanswered (State.queueFetch_idle hphase hworks hnext _)⟩,
    fun s s0 die q n hdie hphase hworks hnext => ?_, pickQueue_servesHighestLevel, nextQueue_startsRound, markerWrite_writes⟩
  intro x at_ e v i
  refine ⟨fun hheld => ?_, fun hheld hloc => ?_, fun hheld hloc hwaits => ?_, fun hheld hloc hwaits hread => ?_, fun hheld hloc => ?_⟩
  · exact ⟨execQueueFetch_answered hdie (State.queueFetch_held hphase hworks hnext hheld _),
      execQueueFetch_unanswered (State.queueFetch_held hphase hworks hnext hheld _)⟩
  · rw [← State.queueError_eq]
    exact execQueueFetch_unanswered (State.queueFetch_unanswered hphase hworks hnext hheld hloc)
  · exact ⟨execQueueFetch_answered hdie (State.queueFetch_waits hphase hworks hnext hheld hloc hwaits _),
      execQueueFetch_unanswered (State.queueFetch_waits hphase hworks hnext hheld hloc hwaits _)⟩
  · rw [← State.queueError_eq]
    exact execQueueFetch_answered hdie (State.queueFetch_unreadable hphase hworks hnext hheld hloc hwaits hread)
  have hjudged {u : State} (hu : v.entry q e = u) : Said.Runs i s u :=
    execQueueFetch_answered hdie ((State.queueFetch_host hphase hworks hnext hheld (hloc.trans_ne (by decide))).trans hu)
  refine ⟨fun hres => hjudged (State.entry_reservedBits hres), fun hres hph => hjudged (State.entry_wrongPhase hres hph), fun hres hph =>
    ⟨fun hkind => hjudged (State.entry_badKind hres hph hkind), fun hkind => hjudged (State.entry_nop hres hph hkind),
      fun hkind => hjudged (State.entry_marker hres hph hloc hkind), fun hkind hlen => ⟨fun hasid => ?_, fun hasid => ?_⟩⟩⟩
  · have hlaunch : v.entry q e = v.launchEntry q e := State.entry_launch hres hph hkind hlen
    exact hjudged (hlaunch.trans (State.launchEntry_wrongAsid e hloc hasid))
  · have hlaunch : v.entry q e = v.launchEntry q e := State.entry_launch hres hph hkind hlen
    exact ⟨x.launchRecord q e (s0.hostMem.recordUnits e) v.fresh, hjudged (hlaunch.trans (State.launchEntry_sends e hloc hasid)),
      rfl, rfl, rfl, rfl, rfl, rfl, decide_eq_true_iff⟩

end Sys2Proof.Machine
end

section
/-! SUPPORT. A resume list filled from strands that stand under the wrong handles (spec/05 R82, spec/06 R98). -/

namespace Sys2Proof.Machine

/-- A strand of core 0 of tile 0, evicted and with nothing to wait for. -/
def strayEvicted : Strand := { newStrand 0 0 (gInit []) 0 0 0 0 ⟨0, 0, 0, 0⟩ 0 .resumed with status := .evicted }

/-- The evicted strand is first of its dock's resume list. It stands under its handle 0 and once more under 1, which is the handle of a queued
strand of the same column. -/
def strayResume : State :=
  { State.reset with
    strands := [(0, strayEvicted), (1, strayEvicted), (2, newStrand 1 0 (gInit []) 0 0 0 0 ⟨0, 0, 0, 0⟩ 0 .fresh)]
    cols := [(0, { Column.reset with resume := [0] })] }

/-- Looking for evicted strands whose causes are clear, the dock meets the handle 1, finds the evicted strand under it, and lists it
anew; the grant of the slot takes the handle 0 off the list. -/
theorem strayResume_granted {u : State} (h : Said.Runs (.slotGrant 0 0) strayResume u) : (u.col 0).resume = [1] := by
  cases h
  rfl

/-- Refutes O40: its clause on the grant of a slot from the resume list lets every strand of the state be queued or equal to the listed one, but not
that strands stand under their handles. In `strayResume` the listed strand stands under a second number, the handle of a queued strand;
the dock lists it anew, and its resume list is not empty after the grant. No run reaches such a state, since strands are
put under their handles; the statement wants that premise, which O37 has. -/
theorem not_jobsAreAcceptedBoundAndCompleted : ¬ Obligations.JobsAreAcceptedBoundAndCompleted := by
  rintro ⟨-, -, -, -, -, -, -, -, -, -, hgrant, -⟩
  obtain ⟨-, hlisted, -⟩ := hgrant strayResume 0 0 strayEvicted (by decide) rfl rfl rfl
  obtain ⟨u, hruns, -, -, hempty⟩ := hlisted rfl rfl rfl rfl rfl rfl (by decide)
  exact absurd ((strayResume_granted hruns).symm.trans hempty) (by decide)

end Sys2Proof.Machine
end

section
/-! SUPPORT. O51: how an access finds its bed after the reads of an instruction, the acquire at panel scope, an item sent, and a slot given up
to an arrival (spec/18 R375 to R377, spec/05 R76, R77, R82, spec/08 R149). -/

namespace Sys2Proof.Machine

/-! ### The issue of an instruction that reads ready registers -/

/-- An instruction that brings no format codes and has no limit, issued with every source ready, runs its body on what the reads leave. -/
theorem State.plain_of_issues {s : State} {st : Strand} {word len : Nat} {srcs : List (Nat × Bool)} {body : Turn → State}
    (h : Said.Issues s st (srcs.map (·.1))) :
    s.plain word len srcs body =
      .next (body ⟨s, st, (s.readSources st srcs).1, (s.readSources st srcs).2, len⟩) := by
  obtain ⟨hc, hs, hp, hx, hr⟩ := h
  exact State.plain_body hc hs hp hx hr

/-- The same for an instruction that reads nothing. -/
theorem State.plain_of_issues_nil {s : State} {st : Strand} {word len : Nat} {body : Turn → State} (h : Said.Issues s st []) :
    s.plain word len [] body = .next (body ⟨s, st, s, st, len⟩) :=
  State.plain_of_issues (srcs := []) h

/-! ### How an access finds its bed -/

/-- The beds that accesses find are the same: the tables of the tiles, the bed caches, and the dies, which hold the host apertures. -/
structure SameBeds (s u : State) : Prop where
  dies : u.dies = s.dies
  bedTables : ∀ t, (u.tile t).bedTables = (s.tile t).bedTables
  supTable : ∀ t, (u.tile t).supTable = (s.tile t).supTable
  bedCache : ∀ k, (u.core k).bedCache = (s.core k).bedCache

theorem SameBeds.refl (s : State) : SameBeds s s := ⟨rfl, fun _ => rfl, fun _ => rfl, fun _ => rfl⟩
theorem SameBeds.trans {s u v : State} (h : SameBeds s u) (g : SameBeds u v) : SameBeds s v :=
  ⟨g.dies.trans h.dies, fun t => (g.bedTables t).trans (h.bedTables t), fun t => (g.supTable t).trans (h.supTable t),
    fun k => (g.bedCache k).trans (h.bedCache k)⟩

theorem State.tile_putTile_self (s : State) (t : Nat) (x : Tile) : (s.putTile t x).tile t = x := FMap.getD_set_self _ _ _ _
theorem State.tile_putTile_ne (s : State) {t u : Nat} (x : Tile) (h : u ≠ t) : (s.putTile t x).tile u = s.tile u :=
  FMap.getD_set_ne _ _ _ h
theorem State.core_putCore_self (s : State) (k : Nat) (c : Core) : (s.putCore k c).core k = c := FMap.getD_set_self _ _ _ _
theorem State.core_putCore_ne (s : State) {k j : Nat} (c : Core) (h : j ≠ k) : (s.putCore k c).core j = s.core j :=
  FMap.getD_set_ne _ _ _ h
theorem State.col_putCol_self (s : State) (k : Nat) (c : Column) : (s.putCol k c).col k = c := FMap.getD_set_self _ _ _ _
theorem State.col_putCol_ne (s : State) {k j : Nat} (c : Column) (h : j ≠ k) : (s.putCol k c).col j = s.col j :=
  FMap.getD_set_ne _ _ _ h

/-- A tile written with the tables it had. -/
theorem State.putTile_sameBeds (s : State) (t : Nat) (x : Tile) (hb : x.bedTables = (s.tile t).bedTables)
    (hs : x.supTable = (s.tile t).supTable) : SameBeds s (s.putTile t x) := by
  refine ⟨rfl, fun u => ?_, fun u => ?_, fun _ => rfl⟩ <;> by_cases h : u = t
  · rw [h, State.tile_putTile_self, hb]
  · rw [State.tile_putTile_ne s x h]
  · rw [h, State.tile_putTile_self, hs]
  · rw [State.tile_putTile_ne s x h]

theorem State.dropLines_sameBeds (s : State) (k : Nat) : SameBeds s (s.dropLines k) := by
  refine ⟨rfl, fun _ => rfl, fun _ => rfl, fun j => ?_⟩
  unfold State.dropLines
  by_cases h : j = k
  · rw [h, State.core_putCore_self]
  · rw [State.core_putCore_ne s _ h]

theorem State.dropRake_sameBeds (s : State) (k : Nat) : SameBeds s (s.dropRake k) := ⟨rfl, fun _ => rfl, fun _ => rfl, fun _ => rfl⟩

/-- A map over the cores that keeps each bed cache, the reset core's too. -/
theorem State.mapCores_bedCache (s : State) (f : Nat → Core → Core) (hf : ∀ k c, (f k c).bedCache = c.bedCache) (k : Nat) :
    ((FMap.getD (FMap.mapVals s.cores f) k Core.reset)).bedCache = (s.core k).bedCache := by
  unfold State.core FMap.getD
  rw [FMap.get?_mapVals]
  cases FMap.get? s.cores k with
  | none => rfl
  | some c => exact hf k c

theorem State.bumpAg_below {s : State} {t : Nat} (h : (s.tile t).ag + 1 < 65536) :
    s.bumpAg t = s.putTile t { s.tile t with ag := (s.tile t).ag + 1 } := if_pos h

theorem State.bumpAg_sameBeds (s : State) (t : Nat) : SameBeds s (s.bumpAg t) := by
  by_cases h : (s.tile t).ag + 1 < 65536
  · rw [State.bumpAg_below h]
    exact s.putTile_sameBeds t _ rfl rfl
  · obtain ⟨hd, hb, hs, -⟩ := s.putTile_sameBeds t { s.tile t with ag := 0 } rfl rfl
    rw [State.bumpAg, if_neg h]
    exact ⟨hd, hb, hs, s.mapCores_bedCache (fun k c => if k / 768 = t then { c with lineBuf := [], instrBuf := [] } else c)
      (fun k c => by split <;> rfl)⟩

theorem State.acquire_sameBeds (s : State) (st : Strand) (scope : Nat) : SameBeds s (s.acquire st scope).1 := by
  have h := (s.bumpAg_sameBeds st.loc.tile).trans (State.dropLines_sameBeds _ st.coreKey)
  unfold State.acquire
  split
  · exact SameBeds.refl s
  · show SameBeds s (if scope < 4 then _ else _)
    split
    · exact h
    · exact h.trans (State.dropRake_sameBeds _ _)

/-- The strand's accesses look for their beds in the same place: the same tile, core and address space, as a supervisor or not. -/
structure SameAccess (t u : Strand) : Prop where
  loc : u.loc = t.loc
  asid : u.asid = t.asid
  sup : u.sup = t.sup

theorem SameAccess.refl (t : Strand) : SameAccess t t := ⟨rfl, rfl, rfl⟩
theorem SameAccess.trans {t u v : Strand} (h : SameAccess t u) (g : SameAccess u v) : SameAccess t v :=
  ⟨g.loc.trans h.loc, g.asid.trans h.asid, g.sup.trans h.sup⟩

/-- SG lies above SUP in SS. -/
theorem Strand.setSg_sup (t : Strand) (v : Nat) : (t.setSg v).sup = t.sup := by
  have h := t.ss.isLt
  show (bits (setBits t.ss 32 16 v).toNat 18 1 == 1) = (bits t.ss.toNat 18 1 == 1)
  simp only [setBits, bits, BitVec.toNat_ofNat]
  congr 1
  omega

theorem State.acquire_sameAccess (s : State) (st : Strand) (scope : Nat) : SameAccess st (s.acquire st scope).2 := by
  refine ⟨s.acquire_loc st scope, s.acquire_asid st scope, ?_⟩
  unfold State.acquire
  split
  · rfl
  · exact Strand.setSg_sup _ _

/-- What a read keeps of the state and the strand, for an access that follows it. -/
def SameLookup (p q : State × Strand) : Prop := SameBeds p.1 q.1 ∧ SameAccess p.2 q.2

theorem State.readAcquire_sameLookup (p : State × Strand) (r : Nat) : SameLookup p (State.readAcquire p r) := by
  unfold State.readAcquire
  split
  · exact ⟨SameBeds.refl _, SameAccess.refl _⟩
  · obtain ⟨hl, ha, hs⟩ := p.1.acquire_sameAccess p.2 _
    exact ⟨p.1.acquire_sameBeds p.2 _, hl, ha, hs⟩

theorem State.readAcquires_sameLookup (l : List Nat) (p : State × Strand) : SameLookup p (l.foldl State.readAcquire p) := by
  induction l generalizing p with
  | nil => exact ⟨SameBeds.refl _, SameAccess.refl _⟩
  | cons r l ih =>
    obtain ⟨hb, ha⟩ := State.readAcquire_sameLookup p r
    obtain ⟨hb', ha'⟩ := ih (State.readAcquire p r)
    exact ⟨hb.trans hb', ha.trans ha'⟩

theorem Strand.vacates_sameAccess (l : List (Nat × Bool)) (t : Strand) :
    SameAccess t (l.foldl (fun t c => t.vacate c.1) t) := by
  induction l generalizing t with
  | nil => exact SameAccess.refl t
  | cons c l ih => exact SameAccess.trans (u := t.vacate c.1) ⟨rfl, rfl, rfl⟩ (ih _)

theorem State.readSources_sameLookup (s : State) (st : Strand) (srcs : List (Nat × Bool)) :
    SameLookup (s, st) (s.readSources st srcs) := by
  obtain ⟨hb, ha⟩ := State.readAcquires_sameLookup (srcs.map (·.1)) (s, st)
  exact ⟨hb, ha.trans (Strand.vacates_sameAccess _ _)⟩

theorem SameLookup.tableFor_eq {s u : State} {t v : Strand} (h : SameLookup (s, t) (u, v)) : u.tableFor v = s.tableFor t := by
  obtain ⟨⟨-, hb, hs, -⟩, hl, ha, hp⟩ := h
  unfold State.tableFor
  rw [hp, hl, ha, hb, hs]

/-- A lookup after the reads gives what it gave before them. -/
theorem SameLookup.lookup_eq {s u : State} {t v : Strand} (h : SameLookup (s, t) (u, v)) (va : Word) :
    u.lookup v va = s.lookup t va := by
  have htab := h.tableFor_eq
  obtain ⟨⟨-, -, -, hc⟩, hl, ha, -⟩ := h
  have hk : v.coreKey = t.coreKey := by unfold Strand.coreKey; rw [hl]
  unfold State.lookup Core.cachedBed
  rw [hk, hc, ha, htab]

/-- Where an access goes depends on the dies alone, beside the bed. -/
theorem State.targetBed_of_dies {s u : State} (h : u.dies = s.dies) (b : BedHit) (spill : Bool) (t : Nat) (va : Word) :
    u.targetBed b spill t va = s.targetBed b spill t va := by
  unfold State.targetBed State.die
  rw [h]

theorem SameLookup.target_eq {s u : State} {t v : Strand} (h : SameLookup (s, t) (u, v)) (b : BedHit) (va : Word) :
    u.target v b va = s.target t b va := by
  have htab := h.tableFor_eq
  obtain ⟨hb, hl, -, -⟩ := h
  unfold State.target
  rw [htab, hl, State.targetBed_of_dies hb.dies]

/-- A bed touched is an entry of a bed cache moved: the tables and the place of the strand stay, and so does where an access goes. -/
theorem State.target_touchBed (s : State) (t v : Strand) (b c : BedHit) (va : Word) :
    (s.touchBed t c).target v b va = s.target v b va := rfl

/-- An access whose bed is found and whose checks pass goes on. -/
theorem Turn.access_passes {x : Turn} {a : Access} {va : Word} {align : Nat} {k : BedHit → State} {h : BedHit}
    (hl : x.s.lookup x.o va = .hit h) (hc : checkAt a va align h = none) : x.access a va align k = k h := by
  simp only [Turn.access, hl, hc]

theorem Turn.access_trips {x : Turn} {a : Access} {va : Word} {align : Nat} {k : BedHit → State} {h : BedHit} {t : Trip}
    (hl : x.s.lookup x.o va = .hit h) (hc : checkAt a va align h = some t) : x.access a va align k = x.trapBed h t := by
  simp only [Turn.access, hl, hc]

/-! ### LAUNCH (spec/18 R375) -/

/-- A read bit, and a kind other than host and peer, let a load of 64 bytes at a multiple of 64 pass. -/
theorem checkAt_load_passes {va : Word} {h : BedHit} (ha : va.toNat % 64 = 0) (hr : h.bed.rd = true)
    (hk : Said.notIo h.bed.kind = true) : checkAt .load va 64 h = none := by
  have hk' : Access.kindOk .load h.bed.kind = true := hk
  simp [checkAt, ha, Access.permitted, hr, hk']

theorem checkAt_load_misaligned {va : Word} {h : BedHit} (ha : va.toNat % 64 ≠ 0) : checkAt .load va 64 h = some ⟨3, va, 64⟩ := by
  rw [checkAt, if_pos ha]
  rfl

theorem checkAt_load_protected {va : Word} {h : BedHit} (ha : va.toNat % 64 = 0) (hr : h.bed.rd = false) :
    checkAt .load va 64 h = some ⟨7, va, .ofNat 64 (h.index * 256 + 1)⟩ := by
  simp [checkAt, ha, Access.permitted, hr, protectionCore]

theorem checkAt_load_io {va : Word} {h : BedHit} (ha : va.toNat % 64 = 0) (hr : h.bed.rd = true)
    (hk : Said.notIo h.bed.kind = false) : checkAt .load va 64 h = some ⟨5, va, .ofNat 64 (h.index * 256 + h.bed.kind.code)⟩ := by
  have hk' : Access.kindOk .load h.bed.kind = false := hk
  simp [checkAt, ha, Access.permitted, hr, hk', bedKindTrip]

/-- What LAUNCH does once its record's bed is found: d is Awaiting, and the fill or the question to the front end is on its way. -/
def Strand.launchOn (st : Strand) (d : GReg) (q : Nat) (r : State × Strand) (g : Target) (h : BedHit) : State :=
  let s1 := r.1.touchBed r.2 h
  let s2 := s1.putStrand ((r.2.await d.toNat s1.fresh).completed (st.pc + 4))
  if 65536 ≤ q then s2.send (.fill st.handle d.toNat s1.fresh 1 none none)
  else s2.sendFrom st.loc.tile (.launch st.handle d.toNat s1.fresh q st.asid st.x[0] (st.x[1].toNat % 65536) (st.x[1].getLsbD 16) g)

/-- Bit 16 of a dword as the field of one bit at 16. -/
theorem bits_one_eq_getLsbD (v : Word) (n : Nat) : (bits v.toNat n 1 == 1) = v.getLsbD n := by
  simp only [bits, BitVec.getLsbD, Nat.testBit, Nat.shiftRight_eq_div_pow, pow_one, Nat.one_and_eq_mod_two]
  rcases Nat.mod_two_eq_zero_or_one (v.toNat / 2 ^ n) with h | h <;> rw [h] <;> rfl

theorem Strand.xv_zero (t : Strand) : t.xv 0 = t.x[0] := by simp [Strand.xv]
theorem Strand.xv_one (t : Strand) : t.xv 1 = t.x[1] := by simp [Strand.xv]

/-- LAUNCH, issued with its sources ready before a release at panel scope is done: it parks until then. -/
theorem exec_launch_parks {s : State} {st : Strand} {d : GReg} {a b : GSrc} (hi : Said.Issues s st [a.reg.toNat, b.reg.toNat])
    (hw : s.waitOver { st with wait := releaseWait } = false) : exec (.launch d a b) s = .next (s.parkWait st releaseWait) := by
  show execLaunch d a b s = _
  unfold execLaunch
  rw [State.plain_of_issues (srcs := [gsrc a, gsrc b]) hi]
  exact congrArg _ (if_pos (by rw [hw]; rfl))

/-- The release done and the record's bed found: the checks of a load of 64 bytes, and then the launch goes out. -/
theorem exec_launch_checks {s : State} {st : Strand} {d : GReg} {a b : GSrc} {h : BedHit}
    (hi : Said.Issues s st [a.reg.toNat, b.reg.toNat]) (hw : s.waitOver { st with wait := releaseWait } = true)
    (hh : s.lookup st (st.gv b.reg) = .hit h) :
    exec (.launch d a b) s = .next (match checkAt .load (st.gv b.reg) 64 h with
      | some t => (s.touchBed st h).trap st t
      | none => st.launchOn d (st.gv a.reg).toNat (s.readSources st [Said.g a, Said.g b]) (s.target st h (st.gv b.reg)) h) := by
  have hr := s.readSources_sameLookup st [Said.g a, Said.g b]
  have hl : (s.readSources st [Said.g a, Said.g b]).1.lookup st (st.gv b.reg) = .hit h :=
    (SameLookup.lookup_eq (t := st) (v := st) ⟨hr.1, SameAccess.refl st⟩ _).trans hh
  show execLaunch d a b s = _
  unfold execLaunch
  rw [State.plain_of_issues (srcs := [gsrc a, gsrc b]) hi]
  refine congrArg _ ((if_neg (by rw [hw]; decide)).trans ?_)
  cases hc : checkAt .load (st.gv b.reg) 64 h with
  | some t => exact Turn.access_trips (x := ⟨s, st, _, _, 4⟩) hl hc
  | none =>
    refine (Turn.access_passes (x := ⟨s, st, _, _, 4⟩) hl hc).trans ?_
    have hg : (s.readSources st [gsrc a, gsrc b]).1.target (s.readSources st [gsrc a, gsrc b]).2 h (st.gv b.reg) =
        s.target st h (st.gv b.reg) := hr.target_eq h _
    simp only [Strand.launchOn, Turn.done, State.target_touchBed, Strand.xv_zero, Strand.xv_one, bits_one_eq_getLsbD, bits_low,
      State.readSources_handle, State.readSources_asid, Strand.await_pc, State.readSources_pc, hg]
    rfl

/-! ### NXTGO (spec/05 R76, spec/18 R376) -/

/-- An item started towards a target: its message and its entry, and no strand and no memory touched. -/
theorem State.sendItem_spec (s : State) (st : Strand) (cls : ItemClass) (g : Target) (m : Nat → Msg) :
    (s.sendItem st cls g m).strands = s.strands ∧ (s.sendItem st cls g m).mem = s.mem ∧
      FMap.get? (s.sendItem st cls g m).msgs (s.fresh + 1) = some (m s.fresh) ∧
      FMap.get? (s.sendItem st cls g m).items s.fresh = some ⟨st.handle, st.job, cls, g.home, g.far, false, 0⟩ := by
  have hu := State.sendFrom_sameUnits (s.addItem ⟨st.handle, st.job, cls, g.home, g.far, false, 0⟩) st.loc.tile (m s.fresh)
  refine ⟨hu.strands, hu.mem, ?_, ?_⟩
  · exact (congrArg (FMap.get? · (s.fresh + 1)) (State.sendFrom_msgs _ _ _)).trans (FMap.get?_set_self _ _ _)
  · exact (congrArg (FMap.get? · s.fresh) hu.items).trans (FMap.get?_set_self _ _ _)

/-- NXTGO's two forms are one operation, by their encoding and length. -/
theorem exec_nxtgo_form (s : State) {p : Instr × Nat} (hp : p ∈ [(Instr.nxtgo, 4), (.nxtgo16, 2)]) :
    exec p.1 s = s.nxtgoOp (encode p.1) p.2 := by
  simp only [List.mem_cons, List.not_mem_nil, or_false] at hp
  obtain rfl | rfl := hp <;> rfl

theorem State.nxtgoOp_no_word {s : State} {st : Strand} {word len : Nat} {j : Job} (hi : Said.Issues s st [])
    (hj : s.job? st.job = some j) (h0 : j.lrec.goaddr = 0) : s.nxtgoOp word len = .next (Said.after16 s st len) := by
  unfold State.nxtgoOp
  rw [State.plain_of_issues_nil hi]
  simp only [hj, h0, ↓reduceIte]
  rfl

theorem State.nxtgoOp_posts {s : State} {st : Strand} {word len : Nat} {j : Job} {tab : BedTable} {h : BedHit}
    (hi : Said.Issues s st []) (hj : s.job? st.job = some j) (h0 : j.lrec.goaddr ≠ 0) (hlt : j.lrec.goaddr < 2 ^ 56)
    (ht : FMap.get? (s.tile st.loc.tile).bedTables j.lrec.asid = some tab) (hh : tab.find j.lrec.goaddr = some h) :
    s.nxtgoOp word len = .next ((Said.after16 s st len).sendItem st .posted
      (s.targetBed h (tab.spills h.index) st.loc.tile (.ofNat 64 j.lrec.goaddr))
      (fun id => .posted .go (.ofNat 12 j.lrec.asid) (.ofNat 64 j.lrec.goaddr)
        (s.targetBed h (tab.spills h.index) st.loc.tile (.ofNat 64 j.lrec.goaddr)) id)) := by
  have hva : (BitVec.ofNat 64 j.lrec.goaddr).toNat = j.lrec.goaddr := by
    rw [BitVec.toNat_ofNat]
    omega
  have hg : (Said.after16 s st len).targetOf tab st.loc.tile (.ofNat 64 j.lrec.goaddr) =
      some (s.targetBed h (tab.spills h.index) st.loc.tile (.ofNat 64 j.lrec.goaddr)) := by
    rw [State.targetOf, hva, hh]
    rfl
  unfold State.nxtgoOp
  rw [State.plain_of_issues_nil hi]
  simp only [hj, h0, ht, ↓reduceIte]
  exact congrArg _ (Eq.trans (by rw [show Turn.done _ _ _ = Said.after16 s st len from rfl, hg]) rfl)

/-! ### PREDWAIT (spec/05 R77, spec/08 R149, spec/18 R376) -/

theorem exec_predwait_form (s : State) {p : Instr × Nat} (hp : p ∈ [(Instr.predwait, 4), (.predwait16, 2)]) :
    exec p.1 s = s.predwaitOp (encode p.1) p.2 := by
  simp only [List.mem_cons, List.not_mem_nil, or_false] at hp
  obtain rfl | rfl := hp <;> rfl

theorem State.predsDone_iff (s : State) (st : Strand) : s.predsDone st.job = true ↔ Said.predecessorsDone s st := by
  unfold State.predsDone Said.predecessorsDone
  cases s.job? st.job with
  | none => simp
  | some j => simp

theorem State.predwaitOp_parks {s : State} {st : Strand} {word len : Nat} (hi : Said.Issues s st [])
    (hp : ¬ Said.predecessorsDone s st) : s.predwaitOp word len = .next (s.park st 6 0) := by
  unfold State.predwaitOp
  rw [State.plain_of_issues_nil hi]
  exact congrArg _ (if_neg (fun h => hp ((s.predsDone_iff st).mp h)))

theorem State.predwaitOp_acquires {s : State} {st : Strand} {word len : Nat} (hi : Said.Issues s st [])
    (hp : Said.predecessorsDone s st) :
    s.predwaitOp word len = .next ((s.acquire st 7).1.putStrand
      ((s.acquire st 7).2.completed ((s.acquire st 7).2.pc + .ofNat 56 len))) := by
  unfold State.predwaitOp
  rw [State.plain_of_issues_nil hi]
  exact congrArg _ (if_pos ((s.predsDone_iff st).mpr hp))

/-- The acquire at panel scope of a tile whose AG does not pass its last value. -/
theorem State.acquire_panel {s : State} {st : Strand} (h : (s.tile st.loc.tile).ag + 1 < 65536) :
    s.acquire st 7 = ((((s.putTile st.loc.tile { s.tile st.loc.tile with ag := (s.tile st.loc.tile).ag + 1 }).dropLines
      st.coreKey).dropRake st.colKey), st.setSg ((s.tile st.loc.tile).ag + 1)) := by
  have hag : (State.tile (((s.putTile st.loc.tile { s.tile st.loc.tile with ag := (s.tile st.loc.tile).ag + 1 }).dropLines
      st.coreKey).dropRake st.colKey) st.loc.tile).ag = (s.tile st.loc.tile).ag + 1 :=
    congrArg Tile.ag (s.tile_putTile_self _ _)
  rw [State.acquire, if_neg (by decide), State.bumpAg_below h]
  exact Prod.ext rfl (congrArg st.setSg hag)

/-- SG lies above the fields that the end of an instruction clears. -/
theorem Strand.completed_sg (t : Strand) (p : BitVec 56) : (t.completed p).sg = t.sg := by
  have hs : t.countWin.ss = t.ss := by
    unfold Strand.countWin
    split <;> rfl
  have h := t.ss.isLt
  show bits (setBits t.countWin.ss 8 9 0).toNat 32 16 = bits t.ss.toNat 32 16
  rw [hs]
  simp only [setBits, bits, BitVec.toNat_ofNat]
  omega

theorem Strand.setSg_sg {t : Strand} {v : Nat} (hv : v < 65536) : (t.setSg v).sg = v := by
  have h := t.ss.isLt
  show bits (setBits t.ss 32 16 v).toNat 32 16 = v
  simp only [setBits, bits, BitVec.toNat_ofNat]
  omega

/-- The end of an instruction changes only BOUNCE, beside what it clears. -/
theorem Strand.completed_eq (t : Strand) (p : BitVec 56) : ∃ b, t.completed p = Strand.finished { t with bounce := b } p := by
  unfold Strand.completed Strand.countWin
  split
  · exact ⟨t.bounce, rfl⟩
  · exact ⟨_, rfl⟩

theorem Strand.completed_handle (t : Strand) (p : BitVec 56) : (t.completed p).handle = t.handle := by
  obtain ⟨b, h⟩ := t.completed_eq p
  rw [h]; rfl
theorem Strand.completed_g (t : Strand) (p : BitVec 56) : (t.completed p).g = t.g := by
  obtain ⟨b, h⟩ := t.completed_eq p
  rw [h]; rfl
theorem Strand.completed_loc (t : Strand) (p : BitVec 56) : (t.completed p).loc = t.loc := by
  obtain ⟨b, h⟩ := t.completed_eq p
  rw [h]; rfl
theorem Strand.completed_pc (t : Strand) (p : BitVec 56) : (t.completed p).pc = p := rfl
theorem Strand.completed_status (t : Strand) (p : BitVec 56) : (t.completed p).status = .ready := rfl

/-- A strand written under its handle: what an instruction leaves of it. -/
theorem State.strand?_putStrand_of {s : State} {t : Strand} {h : BitVec 64} (hh : t.handle = h) :
    (s.putStrand t).strand? h = some t := by
  subst hh
  exact s.strand?_putStrand_self t

/-- The state that PREDWAIT leaves when it acquires. -/
theorem State.acquire_panel_spec {s : State} {st : Strand} (h : (s.tile st.loc.tile).ag + 1 < 65536) :
    let u := (s.acquire st 7).1
    (u.tile st.loc.tile).ag = (s.tile st.loc.tile).ag + 1 ∧ (u.core st.coreKey).lineBuf = [] ∧
      (u.core st.coreKey).instrBuf = [] ∧ (u.col st.colKey).rakeBuf = [] ∧ u.mem = s.mem := by
  rw [State.acquire_panel h]
  refine ⟨congrArg Tile.ag (s.tile_putTile_self _ _), congrArg Core.lineBuf (State.core_putCore_self _ _ _),
    congrArg Core.instrBuf (State.core_putCore_self _ _ _), congrArg Column.rakeBuf (State.col_putCol_self _ _ _), rfl⟩

/-! ### YIELD (spec/18 R377, spec/05 R82) -/

theorem exec_yield_form (s : State) {p : Instr × Nat} (hp : p ∈ [(Instr.yield, 4), (.yield16, 2)]) :
    exec p.1 s = s.yieldOp (encode p.1) p.2 := by
  simp only [List.mem_cons, List.not_mem_nil, or_false] at hp
  obtain rfl | rfl := hp <;> rfl

/-- YIELD completes, and then the strand as it now is gives its slot up. -/
theorem State.yieldOp_eq {s : State} {st : Strand} {word len : Nat} (hi : Said.Issues s st []) :
    s.yieldOp word len = .next ((Said.after16 s st len).yieldSlot (st.completed (st.pc + .ofNat 56 len))) := by
  unfold State.yieldOp
  rw [State.plain_of_issues_nil hi]
  have hs : (Said.after16 s st len).strand? st.handle = some (st.completed (st.pc + .ofNat 56 len)) :=
    State.strand?_putStrand_of (st.completed_handle _)
  refine congrArg _ ?_
  show (match (Said.after16 s st len).strand? st.handle with | some v => State.yieldSlot _ v | none => _) = _
  rw [hs]
  rfl

/-- Nothing yields in the urgent slot or where no arrival waits. -/
theorem State.yieldSlot_none {s : State} {st : Strand} (h : st.loc.slot = 15 ∨ (s.core st.coreKey).arrival = []) :
    s.yieldSlot st = s := by
  unfold State.yieldSlot
  rcases h with h | h <;> simp [h]

/-- A binding replaced in a map is the one entry that goes. -/
theorem FMap.mem_set_of_mem {α : Type} {m : FMap α} {j : Nat} {x y : α} (hy : FMap.get? m j = some y) {p : Nat × α} (hp : p ∈ m) :
    p ∈ FMap.set m j x ∨ p = (j, y) := by
  induction m with
  | nil => cases hp
  | cons q m ih =>
    obtain ⟨k, v⟩ := q
    simp only [FMap.get?] at hy
    simp only [FMap.set]
    split at hy
    next e =>
      obtain rfl := Option.some.inj hy
      subst e
      rw [if_pos rfl]
      rcases List.mem_cons.mp hp with h | h
      · exact .inr h
      · exact .inl (List.mem_cons_of_mem _ h)
    next e =>
      rw [if_neg e]
      split at hy
      · cases hy
      next hn =>
        rw [if_neg hn]
        rcases List.mem_cons.mp hp with h | h
        · exact .inl (h ▸ List.mem_cons_self)
        · exact (ih hy h).imp_left (List.mem_cons_of_mem _)

theorem FMap.mem_set_self {α : Type} (m : FMap α) (j : Nat) (x : α) : (j, x) ∈ FMap.set m j x :=
  FMap.mem_of_get? (FMap.get?_set_self m j x)

/-- A strand in a slot, rewritten in place, leaves no slot free that was not. -/
theorem State.slotStrand_putStrand {s : State} {st t : Strand} (hs : s.strand? st.handle = some st) (hh : t.handle = st.handle)
    (hl : t.loc = st.loc) (hin : t.inSlot = true) {tile core n : Nat} (h : (s.slotStrand tile core n).isSome) :
    ((s.putStrand t).slotStrand tile core n).isSome := by
  unfold State.slotStrand at h ⊢
  rw [Option.isSome_map, List.find?_isSome] at h ⊢
  obtain ⟨kv, hkv, hp⟩ := h
  rcases FMap.mem_set_of_mem (x := t) hs hkv with hm | rfl
  · exact ⟨kv, show kv ∈ FMap.set s.strands t.handle.toNat t from hh ▸ hm, hp⟩
  · refine ⟨(t.handle.toNat, t), FMap.mem_set_self _ _ _, ?_⟩
    simp only [Bool.and_eq_true] at hp ⊢
    rw [hl]
    exact ⟨⟨⟨hin, hp.1.1.2⟩, hp.1.2⟩, hp.2⟩

theorem State.freeSlots_empty {s : State} {tile core : Nat} (h : ∀ n, n < 15 → (s.slotStrand tile core n).isSome) :
    s.freeSlots tile core = [] := by
  refine List.filter_eq_nil_iff.mpr (fun n hn => ?_)
  have := h n (List.mem_range.mp hn)
  simp [Option.isNone_eq_false_iff.mpr this]

/-- What a place that is granted and what is reserved after it leave: the arrival queues, the resume lists and the strands. -/
structure SameQueues (s u : State) : Prop where
  strands : u.strands = s.strands
  arrival : ∀ k, (u.core k).arrival = (s.core k).arrival
  resume : ∀ k, (u.col k).resume = (s.col k).resume

theorem SameQueues.refl (s : State) : SameQueues s s := ⟨rfl, fun _ => rfl, fun _ => rfl⟩
theorem SameQueues.trans {s u v : State} (h : SameQueues s u) (g : SameQueues u v) : SameQueues s v :=
  ⟨g.strands.trans h.strands, fun k => (g.arrival k).trans (h.arrival k), fun k => (g.resume k).trans (h.resume k)⟩

theorem State.putCore_sameQueues (s : State) (k : Nat) {c : Core} (h : c.arrival = (s.core k).arrival) :
    SameQueues s (s.putCore k c) := by
  refine ⟨rfl, fun j => ?_, fun _ => rfl⟩
  by_cases e : j = k
  · rw [e, State.core_putCore_self, h]
  · rw [State.core_putCore_ne s c e]

theorem State.putCol_sameQueues (s : State) (k : Nat) {c : Column} (h : c.resume = (s.col k).resume) :
    SameQueues s (s.putCol k c) := by
  refine ⟨rfl, fun _ => rfl, fun j => ?_⟩
  by_cases e : j = k
  · rw [e, State.col_putCol_self, h]
  · rw [State.col_putCol_ne s c e]

theorem State.sendFrom_sameQueues (s : State) (t : Nat) (m : Msg) : SameQueues s (s.sendFrom t m) := by
  have h := State.sendFrom_sameUnits s t m
  refine ⟨h.strands, fun k => ?_, fun k => ?_⟩
  · rw [State.core, h.cores]; rfl
  · rw [State.col, h.cols]; rfl

theorem State.reserveOne_sameQueues (s : State) (k : Nat) : SameQueues s (s.reserveOne k) := by
  unfold State.reserveOne
  dsimp only
  split
  · split
    · exact SameQueues.refl s
    · refine ((s.putCol_sameQueues _ ?_).trans (State.putCore_sameQueues _ k ?_)).trans (State.sendFrom_sameQueues _ _ _) <;> rfl
  · exact SameQueues.refl s

theorem State.reserve_sameQueues (s : State) (k : Nat) : SameQueues s (s.reserve k) :=
  (List.range 8).foldlRecOn _ (motive := SameQueues s) (.refl s) fun b hb _ _ => hb.trans (b.reserveOne_sameQueues k)

/-- A replay and the requests of a strand begin again when it takes a slot. -/
theorem Strand.afresh_eq (t : Strand) : ∃ p w, t.afresh = { t with phase := p, wait := w, regrow := none } := by
  unfold Strand.afresh
  split
  · exact ⟨_, _, rfl⟩
  · exact ⟨_, _, rfl⟩
  · exact ⟨t.phase, _, rfl⟩

theorem Strand.dropReg_eq (t : Strand) (r : Nat) : ∃ c, t.dropReg r = { t with ctl := c } := by
  unfold Strand.dropReg Strand.setRc
  dsimp only
  split
  · exact ⟨_, rfl⟩
  · exact ⟨t.ctl, rfl⟩

/-- Pressure on the image cache changes register states alone. -/
theorem State.storeImage_eq (s : State) (t : Strand) : ∃ c, s.storeImage t = { t with ctl := c } := by
  unfold State.storeImage Strand.dropAll
  split
  · exact (List.range 24).foldlRecOn _ (motive := fun v => ∃ c, v = ({ t with ctl := c } : Strand)) ⟨t.ctl, rfl⟩ (fun v hv r _ => by
      obtain ⟨c, rfl⟩ := hv
      obtain ⟨c', h⟩ := Strand.dropReg_eq { t with ctl := c } r
      exact ⟨c', h⟩)
  · exact ⟨t.ctl, rfl⟩

/-- An image written clears errors and makes none. -/
theorem State.writeImg_eq (s : State) (key img : Nat) : ∃ l, l ⊆ s.badLines ∧ s.writeImg key img = { s with badLines := l } := by
  unfold State.writeImg
  split
  · exact ⟨s.badLines, fun _ => id, rfl⟩
  · exact ⟨_, List.filter_sublist.subset, rfl⟩

/-- An image that met no error meets none where fewer lines have one. -/
theorem State.imageErr_none_of_subset {s u : State} {v : Strand} (hl : u.badLines ⊆ s.badLines) (h : s.imageErr v = none) :
    u.imageErr v = none := by
  unfold State.imageErr at h ⊢
  split at h
  · cases h
  next hb =>
    rw [if_neg hb]
    rw [State.badImage, Option.map_eq_none_iff, List.find?_eq_none] at h ⊢
    exact fun i hi hc => h i hi (List.contains_iff_mem.mpr (hl (List.contains_iff_mem.mp hc)))

/-- The strand granted a slot, its image in order. -/
def Strand.granted (v : Strand) (k slot : Nat) : Strand :=
  { v.afresh with status := .ready, pcause := 0, parkedFor := 0, loc := { v.loc with core := k % 768, slot := slot } }

/-- A grant of a slot with the image in order: the strand is written, and queues and lists stay. -/
theorem State.grant_spec {s : State} {v : Strand} {k slot : Nat} (h : s.imageErr v = none) :
    (s.grant v k slot).strands = (s.putStrand (v.granted k slot)).strands ∧
      (∀ j, ((s.grant v k slot).core j).arrival = (s.core j).arrival) ∧
      ∀ j, ((s.grant v k slot).col j).resume = (s.col j).resume := by
  unfold State.grant
  dsimp only
  rw [h]
  have hd : SameQueues s (if (s.core k).lastAsid == some v.asid then s else s.dropLines k) := by
    split
    · exact .refl s
    · exact s.putCore_sameQueues k rfl
  have hq := hd.trans (State.putCore_sameQueues _ k (c := { State.core (if (s.core k).lastAsid == some v.asid then s
    else s.dropLines k) k with lastAsid := some v.asid }) rfl)
  exact ⟨congrArg (FMap.set · _ _) hq.strands, hq.arrival, hq.resume⟩

/-- The one strand of an arrival queue is the next to be served. -/
theorem State.nextArrival_single {s : State} {k : Nat} {v : Strand} (ha : (s.core k).arrival = [v.handle])
    (hv : s.strand? v.handle = some v) : s.nextArrival k = some v := by
  simp only [State.nextArrival, ha, List.filterMap_cons, hv, List.filterMap_nil, List.foldl_cons, List.foldl_nil]

/-- The grant to the one strand of an arrival queue: it is in the slot, the queue is empty, and every resume list as it was. -/
theorem State.grantArrival_single {s : State} {k slot : Nat} {v : Strand} (ha : (s.core k).arrival = [v.handle])
    (hv : s.strand? v.handle = some v) (he : s.imageErr v = none) :
    (s.grantArrival k slot).strands = (s.putStrand (v.granted k slot)).strands ∧
      ((s.grantArrival k slot).core k).arrival = [] ∧ ∀ j, ((s.grantArrival k slot).col j).resume = (s.col j).resume := by
  have hg : s.grantArrival k slot =
      ((s.putCore k { s.core k with arrival := (s.core k).arrival.filter (· != v.handle) }).grant v k slot).reserve k := by
    simp only [State.grantArrival, State.nextArrival_single ha hv]
  obtain ⟨hs, hq, hr⟩ := State.grant_spec (k := k) (slot := slot)
    (s := s.putCore k { s.core k with arrival := (s.core k).arrival.filter (· != v.handle) }) he
  obtain ⟨ks, kq, kr⟩ := State.reserve_sameQueues
    ((s.putCore k { s.core k with arrival := (s.core k).arrival.filter (· != v.handle) }).grant v k slot) k
  rw [hg]
  refine ⟨ks.trans hs, ?_, fun j => (kr j).trans (hr j)⟩
  rw [kq, hq, State.core_putCore_self, ha]
  simp

/-- A strand whose image has gone to the context store. -/
def Strand.evicted (t : Strand) (c : Vector RegCtl 24) : Strand := { t with ctl := c, status := .evicted, regrow := none }

/-- An eviction writes the strand, and its image's place; no core and no column. -/
theorem State.evictStrand_spec (s : State) (t : Strand) : ∃ c : Vector RegCtl 24,
    (s.evictStrand t).strands = (s.putStrand (t.evicted c)).strands ∧ (s.evictStrand t).cores = s.cores ∧
      (s.evictStrand t).badLines ⊆ s.badLines := by
  obtain ⟨l, hl, hw⟩ := s.writeImg_eq t.colKey t.img
  obtain ⟨c, hc⟩ := s.storeImage_eq t
  refine ⟨c, ?_⟩
  rw [State.evictStrand, hw, hc]
  exact ⟨rfl, rfl, hl⟩

theorem Strand.granted_handle (v : Strand) (k slot : Nat) : (v.granted k slot).handle = v.handle := by
  obtain ⟨p, w, h⟩ := v.afresh_eq
  rw [Strand.granted, h]

theorem Strand.granted_pc (v : Strand) (k slot : Nat) : (v.granted k slot).pc = v.pc := by
  obtain ⟨p, w, h⟩ := v.afresh_eq
  rw [Strand.granted, h]

/-- What is on the resume list of a column after a strand is put there. -/
def State.listed (s : State) (t : Strand) : State :=
  s.putCol t.colKey { s.col t.colKey with resume := (s.col t.colKey).resume ++ [t.handle] }

theorem State.yieldSlot_eq {s : State} {t : Strand} (hslot : t.loc.slot < 15) (hh : (s.core t.coreKey).halted = false)
    (ha : (s.core t.coreKey).arrival ≠ []) (hf : s.freeSlots t.loc.tile t.loc.core = []) :
    s.yieldSlot t = ((s.evictStrand { t with cls := .resumed }).listed t).grantArrival t.coreKey t.loc.slot := by
  unfold State.yieldSlot State.listed
  simp [hslot, ha, hf, hh]

/-- A strand yields its slot to the one arrival of its core: it is on the resume list of its column, the arrival in its slot. -/
theorem State.yieldSlot_single {s : State} {t v : Strand} (hslot : t.loc.slot < 15) (hh : (s.core t.coreKey).halted = false)
    (ha : (s.core t.coreKey).arrival = [v.handle]) (hf : s.freeSlots t.loc.tile t.loc.core = [])
    (hv : s.strand? v.handle = some v) (hne : v.handle ≠ t.handle) (he : s.imageErr v = none) :
    ∃ c : Vector RegCtl 24, (s.yieldSlot t).strand? t.handle = some (Strand.evicted { t with cls := .resumed } c) ∧
      t.handle ∈ ((s.yieldSlot t).col t.colKey).resume ∧ (s.yieldSlot t).strand? v.handle = some (v.granted t.coreKey t.loc.slot) ∧
      ((s.yieldSlot t).core t.coreKey).arrival = [] := by
  obtain ⟨c, hs, hc, hl⟩ := s.evictStrand_spec { t with cls := .resumed }
  rw [State.yieldSlot_eq hslot hh (by rw [ha]; exact List.cons_ne_nil _ _) hf]
  generalize s.evictStrand { t with cls := .resumed } = e at hs hc hl ⊢
  have hv' : e.strand? v.handle = some v := by
    rw [State.strand?, hs]
    refine (State.strand?_putStrand_ne s _ ?_).trans hv
    exact hne
  have ht' : e.strand? t.handle = some (Strand.evicted { t with cls := .resumed } c) := by
    rw [State.strand?, hs]
    exact State.strand?_putStrand_of rfl
  have ha' : (e.core t.coreKey).arrival = [v.handle] := by
    rw [State.core, hc]
    exact ha
  obtain ⟨gs, gq, gr⟩ := State.grantArrival_single (k := t.coreKey) (slot := t.loc.slot) (s := e.listed t) ha' hv'
    (State.imageErr_none_of_subset hl he)
  refine ⟨c, ?_, ?_, ?_, gq⟩
  · rw [State.strand?, gs]
    exact (State.strand?_putStrand_ne _ _ (by rw [Strand.granted_handle]; exact hne.symm)).trans ht'
  · rw [gr, State.listed, State.col_putCol_self]
    simp
  · rw [State.strand?, gs]
    exact State.strand?_putStrand_of (Strand.granted_handle _ _ _)

/-- Settles O51: each instruction is its body, run on what the reads leave; a launch by the checks of its access, a yield by the grant of the
one arrival. -/
theorem jobInstructionsActAsStated : Obligations.JobInstructionsActAsStated := by
  unfold Obligations.JobInstructionsActAsStated
  refine ⟨fun s st d a b hi => ⟨exec_launch_parks hi, fun hw h hh => ?_⟩, fun s st hi p hp => ⟨fun j hj h0 => ?_, fun j tab h hj h0 hlt ht hh => ?_⟩,
    fun s st hi p hp => ⟨fun hn => ?_, fun hd hag => ?_⟩,
    fun s st hi p hp => ⟨fun hn => ?_, fun v hslot _ hst hhalt ha hv hne _ _ he hall _ _ _ _ _ => ?_⟩⟩
  · have hx := exec_launch_checks (d := d) hi hw hh
    refine ⟨fun ha => ?_, fun ha hr => ?_, fun ha hr hk => ?_, fun ha hr hk => ⟨fun hq => ?_, fun hq => ?_⟩⟩
    · rwa [checkAt_load_misaligned ha] at hx
    · rwa [checkAt_load_protected ha hr] at hx
    · rwa [checkAt_load_io ha hr hk] at hx
    · rw [checkAt_load_passes ha hr hk] at hx
      exact hx.trans (congrArg _ (if_pos hq))
    · rw [checkAt_load_passes ha hr hk] at hx
      exact hx.trans (congrArg _ (if_neg (Nat.not_le.mpr hq)))
  · exact (exec_nxtgo_form s hp).trans (State.nxtgoOp_no_word hi hj h0)
  · obtain ⟨hs, hm, hmsg, hitem⟩ := State.sendItem_spec (Said.after16 s st p.2) st .posted
      (s.targetBed h (tab.spills h.index) st.loc.tile (.ofNat 64 j.lrec.goaddr))
      (fun id => .posted .go (.ofNat 12 j.lrec.asid) (.ofNat 64 j.lrec.goaddr)
        (s.targetBed h (tab.spills h.index) st.loc.tile (.ofNat 64 j.lrec.goaddr)) id)
    refine ⟨_, _, (exec_nxtgo_form s hp).trans (State.nxtgoOp_posts hi hj h0 hlt ht hh), ?_, hm, hmsg, hitem⟩
    rw [State.strand?, hs]
    exact State.strand?_putStrand_of (st.completed_handle _)
  · exact (exec_predwait_form s hp).trans (State.predwaitOp_parks hi hn)
  · obtain ⟨hag', hlb, hib, hrb, hm⟩ := State.acquire_panel_spec hag
    have ht : (s.acquire st 7).2 = st.setSg ((s.tile st.loc.tile).ag + 1) := by rw [State.acquire_panel hag]
    refine ⟨_, _, (exec_predwait_form s hp).trans (State.predwaitOp_acquires hi hd),
      State.strand?_putStrand_of ((Strand.completed_handle _ _).trans (s.acquire_handle st 7)), ?_, ?_, ?_, hag', hlb, hib, hrb, hm⟩
    · rw [Strand.completed_pc, s.acquire_pc]
    · rw [Strand.completed_g, s.acquire_g]
    · rw [Strand.completed_sg, ht, Strand.setSg_sg hag]
  · refine (exec_yield_form s hp).trans ((State.yieldOp_eq hi).trans (congrArg _ (State.yieldSlot_none ?_)))
    rwa [Strand.coreKey, Strand.completed_loc]
  · have hh := st.completed_handle (st.pc + .ofNat 56 p.2)
    have hl := st.completed_loc (st.pc + .ofNat 56 p.2)
    have hk : (st.completed (st.pc + .ofNat 56 p.2)).coreKey = st.coreKey := by rw [Strand.coreKey, hl]; rfl
    have hck : (st.completed (st.pc + .ofNat 56 p.2)).colKey = st.colKey := by rw [Strand.colKey, hl]; rfl
    have hf : (Said.after16 s st p.2).freeSlots st.loc.tile st.loc.core = [] := State.freeSlots_empty fun n hn => by
      obtain ⟨x, hx, -⟩ := hall n hn
      exact State.slotStrand_putStrand hi.2.1 hh hl rfl (by rw [hx]; rfl)
    obtain ⟨c, hw, hr, hx, hq⟩ := State.yieldSlot_single (s := Said.after16 s st p.2) (v := v)
      (t := st.completed (st.pc + .ofNat 56 p.2)) (by rw [hl]; exact hslot) (by rw [hk]; exact hhalt) (by rw [hk]; exact ha)
      (by rw [hl]; exact hf) ((State.strand?_putStrand_ne _ _ (by rw [hh]; exact hne)).trans hv) (by rw [hh]; exact hne) he
    rw [hh] at hw hr
    rw [hck] at hr
    rw [hk] at hq
    refine ⟨_, _, _, (exec_yield_form s hp).trans (State.yieldOp_eq hi), hw, rfl, rfl, st.completed_g (st.pc + .ofNat 56 p.2), rfl, hr, hx, rfl, ?_, ?_, ?_⟩
    · rw [← hl]; rfl
    · exact Strand.granted_pc _ _ _
    · rw [hq]
      exact List.not_mem_nil

end Sys2Proof.Machine
end

section
/-! SUPPORT. O43: what a home answers with, the counts of join words and their waiters, the decode table by its pieces, and the range registers
(spec/16 R320, R324, R340 to R343, spec/06 R111 to R113, spec/17 R360). -/

namespace Sys2Proof.Machine

/-! ### What a home answers with -/

/-- A home whose tile serves nothing makes no access wait. -/
theorem State.waitsFor_down {s : State} {key : Nat} (h : s.tileUp (key / 16) = false) (bed hoff len acc : Nat) (kind : BedKind)
    (spill : Bool) (asid : BitVec 12) : s.waitsFor (.column key bed hoff kind spill) asid len acc = false := by
  rw [State.waitsFor, State.waitsHome, h, Bool.false_and]

/-- An answer from a column: by its tile while that serves, else by the router. -/
theorem State.sendBack_column (s : State) (key bed hoff : Nat) (kind : BedKind) (spill : Bool) (m : Msg) :
    s.sendBack (.column key bed hoff kind spill) m = Said.homeSends s key m := rfl

theorem Said.homeSends_down {s : State} {key : Nat} (h : s.tileUp (key / 16) = false) (m : Msg) : Said.homeSends s key m = s.send m := by
  rw [Said.homeSends, h]
  rfl

theorem State.sendBack_msgs (s : State) (g : Target) (m : Msg) : (s.sendBack g m).msgs = FMap.set s.msgs s.fresh m := by
  unfold State.sendBack
  split
  · exact s.sendFrom_msgs _ _
  · rfl

theorem State.sendBack_sameUnits (s : State) (g : Target) (m : Msg) : s.SameUnits (s.sendBack g m) := by
  unfold State.sendBack
  split
  · exact s.sendFrom_sameUnits _ _
  · exact s.send_sameUnits m

/-- An answer is on its way. -/
theorem State.sendBack_sent (s : State) (g : Target) (m : Msg) : FMap.get? (s.sendBack g m).msgs s.fresh = some m := by
  rw [State.sendBack_msgs, FMap.get?_set_self]

/-! ### Remote reads (spec/16 R320) -/

section
variable {s : State} {n reg tag size len item key bed hoff : Nat} {h : BitVec 64} {sg spill : Bool} {acq : Option (BitVec 4)}
  {asid : BitVec 12} {va : Word} {kind : BedKind}

theorem exec_remoteReadServe_column
    (hm : s.msg? n = some (.read (.reg h reg tag size sg acq) asid va len (.column key bed hoff kind spill) item)) :
    exec (.remoteReadServe n) s = .next (if s.waitsFor (.column key bed hoff kind spill) asid len 0 then s
      else (s.serveRead (.column key bed hoff kind spill) asid len 0 (busParty h)).1.answerRead n (.reg h reg tag size sg acq) va
        (.column key bed hoff kind spill) item (s.serveRead (.column key bed hoff kind spill) asid len 0 (busParty h)).2) := by
  show execRemoteReadServe n s = _
  rw [execRemoteReadServe, hm]
  rfl

theorem State.serveRead_up (hu : s.tileUp (key / 16) = true) (acc : Nat) (w : Party) :
    s.serveRead (.column key bed hoff kind spill) asid len acc w = s.homeRead key bed hoff kind spill asid len acc w := if_pos hu
theorem State.serveRead_down (hu : s.tileUp (key / 16) = false) (acc : Nat) (w : Party) :
    s.serveRead (.column key bed hoff kind spill) asid len acc w = (s, .trip 9 13) := if_neg (by rw [hu]; decide)

end

/-- The clause on REMOTE_READ_SERVE. -/
theorem remoteReadServe_acts (s : State) (n reg tag size len item key bed hoff : Nat) (h : BitVec 64) (sg spill : Bool)
    (acq : Option (BitVec 4)) (asid : BitVec 12) (va : Word) (kind : BedKind) :
    let d := ReadFor.reg h reg tag size sg acq
    s.msg? n = some (.read d asid va len (.column key bed hoff kind spill) item) →
    let g := Target.column key bed hoff kind spill
    (s.waitsFor g asid len 0 = true → Said.Runs (.remoteReadServe n) s s) ∧
    (s.tileUp (key / 16) = false → Said.Runs (.remoteReadServe n) s ((s.unsend n).send (.readDone d va 0 (some (9, 13)) item))) ∧
    (s.tileUp (key / 16) = true → s.waitsFor g asid len 0 = false → let r := s.homeRead key bed hoff kind spill asid len 0 (busParty h)
      (∀ v off, r.2 = .ok v off → Said.Runs (.remoteReadServe n) s (Said.homeSends (r.1.unsend n) key (.readDone d va v none item))) ∧
      (∀ c g4, r.2 = .trip c g4 → Said.Runs (.remoteReadServe n) s
        (Said.homeSends (r.1.unsend n) key (.readDone d va 0 (some (c, .ofNat 64 g4)) item)))) := by
  intro d hm g
  have hx := exec_remoteReadServe_column hm
  refine ⟨fun hw => ?_, fun hu => ?_, fun hu hw => ⟨fun v off hr => ?_, fun c g4 hr => ?_⟩⟩
  · exact hx.trans (congrArg _ (if_pos hw))
  · rw [if_neg (by rw [State.waitsFor_down hu]; decide), State.serveRead_down hu] at hx
    exact hx.trans (congrArg _ (Said.homeSends_down (s := s.unsend n) hu _))
  · rw [if_neg (by rw [hw]; decide), State.serveRead_up hu, hr] at hx
    exact hx
  · rw [if_neg (by rw [hw]; decide), State.serveRead_up hu, hr] at hx
    exact hx

/-! ### Posted stores (spec/16 R324, spec/05 R76) -/

/-- A go word counts as a join word does. -/
theorem goNext_eq_countUp : goNext = Said.countUp := rfl
theorem joinUp_eq_countUp : joinUp = Said.countUp := rfl
theorem joinDown_eq_countDown : joinDown = Said.countDown := rfl

theorem exec_postedStorePerform_column {s : State} {n item key bed hoff : Nat} {spill : Bool} {op : PostedOp} {asid : BitVec 12}
    {va : Word} {kind : BedKind} {it : Item} (hm : s.msg? n = some (.posted op asid va (.column key bed hoff kind spill) item))
    (hi : FMap.get? s.items item = some it) :
    exec (.postedStorePerform n) s = .next (if s.waitsFor (.column key bed hoff kind spill) asid 8 1 then s
      else
        let r := (s.unsend n).performPosted op asid (.column key bed hoff kind spill) it.handle it.job
        Said.homeSends r.1 key (.postedAck item r.2)) := by
  show execPostedStorePerform n s = _
  rw [execPostedStorePerform, hm]
  simp only [hi]
  rfl

/-- A posted store at a home that serves. -/
theorem State.performPosted_up {s : State} {key : Nat} (hu : s.tileUp (key / 16) = true) (op : PostedOp) (asid : BitVec 12)
    (bed hoff : Nat) (kind : BedKind) (spill : Bool) (h : BitVec 64) (job : Nat) :
    let r := match op with
      | .bytes data => s.homeWrite key bed hoff kind spill asid data (busParty h)
      | .go => s.homeRmw key bed hoff kind spill asid (fun v => some (Said.countUp v)) (busParty h)
    s.performPosted op asid (.column key bed hoff kind spill) h job =
      (r.1, match r.2 with | .ok _ _ => true | .trip _ _ => false) := by
  unfold State.performPosted
  exact if_neg (by rw [hu]; decide)

theorem State.performPosted_down {s : State} {key : Nat} (hu : s.tileUp (key / 16) = false) (op : PostedOp) (asid : BitVec 12)
    (bed hoff : Nat) (kind : BedKind) (spill : Bool) (h : BitVec 64) (job : Nat) :
    s.performPosted op asid (.column key bed hoff kind spill) h job = (s, false) := by
  unfold State.performPosted
  exact if_pos (by rw [hu]; decide)

/-- The clause on POSTED_STORE_PERFORM at a column. -/
theorem postedStorePerform_acts (s : State) (n item key bed hoff : Nat) (spill : Bool) (op : PostedOp) (asid : BitVec 12) (va : Word)
    (kind : BedKind) (it : Item) (hm : s.msg? n = some (.posted op asid va (.column key bed hoff kind spill) item))
    (hi : FMap.get? s.items item = some it) :
    (s.waitsFor (.column key bed hoff kind spill) asid 8 1 = true → Said.Runs (.postedStorePerform n) s s) ∧
    (s.tileUp (key / 16) = false → Said.Runs (.postedStorePerform n) s ((s.unsend n).send (.postedAck item false))) ∧
    (s.tileUp (key / 16) = true → s.waitsFor (.column key bed hoff kind spill) asid 8 1 = false →
      let r := match op with
        | .bytes data => (s.unsend n).homeWrite key bed hoff kind spill asid data (busParty it.handle)
        | .go => (s.unsend n).homeRmw key bed hoff kind spill asid (fun v => some (Said.countUp v)) (busParty it.handle)
      (∀ v off, r.2 = .ok v off → Said.Runs (.postedStorePerform n) s (Said.homeSends r.1 key (.postedAck item true))) ∧
      (∀ c g4, r.2 = .trip c g4 → Said.Runs (.postedStorePerform n) s (Said.homeSends r.1 key (.postedAck item false)))) := by
  have hx := exec_postedStorePerform_column hm hi
  refine ⟨fun hw => ?_, fun hu => ?_, fun hu hw => ⟨fun v off hr => ?_, fun c g4 hr => ?_⟩⟩
  · exact hx.trans (congrArg _ (if_pos hw))
  · rw [if_neg (by rw [State.waitsFor_down hu]; decide), State.performPosted_down (s := s.unsend n) hu] at hx
    exact hx.trans (congrArg _ (Said.homeSends_down (s := s.unsend n) hu _))
  · rw [if_neg (by rw [hw]; decide), State.performPosted_up (s := s.unsend n) hu] at hx
    cases op <;> (simp only at hr hx; rw [hr] at hx; exact hx)
  · rw [if_neg (by rw [hw]; decide), State.performPosted_up (s := s.unsend n) hu] at hx
    cases op <;> (simp only at hr hx; rw [hr] at hx; exact hx)

theorem exec_postedStorePerform_host {s : State} {n item die ap bus : Nat} {data : List Byte} {asid : BitVec 12} {va : Word} {it : Item}
    (hm : s.msg? n = some (.posted (.bytes data) asid va (.host die ap bus) item)) (hi : FMap.get? s.items item = some it) :
    exec (.postedStorePerform n) s = .next (
      let r := (s.unsend n).performPosted (.bytes data) asid (.host die ap bus) it.handle it.job
      r.1.ackPosted (.host die ap bus) item r.2) := by
  show execPostedStorePerform n s = _
  rw [execPostedStorePerform, hm]
  simp only [hi]
  rfl

/-- A posted store to an aperture that serves it, and to one that does not. -/
theorem State.performPosted_host {s : State} {die ap bus : Nat} {data : List Byte} (asid : BitVec 12) (h : BitVec 64) (job : Nat) :
    s.performPosted (.bytes data) asid (.host die ap bus) h job =
      if s.aperServes die ap bus data.length true then
        ({ s with hostMem := s.hostMem.putBytes bus data }.notePort job (s.aperHostPort die ap), true)
      else (s.raiseFrom die 0x30 0 bus, false) := by
  unfold State.performPosted
  rfl

theorem State.aperServes_unsend (s : State) (n die ap bus len : Nat) (w : Bool) :
    (s.unsend n).aperServes die ap bus len w = s.aperServes die ap bus len w := rfl

/-- A job's note of a port changes no more than the job. -/
theorem State.notePort_eq (s : State) (job p : Nat) : ∃ js, s.notePort job p = { s with jobs := js } := by
  unfold State.notePort
  split
  · split <;> exact ⟨_, rfl⟩
  · exact ⟨_, rfl⟩

theorem State.job?_putJob_of {s : State} {j : Job} {h : Nat} (hh : j.handle = h) : (s.putJob j).job? h = some j := by
  subst hh
  exact FMap.get?_set_self _ _ _

theorem State.job?_notePort {s : State} {job p : Nat} {j : Job} (hj : s.job? job = some j) (hh : j.handle = job) :
    ∃ k, (s.notePort job p).job? job = some k ∧ p ∈ k.hostPorts := by
  unfold State.notePort
  rw [hj]
  dsimp only
  split
  next hc => exact ⟨j, hj, List.contains_iff_mem.mp hc⟩
  · exact ⟨_, State.job?_putJob_of hh, List.mem_append_right _ (List.mem_singleton_self p)⟩

theorem State.raiseFrom_sameUnits (s : State) (d c t x : Nat) : s.SameUnits (s.raiseFrom d c t x) := s.raise_sameUnits _

/-- The clause on POSTED_STORE_PERFORM at an I/O die. -/
theorem postedStorePerform_host_acts (s : State) (n item die ap bus : Nat) (data : List Byte) (asid : BitVec 12) (va : Word) (it : Item)
    (hm : s.msg? n = some (.posted (.bytes data) asid va (.host die ap bus) item)) (hi : FMap.get? s.items item = some it) :
    let p := 2 * die + aperPort (FMap.getD (s.die die).apers ap 0)
    (s.aperServes die ap bus data.length true = true → ∃ u m, Said.Runs (.postedStorePerform n) s u ∧
      u.hostMem = s.hostMem.putBytes bus data ∧ FMap.get? u.msgs m = some (.storeFlush p item) ∧
      ∀ j, s.job? it.job = some j → j.handle = it.job → ∃ k, u.job? it.job = some k ∧ p ∈ k.hostPorts) ∧
    (s.aperServes die ap bus data.length true = false → ∃ u m, Said.Runs (.postedStorePerform n) s u ∧ u.mem = s.mem ∧
      FMap.get? u.msgs m = some (.postedAck item false)) := by
  intro p
  have hx := exec_postedStorePerform_host hm hi
  refine ⟨fun ha => ?_, fun ha => ?_⟩
  · rw [State.performPosted_host, State.aperServes_unsend, if_pos ha] at hx
    obtain ⟨js, hjs⟩ := State.notePort_eq { s.unsend n with hostMem := s.hostMem.putBytes bus data } it.job p
    have hjob := fun j hj hh => State.job?_notePort (p := p) (s := { s.unsend n with hostMem := s.hostMem.putBytes bus data })
      (job := it.job) (j := j) hj hh
    change exec _ s = .next (State.ackPosted (State.notePort { s.unsend n with hostMem := s.hostMem.putBytes bus data } it.job p) _ _ true) at hx
    generalize State.notePort { s.unsend n with hostMem := s.hostMem.putBytes bus data } it.job p = w at hjs hjob hx
    have hp : w.aperHostPort die ap = p := by rw [hjs]; rfl
    change exec _ s = .next (w.send (.storeFlush (w.aperHostPort die ap) item)) at hx
    rw [hp] at hx
    exact ⟨_, w.fresh, hx, by rw [hjs]; rfl, FMap.get?_set_self _ _ _, hjob⟩
  · rw [State.performPosted_host, State.aperServes_unsend, if_neg (by rw [ha]; decide)] at hx
    exact ⟨_, _, hx, ((State.raiseFrom_sameUnits _ _ _ _ _).trans (State.sendBack_sameUnits _ _ _)).mem, State.sendBack_sent _ _ _⟩

/-- The clause on a zero-length read's completion. -/
theorem storeFlush_acts {s : State} {n p item : Nat} (ok : Bool) (hm : s.msg? n = some (.storeFlush p item)) :
    Said.Runs (.hostReadCompletion n ok) s ((s.unsend n).sendFrom (64 + p / 2) (.postedAck item true)) := by
  show execHostReadCompletion n ok s = _
  rw [execHostReadCompletion, hm]

/-- A job with no status takes the first that is recorded. -/
theorem State.job?_recordStatus {s : State} {job code : Nat} {j : Job} (hj : s.job? job = some j) (hh : j.handle = job) (h0 : j.status = 0) :
    (s.recordStatus job code).job? job = some { j with status := code } := by
  unfold State.recordStatus
  rw [hj]
  dsimp only
  rw [if_pos h0]
  exact State.job?_putJob_of hh

/-- The clause on POSTED_STORE_ACK. -/
theorem postedStoreAck_acts (s : State) (n item : Nat) (it : Item) (hi : FMap.get? s.items item = some it) :
    (s.msg? n = some (.postedAck item true) →
      Said.Runs (.postedStoreAck n) s ({ s.unsend n with items := FMap.erase s.items item }.rejoin it.handle)) ∧
    (s.msg? n = some (.postedAck item false) → ∃ u, Said.Runs (.postedStoreAck n) s u ∧
      FMap.get? u.items item = some { it with failed := true } ∧
      ∀ j, s.job? it.job = some j → j.handle = it.job → j.status = 0 → u.job? it.job = some { j with status := 5 }) := by
  have hi' : FMap.get? (s.unsend n).items item = some it := hi
  refine ⟨fun hm => ?_, fun hm => ⟨(s.unsend n).settle item false, ?_, (State.settle_failed hi').1, fun j hj hh h0 => ?_⟩⟩
  · show execPostedStoreAck n s = _
    rw [execPostedStoreAck, hm]
    simp only [State.settle, hi']
    rfl
  · show execPostedStoreAck n s = _
    rw [execPostedStoreAck, hm]
  · simp only [State.settle, hi']
    obtain ⟨ss, cs, h⟩ := State.rejoin_eq ((s.unsend n).itemFailed item true) it.handle
    rw [if_neg (by decide), h]
    simp only [State.itemFailed, hi']
    exact State.job?_recordStatus (s := { s.unsend n with items := _ }) hj hh h0

/-! ### Join words (spec/06 R111 to R113) -/

/-- A join word changed at a home that serves: its old value and name, or what the home's access met. -/
theorem State.joinChange_up {s : State} {key : Nat} (hu : s.tileUp (key / 16) = true) (asid : BitVec 12) (bed hoff : Nat)
    (kind : BedKind) (spill : Bool) (f : Nat → Nat) :
    s.joinChange asid (.column key bed hoff kind spill) f =
      match s.homeRmw key bed hoff kind spill asid (fun v => some (f v)) (busParty 0) with
      | (s1, .ok v off) => (s1, .inl (v, key, joinKey key hoff off))
      | (s1, .trip c g4) => (s1, .inr (c, g4)) := by
  unfold State.joinChange
  exact if_neg (by rw [hu]; decide)

section
variable {s : State} {n key bed hoff : Nat} {spill : Bool} {asid : BitVec 12} {va : Word} {kind : BedKind}

theorem exec_joinIncr {h : BitVec 64} (hu : s.tileUp (key / 16) = true)
    (hw : s.waitsFor (.column key bed hoff kind spill) asid 8 1 = false)
    (hm : s.msg? n = some (.joinIncr h asid va (.column key bed hoff kind spill))) :
    exec (.joinWordChange n) s = .next (
      match (s.unsend n).homeRmw key bed hoff kind spill asid (fun v => some (Said.countUp v)) (busParty 0) with
      | (s1, .ok _ _) => Said.homeSends s1 key (.joinAck h 0 0)
      | (s1, .trip c g4) => Said.homeSends s1 key (.joinAck h c g4)) := by
  show execJoinWordChange n s = _
  rw [execJoinWordChange, hm]
  simp only [hw, Bool.false_eq_true, ↓reduceIte]
  rw [State.joinChange_up (s := s.unsend n) hu, joinUp_eq_countUp]
  rcases (s.unsend n).homeRmw key bed hoff kind spill asid (fun v => some (Said.countUp v)) (busParty 0) with ⟨s1, ⟨v, off⟩ | ⟨c, g4⟩⟩ <;> rfl

theorem exec_joinDecr {job item : Nat} (hu : s.tileUp (key / 16) = true)
    (hw : s.waitsFor (.column key bed hoff kind spill) asid 8 1 = false)
    (hm : s.msg? n = some (.joinDecr job asid va (.column key bed hoff kind spill) item)) :
    exec (.joinWordChange n) s = .next (
      match (s.unsend n).homeRmw key bed hoff kind spill asid (fun v => some (Said.countDown v)) (busParty 0) with
      | (s1, .ok v off) => if v % 2 ^ 32 = 1 then (s1.itemDone item).fillJoins key (joinKey key hoff off) (Said.countDown v)
          else s1.itemDone item
      | (_, .trip _ _) => ((s.unsend n).itemDone item).recordStatus job 5) := by
  show execJoinWordChange n s = _
  rw [execJoinWordChange, hm]
  simp only [hw, Bool.false_eq_true, ↓reduceIte]
  rw [State.joinChange_up (s := s.unsend n) hu, joinDown_eq_countDown]
  rcases (s.unsend n).homeRmw key bed hoff kind spill asid (fun v => some (Said.countDown v)) (busParty 0) with ⟨s1, ⟨v, off⟩ | ⟨c, g4⟩⟩ <;> rfl

end

/-- Messages sent one after another touch no column. -/
theorem State.sendAll_col {α : Type} (src : Nat) (m : α → Msg) (l : List α) (s : State) (k : Nat) :
    (l.foldl (fun s a => s.sendFrom src (m a)) s).col k = s.col k :=
  l.foldlRecOn _ (motive := fun u => State.col u k = s.col k) rfl fun u hu a _ => by
    rw [State.col, (State.sendFrom_sameUnits u src (m a)).cols]
    exact hu

/-- The waiters of a word that comes to zero leave its table, and each is sent its value. -/
theorem State.fillJoins_spec (s : State) (key addr v : Nat) :
    ((s.fillJoins key addr v).col key).joins = (s.col key).joins.filter (fun w => w.addr != addr) ∧
      ∀ w ∈ (s.col key).joins, w.addr = addr →
        ∃ m, FMap.get? (s.fillJoins key addr v).msgs m = some (.fill w.handle w.reg w.tag v (some 7) none) := by
  refine ⟨?_, fun w hw ha => ?_⟩
  · rw [State.fillJoins, State.sendAll_col, State.col_putCol_self]
  · have hin : w ∈ (s.col key).joins.filter (fun w => w.addr == addr) := List.mem_filter.mpr ⟨hw, beq_iff_eq.mpr ha⟩
    exact State.sendAll_sent (key / 16) (fun w => Msg.fill w.handle w.reg w.tag v (some 7) none) hin _

/-- The clause on JOIN_WORD_CHANGE. -/
theorem joinWordChange_acts (s : State) (n key bed hoff : Nat) (h : BitVec 64) (spill : Bool) (asid : BitVec 12) (va : Word)
    (kind : BedKind) (hu : s.tileUp (key / 16) = true) (hw : s.waitsFor (.column key bed hoff kind spill) asid 8 1 = false) :
    (s.msg? n = some (.joinIncr h asid va (.column key bed hoff kind spill)) →
      let r := (s.unsend n).homeRmw key bed hoff kind spill asid (fun v => some (Said.countUp v)) (busParty 0)
      (∀ v off, r.2 = .ok v off → Said.Runs (.joinWordChange n) s (Said.homeSends r.1 key (.joinAck h 0 0))) ∧
      (∀ c g4, r.2 = .trip c g4 → Said.Runs (.joinWordChange n) s (Said.homeSends r.1 key (.joinAck h c g4)))) ∧
    (∀ job item, s.msg? n = some (.joinDecr job asid va (.column key bed hoff kind spill) item) →
      let r := (s.unsend n).homeRmw key bed hoff kind spill asid (fun v => some (Said.countDown v)) (busParty 0)
      (∀ v off, r.2 = .ok v off →
        (v % 2 ^ 32 ≠ 1 → Said.Runs (.joinWordChange n) s { r.1 with items := FMap.erase r.1.items item }) ∧
        (v % 2 ^ 32 = 1 → ∀ o, off = some o → ∃ u, Said.Runs (.joinWordChange n) s u ∧
          (u.col key).joins = (r.1.col key).joins.filter (fun w => w.addr != key * 2 ^ 32 + o) ∧
          ∀ w ∈ (r.1.col key).joins, w.addr = key * 2 ^ 32 + o →
            ∃ m, FMap.get? u.msgs m = some (.fill w.handle w.reg w.tag (v - 1) (some 7) none))) ∧
      (∀ c g4, r.2 = .trip c g4 → Said.Runs (.joinWordChange n) s ({ s.unsend n with items := FMap.erase s.items item }.recordStatus job 5))) := by
  refine ⟨fun hm => ?_, fun job item hm => ?_⟩
  · have hx := exec_joinIncr hu hw hm
    generalize (s.unsend n).homeRmw key bed hoff kind spill asid (fun v => some (Said.countUp v)) (busParty 0) = r at hx
    obtain ⟨s1, res⟩ := r
    refine ⟨fun v off hr => ?_, fun c g4 hr => ?_⟩ <;> (obtain rfl : res = _ := hr; exact hx)
  · have hx := exec_joinDecr hu hw hm
    generalize (s.unsend n).homeRmw key bed hoff kind spill asid (fun v => some (Said.countDown v)) (busParty 0) = r at hx
    obtain ⟨s1, res⟩ := r
    refine ⟨fun v off hr => ⟨fun hv => ?_, fun hv o ho => ?_⟩, fun c g4 hr => ?_⟩
    · obtain rfl : res = _ := hr
      exact hx.trans (congrArg _ (if_neg hv))
    · obtain rfl : res = _ := hr
      subst ho
      have hd : Said.countDown v = v - 1 := if_neg (by omega)
      obtain ⟨hj, hf⟩ := State.fillJoins_spec (s1.itemDone item) key (key * 2 ^ 32 + o) (v - 1)
      refine ⟨_, hx.trans (congrArg _ (if_pos hv)), ?_, ?_⟩
      · rw [hd]
        exact hj
      · rw [hd]
        exact hf
    · obtain rfl : res = _ := hr
      exact hx

/-- The clause on JOIN_INCREMENT_ACK. -/
theorem joinIncrementAck_acts {s : State} {n c g4 sid : Nat} {h target joinw : BitVec 64} {home : Option (Nat × Option Nat × BitVec 64)}
    {st : Strand} (hm : s.msg? n = some (.joinAck h c g4)) (hs : s.strand? h = some st)
    (hp : st.phase = .spawn sid target home joinw .sent) :
    Said.Runs (.joinIncrementAck n) s (((s.unsend n).putStrand { st with
      phase := .spawn sid target home joinw (if c = 0 then .acked else .failed c g4) }).rejoin h) := by
  have hs' : (s.unsend n).strand? h = some st := hs
  show execJoinIncrementAck n s = _
  rw [execJoinIncrementAck, hm]
  simp only [hs', hp]

/-- A strand that can go on changes no join table. -/
theorem State.rejoin_joins (s : State) (h : BitVec 64) (k : Nat) : ((s.rejoin h).col k).joins = (s.col k).joins := by
  unfold State.rejoin
  split
  · rfl
  next st _ =>
    dsimp only
    split
    · by_cases e : k = st.colKey
      · rw [e, State.col_putCol_self]
      · rw [State.col_putCol_ne _ _ e]; rfl
    · rfl

theorem State.rejoin_msgs (s : State) (h : BitVec 64) : (s.rejoin h).msgs = s.msgs := by
  obtain ⟨ss, cs, hr⟩ := s.rejoin_eq h
  rw [hr]

/-- A registration accepted at its strand sends nothing and changes no join table. -/
theorem State.joinAccepted_keeps (s : State) (h : BitVec 64) (tag : Nat) :
    (s.joinAccepted h tag).msgs = s.msgs ∧ ∀ k, ((s.joinAccepted h tag).col k).joins = (s.col k).joins := by
  unfold State.joinAccepted
  split
  · exact ⟨rfl, fun _ => rfl⟩
  · split
    · split
      · exact ⟨State.rejoin_msgs _ _, State.rejoin_joins _ _⟩
      · exact ⟨rfl, fun _ => rfl⟩
    · exact ⟨rfl, fun _ => rfl⟩

theorem State.joinRefused_eq (s : State) (h : BitVec 64) (tag : Nat) : ∃ ss, s.joinRefused h tag = { s with strands := ss } := by
  unfold State.joinRefused
  split
  · exact ⟨_, rfl⟩
  · split
    · split <;> exact ⟨_, rfl⟩
    · exact ⟨_, rfl⟩

theorem exec_joinRegistration {s : State} {n reg tag key bed hoff : Nat} {h : BitVec 64} {spill : Bool} {asid : BitVec 12} {va : Word}
    {kind : BedKind} (hu : s.tileUp (key / 16) = true) (hw : s.waitsFor (.column key bed hoff kind spill) asid 8 0 = false)
    (hm : s.msg? n = some (.joinReg h reg tag asid va (.column key bed hoff kind spill) false)) :
    exec (.joinRegistration n) s = .next (
      match s.homeRead key bed hoff kind spill asid 8 0 (busParty h) with
      | (s1, .ok v off) =>
        if v % 2 ^ 32 = 0 then
          ((s1.unsend n).sendBack (.column key bed hoff kind spill) (.fill h reg tag v (some 7) none)).joinAccepted h tag
        else if (s1.col key).joins.length < 256 then
          ((s1.unsend n).putCol key
            { s1.col key with joins := (s1.col key).joins ++ [⟨joinKey key hoff off, h, reg, tag⟩] }).joinAccepted h tag
        else { s1 with msgs := FMap.set s1.msgs n (.joinReg h reg tag asid va (.column key bed hoff kind spill) true) }.joinRefused h tag
      | (s1, .trip c g4) => ((s1.unsend n).sendBack (.column key bed hoff kind spill)
          (.fill h reg tag 0 (some 7) (some (lossOf va (c, .ofNat 64 g4))))).joinAccepted h tag) := by
  show execJoinRegistration n s = _
  rw [execJoinRegistration, hm]
  simp only [hw, Bool.false_eq_true, ↓reduceIte]
  rw [State.serveRead_up hu]
  rcases s.homeRead key bed hoff kind spill asid 8 0 (busParty h) with ⟨s1, ⟨v, off⟩ | ⟨c, g4⟩⟩ <;> rfl

/-- The clause on a registration refused before. -/
theorem joinRegistrationRetry_acts (s : State) (n reg tag : Nat) (h : BitVec 64) (asid : BitVec 12) (va : Word) (g : Target)
    (hm : s.msg? n = some (.joinReg h reg tag asid va g true)) :
    ∃ u, Said.Runs (.joinRegistrationRetry n) s u ∧ u.msgs = FMap.set s.msgs n (.joinReg h reg tag asid va g false) ∧
      u.strands = s.strands ∧ (FMap.get? s.transit n = none → u.transit = s.transit) ∧
      ∀ x, FMap.get? s.transit n = some x → FMap.get? u.transit n = some { x with sent := 0, got := 0 } := by
  refine ⟨s.recross n (.joinReg h reg tag asid va g false), ?_, rfl, rfl, fun ht => ?_, fun x ht => ?_⟩
  · show execJoinRegistrationRetry n s = _
    rw [execJoinRegistrationRetry, hm]
  · simp only [State.recross, ht]
  · simp only [State.recross, ht]
    exact FMap.get?_set_self _ _ _

/-- The clause on JOIN_REGISTRATION. -/
theorem joinRegistration_acts (s : State) (n reg tag key bed hoff : Nat) (h : BitVec 64) (spill : Bool) (asid : BitVec 12) (va : Word)
    (kind : BedKind) (hm : s.msg? n = some (.joinReg h reg tag asid va (.column key bed hoff kind spill) false))
    (hu : s.tileUp (key / 16) = true) (hw : s.waitsFor (.column key bed hoff kind spill) asid 8 0 = false) :
    let r := s.homeRead key bed hoff kind spill asid 8 0 (busParty h)
    (∀ v o, r.2 = .ok v (some o) →
      (v % 2 ^ 32 = 0 → ∃ u m, Said.Runs (.joinRegistration n) s u ∧ FMap.get? u.msgs m = some (.fill h reg tag v (some 7) none)) ∧
      (v % 2 ^ 32 ≠ 0 → (r.1.col key).joins.length < 256 → ∃ u, Said.Runs (.joinRegistration n) s u ∧
        (u.col key).joins = (r.1.col key).joins ++ [⟨key * 2 ^ 32 + o, h, reg, tag⟩]) ∧
      (v % 2 ^ 32 ≠ 0 → 256 ≤ (r.1.col key).joins.length → ∃ u, Said.Runs (.joinRegistration n) s u ∧
        FMap.get? u.msgs n = some (.joinReg h reg tag asid va (.column key bed hoff kind spill) true) ∧
        (u.col key).joins = (r.1.col key).joins)) ∧
    (∀ c g4, r.2 = .trip c g4 → ∃ u m, Said.Runs (.joinRegistration n) s u ∧
      FMap.get? u.msgs m = some (.fill h reg tag 0 (some 7) (some ⟨va, if c = 9 then .ofNat 64 g4 else .ofNat 64 (c * 256 + 12)⟩))) := by
  have hx := exec_joinRegistration hu hw hm
  generalize s.homeRead key bed hoff kind spill asid 8 0 (busParty h) = r at hx
  obtain ⟨s1, res⟩ := r
  refine ⟨fun v o hr => ⟨fun hv => ?_, fun hv hl => ?_, fun hv hl => ?_⟩, fun c g4 hr => ?_⟩ <;> obtain rfl : res = _ := hr
  · refine ⟨_, s1.fresh, hx.trans (congrArg _ (if_pos hv)), ?_⟩
    rw [(State.joinAccepted_keeps _ _ _).1]
    exact State.sendBack_sent _ _ _
  · refine ⟨_, hx.trans (congrArg _ ((if_neg hv).trans (if_pos hl))), ?_⟩
    rw [(State.joinAccepted_keeps _ _ _).2, State.col_putCol_self]
    rfl
  · refine ⟨_, hx.trans (congrArg _ ((if_neg hv).trans (if_neg (Nat.not_lt.mpr hl)))), ?_, ?_⟩ <;>
      obtain ⟨ss, hj⟩ := State.joinRefused_eq
        { s1 with msgs := FMap.set s1.msgs n (.joinReg h reg tag asid va (.column key bed hoff kind spill) true) } h tag <;> rw [hj]
    · exact FMap.get?_set_self _ _ _
    · rfl
  · refine ⟨_, s1.fresh, hx, ?_⟩
    rw [(State.joinAccepted_keeps _ _ _).1]
    exact State.sendBack_sent _ _ _

/-! ### VTLD (spec/17 R360) -/

/-- An entry of a table listed by rising number, by its place. -/
theorem FMap.get?_range' {α : Type} (f : Nat → α) (n a : Nat) {c : Nat} (hc : c < n) :
    FMap.get? ((List.range' a n).map (fun i => (i, f i))) (a + c) = some (f (a + c)) := by
  induction n generalizing a c with
  | zero => omega
  | succ n ih =>
    rw [List.range'_succ, List.map_cons, FMap.get?]
    cases c with
    | zero => exact if_pos rfl
    | succ c =>
      rw [if_neg (by omega), if_neg (by omega), show a + (c + 1) = a + 1 + c by omega]
      exact ih (a + 1) (by omega)

/-- The decode table's entry of a code. -/
theorem get?_tableFrom (pieces : FMap Wide) {c : Nat} (hc : c < 256) : FMap.get? (tableFrom pieces) c =
    some (.ofNat 19 (e8m10.ofVal 0 (fp32.value (bits ((FMap.getD pieces (c / 8) 0).toNat) (32 * (c % 8)) 32))).1) := by
  have h := FMap.get?_range' (fun c => BitVec.ofNat 19
    (e8m10.ofVal 0 (fp32.value (bits ((FMap.getD pieces (c / 8) 0).toNat) (32 * (c % 8)) 32))).1) 256 0 hc
  rwa [Nat.zero_add, ← List.range_eq_range'] at h

/-- The 32-bit words of the pieces, the last one with the others. -/
theorem bits_pieces (pieces : FMap Wide) {piece value : Nat} (hv : value < 2 ^ 256) (c : Nat) :
    bits (FMap.getD (FMap.set pieces piece (.ofNat 256 value)) (c / 8) 0).toNat (32 * (c % 8)) 32 =
      Said.tableWord pieces piece value c := by
  unfold Said.tableWord bits
  by_cases h : c / 8 = piece
  · rw [h, FMap.getD_set_self, BitVec.toNat_ofNat, Nat.mod_eq_of_lt hv]
    simp only [↓reduceIte]
  · rw [FMap.getD_set_ne _ _ _ h]
    simp only [h, ↓reduceIte]

/-- A VTLD's end at its strand touches no core. -/
theorem State.vtldDone_cores (s : State) (h : BitVec 64) (id : Nat) : (s.vtldDone h id).cores = s.cores := by
  unfold State.vtldDone
  split
  · rfl
  · split
    · split
      · obtain ⟨ss, cs, hr⟩ := State.rejoin_eq (s.putStrand _) h
        rw [hr]
        rfl
      · rfl
    · rfl

/-- A piece that has come is kept with the others. -/
theorem State.core_fillVtld {s : State} {k id piece value : Nat} {va : Word} {e : Vtld} (he : FMap.get? (s.core k).vtlds id = some e) :
    FMap.get? ((s.fillVtld k id piece va value none).core k).vtlds id =
      some { e with pieces := FMap.set e.pieces piece (.ofNat 256 value) } := by
  simp only [State.fillVtld, he, State.core_putCore_self]
  exact FMap.get?_set_self _ _ _

/-- The pieces of a VTLD become the core's table. -/
theorem State.table_vtldReplace {s : State} {k id : Nat} {e : Vtld} (he : FMap.get? (s.core k).vtlds id = some e) :
    ((s.vtldReplace k id).core k).table = tableFrom e.pieces := by
  simp only [State.vtldReplace, he, State.core_putCore_self]

/-- The clause on VTLD_TABLE_REPLACE. -/
theorem vtldTableReplace_acts (s : State) (n k id piece value item : Nat) (va : Word) (e : Vtld)
    (hm : s.msg? n = some (.readDone (.vtld k id piece) va value none item)) (he : FMap.get? (s.core k).vtlds id = some e)
    (hl : e.pieces.length = 31) (hp : FMap.get? e.pieces piece = none) (hv : value < 2 ^ 256) :
    ∃ u, Said.Runs (.vtldTableReplace n) s u ∧ ∀ c, c < 256 → FMap.get? (u.core k).table c =
      some (.ofNat 19 (e8m10.ofVal 0 (fp32.value (Said.tableWord e.pieces piece value c))).1) := by
  have hlast : s.lastPiece k id piece none = true := by
    simp [State.lastPiece, he, hl, hp]
  have hcore := State.core_fillVtld (s := (s.unsend n).itemDone item) (piece := piece) (va := va) (value := value) he
  refine ⟨((((s.unsend n).itemDone item).fillVtld k id piece va value none).vtldReplace k id).vtldDone e.handle id, ?_, fun c hc => ?_⟩
  · show execVtldTableReplace n s = _
    rw [execVtldTableReplace, hm]
    simp only [hlast, ↓reduceIte, hcore]
  · rw [← bits_pieces e.pieces hv c, State.core, State.vtldDone_cores]
    exact (congrArg (FMap.get? · c) (State.table_vtldReplace hcore)).trans (get?_tableFrom _ hc)

/-! ### Requests to the tile cache (spec/16 R340 to R343, spec/07 R133) -/

theorem bits_one_eq_zero (v : Word) (n : Nat) : (bits v.toNat n 1 == 0) = !v.getLsbD n := by
  rw [← bits_one_eq_getLsbD]
  have h : bits v.toNat n 1 < 2 := Nat.mod_lt _ (by decide)
  interval_cases bits v.toNat n 1 <;> rfl

/-- The lowest range register whose EN is clear. -/
theorem freeRange_eq_some {m : FMap (BitVec 64)} {n i : Nat} (hi : i < n) (hlow : ∀ j, j < i → (FMap.getD m j 0).getLsbD 63 = true)
    (hfree : (FMap.getD m i 0).getLsbD 63 = false) : freeRange m n = some i := by
  rw [freeRange, List.find?_range_eq_some]
  simp only [bits_one_eq_zero, List.mem_range]
  exact ⟨by rw [hfree]; rfl, hi, fun j hj => by rw [hlow j hj]; rfl⟩

theorem freeRange_eq_none {m : FMap (BitVec 64)} {n : Nat} (h : ∀ j, j < n → (FMap.getD m j 0).getLsbD 63 = true) :
    freeRange m n = none := by
  rw [freeRange, List.find?_eq_none]
  intro j hj
  rw [bits_one_eq_zero, h j (List.mem_range.mp hj)]
  decide

theorem rangeWord_base (col pa len : Nat) : rangeWord col (pa / 65536 * 65536) len = Said.range col (pa / 65536 * 65536) len := by
  rw [rangeWord, Said.range, Nat.mul_div_cancel _ (by decide)]

/-- EN cleared, and every other bit of the range register as it was. -/
theorem getLsbD_setBits_en (v : Word) :
    (setBits v 63 1 0).getLsbD 63 = false ∧ ∀ b, b < 63 → (setBits v 63 1 0).getLsbD b = v.getLsbD b := by
  have hlt := v.isLt
  have hval : (setBits v 63 1 0).toNat = v.toNat % 2 ^ 63 := by
    simp only [setBits, bits, BitVec.toNat_ofNat]
    omega
  refine ⟨?_, fun b hb => ?_⟩ <;> rw [BitVec.getLsbD, hval, Nat.testBit_mod_two_pow]
  · rfl
  · rw [decide_eq_true hb, Bool.true_and]
    rfl

/-- Where a request's range starts and ends, and what it asks for, do not matter to a request that takes no register. -/
theorem Quad.control_retains {q : Quad} {i : Nat} {x : Word} (hx : x ≠ 0) (hi : freeRange q.ret 8 = some i) (col pa stop : Nat) :
    let base := pa / 65536 * 65536
    let len := min ((min (pa + x.toNat) stop - base + 65535) / 65536) 65535
    q.control 0 col pa stop x = ({ q with ret := FMap.set q.ret i (Said.range col base len) }, i) := by
  simp only [Quad.control, hx, hi, ↓reduceIte, rangeWord_base]

theorem Quad.control_retains_none {q : Quad} {x : Word} (h : x = 0 ∨ freeRange q.ret 8 = none) (col pa stop : Nat) :
    q.control 0 col pa stop x = (q, 2 ^ 64 - 1) := by
  simp only [Quad.control]
  rcases h with h | h
  · simp only [h, ↓reduceIte, allOnes]
  · simp only [h, allOnes, ite_self]

theorem Quad.control_hints {q : Quad} {i : Nat} {x : Word} (hx : x ≠ 0) (hi : freeRange q.ef 4 = some i) (col pa stop : Nat) :
    let base := pa / 65536 * 65536
    let len := min ((min (pa + x.toNat) stop - base + 65535) / 65536) 65535
    q.control 2 col pa stop x = ({ q with ef := FMap.set q.ef i (Said.range col base len) }, i) := by
  simp only [Quad.control, hx, hi, ↓reduceIte, rangeWord_base]

theorem Quad.control_hints_none {q : Quad} {x : Word} (h : x = 0 ∨ freeRange q.ef 4 = none) (col pa stop : Nat) :
    q.control 2 col pa stop x = (q, 2 ^ 64 - 1) := by
  simp only [Quad.control]
  rcases h with h | h
  · simp only [h, ↓reduceIte, allOnes]
  · simp only [h, allOnes, ite_self]

theorem Quad.control_unpins_ret {q : Quad} {x : Word} (hx : x.toNat < 8) (col pa stop : Nat) :
    q.control 1 col pa stop x =
      ({ q with ret := FMap.set q.ret x.toNat (setBits (FMap.getD q.ret x.toNat 0) 63 1 0) }, 0) := by
  simp only [Quad.control, if_neg (show ¬ 11 < x.toNat by omega), if_pos hx]

theorem Quad.control_unpins_ef {q : Quad} {x : Word} (hlo : 8 ≤ x.toNat) (hhi : x.toNat < 12) (col pa stop : Nat) :
    q.control 1 col pa stop x =
      ({ q with ef := FMap.set q.ef (x.toNat - 8) (setBits (FMap.getD q.ef (x.toNat - 8) 0) 63 1 0) }, 0) := by
  simp only [Quad.control, if_neg (show ¬ 11 < x.toNat by omega), if_neg (show ¬ x.toNat < 8 by omega)]

theorem Quad.control_unpins_none {q : Quad} {x : Word} (hx : 11 < x.toNat) (col pa stop : Nat) :
    q.control 1 col pa stop x = (q, 2 ^ 64 - 1) := by
  simp only [Quad.control, if_pos hx, allOnes]

theorem Quad.control_cleans {q : Quad} {x : Word} (hx : x ≠ 0) (col pa stop : Nat) :
    let hit := Said.dirtyIn col (pa / 64) ((min (pa + x.toNat) stop - 1) / 64)
    q.control 3 col pa stop x =
      ({ q with lines := q.lines.map (fun l => if hit l then { l with dirty := false } else l),
                qwbk := q.qwbk + (q.lines.filter hit).length }, (q.lines.filter hit).length) := by
  simp only [Quad.control, hx, ↓reduceIte]
  rfl

section
variable {s : State} {n op reg tag key bed hoff : Nat} {h : BitVec 64} {spill : Bool} {asid : BitVec 12} {x : Word} {kind : BedKind}

/-- A request that no bed holds. -/
theorem cacheControl_no_bed (hm : s.msg? n = some (.cacheCtl op h reg tag asid none x)) :
    Said.Runs (.cacheControlRequest n) s ((s.unsend n).send (.fill h reg tag (2 ^ 64 - 1) none none)) := by
  show execCacheControlRequest n s = _
  rw [execCacheControlRequest, hm]
  rfl

/-- A request whose page the translation buffer holds is served at its quadrant. -/
theorem cacheControl_served (hm : s.msg? n = some (.cacheCtl op h reg tag asid (some (.column key bed hoff kind spill)) x))
    (hu : s.tileUp (key / 16) = true) (hw : s.waitsFor (.column key bed hoff kind spill) asid 1 0 = false) {e : TlbEntry}
    (he : (s.col key).tlbHit asid (bed * 2 ^ 40 + hoff) = some e) {q : Quad} {v : Nat}
    (hq : (s.quad (quadOfCol key)).control op (key % 16) (e.off + (bed * 2 ^ 40 + hoff) % e.size) (e.off + e.size) x = (q, v)) :
    Said.Runs (.cacheControlRequest n) s
      (((s.unsend n).putQuad (quadOfCol key) q).sendFrom (key / 16) (.fill h reg tag v none none)) := by
  have hu' : (s.unsend n).tileUp (key / 16) = true := hu
  have he' : ((s.unsend n).col key).tlbHit asid (cvaOf bed hoff) = some e := he
  have ht : (s.unsend n).translate key asid (cvaOf bed hoff) 0 = (s.unsend n, .ok (e.off + cvaOf bed hoff % e.size)) := by
    simp only [State.translate, State.translateFor, he']
    rfl
  have hq' : ((s.unsend n).quad (quadOfCol key)).control op (key % 16) (e.off + cvaOf bed hoff % e.size) (e.off + e.size) x = (q, v) := hq
  show execCacheControlRequest n s = _
  rw [execCacheControlRequest, hm]
  simp only [hw, Bool.false_eq_true, ↓reduceIte, hu, Bool.not_true, ht, he', hq']

end

/-- Settles O43: each step by the branch that its message and its home select; a word at zero by the messages sent to its waiters, a decode table
by its pieces, a range register by the search for the lowest. -/
theorem homesServeRequests : Obligations.HomesServeRequests := by
  unfold Obligations.HomesServeRequests
  refine ⟨remoteReadServe_acts, postedStorePerform_acts, postedStorePerform_host_acts, fun s n p item ok hm => storeFlush_acts ok hm,
    postedStoreAck_acts, joinWordChange_acts, fun s n c g4 sid h target joinw home st hm hs hp => joinIncrementAck_acts hm hs hp,
    fun s n reg tag key bed hoff h spill asid va kind => ⟨joinRegistrationRetry_acts s n reg tag h asid va _,
      fun hm hu hw => joinRegistration_acts s n reg tag key bed hoff h spill asid va kind hm hu hw⟩,
    fun s n k id piece value item va e _ hm he hl hp hv => vtldTableReplace_acts s n k id piece value item va e hm he hl hp hv,
    fun s n op reg tag key bed hoff h spill asid x kind => ⟨cacheControl_no_bed, fun hm hu hw e he => ?_⟩⟩
  have served := @cacheControl_served s n op reg tag key bed hoff h spill asid x kind hm hu hw e he
  refine ⟨fun ho hx => ?_, fun ho hx i hi hlow hfree => ?_, fun ho hx hall => ?_, fun ho hx i hi hlow hfree => ?_, fun ho hx => ?_,
    fun ho hx hall => ?_, fun ho hx => ?_, fun ho hlo hhi => ?_, fun ho hx => ?_⟩
  · subst ho
    exact served (Quad.control_cleans hx _ _ _)
  · subst ho
    exact served (Quad.control_retains hx (freeRange_eq_some hi hlow hfree) _ _ _)
  · subst ho
    exact served (Quad.control_retains_none (.inr (freeRange_eq_none hall)) _ _ _)
  · subst ho
    exact served (Quad.control_hints hx (freeRange_eq_some hi hlow hfree) _ _ _)
  · rcases ho with rfl | rfl
    · exact served (Quad.control_retains_none (.inl hx) _ _ _)
    · exact served (Quad.control_hints_none (.inl hx) _ _ _)
  · subst ho
    exact served (Quad.control_hints_none (.inr (freeRange_eq_none hall)) _ _ _)
  · subst ho
    exact ⟨_, served (Quad.control_unpins_ret hx _ _ _), getLsbD_setBits_en _⟩
  · subst ho
    exact ⟨_, served (Quad.control_unpins_ef hlo hhi _ _ _), getLsbD_setBits_en _⟩
  · subst ho
    exact served (Quad.control_unpins_none hx _ _ _)

end Sys2Proof.Machine
end

section
/-! SUPPORT. O41: what the steps of a pre-emption leave of jobs, records, save areas and memory; commands, a Cancel, notices, the slots of the engines, and reports (spec/05 R86, spec/11 R213 to R219, R225). -/

namespace Sys2Proof.Machine

/-! ### What the steps of a pre-emption leave as it was -/

/-- The jobs, the binding records and the save areas of the tiles, and memory are the same: what a suspension is kept in. -/
structure State.SameJobs (s u : State) : Prop where
  jobs : u.jobs = s.jobs
  recs : ∀ t, (u.tile t).recs = (s.tile t).recs
  esave : ∀ t, (u.tile t).esave = (s.tile t).esave
  mem : u.mem = s.mem

theorem State.SameJobs.refl (s : State) : s.SameJobs s := ⟨rfl, fun _ => rfl, fun _ => rfl, rfl⟩
theorem State.SameJobs.trans {s u v : State} (h : s.SameJobs u) (g : u.SameJobs v) : s.SameJobs v :=
  ⟨g.jobs.trans h.jobs, fun t => (g.recs t).trans (h.recs t), fun t => (g.esave t).trans (h.esave t), g.mem.trans h.mem⟩

theorem State.SameJobs.foldl {α : Type} {f : State → α → State} (hf : ∀ (s : State) a, s.SameJobs (f s a)) (l : List α) (s : State) :
    s.SameJobs (l.foldl f s) :=
  l.foldlRecOn f (motive := s.SameJobs) (.refl s) fun b hb a _ => hb.trans (hf b a)

/-- The jobs, the tiles and memory are written nowhere. -/
theorem State.sameJobs_of {s u : State} (hj : u.jobs = s.jobs) (ht : u.tiles = s.tiles) (hm : u.mem = s.mem) : s.SameJobs u := by
  refine ⟨hj, fun t => ?_, fun t => ?_, hm⟩ <;> rw [State.tile, ht] <;> rfl

theorem State.SameUnits.sameJobs {s u : State} (h : s.SameUnits u) : s.SameJobs u := State.sameJobs_of h.jobs h.tiles h.mem

/-- A tile written with the records and the save area it had. -/
theorem State.putTile_sameJobs (s : State) (t : Nat) (x : Tile) (hr : x.recs = (s.tile t).recs) (he : x.esave = (s.tile t).esave) :
    s.SameJobs (s.putTile t x) := by
  refine ⟨rfl, fun u => ?_, fun u => ?_, rfl⟩ <;> by_cases h : u = t
  · rw [h, State.tile_putTile_self, hr]
  · rw [State.tile_putTile_ne s x h]
  · rw [h, State.tile_putTile_self, he]
  · rw [State.tile_putTile_ne s x h]

/-- ... and so are the strands and the engines: a step that moves bytes and writes errors down. -/
structure State.SameSlots (s u : State) : Prop extends s.SameJobs u where
  strands : u.strands = s.strands
  engines : u.engines = s.engines

theorem State.SameSlots.refl (s : State) : s.SameSlots s := ⟨.refl s, rfl, rfl⟩
theorem State.SameSlots.trans {s u v : State} (h : s.SameSlots u) (g : u.SameSlots v) : s.SameSlots v :=
  ⟨h.toSameJobs.trans g.toSameJobs, g.strands.trans h.strands, g.engines.trans h.engines⟩
theorem State.SameSlots.foldl {α : Type} {f : State → α → State} (hf : ∀ (s : State) a, s.SameSlots (f s a)) (l : List α) (s : State) :
    s.SameSlots (l.foldl f s) :=
  l.foldlRecOn f (motive := s.SameSlots) (.refl s) fun b hb a _ => hb.trans (hf b a)

theorem State.SameJobs.job {s u : State} (h : s.SameJobs u) (j : Nat) : u.job? j = s.job? j := by
  rw [State.job?, h.jobs]; rfl

/-- Messages sent one after another. -/
theorem State.sendAll_sameUnits {α : Type} (src : Nat) (m : α → Msg) (l : List α) (s : State) :
    s.SameUnits (l.foldl (fun s a => s.sendFrom src (m a)) s) :=
  .foldl (fun s a => s.sendFrom_sameUnits src (m a)) l s

/-! ### Commands (spec/05 R86) -/

theorem State.jobcmd_eq (s : State) (t h r : Nat) : s.jobcmd t h r = Said.commanded s t h r := rfl

section
variable {s : State} {t h : Nat} {j : Job}

theorem jobcmd_unknown {i : Instr} (hi : i = .jobcmdSuspend t h ∨ i = .jobcmdResume t h ∨ i = .jobcmdCancel t h) (hj : s.jobAt t h = none) :
    Said.Runs i s (Said.commanded s t h 1) := by
  rcases hi with rfl | rfl | rfl
  · show execJobcmdSuspend t h s = _
    rw [execJobcmdSuspend, hj]; rfl
  · show execJobcmdResume t h s = _
    rw [execJobcmdResume, hj]; rfl
  · show execJobcmdCancel t h s = _
    rw [execJobcmdCancel, hj]; rfl

theorem jobcmdSuspend_eq (hj : s.jobAt t h = some j) : exec (.jobcmdSuspend t h) s = .next (
    if j.state != .running || s.suspendBlocked h then s.jobcmd t h 2
    else s.liveTiles.foldl (fun s n => s.sendFrom t (.suspendNote n h))
      ((s.jobcmd t h 0).putJob { j with state := .suspending, tilesLeft := s.liveTiles })) := by
  show execJobcmdSuspend t h s = _
  rw [execJobcmdSuspend, hj]

theorem jobcmdResume_eq (hj : s.jobAt t h = some j) : exec (.jobcmdResume t h) s = .next (
    if j.state != .suspended then s.jobcmd t h 2
    else s.liveTiles.foldl (fun s n => s.sendFrom t (.resumeNote n h))
      ((s.jobcmd t h 0).putJob { j with state := .resuming, tilesLeft := s.liveTiles })) := by
  show execJobcmdResume t h s = _
  rw [execJobcmdResume, hj]

/-- A job told to stop or to go on: its state, the tiles it waits for, the result, and a notice to every live tile. -/
theorem State.notices_spec (s : State) (t h : Nat) {j : Job} (hh : j.handle = h) (m : Nat → Msg) :
    let u := s.liveTiles.foldl (fun s n => s.sendFrom t (m n)) ((s.jobcmd t h 0).putJob { j with tilesLeft := s.liveTiles })
    u.job? h = some { j with tilesLeft := s.liveTiles } ∧ (u.tile t).jobcmdResult = 0 ∧ Said.noticed s u m := by
  intro u
  have hu : State.SameUnits _ u := State.sendAll_sameUnits t m s.liveTiles _
  refine ⟨?_, ?_, fun n hn hl => ?_⟩
  · rw [hu.sameJobs.job]
    exact State.job?_putJob_of hh
  · rw [hu.tile]
    exact congrArg Tile.jobcmdResult (s.tile_putTile_self _ _)
  · exact State.sendAll_sent t m (List.mem_filter.mpr ⟨List.mem_range.mpr hn, hl⟩) _

theorem jobcmdSuspend_notices (hj : s.jobAt t h = some j) (hh : j.handle = h) (hr : j.state = .running) (hb : s.suspendBlocked h = false) :
    ∃ u k, Said.Runs (.jobcmdSuspend t h) s u ∧ u.job? h = some k ∧ k.state = .suspending ∧
      k.tilesLeft = (List.range 64).filter s.tileLive ∧ (u.tile t).jobcmdResult = 0 ∧ Said.noticed s u (fun n => .suspendNote n h) := by
  obtain ⟨hjob, hres, hnote⟩ := s.notices_spec t h (j := { j with state := .suspending }) hh (fun n => .suspendNote n h)
  exact ⟨_, _, (jobcmdSuspend_eq hj).trans (congrArg _ (if_neg (by rw [hr, hb]; decide))), hjob, rfl, rfl, hres, hnote⟩

theorem jobcmdSuspend_refused (hj : s.jobAt t h = some j) (hr : j.state ≠ .running ∨ s.suspendBlocked h = true) :
    Said.Runs (.jobcmdSuspend t h) s (Said.commanded s t h 2) := by
  refine (jobcmdSuspend_eq hj).trans (congrArg _ (if_pos ?_))
  rcases hr with hr | hr
  · rw [bne_iff_ne.mpr hr, Bool.true_or]
  · rw [hr, Bool.or_true]

theorem jobcmdResume_notices (hj : s.jobAt t h = some j) (hh : j.handle = h) (hr : j.state = .suspended) :
    ∃ u k, Said.Runs (.jobcmdResume t h) s u ∧ u.job? h = some k ∧ k.state = .resuming ∧
      k.tilesLeft = (List.range 64).filter s.tileLive ∧ (u.tile t).jobcmdResult = 0 ∧ Said.noticed s u (fun n => .resumeNote n h) := by
  obtain ⟨hjob, hres, hnote⟩ := s.notices_spec t h (j := { j with state := .resuming }) hh (fun n => .resumeNote n h)
  exact ⟨_, _, (jobcmdResume_eq hj).trans (congrArg _ (if_neg (by rw [hr]; decide))), hjob, rfl, rfl, hres, hnote⟩

theorem jobcmdResume_refused (hj : s.jobAt t h = some j) (hr : j.state ≠ .suspended) :
    Said.Runs (.jobcmdResume t h) s (Said.commanded s t h 2) :=
  (jobcmdResume_eq hj).trans (congrArg _ (if_pos (bne_iff_ne.mpr hr)))

theorem jobcmdCancel_pending (hj : s.jobAt t h = some j) (hp : j.state = .pending)
    (hw : (Said.commanded s t h 0).gardenWaits j .stp j.lrec.cwaddr 1 = false) :
    Said.Runs (.jobcmdCancel t h) s ((Said.commanded s t h 0).finishJob { j with status := 1 }) := by
  show execJobcmdCancel t h s = _
  rw [execJobcmdCancel, hj]
  refine congrArg _ ((if_pos (by rw [hp]; rfl)).trans ?_)
  exact if_neg (by rw [State.jobcmd_eq, hw]; decide)

theorem jobcmdCancel_bound (hj : s.jobAt t h = some j) (hp : j.state ≠ .pending) :
    exec (.jobcmdCancel t h) s = .next ((s.jobcmd t h 0).cancelJob j 1) := by
  show execJobcmdCancel t h s = _
  rw [execJobcmdCancel, hj]
  exact congrArg _ (if_neg (by simpa using hp))

end

/-! ### Reports (spec/11 R218, R225) -/

theorem State.savedFor_eq (s : State) (t e : Nat) : s.savedFor t e = Said.savedIn s t e := by
  simp only [State.savedFor, Said.savedIn, State.recordOf, bits, pow_one, pow_zero, Nat.div_one, Bool.and_eq_true, decide_eq_true_eq]

theorem State.tileSaved_false {s : State} {t h : Nat} (hu : Said.unsaved s t h) : s.tileSaved t h = false := by
  refine List.any_eq_false.mpr (fun e he hs => hu e (List.mem_range.mp he) ?_)
  rw [← State.savedFor_eq]
  exact beq_iff_eq.mp hs

/-- The clause on PREEMPTION_TILE_REPORT. -/
theorem preemptionTileReport_acts (s : State) (n t h : Nat) (j : Job) (hm : s.msg? n = some (.tileReport t h)) (hj : s.job? h = some j) :
    let l := j.tilesLeft.filter (· != t)
    (j.state = .suspending → s.tileSuspended t h = true → Said.Runs (.preemptionTileReport n) s
      ((s.unsend n).putJob { j with tilesLeft := l, state := if l = [] then .suspended else .suspending })) ∧
    (j.state = .suspending → s.tileSuspended t h = false → Said.Runs (.preemptionTileReport n) s s) ∧
    (j.state = .resuming → Said.unsaved s t h → Said.Runs (.preemptionTileReport n) s
      ((s.unsend n).putJob { j with tilesLeft := l, state := if l = [] then .running else .resuming })) := by
  intro l
  have hl : ∀ a b : JobState, (if l.isEmpty then a else b) = if l = [] then a else b := fun a b => by
    simp only [List.isEmpty_iff]
  refine ⟨fun hs ht => ?_, fun hs ht => ?_, fun hs ht => ?_⟩ <;> show execPreemptionTileReport n s = _ <;>
    rw [execPreemptionTileReport, hm] <;> simp only [hj, hs]
  · rw [if_pos ht, hl]
  · rw [if_neg (by rw [ht]; decide)]
  · rw [if_neg (by rw [State.tileSaved_false ht]; decide), hl]

/-- The clause on STRAND_COUNT_REPORT. -/
theorem strandCountReport_acts (s : State) (t c h a b : Nat) (j : Job) (hc : FMap.get? (s.col (colKey t c)).counts h = some (a, b))
    (hj : s.job? h = some j) (hh : j.handle = h) : ∃ u,
    Said.Runs (.strandCountReport t c h) s u ∧ u.job? h = some { j with created := j.created + a, ended := j.ended + b } ∧
      (u.col (colKey t c)).counts = FMap.erase (s.col (colKey t c)).counts h := by
  refine ⟨(s.putCol (colKey t c) { s.col (colKey t c) with counts := FMap.erase (s.col (colKey t c)).counts h }).putJob
    { j with created := j.created + a, ended := j.ended + b }, ?_, State.job?_putJob_of hh, congrArg Column.counts (s.col_putCol_self _ _)⟩
  show execStrandCountReport t c h s = _
  have hj' : ∀ x, (s.putCol (colKey t c) x).job? h = some j := fun _ => hj
  simp only [execStrandCountReport, hc, hj']

/-- The strands found missing are told of, and the jobs stay as they are. -/
def State.tellLost (s : State) (j : Job) (h : Nat) (known : List (BitVec 64)) (lost : Nat) : State :=
  let s1 := known.foldl (fun s x => s.raiseJob 0x43 j (lostDetail h x.toNat)) s
  if known.length < lost then s1.raiseJob 0x43 j (lostDetail h (2 ^ 48 - 1)) else s1

theorem State.tellLost_sameUnits (s : State) (j : Job) (h : Nat) (known : List (BitVec 64)) (lost : Nat) :
    s.SameUnits (s.tellLost j h known lost) := by
  have hf := State.SameUnits.foldl (f := fun s (x : BitVec 64) => s.raiseJob 0x43 j (lostDetail h x.toNat))
    (fun s _ => s.raiseJob_sameUnits _ _ _) known s
  unfold State.tellLost
  dsimp only
  split
  · exact hf.trans (State.raiseJob_sameUnits _ _ _ _)
  · exact hf

theorem lossCountAnswer_eq {s : State} {t h : Nat} {j : Job} (hj : s.jobAt t h = some j) (ha : j.asked = true)
    (hc : ∀ kv ∈ s.cols, FMap.get? kv.2.counts h = none) : exec (.lossCountAnswer t h) s = .next (
      let lost := j.created - j.ended - (s.strands.filter (fun kv => kv.2.job == h)).length
      let u := (s.putJob { j with asked := false, lostKnown := [], ended := j.ended + lost }).tellLost j h (j.lostKnown.take lost) lost
      if lost = 0 then u else u.recordStatus h 2) := by
  have hany : s.cols.any (fun kv => (FMap.get? kv.2.counts h).isSome) = false :=
    List.any_eq_false.mpr (fun kv hkv => by rw [hc kv hkv]; decide)
  show execLossCountAnswer t h s = _
  rw [execLossCountAnswer, hj]
  exact congrArg _ (if_neg (by rw [ha, hany]; decide))

/-- The clause on LOSS_COUNT_ANSWER. -/
theorem lossCountAnswer_acts (s : State) (t h : Nat) (j : Job) (hj : s.jobAt t h = some j) (hh : j.handle = h) (ha : j.asked = true)
    (hc : ∀ kv ∈ s.cols, FMap.get? kv.2.counts h = none) :
    let held := (s.strands.filter (fun kv => kv.2.job == h)).length
    (j.created = j.ended + held → ∃ u, Said.Runs (.lossCountAnswer t h) s u ∧ u.job? h = some { j with asked := false, lostKnown := [] }) ∧
    (j.ended + held < j.created → j.status = 0 → ∃ u k, Said.Runs (.lossCountAnswer t h) s u ∧ u.job? h = some k ∧ k.asked = false ∧ k.status = 2 ∧
      k.ended + held = k.created) := by
  intro held
  have hx := lossCountAnswer_eq hj ha hc
  have hjob : ∀ lost, State.job? ((s.putJob { j with asked := false, lostKnown := [], ended := j.ended + lost }).tellLost j h
      (j.lostKnown.take lost) lost) h = some { j with asked := false, lostKnown := [], ended := j.ended + lost } := fun lost => by
    rw [(State.tellLost_sameUnits _ _ _ _ _).sameJobs.job]
    exact State.job?_putJob_of hh
  refine ⟨fun he => ?_, fun hlt h0 => ?_⟩
  · have hlost : j.created - j.ended - held = 0 := by omega
    refine ⟨_, hx.trans (congrArg _ (if_pos hlost)), ?_⟩
    rw [hjob]
    show some { j with asked := false, lostKnown := [], ended := j.ended + (j.created - j.ended - held) } = _
    rw [hlost, Nat.add_zero]
  · have hlost : j.created - j.ended - held ≠ 0 := by omega
    refine ⟨_, _, hx.trans (congrArg _ (if_neg hlost)), State.job?_recordStatus (hjob _) hh h0, rfl, rfl, ?_⟩
    show j.ended + (j.created - j.ended - held) + held = j.created
    omega

/-! ### The end of a strand leaves the jobs to the decrement of its join word (spec/06 R112, R114, spec/18 R381) -/

theorem State.reserveOne_sameJobs (s : State) (k : Nat) : s.SameJobs (s.reserveOne k) := by
  unfold State.reserveOne
  dsimp only
  split
  · split
    · exact .refl s
    · refine State.SameJobs.trans ?_ (State.sendFrom_sameUnits _ _ _).sameJobs
      exact ⟨rfl, fun _ => rfl, fun _ => rfl, rfl⟩
  · exact .refl s

theorem State.reserve_sameJobs (s : State) (k : Nat) : s.SameJobs (s.reserve k) :=
  .foldl (fun s _ => s.reserveOne_sameJobs k) _ s

theorem State.withdraw_sameJobs (s : State) (st : Strand) : s.SameJobs (s.withdraw st) := by
  have hu : s.SameJobs (s.unqueue st.handle) := ⟨rfl, fun _ => rfl, fun _ => rfl, rfl⟩
  unfold State.withdraw
  split
  · exact hu.trans (.foldl (fun s _ => s.reserve_sameJobs _) _ _)
  · exact hu

theorem State.withdraw_strands (s : State) (st : Strand) : (s.withdraw st).strands = s.strands := by
  unfold State.withdraw
  split
  · exact List.foldlRecOn _ _ (motive := fun u : State => u.strands = s.strands) rfl
      fun u hu e _ => (u.reserve_sameQueues _).strands.trans hu
  · rfl

theorem State.endStrand_sameJobs (s : State) (st : Strand) : s.SameJobs (s.endStrand st) :=
  (s.withdraw_sameJobs st).trans ((State.SameJobs.mk rfl (fun _ => rfl) (fun _ => rfl) rfl :
    (s.withdraw st).SameJobs ((s.withdraw st).eraseStrand st.handle)).trans
      ((State.reserve_sameJobs _ st.coreKey).trans ⟨rfl, fun _ => rfl, fun _ => rfl, rfl⟩))

theorem State.bumpAg_sameJobs (s : State) (t : Nat) : s.SameJobs (s.bumpAg t) := by
  by_cases h : (s.tile t).ag + 1 < 65536
  · rw [State.bumpAg_below h]
    exact s.putTile_sameJobs t _ rfl rfl
  · obtain ⟨hj, hr, he, hm⟩ := s.putTile_sameJobs t { s.tile t with ag := 0 } rfl rfl
    rw [State.bumpAg, if_neg h]
    exact ⟨hj, hr, he, hm⟩

theorem State.acquire_sameJobs (s : State) (st : Strand) (scope : Nat) : s.SameJobs (s.acquire st scope).1 := by
  have h : s.SameJobs ((s.bumpAg st.loc.tile).dropLines st.coreKey) :=
    (s.bumpAg_sameJobs st.loc.tile).trans ⟨rfl, fun _ => rfl, fun _ => rfl, rfl⟩
  unfold State.acquire
  split
  · exact .refl s
  · show s.SameJobs (if scope < 4 then _ else _)
    split
    · exact h
    · exact h.trans ⟨rfl, fun _ => rfl, fun _ => rfl, rfl⟩

theorem State.bornAcquired_sameJobs (s : State) (st : Strand) : s.SameJobs (s.bornAcquired st) :=
  (s.acquire_sameJobs st 7).trans ⟨rfl, fun _ => rfl, fun _ => rfl, rfl⟩

theorem State.takeImg_sameJobs (s : State) (key img : Nat) : s.SameJobs (s.takeImg key img) := by
  obtain ⟨l, -, h⟩ := s.writeImg_eq key img
  rw [State.takeImg, h]
  exact ⟨rfl, fun _ => rfl, fun _ => rfl, rfl⟩

theorem State.enqueue_sameJobs (s : State) (k : Nat) (h : BitVec 64) : s.SameJobs (s.enqueue k h) := ⟨rfl, fun _ => rfl, fun _ => rfl, rfl⟩

theorem State.releaseChild_sameJobs (s : State) (p : Strand) (sid : Nat) (target : Word) (home : Option (Nat × Option Nat × BitVec 64))
    (joinw : BitVec 64) (g : List Word) (core : Nat) : s.SameJobs (s.releaseChild p sid target home joinw g core) := by
  have hc : ∀ i, s.SameJobs ((s.countStrand p.colKey p.job 1 0).takeImg p.colKey i) := fun i =>
    State.SameJobs.trans (u := s.countStrand p.colKey p.job 1 0) ⟨rfl, fun _ => rfl, fun _ => rfl, rfl⟩ (State.takeImg_sameJobs _ _ _)
  unfold State.releaseChild
  cases home with
  | none =>
    refine State.SameJobs.trans ?_ (State.enqueue_sameJobs _ _ _)
    refine State.SameJobs.trans ?_ (State.bornAcquired_sameJobs _ _)
    exact hc _
  | some a =>
    refine State.SameJobs.trans ?_ (State.sendFrom_sameUnits _ _ _).sameJobs
    refine State.SameJobs.trans ?_ (State.bornAcquired_sameJobs _ _)
    exact hc _

theorem State.releaseOrphan_sameJobs (s : State) (st : Strand) : s.SameJobs (s.releaseOrphan st) := by
  unfold State.releaseOrphan
  split
  · exact State.releaseChild_sameJobs ..
  · exact .refl s

/-! ### Cancel of a bound job (spec/05 R77, R86) -/

/-- Job h has been cancelled with cause 1, and no record of it dispatches. -/
structure State.Cancelled (h : Nat) (u : State) : Prop where
  job : ∃ k, u.job? h = some k ∧ k.handle = h ∧ k.state = .completing ∧ k.cancelCause = 1
  recs : ∀ n r b, FMap.get? (u.tile n).recs r = some b → b.job = h → b.state ≠ .active

theorem State.Cancelled.keep {h : Nat} {s u : State} (hc : s.Cancelled h) (hk : s.SameJobs u) : u.Cancelled h := by
  refine ⟨?_, fun n => ?_⟩
  · rw [hk.job]
    exact hc.job
  · rw [hk.recs]
    exact hc.recs n

/-- A status recorded for the job itself. -/
theorem State.Cancelled.recordStatus {h : Nat} {s : State} (hc : s.Cancelled h) (c : Nat) : (s.recordStatus h c).Cancelled h := by
  obtain ⟨⟨k, hk, hh, hs, hcause⟩, hr⟩ := hc
  by_cases h0 : k.status = 0
  · refine ⟨⟨_, State.job?_recordStatus hk hh h0, hh, hs, hcause⟩, ?_⟩
    obtain ⟨js, e⟩ := s.recordStatus_eq h c
    rw [e]
    exact hr
  · have e : s.recordStatus h c = s := by
      simp only [State.recordStatus, hk, h0, ↓reduceIte]
    rw [e]
    exact ⟨⟨k, hk, hh, hs, hcause⟩, hr⟩

theorem State.Cancelled.sendDecrement {h : Nat} {s : State} (hc : s.Cancelled h) {st : Strand} (hj : st.job = h) :
    (s.sendDecrement st).Cancelled h := by
  unfold State.sendDecrement
  split
  · exact hc
  · split
    · rw [hj]
      exact hc.recordStatus 5
    · split
      · rw [hj]
        exact hc.recordStatus 5
      · exact hc.keep (State.SameJobs.trans (u := s.addItem _) ⟨rfl, fun _ => rfl, fun _ => rfl, rfl⟩
          (State.sendFrom_sameUnits _ _ _).sameJobs)

theorem State.Cancelled.kill {h : Nat} {s : State} (hc : s.Cancelled h) {st : Strand} (hj : st.job = h) : (s.kill st).Cancelled h :=
  ((hc.keep (s.releaseOrphan_sameJobs st)).keep (State.endStrand_sameJobs _ st)).sendDecrement hj

theorem State.Cancelled.killJob {h : Nat} {s : State} (hc : s.Cancelled h) : (s.killJob h).Cancelled h :=
  List.foldlRecOn _ _ (motive := State.Cancelled h) hc fun _ hu _ hst => hu.kill (beq_iff_eq.mp (List.mem_filter.mp hst).2)

/-! The tasks of a cancelled job leave the task areas. -/

theorem State.putTask_sameJobs (s : State) (t : Nat) (x : Task) : s.SameJobs (s.putTask t x) := s.putTile_sameJobs t _ rfl rfl

theorem State.ringSet_sameJobs (s : State) (t n : Nat) (f : RingEntry → RingEntry) : s.SameJobs (s.ringSet t n f) := by
  unfold State.ringSet
  dsimp only
  split
  · split
    · exact s.putTile_sameJobs t _ rfl rfl
    · exact .refl s
  · exact .refl s

theorem State.leaveEngines_sameJobs (s : State) (t : Nat) (x : Task) : s.SameJobs (s.leaveEngines t x) := by
  unfold State.leaveEngines
  split
  · dsimp only
    split
    · exact ⟨rfl, fun _ => rfl, fun _ => rfl, rfl⟩
    · exact .refl s
  · exact ⟨rfl, fun _ => rfl, fun _ => rfl, rfl⟩

theorem State.refreshHolds_sameJobs (s : State) : s.SameJobs s.refreshHolds := ⟨rfl, fun _ => rfl, fun _ => rfl, rfl⟩

theorem State.retire_sameJobs (s : State) (t : Nat) (x : Task) (st : TaskState) (code : Nat) (faddr : Word) :
    s.SameJobs (s.retire t x st code faddr) := by
  unfold State.retire
  refine State.SameJobs.trans ?_ (State.refreshHolds_sameJobs _)
  refine State.SameJobs.trans ?_ (.foldl (fun s _ => (s.sendFrom_sameUnits _ _).sameJobs) _ _)
  exact (s.ringSet_sameJobs t x.tseq _).trans (State.putTile_sameJobs _ t _ rfl rfl)

theorem State.rejoin_sameJobs (s : State) (h : BitVec 64) : s.SameJobs (s.rejoin h) := by
  obtain ⟨ss, cs, e⟩ := s.rejoin_eq h
  rw [e]
  exact ⟨rfl, fun _ => rfl, fun _ => rfl, rfl⟩

theorem State.settle_true_sameJobs (s : State) (item : Nat) : s.SameJobs (s.settle item true) := by
  unfold State.settle
  split
  · exact .refl s
  · exact State.SameJobs.trans (u := s.itemDone item) ⟨rfl, fun _ => rfl, fun _ => rfl, rfl⟩ (State.rejoin_sameJobs _ _)

theorem State.cancelTask_sameJobs (s : State) (t : Nat) (x : Task) : s.SameJobs (s.cancelTask t x) :=
  ((s.leaveEngines_sameJobs t x).trans (State.retire_sameJobs _ t x _ _ _)).trans (State.settle_true_sameJobs _ _)

/-- The tiles passed through a function that keeps records and save area, the reset tile's too. -/
theorem State.mapTiles_sameJobs (s : State) (f : Nat → Tile → Tile) (hr : ∀ k x, (f k x).recs = x.recs)
    (he : ∀ k x, (f k x).esave = x.esave) : s.SameJobs { s with tiles := FMap.mapVals s.tiles f } := by
  refine ⟨rfl, fun t => ?_, fun t => ?_, rfl⟩ <;> unfold State.tile FMap.getD <;> dsimp only <;> rw [FMap.get?_mapVals] <;>
    cases FMap.get? s.tiles t
  · rfl
  · exact hr _ _
  · rfl
  · exact he _ _

theorem State.cancelTasks_sameJobs (s : State) (job : Nat) : s.SameJobs (s.cancelTasks job) := by
  unfold State.cancelTasks
  refine State.SameJobs.trans (.foldl (fun s p => ?_) _ s) (State.mapTiles_sameJobs _ _ (fun _ _ => rfl) (fun _ _ => rfl))
  split
  · exact s.putTask_sameJobs _ _
  · exact s.cancelTask_sameJobs _ _

theorem State.hedgeJobEnd_sameJobs (s : State) (job : Nat) : s.SameJobs (s.hedgeJobEnd job) :=
  s.mapTiles_sameJobs _ (fun _ _ => rfl) (fun _ _ => rfl)

/-- The records of a job that dispatched are held, on every tile or on one. -/
def BindRec.heldFor (h : Nat) (r : BindRec) : BindRec :=
  if r.job == h && r.state == RecState.active then { r with state := RecState.suspended } else r

theorem BindRec.heldFor_not_active {h : Nat} {r : BindRec} (hj : (r.heldFor h).job = h) : (r.heldFor h).state ≠ .active := by
  unfold BindRec.heldFor at hj ⊢
  split
  · exact RecState.noConfusion
  next hn =>
    rw [if_neg hn] at hj
    intro ha
    exact hn (by rw [hj, ha]; simp)

/-- Records held one and all: none of the job's is Active. -/
theorem heldRecs_not_active {h : Nat} {m : FMap BindRec} {r : Nat} {b : BindRec}
    (hb : FMap.get? (FMap.mapVals m (fun _ => BindRec.heldFor h)) r = some b) (hj : b.job = h) : b.state ≠ .active := by
  rw [FMap.get?_mapVals] at hb
  obtain ⟨x, -, rfl⟩ := Option.map_eq_some_iff.mp hb
  exact BindRec.heldFor_not_active hj

/-- The state in which a Cancel starts to end strands: the job completes, and its records are held. -/
theorem State.cancelled_held {s : State} {h : Nat} {j : Job} (hj : s.job? h = some j) (hh : j.handle = h) (hs : j.state = .completing)
    (hc : j.cancelCause = 1) (f : Tile → Tile) (hf : ∀ x, (f x).recs = FMap.mapVals x.recs (fun _ => BindRec.heldFor h)) :
    State.Cancelled h { s with tiles := FMap.mapVals s.tiles (fun _ => f) } := by
  refine ⟨⟨j, hj, hh, hs, hc⟩, fun n r b hb => ?_⟩
  unfold State.tile FMap.getD at hb
  dsimp only at hb
  rw [FMap.get?_mapVals] at hb
  cases ht : FMap.get? s.tiles n with
  | none =>
    rw [ht] at hb
    cases hb
  | some x =>
    rw [ht] at hb
    change FMap.get? (f x).recs r = some b at hb
    rw [hf] at hb
    exact heldRecs_not_active hb

/-- The tile after a Cancel has held its records and dropped its reports of faults. -/
def Tile.cancelledFor (h : Nat) (t : Tile) : Tile :=
  { t with recs := FMap.mapVals t.recs (fun _ => BindRec.heldFor h), taskFaults := t.taskFaults.filter (fun r => r.job != h) }

theorem State.cancelJob_eq {s : State} {j : Job} {h cause : Nat} (hh : j.handle = h) (hs : j.state ≠ .completing) :
    s.cancelJob j cause = (((State.killJob (State.killJob
      { s.putJob { j with state := .completing, cancelCause := cause } with tiles := FMap.mapVals s.tiles (fun _ => Tile.cancelledFor h) }
      h) h).cancelTasks h).hedgeJobEnd h) := by
  subst hh
  exact if_neg (by simpa using hs)

/-- Cancel of a bound job stops it. -/
theorem State.cancelJob_cancelled {s : State} {j : Job} {h : Nat} (hh : j.handle = h) (hs : j.state ≠ .completing) :
    (s.cancelJob j 1).Cancelled h := by
  have h0 : State.Cancelled h { s.putJob { j with state := .completing, cancelCause := 1 } with
      tiles := FMap.mapVals s.tiles (fun _ => Tile.cancelledFor h) } :=
    State.cancelled_held (s := s.putJob { j with state := .completing, cancelCause := 1 }) (j := { j with state := .completing, cancelCause := 1 })
      (State.job?_putJob_of hh) hh rfl rfl _ (fun _ => rfl)
  rw [State.cancelJob_eq hh hs]
  exact (h0.killJob.killJob.keep (State.cancelTasks_sameJobs _ h)).keep (State.hedgeJobEnd_sameJobs _ h)

theorem jobcmdCancel_stops {s : State} {t h : Nat} {j : Job} (hj : s.jobAt t h = some j) (hh : j.handle = h) (hp : j.state ≠ .pending)
    (hc : j.state ≠ .completing) : ∃ u k, Said.Runs (.jobcmdCancel t h) s u ∧ u.job? h = some k ∧ k.state = .completing ∧
      k.cancelCause = 1 ∧ ∀ n r b, FMap.get? (u.tile n).recs r = some b → b.job = h → b.state ≠ .active := by
  obtain ⟨⟨k, hk, -, hs, hcause⟩, hr⟩ := (s.jobcmd t h 0).cancelJob_cancelled hh hc
  exact ⟨_, k, jobcmdCancel_bound hj hp, hk, hs, hcause, hr⟩

/-! ### A tile suspends a job (spec/11 R214, R215, spec/06 R102) -/

theorem State.afresh_keeps (v : Strand) : v.afresh.pc = v.pc ∧ v.afresh.g = v.g ∧ v.afresh.handle = v.handle := by
  obtain ⟨p, w, h⟩ := v.afresh_eq
  rw [h]
  exact ⟨rfl, rfl, rfl⟩

/-- What is said of a strand that its tile was told to suspend. -/
structure Strand.SuspendedFrom (st v : Strand) : Prop where
  handle : v.handle = st.handle
  pc : v.pc = st.pc
  g : v.g = st.g
  stopped : st.status ∈ [Status.queued, .ready, .parked, .evicted, .refused] → v.status = .suspended ∧ v.pcause = 0
  stays : st.status ∈ [Status.trapped, .halted, .inFlight] → v.status = st.status

/-- What a strand that its tile suspends becomes; t is the strand with its image written. -/
def Strand.heldBack (t : Strand) : Strand := { t.afresh with status := .suspended, pcause := 0, parkedFor := 0, bedWait := none }

theorem Strand.heldBack_suspended (st : Strand) (c : Vector RegCtl 24) (hst : st.status ∉ [Status.trapped, .halted, .inFlight]) :
    Strand.SuspendedFrom st (Strand.heldBack { st with ctl := c }) := by
  obtain ⟨p, w, h⟩ := Strand.afresh_eq { st with ctl := c }
  rw [Strand.heldBack, h]
  exact ⟨rfl, rfl, rfl, fun _ => ⟨rfl, rfl⟩, fun hn => absurd hn hst⟩

/-- The strands that are suspended: Queued, Ready, Parked, Evicted and Refused ones that are not urgent. -/
theorem State.suspendStrand_stops {s : State} {st : Strand} (hu : st.urgent = false)
    (hst : st.status ∈ [Status.queued, .ready, .parked, .evicted, .refused]) :
    s.suspendStrand st =
      let w := if st.inSlot then s.writeImg st.colKey st.img else s
      let s1 := (w.withdraw st).putStrand (Strand.heldBack (if st.inSlot then s.storeImage st else st))
      if st.status == .refused then s1 else s1.reserve st.coreKey := by
  have hc : (st.status == .queued || st.status == .ready || st.status == .parked || st.status == .evicted || st.status == .refused) = true := by
    simpa [or_assoc] using hst
  rw [State.suspendStrand, hu, hc]
  rfl

theorem State.suspendStrand_leaves {s : State} {st : Strand} (hst : st.status ∉ [Status.queued, .ready, .parked, .evicted, .refused]) :
    s.suspendStrand st = s := by
  have hc : (st.status == .queued || st.status == .ready || st.status == .parked || st.status == .evicted || st.status == .refused) = false := by
    simpa [and_assoc] using hst
  rw [State.suspendStrand, hc]
  split <;> rfl

theorem State.writeImg_sameJobs (s : State) (key img : Nat) : s.SameJobs (s.writeImg key img) := by
  obtain ⟨l, -, h⟩ := s.writeImg_eq key img
  rw [h]
  exact ⟨rfl, fun _ => rfl, fun _ => rfl, rfl⟩

/-- A tile's order to suspend reaches a strand: it stands as said, and no job and no record changes. -/
theorem State.suspendStrand_spec {s : State} {st : Strand} (hs : s.strand? st.handle = some st) (hu : st.urgent = false) :
    ∃ v, Strand.SuspendedFrom st v ∧ (s.suspendStrand st).strand? st.handle = some v ∧ s.SameJobs (s.suspendStrand st) := by
  by_cases hst : st.status ∈ [Status.queued, .ready, .parked, .evicted, .refused]
  · have hw : s.SameJobs (if st.inSlot then s.writeImg st.colKey st.img else s) := by
      split
      · exact s.writeImg_sameJobs _ _
      · exact .refl s
    obtain ⟨c, hc⟩ : ∃ c, (if st.inSlot then s.storeImage st else st) = { st with ctl := c } := by
      split
      · exact s.storeImage_eq st
      · exact ⟨st.ctl, rfl⟩
    have hv := st.heldBack_suspended c (fun hn => by
      simp only [List.mem_cons, List.not_mem_nil, or_false] at hst hn
      rcases hn with hn | hn | hn <;> rw [hn] at hst <;> simp at hst)
    rw [State.suspendStrand_stops hu hst, hc]
    have hj := (hw.trans (State.withdraw_sameJobs _ st)).trans (u := State.withdraw _ st)
      (v := State.putStrand _ (Strand.heldBack { st with ctl := c })) ⟨rfl, fun _ => rfl, fun _ => rfl, rfl⟩
    refine ⟨_, hv, ?_⟩
    dsimp only
    split
    · exact ⟨State.strand?_putStrand_of hv.handle, hj⟩
    · refine ⟨?_, hj.trans (State.reserve_sameJobs _ _)⟩
      rw [State.strand?, (State.reserve_sameQueues _ _).strands]
      exact State.strand?_putStrand_of hv.handle
  · rw [State.suspendStrand_leaves hst]
    exact ⟨st, ⟨rfl, rfl, rfl, fun h => absurd h hst, fun _ => rfl⟩, hs, .refl s⟩

theorem State.ringSet_strands (s : State) (t n : Nat) (f : RingEntry → RingEntry) : (s.ringSet t n f).strands = s.strands := by
  unfold State.ringSet
  dsimp only
  split
  · split <;> rfl
  · rfl

theorem State.stopMatrix_keeps (s : State) (t : Nat) (x : Task) :
    s.SameJobs (s.stopMatrix t x) ∧ (s.stopMatrix t x).strands = s.strands := by
  refine ⟨?_, State.ringSet_strands _ _ _ _⟩
  refine State.SameJobs.trans ?_ (State.ringSet_sameJobs _ _ _ _)
  refine State.SameJobs.trans (u := s.putEngine _ _) ?_ (State.putTask_sameJobs _ _ _)
  exact ⟨rfl, fun _ => rfl, fun _ => rfl, rfl⟩

/-- A task held or told to stop: no job, no record and no strand changes. -/
theorem State.suspendTask_keeps (s : State) (t : Nat) (x : Task) :
    s.SameJobs (s.suspendTask t x) ∧ (s.suspendTask t x).strands = s.strands := by
  have hput : ∀ y, s.SameJobs (s.putTask t y) ∧ (s.putTask t y).strands = s.strands := fun y => ⟨s.putTask_sameJobs t y, rfl⟩
  unfold State.suspendTask
  split
  · exact hput _
  · exact hput _
  · dsimp only
    split
    · exact ⟨.refl s, rfl⟩
    · split
      · exact hput _
      · split
        · exact s.stopMatrix_keeps t x
        · exact hput _
  · exact ⟨.refl s, rfl⟩

theorem State.suspendTasks_keep (t : Nat) (l : List Task) (s : State) :
    s.SameJobs (l.foldl (fun s x => s.suspendTask t x) s) ∧ (l.foldl (fun s x => s.suspendTask t x) s).strands = s.strands :=
  l.foldlRecOn _ (motive := fun u => s.SameJobs u ∧ u.strands = s.strands) ⟨.refl s, rfl⟩ fun u hu x _ =>
    ⟨hu.1.trans (u.suspendTask_keeps t x).1, (u.suspendTask_keeps t x).2.trans hu.2⟩

/-- The one strand of a state is the one found by its handle. -/
theorem Said.only_strand? {s : State} {st : Strand} (h : Said.only s st) : s.strand? st.handle = some st := by
  rw [State.strand?, h]
  exact if_pos rfl

theorem Said.only_filter {s : State} {st : Strand} (h : Said.only s st) {p : Strand → Bool} (hp : p st = true) :
    (s.strands.map (·.2)).filter p = [st] := by
  rw [h]
  simp [hp]

/-- The clause on SUSPEND_NOTICE. -/
theorem suspendNotice_acts (s : State) (n t h : Nat) (hm : s.msg? n = some (.suspendNote t h)) :
    (s.jobSuspended h = false → Said.Runs (.suspendNotice n) s (s.unsend n)) ∧
    (s.jobSuspended h = true → ∀ st, Said.only s st → st.job = h → st.loc.tile = t → st.urgent = false → ∃ u v k, Said.Runs (.suspendNotice n) s u ∧
      u.strand? st.handle = some v ∧ v.pc = st.pc ∧ v.g = st.g ∧
      (st.status ∈ [.queued, .ready, .parked, .evicted, .refused] → v.status = .suspended ∧ v.pcause = 0) ∧
      (st.status ∈ [.trapped, .halted, .inFlight] → v.status = st.status) ∧ FMap.get? u.msgs k = some (.tileReport t h) ∧
      ∀ r b, FMap.get? (u.tile t).recs r = some b → b.job = h → b.state ≠ .active) := by
  refine ⟨fun hj => ?_, fun hj st ho hjob ht hu => ?_⟩
  · show execSuspendNotice n s = _
    rw [execSuspendNotice, hm]
    exact congrArg _ (if_pos (by rw [hj]; rfl))
  · have hx : exec (.suspendNotice n) s = .next (
        let s1 := (s.unsend n).putTile t { s.tile t with recs := FMap.mapVals (s.tile t).recs (fun _ => BindRec.heldFor h) }
        let s2 := s1.suspendStrand st
        (((s2.tasksOf t).filter (fun y => y.job == h)).foldl (fun s y => s.suspendTask t y) s2).sendFrom t (.tileReport t h)) := by
      show execSuspendNotice n s = _
      rw [execSuspendNotice, hm]
      refine congrArg _ ((if_neg (by rw [hj]; decide)).trans ?_)
      have hf := Said.only_filter ho (p := fun st => st.job == h && st.loc.tile == t) (by rw [hjob, ht]; simp)
      dsimp only
      rw [State.putTile_strands, State.unsend_strands, hf]
      rfl
    generalize hs1 : (s.unsend n).putTile t { s.tile t with recs := FMap.mapVals (s.tile t).recs (fun _ => BindRec.heldFor h) } = s1 at hx
    have ho1 : s1.strand? st.handle = some st := by rw [← hs1]; exact Said.only_strand? ho
    obtain ⟨v, hv, hv2, hk2⟩ := State.suspendStrand_spec ho1 hu
    dsimp only at hx
    generalize s1.suspendStrand st = s2 at hx hv2 hk2
    obtain ⟨hk3, hs3⟩ := State.suspendTasks_keep t ((s2.tasksOf t).filter (fun y => y.job == h)) s2
    generalize ((s2.tasksOf t).filter (fun y => y.job == h)).foldl (fun s y => s.suspendTask t y) s2 = s3 at hx hk3 hs3
    have hsend := State.sendFrom_sameUnits s3 t (.tileReport t h)
    refine ⟨_, v, s3.fresh, hx, ?_, hv.pc, hv.g, hv.stopped, hv.stays, ?_, fun r b hb hbj => ?_⟩
    · rw [State.strand?, hsend.strands, hs3]
      exact hv2
    · rw [State.sendFrom_msgs, FMap.get?_set_self]
    · rw [hsend.sameJobs.recs, hk3.recs, hk2.recs, ← hs1, State.tile_putTile_self] at hb
      exact heldRecs_not_active hb hbj

/-! ### A tile resumes a job (spec/11 R217) -/

/-- A tile's records of a job dispatch again, and its tasks may issue. -/
def State.releaseTile (s : State) (t h : Nat) : State :=
  s.putTile t { s.tile t with
    recs := FMap.mapVals (s.tile t).recs (fun _ (r : BindRec) =>
      if r.job == h && r.state == RecState.suspended then { r with state := RecState.active } else r)
    tasks := FMap.mapVals (s.tile t).tasks (fun _ (y : Task) => if y.job == h then { y with held := false } else y) }

theorem State.releaseTile_strands (s : State) (t h : Nat) : (s.releaseTile t h).strands = s.strands := rfl

/-- A tile with no slot still saved for the job lets it go on. -/
theorem State.resumeTile_eq {s : State} {t h : Nat} (hs : s.tileSaved t h = false) :
    s.resumeTile t h = (((s.releaseTile t h).strands.map (·.2)).filter (fun st => st.job == h && st.loc.tile == t && st.status == .suspended)).foldl
      (fun s st => s.toResume st) (s.releaseTile t h) := if_neg (by rw [hs]; decide)

/-- The clause on RESUME_NOTICE. -/
theorem resumeNotice_acts (s : State) (n t h : Nat) (hm : s.msg? n = some (.resumeNote t h)) (st : Strand) (ho : Said.only s st)
    (hjob : st.job = h) (ht : st.loc.tile = t) (hst : st.status = .suspended) (hu : Said.unsaved s t h) :
    ∃ u v k, Said.Runs (.resumeNotice n) s u ∧ u.strand? st.handle = some v ∧ v.status = .evicted ∧ v.cls = .resumed ∧
      v.pc = st.pc ∧ st.handle ∈ (u.col st.colKey).resume ∧ FMap.get? u.msgs k = some (.tileReport t h) := by
  have hsaved : (s.unsend n).tileSaved t h = false := State.tileSaved_false hu
  have hf := Said.only_filter ho (p := fun st => st.job == h && st.loc.tile == t && st.status == .suspended) (by rw [hjob, ht, hst]; simp)
  have hx : exec (.resumeNotice n) s = .next ((((s.unsend n).releaseTile t h).toResume st).sendFrom t (.tileReport t h)) := by
    show execResumeNotice n s = _
    rw [execResumeNotice, hm]
    dsimp only
    rw [State.resumeTile_eq hsaved, State.releaseTile_strands, State.unsend_strands, hf]
    rfl
  generalize (s.unsend n).releaseTile t h = s1 at hx
  have hsend := State.sendFrom_sameUnits (s1.toResume st) t (.tileReport t h)
  refine ⟨_, { st with status := .evicted, pcause := 0, cls := .resumed, pending := none }, (s1.toResume st).fresh, hx, ?_, rfl, rfl, rfl, ?_, ?_⟩
  · rw [State.strand?, hsend.strands]
    exact State.strand?_putStrand_of (s := s1) rfl
  · rw [State.col, hsend.cols]
    refine (congrArg (fun c : Column => st.handle ∈ c.resume) (State.col_putCol_self _ _ _)).mpr ?_
    exact List.mem_append_right _ (List.mem_singleton_self _)
  · rw [State.sendFrom_msgs, FMap.get?_set_self]

/-! ### Bytes of memory read beside and across a write -/

theorem Memory.bytes_length (m : Memory) (a n : Nat) : (m.bytes a n).length = n := by
  induction n generalizing a with
  | zero => rfl
  | succ n ih => rw [Memory.bytes, List.length_cons, ih]

theorem Memory.bytes_add (m : Memory) (a n k : Nat) : m.bytes a (n + k) = m.bytes a n ++ m.bytes (a + n) k := by
  induction n generalizing a with
  | zero => rw [Nat.zero_add]; rfl
  | succ n ih =>
    rw [Nat.succ_add, Memory.bytes, Memory.bytes, ih, List.cons_append, show a + 1 + n = a + (n + 1) by omega]

theorem leValue_append (l k : List Byte) : leValue (l ++ k) = leValue l + 256 ^ l.length * leValue k := by
  induction l with
  | nil => simp [leValue]
  | cons b l ih =>
    rw [List.cons_append, leValue, leValue, ih, List.length_cons, pow_succ]
    ring

theorem leValue_lt (l : List Byte) : leValue l < 256 ^ l.length := by
  induction l with
  | nil => exact Nat.one_pos
  | cons b l ih =>
    have hb : b.toNat < 256 := b.isLt
    rw [leValue, List.length_cons, pow_succ]
    omega

theorem Memory.read_lt (m : Memory) (a n : Nat) : m.read a n < 256 ^ n := by
  have h := leValue_lt (m.bytes a n)
  rwa [Memory.bytes_length] at h

/-- Bytes clear of a write are as they were. -/
theorem Memory.bytes_putBytes_out {m : Memory} (hm : Memory.wf m = true) {a c n : Nat} {l : List Byte}
    (h : a + n ≤ c ∨ c + l.length ≤ a) : (m.putBytes c l).bytes a n = m.bytes a n := by
  induction n generalizing a with
  | zero => rfl
  | succ n ih =>
    rw [Memory.bytes, Memory.bytes, ih (by omega), Memory.byte_putBytes_out c l hm (by omega)]

/-- A value whose first eight bytes have been written over. -/
theorem Memory.read_write_first {m : Memory} (hm : Memory.wf m = true) (a : Nat) {v : Nat} (hv : v < 2 ^ 64) (k : Nat) :
    (m.write a 8 v).read a (8 + k) = v + 2 ^ 64 * (m.write a 8 v).read (a + 8) k := by
  have hw := Memory.read_write a 8 v hm
  rw [Memory.read] at hw
  rw [Memory.read, Memory.bytes_add, leValue_append, Memory.bytes_length, hw, Nat.mod_eq_of_lt (by omega)]
  rfl

theorem Memory.area_wf {m : Memory} (base len : Nat) (l : List (Nat × List Byte)) (hm : Memory.wf m = true) :
    Memory.wf (m.area base len l) = true :=
  l.foldlRecOn _ (motive := fun m => Memory.wf m = true) (Memory.clear_wf _ _ hm) fun _ hu _ _ => Memory.putBytes_wf _ _ hu

/-! ### The slots of the engines (spec/11 R213 to R217) -/

theorem State.viaBus_sameSlots (s : State) (key off len : Nat) (w : Bool) : s.SameSlots (s.viaBus key off len w) :=
  ⟨⟨rfl, fun _ => rfl, fun _ => rfl, rfl⟩, rfl, rfl⟩

theorem State.slotBus_sameSlots (s : State) (b : Nat) (p : Nat × Nat) (w : Bool) : s.SameSlots (s.slotBus b p w) := by
  unfold State.slotBus
  split
  · exact .refl s
  · exact s.viaBus_sameSlots _ _ _ _

theorem State.heal_sameSlots (s : State) (pa len : Nat) : s.SameSlots (s.heal pa len) := by
  unfold State.heal
  dsimp only
  split <;> exact ⟨⟨rfl, fun _ => rfl, fun _ => rfl, rfl⟩, rfl, rfl⟩

theorem State.logError_sameSlots (s : State) (t src : Nat) (unc : Bool) (pa : Nat) (h : BitVec 64) (tseq : Nat) :
    s.SameSlots (s.logError t src unc pa h tseq) := by
  obtain ⟨_, _, _, _, e⟩ := s.logError_eq t src unc pa h tseq
  rw [e]
  obtain ⟨hj, hr, he, hm⟩ := s.putTile_sameJobs t ((s.tile t).logged src unc pa h tseq) rfl rfl
  exact ⟨⟨hj, hr, he, hm⟩, rfl, rfl⟩

theorem State.slotErr_sameSlots (s : State) (b : Nat) (p : Nat × Nat) : s.SameSlots (s.slotErr b p) := by
  unfold State.slotErr
  dsimp only
  split
  · exact (s.slotBus_sameSlots _ _ _).trans (State.logError_sameSlots _ _ _ _ _ _ _)
  · exact s.slotBus_sameSlots _ _ _

theorem State.slotSpoil_sameSlots (s : State) (t b : Nat) (e : Engine) : s.SameSlots (s.slotSpoil t b e) := by
  unfold State.slotSpoil
  refine State.SameSlots.foldl (fun s x => ?_) _ s
  refine (s.logError_sameSlots t x.2.1 true 0 0 0).trans ?_
  exact ⟨⟨rfl, fun _ => rfl, fun _ => rfl, rfl⟩, rfl, rfl⟩

theorem State.SameJobs.saveSlot {s u : State} (h : s.SameJobs u) (t e : Nat) : u.saveSlot t e = s.saveSlot t e := by
  simp only [State.saveSlot, h.esave]

theorem State.engine_putEngine_self (s : State) (k : Nat) (e : Engine) : (s.putEngine k e).engine k = e := FMap.getD_set_self _ _ _ _

/-- The tiles do not depend on memory: said for any memory, so that no check opens a long write. -/
theorem State.tile_withMem (s : State) (m : Memory) (n : Nat) : State.tile { s with mem := m } n = s.tile n := rfl
theorem State.saveSlot_withMem (s : State) (m : Memory) (t e : Nat) : State.saveSlot { s with mem := m } t e = s.saveSlot t e := rfl

theorem State.tile_putEngine (s : State) (k : Nat) (e : Engine) (n : Nat) : (s.putEngine k e).tile n = s.tile n := rfl

/-- Memory with an engine's image in its slot, all but the record. -/
def Memory.saved (m : Memory) (b : Nat) (y : Engine) : Memory :=
  ((((m.saveBank b y.bank0).saveBank (b + 2 ^ 20) y.bank1).area (b + 0x200000) 0x40000 (y.scale.map (fun c => (c.1, [c.2])))).putBytes
    (b + 0x400000) y.chA).putBytes (b + 0x600000) y.chB

/-- ... and with its record. -/
def Memory.savedFor (m : Memory) (b job : Nat) (y : Engine) : Memory :=
  (m.saved b y).write (b + 0x240000) 16 (saveRecord job y.bank0.fe y.bank1.fe y.chA.length y.chB.length)

section
variable {m : Memory} {y : Engine} (hm : Memory.wf m = true) (b job : Nat)
include hm

theorem Memory.areas_wf : Memory.wf (((m.saveBank b y.bank0).saveBank (b + 2 ^ 20) y.bank1).area (b + 0x200000) 0x40000
    (y.scale.map (fun c => (c.1, [c.2])))) = true :=
  Memory.area_wf _ _ _ (Memory.area_wf _ _ _ (Memory.area_wf _ _ _ hm))

theorem Memory.saved_wf : Memory.wf (m.saved b y) = true := Memory.putBytes_wf _ _ (Memory.putBytes_wf _ _ (Memory.areas_wf hm b))

/-- The channels' bytes stand at their places, clear of the record. -/
theorem Memory.bytes_savedFor_chA (hA : y.chA.length ≤ 2 ^ 21) : (m.savedFor b job y).bytes (b + 0x400000) y.chA.length = y.chA := by
  rw [Memory.savedFor, Memory.write, Memory.bytes_putBytes_out (Memory.saved_wf hm b) (by rw [leBytes_length]; omega), Memory.saved,
    Memory.bytes_putBytes_out (Memory.putBytes_wf _ _ (Memory.areas_wf hm b)) (by omega)]
  exact Memory.bytes_putBytes _ _ (Memory.areas_wf hm b)

theorem Memory.bytes_savedFor_chB : (m.savedFor b job y).bytes (b + 0x600000) y.chB.length = y.chB := by
  rw [Memory.savedFor, Memory.write, Memory.bytes_putBytes_out (Memory.saved_wf hm b) (by rw [leBytes_length]; omega), Memory.saved]
  exact Memory.bytes_putBytes _ _ (Memory.putBytes_wf _ _ (Memory.areas_wf hm b))

theorem Memory.read_savedFor : (m.savedFor b job y).read (b + 0x240000) 16 =
    saveRecord job y.bank0.fe y.bank1.fe y.chA.length y.chB.length % 256 ^ 16 := Memory.read_write _ _ _ (Memory.saved_wf hm b)

end

/-- What a save record says, field by field. -/
theorem saveRecord_fields (job : Nat) (f0 f1 : Bool) {na nb : Nat} (ha : na ≤ 2 ^ 21) (hb : nb ≤ 2 ^ 21) :
    let r := saveRecord job f0 f1 na nb % 256 ^ 16
    r / 2 ^ 64 % 2 ^ 32 = na ∧ r / 2 ^ 96 = nb ∧ (r / 2 ^ 16 % 2 = 1 ↔ f0 = true) ∧ (r / 2 ^ 17 % 2 = 1 ↔ f1 = true) ∧
      r / 2 ^ 63 % 2 = 1 ∧ r % 2 ^ 16 = job % 2 ^ 16 := by
  have hj : job % 2 ^ 16 < 2 ^ 16 := Nat.mod_lt _ (by decide)
  unfold saveRecord
  cases f0 <;> cases f1 <;> simp only [Bool.false_eq_true, ↓reduceIte, iff_true, iff_false] <;> omega

/-- A slot's bytes pass over the bus, and what the engine could not read of its own store is spoilt in them. -/
def State.slotWritten (s : State) (t b : Nat) (y : Engine) : State :=
  ((slotParts y.chA.length y.chB.length).foldl (fun s p => (s.slotBus b p true).heal (b + p.1) p.2) s).slotSpoil t b y

theorem State.slotWritten_sameSlots (s : State) (t b : Nat) (y : Engine) : s.SameSlots (s.slotWritten t b y) :=
  (State.SameSlots.foldl (fun u p => (u.slotBus_sameSlots _ p true).trans (State.heal_sameSlots _ _ _)) _ _).trans
    (State.slotSpoil_sameSlots _ _ _ _)

/-- An engine's store empty and its hold ended; its banks stay. -/
def Engine.released (y : Engine) : Engine :=
  { y with
    bank0 := { y.bank0 with bad := false }, bank1 := { y.bank1 with bad := false }
    chA := [], chB := [], scale := [], badA := false, badB := false, badScale := false, hold := none }

theorem State.saveEngine_eq (s : State) (t e h : Nat) : s.saveEngine t e h =
    (State.slotWritten { s with mem := s.mem.savedFor (s.saveSlot t e) h (s.engine (quadKey t e)) } t (s.saveSlot t e)
      (s.engine (quadKey t e))).putEngine (quadKey t e) (s.engine (quadKey t e)).released := by
  unfold State.saveEngine State.slotWritten Memory.savedFor Memory.saved Engine.released
  rfl

/-- An engine saved: its slot in memory, and the engine cleared and free. -/
theorem State.saveEngine_spec (s : State) (t e h : Nat) :
    (s.saveEngine t e h).mem = s.mem.savedFor (s.saveSlot t e) h (s.engine (quadKey t e)) ∧
    (∀ n, ((s.saveEngine t e h).tile n).esave = (s.tile n).esave) ∧
    let x := (s.saveEngine t e h).engine (quadKey t e)
    x.hold = none ∧ x.chA = [] ∧ x.chB = [] ∧ x.scale = [] := by
  have hk := State.slotWritten_sameSlots { s with mem := s.mem.savedFor (s.saveSlot t e) h (s.engine (quadKey t e)) } t (s.saveSlot t e)
    (s.engine (quadKey t e))
  rw [State.saveEngine_eq, State.engine_putEngine_self]
  refine ⟨(State.putEngine_mem _ _ _).trans hk.mem, fun n => ?_, rfl, rfl, rfl, rfl⟩
  rw [State.tile_putEngine, hk.esave, State.tile_withMem]

theorem engineSaveDone_eq {s : State} {t e h : Nat} {j : Job} (hh : (s.engine (quadKey t e)).hold = some h) (hj : s.job? h = some j)
    (hd : j.handle = h) (hs : j.state = .suspending) (hr : s.saveReady t e h = true) :
    exec (.engineSaveDone t e) s = .next (if s.waitsPhys (s.saveSlot t e) (2 ^ 23) then s else s.saveEngine t e h) := by
  show execEngineSaveDone t e s = _
  rw [execEngineSaveDone, hh]
  simp only [Option.bind_some, hj, hd, hs, hr]
  rfl

/-- The clause on ENGINE_SAVE_DONE. -/
theorem engineSaveDone_acts (s : State) (t e h : Nat) (j : Job) (hh : (s.engine (quadKey t e)).hold = some h) (hj : s.job? h = some j)
    (hd : j.handle = h) (hs : j.state = .suspending) (hr : s.saveReady t e h = true) :
    (s.waitsPhys (s.saveSlot t e) (2 ^ 23) = true → Said.Runs (.engineSaveDone t e) s s) ∧
    (s.waitsPhys (s.saveSlot t e) (2 ^ 23) = false → let y := s.engine (quadKey t e)
    y.chA.length ≤ 2 ^ 21 → y.chB.length ≤ 2 ^ 21 → ∃ u, Said.Runs (.engineSaveDone t e) s u ∧
      let x := u.engine (quadKey t e)
      let r := u.mem.read (s.saveSlot t e + 0x240000) 16
      x.hold = none ∧ x.chA = [] ∧ x.chB = [] ∧ x.scale = [] ∧
      (s.mem.wf = true → u.mem.bytes (s.saveSlot t e + 0x400000) y.chA.length = y.chA ∧ u.mem.bytes (s.saveSlot t e + 0x600000) y.chB.length = y.chB ∧
        r / 2 ^ 64 % 2 ^ 32 = y.chA.length ∧ r / 2 ^ 96 = y.chB.length ∧ (r / 2 ^ 16 % 2 = 1 ↔ y.bank0.fe = true) ∧ (r / 2 ^ 17 % 2 = 1 ↔ y.bank1.fe = true) ∧
        ((s.tile t).esave.toNat / 2 ^ 63 % 2 = 1 → h < 2 ^ 16 → Said.savedIn u t e = some h))) := by
  have hx := engineSaveDone_eq hh hj hd hs hr
  refine ⟨fun hw => hx.trans (congrArg _ (if_pos hw)), fun hw => ?_⟩
  intro y hA hB
  obtain ⟨hmem, hsave, hhold, hchA, hchB, hscale⟩ := s.saveEngine_spec t e h
  refine ⟨_, hx.trans (congrArg _ (if_neg (by rw [hw]; decide))), hhold, hchA, hchB, hscale, fun hm => ?_⟩
  rw [hmem]
  obtain ⟨hna, hnb, hf0, hf1, hvalid, hjob⟩ := saveRecord_fields h y.bank0.fe y.bank1.fe hA hB
  refine ⟨Memory.bytes_savedFor_chA hm _ _ hA, Memory.bytes_savedFor_chB hm _ _, ?_⟩
  rw [Memory.read_savedFor hm]
  refine ⟨hna, hnb, hf0, hf1, fun hen hlt => ?_⟩
  have hslot : (s.saveEngine t e h).saveSlot t e = s.saveSlot t e := by simp only [State.saveSlot, hsave]
  rw [Said.savedIn, hslot, hmem, hsave, Memory.read_savedFor hm, if_pos ⟨hen, hvalid⟩, hjob, Nat.mod_eq_of_lt hlt]

/-- A slot marked invalid is saved for no job. -/
theorem State.dropSlot_spec {s : State} (hm : Memory.wf s.mem = true) (t e : Nat) : Said.savedIn (s.dropSlot t e) t e = none := by
  have hk := State.heal_sameSlots { s with mem := s.mem.write (s.saveSlot t e + 0x240000) 8 (s.recordOf t e % 2 ^ 63) }
    (s.saveSlot t e + 0x240000) 8
  have hmem : (s.dropSlot t e).mem = s.mem.write (s.saveSlot t e + 0x240000) 8 (s.recordOf t e % 2 ^ 63) := hk.mem
  have hslot : (s.dropSlot t e).saveSlot t e = s.saveSlot t e := (hk.toSameJobs.saveSlot t e).trans (s.saveSlot_withMem _ t e)
  have hr := Memory.read_write_first hm (s.saveSlot t e + 0x240000) (v := s.recordOf t e % 2 ^ 63)
    (by have := Nat.mod_lt (s.recordOf t e) (show 0 < 2 ^ 63 by decide); omega) 8
  rw [Said.savedIn, hslot, hmem]
  refine if_neg (fun h => ?_)
  have h2 := h.2
  rw [hr] at h2
  have := Nat.mod_lt (s.recordOf t e) (show 0 < 2 ^ 63 by decide)
  omega

theorem State.dropSlot_strands (s : State) (t e : Nat) : (s.dropSlot t e).strands = s.strands := (State.heal_sameSlots _ _ _).strands

/-- A state in which the same slots are saved. -/
theorem savedIn_congr {s u : State} (hm : u.mem = s.mem) (he : ∀ n, (u.tile n).esave = (s.tile n).esave) (t e : Nat) :
    Said.savedIn u t e = Said.savedIn s t e := by
  have hslot : u.saveSlot t e = s.saveSlot t e := by simp only [State.saveSlot, he]
  rw [Said.savedIn, hslot, hm, he]
  rfl

/-- A tile without strands that lets a job go on: slots and engines stay. -/
theorem State.resumeTile_keeps {s : State} (hs : s.strands = []) (t h : Nat) :
    (s.resumeTile t h).mem = s.mem ∧ (s.resumeTile t h).engines = s.engines ∧ ∀ n, ((s.resumeTile t h).tile n).esave = (s.tile n).esave := by
  cases hsaved : s.tileSaved t h with
  | true => rw [State.resumeTile, hsaved]; exact ⟨rfl, rfl, fun _ => rfl⟩
  | false =>
    have hr : s.resumeTile t h = s.releaseTile t h := by
      rw [State.resumeTile_eq hsaved, State.releaseTile_strands, hs]
      rfl
    rw [hr]
    refine ⟨rfl, rfl, fun n => ?_⟩
    by_cases hn : n = t
    · rw [hn, State.releaseTile, State.tile_putTile_self]
    · rw [State.releaseTile, State.tile_putTile_ne _ _ hn]

/-- Of an engine a refresh of the holds changes its hold at most, and not that of one with bytes in a channel. -/
theorem State.refreshHolds_engine (s : State) (k : Nat) : ∃ x, s.refreshHolds.engine k = { s.engine k with hold := x } ∧
    ((s.engine k).chA ≠ [] ∨ (s.engine k).chB ≠ [] → x = (s.engine k).hold) := by
  unfold State.refreshHolds State.engine FMap.getD
  dsimp only
  rw [FMap.get?_mapVals]
  cases FMap.get? s.engines k with
  | none => exact ⟨none, rfl, fun _ => rfl⟩
  | some e =>
    dsimp only [Option.map_some, Option.getD_some]
    split
    next j hj =>
      split
      next hc =>
        simp only [Bool.and_eq_true, List.isEmpty_iff] at hc
        exact ⟨none, rfl, fun h => absurd hc.1.2 (h.resolve_left (fun hA => hA hc.1.1))⟩
      · exact ⟨e.hold, rfl, fun _ => rfl⟩
    · exact ⟨e.hold, rfl, fun _ => rfl⟩

/-- An engine restored from its slot: what it then holds, and a slot saved for no job. -/
theorem State.restoreEngine_spec {s : State} (hm : Memory.wf s.mem = true) (t e h : Nat) :
    let r := s.mem.read (s.saveSlot t e + 0x240000) 16
    let x := (s.restoreEngine t e h).engine (quadKey t e)
    Said.savedIn (s.restoreEngine t e h) t e = none ∧ (s.restoreEngine t e h).strands = s.strands ∧ x.hold = some h ∧
      x.chA = s.mem.bytes (s.saveSlot t e + 0x400000) (min (r / 2 ^ 64 % 2 ^ 32) (2 ^ 21)) ∧
      x.chB = s.mem.bytes (s.saveSlot t e + 0x600000) (min (r / 2 ^ 96) (2 ^ 21)) ∧
      x.bank0.fe = decide (r / 2 ^ 16 % 2 = 1) ∧ x.bank1.fe = decide (r / 2 ^ 17 % 2 = 1) := by
  intro r x
  have hr : r < 256 ^ 16 := Memory.read_lt _ _ _
  have hnb : bits r 96 32 = r / 2 ^ 96 := Nat.mod_eq_of_lt (by omega)
  have hk := State.SameSlots.foldl (f := fun (u : State) p => u.slotErr (s.saveSlot t e) p) (fun u p => u.slotErr_sameSlots _ p)
    (slotParts (min (bits r 64 32) (2 ^ 21)) (min (bits r 96 32) (2 ^ 21))) s
  have hx : x = _ := State.engine_putEngine_self _ _ _
  refine ⟨?_, ?_, ?_, ?_, ?_, ?_, ?_⟩
  · exact (savedIn_congr (State.putEngine_mem _ _ _) (fun n => congrArg Tile.esave (State.tile_putEngine _ _ _ n)) t e).trans (State.dropSlot_spec (hk.mem.symm ▸ hm) t e)
  · exact (State.putEngine_strands _ _ _).trans ((State.dropSlot_strands _ t e).trans hk.strands)
  all_goals rw [hx]
  · rfl
  · exact congrArg (fun n => s.mem.bytes (s.saveSlot t e + 0x600000) (min n (2 ^ 21))) hnb
  · rfl
  · rfl

theorem engineRestore_eq {s : State} {t e h : Nat} {j : Job} (hs : Said.savedIn s t e = some h) (hj : s.job? h = some j)
    (hd : j.handle = h) (hst : j.state = .resuming) (hn : ∀ kv ∈ s.msgs, kv.2 ≠ .resumeNote t h)
    (hh : (s.engine (quadKey t e)).hold = none) (hr : (s.engine (quadKey t e)).run = none)
    (hdr : (s.engine (quadKey t e)).drain = none) :
    exec (.engineRestore t e) s = .next (if s.waitsPhys (s.saveSlot t e) (2 ^ 23) then s
      else ((s.restoreEngine t e h).resumeTile t h).refreshHolds) := by
  have hmsg : s.msgs.any (fun kv => kv.2 == .resumeNote t h) = false :=
    List.any_eq_false.mpr (fun kv hkv hc => hn kv hkv (beq_iff_eq.mp hc))
  show execEngineRestore t e s = _
  rw [execEngineRestore, State.savedFor_eq, hs]
  simp only [Option.bind_some, hj, hd, hst, hmsg, hh, hr, hdr]
  rfl

/-- The clause on ENGINE_RESTORE. -/
theorem engineRestore_acts (s : State) (t e h : Nat) (j : Job) :
    let x := s.engine (quadKey t e)
    let r := s.mem.read (s.saveSlot t e + 0x240000) 16
    let na := min (r / 2 ^ 64 % 2 ^ 32) (2 ^ 21)
    let nb := min (r / 2 ^ 96) (2 ^ 21)
    s.mem.wf = true → Said.savedIn s t e = some h → s.job? h = some j → j.handle = h → j.state = .resuming → (∀ kv ∈ s.msgs, kv.2 ≠ .resumeNote t h) →
    x.hold = none → x.run = none → x.drain = none → s.strands = [] →
    (s.waitsPhys (s.saveSlot t e) (2 ^ 23) = true → Said.Runs (.engineRestore t e) s s) ∧
    (s.waitsPhys (s.saveSlot t e) (2 ^ 23) = false → ∃ u, Said.Runs (.engineRestore t e) s u ∧ Said.savedIn u t e = none ∧ (0 < na + nb → (u.engine (quadKey t e)).hold = some h) ∧
      (u.engine (quadKey t e)).chA = s.mem.bytes (s.saveSlot t e + 0x400000) na ∧
      (u.engine (quadKey t e)).chB = s.mem.bytes (s.saveSlot t e + 0x600000) nb ∧
      (u.engine (quadKey t e)).bank0.fe = decide (r / 2 ^ 16 % 2 = 1) ∧ (u.engine (quadKey t e)).bank1.fe = decide (r / 2 ^ 17 % 2 = 1)) := by
  intro x r na nb hm hs hj hd hst hn hh hr hdr h0
  have hx := engineRestore_eq hs hj hd hst hn hh hr hdr
  refine ⟨fun hw => hx.trans (congrArg _ (if_pos hw)), fun hw => ⟨_, hx.trans (congrArg _ (if_neg (by rw [hw]; decide))), ?_⟩⟩
  obtain ⟨hsaved, hstr, hhold, hchA, hchB, hf0, hf1⟩ := State.restoreEngine_spec hm t e h
  obtain ⟨hmem, heng, hes⟩ := State.resumeTile_keeps (hstr.trans h0) t h
  have hengine : State.engine ((s.restoreEngine t e h).resumeTile t h) (quadKey t e) = (s.restoreEngine t e h).engine (quadKey t e) := by
    rw [State.engine, heng]
    rfl
  obtain ⟨y, hy, hkeep⟩ := State.refreshHolds_engine ((s.restoreEngine t e h).resumeTile t h) (quadKey t e)
  rw [hengine] at hy hkeep
  rw [hy]
  refine ⟨(savedIn_congr hmem hes t e).trans hsaved, fun hpos => ?_, hchA, hchB, hf0, hf1⟩
  refine (hkeep ?_).trans hhold
  rw [hchA, hchB, ← List.length_pos_iff, ← List.length_pos_iff, Memory.bytes_length, Memory.bytes_length]
  show 0 < na ∨ 0 < nb
  omega

/-- Settles O41: commands by the branches of their steps, a Cancel by what the end of strands and tasks leaves of jobs and records, a slot by the
bytes that stand clear of one another in it. -/
theorem preemptionSuspendsAndResumes : Obligations.PreemptionSuspendsAndResumes := by
  unfold Obligations.PreemptionSuspendsAndResumes
  exact ⟨fun s t h i hi hj => jobcmd_unknown hi hj,
    fun s t h j hj hh => ⟨jobcmdSuspend_notices hj hh, jobcmdSuspend_refused hj, jobcmdResume_notices hj hh, jobcmdResume_refused hj,
      jobcmdCancel_pending hj, jobcmdCancel_stops hj hh⟩,
    suspendNotice_acts, fun s t e h j hh hj hd hs hr => engineSaveDone_acts s t e h j hh hj hd hs hr,
    fun s n t h hm st ho hjob ht hst hu => resumeNotice_acts s n t h hm st ho hjob ht hst hu, engineRestore_acts,
    fun s n t h j hm hj _ => preemptionTileReport_acts s n t h j hm hj,
    fun s t c h a b j hc hj hh => strandCountReport_acts s t c h a b j hc hj hh, lossCountAnswer_acts⟩

end Sys2Proof.Machine
end

section
/-! SUPPORT. O56: what a slot's turn fetches, and the step that runs it (spec/06 R94, R97, spec/13 R260, R268). -/

namespace Sys2Proof.Machine

/-! ### Fetching (spec/13 R260) -/

/-- A fetch passes the checks of its bed where the address is even and the bed executable. -/
theorem checkAt_fetch_passes {va : Word} {h : BedHit} (ha : va.toNat % 2 = 0) (hx : h.bed.ex = true) : checkAt .fetch va 2 h = none := by
  simp [checkAt, ha, Access.permitted, hx, Access.kindOk]

theorem State.fetchParcel_of_parcelAt {s u : State} {st : Strand} {va : Word} {p : Nat} (h : Said.parcelAt s st va p u) :
    s.fetchParcel st va = .parcel p u := by
  obtain ⟨b, hl, ha, hx, hp, hq, rfl⟩ := h
  simp only [State.fetchParcel, hl, checkAt_fetch_passes ha hx, hp, hq]

/-- An address in no bed. -/
theorem State.fetchParcel_miss {s : State} {st : Strand} {va : Word} (h : s.lookup st va = .miss) :
    s.fetchParcel st va = .stop (s.trap st (bedMiss va)) := by
  simp only [State.fetchParcel, h]

theorem State.fetch_of_wordAt {s u : State} {st : Strand} {w : Nat} (h : Said.wordAt s st w u) : s.fetch st = .parcel w u := by
  obtain ⟨p, s1, hp, ⟨h4, rfl, rfl⟩ | ⟨h4, q, hq, rfl⟩⟩ := h
  · simp only [State.fetch, State.fetchParcel_of_parcelAt hp, h4, ↓reduceIte]
  · simp only [State.fetch, State.fetchParcel_of_parcelAt hp, h4, State.fetchParcel_of_parcelAt hq, ↓reduceIte]

/-! ### What is fetched runs (spec/13 R268) -/

theorem runFetched_ins {s : State} {st : Strand} {w : Nat} {i : Instr} (h : (Said.decoded w).ins? = some i) :
    runFetched s st w = exec i { s with cur := some st.handle } := by
  have hd : Said.decoded w = .ok i ∨ (∃ fa fb, Said.decoded w = .fmt fa fb ∧ i = .fmt fa fb) ∨
      ∃ off, Said.decoded w = .jal16 off ∧ i = .jal16 off := by
    cases hw : Said.decoded w with
    | ok j => rw [hw] at h; exact .inl (congrArg _ (Option.some.inj h))
    | fmt fa fb => rw [hw] at h; exact .inr (.inl ⟨fa, fb, rfl, (Option.some.inj h).symm⟩)
    | jal16 off => rw [hw] at h; exact .inr (.inr ⟨off, rfl, (Option.some.inj h).symm⟩)
    | illegal => rw [hw] at h; cases h
    | reserved => rw [hw] at h; cases h
    | short => rw [hw] at h; cases h
  unfold runFetched
  obtain hd | ⟨fa, fb, hd, rfl⟩ | ⟨off, hd, rfl⟩ := hd <;> rw [show decodeFetched w = _ from hd] <;> rfl

theorem runFetched_illegal {s : State} {st : Strand} {w : Nat} (h : Said.decoded w = .illegal) :
    runFetched s st w = .next (s.trap st ⟨1, 0, .ofNat 64 w⟩) := by
  unfold runFetched
  rw [show decodeFetched w = _ from h]
  rfl

theorem runFetched_reserved {s : State} {st : Strand} {w : Nat} (h : Said.decoded w = .reserved) :
    runFetched s st w = .next (s.trap st ⟨2, 0, .ofNat 64 w⟩) := by
  unfold runFetched
  rw [show decodeFetched w = _ from h]
  rfl

/-! ### A slot's turn (spec/06 R94, R97) -/

section
variable {s : State} {t c k : Nat} {st : Strand} (hs : s.slotStrand t c k = some st) (hm : s.mayIssue st = true)
include hs hm

/-- A strand that may issue, and whose cause is clear where it is parked, issues: Ready, with its cause cleared. -/
theorem turn_issues (hc : st.status = .parked → s.causeClear st = true) :
    turn s t c k = match (s.putStrand st.unpark).fetch st.unpark with
      | .stop u => .next u
      | .parcel w u => runFetched u st.unpark w := by
  have hp : (st.status == .parked && !s.causeClear st) = false := by
    cases hq : s.causeClear st with
    | true => simp
    | false => simpa using fun h => absurd (hc h) (by simp [hq])
  simp only [turn, hs, hm, hp, ↓reduceIte, Bool.false_eq_true] <;> rfl

/-- One whose cause is not clear is one rotation older. -/
theorem turn_parked (hp : st.status = .parked) (hc : s.causeClear st = false) :
    turn s t c k = .next (s.putStrand { st with parkedFor := st.parkedFor + 1 }) := by
  simp [turn, hs, hm, hp, hc, State.recheck]

end

theorem turn_empty {s : State} {t c k : Nat} (h : s.slotStrand t c k = none) : turn s t c k = .next s := by
  simp only [turn, h]

theorem step_issue {s : State} {t c k : Nat} {rest : List Move} (h : s.agenda = .issue t c k :: rest) :
    step s = turn { s with agenda := rest, cur := none } t c k := by
  simp only [step, h]

/-- Settles O56: a turn is a fetch, and then the meaning of what it decodes to. -/
theorem stepRunsDecodedInstruction : Obligations.StepRunsDecodedInstruction := by
  unfold Obligations.StepRunsDecodedInstruction
  refine ⟨fun s u t c k w rest st ha => ?_, fun s e rest ha => ?_, fun s ha => ?_, fun s t c k rest ha => ⟨fun h => ?_, fun st hs hm hp hc => ?_⟩⟩
  · intro s1 v s2 hs hm hc
    have hstep : step s = match s2.fetch v with
      | .stop u => .next u
      | .parcel w u => runFetched u v w := (step_issue ha).trans (turn_issues hs hm hc)
    refine ⟨fun hw => ?_, fun hmiss => ?_⟩
    · have hrun : step s = runFetched u v w := by rw [hstep, State.fetch_of_wordAt hw]
      exact ⟨fun i hi => hrun.trans (runFetched_ins hi), fun hi => hrun.trans (runFetched_illegal hi),
        fun hi => hrun.trans (runFetched_reserved hi)⟩
    · rw [hstep, State.fetch, State.fetchParcel_miss hmiss]
      rfl
  · simp only [step, ha]
  · simp only [step, ha]
  · exact (step_issue ha).trans (turn_empty h)
  · exact (step_issue ha).trans (turn_parked hs hm hp hc)

end Sys2Proof.Machine
end

section
/-! SUPPORT. O4: how the issue of an integer or control instruction ends before the instruction acts (spec/13 R250, R251, R255). -/

namespace Sys2Proof.Machine

/-- This outcome is that of an issue that reads these sources, waits for no destination and passes its limit. -/
def IssuesOn (s : State) (st : Strand) (srcs : List (Nat × Bool)) (o : Out) : Prop :=
  ∃ word len pre body, o = s.issue word len none pre (fun _ => srcs) [] body ∧ pre s st = none

theorem issuesOn_plain {s : State} {st : Strand} {word len : Nat} {srcs : List (Nat × Bool)} {body : Turn → State} :
    IssuesOn s st srcs (s.plain word len srcs body) := by
  unfold State.plain
  exact ⟨_, _, noLimit, _, rfl, rfl⟩

/-- The integer instructions are all of the shapes that read their sources and write one register. -/
theorem issuesOn_of_arith {i : Instr} {t : Strand} {r : Said.Result} (h : Said.arith i t = some r) (s : State) (st : Strand) :
    IssuesOn s st r.srcs (exec i s) := by
  unfold Said.arith at h
  split at h
  all_goals cases h
  all_goals unfold exec
  all_goals simp only [execAdd, execSub, execMul, execMulh, execMulhn, execMadd, execDiv, execRem, execDivn, execRemn, execAddW,
    execSubW, execSllW, execSrlW, execSraW, execAnd, execOr, execXor, execAndn, execSll, execSrl, execSra, execRotl, execMin, execMax,
    execMinn, execMaxn, execSlt, execSltn, execSeq, execSel, execMov, execAddi, execAndi, execOri, execXori, execSlti, execSlli,
    execSrli, execSrai, execRotli, execLi, execLui, execAuipc, execAdd16, execSub16, execAnd16, execOr16, execXor16, execMov16,
    execSll16, execSrl16, execAddW16, execSubW16, execAndn16, execSra16, execMul16, execSlt16, execSltn16, execSeq16, execMin16,
    execMax16, execMinn16, execMaxn16, execRotl16, execMulh16, execMulhn16, execAddi16, execAndi16, execLi16, execSlli16, execSrli16,
    execSrai16, State.op0, State.op1, State.op2, State.op3, State.opHa]
  all_goals exact issuesOn_plain

/-- A bit field of at most 64 bits passes the limit. -/
theorem bfLimit_passes {p k : BitVec 6} (h : p.toNat + k.toNat < 64) (word : Nat) (s : State) (st : Strand) : bfLimit word p k s st = none :=
  if_neg (by omega)

theorem issuesOn_of_bitwise {i : Instr} {t : Strand} {r : Said.Result} (h : Said.bitwise i t = some r) (s : State) (st : Strand) :
    IssuesOn s st r.srcs (exec i s) := by
  unfold Said.bitwise at h
  split at h
  all_goals unfold exec
  all_goals simp only [execClz, execCtz, execPopc, execBrev, execBswap, execSextB, execSextH, execSextW, execZextB, execZextH,
    execZextW, execBfx, execBfxn, execBfi, State.op1]
  case h_12 | h_13 | h_14 =>
    split at h
    next hf => cases h; exact ⟨_, _, _, _, rfl, bfLimit_passes hf _ s st⟩
    next => cases h
  all_goals cases h
  all_goals exact issuesOn_plain

theorem issuesOn_of_transfer {i : Instr} {t : Strand} {x : Said.Transfer} (h : Said.transfer i t = some x) (s : State) (st : Strand) :
    IssuesOn s st x.srcs (exec i s) := by
  unfold Said.transfer at h
  split at h
  all_goals cases h
  all_goals unfold exec
  all_goals simp only [execJ, execJal, execJalr, execJ16, execJal16, execBeq, execBne, execBlt, execBge, execBltn, execBgen, execBeqz,
    execBnez, execBeqz16, execBnez16, execLoop, State.branch]
  all_goals exact issuesOn_plain

theorem issuesOn_of_sources {i : Instr} {t : Strand} {srcs : List (Nat × Bool)} (h : Said.sources i t = some srcs) (s : State) (st : Strand) :
    IssuesOn s st srcs (exec i s) := by
  unfold Said.sources at h
  split at h
  next r ha => cases h; exact issuesOn_of_arith ha s st
  next r _ hb => cases h; exact issuesOn_of_bitwise hb s st
  next x _ _ hx => cases h; exact issuesOn_of_transfer hx s st
  · cases h

/-! ### The first register of a kind, where the ones before it are of other kinds -/

section
variable {st : Strand} {l l' : List Nat} {r : Nat}

theorem Strand.firstNot_eq_none (h : ∀ r ∈ l, (st.rc r).st = .full ∨ (st.rc r).st = .cut) : st.firstNot l = none :=
  List.find?_eq_none.mpr fun r hr => by rcases h r hr with e | e <;> rw [e] <;> decide

theorem Strand.firstNot_eq_some (h : ∀ r ∈ l, (st.rc r).st = .full ∨ (st.rc r).st = .cut)
    (hr : (st.rc r).st = .empty ∨ (st.rc r).st = .awaiting) : st.firstNot (l ++ r :: l') = some r := by
  have hn := Strand.firstNot_eq_none h
  unfold Strand.firstNot at hn ⊢
  rw [List.find?_append, hn, Option.none_or]
  exact List.find?_cons_of_pos (by rcases hr with e | e <;> rw [e] <;> decide)

theorem Strand.firstCut_eq_none (h : ∀ r ∈ l, (st.rc r).st = .full) : st.firstCut l = none :=
  List.find?_eq_none.mpr fun r hr => by rw [h r hr]; decide

theorem Strand.firstCut_eq_some (h : ∀ r ∈ l, (st.rc r).st = .full) (hr : (st.rc r).st = .cut) : st.firstCut (l ++ r :: l') = some r := by
  have hn := Strand.firstCut_eq_none h
  unfold Strand.firstCut at hn ⊢
  rw [List.find?_append, hn, Option.none_or]
  exact List.find?_cons_of_pos (by rw [hr]; decide)

theorem Strand.firstLoss_eq_some {o : Loss} (h : ∀ r ∈ l, (st.rc r).loss = none) (hr : (st.rc r).loss = some o) :
    st.firstLoss (l ++ r :: l') = some o := by
  have hn : l.filterMap (fun r => (st.rc r).loss) = [] := List.filterMap_eq_nil_iff.mpr h
  unfold Strand.firstLoss
  rw [List.filterMap_append, hn, List.nil_append, List.filterMap_cons, hr, List.head?_cons]

end

/-- An instruction that accepts no prefix, and none pending. -/
theorem prefixTrip_none {st : Strand} (h : st.pp = false) (acc : Accepts) (word : Nat) : prefixTrip acc st word = none := by
  simp [prefixTrip, h]

/-- A park, with the time it has lasted where the strand waits for the same cause again. -/
theorem State.park_eq (s : State) (st : Strand) (cause reg : Nat) :
    s.park st cause reg = s.putStrand { st with
      status := .parked, pcause := cause, preg := reg,
      parkedFor := if st.status = .parked ∧ st.pcause = cause then st.parkedFor else 0 } := by
  simp only [State.park, Bool.and_eq_true, beq_iff_eq]

/-- Settles O4: the checks of an issue come in the order of its operands, each on the first operand that fails it. -/
theorem unreadySourceHoldsIssue : Obligations.UnreadySourceHoldsIssue := by
  unfold Obligations.UnreadySourceHoldsIssue
  intro i s st srcs hsrcs ⟨hcur, hst, hpp⟩
  obtain ⟨word, len, lim, body, hx, hlim⟩ := issuesOn_of_sources hsrcs s st
  have hc : s.cur.bind s.strand? = some st := by rw [hcur, Option.bind_some, hst]
  have hp : prefixTrip none st word = none := prefixTrip_none hpp none word
  have hsplit {pre post : List (Nat × Bool)} {c : Nat × Bool} (h : srcs = pre ++ c :: post) :
      srcs.map (·.1) ++ [] = pre.map (·.1) ++ c.1 :: post.map (·.1) := by rw [h, List.append_nil, List.map_append, List.map_cons]
  rw [hx]
  refine ⟨fun pre post c he hpre hr => ?_, fun hall => ?_⟩
  · have hn : st.firstNot (srcs.map (·.1) ++ []) = some c.1 :=
      hsplit he ▸ Strand.firstNot_eq_some (List.forall_mem_map.mpr hpre) hr
    rw [State.issue_park (srcs := fun _ => srcs) hc hp hlim hn, State.park_eq]
  · have hn : st.firstNot (srcs.map (·.1) ++ []) = none :=
      Strand.firstNot_eq_none (by rw [List.append_nil]; exact List.forall_mem_map.mpr hall)
    refine ⟨fun pre post c he hpre hr => ?_, fun hfull pre post c o he hpre hr => ?_⟩
    · have hcut : st.firstCut (srcs.map (·.1) ++ []) = some c.1 :=
        hsplit he ▸ Strand.firstCut_eq_some (List.forall_mem_map.mpr hpre) hr
      exact State.issue_cut (srcs := fun _ => srcs) hc hp hlim hn hcut
    · have hcut : st.firstCut (srcs.map (·.1) ++ []) = none :=
        Strand.firstCut_eq_none (by rw [List.append_nil]; exact List.forall_mem_map.mpr hfull)
      have hloss : st.firstLoss (srcs.map (·.1)) = some o :=
        List.append_nil (srcs.map (·.1)) ▸ hsplit he ▸ Strand.firstLoss_eq_some (List.forall_mem_map.mpr hpre) hr
      exact State.issue_loss (srcs := fun _ => srcs) hc hp hlim hn hcut hloss

end Sys2Proof.Machine
end

section
/-! SUPPORT. O5, O6: a strand's registers, read, taken, written and filled (spec/13 R250 to R252, spec/08 R149, R150). -/

namespace Sys2Proof.Machine

/-! ### The control part of a register -/

theorem Strand.rc_eq (st : Strand) {r : Nat} (h : r < 24) : st.rc r = st.ctl[r] := by
  simp [Strand.rc, h]

theorem Strand.rc_setRc (st : Strand) {r k : Nat} (c : RegCtl) (h : r < 24) :
    (st.setRc k c).rc r = if k = r then c else st.rc r := by
  rw [Strand.rc_eq _ h, Strand.rc_eq _ h]
  exact Vector.getElem_setIfInBounds h

theorem Strand.rc_setRc_self (st : Strand) {r : Nat} (c : RegCtl) (h : r < 24) : (st.setRc r c).rc r = c := by
  rw [Strand.rc_setRc st c h, if_pos rfl]

/-- The control part of a register that is taken. -/
def Strand.vacated (st : Strand) (r : Nat) : RegCtl :=
  { st.rc r with st := (if (st.attached r).isSome then .cut else .empty), acq := none, loss := none }

theorem Strand.vacate_eq (st : Strand) (r : Nat) : st.vacate r = st.setRc r (st.vacated r) := rfl

/-- To take a register twice is to take it once. -/
theorem Strand.vacated_vacate (st : Strand) (k : Nat) {r : Nat} (h : r < 24) :
    (st.vacate k).vacated r = st.vacated r := by
  rw [Strand.vacate_eq, Strand.vacated, Strand.rc_setRc st _ h]
  by_cases hk : k = r
  · subst hk
    rw [if_pos rfl]
    rfl
  · rw [if_neg hk]
    rfl

/-- Takes in a row: each register taken is vacated, and nothing else of the strand changes. -/
theorem Strand.foldl_vacate (st : Strand) (l : List (Nat × Bool)) : ∃ ctl : Vector RegCtl 24,
    l.foldl (fun t c => t.vacate c.1) st = { st with ctl := ctl } ∧
    ∀ r, (hr : r < 24) → ctl[r] = if r ∈ l.map (·.1) then st.vacated r else st.rc r := by
  induction l generalizing st with
  | nil => exact ⟨st.ctl, rfl, fun r hr => (st.rc_eq hr).symm⟩
  | cons c l ih =>
    obtain ⟨ctl, he, hr⟩ := ih (st.vacate c.1)
    refine ⟨ctl, he, fun r h => ?_⟩
    rw [hr r h, Strand.vacated_vacate st c.1 h, Strand.vacate_eq, Strand.rc_setRc st _ h]
    by_cases hc : c.1 = r
    · simp [hc]
    · simp [hc, Ne.symm hc]

theorem takenSourceBecomesEmptyOrCut : Said.takenSourceBecomesEmptyOrCut := by
  intro s st srcs hacq _
  obtain ⟨ctl, he, hr⟩ := st.foldl_vacate (srcs.filter (·.2))
  refine ⟨ctl, by rw [State.readSources_none s st srcs hacq, he], fun r h => ?_⟩
  have hm : r ∈ (srcs.filter (·.2)).map (·.1) ↔ (r, true) ∈ srcs := by simp
  rw [hr r h]
  simp only [hm]
  rfl

/-! ### An acquire that a register carries -/

/-- The buffers that an acquire empties. -/
theorem State.dropLines_core (s : State) (k : Nat) : ((s.dropLines k).core k).lineBuf = [] ∧ ((s.dropLines k).core k).instrBuf = [] := by
  unfold State.dropLines
  rw [State.core_putCore_self]
  exact ⟨rfl, rfl⟩

theorem State.dropRake_col (s : State) (k : Nat) : ((s.dropRake k).col k).rakeBuf = [] := by
  unfold State.dropRake
  rw [State.col_putCol_self]

/-- What an acquire below the wrap of AG does. -/
theorem State.acquire_below {s : State} {st : Strand} {n : Nat} (hn : 2 ≤ n) (hag : (s.tile st.loc.tile).ag + 1 < 65536) :
    ∃ u, s.acquire st n = (u, st.setSg ((s.tile st.loc.tile).ag + 1)) ∧
      (u.tile st.loc.tile).ag = (s.tile st.loc.tile).ag + 1 ∧
      (u.core st.coreKey).lineBuf = [] ∧ (u.core st.coreKey).instrBuf = [] ∧ (4 ≤ n → (u.col st.colKey).rakeBuf = []) ∧
      u.mem = s.mem ∧ u.strands = s.strands := by
  obtain ⟨v, hv⟩ : ∃ v, v = (s.bumpAg st.loc.tile).dropLines st.coreKey := ⟨_, rfl⟩
  have hb := State.bumpAg_below hag
  have htile : (v.tile st.loc.tile).ag = (s.tile st.loc.tile).ag + 1 := by
    rw [hv, hb]
    exact congrArg Tile.ag (s.tile_putTile_self _ _)
  obtain ⟨hl, hi⟩ : (v.core st.coreKey).lineBuf = [] ∧ (v.core st.coreKey).instrBuf = [] := hv ▸ State.dropLines_core _ _
  have hmem : v.mem = s.mem := by rw [hv, hb]; rfl
  have hstr : v.strands = s.strands := by rw [hv, hb]; rfl
  rw [State.acquire, if_neg (by omega), ← hv]
  by_cases h4 : n < 4
  · refine ⟨v, ?_, htile, hl, hi, fun h => absurd h4 (by omega), hmem, hstr⟩
    simp only [h4, ↓reduceIte, htile]
  · have htile' : ((v.dropRake st.colKey).tile st.loc.tile).ag = (s.tile st.loc.tile).ag + 1 := htile
    refine ⟨v.dropRake st.colKey, ?_, htile', hl, hi, fun _ => v.dropRake_col _, hmem, hstr⟩
    simp only [h4, ↓reduceIte, htile']

/-- One register read, and not taken. -/
theorem State.readSources_one {s : State} {st : Strand} {r : Nat} {sc : BitVec 4} (h : (st.rc r).acq = some sc) :
    s.readSources st [(r, false)] =
      ((s.acquire st sc.toNat).1, (s.acquire st sc.toNat).2.setRc r { (s.acquire st sc.toNat).2.rc r with acq := none }) := by
  simp only [State.readSources, List.map_cons, List.map_nil, List.foldl_cons, List.foldl_nil, State.readAcquire, h, List.filter_cons,
    List.filter_nil, Bool.false_eq_true, ↓reduceIte]

/-- What SG's write leaves of a strand. -/
theorem Strand.setSg_keeps (st : Strand) {v : Nat} (hv : v < 65536) : ∃ t, st.setSg v = t ∧
    t.sg = v ∧ (∀ r, t.rc r = st.rc r) ∧ t.g = st.g ∧ t.w = st.w ∧ t.pc = st.pc :=
  ⟨_, rfl, Strand.setSg_sg hv, fun r => by simp only [Strand.rc, Strand.setSg_ctl], Strand.setSg_g _ _, Strand.setSg_w _ _,
    Strand.setSg_pc _ _⟩

theorem firstReadPerformsAcquire : Said.firstReadPerformsAcquire := by
  intro s st r sc hr hacq hsc hag
  obtain ⟨u, hu, htile, hl, hi, hrake, hmem, hstr⟩ := State.acquire_below hsc hag
  obtain ⟨t, ht, hsg, hrc, hg, hw, hpc⟩ := st.setSg_keeps hag
  rw [State.readSources_one hacq, hu, ht, hrc]
  exact ⟨htile, hsg, hl, hi, hrake, Strand.rc_setRc_self _ _ hr, hg, hw, hpc, hmem, hstr⟩

/-- Settles O5: a read takes its registers one by one; the acquire of the one it reads first comes before the register's mark goes. -/
theorem readsTakeAndAcquire : Obligations.ReadsTakeAndAcquire := by
  unfold Obligations.ReadsTakeAndAcquire
  exact ⟨takenSourceBecomesEmptyOrCut, firstReadPerformsAcquire⟩

/-! ### Writes and fills -/

theorem registerWriteMakesFull : Said.registerWriteMakesFull := by
  have hctl (st : Strand) (k : Nat) (r : Nat) (hr : r < 24) :
      (st.ctl.setIfInBounds k (st.rc k).full)[r] =
        if r = k then { st.rc r with st := .full, acq := none, loss := none, par := false } else st.rc r := by
    rw [Vector.getElem_setIfInBounds hr, ← Strand.rc_eq st hr]
    by_cases h : k = r
    · subst h
      rw [if_pos rfl, if_pos rfl]
      rfl
    · rw [if_neg h, if_neg (Ne.symm h)]
  refine ⟨fun st d v => ⟨_, _, rfl, fun r hr => ?_, hctl st d.toNat⟩, fun st d v => ⟨_, _, rfl, fun r hr => ?_, hctl st (wcode d)⟩⟩
  · simp only [Vector.getElem_setIfInBounds hr, eq_comm]
  · simp only [Vector.getElem_setIfInBounds hr, eq_comm]

theorem Strand.rc_setG (st : Strand) (d : GReg) (v : Word) : (st.setG d v).rc d.toNat = (st.rc d.toNat).full := by
  have h : d.toNat < 24 := by omega
  rw [Strand.rc_eq _ h]
  exact Vector.getElem_setIfInBounds_self h

theorem Strand.gv_setG (st : Strand) (d : GReg) (v : Word) : (st.setG d v).gv d = v :=
  Vector.getElem_setIfInBounds_self d.isLt

/-- A fill that completes a g register. -/
theorem Strand.takeFill_latest {st : Strand} {r : GReg} {tag v : Nat} {acq : Option (BitVec 4)} {loss : Option Loss}
    (hst : (st.rc r.toNat).st = .awaiting) (htag : (st.rc r.toNat).tag = tag) :
    st.takeFill r.toNat tag v acq loss =
      ((st.setRc r.toNat { st.rc r.toNat with owed := (st.rc r.toNat).owed - 1 }).setG r (.ofNat 64 v)).setRc r.toNat
        { st.rc r.toNat with st := .full, owed := (st.rc r.toNat).owed - 1, acq := acq, loss := loss, par := false } := by
  have hr : r.toNat < 24 := by omega
  have hcode (t : Strand) : t.setCode r.toNat v = t.setG r (.ofNat 64 v) := by
    rw [Strand.setCode, if_pos r.isLt, BitVec.ofNat_toNat, BitVec.setWidth_eq]
  simp only [Strand.takeFill, hst, htag, beq_self_eq_true, Bool.and_self, ↓reduceIte, hcode, Strand.rc_setG,
    Strand.rc_setRc_self _ _ hr, RegCtl.full]

/-- Any other fill only counts. -/
theorem Strand.takeFill_other {st : Strand} {r tag v : Nat} {acq : Option (BitVec 4)} {loss : Option Loss}
    (h : (st.rc r).st ≠ .awaiting ∨ (st.rc r).tag ≠ tag) :
    st.takeFill r tag v acq loss = st.setRc r { st.rc r with owed := (st.rc r).owed - 1 } := by
  have hn : ((st.rc r).st == .awaiting && (st.rc r).tag == tag) = false := by
    rcases h with h | h <;> simp [h]
  simp only [Strand.takeFill, hn, Bool.false_eq_true, ↓reduceIte]

theorem fillCompletesOnlyLatestOwner : Said.fillCompletesOnlyLatestOwner := by
  refine ⟨fun st r tag v hst htag => ?_, fun st r tag v a l hr h => ?_⟩
  · have hr : r.toNat < 24 := by omega
    rw [Strand.takeFill_latest hst htag, Strand.rc_setRc_self _ _ hr]
    exact ⟨Strand.gv_setG .., rfl, rfl⟩
  · rw [Strand.takeFill_other h]
    exact ⟨rfl, rfl, Strand.rc_setRc_self _ _ hr⟩

/-- Settles O6: a write sets one entry of two vectors; a fill compares its tag with the register's. -/
theorem writesAndFillsMakeFull : Obligations.WritesAndFillsMakeFull := by
  unfold Obligations.WritesAndFillsMakeFull
  exact ⟨registerWriteMakesFull, fillCompletesOnlyLatestOwner⟩

end Sys2Proof.Machine
end

section
/-! SUPPORT. O17, O20: what an access issues with, the checks it passes, and where it goes when its home is another column (spec/16 R317,
R319, R322, R327, spec/06 R103, R104, R109). -/

namespace Sys2Proof.Machine

/-! ### The issue of an access -/

/-- An instruction whose sources, and the destinations it waits for, are ready: its body runs. -/
theorem State.issue_armed {s : State} {st : Strand} {word len : Nat} {srcs : List (Nat × Bool)} {waits : List Nat}
    {body : Turn → State} (hi : Said.IssuesAnyhow s st) (hr : Said.Ready st (srcs.map (·.1)))
    (hw : ∀ r ∈ waits, (st.rc r).st = .full) :
    s.issue word len none noLimit (fun _ => srcs) waits body =
      .next (body ⟨s, st, (s.readSources st srcs).1, (s.readSources st srcs).2, len⟩) := by
  obtain ⟨hc, hs, hp⟩ := hi
  obtain ⟨hx, hr⟩ := hr
  have hfull : ∀ r ∈ srcs.map (·.1) ++ waits, (st.rc r).st = .full := fun r h =>
    (List.mem_append.mp h).elim (fun h => (hr r h).1) (hw r)
  have hloss := (Strand.first_none (fun r h => ⟨(hr r h).1, (hr r h).2.1⟩)).2.2
  exact State.issue_body (srcs := fun _ => srcs) (by rw [hc, Option.bind_some, hs]) (prefixTrip_none hp none word) rfl
    (Strand.firstNot_eq_none fun r h => .inl (hfull r h)) (Strand.firstCut_eq_none hfull) hloss
    (Strand.parityAt_none hx fun r h => (hr r h).2.2)

/-- The turn of an access, after its reads. -/
def turnOf (s : State) (st : Strand) (a : Said.Access) : Turn := ⟨s, st, (Said.after s st a).1, (Said.after s st a).2, a.len⟩

/-- The model's sign extension of a field is that of its bits. -/
theorem sextW_eq_signExtend {n : Nat} (v : BitVec n) : sextW v.toNat n = v.signExtend 64 := by
  have hm : v.toNat % 2 ^ n = v.toNat := Nat.mod_eq_of_lt v.isLt
  rw [BitVec.signExtend, BitVec.toInt_eq_toNat_cond, sextW, hm]
  obtain _ | n := n
  · have h0 : v.toNat = 0 := by have := v.isLt; omega
    simp [h0]
  · have h2 : 2 ^ (n + 1) = 2 * 2 ^ n := by rw [Nat.pow_succ, Nat.mul_comm]
    rw [Nat.add_sub_cancel, h2]
    by_cases h : v.toNat < 2 ^ n
    · rw [if_pos h, if_pos (by omega), BitVec.ofInt_natCast]
    · rw [if_neg h, if_neg (by omega)]

theorem Turn.ea_eq (x : Turn) (base : GSrc) (imm : BitVec 9) (scale : Nat) : x.ea base imm scale = Said.ea x.o base imm scale := by
  rw [Turn.ea, Said.ea, sextW_eq_signExtend]

/-- The 16-bit forms' effective address. -/
theorem ea16_eq (t : Strand) (base : GReg) (off : BitVec 3) : t.gv base + .ofNat 64 (8 * off.toNat) = Said.ea16 t base off := by
  have h : (BitVec.ofNat 64 (8 * off.toNat) : Word) = off.zeroExtend 64 * 8 := by
    apply BitVec.eq_of_toNat_eq
    have := off.isLt
    simp only [BitVec.toNat_ofNat, BitVec.toNat_mul, BitVec.toNat_setWidth, show (8 : BitVec 64).toNat = 8 from rfl]
    omega
  rw [Said.ea16, h]

/-- Extension from w bits, as the model computes it, is the extension of a bit vector. -/
theorem extend_true_eq {w size : Nat} (hw : w = 8 * size) (h64 : w ≤ 64) (v : Nat) :
    extend true size v = ((BitVec.ofNat w v).signExtend 64).toNat := by
  have hle : 2 ^ w ≤ 2 ^ 64 := Nat.pow_le_pow_right (by decide) h64
  have hlt : v % 2 ^ w < 2 ^ w := Nat.mod_lt _ (Nat.two_pow_pos w)
  rw [BitVec.toNat_signExtend, BitVec.toNat_setWidth_of_le h64, BitVec.msb_eq_decide, BitVec.toNat_ofNat, extend, ← hw]
  simp only [Bool.true_and, decide_eq_true_eq]
  by_cases h : 2 ^ (w - 1) ≤ v % 2 ^ w
  · rw [if_pos h, if_pos h, Nat.mod_eq_of_lt (by omega)]
    omega
  · rw [if_neg h, if_neg h, Nat.add_zero]

/-- What a load of 1, 2, 4, 8 or 32 bytes puts into its register, extended as a bit vector. -/
theorem loadValue_eq_loaded {size : Nat} (hs : size ∈ [1, 2, 4, 8, 32]) (signed : Bool) (v : Nat) :
    loadValue signed size v = Said.loaded signed size v := by
  unfold loadValue Said.loaded
  by_cases h32 : size = 32
  · rw [if_pos h32, if_pos h32]
  rw [if_neg h32, if_neg h32]
  cases signed with
  | false => simp only [extend, Bool.false_and, Bool.false_eq_true, ↓reduceIte]
  | true =>
    have hsize : size ≤ 8 := by
      simp only [List.mem_cons, List.not_mem_nil, or_false] at hs
      omega
    rw [if_pos rfl]
    exact extend_true_eq rfl (by omega) v

theorem pow_sz_mem (sz : BitVec 2) : 2 ^ sz.toNat ∈ [1, 2, 4, 8, 32] := by
  revert sz
  decide

/-! ### The instructions of the tables (spec/16 R319, R322, R325, R327) -/

section
variable {i : Instr} {s : State} {st : Strand} {a : Said.Access}

/-- A load is its table's access, with these checks, into this register. -/
theorem exec_load (hl : Said.load i st = some a) (ha : Said.Armed s st a) :
    exec i s = .next ((turnOf s st a).load a.va (Said.destOf i) a.align (Said.signed i) none) ∧
      a.need = Access.load.permitted ∧ a.kinds = Access.load.kindOk ∧ a.align ∈ [1, 2, 4, 8, 32] := by
  obtain ⟨hi, hr, hw⟩ := ha
  unfold Said.load at hl
  split at hl
  case h_1 d b sz imm =>
    cases hl
    refine ⟨?_, rfl, rfl, pow_sz_mem sz⟩
    show execLd d b sz imm s = _
    unfold execLd State.loadOp
    refine (State.issue_armed (srcs := [gsrc b]) hi hr hw).trans ?_
    rw [Turn.ea_eq]
    rfl
  case h_2 d b sz imm =>
    cases hl
    refine ⟨?_, rfl, rfl, pow_sz_mem sz⟩
    show execLdn d b sz imm s = _
    unfold execLdn State.loadOp
    refine (State.issue_armed (srcs := [gsrc b]) hi hr hw).trans ?_
    rw [Turn.ea_eq]
    rfl
  case h_3 d b imm =>
    cases hl
    refine ⟨?_, rfl, rfl, by simp⟩
    show execVld d b imm s = _
    unfold execVld State.loadOp
    refine (State.issue_armed (srcs := [gsrc b]) hi hr hw).trans ?_
    rw [Turn.ea_eq]
    rfl
  case h_4 d b off =>
    cases hl
    refine ⟨?_, rfl, rfl, by simp⟩
    show execLdD16 d b off s = _
    unfold execLdD16 State.loadOp
    refine (State.issue_armed (srcs := [(b.toNat, false)]) hi hr hw).trans ?_
    rw [ea16_eq]
    rfl
  case h_5 => cases hl
/-- An ordered store is its table's access, with these checks and these bytes. -/
theorem exec_store (hl : Said.store i st = some a) (ha : Said.Armed s st a) :
    ∃ c : Access, exec i s = .next ((turnOf s st a).store c a.va (Said.dataOf i st)) ∧
      a.need = c.permitted ∧ a.kinds = c.kindOk ∧ (Said.dataOf i st).length = a.align := by
  obtain ⟨hi, hr, hw⟩ := ha
  unfold Said.store at hl
  split at hl
  case h_1 d b sz imm =>
    cases hl
    refine ⟨.store, ?_, rfl, rfl, leBytes_length _ _⟩
    show execSt d b sz imm s = _
    unfold execSt State.plain
    refine (State.issue_armed (srcs := [gsrc b, gsrc d]) hi hr hw).trans ?_
    rw [Turn.ea_eq]
    rfl
  case h_2 d b imm =>
    cases hl
    refine ⟨.store, ?_, rfl, rfl, leBytes_length _ _⟩
    show execVst d b imm s = _
    unfold execVst State.plain
    refine (State.issue_armed (srcs := [gsrc b, wsrc d]) hi hr hw).trans ?_
    rw [Turn.ea_eq]
    rfl
  case h_3 d b off =>
    cases hl
    refine ⟨.store, ?_, rfl, rfl, leBytes_length _ _⟩
    show execStD16 d b off s = _
    unfold execStD16 State.plain
    refine (State.issue_armed (srcs := [(b.toNat, false), (d.toNat, false)]) hi hr hw).trans ?_
    rw [ea16_eq]
    rfl
  case h_4 d b sz imm =>
    cases hl
    refine ⟨.stm, ?_, rfl, rfl, leBytes_length _ _⟩
    show execSto d b sz imm s = _
    unfold execSto State.plain
    refine (State.issue_armed (srcs := [gsrc b, gsrc d]) hi hr hw).trans ?_
    rw [Turn.ea_eq]
    rfl
  case h_5 => cases hl

/-- The atomics of two operands, by the function they write. -/
theorem State.amoOp_armed {d b : GSrc} {imm : BitVec 9} {word : Nat} {f : Word → Word → Word}
    (hl : Said.atomicAt st d b imm = some a) (ha : Said.Armed s st a) :
    s.amoOp word d b imm f = .next ((turnOf s st a).amo a.va d.reg (fun old => some (f (.ofNat 64 old) (st.gv d.reg)).toNat)) := by
  obtain ⟨hi, hr, hw⟩ := ha
  cases hl
  unfold State.amoOp State.plain
  refine (State.issue_armed (srcs := [gsrc b, gsrc d]) hi hr hw).trans ?_
  rw [Turn.ea_eq]
  rfl

theorem aluMin_eq (x y : Word) : aluMin x y = if x.toInt ≤ y.toInt then x else y := by
  unfold aluMin
  by_cases h : y.toInt < x.toInt
  · rw [if_pos h, if_neg (not_le.mpr h)]
  · rw [if_neg h, if_pos (not_lt.mp h)]

theorem aluMax_eq (x y : Word) : aluMax x y = if x.toInt ≤ y.toInt then y else x := by
  unfold aluMax
  rcases lt_trichotomy x.toInt y.toInt with h | h | h
  · rw [if_pos h, if_pos h.le]
  · rw [if_neg h.not_lt, if_pos h.le, BitVec.eq_of_toInt_eq h]
  · rw [if_neg h.not_gt, if_neg (not_le.mpr h)]

theorem aluMinn_eq (x y : Word) : aluMinn x y = if x.toNat ≤ y.toNat then x else y := by
  unfold aluMinn
  by_cases h : y.toNat < x.toNat
  · rw [if_pos h, if_neg (not_le.mpr h)]
  · rw [if_neg h, if_pos (not_lt.mp h)]

theorem aluMaxn_eq (x y : Word) : aluMaxn x y = if x.toNat ≤ y.toNat then y else x := by
  unfold aluMaxn
  rcases lt_trichotomy x.toNat y.toNat with h | h | h
  · rw [if_pos h, if_pos h.le]
  · rw [if_neg h.not_lt, if_pos h.le, BitVec.eq_of_toNat_eq h]
  · rw [if_neg h.not_gt, if_neg (not_le.mpr h)]

/-- This outcome is that of an atomic through the access, into this register, writing what f gives. -/
def IsAtomic (s : State) (st : Strand) (a : Said.Access) (r : GReg) (f : Word → Option Word) (o : Out) : Prop :=
  ∃ g : Nat → Option Nat, o = .next ((turnOf s st a).amo a.va r g) ∧ (∀ v < 2 ^ 64, g v = (f (.ofNat 64 v)).map BitVec.toNat) ∧
    a.need = Access.atomic.permitted ∧ a.kinds = Access.atomic.kindOk ∧ a.align = 8

theorem State.amoOp_isAtomic {word : Nat} {d b : GSrc} {imm : BitVec 9} {g h : Word → Word → Word} {r : GReg} {f : Word → Option Word}
    (hg : ∀ x y, g x y = h x y)
    (hl : (Said.atomicAt st d b imm).map (fun a => (a, d.reg, fun old => some (h old (st.gv d.reg)))) = some (a, r, f))
    (ha : Said.Armed s st a) : IsAtomic s st a r f (s.amoOp word d b imm g) := by
  obtain ⟨c, hc, he⟩ := Option.map_eq_some_iff.mp hl
  cases he
  refine ⟨_, State.amoOp_armed hc ha, fun v _ => by rw [hg]; rfl, ?_⟩
  cases hc
  exact ⟨rfl, rfl, rfl⟩

/-- An atomic is its table's access, with what its row writes. -/
theorem exec_atomic {r : GReg} {f : Word → Option Word} (hl : Said.atomic i st = some (a, r, f)) (ha : Said.Armed s st a) :
    IsAtomic s st a r f (exec i s) := by
  unfold Said.atomic at hl
  split at hl
  case h_1 d b imm =>
    show IsAtomic s st a r f (execAmoadd d b imm s)
    exact State.amoOp_isAtomic (fun _ _ => rfl) hl ha
  case h_2 d b imm =>
    show IsAtomic s st a r f (execAmoand d b imm s)
    exact State.amoOp_isAtomic (fun _ _ => rfl) hl ha
  case h_3 d b imm =>
    show IsAtomic s st a r f (execAmoor d b imm s)
    exact State.amoOp_isAtomic (fun _ _ => rfl) hl ha
  case h_4 d b imm =>
    show IsAtomic s st a r f (execAmoxor d b imm s)
    exact State.amoOp_isAtomic (fun _ _ => rfl) hl ha
  case h_5 d b imm =>
    show IsAtomic s st a r f (execAmomin d b imm s)
    exact State.amoOp_isAtomic (aluMin_eq) hl ha
  case h_6 d b imm =>
    show IsAtomic s st a r f (execAmomax d b imm s)
    exact State.amoOp_isAtomic (aluMax_eq) hl ha
  case h_7 d b imm =>
    show IsAtomic s st a r f (execAmominn d b imm s)
    exact State.amoOp_isAtomic (aluMinn_eq) hl ha
  case h_8 d b imm =>
    show IsAtomic s st a r f (execAmomaxn d b imm s)
    exact State.amoOp_isAtomic (aluMaxn_eq) hl ha
  case h_9 d b imm =>
    show IsAtomic s st a r f (execAmoswp d b imm s)
    exact State.amoOp_isAtomic (fun _ _ => rfl) hl ha
  case h_10 d b imm =>
    obtain ⟨c, hc, he⟩ := Option.map_eq_some_iff.mp hl
    cases he
    cases hc
    obtain ⟨hi, hr, hw⟩ := ha
    refine ⟨fun old => if old = (st.xv 0).toNat then some (st.gv d.reg).toNat else none, ?_, fun v hv => ?_, rfl, rfl, rfl⟩
    · show execAmocas d b imm s = _
      unfold execAmocas State.plain
      refine (State.issue_armed (srcs := [gsrc b, gsrc d]) hi hr hw).trans ?_
      rw [Turn.ea_eq]
      rfl
    · have hx : v = (st.xv 0).toNat ↔ BitVec.ofNat 64 v = st.x[0] := by
        rw [Strand.xv_zero, ← BitVec.toNat_inj, BitVec.toNat_ofNat, Nat.mod_eq_of_lt hv]
      beta_reduce
      by_cases h : v = (st.xv 0).toNat
      · rw [if_pos h, if_pos (hx.mp h)]
        rfl
      · rw [if_neg h, if_neg (mt hx.mpr h)]
        rfl
  case h_11 => cases hl

/-! ### Where an access goes -/

/-- The checks of R122 for an access of a table pass. -/
theorem checkAt_of_passes {h : BedHit} {c : Access} (hp : Said.Passes s st a h) (hn : a.need = c.permitted)
    (hk : a.kinds = c.kindOk) : checkAt c a.va a.align h = none := by
  obtain ⟨-, -, hal, hne, hki⟩ := hp
  rw [hn] at hne
  rw [hk] at hki
  simp [checkAt, hal, hne, hki]

/-- The bed is found after the reads as before them. -/
theorem lookup_turnOf {h : BedHit} (hh : s.lookup st a.va = .hit h) : (turnOf s st a).s.lookup (turnOf s st a).o a.va = .hit h :=
  (SameLookup.lookup_eq (t := st) (v := st) ⟨(s.readSources_sameLookup st a.srcs).1, SameAccess.refl st⟩ _).trans hh

/-- The target of an access whose home is a column. -/
theorem target_turnOf {h : BedHit} {key hoff : Nat} (hh : Said.homeOf st a h = some (key, hoff)) :
    (Said.found s st a h).target (Said.after s st a).2 h a.va = .column key h.index hoff h.bed.kind (Said.spills s st h) := by
  have ht : s.target st h a.va = .column key h.index hoff h.bed.kind (Said.spills s st h) := by
    have hh' : h.bed.home (a.va.toNat - h.bed.base) st.loc.tile = some (key, hoff) := hh
    simp only [State.target, State.targetBed, Said.spills, hh']
    cases s.tableFor st <;> rfl
  rw [← ht]
  exact (s.readSources_sameLookup st a.srcs).target_eq h a.va

end

section
variable {x : Turn} {va : Word} {h : BedHit} {g : Target} {key : Nat}

theorem Turn.leave_departs {b : Strand} (hm : x.s0.mayDepart x.o = true) :
    x.leave h b g key va = (x.s0.touchBed x.o h).depart b key g.cva va := if_pos hm
theorem Turn.leave_waits {b : Strand} (hm : x.s0.mayDepart x.o = false) : x.leave h b g key va = x.s0.park x.o 2 0 := by
  unfold Turn.leave
  rw [hm]
  rfl

/-! ### An access that may be performed from afar (spec/06 R103, R109) -/

section
variable {remote : State → Strand → State}

theorem Turn.away_pinned (hp : x.o.pinned = true) : x.away h g key va remote = remote x.s x.t.countWin.bounceStay := if_pos hp
theorem Turn.away_pins (hp : x.o.pinned = false) (hm : (x.o.countWin.bounceTo .plain x.o.colKey key).2 = false) :
    x.away h g key va remote = remote x.s { x.t with bounce := (x.o.countWin.bounceTo .plain x.o.colKey key).1.bounce } := by
  simp only [Turn.away, hp, hm, Bool.false_eq_true, ↓reduceIte]
theorem Turn.away_leaves (hp : x.o.pinned = false) (hm : (x.o.countWin.bounceTo .plain x.o.colKey key).2 = true) :
    x.away h g key va remote = x.leave h (x.o.countWin.bounceTo .plain x.o.colKey key).1 g key va := by
  simp only [Turn.away, hp, hm, Bool.false_eq_true, ↓reduceIte]

end

/-! ### Loads, stores and atomics of another column -/

section
variable {bed hoff reg size : Nat} {kind : BedKind} {spill signed : Bool}

section
variable (hl : x.s.lookup x.o va = .hit h) (hc : checkAt .load va size h = none)
  (hg : (x.s.touchBed x.t h).target x.t h va = .column key bed hoff kind spill) (hk : key ≠ x.o.colKey)
include hl hc hg hk

theorem Turn.load_held {p : Nat} {l : List Nat} (hd : x.o.ldaq = p :: l) :
    x.load va reg size signed none = x.s0.parkLdaq x.o p := by
  rw [Turn.load, Turn.access_passes hl hc]
  simp only [hg, hk, ↓reduceIte, Turn.unheld, hd]

theorem Turn.load_rakeHit (hd : x.o.ldaq = []) {v : Nat}
    (hv : ((x.s.touchBed x.t h).scrubRake x.t va.toNat).rakeHit x.t va.toNat size = some v) :
    x.load va reg size signed none = x.doneCounted ((x.s.touchBed x.t h).scrubRake x.t va.toNat)
      (x.t.countWin.bounceStay.setCode reg (loadValue signed size v)) := by
  rw [Turn.load, Turn.access_passes hl hc]
  simp only [hg, hk, ↓reduceIte, Turn.unheld, hd, hv]

theorem Turn.load_away (hd : x.o.ldaq = [])
    (hv : ((x.s.touchBed x.t h).scrubRake x.t va.toNat).rakeHit x.t va.toNat size = none) :
    x.load va reg size signed none = x.away h (.column key bed hoff kind spill) key va (fun _ t =>
      x.readFar ((x.s.touchBed x.t h).scrubRake x.t va.toNat) t (.column key bed hoff kind spill) va reg size signed none) := by
  rw [Turn.load, Turn.access_passes hl hc]
  simp only [hg, hk, ↓reduceIte, Turn.unheld, hd, hv]

end

theorem Turn.store_away {c : Access} {data : List Byte} (hl : x.s.lookup x.o va = .hit h) (hc : checkAt c va data.length h = none)
    (hg : (x.s.touchBed x.t h).target x.t h va = .column key bed hoff kind spill) (hk : key ≠ x.o.colKey) :
    x.store c va data = x.away h (.column key bed hoff kind spill) key va (fun _ t =>
      (x.doneCounted (x.s.touchBed x.t h) t).post t va (.column key bed hoff kind spill) data) := by
  rw [Turn.store, Turn.access_passes hl hc]
  simp only [hg, hk, ↓reduceIte]

theorem Turn.amo_leaves {d : GReg} {f : Nat → Option Nat} (hl : x.s.lookup x.o va = .hit h) (hc : checkAt .atomic va 8 h = none)
    (hg : (x.s.touchBed x.t h).target x.t h va = .column key bed hoff kind spill) (hk : key ≠ x.o.colKey) :
    x.amo va d f = x.leave h (x.o.countWin.bounceTo .atomic x.o.colKey key).1 (.column key bed hoff kind spill) key va := by
  rw [Turn.amo, Turn.access_passes hl hc]
  simp only [hg, hk, ↓reduceIte]

end
end

/-- The end of an access, with the PC after it. -/
theorem doneCounted_turnOf {s : State} {st : Strand} {a : Said.Access} {u : State} {t : Strand} (h : t.pc = st.pc) :
    (turnOf s st a).doneCounted u t = u.putStrand (t.finished (Said.next st a)) := by
  unfold Turn.doneCounted Said.next
  rw [h]
  rfl

/-- R109's updates write BOUNCE alone. -/
theorem Strand.countWin_eq (t : Strand) : ∃ b, t.countWin = { t with bounce := b } := by
  unfold Strand.countWin
  split
  · exact ⟨t.bounce, rfl⟩
  · exact ⟨_, rfl⟩

theorem Strand.bounceStay_eq (t : Strand) : ∃ b, t.bounceStay = { t with bounce := b } := by
  unfold Strand.bounceStay Strand.setPinLeft
  split
  · exact ⟨_, rfl⟩
  · exact ⟨t.bounce, rfl⟩

theorem Strand.stays_pc (t : Strand) : t.countWin.bounceStay.pc = t.pc := by
  obtain ⟨b, hb⟩ := t.countWin.bounceStay_eq
  obtain ⟨c, hc⟩ := t.countWin_eq
  rw [hb, hc]

theorem Strand.setCode_pc (t : Strand) (r v : Nat) : (t.setCode r v).pc = t.pc := by
  unfold Strand.setCode
  split
  · exact Strand.setG_pc _ _ _
  · exact Strand.setW_pc _ _ _

theorem loadElsewhere : Said.loadElsewhere := by
  intro i s st a h key hoff hload hp hh hk
  obtain ⟨he, hn, hki, hsz⟩ := exec_load hload hp.1
  have hc := checkAt_of_passes hp hn hki
  have hl := lookup_turnOf (a := a) hp.2.1
  have hg := target_turnOf (s := s) hh
  have hpc : (Said.after s st a).2.pc = st.pc := State.readSources_pc s st a.srcs
  have hstay : (Said.after s st a).2.countWin.bounceStay.pc = st.pc := (Strand.stays_pc _).trans hpc
  -- a strand that stays asks for the read
  have hfar (u : State) (t : Strand) (ht : t.pc = st.pc) (g : Target) :
      (turnOf s st a).readFar u t g a.va (Said.destOf i) a.align (Said.signed i) none =
        (u.putStrand ((t.await (Said.destOf i) u.fresh).finished (Said.next st a))).requestRead t a.va g (Said.destOf i) u.fresh a.align
          (Said.signed i) none := by
    simp only [Turn.readFar, Option.isSome_none, Bool.false_eq_true, ↓reduceIte]
    rw [doneCounted_turnOf (by rw [Strand.await_pc, ht])]
  rw [he]
  refine ⟨fun p l hd => congrArg _ (Turn.load_held hl hc hg hk hd), fun hd => ⟨fun v hv => congrArg _ ?_, fun hv => ?_⟩⟩
  · refine (Turn.load_rakeHit hl hc hg hk hd hv).trans ?_
    rw [doneCounted_turnOf (by rw [Strand.setCode_pc]; exact hstay), loadValue_eq_loaded hsz]
    rfl
  · rw [Turn.load_away hl hc hg hk hd hv]
    refine ⟨fun hpin => congrArg _ ?_, fun hpin hm => congrArg _ ?_, fun hpin hm hd => congrArg _ ?_, fun hpin hm hd => congrArg _ ?_⟩
    · exact (Turn.away_pinned (x := turnOf s st a) hpin).trans (hfar _ _ hstay _)
    · exact (Turn.away_pins (x := turnOf s st a) hpin hm).trans (hfar _
        { (Said.after s st a).2 with bounce := (st.countWin.bounceTo .plain st.colKey key).1.bounce } hpc _)
    · exact (Turn.away_leaves (x := turnOf s st a) hpin hm).trans (Turn.leave_departs hd)
    · exact (Turn.away_leaves (x := turnOf s st a) hpin hm).trans (Turn.leave_waits hd)

theorem storeElsewhere : Said.storeElsewhere := by
  intro i s st a h key hoff hstore hp hh hk
  obtain ⟨c, he, hn, hki, hlen⟩ := exec_store hstore hp.1
  have hc : checkAt c a.va (Said.dataOf i st).length h = none := by rw [hlen]; exact checkAt_of_passes hp hn hki
  have hl := lookup_turnOf (a := a) hp.2.1
  have hg := target_turnOf (s := s) hh
  have hpc : (Said.after s st a).2.pc = st.pc := State.readSources_pc s st a.srcs
  have hstay : (Said.after s st a).2.countWin.bounceStay.pc = st.pc := (Strand.stays_pc _).trans hpc
  -- a strand that stays posts its bytes
  have hpost (u : State) (t : Strand) (ht : t.pc = st.pc) (g : Target) :
      ((turnOf s st a).doneCounted u t).post t a.va g (Said.dataOf i st) =
        (u.putStrand (t.finished (Said.next st a))).post t a.va g (Said.dataOf i st) := by rw [doneCounted_turnOf ht]
  rw [he, Turn.store_away hl hc hg hk]
  refine ⟨fun hpin => congrArg _ ?_, fun hpin hm => congrArg _ ?_, fun hpin hm hd => congrArg _ ?_, fun hpin hm hd => congrArg _ ?_⟩
  · exact (Turn.away_pinned (x := turnOf s st a) hpin).trans (hpost _ _ hstay _)
  · exact (Turn.away_pins (x := turnOf s st a) hpin hm).trans (hpost _
        { (Said.after s st a).2 with bounce := (st.countWin.bounceTo .plain st.colKey key).1.bounce } hpc _)
  · exact (Turn.away_leaves (x := turnOf s st a) hpin hm).trans (Turn.leave_departs hd)
  · exact (Turn.away_leaves (x := turnOf s st a) hpin hm).trans (Turn.leave_waits hd)

/-- Settles O17: an ordered access of another column by its checks, and then by what pins the strand or lets it leave. -/
theorem accessElsewhereMovesStrand : Obligations.AccessElsewhereMovesStrand := by
  unfold Obligations.AccessElsewhereMovesStrand
  exact ⟨loadElsewhere, storeElsewhere⟩

end Sys2Proof.Machine
end

section
/-! SUPPORT. O20: an atomic's one event at its home (spec/16 R327, spec/07 R122, R135). -/

namespace Sys2Proof.Machine

theorem State.noMeaning_lt (s : State) (n : Nat) : s.noMeaning n < 256 ^ n := by
  have h := leValue_lt ((List.range n).map (fun i => Config.freeByte (s.fresh * 64 + i)))
  rwa [List.length_map, List.length_range] at h

/-- A read of 8 bytes at a home gives a word. -/
theorem State.homeRead_lt {s u : State} {key bed hoff acc v : Nat} {kind : BedKind} {spill : Bool} {asid : BitVec 12} {w : Party}
    {off : Option Nat} (h : s.homeRead key bed hoff kind spill asid 8 acc w = (u, .ok v off)) : v < 2 ^ 64 := by
  have h256 : (256 : Nat) ^ 8 = 2 ^ 64 := by norm_num
  have hread (m : Memory) (k : Nat) : m.read k 8 < 2 ^ 64 := h256 ▸ m.read_lt k 8
  have hfree (z : State) : z.noMeaning 8 < 2 ^ 64 := h256 ▸ z.noMeaning_lt 8
  unfold State.homeRead at h
  split at h
  · dsimp only at h
    split at h
    · cases h
    · split at h
      · cases h
      · obtain ⟨rfl, -⟩ := HomeRes.ok.inj (Prod.mk.inj h).2
        exact hread _ _
  · split at h
    · cases h
    · dsimp only at h
      split at h
      · cases h
      · cases h
      · split at h
        · obtain ⟨rfl, -⟩ := HomeRes.ok.inj (Prod.mk.inj h).2
          exact hfree _
        · obtain ⟨rfl, -⟩ := HomeRes.ok.inj (Prod.mk.inj h).2
          exact hread _ _

/-- What an atomic writes matters only for words that it can read. -/
theorem State.homeRmw_congr {s : State} {key bed hoff : Nat} {kind : BedKind} {spill : Bool} {asid : BitVec 12} {w : Party}
    {f g : Nat → Option Nat} (h : ∀ v < 2 ^ 64, f v = g v) :
    s.homeRmw key bed hoff kind spill asid f w = s.homeRmw key bed hoff kind spill asid g w := by
  unfold State.homeRmw
  rcases hr : s.homeRead key bed hoff kind spill asid 8 1 w with ⟨u, ⟨v, off⟩ | ⟨c, g4⟩⟩
  · have hv := h v (State.homeRead_lt hr)
    split
    · simp only [hv]
    · cases off with
      | none => rfl
      | some o => simp only [hv]
  · rfl

section
variable {x : Turn} {va : Word} {h : BedHit} {bed hoff : Nat} {kind : BedKind} {spill : Bool} {d : GReg} {f : Nat → Option Nat}
  (hl : x.s.lookup x.o va = .hit h) (hc : checkAt .atomic va 8 h = none)
  (hg : (x.s.touchBed x.t h).target x.t h va = .column x.o.colKey bed hoff kind spill)
include hl hc hg

/-- The access waits at the home's port. -/
theorem Turn.amo_port (hw : (x.s.touchBed x.t h).waitsHome x.o.colKey bed hoff kind x.t.asid 8 1 = true) : x.amo va d f = x.s0 := by
  rw [Turn.amo, Turn.access_passes hl hc]
  simp only [hg, hw, ↓reduceIte]

theorem Turn.amo_ok {u : State} {v : Nat} {off : Option Nat}
    (hw : (x.s.touchBed x.t h).waitsHome x.o.colKey bed hoff kind x.t.asid 8 1 = false)
    (hr : (x.s.touchBed x.t h).homeRmw x.o.colKey bed hoff kind spill x.t.asid f x.t.party = (u, .ok v off)) :
    x.amo va d f = x.done (u.dropLine x.t va.toNat) (x.t.setG d (.ofNat 64 v)) := by
  rw [Turn.amo, Turn.access_passes hl hc]
  simp only [hg, hw, hr, Bool.false_eq_true, ↓reduceIte]

theorem Turn.amo_trip {u : State} {c g4 : Nat}
    (hw : (x.s.touchBed x.t h).waitsHome x.o.colKey bed hoff kind x.t.asid 8 1 = false)
    (hr : (x.s.touchBed x.t h).homeRmw x.o.colKey bed hoff kind spill x.t.asid f x.t.party = (u, .trip c g4)) :
    x.amo va d f = x.trapHome u c g4 va := by
  rw [Turn.amo, Turn.access_passes hl hc]
  simp only [hg, hw, hr, Bool.false_eq_true, ↓reduceIte]

end

/-- The reads leave who makes the access. -/
theorem State.readSources_party (s : State) (t : Strand) (srcs : List (Nat × Bool)) : (s.readSources t srcs).2.party = t.party := by
  unfold Strand.party
  rw [State.readSources_loc, State.readSources_handle]

/-- Settles O20: the event at the home by what its read and its write answer; elsewhere an atomic leaves whatever pins its strand. -/
theorem atomicReadsAndWritesAtHome : Obligations.AtomicReadsAndWritesAtHome := by
  unfold Obligations.AtomicReadsAndWritesAtHome
  intro i s st a d f h key hoff hatomic hp hh
  obtain ⟨g, he, hgf, hn, hki, hal⟩ := exec_atomic hatomic hp.1
  have hc : checkAt .atomic a.va 8 h = none := hal ▸ checkAt_of_passes hp hn hki
  have hl := lookup_turnOf (a := a) hp.2.1
  have hg := target_turnOf (s := s) hh
  have hasid : (turnOf s st a).t.asid = st.asid := State.readSources_asid s st a.srcs
  have hparty : (turnOf s st a).t.party = st.party := State.readSources_party s st a.srcs
  have hpc (v : Word) : ((turnOf s st a).t.setG d v).pc = st.pc := State.readSources_pc s st a.srcs
  rw [he]
  refine ⟨fun hk hw => congrArg _ ?_, fun hk hw u res hr => ?_, fun hk hm => congrArg _ ?_, fun hk hm => congrArg _ ?_⟩
  · subst hk
    exact Turn.amo_port (x := turnOf s st a) hl hc hg (hasid ▸ hw)
  · subst hk
    have hw' : ((turnOf s st a).s.touchBed (turnOf s st a).t h).waitsHome (turnOf s st a).o.colKey h.index hoff h.bed.kind
        (turnOf s st a).t.asid 8 1 = false := hasid ▸ hw
    have hr' : ((turnOf s st a).s.touchBed (turnOf s st a).t h).homeRmw (turnOf s st a).o.colKey h.index hoff h.bed.kind
        (Said.spills s st h) (turnOf s st a).t.asid g (turnOf s st a).t.party = (u, res) := by
      rw [State.homeRmw_congr hgf, hasid, hparty]
      exact hr
    refine ⟨fun v off hres => congrArg _ ?_, fun c g4 hres => congrArg _ ?_⟩
    · refine (Turn.amo_ok hl hc hg hw' (hres ▸ hr')).trans ?_
      unfold Turn.done
      rw [hpc]
      rfl
    · exact Turn.amo_trip hl hc hg hw' (hres ▸ hr')
  · exact (Turn.amo_leaves (x := turnOf s st a) hl hc hg hk).trans (Turn.leave_departs hm)
  · exact (Turn.amo_leaves (x := turnOf s st a) hl hc hg hk).trans (Turn.leave_waits hm)

end Sys2Proof.Machine
end

section
/-! SUPPORT. O27: what a prefetch and the reads of an instruction leave as they were, and the instructions of migration control (spec/16 R334
to R337, spec/06 R103, R104, R109). -/

namespace Sys2Proof.Machine

/-! ### Steps that neither store, send nor move a strand -/

/-- Memory, SRAM, messages and strands are as they were. -/
structure State.Quiet (s u : State) : Prop where
  mem : u.mem = s.mem
  sram : u.sram = s.sram
  msgs : u.msgs = s.msgs
  strands : u.strands = s.strands

theorem State.Quiet.refl (s : State) : s.Quiet s := ⟨rfl, rfl, rfl, rfl⟩
theorem State.Quiet.trans {s u v : State} (h : s.Quiet u) (g : u.Quiet v) : s.Quiet v :=
  ⟨g.mem.trans h.mem, g.sram.trans h.sram, g.msgs.trans h.msgs, g.strands.trans h.strands⟩
theorem State.quiet_foldl {β : Type} {f : State → β → State} (h : ∀ (s : State) b, s.Quiet (f s b)) (l : List β) (s : State) :
    s.Quiet (l.foldl f s) :=
  l.foldlRecOn f (motive := s.Quiet) (.refl s) fun b hb a _ => hb.trans (h b a)

theorem State.viaBus_quiet (s : State) (key off len : Nat) (write : Bool) : s.Quiet (s.viaBus key off len write) :=
  ⟨rfl, rfl, rfl, rfl⟩

theorem State.fillTlb_quiet (s : State) (key : Nat) (e : TlbEntry) : s.Quiet (s.fillTlb key e) := by
  simp only [State.fillTlb]
  split <;> exact ⟨rfl, rfl, rfl, rfl⟩

theorem State.logError_quiet (s : State) (t src : Nat) (unc : Bool) (pa : Nat) (h : BitVec 64) (tseq : Nat) :
    s.Quiet (s.logError t src unc pa h tseq) := by
  obtain ⟨_, _, _, _, e⟩ := s.logError_eq t src unc pa h tseq
  rw [e]
  exact ⟨rfl, rfl, rfl, rfl⟩

theorem State.tableEntry_quiet (s : State) (key off : Nat) : s.Quiet (s.tableEntry key off).1 := by
  simp only [State.tableEntry]
  split <;> exact s.viaBus_quiet key off 8 false

theorem State.walkFrom_quiet (key : Nat) (asid : BitVec 12) (cva n l base : Nat) (s : State) :
    s.Quiet (s.walkFrom key asid cva n l base).1 := by
  induction n generalizing s l base with
  | zero => exact .refl s
  | succ n ih =>
    have hread := s.tableEntry_quiet key (base + 8 * levelIndex l cva)
    unfold State.walkFrom
    split
    next u heq => rw [heq] at hread; exact hread
    next u e heq =>
      rw [heq] at hread
      have hnext := hread.trans (ih (l + 1) (bits e 8 24 * 256) u)
      -- every other branch ends the walk at the entry read
      simp only [apply_ite Prod.fst]
      split_ifs <;> assumption

theorem State.walk_quiet (s : State) (key : Nat) (asid : BitVec 12) (cva : Nat) : s.Quiet (s.walk key asid cva).1 := by
  have hread := s.tableEntry_quiet key (0xB7FF8000 + 8 * asid.toNat)
  unfold State.walk
  dsimp only
  split
  next u heq => rw [heq] at hread; exact hread
  next u e heq =>
    rw [heq] at hread
    have hnext := hread.trans (State.walkFrom_quiet key asid cva 4 1 (bits e 8 24 * 256) u)
    simp only [apply_ite Prod.fst]
    split_ifs <;> assumption

theorem State.translateFor_quiet (s : State) (key : Nat) (asid : BitVec 12) (cva acc : Nat) (h : BitVec 64) (tseq : Nat) :
    s.Quiet (s.translateFor key asid cva acc h tseq).1 := by
  have hwalk := s.walk_quiet key asid cva
  unfold State.translateFor
  split
  · exact .refl s
  · split
    next u e heq => rw [heq] at hwalk; exact hwalk.trans (u.fillTlb_quiet key e)
    next u l r heq => rw [heq] at hwalk; exact hwalk
    next u pa heq => rw [heq] at hwalk; exact hwalk.trans (u.logError_quiet (key / 16) 11 true pa h tseq)

theorem State.prefetch_quiet (s : State) (tile : Nat) (asid : BitVec 12) (g : Target) : s.Quiet (s.prefetch tile asid g) := by
  unfold State.prefetch
  split
  next key bed hoff kind _ =>
    have hx := s.translateFor_quiet key asid (cvaOf bed hoff) 0 0 0
    split
    · exact .refl s
    · split
      next u off heq =>
        rw [show s.translateFor key asid (cvaOf bed hoff) 0 0 0 = _ from heq] at hx
        split
        · exact hx.trans (u.logError_quiet _ _ _ _ _ _)
        · exact hx.trans (u.viaBus_quiet _ _ _ _)
      next u c g4 heq =>
        rw [show s.translateFor key asid (cvaOf bed hoff) 0 0 0 = _ from heq] at hx
        exact hx
  · exact .refl s

theorem State.acquire_quiet (s : State) (st : Strand) (n : Nat) : s.Quiet (s.acquire st n).1 := by
  have hb : s.Quiet (s.bumpAg st.loc.tile) := by
    unfold State.bumpAg
    dsimp only
    split <;> exact ⟨rfl, rfl, rfl, rfl⟩
  have hl : s.Quiet ((s.bumpAg st.loc.tile).dropLines st.coreKey) := ⟨hb.mem, hb.sram, hb.msgs, hb.strands⟩
  unfold State.acquire
  split
  · exact .refl s
  · dsimp only
    split
    · exact hl
    · exact ⟨hl.mem, hl.sram, hl.msgs, hl.strands⟩

theorem State.readSources_quiet (s : State) (st : Strand) (srcs : List (Nat × Bool)) : s.Quiet (s.readSources st srcs).1 := by
  have hone (p : State × Strand) (r : Nat) : p.1.Quiet (State.readAcquire p r).1 := by
    unfold State.readAcquire
    split
    · exact .refl _
    · exact p.1.acquire_quiet p.2 _
  exact (srcs.map (·.1)).foldlRecOn State.readAcquire (motive := fun p => s.Quiet p.1) (show s.Quiet (s, st).1 from .refl s) fun p hp r _ => hp.trans (hone p r)

/-! ### The fields of BOUNCE (spec/06 R108) -/

theorem bits_lt (v o n : Nat) : bits v o n < 2 ^ n := Nat.mod_lt _ (Nat.two_pow_pos n)

theorem bounceOf_fields {p r w a b : Nat} (hp : p < 2 ^ 9) (hr : r < 2 ^ 3) (hw : w < 2 ^ 7) (ha : a < 2 ^ 10) (hb : b < 2 ^ 10) :
    bits (bounceOf p r w a b).toNat 54 9 = p ∧ bits (bounceOf p r w a b).toNat 51 3 = r ∧
      bits (bounceOf p r w a b).toNat 44 7 = w := by
  simp only [bounceOf, bits, BitVec.toNat_ofNat]
  by_cases h : p = 0
  · rw [if_pos h]
    omega
  · rw [if_neg h]
    omega

/-- Counting an issue keeps RUN. -/
theorem Strand.countWin_run (t : Strand) : t.countWin.run = t.run := by
  unfold Strand.countWin
  split
  · rfl
  · exact (bounceOf_fields (bits_lt _ _ _) (bits_lt _ _ _) (by omega) (bits_lt _ _ _) (bits_lt _ _ _)).2.1

/-! ### MIGR, HOME and PREF (spec/16 R334, R335, R337) -/

section
variable {s : State} {st : Strand} {h : BedHit} {a : GSrc}

/-- A strand finds its bed and its home after the reads of its instruction as before them. -/
theorem lookup_afterReads (s : State) (st : Strand) (srcs : List (Nat × Bool)) (va : Word) :
    (s.readSources st srcs).1.lookup st va = s.lookup st va :=
  SameLookup.lookup_eq (t := st) (v := st) ⟨(s.readSources_sameLookup st srcs).1, SameAccess.refl st⟩ va
theorem target_afterReads (s : State) (st : Strand) (srcs : List (Nat × Bool)) (h : BedHit) (va : Word) :
    (s.readSources st srcs).1.target st h va = s.target st h va :=
  SameLookup.target_eq (t := st) (v := st) ⟨(s.readSources_sameLookup st srcs).1, SameAccess.refl st⟩ h va

section
variable {x : Turn} {u : State} {key bed hoff : Nat} {kind : BedKind} {va : Word}

theorem Turn.migrHere_scratch (hs : kind = .scratch) : x.migrHere u key bed hoff kind va = x.done u x.t := by
  subst hs
  rfl

theorem Turn.migrHere_port (hs : kind ≠ .scratch) (hw : u.waitsHome key bed hoff kind x.t.asid 1 0 = true) :
    x.migrHere u key bed hoff kind va = x.s0 := by
  simp only [Turn.migrHere, beq_eq_false_iff_ne.mpr hs, Bool.false_eq_true, ↓reduceIte, hw]

theorem Turn.migrHere_ok {v : State} {o : Nat} (hs : kind ≠ .scratch) (hw : u.waitsHome key bed hoff kind x.t.asid 1 0 = false)
    (hx : u.translateFor key x.t.asid (cvaOf bed hoff) 0 x.t.handle 0 = (v, .ok o)) :
    x.migrHere u key bed hoff kind va = x.done v x.t := by
  simp only [Turn.migrHere, beq_eq_false_iff_ne.mpr hs, Bool.false_eq_true, ↓reduceIte, hw, hx]

theorem Turn.migrHere_trip {v : State} {c g4 : Nat} (hs : kind ≠ .scratch)
    (hw : u.waitsHome key bed hoff kind x.t.asid 1 0 = false)
    (hx : u.translateFor key x.t.asid (cvaOf bed hoff) 0 x.t.handle 0 = (v, .trip c g4)) :
    x.migrHere u key bed hoff kind va = x.trapHome v c g4 va := by
  simp only [Turn.migrHere, beq_eq_false_iff_ne.mpr hs, Bool.false_eq_true, ↓reduceIte, hw, hx]

end

/-- MIGR, its bed found. -/
theorem exec_migr (hi : Said.Issues s st [a.reg.toNat]) (hh : s.lookup st (st.gv a.reg) = .hit h) :
    let r := s.readSources st [Said.g a]
    let x : Turn := ⟨s, st, r.1, r.2, 4⟩
    (∀ key bed hoff kind spill, s.target st h (st.gv a.reg) = .column key bed hoff kind spill →
      (key = st.colKey → exec (.migr a) s = .next (x.migrHere (r.1.touchBed r.2 h) key bed hoff kind (st.gv a.reg))) ∧
      (key ≠ st.colKey → exec (.migr a) s = .next (x.leave h (st.countWin.bounceTo .migr st.colKey key).1
        (.column key bed hoff kind spill) key (st.gv a.reg)))) ∧
    ((s.target st h (st.gv a.reg)).home = none → exec (.migr a) s = .next (x.trapBed h (bedKindTrip (st.gv a.reg) h))) := by
  have hl := (lookup_afterReads s st [gsrc a] (st.gv a.reg)).trans hh
  have ht := target_afterReads s st [gsrc a] h (st.gv a.reg)
  have he : exec (.migr a) s = execMigr a s := rfl
  rw [he]
  unfold execMigr
  rw [State.plain_of_issues (srcs := [gsrc a]) hi]
  refine ⟨fun key bed hoff kind spill hg => ⟨fun hk => congrArg _ ?_, fun hk => congrArg _ ?_⟩, fun hg => congrArg _ ?_⟩
  · simp only [hl, ht, hg, hk, ↓reduceIte]
    rfl
  · simp only [hl, ht, hg, hk, ↓reduceIte]
    rfl
  · simp only [hl, ht]
    split
    next hx => rw [hx] at hg; cases hg
    next => rfl

/-- HOME's code, as words added. -/
theorem homeWord_eq (g : Target) (here : Nat) : homeWord g here =
    match g.home with
    | none => 0x8000000000000000
    | some k => (if k = here then 0x4000000000000000 else 0) + .ofNat 64 k := by
  unfold homeWord
  cases g.home with
  | none => rfl
  | some k =>
    dsimp only
    rw [BitVec.ofNat_add]
    by_cases h : k = here
    · rw [if_pos h, if_pos h]
      rfl
    · rw [if_neg h, if_neg h]
      rfl

theorem exec_home {d : GReg} (hi : Said.Issues s st [a.reg.toNat]) (hh : s.lookup st (st.gv a.reg) = .hit h) :
    let r := s.readSources st [Said.g a]
    exec (.home d a) s = .next ((r.1.touchBed r.2 h).putStrand
      ((r.2.setG d (homeWord (s.target st h (st.gv a.reg)) st.colKey)).completed (st.pc + 4))) := by
  have hl := (lookup_afterReads s st [gsrc a] (st.gv a.reg)).trans hh
  have ht := target_afterReads s st [gsrc a] h (st.gv a.reg)
  have hpc := s.readSources_pc st [gsrc a]
  have he : exec (.home d a) s = execHome d a s := rfl
  rw [he]
  unfold execHome
  rw [State.plain_of_issues (srcs := [gsrc a]) hi]
  simp only [hl, ht, Turn.done, Strand.setG_pc, hpc]
  rfl

/-- PREF completes with a state that has stored, sent and moved nothing. -/
theorem exec_pref (hi : Said.Issues s st [a.reg.toNat]) (hw : s.lookup st (st.gv a.reg) ≠ .wait)
    (hp : ∀ h, s.lookup st (st.gv a.reg) = .hit h →
      (s.readSources st [Said.g a]).1.waitsFor ((s.readSources st [Said.g a]).1.target st h (st.gv a.reg)) st.asid 1 0 = false) :
    ∃ u, s.Quiet u ∧ exec (.pref a) s = .next (u.putStrand ((s.readSources st [Said.g a]).2.completed (st.pc + 4))) := by
  have hr := s.readSources_quiet st [gsrc a]
  have hpc := s.readSources_pc st [gsrc a]
  have hl := lookup_afterReads s st [gsrc a] (st.gv a.reg)
  have he : exec (.pref a) s = execPref a s := rfl
  rw [he]
  unfold execPref
  rw [State.plain_of_issues (srcs := [gsrc a]) hi]
  cases hh : s.lookup st (st.gv a.reg) with
  | miss =>
    refine ⟨_, hr, ?_⟩
    simp only [hl, hh, Turn.done, hpc]
    rfl
  | wait => exact absurd hh hw
  | hit h =>
    have htouch : s.Quiet ((s.readSources st [gsrc a]).1.touchBed (s.readSources st [gsrc a]).2 h) :=
      ⟨hr.mem, hr.sram, hr.msgs, hr.strands⟩
    by_cases hc : (checkAt .rake (st.gv a.reg) 1 h).isSome = true
    · refine ⟨_, htouch, ?_⟩
      simp only [hl, hh, hc, ↓reduceIte, Turn.done, hpc]
      rfl
    · have hp' : (s.readSources st [gsrc a]).1.waitsFor ((s.readSources st [gsrc a]).1.target st h (st.gv a.reg)) st.asid 1 0 = false :=
        hp h hh
      refine ⟨_, htouch.trans (State.prefetch_quiet _ st.loc.tile st.asid ((s.readSources st [gsrc a]).1.target st h (st.gv a.reg))), ?_⟩
      simp only [hl, hh, hc, hp', Bool.false_eq_true, ↓reduceIte, Turn.done, hpc]
      rfl

end

/-! ### PIN and UNPIN (spec/16 R336) -/

/-- An instruction of 4 bytes that writes BOUNCE alone. -/
theorem Strand.finished_bounce_fields (st : Strand) (b : BitVec 64) (pc : BitVec 56) :
    let t := Strand.finished { st with bounce := b } pc
    t.handle = st.handle ∧ t.pinLeft = bits b.toNat 54 9 ∧ t.run = bits b.toNat 51 3 ∧ t.win = bits b.toNat 44 7 ∧ t.pc = pc ∧
      t.g = st.g :=
  ⟨rfl, rfl, rfl, rfl, rfl, rfl⟩

theorem exec_pin {s : State} {st : Strand} (hi : Said.Issues s st []) : ∃ t, exec .pin s = .next (s.putStrand t) ∧
    t.handle = st.handle ∧ t.pinLeft = 511 ∧ t.pc = st.pc + 4 ∧ t.g = st.g ∧ t.run = st.run := by
  obtain ⟨c, hc⟩ := st.countWin_eq
  have hset : st.countWin.setPinLeft 511 =
      { st with bounce := bounceOf 511 st.countWin.run st.countWin.win st.countWin.homeA st.countWin.homeB } := by
    unfold Strand.setPinLeft
    rw [hc]
  obtain ⟨hp, hr, -⟩ := bounceOf_fields (p := 511) (r := st.countWin.run) (w := st.countWin.win) (a := st.countWin.homeA)
    (b := st.countWin.homeB) (by decide) (bits_lt _ _ _) (bits_lt _ _ _) (bits_lt _ _ _) (bits_lt _ _ _)
  have he : exec .pin s = execPin s := rfl
  rw [he]
  unfold execPin
  rw [State.plain_of_issues_nil hi]
  dsimp only [Turn.doneCounted]
  rw [hset]
  generalize bounceOf 511 st.countWin.run st.countWin.win st.countWin.homeA st.countWin.homeB = b at hp hr
  obtain ⟨hh, hp', hr', -, hpc, hg⟩ := st.finished_bounce_fields b (st.pc + 4)
  exact ⟨_, rfl, hh, hp'.trans hp, hpc, hg, (hr'.trans hr).trans st.countWin_run⟩

theorem exec_unpin {s : State} {st : Strand} (hi : Said.Issues s st []) : ∃ t, exec .unpin s = .next (s.putStrand t) ∧
    t.handle = st.handle ∧ t.pinLeft = 0 ∧ t.run = 0 ∧ t.win = 0 ∧ t.pc = st.pc + 4 ∧ t.g = st.g := by
  obtain ⟨hp, hr, hw⟩ := bounceOf_fields (p := 0) (r := 0) (w := 0) (a := st.homeA) (b := st.homeB) (by decide) (by decide)
    (by decide) (bits_lt _ _ _) (bits_lt _ _ _)
  have he : exec .unpin s = execUnpin s := rfl
  rw [he]
  unfold execUnpin
  rw [State.plain_of_issues_nil hi]
  dsimp only [Turn.doneCounted]
  generalize bounceOf 0 0 0 st.homeA st.homeB = b at hp hr hw
  obtain ⟨hh, hp', hr', hw', hpc, hg⟩ := st.finished_bounce_fields b (st.pc + 4)
  exact ⟨_, rfl, hh, hp'.trans hp, hr'.trans hr, hw'.trans hw, hpc, hg⟩

/-- Settles O27: MIGR by the home of its target, PREF by what a prefetch cannot change, PIN and UNPIN by the fields of BOUNCE. -/
theorem migrationControl : Obligations.MigrationControl := by
  unfold Obligations.MigrationControl
  refine ⟨fun a s st h hi hh => ⟨fun key bed hoff kind spill hg => ?_, fun hg => ?_, fun d => ?_⟩, fun a s st hi hl hp => ?_,
    fun s st hi => ⟨exec_pin hi, exec_unpin hi⟩⟩
  · obtain ⟨hhere, haway⟩ := (exec_migr hi hh).1 key bed hoff kind spill hg
    have hasid := s.readSources_asid st [Said.g a]
    have hhandle := s.readSources_handle st [Said.g a]
    have hdone (u : State) : Turn.done ⟨s, st, (s.readSources st [Said.g a]).1, (s.readSources st [Said.g a]).2, 4⟩ u
        (s.readSources st [Said.g a]).2 = u.putStrand ((s.readSources st [Said.g a]).2.completed (st.pc + 4)) := by
      rw [Turn.done, State.readSources_pc]
      rfl
    refine ⟨fun hk hs => (hhere hk).trans (congrArg _ ?_), fun hk hs hw => (hhere hk).trans (congrArg _ ?_), fun hk hs hw u res hx =>
      ⟨fun o hres => (hhere hk).trans (congrArg _ ?_), fun c g4 hres => (hhere hk).trans (congrArg _ ?_)⟩, fun hk hm => ?_,
      fun hk hm => ?_⟩
    · exact (Turn.migrHere_scratch hs).trans (hdone _)
    · exact Turn.migrHere_port hs (hasid.symm ▸ hw)
    · exact (Turn.migrHere_ok hs (hasid.symm ▸ hw) (hasid.symm ▸ hhandle.symm ▸ hres ▸ hx)).trans (hdone u)
    · exact Turn.migrHere_trip hs (hasid.symm ▸ hw) (hasid.symm ▸ hhandle.symm ▸ hres ▸ hx)
    · rw [haway hk, Turn.leave_departs hm, hg]
    · rw [haway hk, Turn.leave_waits hm]
  · exact (exec_migr hi hh).2 hg
  · rw [exec_home hi hh, homeWord_eq] <;> rfl
  · obtain ⟨u, hq, he⟩ := exec_pref hi hl hp
    refine ⟨_, he, hq.mem, hq.sram, hq.msgs, ?_⟩
    have hh : ((s.readSources st [Said.g a]).2.completed (st.pc + 4)).handle = st.handle :=
      (Strand.completed_handle _ _).trans (s.readSources_handle st [Said.g a])
    exact hh ▸ u.strand?_putStrand_self _

end Sys2Proof.Machine
end

section
/-! SUPPORT. O53: what the end of a strand, the creation of a handler and a trap leave and write (spec/11 R205 to R210, spec/06 R96, R114). -/

namespace Sys2Proof.Machine

/-! ### Memory and SRAM, which no trap writes -/

/-- Every byte of device memory and of SRAM is as it was. -/
structure State.SameBytes (s u : State) : Prop where
  mem : u.mem = s.mem
  sram : u.sram = s.sram

theorem State.SameBytes.refl (s : State) : s.SameBytes s := ⟨rfl, rfl⟩
theorem State.SameBytes.trans {s u v : State} (h : s.SameBytes u) (g : u.SameBytes v) : s.SameBytes v :=
  ⟨g.mem.trans h.mem, g.sram.trans h.sram⟩

/-- ... and so are the tiles and the jobs. -/
structure State.SameRecords (s u : State) : Prop extends s.SameBytes u where
  tiles : u.tiles = s.tiles
  jobs : u.jobs = s.jobs

theorem State.SameRecords.refl (s : State) : s.SameRecords s := ⟨.refl s, rfl, rfl⟩
theorem State.SameRecords.trans {s u v : State} (h : s.SameRecords u) (g : u.SameRecords v) : s.SameRecords v :=
  ⟨h.toSameBytes.trans g.toSameBytes, g.tiles.trans h.tiles, g.jobs.trans h.jobs⟩
theorem State.SameRecords.tile {s u : State} (h : s.SameRecords u) (t : Nat) : u.tile t = s.tile t := by
  unfold State.tile
  rw [h.tiles]
theorem State.SameRecords.job? {s u : State} (h : s.SameRecords u) (j : Nat) : u.job? j = s.job? j := by
  unfold State.job?
  rw [h.jobs]

theorem State.sendFrom_sameRecords (s : State) (t : Nat) (m : Msg) : s.SameRecords (s.sendFrom t m) := by
  obtain ⟨tr, h⟩ := s.sendFrom_eq t m
  rw [h]
  exact ⟨⟨rfl, rfl⟩, rfl, rfl⟩

theorem State.reserve_sameRecords (s : State) (k : Nat) : s.SameRecords (s.reserve k) := by
  have hone (u : State) : u.SameRecords (u.reserveOne k) := by
    unfold State.reserveOne
    dsimp only
    split
    · split
      · exact .refl u
      · refine State.SameRecords.trans ?_ (State.sendFrom_sameRecords _ _ _)
        exact ⟨⟨rfl, rfl⟩, rfl, rfl⟩
    · exact .refl u
  exact (List.range 8).foldlRecOn _ (motive := s.SameRecords) (.refl s) fun u hu _ _ => hu.trans (hone u)

theorem State.withdraw_sameRecords (s : State) (st : Strand) : s.SameRecords (s.withdraw st) := by
  unfold State.withdraw
  split
  · exact List.foldlRecOn _ _ (motive := s.SameRecords) ⟨⟨rfl, rfl⟩, rfl, rfl⟩ fun u hu e _ => hu.trans (u.reserve_sameRecords _)
  · exact ⟨⟨rfl, rfl⟩, rfl, rfl⟩

/-- The end of a strand leaves memory, tiles and jobs, and its entry alone goes. -/
theorem State.endStrand_sameRecords (s : State) (st : Strand) : s.SameRecords (s.endStrand st) :=
  ((s.withdraw_sameRecords st).trans (u := s.withdraw st) (v := (s.withdraw st).eraseStrand st.handle) ⟨⟨rfl, rfl⟩, rfl, rfl⟩).trans
    ((State.reserve_sameRecords _ st.coreKey).trans ⟨⟨rfl, rfl⟩, rfl, rfl⟩)

theorem State.endStrand_strands (s : State) (st : Strand) : (s.endStrand st).strands = FMap.erase s.strands st.handle.toNat := by
  have h := (State.reserve_sameQueues ((s.withdraw st).eraseStrand st.handle) st.coreKey).strands
  exact h.trans (congrArg (FMap.erase · st.handle.toNat) (s.withdraw_strands st))

theorem State.recordStatus_sameBytes (s : State) (job code : Nat) : s.SameBytes (s.recordStatus job code) := by
  obtain ⟨js, h⟩ := s.recordStatus_eq job code
  rw [h]
  exact ⟨rfl, rfl⟩

theorem State.acquire_sameBytes (s : State) (st : Strand) (n : Nat) : s.SameBytes (s.acquire st n).1 :=
  ⟨(s.acquire_quiet st n).mem, (s.acquire_quiet st n).sram⟩

theorem State.bornAcquired_sameBytes (s : State) (st : Strand) : s.SameBytes (s.bornAcquired st) :=
  (s.acquire_sameBytes st 7).trans ⟨rfl, rfl⟩

theorem State.writeImg_sameRecords (s : State) (key img : Nat) : s.SameRecords (s.writeImg key img) := by
  obtain ⟨l, -, h⟩ := s.writeImg_eq key img
  rw [h]
  exact ⟨⟨rfl, rfl⟩, rfl, rfl⟩

theorem State.takeImg_sameBytes (s : State) (key img : Nat) : s.SameBytes (s.takeImg key img) :=
  (s.writeImg_sameRecords key img).toSameBytes.trans ⟨rfl, rfl⟩

theorem State.releaseChild_sameBytes (s : State) (p : Strand) (sid : Nat) (target : Word) (home : Option (Nat × Option Nat × BitVec 64))
    (joinw : BitVec 64) (g : List Word) (core : Nat) : s.SameBytes (s.releaseChild p sid target home joinw g core) := by
  have hc (i : Nat) : s.SameBytes ((s.countStrand p.colKey p.job 1 0).takeImg p.colKey i) :=
    State.SameBytes.trans (u := s.countStrand p.colKey p.job 1 0) ⟨rfl, rfl⟩ (State.takeImg_sameBytes _ _ _)
  unfold State.releaseChild
  cases home with
  | none => exact ((hc _).trans (State.bornAcquired_sameBytes _ _)).trans ⟨rfl, rfl⟩
  | some a => exact ((hc _).trans (State.bornAcquired_sameBytes _ _)).trans (State.sendFrom_sameRecords _ _ _).toSameBytes

theorem State.sendDecrement_sameBytes (s : State) (st : Strand) : s.SameBytes (s.sendDecrement st) := by
  unfold State.sendDecrement
  split
  · exact .refl s
  · split
    · exact s.recordStatus_sameBytes _ _
    · split
      · exact s.recordStatus_sameBytes _ _
      · dsimp only
        refine State.SameBytes.trans ?_ (State.sendFrom_sameRecords _ _ _).toSameBytes
        exact ⟨rfl, rfl⟩

theorem State.kill_sameBytes (s : State) (st : Strand) : s.SameBytes (s.kill st) := by
  have ho : s.SameBytes (s.releaseOrphan st) := by
    unfold State.releaseOrphan
    split
    · exact State.releaseChild_sameBytes ..
    · exact .refl s
  exact (ho.trans (State.endStrand_sameRecords _ st).toSameBytes).trans (State.sendDecrement_sameBytes _ st)

theorem State.killTrapped_sameBytes (s : State) (h : BitVec 64) : s.SameBytes (s.killTrapped h) := by
  unfold State.killTrapped
  split
  · split
    · exact s.kill_sameBytes _
    · exact .refl s
  · exact .refl s

theorem State.unhandled_sameBytes (s : State) (v : Strand) (log : Bool) : s.SameBytes (s.unhandled v log) := by
  have h := (s.kill_sameBytes v).trans (State.recordStatus_sameBytes _ v.job 3)
  have hl := State.logError_quiet ((s.kill v).recordStatus v.job 3) v.loc.tile 15 true 0 v.handle 0
  unfold State.unhandled
  dsimp only
  split
  · exact h.trans ⟨hl.mem, hl.sram⟩
  · exact h

theorem State.unhandledSup_sameBytes (s : State) (v : Strand) : s.SameBytes (s.unhandledSup v) := by
  unfold State.unhandledSup
  split
  · exact s.unhandled_sameBytes v true
  · exact (s.unhandled_sameBytes v true).trans (State.killTrapped_sameBytes _ _)

theorem State.createHandler_sameBytes (s : State) (loc : Place) (sup : Bool) (pc : Nat) (g : List Word) (job : Nat) (asid : BitVec 12)
    (flat : Nat) (victim : BitVec 64) (ofTask : Bool) : s.SameBytes (s.createHandler loc sup pc g job asid flat victim ofTask) := by
  have hq (u : State) (k : Nat) (h : BitVec 64) : u.SameBytes (u.enqueueUrgent k h) := ⟨rfl, rfl⟩
  unfold State.createHandler
  refine State.SameBytes.trans ?_ (hq _ _ _)
  refine State.SameBytes.trans ?_ (State.bornAcquired_sameBytes _ _)
  refine State.SameBytes.trans ?_ (State.takeImg_sameBytes _ _ _)
  exact ⟨rfl, rfl⟩

theorem State.supReady_sameBytes (s : State) (t : Nat) : s.SameBytes (s.supReady t) := by
  unfold State.supReady
  split
  · exact .refl s
  · unfold State.fetchSup
    dsimp only
    split
    · exact .refl s
    · exact ⟨rfl, rfl⟩

theorem State.deliver_sameBytes (s : State) (h : BitVec 64) : s.SameBytes (s.deliver h) := by
  unfold State.deliver
  split
  · exact .refl s
  next v _ =>
    have hsup := s.supReady_sameBytes v.loc.tile
    split
    · exact .refl s
    · dsimp only
      split
      · exact ⟨rfl, rfl⟩
      split
      · exact s.unhandledSup_sameBytes v
      split
      · split
        · exact hsup.trans (State.unhandled_sameBytes _ v true)
        split
        · exact (hsup.trans (v := (s.supReady v.loc.tile).putStrand { v with pending := none }) ⟨rfl, rfl⟩).trans
            (State.createHandler_sameBytes ..)
        · exact hsup
      · split
        · exact s.unhandled_sameBytes v false
        split
        · exact s.unhandled_sameBytes v false
        split
        · exact State.SameBytes.trans (u := s.putStrand { v with pending := none }) ⟨rfl, rfl⟩ (State.createHandler_sameBytes ..)
        · exact .refl s

/-- A trap writes neither memory nor SRAM. -/
theorem State.trapAt_sameBytes (s : State) (st : Strand) (t : Trip) (next : BitVec 56) : s.SameBytes (s.trapAt st t next) := by
  unfold State.trapAt
  dsimp only
  refine State.SameBytes.trans ?_ (State.deliver_sameBytes _ _)
  exact (s.writeImg_sameRecords st.colKey st.img).toSameBytes.trans ⟨rfl, rfl⟩

end Sys2Proof.Machine
end

section
/-! SUPPORT. O53: taking a trap: the trapped strand, its handler, and what there is without one (spec/11 R205 to R210, spec/06 R96). -/

namespace Sys2Proof.Machine

/-! ### A strand that ends with nothing left to do -/

/-- An entry that goes may have had any value. -/
theorem FMap.erase_set {α : Type} (m : FMap α) (k : Nat) (x y : α) : FMap.erase (FMap.set m k x) k = FMap.erase (FMap.set m k y) k := by
  induction m with
  | nil => simp [FMap.set, FMap.erase]
  | cons p m ih =>
    obtain ⟨j, v⟩ := p
    by_cases h : k = j
    · simp [FMap.set, FMap.erase, h]
    · by_cases hlt : k < j
      · simp [FMap.set, FMap.erase, h, hlt]
      · simp [FMap.set, FMap.erase, h, hlt, ih]

/-- KILL of a strand without a join word and without a reservation ends it. -/
theorem State.kill_plain {s : State} {v : Strand} (hj : v.joinw = 0) (hp : v.phase = .none) : s.kill v = s.endStrand v := by
  rw [State.kill, State.releaseOrphan, hp]
  exact if_pos hj

/-- A trap that no handler takes: its strand is gone, and status 3 is recorded. -/
theorem State.unhandled_plain {s : State} {v : Strand} {log : Bool} (hj : v.joinw = 0) (hp : v.phase = .none) :
    (s.unhandled v log).strands = FMap.erase s.strands v.handle.toNat ∧ Said.status3 s (s.unhandled v log) v.job ∧
      ((s.unhandled v true).tile v.loc.tile).elogcnt = ((s.tile v.loc.tile).elogcnt + 1) % 2 ^ 32 := by
  have he := s.endStrand_sameRecords v
  obtain ⟨js, hr⟩ := (s.endStrand v).recordStatus_eq v.job 3
  have hrs : ((s.endStrand v).recordStatus v.job 3).strands = (s.endStrand v).strands := by rw [hr]
  have hu : s.unhandled v log = if log then ((s.endStrand v).recordStatus v.job 3).logError v.loc.tile 15 true 0 v.handle 0
      else (s.endStrand v).recordStatus v.job 3 := by rw [State.unhandled, State.kill_plain hj hp]
  have hut : s.unhandled v true = ((s.endStrand v).recordStatus v.job 3).logError v.loc.tile 15 true 0 v.handle 0 := by
    rw [State.unhandled, State.kill_plain hj hp]
    rfl
  have hlog := ((s.endStrand v).recordStatus v.job 3).logError_eq v.loc.tile 15 true 0 v.handle 0
  refine ⟨?_, fun j hjob hh h0 => ?_, ?_⟩
  · rw [← s.endStrand_strands v, hu]
    cases log with
    | false => exact hrs
    | true =>
      rw [if_pos rfl]
      exact (State.logError_quiet _ _ _ _ _ _ _).strands.trans hrs
  · have hst := State.job?_recordStatus (code := 3) ((he.job? v.job).trans hjob) hh h0
    rw [hu]
    cases log with
    | false => exact hst
    | true =>
      obtain ⟨_, _, _, _, e⟩ := hlog
      rw [if_pos rfl, e]
      exact hst
  · rw [hut, State.logError_tile]
    have ht : ((s.endStrand v).recordStatus v.job 3).tile v.loc.tile = s.tile v.loc.tile := by
      rw [hr]
      exact he.tile _
    rw [ht]
    rfl

/-! ### A handler (spec/11 R210) -/

section
variable (s : State) (loc : Place) (sup : Bool) (pc : Nat) (g : List Word) (job : Nat) (asid : BitVec 12) (flat : Nat) (victim : BitVec 64)
  (ofTask : Bool)

/-- A handler as it is created, but for its SG. -/
def State.newHandler : Strand :=
  { newStrand (s.nextHandle (colKey loc.tile loc.col) job) pc (gInit g) job asid flat 0 { loc with slot := 15 }
      (s.freeImg (colKey loc.tile loc.col)) .urgent with
    ss := (if sup then 0x40000 else 0), hkind := (if sup then .sup else .job), victim := victim, ofTask := ofTask,
    bornCol := colKey loc.tile loc.col }

/-- Its fields. -/
theorem State.newHandler_fields : let c := s.newHandler loc sup pc g job asid flat victim ofTask
    c.handle = s.nextHandle (colKey loc.tile loc.col) job ∧ c.pc = .ofNat 56 pc ∧ c.ss = (if sup then 0x40000 else 0) ∧ c.g = gInit g ∧
    c.ctl = Vector.replicate 24 RegCtl.reset ∧ c.w = Vector.replicate 8 0 ∧ c.x = Vector.replicate 8 0 ∧ c.job = job ∧ c.flat = flat ∧
    c.asid = asid ∧ c.bounce = 0 ∧ c.joinw = 0 ∧ c.cmap = Vector.replicate 8 ⟨31, 0⟩ ∧ c.hkind = (if sup then .sup else .job) ∧
    c.victim = victim ∧ c.ofTask = ofTask ∧ c.loc = { loc with slot := 15 } :=
  ⟨rfl, rfl, rfl, rfl, rfl, rfl, rfl, rfl, rfl, rfl, rfl, rfl, rfl, rfl, rfl, rfl, rfl⟩

/-- The state that a handler is created in, its image and its number taken. -/
def State.forHandler : State :=
  ((s.takeSid (colKey loc.tile loc.col)).countStrand (colKey loc.tile loc.col) job 1 0).takeImg (colKey loc.tile loc.col)
    (s.freeImg (colKey loc.tile loc.col))

theorem State.createHandler_eq : s.createHandler loc sup pc g job asid flat victim ofTask =
    ((s.forHandler loc job).bornAcquired (s.newHandler loc sup pc g job asid flat victim ofTask)).enqueueUrgent
      (coreKey loc.tile loc.core) (s.nextHandle (colKey loc.tile loc.col) job) := rfl

theorem State.forHandler_keeps : (s.forHandler loc job).strands = s.strands ∧ (s.forHandler loc job).tiles = s.tiles := by
  obtain ⟨l, -, h⟩ := State.writeImg_eq ((s.takeSid (colKey loc.tile loc.col)).countStrand (colKey loc.tile loc.col) job 1 0)
    (colKey loc.tile loc.col) (s.freeImg (colKey loc.tile loc.col))
  unfold State.forHandler State.takeImg
  rw [h]
  exact ⟨rfl, rfl⟩

end

/-- An acquire at a scope of 2 or more writes SG. -/
theorem State.acquire_setSg (s : State) (st : Strand) {n : Nat} (hn : 2 ≤ n) : ∃ u k, s.acquire st n = (u, st.setSg k) := by
  unfold State.acquire
  rw [if_neg (by omega)]
  exact ⟨_, _, rfl⟩

/-- The newborn stands in the urgent queue of its core, acquired; every other strand is as it was. -/
theorem State.bornAcquired_urgent (s : State) (c : Strand) {u : State} (hu : u = (s.bornAcquired c).enqueueUrgent c.coreKey c.handle) :
    ∃ n, u.strand? c.handle = some (c.setSg n) ∧ (∀ x, x ≠ c.handle → u.strand? x = s.strand? x) ∧
      c.handle ∈ (u.core c.coreKey).urgent ∧
      ((s.tile c.loc.tile).ag + 1 < 65536 → (c.setSg n).sg = (s.tile c.loc.tile).ag + 1 ∧ (u.tile c.loc.tile).ag = (s.tile c.loc.tile).ag + 1 ∧
        (u.core c.coreKey).lineBuf = [] ∧ (u.core c.coreKey).instrBuf = [] ∧ (u.col c.colKey).rakeBuf = []) := by
  obtain ⟨q, n, hq⟩ := s.acquire_setSg c (n := 7) (by decide)
  have hqs : q.strands = s.strands := by
    have := (s.acquire_quiet c 7).strands
    rwa [hq] at this
  have hb : s.bornAcquired c = q.putStrand (c.setSg n) := by
    unfold State.bornAcquired
    rw [hq]
  have hh : (c.setSg n).handle = c.handle := Strand.setSg_handle _ _
  have hstr (x : BitVec 64) : u.strand? x = (q.putStrand (c.setSg n)).strand? x := by
    rw [hu, hb]
    rfl
  have hcore : u.core c.coreKey = { q.core c.coreKey with urgent := (q.core c.coreKey).urgent ++ [c.handle] } := by
    rw [hu, hb]
    exact State.core_putCore_self _ _ _
  refine ⟨n, ?_, fun x hx => ?_, ?_, fun hag => ?_⟩
  · rw [hstr, ← hh]
    exact q.strand?_putStrand_self _
  · rw [hstr, State.strand?_putStrand_ne q _ (hh.symm ▸ hx)]
    unfold State.strand?
    rw [hqs]
  · rw [hcore]
    exact List.mem_append_right _ (List.mem_singleton.mpr rfl)
  · obtain ⟨v, hv, htile, hl, hi, hr, -, -⟩ := State.acquire_below (s := s) (st := c) (n := 7) (by decide) hag
    obtain ⟨rfl, hn⟩ := Prod.mk.inj (hq.symm.trans hv)
    have hut : u.tile c.loc.tile = q.tile c.loc.tile := by
      rw [hu, hb]
      rfl
    have huc : u.col c.colKey = q.col c.colKey := by
      rw [hu, hb]
      rfl
    rw [hn, hut, hcore, huc]
    exact ⟨Strand.setSg_sg hag, htile, hl, hi, hr (by decide)⟩

/-- SG lies above the prefix in SS. -/
theorem Strand.setSg_pp (t : Strand) (v : Nat) : (t.setSg v).pp = t.pp := by
  have h := t.ss.isLt
  show (bits (setBits t.ss 32 16 v).toNat 8 1 == 1) = (bits t.ss.toNat 8 1 == 1)
  simp only [setBits, bits, BitVec.toNat_ofNat]
  congr 1
  omega

theorem gInit_get (l : List Word) (k : GReg) : (gInit l)[k.toNat] = (l[k.toNat]?).getD 0 := by
  unfold gInit
  rw [Vector.getElem_ofFn]

theorem Strand.rc_of_reset {t : Strand} (h : t.ctl = Vector.replicate 24 RegCtl.reset) {r : Nat} (hr : r < 24) : t.rc r = RegCtl.reset := by
  simp only [Strand.rc_eq t hr, h, Vector.getElem_replicate]

/-- CMAP as it is created names no register. -/
theorem attachedTo_of_unused {t : Strand} (h : t.cmap = Vector.replicate 8 ⟨31, 0⟩) {r : Nat} (hr : r < 24) : Said.attachedTo t r = false := by
  refine List.any_eq_false.mpr fun i hi => ?_
  have hi8 : i < 8 := List.mem_range.mp hi
  have hne : (31 : Nat) ≠ r := by omega
  rw [h, Vector.toList_replicate, List.getElem?_replicate, if_pos hi8]
  simpa using hne

/-- The handler created for a trap of a strand, in a state that differs from the one of the trap by the trapped strand alone. -/
theorem State.createHandler_handles {s0 s : State} {st : Strand} {t : Trip} {sup : Bool} {pc : Nat} {asid : BitVec 12}
    (hn : s.nextHandle st.colKey st.job = s0.nextHandle st.colKey st.job) (hag : (s.tile st.loc.tile).ag = (s0.tile st.loc.tile).ag)
    {u : State} (hu : u = s.createHandler st.loc sup pc [.ofNat 64 t.cause, st.pc.zeroExtend 64, t.g2, st.handle, t.g4] st.job asid st.flat
      st.handle false) :
    Said.handles s0 u st t (if sup then .sup else .job) pc asid ∧
      ∀ x, x ≠ s0.nextHandle st.colKey st.job → u.strand? x = s.strand? x := by
  have hf := s.newHandler_fields st.loc sup pc [.ofNat 64 t.cause, st.pc.zeroExtend 64, t.g2, st.handle, t.g4] st.job asid st.flat
    st.handle false
  rw [State.createHandler_eq] at hu
  generalize s.newHandler st.loc sup pc [.ofNat 64 t.cause, st.pc.zeroExtend 64, t.g2, st.handle, t.g4] st.job asid st.flat
    st.handle false = c at hf hu
  obtain ⟨hhandle, hpc, hss, hgs, hctl, hw, hx, hjob, hflat, hasid, hbounce, hjoinw, hcmap, hkind, hvictim, hofTask, hloc⟩ := hf
  have hh : c.handle = s0.nextHandle st.colKey st.job := hhandle.trans hn
  have hcore : c.coreKey = st.coreKey := by rw [Strand.coreKey, hloc]; rfl
  have hcol : c.colKey = st.colKey := by rw [Strand.colKey, hloc]; rfl
  have htile : c.loc.tile = st.loc.tile := by rw [hloc]
  have hu' : u = ((s.forHandler st.loc st.job).bornAcquired c).enqueueUrgent c.coreKey c.handle := by rw [hu, hhandle, hcore]; rfl
  obtain ⟨hstr, htiles⟩ := s.forHandler_keeps st.loc st.job
  obtain ⟨n, hs, hother, hmem, hacq⟩ := State.bornAcquired_urgent _ c hu'
  have hag' : ((s.forHandler st.loc st.job).tile st.loc.tile).ag = (s0.tile st.loc.tile).ag := by
    rw [← hag]
    unfold State.tile
    rw [htiles]
  rw [hh] at hs hmem hother
  rw [hcore] at hmem hacq
  rw [hcol, htile, hag'] at hacq
  have hg (k : GReg) : (c.setSg n).gv k =
      ([BitVec.ofNat 64 t.cause, st.pc.zeroExtend 64, t.g2, st.handle, t.g4][k.toNat]?).getD 0 := by
    simp only [Strand.gv, Strand.setSg_g, hgs, gInit_get]
  refine ⟨⟨c.setSg n, hs, (Strand.setSg_pc _ _).trans hpc, hg 0, hg 1, hg 2, hg 3, hg 4, fun k hk => ?_, fun r hr => ?_,
    (Strand.setSg_w _ _).trans hw, (Strand.setSg_x _ _).trans hx, ?_, ?_, (Strand.setSg_job _ _).trans hjob,
    (Strand.setSg_flat _ _).trans hflat, (Strand.setSg_asid _ _).trans hasid, (Strand.setSg_bounce _ _).trans hbounce,
    (Strand.setSg_joinw _ _).trans hjoinw, fun k hk => ?_, (Strand.setSg_hkind _ _).trans hkind, (Strand.setSg_victim _ _).trans hvictim,
    (Strand.setSg_ofTask _ _).trans hofTask, ?_, ?_, hacq⟩, fun x hx => ?_⟩
  · rw [hg, List.getElem?_eq_none (by simpa using Nat.succ_le_of_lt hk)]
    rfl
  · exact Strand.rc_of_reset ((Strand.setSg_ctl _ _).trans hctl) hr
  · rw [Strand.setSg_sup, Strand.sup, hss]
    cases sup <;> decide
  · rw [Strand.setSg_pp, Strand.pp, hss]
    cases sup <;> decide
  · exact attachedTo_of_unused ((Strand.setSg_cmap _ _).trans hcmap) hk
  · rw [Strand.setSg_loc, hloc]
  · rw [Strand.setSg_handle, hh]
    exact hmem
  · rw [hother x hx]
    unfold State.strand?
    rw [hstr]

end Sys2Proof.Machine
end

section
/-! SUPPORT. O53: a trap, by the route of its cause (spec/11 R205 to R210). -/

namespace Sys2Proof.Machine

/-! ### The routes -/

section
variable {s : State} {h : BitVec 64} {v : Strand} {p : TrapInfo} (hv : s.strand? h = some v) (hp : v.pending = some p)
  (hst : v.status = .trapped)
include hv hp hst

theorem State.deliver_job_room {j : Job} (hk : v.hkind = .none) (hs : toSupervisor p.cause p.g4 = false) (hj : s.job? v.job = some j)
    (hh : j.lrec.handler ≠ 0) (hr : (s.core v.coreKey).urgent.length < 4) :
    s.deliver h = (s.putStrand { v with pending := none }).createHandler v.loc false j.lrec.handler
      [.ofNat 64 p.cause, p.g1, p.g2, v.handle, p.g4] v.job (.ofNat 12 j.lrec.asid) v.flat v.handle false := by
  simp [State.deliver, hv, hp, hst, hk, hs, hj, hh, hr]

theorem State.deliver_job_full {j : Job} (hk : v.hkind = .none) (hs : toSupervisor p.cause p.g4 = false) (hj : s.job? v.job = some j)
    (hh : j.lrec.handler ≠ 0) (hr : ¬ (s.core v.coreKey).urgent.length < 4) : s.deliver h = s := by
  simp [State.deliver, hv, hp, hst, hk, hs, hj, hh, hr]

theorem State.deliver_job_none {j : Job} (hk : v.hkind = .none) (hs : toSupervisor p.cause p.g4 = false) (hj : s.job? v.job = some j)
    (hh : j.lrec.handler = 0) : s.deliver h = s.unhandled v false := by
  simp [State.deliver, hv, hp, hst, hk, hs, hj, hh]

theorem State.deliver_sup_room (hk : v.hkind ≠ .sup) (hs : v.hkind = .job ∨ toSupervisor p.cause p.g4 = true)
    (hen : bits ((s.supReady v.loc.tile).tile v.loc.tile).supvec.toNat 63 1 ≠ 0)
    (htab : ((s.supReady v.loc.tile).tile v.loc.tile).supTable.isNone = false) (hr : (s.core v.coreKey).urgent.length < 4) :
    s.deliver h = ((s.supReady v.loc.tile).putStrand { v with pending := none }).createHandler v.loc true
      (bits ((s.supReady v.loc.tile).tile v.loc.tile).supvec.toNat 1 55 * 2) [.ofNat 64 p.cause, p.g1, p.g2, v.handle, p.g4] v.job
      ((s.supReady v.loc.tile).tile v.loc.tile).supasid v.flat v.handle false := by
  have hs' : (v.hkind == .job || toSupervisor p.cause p.g4) = true := by rcases hs with e | e <;> simp [e]
  have hk' : (v.hkind == .sup) = false := beq_eq_false_iff_ne.mpr hk
  simp only [State.deliver, hv, hp, hst, hk', hs', hen, htab, hr, bne_self_eq_false, Bool.false_eq_true, ↓reduceIte, decide_true,
    Bool.or_false, decide_false]

theorem State.deliver_sup_none (hk : v.hkind ≠ .sup) (hs : v.hkind = .job ∨ toSupervisor p.cause p.g4 = true)
    (hno : bits ((s.supReady v.loc.tile).tile v.loc.tile).supvec.toNat 63 1 = 0 ∨
      ((s.supReady v.loc.tile).tile v.loc.tile).supTable.isNone = true) :
    s.deliver h = (s.supReady v.loc.tile).unhandled v true := by
  have hs' : (v.hkind == .job || toSupervisor p.cause p.g4) = true := by rcases hs with e | e <;> simp [e]
  have hk' : (v.hkind == .sup) = false := beq_eq_false_iff_ne.mpr hk
  have hno' : (decide (bits ((s.supReady v.loc.tile).tile v.loc.tile).supvec.toNat 63 1 = 0) ||
      ((s.supReady v.loc.tile).tile v.loc.tile).supTable.isNone) = true := by rcases hno with e | e <;> simp [e]
  simp only [State.deliver, hv, hp, hst, hk', hs', hno', bne_self_eq_false, Bool.false_eq_true, ↓reduceIte]

theorem State.deliver_supHandler (hk : v.hkind = .sup) : s.deliver h = s.unhandledSup v := by
  simp [State.deliver, hv, hp, hst, hk]

end

/-- The supervisor's bed table at hand: nothing is fetched. -/
theorem State.supReady_valid {s : State} {t : Nat} (h : (s.tile t).supValid = true) : s.supReady t = s := by
  unfold State.supReady
  split
  · rfl
  · rw [State.fetchSup, h, if_pos rfl]

/-- A fetch writes the tile's supervisor table alone. -/
theorem State.supReady_eq (s : State) (t : Nat) : s.supReady t = s ∨
    ∃ tab, s.supReady t = s.putTile t { s.tile t with supTable := tab, supValid := true } := by
  unfold State.supReady
  split
  · exact .inl rfl
  · unfold State.fetchSup
    dsimp only
    split
    · exact .inl rfl
    · exact .inr ⟨_, rfl⟩

theorem State.supReady_keeps (s : State) (t : Nat) : (s.supReady t).strands = s.strands ∧ (s.supReady t).jobs = s.jobs ∧
    ((s.supReady t).tile t).elogcnt = (s.tile t).elogcnt := by
  rcases s.supReady_eq t with h | ⟨tab, h⟩ <;> rw [h]
  · exact ⟨rfl, rfl, rfl⟩
  · exact ⟨rfl, rfl, by rw [State.tile_putTile_self]⟩

/-- Without an enabled entry or a valid table there is no supervisor handler. -/
theorem State.supReady_none {s : State} {t : Nat} (h : (s.tile t).supvec.getLsbD 63 = false ∨ Said.badSupTable (s.tile t)) :
    bits ((s.supReady t).tile t).supvec.toNat 63 1 = 0 ∨ ((s.supReady t).tile t).supTable.isNone = true := by
  have hbit : bits (s.tile t).supvec.toNat 63 1 = 0 ↔ (s.tile t).supvec.getLsbD 63 = false := by
    have hlt := bits_lt (s.tile t).supvec.toNat 63 1
    rw [← bits_one_eq_getLsbD, beq_eq_false_iff_ne]
    omega
  by_cases hen : bits (s.tile t).supvec.toNat 63 1 = 0
  · refine .inl ?_
    rw [State.supReady, if_pos hen, hen]
  · rcases h with h | ⟨hv, htab⟩ | ⟨hv, hn⟩
    · exact absurd (hbit.mpr h) hen
    · refine .inr ?_
      rw [State.supReady_valid hv, htab]
      rfl
    · refine .inr ?_
      have hcond : (bits (s.tile t).supbedt.toNat 52 9 = 0 || 256 < bits (s.tile t).supbedt.toNat 52 9 ||
          !s.readable (bits (s.tile t).supbedt.toNat 6 36 * 64) (64 * bits (s.tile t).supbedt.toNat 52 9)) = true := by
        replace hn : bits (s.tile t).supbedt.toNat 52 9 = 0 ∨ 256 < bits (s.tile t).supbedt.toNat 52 9 := hn
        rcases hn with e | e <;> simp [e]
      rw [State.supReady, if_neg hen, State.fetchSup]
      simp only [hv, Bool.false_eq_true, ↓reduceIte, hcond, State.tile_putTile_self]
      rfl

/-! ### The trapped strand -/

/-- A strand that a trap has taken, its handler still to be created. -/
def Strand.trappedBy (st : Strand) (t : Trip) (next : BitVec 56) : Strand :=
  { st with status := .trapped, pcause := 7, phase := st.phase.kept, regrow := none, bedWait := none, wait := .none, pc := next,
            pending := some ⟨t.cause, st.pc.zeroExtend 64, t.g2, t.g4⟩ }

/-- The state with the trapped strand, before its handler is created. -/
def State.withTrapped (s : State) (st : Strand) (t : Trip) (next : BitVec 56) : State :=
  (s.writeImg st.colKey st.img).putStrand (st.trappedBy t next)

section
variable {s : State} {st : Strand} {t : Trip} {next : BitVec 56}

theorem State.trapAt_eq (hf : s.imageCacheFull st.colKey = false) : s.trapAt st t next = (s.withTrapped st t next).deliver st.handle := by
  have hst : s.storeImage (st.trappedBy t next) = st.trappedBy t next := if_neg (by rw [Bool.not_eq_true]; exact hf)
  show ((s.writeImg st.colKey st.img).putStrand (s.storeImage (st.trappedBy t next))).deliver st.handle = _
  rw [hst]
  rfl

theorem State.withTrapped_keeps (s : State) (st : Strand) (t : Trip) (next : BitVec 56) : let u := s.withTrapped st t next
    u.strand? st.handle = some (st.trappedBy t next) ∧ u.strands = FMap.set s.strands st.handle.toNat (st.trappedBy t next) ∧
      u.tiles = s.tiles ∧ u.jobs = s.jobs ∧ u.cores = s.cores ∧ u.cols = s.cols := by
  obtain ⟨l, -, h⟩ := s.writeImg_eq st.colKey st.img
  refine ⟨State.strand?_putStrand_self _ (st.trappedBy t next), ?_, ?_, ?_, ?_, ?_⟩ <;> rw [State.withTrapped, h] <;> rfl

/-- The strand as the statement has it, whether or not its handler is created. -/
theorem Strand.trapped_of_trappedBy (st : Strand) (t : Trip) (next : BitVec 56) (p : Option TrapInfo) :
    Said.trapped { st.trappedBy t next with pending := p } st next := ⟨rfl, rfl, rfl, rfl, rfl, rfl, rfl, rfl, rfl⟩

end

end Sys2Proof.Machine
end

section
/-! SUPPORT. O53: the statement's clauses, one by one (spec/11 R205 to R210). -/

namespace Sys2Proof.Machine

theorem toSupervisor_iff (t : Trip) : toSupervisor t.cause t.g4 = true ↔ Said.toSup t := by
  simp only [toSupervisor, Said.toSup, Bool.or_eq_true, beq_iff_eq, or_assoc]

section
variable {s : State} {st : Strand} {t : Trip} {next : BitVec 56} (hf : s.imageCacheFull st.colKey = false)
include hf

theorem trapAt_job_room (hk : st.hkind = .none) (hs : ¬ Said.toSup t) {j : Job} (hj : s.job? st.job = some j) (hh : j.lrec.handler ≠ 0)
    (hr : (s.core st.coreKey).urgent.length < 4) (hn : s.nextHandle st.colKey st.job ≠ st.handle) :
    ∃ v, (s.trapAt st t next).strand? st.handle = some v ∧ Said.trapped v st next ∧ v.pending = none ∧
      Said.handles s (s.trapAt st t next) st t .job j.lrec.handler (.ofNat 12 j.lrec.asid) := by
  obtain ⟨hv, -, htiles, hjobs, hcores, hcols⟩ := s.withTrapped_keeps st t next
  have hs' : toSupervisor t.cause t.g4 = false := Bool.eq_false_iff.mpr (mt (toSupervisor_iff t).mp hs)
  have hj' : (s.withTrapped st t next).job? st.job = some j := by
    unfold State.job?
    rw [hjobs]
    exact hj
  have hr' : ((s.withTrapped st t next).core st.coreKey).urgent.length < 4 := by
    unfold State.core
    rw [hcores]
    exact hr
  have hnext : (s.withTrapped st t next).nextHandle st.colKey st.job = s.nextHandle st.colKey st.job := by
    unfold State.nextHandle State.col
    rw [hcols]
  have htile : (s.withTrapped st t next).tile st.loc.tile = s.tile st.loc.tile := by
    unfold State.tile
    rw [htiles]
  have hd := State.deliver_job_room hv rfl rfl hk hs' hj' hh hr'
  obtain ⟨hhandles, hother⟩ := State.createHandler_handles (s0 := s) (st := st) (t := t) (sup := false)
    (s := (s.withTrapped st t next).putStrand { st.trappedBy t next with pending := none }) hnext (congrArg Tile.ag htile)
    ((State.trapAt_eq hf).trans hd)
  refine ⟨_, (hother _ hn.symm).trans (State.strand?_putStrand_self _ { st.trappedBy t next with pending := none }),
    st.trapped_of_trappedBy t next none, rfl, hhandles⟩

theorem trapAt_job_full (hk : st.hkind = .none) (hs : ¬ Said.toSup t) {j : Job} (hj : s.job? st.job = some j) (hh : j.lrec.handler ≠ 0)
    (hr : ¬ (s.core st.coreKey).urgent.length < 4) :
    ∃ v, (s.trapAt st t next).strand? st.handle = some v ∧ Said.trapped v st next ∧
      v.pending = some ⟨t.cause, st.pc.zeroExtend 64, t.g2, t.g4⟩ ∧ (s.trapAt st t next).jobs = s.jobs := by
  obtain ⟨hv, -, -, hjobs, hcores, -⟩ := s.withTrapped_keeps st t next
  have hs' : toSupervisor t.cause t.g4 = false := Bool.eq_false_iff.mpr (mt (toSupervisor_iff t).mp hs)
  have hj' : (s.withTrapped st t next).job? st.job = some j := by
    unfold State.job?
    rw [hjobs]
    exact hj
  have hr' : ¬ ((s.withTrapped st t next).core st.coreKey).urgent.length < 4 := by
    unfold State.core
    rw [hcores]
    exact hr
  rw [State.trapAt_eq hf, State.deliver_job_full hv rfl rfl hk hs' hj' hh hr']
  exact ⟨_, hv, st.trapped_of_trappedBy t next _, rfl, hjobs⟩

theorem trapAt_job_none (hph : st.phase = .none) (hk : st.hkind = .none) (hs : ¬ Said.toSup t) {j : Job} (hj : s.job? st.job = some j)
    (hh : j.lrec.handler = 0) (h0 : st.joinw = 0) : Said.status3 s (s.trapAt st t next) st.job ∧
      (s.trapAt st t next).strands = FMap.erase (FMap.set s.strands st.handle.toNat st) st.handle.toNat := by
  obtain ⟨hv, hstr, -, hjobs, -, -⟩ := s.withTrapped_keeps st t next
  have hs' : toSupervisor t.cause t.g4 = false := Bool.eq_false_iff.mpr (mt (toSupervisor_iff t).mp hs)
  have hj' : (s.withTrapped st t next).job? st.job = some j := by
    unfold State.job?
    rw [hjobs]
    exact hj
  have hph' : (st.trappedBy t next).phase = .none := by
    show st.phase.kept = _
    rw [hph]
    rfl
  obtain ⟨hu, h3, -⟩ := State.unhandled_plain (s := s.withTrapped st t next) (v := st.trappedBy t next) (log := false) h0 hph'
  rw [State.trapAt_eq hf, State.deliver_job_none hv rfl rfl hk hs' hj' hh]
  refine ⟨fun k hkj => h3 k ?_, ?_⟩
  · unfold State.job?
    rw [hjobs]
    exact hkj
  · rw [hu, hstr]
    exact FMap.erase_set _ _ _ _

end

end Sys2Proof.Machine
end

section
/-! SUPPORT. O53: traps routed to the supervisor, and those of its handlers (spec/11 R208, R209). -/

namespace Sys2Proof.Machine

section
variable {s : State} {st : Strand} {t : Trip} {next : BitVec 56}

/-- What an unhandled trap leaves, seen from before the strand was Trapped. -/
theorem unhandled_trappedBy {s1 : State} (hstr : s1.strands = FMap.set s.strands st.handle.toNat (st.trappedBy t next))
    (hjobs : s1.jobs = s.jobs) (helog : (s1.tile st.loc.tile).elogcnt = (s.tile st.loc.tile).elogcnt) (h0 : st.joinw = 0)
    (hph : st.phase = .none) : let u := s1.unhandled (st.trappedBy t next) true
    Said.status3 s u st.job ∧ u.strands = FMap.erase (FMap.set s.strands st.handle.toNat st) st.handle.toNat ∧
      (u.tile st.loc.tile).elogcnt = ((s.tile st.loc.tile).elogcnt + 1) % 2 ^ 32 := by
  have hph' : (st.trappedBy t next).phase = .none := by
    show st.phase.kept = _
    rw [hph]
    rfl
  obtain ⟨hu, h3, hel⟩ := State.unhandled_plain (s := s1) (v := st.trappedBy t next) (log := true) h0 hph'
  refine ⟨fun k hkj => h3 k ?_, ?_, ?_⟩
  · unfold State.job?
    rw [hjobs]
    exact hkj
  · rw [hu, hstr]
    exact FMap.erase_set _ _ _ _
  · rw [← helog]
    exact hel

section
variable (hf : s.imageCacheFull st.colKey = false)
include hf

theorem trapAt_sup_room (hk : st.hkind ≠ .sup) (hs : st.hkind = .job ∨ Said.toSup t) (hvalid : (s.tile st.loc.tile).supValid = true)
    (htab : (s.tile st.loc.tile).supTable.isSome = true) (hen : (s.tile st.loc.tile).supvec.getLsbD 63 = true)
    (hr : (s.core st.coreKey).urgent.length < 4) (hn : s.nextHandle st.colKey st.job ≠ st.handle) :
    ∃ v, (s.trapAt st t next).strand? st.handle = some v ∧ Said.trapped v st next ∧ v.pending = none ∧
      Said.handles s (s.trapAt st t next) st t .sup ((s.tile st.loc.tile).supvec.toNat / 2 % 2 ^ 55 * 2) (s.tile st.loc.tile).supasid := by
  obtain ⟨hv, -, htiles, -, hcores, hcols⟩ := s.withTrapped_keeps st t next
  have hs' : st.hkind = .job ∨ toSupervisor t.cause t.g4 = true := hs.imp id (toSupervisor_iff t).mpr
  have htile : (s.withTrapped st t next).tile st.loc.tile = s.tile st.loc.tile := by
    unfold State.tile
    rw [htiles]
  have hready : (s.withTrapped st t next).supReady st.loc.tile = s.withTrapped st t next :=
    State.supReady_valid (htile.symm ▸ hvalid)
  have hr' : ((s.withTrapped st t next).core st.coreKey).urgent.length < 4 := by
    unfold State.core
    rw [hcores]
    exact hr
  have hnext : (s.withTrapped st t next).nextHandle st.colKey st.job = s.nextHandle st.colKey st.job := by
    unfold State.nextHandle State.col
    rw [hcols]
  have hd := State.deliver_sup_room hv rfl rfl hk hs'
    (by
      show bits (((s.withTrapped st t next).supReady st.loc.tile).tile st.loc.tile).supvec.toNat 63 1 ≠ 0
      rw [hready, htile]
      have h1 := (bits_one_eq_getLsbD (s.tile st.loc.tile).supvec 63).trans hen
      intro h0
      rw [h0] at h1
      exact absurd h1 (by decide))
    (by
      show (((s.withTrapped st t next).supReady st.loc.tile).tile st.loc.tile).supTable.isNone = false
      rw [hready, htile, Option.isNone_eq_false_iff]
      exact htab) hr'
  have hd' : (s.withTrapped st t next).deliver st.handle =
      ((s.withTrapped st t next).putStrand { st.trappedBy t next with pending := none }).createHandler st.loc true
        (bits (s.tile st.loc.tile).supvec.toNat 1 55 * 2) [.ofNat 64 t.cause, st.pc.zeroExtend 64, t.g2, st.handle, t.g4] st.job
        (s.tile st.loc.tile).supasid st.flat st.handle false := by
    rw [← htile]
    refine hd.trans ?_
    show (((s.withTrapped st t next).supReady st.loc.tile).putStrand { st.trappedBy t next with pending := none }).createHandler st.loc true
        (bits (((s.withTrapped st t next).supReady st.loc.tile).tile st.loc.tile).supvec.toNat 1 55 * 2) _ _
        (((s.withTrapped st t next).supReady st.loc.tile).tile st.loc.tile).supasid _ _ _ = _
    rw [hready]
    rfl
  obtain ⟨hhandles, hother⟩ := State.createHandler_handles (s0 := s) (st := st) (t := t) (sup := true)
    (s := (s.withTrapped st t next).putStrand { st.trappedBy t next with pending := none }) hnext (congrArg Tile.ag htile)
    ((State.trapAt_eq hf).trans hd')
  exact ⟨_, (hother _ hn.symm).trans (State.strand?_putStrand_self _ { st.trappedBy t next with pending := none }),
    st.trapped_of_trappedBy t next none, rfl, hhandles⟩

theorem trapAt_sup_none (hph : st.phase = .none) (hk : st.hkind ≠ .sup) (hs : st.hkind = .job ∨ Said.toSup t)
    (hno : (s.tile st.loc.tile).supvec.getLsbD 63 = false ∨ Said.badSupTable (s.tile st.loc.tile)) (h0 : st.joinw = 0) :
    Said.status3 s (s.trapAt st t next) st.job ∧
      (s.trapAt st t next).strands = FMap.erase (FMap.set s.strands st.handle.toNat st) st.handle.toNat ∧
      ((s.trapAt st t next).tile st.loc.tile).elogcnt = ((s.tile st.loc.tile).elogcnt + 1) % 2 ^ 32 := by
  obtain ⟨hv, hstr, htiles, hjobs, -, -⟩ := s.withTrapped_keeps st t next
  have hs' : st.hkind = .job ∨ toSupervisor t.cause t.g4 = true := hs.imp id (toSupervisor_iff t).mpr
  have htile : (s.withTrapped st t next).tile st.loc.tile = s.tile st.loc.tile := by
    unfold State.tile
    rw [htiles]
  obtain ⟨hstr', hjobs', helog'⟩ := (s.withTrapped st t next).supReady_keeps st.loc.tile
  rw [State.trapAt_eq hf, State.deliver_sup_none hv rfl rfl hk hs' (State.supReady_none (htile.symm ▸ hno))]
  exact unhandled_trappedBy (hstr'.trans hstr) (hjobs'.trans hjobs) (helog'.trans (congrArg Tile.elogcnt htile)) h0 hph

/-- A trap of a supervisor handler: it ends, with what becomes of its victim left open. -/
theorem trapAt_supHandler (hk : st.hkind = .sup) :
    s.trapAt st t next = (s.withTrapped st t next).unhandledSup (st.trappedBy t next) := by
  obtain ⟨hv, -, -, -, -, -⟩ := s.withTrapped_keeps st t next
  rw [State.trapAt_eq hf, State.deliver_supHandler hv rfl rfl hk]

theorem trapAt_supHandler_victim {v : Strand} (hph : st.phase = .none) (hk : st.hkind = .sup) (htask : st.ofTask = false) (h0 : st.joinw = 0)
    (hsort : FMap.sorted s.strands = true) (hv : s.strand? st.victim = some v) (hvh : v.handle = st.victim) (hne : v.handle ≠ st.handle)
    (hvs : v.status = .trapped) (hvj : v.joinw = 0) (hvp : v.phase = .none) : Said.status3 s (s.trapAt st t next) st.job ∧
      (s.trapAt st t next).strands =
        FMap.erase (FMap.erase (FMap.set s.strands st.handle.toNat st) st.handle.toNat) v.handle.toNat ∧
      ((s.trapAt st t next).tile st.loc.tile).elogcnt = ((s.tile st.loc.tile).elogcnt + 1) % 2 ^ 32 := by
  obtain ⟨-, hstr, htiles, hjobs, -, -⟩ := s.withTrapped_keeps st t next
  have helog : ((s.withTrapped st t next).tile st.loc.tile).elogcnt = (s.tile st.loc.tile).elogcnt := by
    unfold State.tile
    rw [htiles]
  have he : s.trapAt st t next = ((s.withTrapped st t next).unhandled (st.trappedBy t next) true).killTrapped st.victim :=
    (trapAt_supHandler hf hk).trans (if_neg (by show ¬ st.ofTask = true; rw [htask]; decide))
  obtain ⟨h3, hstr1, hel⟩ := unhandled_trappedBy hstr hjobs helog h0 hph
  generalize (s.withTrapped st t next).unhandled (st.trappedBy t next) true = u1 at he h3 hstr1 hel
  have hidx : st.victim.toNat ≠ st.handle.toNat := fun e => hne (hvh.trans (BitVec.eq_of_toNat_eq e))
  have hu1 : u1.strand? st.victim = some v := by
    rw [← hv]
    unfold State.strand?
    rw [hstr1, FMap.get?_erase_ne (FMap.set_sorted _ _ hsort) hidx, FMap.get?_set_ne _ _ hidx]
  have hkill : u1.killTrapped st.victim = u1.endStrand v := by
    simp only [State.killTrapped, hu1, hvs, beq_self_eq_true, ↓reduceIte, State.kill_plain hvj hvp]
  have hrec := u1.endStrand_sameRecords v
  rw [he, hkill]
  refine ⟨fun k hkj hkh hk0 => (hrec.job? _).trans (h3 k hkj hkh hk0), ?_, ?_⟩
  · rw [State.endStrand_strands, hstr1]
  · rw [hrec.tile]
    exact hel

theorem trapAt_supHandler_alone (hph : st.phase = .none) (hk : st.hkind = .sup) (h0 : st.joinw = 0)
    (hsort : FMap.sorted s.strands = true) (hv : s.strand? st.victim = none) : Said.status3 s (s.trapAt st t next) st.job ∧
      (s.trapAt st t next).strands = FMap.erase (FMap.set s.strands st.handle.toNat st) st.handle.toNat ∧
      ((s.trapAt st t next).tile st.loc.tile).elogcnt = ((s.tile st.loc.tile).elogcnt + 1) % 2 ^ 32 := by
  obtain ⟨-, hstr, htiles, hjobs, -, -⟩ := s.withTrapped_keeps st t next
  have helog : ((s.withTrapped st t next).tile st.loc.tile).elogcnt = (s.tile st.loc.tile).elogcnt := by
    unfold State.tile
    rw [htiles]
  have hsaid := unhandled_trappedBy hstr hjobs helog h0 hph
  have he : s.trapAt st t next = if st.ofTask then (s.withTrapped st t next).unhandled (st.trappedBy t next) true
      else ((s.withTrapped st t next).unhandled (st.trappedBy t next) true).killTrapped st.victim := trapAt_supHandler hf hk
  generalize (s.withTrapped st t next).unhandled (st.trappedBy t next) true = u1 at he hsaid
  have hu1 : u1.strand? st.victim = none := by
    unfold State.strand? at hv ⊢
    rw [hsaid.2.1]
    by_cases hidx : st.victim.toNat = st.handle.toNat
    · rw [hidx]
      exact FMap.get?_erase_self _ (FMap.set_sorted _ _ hsort)
    · rw [FMap.get?_erase_ne (FMap.set_sorted _ _ hsort) hidx, FMap.get?_set_ne _ _ hidx, hv]
  have hkill : u1.killTrapped st.victim = u1 := by simp only [State.killTrapped, hu1]
  rw [he, hkill, ite_self]
  exact hsaid

end
end

/-- Settles O53: the trapped strand and its handler's first registers are read off the route of the cause, and what no handler takes ends
its strand with the job's status 3. -/
theorem trapsCreateTheirHandler : Obligations.TrapsCreateTheirHandler := by
  unfold Obligations.TrapsCreateTheirHandler
  intro s st t hf hph _
  have hsame := s.trapAt_sameBytes st t st.pc
  exact ⟨hsame.mem, hsame.sram,
    fun hn => ⟨fun hk hs j hj hh => ⟨fun hr => trapAt_job_room hf hk hs hj hh hr hn, trapAt_job_full hf hk hs hj hh⟩,
      fun hk hs hvalid htab hen hr => trapAt_sup_room hf hk hs hvalid htab hen hr hn⟩,
    fun hk hs j hj hh h0 => trapAt_job_none hf hph hk hs hj hh h0,
    fun hk hs hno h0 => trapAt_sup_none hf hph hk hs hno h0,
    fun v hk htask h0 hsort hv hvh hne hvs hvj hvp => trapAt_supHandler_victim hf hph hk htask h0 hsort hv hvh hne hvs hvj hvp,
    fun hk h0 hsort hv => trapAt_supHandler_alone hf hph hk h0 hsort hv⟩

end Sys2Proof.Machine
end

section
/-! SUPPORT. O54: TRAP and BKPT, and the halt of a core's group (spec/18 R380, spec/11 R228). -/

namespace Sys2Proof.Machine

/-! ### A halt (spec/06 R102, spec/11 R228) -/

theorem Core.halted_setHalted (c : Core) : (c.setHalted true).halted = true := by
  have h := c.dbgctl.isLt
  show (bits (setBits c.dbgctl 63 1 1).toNat 63 1 == 1) = true
  simp only [setBits, bits, BitVec.toNat_ofNat, beq_iff_eq]
  omega

theorem State.setDebug_keeps (s : State) (t : Nat) : (s.setDebug t).strands = s.strands ∧ (s.setDebug t).cores = s.cores := by
  unfold State.setDebug
  dsimp only
  split
  · exact ⟨rfl, rfl⟩
  · split <;> exact ⟨rfl, rfl⟩

/-- A strand when a core halts: one in its slots is Halted. -/
def Strand.haltedIn (k : Nat) (st : Strand) : Strand :=
  if st.inSlot && st.coreKey == k then
    { st.afresh with status := .halted, pcause := 0, parkedFor := 0, bedWait := none, wait := .none }
  else st

theorem State.haltCore_keeps (s : State) (k : Nat) : (s.haltCore k).strands = FMap.mapVals s.strands (fun _ => Strand.haltedIn k) ∧
    (s.haltCore k).cores = (s.putCore k ((s.core k).setHalted true)).cores := State.setDebug_keeps _ _

/-- A core that halts, with a strand in one of its slots. -/
theorem State.haltCore_slot {s : State} {st : Strand} {h : BitVec 64} (hs : s.strand? h = some st) (hin : st.inSlot = true) :
    ∃ v, (s.haltCore st.coreKey).strand? h = some v ∧ v.status = .halted ∧ v.pc = st.pc ∧ v.g = st.g ∧
      ((s.haltCore st.coreKey).core st.coreKey).halted = true := by
  obtain ⟨hstr, hcores⟩ := s.haltCore_keeps st.coreKey
  obtain ⟨p, w, haf⟩ := st.afresh_eq
  have hv : st.haltedIn st.coreKey =
      { st.afresh with status := .halted, pcause := 0, parkedFor := 0, bedWait := none, wait := .none } := if_pos (by simp [hin])
  refine ⟨st.haltedIn st.coreKey, ?_, ?_, ?_, ?_, ?_⟩
  · unfold State.strand?
    rw [hstr, FMap.get?_mapVals, show FMap.get? s.strands h.toNat = some st from hs]
    rfl
  · rw [hv]
  · rw [hv, haf]
  · rw [hv, haf]
  · unfold State.core
    rw [hcores]
    exact (congrArg Core.halted (s.core_putCore_self _ _)).trans (Core.halted_setHalted _)

/-- A halt of the core's group halts the core itself. -/
theorem State.haltGroup_self {s : State} {k : Nat} (h : (s.core k).halted = false) :
    (s.haltGroup k).strands = (s.haltCore k).strands ∧ (s.haltGroup k).cores = (s.haltCore k).cores := by
  have hf := List.foldlRecOn (s.runningOf k) (fun s j => s.sendFrom (k / 768) (.halt j false))
    (motive := (s.haltCore k).SameUnits) (.refl _) fun u hu j _ => hu.trans (u.sendFrom_sameUnits _ _)
  have hu := hf.trans (State.raiseMain_sameUnits _ 0x50 (k / 768) (s.core k).group)
  have he : s.haltGroup k = ((s.runningOf k).foldl (fun s j => s.sendFrom (k / 768) (.halt j false)) (s.haltCore k)).raiseMain
      0x50 (k / 768) (s.core k).group := by
    simp only [State.haltGroup, h, Bool.false_and, Bool.false_eq_true, ↓reduceIte]
  rw [he]
  exact ⟨hu.strands, hu.cores⟩

/-! ### TRAP and BKPT -/

section
variable {s : State} {st : Strand} (hi : Said.Issues s st [])
include hi

theorem trap_traps (imm : BitVec 12) : Said.Runs (.trap imm) s (s.trapAt st ⟨16, 0, imm.zeroExtend 64⟩ (st.pc + 4)) := by
  show execTrap imm s = _
  exact State.plain_of_issues_nil hi

theorem bkpt_traps (imm : BitVec 12) (hob : (s.core st.coreKey).dbgctl.getLsbD 60 = false) :
    Said.Runs (.bkpt imm) s (s.trapAt st ⟨15, 0, imm.zeroExtend 64⟩ (st.pc + 4)) := by
  have hb : (s.core st.coreKey).hob = false := (bits_one_eq_getLsbD _ 60).trans hob
  show execBkpt imm s = _
  refine (State.plain_of_issues_nil hi).trans (congrArg Host.Outcome.next ?_)
  exact if_neg (by rw [hb]; decide)

theorem bkpt_halts (imm : BitVec 12) (hob : (s.core st.coreKey).dbgctl.getLsbD 60 = true)
    (hrun : (s.core st.coreKey).dbgctl.getLsbD 63 = false) : ∃ u v, Said.Runs (.bkpt imm) s u ∧
      u.strand? st.handle = some v ∧ v.status = .halted ∧ v.pc = st.pc + 4 ∧ v.g = st.g ∧ (u.core st.coreKey).halted = true := by
  have hb : (s.core st.coreKey).hob = true := (bits_one_eq_getLsbD _ 60).trans hob
  have hk : (st.completed (st.pc + 4)).coreKey = st.coreKey := by rw [Strand.coreKey, Strand.completed_loc]; rfl
  have hd : (s.putStrand (st.completed (st.pc + 4))).strand? st.handle = some (st.completed (st.pc + 4)) :=
    State.strand?_putStrand_of (st.completed_handle _)
  have hin : (st.completed (st.pc + 4)).inSlot = true := by
    unfold Strand.inSlot
    rw [Strand.completed_status]
    rfl
  obtain ⟨v, hv, hs, hpc, hg, hh⟩ := State.haltCore_slot hd hin
  obtain ⟨hstr, hcores⟩ := State.haltGroup_self (s := s.putStrand (st.completed (st.pc + 4))) (k := st.coreKey)
    ((bits_one_eq_getLsbD _ 63).trans hrun)
  rw [hk] at hv hh
  refine ⟨(s.putStrand (st.completed (st.pc + 4))).haltGroup st.coreKey, v, ?_, ?_, hs, hpc.trans (Strand.completed_pc _ _),
    hg.trans (Strand.completed_g _ _), ?_⟩
  · show execBkpt imm s = _
    refine (State.plain_of_issues_nil hi).trans (congrArg Host.Outcome.next ?_)
    exact if_pos hb
  · unfold State.strand?
    rw [hstr]
    exact hv
  · unfold State.core
    rw [hcores]
    exact hh

end

end Sys2Proof.Machine
end

section
/-! SUPPORT. O54: RESUME and KILL (spec/18 R381, spec/11 R211, R228). -/

namespace Sys2Proof.Machine

/-! ### The strand that a handle names (spec/18 R362) -/

theorem State.mayName_of_named {s : State} {st v : Strand} {h : Word} (hn : Said.named s st v h) : s.mayName st h = some v := by
  obtain ⟨hs, rfl, ht, hk⟩ := hn
  obtain ⟨hk, htile⟩ | ⟨hk, hvic, hcol⟩ := hk
  · simp [State.mayName, hs, ht, hk, htile]
  · simp [State.mayName, hs, ht, hk, hvic.symm, hcol]

theorem State.mayName_of_unnamed {s : State} {st : Strand} {h : Word} (hn : Said.unnamed s st h)
    (hh : ∀ x, s.strand? h = some x → x.handle = h) : s.mayName st h = none := by
  unfold State.mayName
  cases hs : s.strand? h with
  | none => rfl
  | some v =>
    have hv := hh v hs
    refine if_neg fun hc => hn v hs hv ⟨hs, hv, ?_⟩
    obtain ⟨ht, hk⟩ := (Bool.and_eq_true _ _).mp hc
    refine ⟨beq_iff_eq.mp ht, ?_⟩
    cases hkind : st.hkind with
    | none => rw [hkind] at hk; cases hk
    | sup =>
      rw [hkind] at hk
      exact .inl ⟨rfl, beq_iff_eq.mp hk⟩
    | job =>
      rw [hkind] at hk
      obtain ⟨hvic, hcol⟩ := (Bool.and_eq_true _ _).mp hk
      exact .inr ⟨rfl, hv.symm.trans (beq_iff_eq.mp hvic), beq_iff_eq.mp hcol⟩

/-! ### What the end of a strand leaves -/

/-- An entry found is found still when another key's goes. -/
theorem FMap.get?_erase_of_get? {α : Type} {m : FMap α} {i j : Nat} {x : α} (h : FMap.get? m i = some x) (hij : i ≠ j) :
    FMap.get? (FMap.erase m j) i = some x := by
  induction m with
  | nil => cases h
  | cons p m ih =>
    obtain ⟨k, v⟩ := p
    simp only [FMap.get?] at h
    by_cases hik : i = k
    · rw [if_pos hik] at h
      simp only [FMap.erase]
      rw [if_neg (fun e => hij (hik.trans e.symm))]
      split <;> (simp only [FMap.get?]; rw [if_pos hik]; exact h)
    · rw [if_neg hik] at h
      by_cases hlt : i < k
      · rw [if_pos hlt] at h
        cases h
      · rw [if_neg hlt] at h
        simp only [FMap.erase]
        split
        · exact h
        · split <;> (simp only [FMap.get?]; rw [if_neg hik, if_neg hlt])
          · exact h
          · exact ih h

/-- Messages sent since stand beside the earlier ones. -/
structure State.KeepsMsgs (s u : State) : Prop where
  fresh : s.fresh ≤ u.fresh
  msgs : ∀ m, m < s.fresh → FMap.get? u.msgs m = FMap.get? s.msgs m

theorem State.KeepsMsgs.refl (s : State) : s.KeepsMsgs s := ⟨le_rfl, fun _ _ => rfl⟩
theorem State.KeepsMsgs.trans {s u v : State} (h : s.KeepsMsgs u) (g : u.KeepsMsgs v) : s.KeepsMsgs v :=
  ⟨h.fresh.trans g.fresh, fun m hm => (g.msgs m (hm.trans_le h.fresh)).trans (h.msgs m hm)⟩

theorem State.sendFrom_keepsMsgs (s : State) (t : Nat) (m : Msg) : s.KeepsMsgs (s.sendFrom t m) := by
  refine ⟨by rw [State.sendFrom_fresh]; exact Nat.le_succ _, fun k hk => ?_⟩
  rw [State.sendFrom_msgs]
  exact FMap.get?_set_ne _ _ (Nat.ne_of_lt hk)

theorem State.reserve_keepsMsgs (s : State) (k : Nat) : s.KeepsMsgs (s.reserve k) := by
  have hone (u : State) : u.KeepsMsgs (u.reserveOne k) := by
    unfold State.reserveOne
    dsimp only
    split
    · split
      · exact .refl u
      · refine State.KeepsMsgs.trans ?_ (State.sendFrom_keepsMsgs _ _ _)
        exact ⟨le_rfl, fun _ _ => rfl⟩
    · exact .refl u
  exact (List.range 8).foldlRecOn _ (motive := s.KeepsMsgs) (.refl s) fun u hu _ _ => hu.trans (hone u)

theorem State.withdraw_keepsMsgs (s : State) (st : Strand) : s.KeepsMsgs (s.withdraw st) := by
  unfold State.withdraw
  split
  · exact List.foldlRecOn _ _ (motive := s.KeepsMsgs) ⟨le_rfl, fun _ _ => rfl⟩ fun u hu e _ => hu.trans (u.reserve_keepsMsgs _)
  · exact ⟨le_rfl, fun _ _ => rfl⟩

theorem State.endStrand_keepsMsgs (s : State) (st : Strand) : s.KeepsMsgs (s.endStrand st) :=
  ((s.withdraw_keepsMsgs st).trans (u := s.withdraw st) (v := (s.withdraw st).eraseStrand st.handle) ⟨le_rfl, fun _ _ => rfl⟩).trans
    ((State.reserve_keepsMsgs _ st.coreKey).trans ⟨le_rfl, fun _ _ => rfl⟩)

/-- A strand withdrawn leaves the others in their resume lists. -/
theorem State.withdraw_resume {s : State} {st : Strand} {h : BitVec 64} {k : Nat} (hm : h ∈ (s.col k).resume) (hne : h ≠ st.handle) :
    h ∈ ((s.withdraw st).col k).resume := by
  have hq : h ∈ ((s.unqueue st.handle).col k).resume := by
    have hcol : ((s.unqueue st.handle).col k).resume = (s.col k).resume.filter (· != st.handle) := by
      unfold State.unqueue State.col FMap.getD
      dsimp only
      rw [FMap.get?_mapVals]
      cases FMap.get? s.cols k <;> rfl
    rw [hcol]
    exact List.mem_filter.mpr ⟨hm, bne_iff_ne.mpr hne⟩
  unfold State.withdraw
  split
  · refine List.foldlRecOn _ _ (motive := fun u : State => h ∈ (u.col k).resume) hq fun u hu e _ => ?_
    rw [(u.reserve_sameQueues _).resume]
    exact hu
  · exact hq

theorem State.endStrand_resume {s : State} {st : Strand} {h : BitVec 64} {k : Nat} (hm : h ∈ (s.col k).resume) (hne : h ≠ st.handle) :
    h ∈ ((s.endStrand st).col k).resume := by
  have hw : h ∈ ((((s.withdraw st).eraseStrand st.handle).reserve st.coreKey).col k).resume := by
    rw [(State.reserve_sameQueues _ _).resume]
    exact State.withdraw_resume hm hne
  unfold State.endStrand State.countStrand
  by_cases hk : k = st.colKey
  · subst hk
    rw [State.col_putCol_self]
    exact hw
  · rw [State.col_putCol_ne _ _ hk]
    exact hw

/-! ### RESUME and KILL -/

section
variable {s : State} {st v : Strand} {a : GSrc} (hi : Said.Issues s st [a.reg.toNat]) (hacq : (st.rc a.reg.toNat).acq = none)
  (htake : a.take = false)
include hi hacq htake

/-- The handle is read with nothing taken. -/
theorem plain_readHandle {word : Nat} {body : Turn → State} : s.plain word 4 [gsrc a] body = .next (body ⟨s, st, s, st, 4⟩) := by
  refine (State.plain_of_issues hi).trans ?_
  rw [State.readSources_none s st [gsrc a] (by simpa [gsrc] using hacq)]
  simp [gsrc, htake]

theorem unnamed_traps (hn : s.mayName st (st.gv a.reg) = none) : Said.Runs (.resume a) s (s.trap st ⟨7, st.gv a.reg, 0⟩) ∧
    Said.Runs (.kill a) s (s.trap st ⟨7, st.gv a.reg, 0⟩) := by
  constructor
  · show execResume a s = _
    refine (plain_readHandle hi hacq htake).trans (congrArg Host.Outcome.next ?_)
    simp only [hn]
    rfl
  · show execKill a s = _
    refine (plain_readHandle hi hacq htake).trans (congrArg Host.Outcome.next ?_)
    simp only [hn]
    rfl

theorem resume_runs (hn : Said.named s st v (st.gv a.reg)) : Said.Runs (.resume a) s (s.resume st v) := by
  show execResume a s = _
  refine (plain_readHandle hi hacq htake).trans (congrArg Host.Outcome.next ?_)
  simp only [State.mayName_of_named hn]

theorem kill_runs (hn : Said.named s st v (st.gv a.reg)) : Said.Runs (.kill a) s (s.killBy st v) := by
  show execKill a s = _
  refine (plain_readHandle hi hacq htake).trans (congrArg Host.Outcome.next ?_)
  simp only [State.mayName_of_named hn]

end

/-- RESUME of a strand that may run. -/
theorem State.resume_toResume {s : State} {st v : Strand} {h : BitVec 64} (hh : v.handle = h) (hj : s.jobSuspended v.job = false ∨ v.urgent = true) (hne : h ≠ st.handle) :
    (s.resume st v).strands = FMap.erase (FMap.set s.strands h.toNat
      { v with status := .evicted, pcause := 0, cls := .resumed, pending := none }) st.handle.toNat ∧
      (s.resume st v).mem = s.mem ∧ h ∈ ((s.resume st v).col v.colKey).resume := by
  subst hh
  have he : s.resume st v = (s.toResume v).endStrand st := by
    unfold State.resume
    rw [if_neg]
    rcases hj with e | e <;> simp [e]
  rw [he]
  refine ⟨State.endStrand_strands _ _, (State.endStrand_sameRecords _ _).mem, State.endStrand_resume ?_ hne⟩
  unfold State.toResume
  rw [State.col_putCol_self]
  exact List.mem_append_right _ (List.mem_singleton.mpr rfl)

/-- RESUME of a strand of a suspended job. -/
theorem State.resume_suspends {s : State} {st v : Strand} {h : BitVec 64} (hh : v.handle = h) (hj : s.jobSuspended v.job = true) (hu : v.urgent = false) :
    (s.resume st v).strands = FMap.erase (FMap.set s.strands h.toNat
      { v with status := .suspended, pcause := 0, pending := none }) st.handle.toNat ∧ (s.resume st v).mem = s.mem := by
  subst hh
  have he : s.resume st v = (s.putStrand { v with status := .suspended, pcause := 0, pending := none }).endStrand st := by
    unfold State.resume
    rw [if_pos (by simp [hj, hu])]
  rw [he]
  exact ⟨State.endStrand_strands _ _, (State.endStrand_sameRecords _ _).mem⟩

/-- KILL of a strand without a join word or a reservation. -/
theorem State.killBy_plain {s : State} {st v : Strand} {h : BitVec 64} (hh : v.handle = h) (hjw : v.joinw = 0) (hph : v.phase = .none) :
    (s.killBy st v).strands = FMap.erase (FMap.erase s.strands h.toNat) st.handle.toNat ∧ (s.killBy st v).mem = s.mem ∧
      (st.hkind = .sup → Said.status3 s (s.killBy st v) v.job) ∧ (st.hkind = .job → (s.killBy st v).jobs = s.jobs) := by
  subst hh
  have hrec := (s.endStrand_sameRecords v).trans ((s.endStrand v).endStrand_sameRecords st)
  have hstr : ((s.endStrand v).endStrand st).strands = FMap.erase (FMap.erase s.strands v.handle.toNat) st.handle.toNat := by
    rw [State.endStrand_strands, State.endStrand_strands]
  have he : s.killBy st v = if st.hkind == .sup then ((s.endStrand v).endStrand st).recordStatus v.job 3 else (s.endStrand v).endStrand st := by
    rw [State.killBy, State.kill_plain hjw hph]
  obtain ⟨js, hjs⟩ := ((s.endStrand v).endStrand st).recordStatus_eq v.job 3
  by_cases hk : st.hkind = .sup
  · rw [if_pos (beq_iff_eq.mpr hk)] at he
    rw [he]
    refine ⟨by rw [hjs]; exact hstr, by rw [hjs]; exact hrec.mem, fun _ j hj hh h0 => ?_, fun hk' => absurd (hk.symm.trans hk') (by decide)⟩
    exact State.job?_recordStatus ((hrec.job? _).trans hj) hh h0
  · rw [if_neg (mt beq_iff_eq.mp hk)] at he
    rw [he]
    exact ⟨hstr, hrec.mem, fun hk' => absurd hk' hk, fun _ => hrec.jobs⟩

end Sys2Proof.Machine
end

section
/-! SUPPORT. O54: RESUME with SCP 1 (spec/18 R381), and the obligation. -/

namespace Sys2Proof.Machine

/-- A strand as it leaves for a home (spec/06 R104 step 2). -/
def State.departing (s : State) (v : Strand) (dest : Nat) (cva : Option Nat) (va : Word) : Strand :=
  { v.dropAll with status := .inFlight, pcause := 0, dest := dest, destVa := va, destCva := cva, refusals := 0,
                   rlim := v.coreKey, wait := .none, phase := v.phase.kept, regrow := none, pending := none,
                   bedWait := none, before := (s.strand? v.handle).map (fun o => (o.bounce, o.ctl)) }

/-- Its fields that the departure keeps. -/
theorem State.departing_keeps (s : State) (v : Strand) (dest : Nat) (cva : Option Nat) (va : Word) : let w := s.departing v dest cva va
    w.handle = v.handle ∧ w.pc = v.pc ∧ w.bounce = v.bounce ∧ w.g = v.g := by
  have hd : ∃ c, v.dropAll = { v with ctl := c } := by
    unfold Strand.dropAll
    refine List.foldlRecOn _ Strand.dropReg (motive := fun w => ∃ c, w = { v with ctl := c }) ⟨v.ctl, rfl⟩ fun w ⟨c, hc⟩ r _ => ?_
    obtain ⟨c', hc'⟩ := w.dropReg_eq r
    exact ⟨c', by rw [hc', hc]⟩
  obtain ⟨c, hc⟩ := hd
  unfold State.departing
  rw [hc]
  exact ⟨rfl, rfl, rfl, rfl⟩

/-- The departure of a strand sends its message, and writes its entry alone. -/
theorem State.depart_spec (s : State) (v : Strand) (dest : Nat) (cva : Option Nat) (va : Word) :
    (s.depart v dest cva va).strands = FMap.set s.strands (s.departing v dest cva va).handle.toNat (s.departing v dest cva va) ∧
      (s.depart v dest cva va).mem = s.mem ∧ (s.depart v dest cva va).fresh = s.fresh + 1 ∧
      FMap.get? (s.depart v dest cva va).msgs s.fresh = some (.migrate v.handle dest (s.departing v dest cva va).message) := by
  have he : s.depart v dest cva va = ((s.putStrand (s.departing v dest cva va)).unqueue v.handle).sendFrom v.loc.tile
      (.migrate v.handle dest (s.departing v dest cva va).message) := rfl
  have hu := State.sendFrom_sameUnits ((s.putStrand (s.departing v dest cva va)).unqueue v.handle) v.loc.tile
    (.migrate v.handle dest (s.departing v dest cva va).message)
  rw [he]
  refine ⟨hu.strands, hu.mem, State.sendFrom_fresh _ _ _, ?_⟩
  rw [State.sendFrom_msgs]
  exact FMap.get?_set_self _ _ _

section
variable {s : State} {st v : Strand} {a b : GSrc} (hi : Said.Issues s st [a.reg.toNat, b.reg.toNat])
  (hacqa : (st.rc a.reg.toNat).acq = none) (htakea : a.take = false) (hacqb : (st.rc b.reg.toNat).acq = none) (htakeb : b.take = false)
include hi hacqa htakea hacqb htakeb

/-- Both operands are read with nothing taken. -/
theorem plain_readHandles {word : Nat} {body : Turn → State} :
    s.plain word 4 [gsrc a, gsrc b] body = .next (body ⟨s, st, s, st, 4⟩) := by
  refine (State.plain_of_issues hi).trans ?_
  rw [State.readSources_none s st [gsrc a, gsrc b] (by simp [gsrc, hacqa, hacqb])]
  simp [gsrc, htakea, htakeb]

variable (hn : Said.named s st v (st.gv a.reg)) {tab : BedTable} (htab : s.tableFor v = some tab) (hva : (st.gv b.reg).toNat < 2 ^ 56)
include hn htab hva

theorem resumeMigrate_miss (hm : tab.find (st.gv b.reg).toNat = none) :
    Said.Runs (.resumeMigrate a b) s (s.trap st ⟨4, st.gv b.reg, 0⟩) := by
  show execResumeMigrate a b s = _
  refine (plain_readHandles hi hacqa htakea hacqb htakeb).trans (congrArg Host.Outcome.next ?_)
  simp only [State.mayName_of_named hn, htab, if_neg (Nat.not_le.mpr hva), hm]
  rfl

variable {x : BedHit} (hx : tab.find (st.gv b.reg).toNat = some x)
include hx

theorem resumeMigrate_homeless (hg : (s.target v x (st.gv b.reg)).home = none) :
    Said.Runs (.resumeMigrate a b) s (s.trap st ⟨5, st.gv b.reg, .ofNat 64 (x.index * 256 + x.bed.kind.code)⟩) := by
  show execResumeMigrate a b s = _
  refine (plain_readHandles hi hacqa htakea hacqb htakeb).trans (congrArg Host.Outcome.next ?_)
  simp only [State.mayName_of_named hn, htab, if_neg (Nat.not_le.mpr hva), hx, hg]
  rfl

variable {key : Nat} (hg : (s.target v x (st.gv b.reg)).home = some key)
include hg

theorem resumeMigrate_waits (hm : s.mayDepart v = false) : Said.Runs (.resumeMigrate a b) s (s.park st 2 0) := by
  show execResumeMigrate a b s = _
  refine (plain_readHandles hi hacqa htakea hacqb htakeb).trans (congrArg Host.Outcome.next ?_)
  simp only [State.mayName_of_named hn, htab, if_neg (Nat.not_le.mpr hva), hx, hg, hm, Bool.false_eq_true, ↓reduceIte]
  rfl

theorem resumeMigrate_leaves (hm : s.mayDepart v = true) (hne : st.gv a.reg ≠ st.handle) :
    ∃ u w m, Said.Runs (.resumeMigrate a b) s u ∧ u.strand? (st.gv a.reg) = some w ∧ w.status = .inFlight ∧ w.dest = key ∧
      w.destVa = st.gv b.reg ∧ w.pc = v.pc ∧ w.bounce = v.bounce ∧ w.g = v.g ∧
      FMap.get? u.msgs m = some (.migrate (st.gv a.reg) key w.message) ∧
      u.strands = FMap.erase (FMap.set s.strands (st.gv a.reg).toNat w) st.handle.toNat ∧ u.mem = s.mem := by
  obtain ⟨-, hh, -, -⟩ := id hn
  obtain ⟨hstr, hmem, hfresh, hmsg⟩ := s.depart_spec v key (s.target v x (st.gv b.reg)).cva (st.gv b.reg)
  obtain ⟨hwh, hpc, hb, hgs⟩ := s.departing_keeps v key (s.target v x (st.gv b.reg)).cva (st.gv b.reg)
  have hrun : Said.Runs (.resumeMigrate a b) s ((s.depart v key (s.target v x (st.gv b.reg)).cva (st.gv b.reg)).endStrand st) := by
    show execResumeMigrate a b s = _
    refine (plain_readHandles hi hacqa htakea hacqb htakeb).trans (congrArg Host.Outcome.next ?_)
    simp only [State.mayName_of_named hn, htab, if_neg (Nat.not_le.mpr hva), hx, hg, hm, ↓reduceIte]
  rw [hwh, hh] at hstr
  rw [hh] at hmsg
  have hend := (State.endStrand_strands (s.depart v key (s.target v x (st.gv b.reg)).cva (st.gv b.reg)) st).trans
    (congrArg (FMap.erase · st.handle.toNat) hstr)
  refine ⟨_, s.departing v key (s.target v x (st.gv b.reg)).cva (st.gv b.reg), s.fresh, hrun, ?_, rfl, rfl, rfl, hpc, hb, hgs, ?_, hend,
    (State.endStrand_sameRecords _ st).mem.trans hmem⟩
  · unfold State.strand?
    rw [hend]
    exact FMap.get?_erase_of_get? (FMap.get?_set_self _ _ _) fun e => hne (BitVec.eq_of_toNat_eq e)
  · rw [(State.endStrand_keepsMsgs _ st).msgs _ (by omega)]
    exact hmsg

end

/-- Settles O54: TRAP and BKPT take their trap or halt the group; RESUME and KILL act on the strand that the handle names and end the
handler. -/
theorem handlersTrapResumeAndKill : Obligations.HandlersTrapResumeAndKill := by
  unfold Obligations.HandlersTrapResumeAndKill
  refine ⟨fun s st imm hi => ⟨trap_traps hi imm, bkpt_traps hi imm, fun hob hrun _ => bkpt_halts hi imm hob hrun, ?_⟩, ?_⟩
  · intro j hf hph hk hj hh hr hn
    have hs : ¬ Said.toSup ⟨16, 0, imm.zeroExtend 64⟩ := by simp [Said.toSup]
    obtain ⟨v, hv, ht, -, hhandles⟩ := trapAt_job_room hf hk hs (next := st.pc + 4) hj hh hr hn
    exact ⟨_, v, trap_traps hi imm, hv, ht, hhandles⟩
  · intro s st v a hi hacq htake
    refine ⟨fun hn hh => unnamed_traps hi hacq htake (State.mayName_of_unnamed hn hh), fun hn hne => ?_⟩
    obtain ⟨-, hh, -, -⟩ := id hn
    refine ⟨fun hj => ?_, fun hj hu => ?_, fun hjw hph => ?_, fun b hi2 hacqb htakeb tab htab hva => ⟨?_, fun x hx => ⟨?_, fun key hg => ⟨?_, ?_⟩⟩⟩⟩
    · obtain ⟨hs, hm, hr⟩ := State.resume_toResume hh hj hne
      exact ⟨_, resume_runs hi hacq htake hn, ⟨hs, hm⟩, hr⟩
    · exact ⟨_, resume_runs hi hacq htake hn, State.resume_suspends hh hj hu⟩
    · obtain ⟨hs, hm, h3, hjobs⟩ := State.killBy_plain (s := s) (st := st) hh hjw hph
      exact ⟨_, kill_runs hi hacq htake hn, ⟨hs, hm⟩, h3, hjobs⟩
    · exact resumeMigrate_miss hi2 hacq htake hacqb htakeb hn htab hva
    · exact resumeMigrate_homeless hi2 hacq htake hacqb htakeb hn htab hva hx
    · exact resumeMigrate_waits hi2 hacq htake hacqb htakeb hn htab hva hx hg
    · exact fun hm => resumeMigrate_leaves hi2 hacq htake hacqb htakeb hn htab hva hx hg hm hne

end Sys2Proof.Machine
end

section
/-! SUPPORT. O52: fields of words, what SWR of SS stores, and the codes of the registers' states (spec/13 R258, R259, spec/06 R91). -/

namespace Sys2Proof.Machine

/-! ### A field replaced -/

theorem replace_eq_field (w lo len x : Nat) : w - bits w lo len * 2 ^ lo + x * 2 ^ lo = Said.field w lo len x := by
  have h1 := Nat.div_add_mod w (2 ^ lo)
  have h2 := Nat.div_add_mod (w / 2 ^ lo) (2 ^ len)
  rw [Nat.div_div_eq_div_mul, ← Nat.pow_add] at h2
  have h3 : w = w / 2 ^ (lo + len) * 2 ^ (lo + len) + bits w lo len * 2 ^ lo + w % 2 ^ lo := by
    unfold bits
    calc w = 2 ^ lo * (w / 2 ^ lo) + w % 2 ^ lo := h1.symm
      _ = 2 ^ lo * (2 ^ len * (w / 2 ^ (lo + len)) + w / 2 ^ lo % 2 ^ len) + w % 2 ^ lo := by rw [h2]
      _ = _ := by rw [Nat.pow_add]; ring
  unfold Said.field
  generalize w / 2 ^ (lo + len) * 2 ^ (lo + len) = p at h3 ⊢
  generalize bits w lo len * 2 ^ lo = q at h3 ⊢
  omega

theorem getLsbD_setBits (v : Word) (lo len x : Nat) {i : Nat} (hi : i < 64) : (setBits v lo len x).getLsbD i =
    if i < lo then v.getLsbD i else if i < lo + len then x.testBit (i - lo) else v.getLsbD i := by
  have hf : Said.field v.toNat lo len (x % 2 ^ len) =
      2 ^ lo * (2 ^ len * (v.toNat / 2 ^ (lo + len)) + x % 2 ^ len) + v.toNat % 2 ^ lo := by
    unfold Said.field
    rw [Nat.pow_add]
    ring
  rw [setBits, replace_eq_field, hf, BitVec.getLsbD_ofNat, decide_eq_true hi, Bool.true_and,
    Nat.testBit_two_pow_mul_add _ (Nat.mod_lt _ (Nat.two_pow_pos lo)),
    Nat.testBit_two_pow_mul_add _ (Nat.mod_lt _ (Nat.two_pow_pos len))]
  by_cases h1 : i < lo
  · rw [if_pos h1, if_pos h1, Nat.testBit_mod_two_pow, decide_eq_true h1]
    rfl
  · rw [if_neg h1, if_neg h1]
    by_cases h2 : i < lo + len
    · have h2' : i - lo < len := by omega
      rw [if_pos h2', if_pos h2, Nat.testBit_mod_two_pow, decide_eq_true h2']
      rfl
    · rw [if_neg (by omega), if_neg h2, Nat.testBit_div_two_pow]
      congr 1
      omega

/-! ### SS (spec/13 R258, R259) -/

/-- RM and the flags as they are stored. -/
theorem testBit_rmFlags (v : Word) {i : Nat} (hi : i < 8) : (rmFlags v.toNat).testBit i =
    if i < 3 then !decide (5 ≤ v.toNat % 8) && v.getLsbD i else v.getLsbD i := by
  have hlt : (if v.toNat % 8 ≥ 5 then 0 else v.toNat % 8) < 2 ^ 3 := by split <;> omega
  rw [rmFlags, Nat.add_comm, Nat.mul_comm]
  refine (Nat.testBit_two_pow_mul_add _ hlt i).trans ?_
  by_cases h : i < 3
  · rw [if_pos h, if_pos h]
    by_cases h5 : v.toNat % 8 ≥ 5
    · rw [if_pos h5, decide_eq_true h5, Nat.zero_testBit]
      rfl
    · rw [if_neg h5, decide_eq_false h5]
      refine (Nat.testBit_mod_two_pow v.toNat 3 i).trans ?_
      rw [decide_eq_true h]
      rfl
  · rw [if_neg h, if_neg h, bits, Nat.testBit_mod_two_pow, decide_eq_true (by omega), Nat.testBit_div_two_pow, Bool.true_and]
    show v.getLsbD (i - 3 + 3) = _
    rw [Nat.sub_add_cancel (by omega)]

theorem getLsbD_ssWritten (old v : Word) {i : Nat} (hi : i < 64) : (Said.ssWritten old v).getLsbD i =
    if i < 3 then !decide (5 ≤ v.toNat % 8) && v.getLsbD i else if i < 8 then v.getLsbD i else old.getLsbD i := by
  have h1 : ∀ i < 64, (~~~0xFF#64).getLsbD i = decide (8 ≤ i) := by decide
  have h2 : ∀ i < 64, (0xF8#64).getLsbD i = (decide (3 ≤ i) && decide (i < 8)) := by decide
  have h3 : ∀ i < 64, (7#64).getLsbD i = decide (i < 3) := by decide
  have h4 : (if 5 ≤ v.toNat % 8 then 0 else v &&& 7).getLsbD i = (decide (i < 3) && (!decide (5 ≤ v.toNat % 8) && v.getLsbD i)) := by
    split
    · next h => rw [decide_eq_true h, Bool.not_true, Bool.false_and, Bool.and_false]; exact BitVec.getLsbD_zero
    · next h =>
      rw [decide_eq_false h, BitVec.getLsbD_and]
      exact (congrArg (v.getLsbD i && ·) (h3 i hi)).trans (by rw [Bool.and_comm]; rfl)
  have h1' : (~~~(0xFF : Word)).getLsbD i = decide (8 ≤ i) := h1 i hi
  have h2' : (0xF8 : Word).getLsbD i = (decide (3 ≤ i) && decide (i < 8)) := h2 i hi
  rw [Said.ssWritten, BitVec.getLsbD_or, BitVec.getLsbD_or, BitVec.getLsbD_and, BitVec.getLsbD_and, h4, h1', h2']
  by_cases a : i < 3
  · simp [a, Nat.not_le.mpr a, show ¬ 8 ≤ i by omega]
  · by_cases b : i < 8
    · simp [a, b, Nat.not_lt.mp a, Nat.not_le.mpr b]
    · simp [a, b, Nat.not_lt.mp b]

theorem getLsbD_ssWrittenByHandle (old v : Word) {i : Nat} (hi : i < 64) : (Said.ssWrittenByHandle old v).getLsbD i =
    if 8 ≤ i ∧ i < 17 then v.getLsbD i else (Said.ssWritten old v).getLsbD i := by
  have h1 : ∀ i < 64, (~~~0x1FF00#64).getLsbD i = !decide (8 ≤ i ∧ i < 17) := by decide
  have h2 : ∀ i < 64, (0x1FF00#64).getLsbD i = decide (8 ≤ i ∧ i < 17) := by decide
  have h1' : (~~~(0x1FF00 : Word)).getLsbD i = !decide (8 ≤ i ∧ i < 17) := h1 i hi
  have h2' : (0x1FF00 : Word).getLsbD i = decide (8 ≤ i ∧ i < 17) := h2 i hi
  rw [Said.ssWrittenByHandle, BitVec.getLsbD_or, BitVec.getLsbD_and, BitVec.getLsbD_and, h1', h2']
  by_cases a : 8 ≤ i ∧ i < 17 <;> simp [a]

/-- Outside the prefix, SWR of SS leaves what the spec says; the prefix goes with the instruction's end. -/
theorem swr_ss (old v : Word) : setBits (setBits old 0 8 (rmFlags v.toNat)) 8 9 0 &&& 0xFFFFFFFFFFFE00FF =
    Said.ssWritten old v &&& 0xFFFFFFFFFFFE00FF := by
  have hm : ∀ i < 64, (0xFFFFFFFFFFFE00FF#64).getLsbD i = !decide (8 ≤ i ∧ i < 17) := by decide
  refine BitVec.eq_of_getLsbD_eq fun i hi => ?_
  have hm' : (0xFFFFFFFFFFFE00FF : Word).getLsbD i = !decide (8 ≤ i ∧ i < 17) := hm i hi
  rw [BitVec.getLsbD_and, BitVec.getLsbD_and, hm']
  by_cases a : 8 ≤ i ∧ i < 17
  · simp [a]
  · refine congrArg (· && _) ?_
    rw [getLsbD_setBits _ _ _ _ hi, getLsbD_setBits _ _ _ _ hi, getLsbD_ssWritten _ _ hi]
    by_cases b : i < 8
    · have h3 := testBit_rmFlags v b
      simp only [b, Nat.not_lt_zero, ↓reduceIte, Nat.zero_add, Nat.sub_zero, h3]
    · have hc : ¬ i < 8 + 9 := by omega
      simp [b, hc, show ¬ i < 3 by omega]

theorem Strand.writeSsHandle_eq (t : Strand) (v : Word) : t.writeSsHandle v = { t with ss := Said.ssWrittenByHandle t.ss v } := by
  unfold Strand.writeSsHandle
  congr 1
  refine BitVec.eq_of_getLsbD_eq fun i hi => ?_
  rw [getLsbD_setBits _ _ _ _ hi, getLsbD_setBits _ _ _ _ hi, getLsbD_ssWrittenByHandle _ _ hi, getLsbD_ssWritten _ _ hi]
  by_cases b : i < 8
  · have h3 := testBit_rmFlags v b
    simp only [b, show ¬ (8 ≤ i ∧ i < 17) by omega, Nat.not_lt_zero, ↓reduceIte, Nat.zero_add, Nat.sub_zero, h3]
  · by_cases c : i < 17
    · have h4 : (bits v.toNat 8 9).testBit (i - 8) = v.getLsbD i := by
        rw [bits, Nat.testBit_mod_two_pow, decide_eq_true (by omega), Bool.true_and, Nat.testBit_div_two_pow, Nat.sub_add_cancel (by omega)]
        rfl
      simp [b, c, Nat.not_lt.mp b, h4]
    · simp [b, c, show ¬ i < 3 by omega]

/-! ### Codes of two bits each (spec/06 R91) -/

/-- Digits of base 4 stand where they were put. -/
theorem foldl_digits {d : Nat → Nat} (hd : ∀ r, d r < 4) (n : Nat) :
    ((List.range n).map (fun r => d r * 4 ^ r)).foldl (· + ·) 0 < 4 ^ n ∧
      ∀ r < n, ((List.range n).map (fun r => d r * 4 ^ r)).foldl (· + ·) 0 / 4 ^ r % 4 = d r := by
  induction n with
  | zero => exact ⟨Nat.one_pos, fun r hr => absurd hr (Nat.not_lt_zero r)⟩
  | succ n ih =>
    obtain ⟨hlt, hdig⟩ := ih
    rw [List.range_succ, List.map_append, List.foldl_append]
    simp only [List.map_cons, List.map_nil, List.foldl_cons, List.foldl_nil]
    generalize ((List.range n).map (fun r => d r * 4 ^ r)).foldl (· + ·) 0 = a at hlt hdig ⊢
    refine ⟨?_, fun r hr => ?_⟩
    · have h1 : d n * 4 ^ n ≤ 3 * 4 ^ n := Nat.mul_le_mul_right _ (Nat.le_of_lt_succ (hd n))
      rw [Nat.pow_succ]
      omega
    · have hpos : 0 < 4 ^ r := Nat.pow_pos (by decide)
      by_cases h : r < n
      · obtain ⟨c, rfl⟩ : ∃ c, n = r + 1 + c := ⟨n - (r + 1), by omega⟩
        have he : d (r + 1 + c) * 4 ^ (r + 1 + c) = 4 ^ r * (4 * (4 ^ c * d (r + 1 + c))) := by
          rw [Nat.pow_add, Nat.pow_succ]
          ring
        rw [he, Nat.add_mul_div_left _ _ hpos, Nat.add_mul_mod_self_left]
        exact hdig r h
      · obtain rfl : r = n := by omega
        rw [Nat.add_mul_div_right _ _ hpos, Nat.div_eq_of_lt hlt, Nat.zero_add, Nat.mod_eq_of_lt (hd r)]

theorem RegState.code_lt (c : RegState) : c.code < 4 := by cases c <;> decide

theorem Strand.rst_spec (v : Strand) : v.rst < 2 ^ 48 ∧ ∀ r, r < 24 → v.rst / 2 ^ (2 * r) % 4 = (v.rc r).st.code := by
  obtain ⟨hlt, hdig⟩ := foldl_digits (d := fun r => (v.rc r).st.code) (fun r => RegState.code_lt _) 24
  refine ⟨hlt, fun r hr => ?_⟩
  rw [Nat.pow_mul]
  exact hdig r hr

theorem stateCode_eq (c : RegState) : (Said.stateCode c).truncate 2 = BitVec.ofNat 2 c.code := by cases c <;> rfl

theorem attachedTo_eq (t : Strand) (r : Nat) : Said.attachedTo t r = (t.attached r).isSome := by
  rw [Strand.attached, Option.isSome_map, Bool.eq_iff_iff, List.find?_isSome]
  unfold Said.attachedTo
  simp only [List.any_eq_true, List.mem_range, beq_iff_eq, Option.map_eq_some_iff]
  constructor
  · rintro ⟨i, -, e, he, hr⟩
    exact ⟨e, List.mem_of_getElem? he, hr⟩
  · rintro ⟨e, he, hr⟩
    obtain ⟨i, hi, rfl⟩ := List.mem_iff_getElem.mp he
    exact ⟨i, by simpa using hi, _, List.getElem?_eq_getElem hi, hr⟩

/-- A register's control after its code is stored. -/
def Strand.coded (v : Strand) (r code : Nat) : RegCtl := { v.rc r with st := v.codeState r code, acq := none, loss := none }

/-- The states stored, register by register. -/
theorem Strand.setStates_spec (v : Strand) (x n : Nat) : ∃ c, v.setStates 0 n x = { v with ctl := c } ∧
    ∀ r, r < 24 → ({ v with ctl := c } : Strand).rc r = if r < n then v.coded r (bits x (2 * r) 2) else v.rc r := by
  induction n with
  | zero => exact ⟨v.ctl, rfl, fun r _ => (if_neg (Nat.not_lt_zero r)).symm⟩
  | succ n ih =>
    obtain ⟨c, he, hr⟩ := ih
    have hs : v.setStates 0 (n + 1) x = ({ v with ctl := c } : Strand).setRc n (Strand.coded { v with ctl := c } n (bits x (2 * n) 2)) := by
      rw [← he]
      unfold Strand.setStates
      rw [List.range_succ, List.foldl_append]
      simp only [List.foldl_cons, List.foldl_nil, Nat.zero_add]
      rfl
    refine ⟨_, hs, fun r h => ?_⟩
    show (({ v with ctl := c } : Strand).setRc n (Strand.coded { v with ctl := c } n (bits x (2 * n) 2))).rc r = _
    rw [Strand.rc_setRc _ _ h]
    by_cases hn : n = r
    · subst hn
      rw [if_pos rfl, if_pos (Nat.lt_succ_self n), Strand.coded, hr n h, if_neg (Nat.lt_irrefl n)]
      rfl
    · rw [if_neg hn, hr r h]
      by_cases hl : r < n
      · rw [if_pos hl, if_pos (by omega)]
      · rw [if_neg hl, if_neg (by omega)]

end Sys2Proof.Machine
end

section
/-! SUPPORT. O52: SRD and SWR (spec/18 R378, spec/13 R257). -/

namespace Sys2Proof.Machine

/-! ### The issue of an instruction with a limit -/

theorem Said.Issues.anyhow {s : State} {st : Strand} {l : List Nat} (h : Said.Issues s st l) : Said.IssuesAnyhow s st := by
  obtain ⟨hc, hs, hp, -⟩ := h
  exact ⟨hc, hs, hp⟩

/-- What a limit forbids traps. -/
theorem State.issue_forbidden {s : State} {st : Strand} {word len : Nat} {pre : State → Strand → Option Trip}
    {srcs : Strand → List (Nat × Bool)} {waits : List Nat} {body : Turn → State} {t : Trip} (h : Said.IssuesAnyhow s st)
    (hl : pre s st = some t) : s.issue word len none pre srcs waits body = .next (s.trap st t) := by
  obtain ⟨hc, hs, hp⟩ := h
  exact State.issue_limit (by rw [hc, Option.bind_some, hs]) (prefixTrip_none hp none word) hl

/-- What a limit allows runs as an instruction without one. -/
theorem State.issue_allowed {s : State} {st : Strand} {word len : Nat} {pre : State → Strand → Option Trip} {srcs : List (Nat × Bool)}
    {body : Turn → State} (h : Said.Issues s st (srcs.map (·.1))) (hl : pre s st = none) :
    s.issue word len none pre (fun _ => srcs) [] body = .next (body ⟨s, st, (s.readSources st srcs).1, (s.readSources st srcs).2, len⟩) := by
  obtain ⟨hc, hs, hp, hr⟩ := h
  refine (?_ : _ = s.plain word len srcs body).trans (State.plain_of_issues ⟨hc, hs, hp, hr⟩)
  have hb : s.cur.bind s.strand? = some st := by rw [hc, Option.bind_some, hs]
  simp only [State.plain, State.issue, hb, prefixTrip_none hp none word, hl, noLimit]

/-! ### The contents of the special registers -/

theorem specialAssigned_of_unassigned {n : BitVec 6} (h : Said.unassigned n) : specialAssigned n.toNat = false := by
  unfold Said.unassigned at h
  simp only [specialAssigned, Bool.or_eq_false_iff, Bool.and_eq_false_iff, decide_eq_false_iff_not]
  omega

/-- The registers whose contents the tile always holds, by number. -/
theorem State.special_of_specialOf {s : State} {st : Strand} {v : Word} : ∀ {n : Nat}, Said.specialOf s st n = some v →
    n ≤ 10 ∧ s.special st n = some v
  | 0, h => ⟨by decide, h⟩
  | 1, h => ⟨by decide, h⟩
  | 2, h => ⟨by decide, h⟩
  | 3, h => ⟨by decide, h⟩
  | 4, h => ⟨by decide, h⟩
  | 5, h => ⟨by decide, h⟩
  | 6, h => ⟨by decide, h⟩
  | 7, h => by
    obtain ⟨j, hj, rfl⟩ := Option.map_eq_some_iff.mp h
    exact ⟨by decide, by simp only [State.special, hj, Option.map_some]⟩
  | 8, h => ⟨by decide, h⟩
  | 9, h => by
    obtain ⟨j, hj, rfl⟩ := Option.map_eq_some_iff.mp h
    exact ⟨by decide, by simp only [State.special, hj, Option.map_some]⟩
  | 10, h => ⟨by decide, h⟩
  | n + 11, h => by cases h

section
variable {s : State} {st : Strand} {n : Nat} (hn : 11 ≤ n)
include hn

theorem State.special_without_levels (hl : FMap.get? (s.tile st.loc.tile).levels st.job = none) : s.special st n = none := by
  obtain ⟨m, rfl⟩ := Nat.exists_eq_add_of_le' hn
  simp only [State.special, hl]

theorem State.special_index {l : List Level} (hl : FMap.get? (s.tile st.loc.tile).levels st.job = some l) (h24 : n < 24) :
    s.special st n = some (.ofNat 64 (((levelIndices l st.flat)[n - 16]?).getD 0)) := by
  obtain ⟨m, rfl⟩ := Nat.exists_eq_add_of_le' hn
  simp only [State.special, hl, h24, ↓reduceIte]

theorem State.special_count {l : List Level} (hl : FMap.get? (s.tile st.loc.tile).levels st.job = some l) (h24 : ¬ n < 24) :
    s.special st n = some (.ofNat 64 ((l[n - 24]?.map (·.count)).getD 1)) := by
  obtain ⟨m, rfl⟩ := Nat.exists_eq_add_of_le' hn
  simp only [State.special, hl, h24, ↓reduceIte]

end

/-- The index at a level: the flat index over the counts of the levels below it (spec/05 R70). -/
theorem levelIndices_spec (l : List Level) (f : Nat) :
    (l.reverse.foldl (fun (p : Nat × List Nat) v => (p.1 / v.count, (p.1 % v.count) :: p.2)) (f, [])).1 = f / (l.map (·.count)).prod ∧
      ∀ k : Nat, (levelIndices l f)[k]? = l[k]?.map fun x => f / ((l.drop (k + 1)).map (·.count)).prod % x.count := by
  induction l with
  | nil => exact ⟨(Nat.div_one f).symm, fun k => rfl⟩
  | cons x l ih =>
    obtain ⟨hq, hk⟩ := ih
    have hstep : (x :: l).reverse.foldl (fun (p : Nat × List Nat) v => (p.1 / v.count, (p.1 % v.count) :: p.2)) (f, []) =
        (f / (l.map (·.count)).prod / x.count, f / (l.map (·.count)).prod % x.count :: levelIndices l f) := by
      rw [List.reverse_cons, List.foldl_append, ← hq]
      rfl
    refine ⟨?_, fun k => ?_⟩
    · rw [hstep, List.map_cons, List.prod_cons, Nat.div_div_eq_div_mul, Nat.mul_comm]
    · rw [levelIndices, hstep]
      cases k with
      | zero => rfl
      | succ k => exact hk k

/-! ### SRD and SWR -/

section
variable {s : State} {st : Strand} {d : GReg} {n : BitVec 6}

theorem srd_illegal (hi : Said.IssuesAnyhow s st) (hn : Said.unassigned n) :
    Said.Runs (.srd d n) s (s.trap st ⟨1, 0, .ofNat 64 (encode (.srd d n))⟩) := by
  show execSrd d n s = _
  unfold execSrd
  refine State.issue_forbidden hi ?_
  show (if specialAssigned n.toNat then none else some (illegal (encode (.srd d n)))) = _
  rw [specialAssigned_of_unassigned hn]
  rfl

section
variable (hi : Said.Issues s st [])
include hi

theorem srd_reads {v : Word} (ha : specialAssigned n.toNat = true) (hv : s.special st n.toNat = some v) :
    Said.Runs (.srd d n) s (Said.completes s st [] 4 (fun t => t.setG d v)) := by
  show execSrd d n s = _
  unfold execSrd
  refine (State.issue_allowed (srcs := []) hi ?_).trans (congrArg Host.Outcome.next ?_)
  · exact if_pos ha
  dsimp only
  rw [show (s.readSources st []).1.special st n.toNat = some v from hv]
  rfl

theorem srd_index {l : List Level} (hl : FMap.get? (s.tile st.loc.tile).levels st.job = some l) {k : Nat} (hk : k < 8)
    (hn : n.toNat = 16 + k) : Said.Runs (.srd d n) s (Said.completes s st [] 4 (fun t => t.setG d (.ofNat 64
      ((l[k]?.map fun x => st.flat / ((l.drop (k + 1)).map (·.count)).foldl (· * ·) 1 % x.count).getD 0)))) := by
  refine srd_reads hi (by rw [hn]; simp [specialAssigned]; omega) ?_
  rw [hn, State.special_index (by omega) hl (by omega), Nat.add_sub_cancel_left, (levelIndices_spec l st.flat).2 k,
    List.prod_eq_foldl_nat]

theorem srd_count {l : List Level} (hl : FMap.get? (s.tile st.loc.tile).levels st.job = some l) {k : Nat} (hk : k < 8)
    (hn : n.toNat = 24 + k) : Said.Runs (.srd d n) s (Said.completes s st [] 4 (fun t => t.setG d (.ofNat 64
      ((l[k]?.map (·.count)).getD 1)))) := by
  refine srd_reads hi (by rw [hn]; simp [specialAssigned]; omega) ?_
  rw [hn, State.special_count (by omega) hl (by omega), Nat.add_sub_cancel_left]

theorem srd_asks (hl : FMap.get? (s.tile st.loc.tile).levels st.job = none) (h16 : 16 ≤ n.toNat) (h32 : n.toNat < 32) :
    ∃ u m, Said.Runs (.srd d n) s u ∧ u.strand? st.handle = some ((st.await d.toNat s.fresh).completed (st.pc + 4)) ∧
      FMap.get? u.msgs m = some (.levels st.handle d.toNat s.fresh n.toNat) := by
  have hh : ((st.await d.toNat s.fresh).completed (st.pc + 4)).handle = st.handle := Strand.completed_handle _ _
  have hw (u : State) : u.KeepsMsgs (u.wantTable st.loc.tile 2 st.job) ∧ (u.wantTable st.loc.tile 2 st.job).strands = u.strands := by
    unfold State.wantTable
    split
    · exact ⟨.refl u, rfl⟩
    · exact ⟨u.sendFrom_keepsMsgs _ _, (u.sendFrom_sameUnits _ _).strands⟩
  obtain ⟨hm, hstr⟩ := hw ((s.putStrand ((st.await d.toNat s.fresh).completed (st.pc + 4))).send
    (.levels st.handle d.toNat s.fresh n.toNat))
  refine ⟨_, s.fresh, ?_, ?_, (hm.msgs s.fresh (Nat.lt_succ_self _)).trans (FMap.get?_set_self _ _ _)⟩
  · show execSrd d n s = _
    unfold execSrd
    refine (State.issue_allowed (srcs := []) hi ?_).trans (congrArg Host.Outcome.next ?_)
    · refine if_pos ?_
      simp only [specialAssigned, Bool.or_eq_true, Bool.and_eq_true, decide_eq_true_eq]
      omega
    · dsimp only
      rw [show (s.readSources st []).1.special st n.toNat = none from State.special_without_levels (by omega) hl]
      exact if_neg (by omega)
  · unfold State.strand?
    rw [hstr]
    exact State.strand?_putStrand_of hh

end

theorem swr_illegal {a : GSrc} (hi : Said.IssuesAnyhow s st) (hn : n ≠ 0) :
    Said.Runs (.swr n a) s (s.trap st ⟨1, 0, .ofNat 64 (encode (.swr n a))⟩) := by
  show execSwr n a s = _
  unfold execSwr
  refine State.issue_forbidden hi ?_
  exact if_neg hn

/-- The end of an instruction clears the prefix. -/
theorem Strand.completed_ss (t : Strand) (p : BitVec 56) : (t.completed p).ss = setBits t.ss 8 9 0 := by
  obtain ⟨b, hb⟩ := t.completed_eq p
  rw [hb]
  rfl

theorem swr_writes {a : GSrc} (hi : Said.Issues s st [a.reg.toNat]) : ∃ u t, Said.Runs (.swr 0 a) s u ∧ u.strand? st.handle = some t ∧
    t.ss &&& 0xFFFFFFFFFFFE00FF = Said.ssWritten (s.readSources st [Said.g a]).2.ss (st.gv a.reg) &&& 0xFFFFFFFFFFFE00FF ∧
    t.pc = st.pc + 4 ∧ t.g = st.g ∧ u.mem = s.mem := by
  have hrun : Said.Runs (.swr 0 a) s (Said.completes s st [Said.g a] 4 (fun t => t.writeSs (st.gv a.reg))) := by
    show execSwr 0 a s = _
    unfold execSwr
    refine (State.issue_allowed (srcs := [gsrc a]) hi rfl).trans (congrArg Host.Outcome.next ?_)
    have hpc := s.readSources_pc st [gsrc a]
    show (s.readSources st [gsrc a]).1.putStrand
      (((s.readSources st [gsrc a]).2.writeSs (st.gv a.reg)).completed ((s.readSources st [gsrc a]).2.pc + .ofNat 56 4)) = _
    rw [hpc]
    rfl
  have hh := s.readSources_handle st [Said.g a]
  have hg := s.readSources_g st [Said.g a]
  have hm := (s.readSources_quiet st [Said.g a]).mem
  unfold Said.completes Said.completesAt at hrun
  generalize s.readSources st [Said.g a] = r at hrun hh hg hm ⊢
  refine ⟨_, _, hrun, State.strand?_putStrand_of ((Strand.completed_handle _ _).trans hh), ?_, Strand.completed_pc _ _,
    (Strand.completed_g _ _).trans hg, hm⟩
  rw [Strand.completed_ss]
  exact swr_ss r.2.ss (st.gv a.reg)

end

end Sys2Proof.Machine
end

section
/-! SUPPORT. O52: the handle forms (spec/18 R379, spec/11 R230), and the obligation. -/

namespace Sys2Proof.Machine

/-! ### The parts of an image, by selector -/

section
variable {v : Strand} {n : Nat} (free : Word)

theorem Strand.selected_g {r : GReg} (hn : n = r.toNat) (hf : (v.rc r.toNat).st = .full) : v.selected n free = v.gv r := by
  have hr : n < 16 := hn ▸ r.isLt
  have hrr : BitVec.ofNat 4 n = r := by rw [hn, BitVec.ofNat_toNat, BitVec.setWidth_eq]
  rw [Strand.selected, if_pos hr, if_pos (by rw [hn, hf]; rfl), hrr]

theorem Strand.selected_x (k : Fin 8) (hn : n = 16 + k.val) : v.selected n free = v.x[k] := by
  have hk := k.isLt
  subst hn
  rw [Strand.selected, if_neg (by omega), if_pos (by omega), Nat.add_sub_cancel_left, Strand.xv]
  simp

theorem Strand.selected_w {k : WReg} {j : Nat} (hj : j < 4) (hn : n = 32 + 4 * k.toNat + j) (hf : (v.rc (16 + k.toNat)).st = .full) :
    v.selected n free = (v.wv k).extractLsb' (64 * j) 64 := by
  have hdiv : (n - 32) / 4 = k.toNat := by omega
  have hmod : (n - 32) % 4 = j := by omega
  have hkk : BitVec.ofNat 3 k.toNat = k := by rw [BitVec.ofNat_toNat, BitVec.setWidth_eq]
  rw [Strand.selected, if_neg (by omega), if_neg (by omega), if_neg (by omega), if_neg (by omega), if_neg (by omega), if_neg (by omega)]
  dsimp only
  rw [hdiv, hmod, hf, hkk, beq_self_eq_true, if_pos rfl]
  refine BitVec.eq_of_toNat_eq ?_
  rw [BitVec.toNat_ofNat, bits, Nat.mod_mod, BitVec.extractLsb'_toNat, Nat.shiftRight_eq_div_pow]

theorem Strand.store_g {r : GReg} (hn : n = r.toNat) (x : Word) : v.store n x = v.setG r x := by
  have hr : n < 16 := hn ▸ r.isLt
  have hrr : BitVec.ofNat 4 n = r := by rw [hn, BitVec.ofNat_toNat, BitVec.setWidth_eq]
  rw [Strand.store, if_pos hr, hrr]

theorem Strand.store_x {k : Nat} (hk : k < 8) (hn : n = 16 + k) (x : Word) : v.store n x = v.setX k x := by
  rw [Strand.store, if_neg (by omega), if_pos (by omega), hn, Nat.add_sub_cancel_left]

/-- The PC's bit 0 is not stored. -/
theorem Strand.store_pc (v : Strand) (x : Word) : v.store 24 x = { v with pc := x.truncate 56 &&& ~~~1 } := by
  have hpc : BitVec.ofNat 56 (x.toNat / 2 * 2) = x.truncate 56 &&& ~~~1 := by
    have hm : ∀ i < 56, (~~~1#56).getLsbD i = decide (1 ≤ i) := by decide
    refine BitVec.eq_of_getLsbD_eq fun i hi => ?_
    have hm' : (~~~(1 : BitVec 56)).getLsbD i = decide (1 ≤ i) := hm i hi
    rw [BitVec.getLsbD_ofNat, decide_eq_true hi, Bool.true_and, BitVec.getLsbD_and, hm', BitVec.truncate, BitVec.getLsbD_setWidth,
      decide_eq_true hi, Bool.true_and]
    cases i with
    | zero => simp
    | succ i =>
      rw [Nat.testBit_succ, Nat.mul_div_cancel _ (by decide : 0 < 2), ← Nat.testBit_succ, decide_eq_true (Nat.le_add_left 1 i), Bool.and_true]
      rfl
  show ({ v with pc := .ofNat 56 (x.toNat / 2 * 2) } : Strand) = _
  rw [hpc]

theorem Strand.store_ss (v : Strand) (x : Word) : v.store 25 x = { v with ss := Said.ssWrittenByHandle v.ss x } :=
  v.writeSsHandle_eq x

theorem Strand.store_states (v : Strand) (x : Word) : (v.store 26 x).g = v.g ∧ (v.store 26 x).w = v.w ∧
    ∀ k, k < 24 → ((v.store 26 x).rc k).st = v.codeState k (x.toNat / 2 ^ (2 * k) % 4) := by
  obtain ⟨c, he, hr⟩ := v.setStates_spec x.toNat 24
  have he' : v.store 26 x = { v with ctl := c } := he
  rw [he']
  exact ⟨rfl, rfl, fun k hk => by rw [hr k hk, if_pos hk]; rfl⟩

theorem Strand.store_w {k : WReg} {j : Nat} (hj : j < 4) (hn : n = 32 + 4 * k.toNat + j) (x : Word) : v.store n x =
    v.setW k (.ofNat 256 (Said.field (if (v.rc (16 + k.toNat)).st = .full then (v.wv k).toNat else 0) (64 * j) 64 x.toNat)) := by
  have hdiv : (n - 32) / 4 = k.toNat := by omega
  have hmod : (n - 32) % 4 = j := by omega
  have hkk : BitVec.ofNat 3 k.toNat = k := by rw [BitVec.ofNat_toNat, BitVec.setWidth_eq]
  rw [Strand.store, if_neg (by omega), if_neg (by omega), if_neg (by omega), if_neg (by omega), if_neg (by omega), hdiv, hmod,
    Strand.setDword, hkk]
  simp only [replace_eq_field, beq_iff_eq]

end

/-! ### SRD and SWR of a trapped strand's image -/

section
variable {s : State} {st v : Strand} {d : GReg} {a : GSrc} {n : BitVec 6} (hi : Said.Issues s st [a.reg.toNat])
include hi

theorem srdHandle_illegal (hsel : selectorReads n.toNat = false) :
    Said.Runs (.srdHandle d a n) s (s.trap st ⟨1, 0, .ofNat 64 (encode (.srdHandle d a n))⟩) := by
  show execSrdHandle d a n s = _
  unfold execSrdHandle
  refine State.issue_forbidden (Said.Issues.anyhow hi) ?_
  exact if_neg (by rw [hsel]; decide)

variable (hacq : (st.rc a.reg.toNat).acq = none) (hsel : selectorReads n.toNat = true)
include hacq hsel

theorem srdHandle_unnamed (hn : s.mayName st (st.gv a.reg) = none) :
    Said.Runs (.srdHandle d a n) s (s.trap st ⟨7, st.gv a.reg, 0⟩) := by
  show execSrdHandle d a n s = _
  unfold execSrdHandle
  refine (State.issue_allowed (srcs := [gsrc a]) hi (if_pos hsel)).trans (congrArg Host.Outcome.next ?_)
  rw [State.readSources_none s st [gsrc a] (by simpa [gsrc] using hacq)]
  simp only [hn]
  rfl

theorem srdHandle_fills (htake : a.take = false) (hn : Said.named s st v (st.gv a.reg)) : Said.Runs (.srdHandle d a n) s
    ((s.putStrand ((st.await d.toNat s.fresh).completed (st.pc + 4))).send
      (.fill st.handle d.toNat s.fresh (v.selected n.toNat (Config.freeWord s.fresh)).toNat none none)) := by
  show execSrdHandle d a n s = _
  unfold execSrdHandle
  refine (State.issue_allowed (srcs := [gsrc a]) hi (if_pos hsel)).trans (congrArg Host.Outcome.next ?_)
  rw [State.readSources_none s st [gsrc a] (by simpa [gsrc] using hacq)]
  simp only [State.mayName_of_named hn, gsrc, htake, List.filter_cons, List.filter_nil, Bool.false_eq_true, ↓reduceIte, List.foldl_nil]
  rfl

end

section
variable {s : State} {st v : Strand} {r : GReg} {a : GSrc} {n : BitVec 6} (hi : Said.Issues s st [a.reg.toNat, r.toNat])
include hi

theorem swrHandle_illegal (hsel : selectorWrites n.toNat = false) :
    Said.Runs (.swrHandle r n a) s (s.trap st ⟨1, 0, .ofNat 64 (encode (.swrHandle r n a))⟩) := by
  show execSwrHandle r n a s = _
  unfold execSwrHandle
  refine State.issue_forbidden (Said.Issues.anyhow hi) ?_
  exact if_neg (by rw [hsel]; decide)

variable (hacq : (st.rc a.reg.toNat).acq = none) (hacqr : (st.rc r.toNat).acq = none) (hsel : selectorWrites n.toNat = true)
include hacq hacqr hsel

theorem swrHandle_unnamed (hn : s.mayName st (st.gv r) = none) :
    Said.Runs (.swrHandle r n a) s (s.trap st ⟨7, st.gv r, 0⟩) := by
  show execSwrHandle r n a s = _
  unfold execSwrHandle
  refine (State.issue_allowed (srcs := [gsrc a, (r.toNat, false)]) hi (if_pos hsel)).trans (congrArg Host.Outcome.next ?_)
  rw [State.readSources_none s st _ (by simp [gsrc, hacq, hacqr])]
  simp only [hn]
  rfl

theorem swrHandle_stores (htake : a.take = false) (hn : Said.named s st v (st.gv r)) : Said.Runs (.swrHandle r n a) s
    ((s.putStrand (v.store n.toNat (st.gv a.reg))).putStrand (st.completed (st.pc + 4))) := by
  show execSwrHandle r n a s = _
  unfold execSwrHandle
  refine (State.issue_allowed (srcs := [gsrc a, (r.toNat, false)]) hi (if_pos hsel)).trans (congrArg Host.Outcome.next ?_)
  rw [State.readSources_none s st _ (by simp [gsrc, hacq, hacqr])]
  simp only [State.mayName_of_named hn, gsrc, htake, List.filter_cons, List.filter_nil, Bool.false_eq_true, ↓reduceIte, List.foldl_nil]
  rfl

end

theorem selectorReads_iff (n : Nat) : selectorReads n = true ↔ n < 28 ∨ 32 ≤ n := by simp [selectorReads]
theorem selectorWrites_iff (n : Nat) : selectorWrites n = true ↔ n < 27 ∨ 32 ≤ n := by
  simp only [selectorWrites, Bool.and_eq_true, selectorReads_iff, bne_iff_ne]
  omega

/-- Settles O52: each register's contents, the limits of SRD and SWR, and the parts of a trapped strand's image by selector. -/
theorem specialRegistersReadAndWrite : Obligations.SpecialRegistersReadAndWrite := by
  unfold Obligations.SpecialRegistersReadAndWrite
  refine ⟨fun s st d n => ⟨srd_illegal, fun hi v hv => ?_, fun hi l hl _ k hk => ⟨fun hn => ?_, fun hn => ?_⟩, fun hi hl => srd_asks hi hl⟩,
    fun s st n a => ⟨fun hn hi => swr_illegal hi hn, fun hn hi => ?_⟩, fun s st v d a n hi hacq htake => ⟨fun h1 h2 => ?_, fun hsel => ?_⟩,
    fun s st v r a n hi hacq hacqr htake => ⟨fun h1 h2 => ?_, fun hsel => ?_⟩⟩
  · obtain ⟨hle, hsp⟩ := State.special_of_specialOf hv
    exact srd_reads hi (by simp [specialAssigned, hle]) hsp
  · have h := srd_index (d := d) hi hl hk hn
    cases hx : l[k]? <;> rw [hx] at h <;> exact h
  · have h := srd_count (d := d) hi hl hk hn
    cases hx : l[k]? <;> rw [hx] at h <;> exact h
  · subst hn
    exact swr_writes hi
  · refine srdHandle_illegal hi (Bool.eq_false_iff.mpr fun h => ?_)
    have := (selectorReads_iff _).mp h
    omega
  · have hsel' := (selectorReads_iff _).mpr hsel
    refine ⟨fun hn hh => srdHandle_unnamed hi hacq hsel' (State.mayName_of_unnamed hn hh), fun hn => ?_⟩
    have hf := srdHandle_fills (d := d) hi hacq hsel' htake hn
    refine ⟨fun r hr hfull => ?_, fun k hk => ?_, fun h => ?_, fun h => ?_, fun h => ?_, fun h => ?_, fun k j hj hk hfull => ?_⟩
    · exact Strand.selected_g (Config.freeWord s.fresh) hr hfull ▸ hf
    · exact Strand.selected_x (Config.freeWord s.fresh) k hk ▸ hf
    · rw [h] at hf
      exact hf
    · rw [h] at hf
      exact hf
    · rw [h] at hf
      exact hf
    · rw [h] at hf
      obtain ⟨hlt, hdig⟩ := v.rst_spec
      have hmod : v.rst % 2 ^ 64 = v.rst := Nat.mod_eq_of_lt (by omega)
      refine ⟨.ofNat 64 v.rst, hf, fun r hr => ?_, by rw [BitVec.toNat_ofNat, hmod]; exact hlt⟩
      rw [stateCode_eq, ← hdig r hr]
      refine BitVec.eq_of_toNat_eq ?_
      rw [BitVec.extractLsb'_toNat, BitVec.toNat_ofNat, hmod, Nat.shiftRight_eq_div_pow, BitVec.toNat_ofNat, Nat.mod_mod]
    · exact Strand.selected_w (Config.freeWord s.fresh) hj hk hfull ▸ hf
  · refine swrHandle_illegal hi (Bool.eq_false_iff.mpr fun h => ?_)
    have := (selectorWrites_iff _).mp h
    omega
  · have hsel' := (selectorWrites_iff _).mpr hsel
    refine ⟨fun hn hh => swrHandle_unnamed hi hacq hacqr hsel' (State.mayName_of_unnamed hn hh), fun hn => ?_⟩
    have hf := swrHandle_stores hi hacq hacqr hsel' htake hn
    refine ⟨fun k hk => ?_, fun k hk8 hk => ?_, fun h => ?_, fun h => ?_, fun h => ?_, fun k j hj hk => ?_⟩
    · exact Strand.store_g hk (st.gv a.reg) ▸ hf
    · rw [Strand.store_x hk8 hk] at hf
      exact hf
    · rw [h, Strand.store_pc] at hf
      exact hf
    · rw [h, Strand.store_ss] at hf
      exact hf
    · rw [h] at hf
      obtain ⟨hg, hw, hst⟩ := v.store_states (st.gv a.reg)
      refine ⟨_, hf, hg, hw, fun k hk => (hst k hk).trans ?_⟩
      rw [attachedTo_eq]
      generalize (st.gv a.reg).toNat / 2 ^ (2 * k) % 4 = c
      obtain _ | _ | _ | c := c <;> rfl
    · exact Strand.store_w hj hk (st.gv a.reg) ▸ hf

end Sys2Proof.Machine
end

section
/-! SUPPORT. O42: the answer to a read reaches its register (spec/06 R93, spec/07 R121, spec/16 R320); the obligation fails for a size that no load has. -/

namespace Sys2Proof.Machine

/-! ### Fills (spec/06 R93, spec/07 R121) -/

/-- A fill reaches the register's control and value, and nothing else of the strand. -/
theorem Strand.takeFill_keeps (t : Strand) (r tag v : Nat) (acq : Option (BitVec 4)) (loss : Option Loss) :
    (t.takeFill r tag v acq loss).handle = t.handle ∧ (t.takeFill r tag v acq loss).status = t.status := by
  have hcode (x : Strand) (w : Nat) : (x.setCode r w).handle = x.handle ∧ (x.setCode r w).status = x.status := by
    unfold Strand.setCode
    split <;> exact ⟨rfl, rfl⟩
  unfold Strand.takeFill
  dsimp only
  split
  · exact hcode _ _
  · exact ⟨rfl, rfl⟩

/-- A strand that is not Evicted joins no resume list. -/
theorem State.rejoin_of_not_evicted {s : State} {h : BitVec 64} {st : Strand} (hs : s.strand? h = some st) (he : st.status ≠ .evicted) :
    s.rejoin h = s := by
  have hb : (st.status == .evicted) = false := beq_eq_false_iff_ne.mpr he
  simp only [State.rejoin, hs, hb, Bool.false_and, Bool.false_eq_true, ↓reduceIte]

theorem State.fillReg_eq {s : State} {h : BitVec 64} {st : Strand} (hs : s.strand? h = some st) (hh : st.handle = h)
    (he : st.status ≠ .evicted) (reg tag v : Nat) (acq : Option (BitVec 4)) (loss : Option Loss) :
    s.fillReg h reg tag v acq loss = s.putStrand (st.takeFill reg tag v acq loss) := by
  obtain ⟨hhandle, hstatus⟩ := st.takeFill_keeps reg tag v acq loss
  have hput := State.strand?_putStrand_of (s := s) (hhandle.trans hh)
  rw [State.fillReg, hs]
  exact State.rejoin_of_not_evicted hput (hstatus ▸ he)

section
variable {s : State} {n reg tag : Nat} {h : BitVec 64} {st : Strand}

theorem read_reaches {size v item : Nat} {sg : Bool} {va : Word} {fail : Option (Nat × Word)}
    (hm : s.msg? n = some (.readDone (.reg h reg tag size sg none) va v fail item)) (hs : s.strand? h = some st) (hh : st.handle = h)
    (he : st.status ≠ .evicted) : Said.Runs (.fill n) s ({ s.unsend n with items := FMap.erase s.items item }.putStrand
      (st.takeFill reg tag (loadValue sg size v) none (fail.map (lossOf va)))) := by
  show execFill n s = _
  rw [execFill, hm]
  exact congrArg Host.Outcome.next (State.fillReg_eq (s := (s.unsend n).itemDone item) hs hh he reg tag _ none _)

end

/-! ### An answer of 16 bytes to a signed load

The obligation lets a load have any size. Of one of more than 8 bytes, 32 apart, the model's extension and the statement's differ: the model
adds 2^64 - 2^(8 * size), which is no number; the statement's BitVec of 8 * size bits is cut to 64 (spec/16 R320 has no such load). -/

/-- A strand of which g3 awaits the answer that carries tag 1. -/
def strandAwaitingG3 : Strand :=
  { newStrand 77 0 (gInit []) 3 5 0 0 ⟨0, 0, 0, 0⟩ 0 .fresh with
    status := .ready, ctl := (Vector.replicate 24 RegCtl.reset).setIfInBounds 3 { RegCtl.reset with st := .awaiting, owed := 1, tag := 1 } }

/-- That strand, and on its way to it the answer to a signed load of 16 bytes, of which bits 127, 2 and 0 are set. -/
def stateAnswering16 : State :=
  { State.reset.putStrand strandAwaitingG3 with
    msgs := [(50, .readDone (.reg 77 3 1 16 true none) 0 (2 ^ 127 + 5) none 40)] }

theorem loadValue_16 : loadValue true 16 (2 ^ 127 + 5) = 0 := by decide
theorem loaded_16 : Said.loaded true 16 (2 ^ 127 + 5) = 5 := by decide

/-- The value of g3 after its fill. -/
theorem strandAwaitingG3_filled (v : Nat) : (strandAwaitingG3.takeFill 3 1 v none none).gv 3 = .ofNat 64 v := by
  rw [show (3 : Nat) = (3 : GReg).toNat from rfl, Strand.takeFill_latest (r := 3) (tag := 1) rfl rfl]
  rfl

/-- Refutes O42: the answer to a signed load of 16 bytes, of which bits 127, 2 and 0 are set, leaves 0 in its register; the statement
has 5 there. -/
theorem not_strandsMoveBetweenDocks : ¬ Obligations.StrandsMoveBetweenDocks := by
  unfold Obligations.StrandsMoveBetweenDocks
  rintro ⟨-, hread, -⟩
  have hm : stateAnswering16.msg? 50 = some (.readDone (.reg 77 3 1 16 true none) 0 (2 ^ 127 + 5) none 40) := rfl
  have hs : stateAnswering16.strand? 77 = some strandAwaitingG3 := rfl
  have hsaid := hread stateAnswering16 50 3 1 16 (2 ^ 127 + 5) 40 77 0 true strandAwaitingG3 none hm hs rfl (by decide)
  have hruns := read_reaches hm hs rfl (by decide)
  have he := congrArg (State.strand? · 77) (Host.Outcome.next.inj (hsaid.symm.trans hruns))
  have hput (u : State) (v : Nat) : (u.putStrand (strandAwaitingG3.takeFill 3 1 v none none)).strand? 77 =
      some (strandAwaitingG3.takeFill 3 1 v none none) :=
    State.strand?_putStrand_of (strandAwaitingG3.takeFill_keeps 3 1 v none none).1
  have hg := congrArg (Strand.gv · 3) (Option.some.inj (((hput _ _).symm.trans he).trans (hput _ _)))
  simp only [strandAwaitingG3_filled, loadValue_16, loaded_16] at hg
  exact absurd hg (by decide)

end Sys2Proof.Machine
end

section
/-! SUPPORT. O50: a supervisor handler whose trap ends it and its victim (spec/11 R208, R209, spec/18 R372). -/

namespace Sys2Proof.Machine

/-! ### A handler whose handle its victim's child takes

The obligation says of a SPAWN that traps on a DataLoss that the strand under its handle keeps the reservation, if there is one. A trap of a
supervisor handler ends it and its victim, and the child that the victim reserved is released; nothing in the statement keeps that child's
handle from being the one the handler had. -/

/-- A Trapped strand of job 0 with a reservation for a child of SID 77, whose handle will be 77. -/
def victimWithChild77 : Strand :=
  { newStrand 78 0 (gInit []) 0 0 0 0 ⟨0, 0, 0, 0⟩ 0 .fresh with status := .trapped, phase := .spawn 77 0 none 0 .acked }

/-- Its supervisor handler, of handle 77, at the completing issue of a SPAWN that passes g2, which carries a DataLoss. -/
def supSpawning : Strand :=
  { newStrand 77 0 (gInit []) 0 0 0 0 ⟨0, 0, 0, 0⟩ 0 .fresh with
    status := .ready, hkind := .sup, victim := 78, phase := .spawn 5 0 none 0 .acked,
    x := (Vector.replicate 8 0).setIfInBounds 0 0x10002,
    ctl := (Vector.replicate 24 RegCtl.reset).setIfInBounds 2 { RegCtl.reset with loss := some ⟨0, 0⟩ } }

/-- The two of them after reset; the handler issues. -/
def stateSupSpawning : State :=
  { (State.reset.putStrand victimWithChild77).putStrand supSpawning with cur := some 77 }

theorem stateSupSpawning_issues : Said.Issues stateSupSpawning supSpawning [1] := by
  unfold Said.Issues
  decide +kernel

/-- After the trap, the strand of handle 77 is the victim's child. -/
theorem stateSupSpawning_trap :
    ((stateSupSpawning.trap supSpawning ⟨9, 0, 0⟩).strand? 77).map (fun v => (v.phase, v.hkind)) = some (.none, .none) := by
  decide +kernel

/-- Refutes O50: when a supervisor handler traps at the completing issue of its SPAWN, its victim's child takes its handle, and that child has
no reservation. -/
theorem not_strandsAreSpawnedJoinedAndEnded : ¬ Obligations.StrandsAreSpawnedJoinedAndEnded := by
  unfold Obligations.StrandsAreSpawnedJoinedAndEnded Said.spawnCreatesOneChild
  rintro ⟨hspawn, -⟩
  obtain ⟨-, -, -, hloss, -⟩ := hspawn stateSupSpawning supSpawning 0 ⟨1, false⟩ none stateSupSpawning_issues (by decide)
  obtain ⟨-, hkeeps⟩ := hloss 5 0 none 0 0 ⟨0, 0⟩ rfl (by decide) (by decide) (by decide) (by decide) rfl
  obtain ⟨v, hv, hphase⟩ := Option.map_eq_some_iff.mp stateSupSpawning_trap
  have hsaid := hkeeps (by decide +kernel) (by decide +kernel) v hv
  rw [(Prod.mk.inj hphase).1] at hsaid
  cases hsaid

end Sys2Proof.Machine
end
